-- ==== Sys2Proof/Syntax.lean ====
section
/-!
DEFINITION. The instructions of the CH1280-A: one constructor for each row of spec/opcode_table.json, in its
order. The first 158 are the instruction words (R96–R104), their fields as the encoding has them; then come
the engine commands (R115) and the events, steps of the units that no word encodes, each with the operands that
say which of the pending things it is and, where it comes from outside the module, what it carries.
-/

namespace Sys2Proof

/-- Data read by the patrol scrubber: the address scrubbed and what the check bits say of it (R439, R440). -/
inductive ScrubFinding where
  | clean | correctable | uncorrectable
  deriving DecidableEq, Repr

/-- What the patrol scrubber looks at, and what it finds there (R440). `addr` is an offset of core `core`'s
scratchpad, or a physical address of a home line or an HBM line. -/
inductive ScrubCheck where
  | scratch (core addr : Nat) (finding : ScrubFinding)
  | homeLine (pa : Nat) (finding : ScrubFinding)
  | hbmLine (pa : Nat) (finding : ScrubFinding)
  deriving DecidableEq, Repr

/-- A capsule arriving over Phoup for a crossing step (R315): where it lands, the launch that receives it, the
membership it names and its image, word by word, with the index of each tile word that arrived poisoned and
whether a header, manifest or resume part did. -/
structure CapsuleArrival where
  core : Nat
  launch : BitVec 32
  mid : BitVec 16
  image : List (BitVec 32)
  poisonedWords : List Nat
  partPoisoned : Bool
  deriving DecidableEq, Repr

/-- One chunk record of a collective contribution (R423): 16 means, 16 M2 words, a count, and the 12 bytes behind
them, which cle.bc delivers with the rest; and which of its 36 words are poisoned. -/
structure Chunk where
  mean : List (BitVec 32)
  m2 : List (BitVec 32)
  count : BitVec 32
  tail : BitVec 96
  marks : List Nat
  deriving DecidableEq, Repr

/-- A member's command for an instance of a collective, as it arrives from a peer module (R422, R425): its
command code, element count and data, chunk by chunk; `bitmap` holds the ranks of a cle.msk. `turn` counts the member's
commands for the identifier, `mask` holds the ranks that its instance waits for, and `more` says that chunks are still to
come. -/
structure LeafArrival where
  ctag : BitVec 4
  coll : BitVec 16
  rank : Nat
  code : BitVec 8
  elems : BitVec 32
  chunks : List (Option Chunk)
  bitmap : List Nat
  turn : Nat
  mask : List Nat
  more : Bool := false
  deriving DecidableEq, Repr

/-- What a request of a peer asks of this module's HBM (R407). -/
inductive PeerOp where
  | read (n : Nat)
  | write (n : Nat) (data : BitVec 64)
  | amo (op : BitVec 4) (data : BitVec 64)
  | cas (n : Nat) (expected data : BitVec 64)
  deriving DecidableEq, Repr

/-- The data part of a flit. The spec gives the route header and the size of the data (R404, R411), not the
layout of a request, a response or a control flit: the content stands here as plain data. Of a collective's leaf a flit carries
the words 11·`part` to 11·`part` + 10 of the one chunk that `leaf` lists, or of its bitmap (log entry 164). -/
inductive FlitBody where
  | request (ident : Nat) (pa : BitVec 52) (op : PeerOp)
  | response (ident : Nat) (value : BitVec 64)
  | data
  | collective (part : Nat) (leaf : LeafArrival)
  | leave (rank : Nat)
  | traveller (capsule : BitVec 64) (core : Nat) (launch : BitVec 32) (part : Nat)
  | landing (ident core : Nat) (launch : BitVec 32)
  | replay (expected : BitVec 12)
  | control
  deriving DecidableEq, Repr

/-- A Phoup flit (R404) with its route header (R411). `crcGood` says whether its CRC-32 is good. -/
structure Flit where
  type : BitVec 8
  poison : Bool
  seq : BitVec 12
  ack : BitVec 12
  credit : BitVec 16
  mid : BitVec 16
  dest : BitVec 16
  source : BitVec 16
  hops : BitVec 8
  crcGood : Bool
  body : FlitBody
  deriving DecidableEq, Repr

/-- The host's answer to an ATS translation request (R397): the page, and its physical address and rights, or
nothing where the page is missing or forbidden. -/
structure AtsAnswer where
  pasid : BitVec 20
  va : BitVec 57
  page : Option (BitVec 52 × BitVec 3)
  deriving DecidableEq, Repr

/-- What bring-up finds (R452): which firmware slot verifies, whether an HBM stack or the die-to-die links fail
training, the cores, Phoup lanes and stack-unit banks that fail. -/
structure BringUpReport where
  stackFails : Bool
  dieLinksFail : Bool
  failedCores : List Nat
  degradedPorts : List Nat
  failedBanks : List (Nat × Nat × Nat)
  deriving DecidableEq, Repr

/-- A peak reading of one powered hour (R461): a cluster's temperature and voltage, or a stack's temperature. -/
inductive HourPeak where
  | cluster (c celsius millivolts : Nat)
  | stack (s celsius : Nat)
  deriving DecidableEq, Repr

/-- The instruction set: the words, the engine commands and the events of the opcode table. -/
inductive Instr where
  /-- Environment call: the slot leaves rotation unretired, enters trapped and sends a trap record. (R238) -/
  | trap (ra : BitVec 6) (imm : BitVec 12)
  /-- The pilot resumes a trapped slot, optionally skipping its instruction, and delivers its deferred inbox elements. (R239) -/
  | tret (ra : BitVec 6) (s : BitVec 1)
  /-- The slot ends its reservation and parks under a key until a matching wake, a q0 element or a trap record arrives. (R250) -/
  | park (ra : BitVec 6)
  /-- The pilot reads a register of a trapped, halted or parked sibling slot. (R240) -/
  | xrd (rd : BitVec 6) (ra : BitVec 6) (rb : BitVec 6)
  /-- The pilot writes a register of a trapped, halted or parked sibling slot. (R240) -/
  | xwr (gv : BitVec 6) (ra : BitVec 6) (rb : BitVec 6)
  /-- The pilot reads a system register into gd. (R242) -/
  | sysrd (rd : BitVec 6) (n : BitVec 12)
  /-- The pilot writes a system register; this row covers writes to registers that have no row of their own. (R242) -/
  | syswr (ra : BitVec 6) (n : BitVec 12)
  /-- Loads a segment register from the launch's segment table, choosing the image by the group's version for a versioned entry. (R245) -/
  | segld (s : BitVec 3) (ra : BitVec 6)
  /-- The pilot loads a segment register from a 16-byte image in memory. (R245) -/
  | segldImg (s : BitVec 3) (ra : BitVec 6)
  /-- Invalidates the instruction-cache lines of the thread's context tag so that later fetches see earlier stores. (R247) -/
  | ifence
  /-- Reads cir into gd and, with .clr, clears exactly the sticky bits that it reported. (R248) -/
  | chkerr (rd : BitVec 6) (c : BitVec 1)
  /-- Returns from an inline call, or ends the thread after its commands complete and empties the slot. (R259) -/
  | quit
  /-- Sends a 64-bit message to q0 of a slot or q1 of a core and waits for the target's reply. (R254) -/
  | send (rd : BitVec 6) (ra : BitVec 6) (rb : BitVec 6)
  /-- Fences at the level's cores and waits until every member of the crew, squad or band has arrived. (R255) -/
  | bar (rd : BitVec 6) (lvl : BitVec 2)
  /-- The pilot restores a docked or spilled slot image into an empty slot. (R264) -/
  | dockIn (rd : BitVec 6) (ra : BitVec 6) (rb : BitVec 6)
  /-- The pilot resolves a slot's waits and engines and saves its image to the dock under a handle, spilling if needed. (R263) -/
  | dockOut (rd : BitVec 6) (ra : BitVec 6) (rb : BitVec 6)
  /-- Starts a child thread on a named core, or on refusal performs an inline call. (R257) -/
  | spawn (rd : BitVec 6) (ra : BitVec 6) (rb : BitVec 6)
  /-- Submits a 64-byte task record to a cluster's task queue bank or its overflow ring. (R260) -/
  | tsub (rd : BitVec 6) (ra : BitVec 6) (rb : BitVec 6)
  /-- Takes the oldest record of the thread's launch from the cluster's task queue bank without waiting. (R261) -/
  | tget (rd : BitVec 6) (ra : BitVec 6)
  /-- Completes an outstanding task record. (R262) -/
  | tdone (rd : BitVec 6) (ra : BitVec 6)
  /-- Breakpoint: traps with a record, or halts the slot when dbgctl.bhalt is set. (R238) -/
  | brk (n : BitVec 6)
  /-- Kills a slot, discarding its state and sending a running capsule step to the harbour. (R252) -/
  | kill (rd : BitVec 6) (ra : BitVec 6)
  /-- Wakes a slot or capsule parked with a key, or resends a harbour entry. (R251) -/
  | wake (rd : BitVec 6) (ra : BitVec 6) (rb : BitVec 6)
  /-- Halts a slot at its next instruction boundary or as its wait allows. (R252) -/
  | halt (rd : BitVec 6) (ra : BitVec 6)
  /-- Continues a halted slot, optionally for a single step. (R253) -/
  | cont (rd : BitVec 6) (ra : BitVec 6) (s : BitVec 1)
  /-- Integer addition modulo 2^64. (R129) -/
  | add (rd : BitVec 6) (ra : BitVec 6) (rb : BitVec 6)
  /-- Integer subtraction modulo 2^64. (R129) -/
  | sub (rd : BitVec 6) (ra : BitVec 6) (rb : BitVec 6)
  /-- Low 64 bits of the product. (R129) -/
  | mul (rd : BitVec 6) (ra : BitVec 6) (rb : BitVec 6)
  /-- High 64 bits of the signed 128-bit product. (R129) -/
  | mulh (rd : BitVec 6) (ra : BitVec 6) (rb : BitVec 6)
  /-- High 64 bits of the unsigned 128-bit product. (R129) -/
  | mulhu (rd : BitVec 6) (ra : BitVec 6) (rb : BitVec 6)
  /-- Signed division rounded toward zero, with defined edge cases. (R130) -/
  | div (rd : BitVec 6) (ra : BitVec 6) (rb : BitVec 6)
  /-- Unsigned division rounded toward zero, with defined edge cases. (R130) -/
  | divu (rd : BitVec 6) (ra : BitVec 6) (rb : BitVec 6)
  /-- Signed remainder carrying the dividend's sign. (R130) -/
  | rem (rd : BitVec 6) (ra : BitVec 6) (rb : BitVec 6)
  /-- Unsigned remainder. (R130) -/
  | remu (rd : BitVec 6) (ra : BitVec 6) (rb : BitVec 6)
  /-- Bitwise and. (R129) -/
  | and (rd : BitVec 6) (ra : BitVec 6) (rb : BitVec 6)
  /-- Bitwise or. (R129) -/
  | or (rd : BitVec 6) (ra : BitVec 6) (rb : BitVec 6)
  /-- Bitwise exclusive or. (R129) -/
  | xor (rd : BitVec 6) (ra : BitVec 6) (rb : BitVec 6)
  /-- a and not b. (R129) -/
  | andn (rd : BitVec 6) (ra : BitVec 6) (rb : BitVec 6)
  /-- Logical left shift by b<5:0>. (R129) -/
  | sll (rd : BitVec 6) (ra : BitVec 6) (rb : BitVec 6)
  /-- Logical right shift by b<5:0>. (R129) -/
  | srl (rd : BitVec 6) (ra : BitVec 6) (rb : BitVec 6)
  /-- Arithmetic right shift by b<5:0>. (R129) -/
  | sra (rd : BitVec 6) (ra : BitVec 6) (rb : BitVec 6)
  /-- Signed minimum. (R129) -/
  | min (rd : BitVec 6) (ra : BitVec 6) (rb : BitVec 6)
  /-- Signed maximum. (R129) -/
  | max (rd : BitVec 6) (ra : BitVec 6) (rb : BitVec 6)
  /-- Unsigned minimum. (R129) -/
  | minu (rd : BitVec 6) (ra : BitVec 6) (rb : BitVec 6)
  /-- Unsigned maximum. (R129) -/
  | maxu (rd : BitVec 6) (ra : BitVec 6) (rb : BitVec 6)
  /-- Counts leading zero bits. (R131) -/
  | clz (rd : BitVec 6) (ra : BitVec 6)
  /-- Counts trailing zero bits. (R131) -/
  | ctz (rd : BitVec 6) (ra : BitVec 6)
  /-- Counts set bits. (R131) -/
  | popc (rd : BitVec 6) (ra : BitVec 6)
  /-- Sign-extends the low byte, half or word. (R132) -/
  | sext (rd : BitVec 6) (ra : BitVec 6) (w : BitVec 2)
  /-- Zero-extends the low byte, half or word. (R132) -/
  | zext (rd : BitVec 6) (ra : BitVec 6) (w : BitVec 2)
  /-- Rotate left by b<5:0>. (R129) -/
  | rotl (rd : BitVec 6) (ra : BitVec 6) (rb : BitVec 6)
  /-- Rotate right by b<5:0>. (R129) -/
  | rotr (rd : BitVec 6) (ra : BitVec 6) (rb : BitVec 6)
  /-- Selects ra or rb by a predicate, reading both sources. (R133) -/
  | sel (rd : BitVec 6) (ra : BitVec 6) (rb : BitVec 6) (k : BitVec 4)
  /-- Compares two registers and writes a predicate. (R137) -/
  | cmp (pd : BitVec 4) (ra : BitVec 6) (rb : BitVec 6) (c : BitVec 3)
  /-- Combines two predicates into a third. (R139) -/
  | pl (rd : BitVec 4) (ra : BitVec 4) (rb : BitVec 4) (o : BitVec 2)
  /-- Jumps to a register target and links. (R143) -/
  | jalr (rd : BitVec 6) (ra : BitVec 6)
  /-- Adds a sign-extended 12-bit immediate. (R134) -/
  | addi (rd : BitVec 6) (ra : BitVec 6) (imm : BitVec 12)
  /-- Ands with a sign-extended immediate. (R134) -/
  | andi (rd : BitVec 6) (ra : BitVec 6) (imm : BitVec 12)
  /-- Ors with a sign-extended immediate. (R134) -/
  | ori (rd : BitVec 6) (ra : BitVec 6) (imm : BitVec 12)
  /-- Exclusive-ors with a sign-extended immediate. (R134) -/
  | xori (rd : BitVec 6) (ra : BitVec 6) (imm : BitVec 12)
  /-- Logical left shift by an immediate. (R135) -/
  | slli (rd : BitVec 6) (ra : BitVec 6) (s : BitVec 6)
  /-- Logical right shift by an immediate. (R135) -/
  | srli (rd : BitVec 6) (ra : BitVec 6) (s : BitVec 6)
  /-- Arithmetic right shift by an immediate. (R135) -/
  | srai (rd : BitVec 6) (ra : BitVec 6) (s : BitVec 6)
  /-- Compares a register with an immediate and writes a predicate. (R138) -/
  | cmpi (c : BitVec 2) (pd : BitVec 4) (ra : BitVec 6) (imm : BitVec 12)
  /-- Loads a sign-extended byte. (R146) -/
  | ldB (rd : BitVec 6) (ra : BitVec 6) (imm : BitVec 12)
  /-- Loads a zero-extended byte. (R146) -/
  | ldBu (rd : BitVec 6) (ra : BitVec 6) (imm : BitVec 12)
  /-- Loads a sign-extended half. (R146) -/
  | ldH (rd : BitVec 6) (ra : BitVec 6) (imm : BitVec 12)
  /-- Loads a zero-extended half. (R146) -/
  | ldHu (rd : BitVec 6) (ra : BitVec 6) (imm : BitVec 12)
  /-- Loads a sign-extended word. (R146) -/
  | ldW (rd : BitVec 6) (ra : BitVec 6) (imm : BitVec 12)
  /-- Loads a zero-extended word. (R146) -/
  | ldWu (rd : BitVec 6) (ra : BitVec 6) (imm : BitVec 12)
  /-- Loads a doubleword. (R146) -/
  | ldD (rd : BitVec 6) (ra : BitVec 6) (imm : BitVec 12)
  /-- Stores a byte. (R147) -/
  | stB (ra : BitVec 6) (rb : BitVec 6) (imm : BitVec 12)
  /-- Stores a half. (R147) -/
  | stH (ra : BitVec 6) (rb : BitVec 6) (imm : BitVec 12)
  /-- Stores a word. (R147) -/
  | stW (ra : BitVec 6) (rb : BitVec 6) (imm : BitVec 12)
  /-- Stores a doubleword. (R147) -/
  | stD (ra : BitVec 6) (rb : BitVec 6) (imm : BitVec 12)
  /-- Loads a granule and takes a reservation on it, queuing at the home for global addresses. (R154) -/
  | lres (rd : BitVec 6) (ra : BitVec 6) (w : BitVec 1) (o : BitVec 2)
  /-- Stores if the slot still holds the reservation, and always ends the reservation. (R156) -/
  | sres (rd : BitVec 6) (ra : BitVec 6) (rb : BitVec 6) (w : BitVec 1) (o : BitVec 2)
  /-- Indivisible read-operate-write of a doubleword, returning the old value. (R160) -/
  | amo (rd : BitVec 6) (ra : BitVec 6) (rb : BitVec 6) (f : BitVec 4) (o : BitVec 2)
  /-- Compare-and-swap, returning the old value in rd. (R162) -/
  | cas (rd : BitVec 6) (ra : BitVec 6) (rb : BitVec 6) (w : BitVec 1) (o : BitVec 2)
  /-- Waits out of rotation until a granule differs from a value or is written, or the watch times out. (R164) -/
  | wrs (rd : BitVec 6) (ra : BitVec 6) (rb : BitVec 6)
  /-- Waits until the thread's COMBINE stores are visible to the cores of the scope. (R168) -/
  | fence (ra : BitVec 6)
  /-- Waits until every bank-unit command the thread pushed to cores of the scope has executed. (R169) -/
  | fenceB (ra : BitVec 6)
  /-- Alias fence: waits until DIRECT and COMBINE stores and begun write-backs reach the HBM arrays. (R170) -/
  | fenceA (ra : BitVec 6)
  /-- Branches if equal. (R140) -/
  | beq (ra : BitVec 6) (rb : BitVec 6) (o : BitVec 12)
  /-- Branches if not equal. (R140) -/
  | bne (ra : BitVec 6) (rb : BitVec 6) (o : BitVec 12)
  /-- Branches if signed less. (R140) -/
  | blt (ra : BitVec 6) (rb : BitVec 6) (o : BitVec 12)
  /-- Branches if signed greater or equal. (R140) -/
  | bge (ra : BitVec 6) (rb : BitVec 6) (o : BitVec 12)
  /-- Branches if unsigned less. (R140) -/
  | bltu (ra : BitVec 6) (rb : BitVec 6) (o : BitVec 12)
  /-- Branches if unsigned greater or equal. (R140) -/
  | bgeu (ra : BitVec 6) (rb : BitVec 6) (o : BitVec 12)
  /-- Branches if a predicate is 1. (R141) -/
  | bt (k : BitVec 4) (o : BitVec 12)
  /-- Branches if a predicate is 0. (R141) -/
  | bf (k : BitVec 4) (o : BitVec 12)
  /-- Jumps PC-relative. (R142) -/
  | jmp (o : BitVec 18)
  /-- Jumps PC-relative and links. (R142) -/
  | jal (rd : BitVec 6) (o : BitVec 18)
  /-- Writes a sign-extended 18-bit immediate shifted left by 12. (R136) -/
  | lui (rd : BitVec 6) (imm : BitVec 18)
  /-- Writes PC plus a shifted 18-bit immediate. (R136) -/
  | lpc (rd : BitVec 6) (imm : BitVec 18)
  /-- Lane-wise addition. (R176) -/
  | vadd (vd : BitVec 4) (va : BitVec 4) (vb : BitVec 4) (msk : BitVec 3) (gs : BitVec 6) (ty : BitVec 3)
  /-- Lane-wise subtraction. (R176) -/
  | vsub (vd : BitVec 4) (va : BitVec 4) (vb : BitVec 4) (msk : BitVec 3) (gs : BitVec 6) (ty : BitVec 3)
  /-- Lane-wise multiplication. (R176) -/
  | vmul (vd : BitVec 4) (va : BitVec 4) (vb : BitVec 4) (msk : BitVec 3) (gs : BitVec 6) (ty : BitVec 3)
  /-- Lane-wise division. (R176) -/
  | vdiv (vd : BitVec 4) (va : BitVec 4) (vb : BitVec 4) (msk : BitVec 3) (gs : BitVec 6) (ty : BitVec 3)
  /-- Lane-wise fused multiply-add into vd. (R176) -/
  | vfma (vd : BitVec 4) (va : BitVec 4) (vb : BitVec 4) (msk : BitVec 3) (gs : BitVec 6) (ty : BitVec 3)
  /-- Lane-wise fused d − a × b. (R176) -/
  | vfms (vd : BitVec 4) (va : BitVec 4) (vb : BitVec 4) (msk : BitVec 3) (gs : BitVec 6) (ty : BitVec 3)
  /-- Lane-wise minimum. (R176) -/
  | vmin (vd : BitVec 4) (va : BitVec 4) (vb : BitVec 4) (msk : BitVec 3) (gs : BitVec 6) (ty : BitVec 3)
  /-- Lane-wise maximum. (R176) -/
  | vmax (vd : BitVec 4) (va : BitVec 4) (vb : BitVec 4) (msk : BitVec 3) (gs : BitVec 6) (ty : BitVec 3)
  /-- Lane-wise absolute value. (R176) -/
  | vabs (vd : BitVec 4) (va : BitVec 4) (msk : BitVec 3) (ty : BitVec 3)
  /-- Lane-wise negation. (R176) -/
  | vneg (vd : BitVec 4) (va : BitVec 4) (msk : BitVec 3) (ty : BitVec 3)
  /-- Lane-wise correctly rounded square root. (R176) -/
  | vsqrt (vd : BitVec 4) (va : BitVec 4) (msk : BitVec 3) (ty : BitVec 3)
  /-- Lane-wise 2^a. (R176) -/
  | vexp2 (vd : BitVec 4) (va : BitVec 4) (msk : BitVec 3) (ty : BitVec 3)
  /-- Lane-wise bitwise and. (R176) -/
  | vand (vd : BitVec 4) (va : BitVec 4) (vb : BitVec 4) (msk : BitVec 3) (gs : BitVec 6) (ty : BitVec 3)
  /-- Lane-wise bitwise or. (R176) -/
  | vor (vd : BitVec 4) (va : BitVec 4) (vb : BitVec 4) (msk : BitVec 3) (gs : BitVec 6) (ty : BitVec 3)
  /-- Lane-wise exclusive or. (R176) -/
  | vxor (vd : BitVec 4) (va : BitVec 4) (vb : BitVec 4) (msk : BitVec 3) (gs : BitVec 6) (ty : BitVec 3)
  /-- Lane-wise left shift. (R176) -/
  | vshl (vd : BitVec 4) (va : BitVec 4) (vb : BitVec 4) (msk : BitVec 3) (gs : BitVec 6) (ty : BitVec 3)
  /-- Lane-wise logical right shift. (R176) -/
  | vshr (vd : BitVec 4) (va : BitVec 4) (vb : BitVec 4) (msk : BitVec 3) (gs : BitVec 6) (ty : BitVec 3)
  /-- Lane-wise arithmetic right shift. (R176) -/
  | vsra (vd : BitVec 4) (va : BitVec 4) (vb : BitVec 4) (msk : BitVec 3) (gs : BitVec 6) (ty : BitVec 3)
  /-- Converts each active lane between element types. (R178) -/
  | vcvt (vd : BitVec 4) (va : BitVec 4) (msk : BitVec 3) (s : BitVec 1) (c : BitVec 3) (ty : BitVec 3)
  /-- Compares lanes and writes a mask. (R181) -/
  | vcmp (k : BitVec 2) (va : BitVec 4) (vb : BitVec 4) (msk : BitVec 3) (c : BitVec 3) (ty : BitVec 3)
  /-- Combines two mask registers. (R182) -/
  | vm (vd : BitVec 2) (va : BitVec 2) (vb : BitVec 2) (o : BitVec 2)
  /-- Permutes lanes by index. (R183) -/
  | vperm (vd : BitVec 4) (va : BitVec 4) (vb : BitVec 4) (msk : BitVec 3) (ty : BitVec 3)
  /-- Broadcasts a scalar element to active lanes. (R183) -/
  | vbcast (vd : BitVec 4) (msk : BitVec 3) (gs : BitVec 6) (ty : BitVec 3)
  /-- Slides lanes by a signed amount. (R183) -/
  | vslide (vd : BitVec 4) (va : BitVec 4) (msk : BitVec 3) (gs : BitVec 6) (ty : BitVec 3)
  /-- Extracts the lowest active lane into a scalar register. (R184) -/
  | vextr (va : BitVec 4) (msk : BitVec 3) (gs : BitVec 6) (ty : BitVec 3)
  /-- Inserts a scalar element into the lowest active lane. (R184) -/
  | vins (vd : BitVec 4) (msk : BitVec 3) (gs : BitVec 6) (ty : BitVec 3)
  /-- Sums the lanes in the fixed tree into lane 0. (R185) -/
  | vredsum (vd : BitVec 4) (va : BitVec 4) (msk : BitVec 3) (gs : BitVec 6) (ty : BitVec 3)
  /-- Maximum of the lanes in the fixed tree into lane 0. (R185) -/
  | vredmax (vd : BitVec 4) (va : BitVec 4) (msk : BitVec 3) (gs : BitVec 6) (ty : BitVec 3)
  /-- Minimum of the lanes in the fixed tree into lane 0. (R185) -/
  | vredmin (vd : BitVec 4) (va : BitVec 4) (msk : BitVec 3) (gs : BitVec 6) (ty : BitVec 3)
  /-- Writes each active lane's index. (R183) -/
  | viota (vd : BitVec 4) (msk : BitVec 3) (ty : BitVec 3)
  /-- Counts the set bits of a mask. (R182) -/
  | vmcnt (va : BitVec 2) (gs : BitVec 6)
  /-- Index of the lowest set bit of a mask. (R182) -/
  | vfirst (va : BitVec 2) (gs : BitVec 6)
  /-- Contiguous vector load. (R186) -/
  | vld (vd : BitVec 4) (msk : BitVec 3) (gs : BitVec 6) (ty : BitVec 3)
  /-- Contiguous vector store. (R186) -/
  | vst (vd : BitVec 4) (msk : BitVec 3) (gs : BitVec 6) (ty : BitVec 3)
  /-- Strided vector load. (R186) -/
  | vlds (vd : BitVec 4) (msk : BitVec 3) (gs : BitVec 6) (ty : BitVec 3)
  /-- Strided vector store. (R186) -/
  | vsts (vd : BitVec 4) (msk : BitVec 3) (gs : BitVec 6) (ty : BitVec 3)
  /-- Indexed vector gather. (R186) -/
  | vgath (vd : BitVec 4) (va : BitVec 4) (msk : BitVec 3) (gs : BitVec 6) (ty : BitVec 3)
  /-- Indexed vector scatter. (R186) -/
  | vscat (vd : BitVec 4) (va : BitVec 4) (msk : BitVec 3) (gs : BitVec 6) (ty : BitVec 3)
  /-- Pops a port if an unreserved element is present, without waiting. (R194) -/
  | qtry (rd : BitVec 6) (n : BitVec 4) (k : BitVec 4)
  /-- Pushes into a port if an unreserved place is free, without waiting. (R194) -/
  | qoffer (n : BitVec 4) (ra : BitVec 6) (k : BitVec 4)
  /-- Reports a port's unreserved elements and free places. (R194) -/
  | qcnt (rd : BitVec 6) (n : BitVec 4)
  /-- Pops k elements from a port into a vector register. (R195) -/
  | vqpop (vd : BitVec 4) (k : BitVec 4) (n : BitVec 4)
  /-- Pushes k elements of a vector register into a port. (R195) -/
  | vqpush (va : BitVec 4) (k : BitVec 4) (n : BitVec 4)
  /-- Writes a mask register from a scalar. (R182) -/
  | mset (vd : BitVec 2) (gs : BitVec 6)
  /-- Reads a mask register into a scalar. (R182) -/
  | mget (va : BitVec 2) (gs : BitVec 6)
  /-- Packs narrow elements of two registers densely. (R179) -/
  | vpack (vd : BitVec 4) (va : BitVec 4) (vb : BitVec 4) (ty : BitVec 3)
  /-- Unpacks one part of a packed element array into lanes. (R180) -/
  | vunpk (vd : BitVec 4) (va : BitVec 4) (h : BitVec 2) (ty : BitVec 3)
  /-- Requests a grant of accumulator rows for the slot. (R202) -/
  | mshape (rd : BitVec 6) (ra : BitVec 6)
  /-- Pushes a 256-bit command word to its engine's queue, where it is checked and accepted or refused. (R204) -/
  | enq (ra : BitVec 6)
  /-- Pushes a command word and waits for its completion token. (R205) -/
  | enqw (ra : BitVec 6) (rd : BitVec 6)
  /-- Ends a handler: writes the drain row, or returns from a completion handler. (R209) -/
  | drain
  /-- Makes a capsule of a class from a local tile and sends it toward its first step. (R227) -/
  | cnew (rd : BitVec 6) (ra : BitVec 6) (c : BitVec 12)
  /-- Ends a capsule thread step, removes it, coalesces and forwards or ends the capsule. (R230) -/
  | cfwd
  /-- Inserts a future step into the running capsule's manifest. (R228) -/
  | cins (rd : BitVec 6) (ra : BitVec 6) (rb : BitVec 6)
  /-- Deletes a future step of the running capsule. (R228) -/
  | cdel (rd : BitVec 6) (ra : BitVec 6)
  /-- Replaces a future step of the running capsule. (R228) -/
  | crep (rd : BitVec 6) (ra : BitVec 6) (rb : BitVec 6)
  /-- Ends the capsule thread step undone and parks the capsule under a key. (R231) -/
  | cpark (ra : BitVec 6)
  /-- Submits a contribution to a step group, judged against its window and Welford-updated. (R232) -/
  | gacc (rd : BitVec 6) (ra : BitVec 6) (rb : BitVec 6)
  /-- Reads a chosen status word of a step group. (R233) -/
  | gstat (rd : BitVec 6) (ra : BitVec 6) (rb : BitVec 6)
  /-- Closes an open group with n ≥ 1. (R234) -/
  | gclose (rd : BitVec 6) (ra : BitVec 6)
  /-- Flips an applying group: clears the current buffer, advances the step and reopens. (R421) -/
  | gflip (rd : BitVec 6) (ra : BitVec 6)
  /-- Applies a join-journal entry to an open group, advancing it one step. (R429) -/
  | gjoin (rd : BitVec 6) (ra : BitVec 6) (rb : BitVec 6)
  /-- Reads one doubleword of a ring descriptor. (R211) -/
  | ringrd (rd : BitVec 6) (n : BitVec 3) (h : BitVec 1)
  /-- Tile engine accumulates A × B over ring stages and then drains the rows. (R217) -/
  | teMma (core : Nat)
  /-- Zeroes the slot's granted accumulator rows. (R216) -/
  | teZacc (core : Nat)
  /-- Copies contiguous bytes between global memory and the scratchpad. (R213) -/
  | ceCpy (core chunk : Nat)
  /-- Copies strided rows between global memory and the scratchpad. (R213) -/
  | ceStr (core row chunk : Nat)
  /-- Gathers indexed global elements into the scratchpad. (R213) -/
  | ceGth (core : Nat)
  /-- Scatters scratchpad rows to indexed global elements. (R213) -/
  | ceSct (core : Nat)
  /-- Fills a range with a word. (R213) -/
  | ceFill (core chunk : Nat)
  /-- Loads a ring register from a scratchpad image. (R212) -/
  | ceRld (core : Nat)
  /-- Stores a ring register's image to the scratchpad. (R212) -/
  | ceRst (core : Nat)
  /-- Bank units add opa to each word of a run. (R220) -/
  | buAdd (core k bank : Nat)
  /-- Bank units multiply each word by opa. (R220) -/
  | buMul (core k bank : Nat)
  /-- Bank units scale each word by a power of two. (R220) -/
  | buScl (core k bank : Nat)
  /-- Bank units take the maximum with opa. (R220) -/
  | buMax (core k bank : Nat)
  /-- Bank units take the minimum with opa. (R220) -/
  | buMin (core k bank : Nat)
  /-- Online exponent-sum over a run with running max and sum state. (R221) -/
  | buOes (core k : Nat)
  /-- Normalises a run into softmax probabilities from max and sum state. (R221) -/
  | buNsm (core k : Nat)
  /-- Welford update of per-element mean and M2 state from a run. (R221) -/
  | buWel (core k : Nat)
  /-- Counts run values into 256 histogram bins. (R221) -/
  | buHist (core k : Nat)
  /-- Writes opa to each word of a run. (R220) -/
  | buFill (core k bank : Nat)
  /-- Flags the k largest words of each row in a bitmap. (R222) -/
  | buTopk (core k : Nat)
  /-- Compare-and-swap of one scratchpad word. (R220) -/
  | buCas (core k : Nat)
  /-- 32-bit integer read-operate-write on each word of a run. (R220) -/
  | buFop (core k bank : Nat)
  /-- Puts a pseudo-channel into all-bank mode owned by the issuing launch. (R334) -/
  | suModeEnter (core k : Nat)
  /-- Returns a pseudo-channel to ordinary mode and zeroes its unit registers. (R334) -/
  | suModeLeave (core k : Nat)
  /-- Checks and loads a bank program image into the program store or its shadow. (R330) -/
  | suProg (core k : Nat)
  /-- Loads broadcast registers of the chosen banks from memory. (R336) -/
  | suBcast (core k : Nat)
  /-- Runs a bank program on the chosen banks in lockstep until it ends. (R329) -/
  | suRun (core k : Nat)
  /-- Writes the accumulators of the chosen banks to memory. (R336) -/
  | suRead (core k : Nat)
  /-- Ends a running sequence at once and discards its accumulators. (R339) -/
  | suAbort (core k : Nat)
  /-- Base-die engine sums up to eight buffers in fixed order, then writes the flag. (R342) -/
  | breSum (core k : Nat)
  /-- Merges members' mean, M2 and count records and writes the same result to every member. (R424) -/
  | cleMs (core k : Nat)
  /-- Broadcasts the lowest present rank's source to every member. (R424) -/
  | cleBc (core k : Nat)
  /-- Replaces a collective's rank mask for the instances that follow. (R427) -/
  | cleMsk (core k : Nat)
  /-- At the wheel boundary after placement, a placed slot stops being lent and becomes runnable. (R17) -/
  | placedSlotActivate (core slot : Nat)
  /-- A memory, engine or unit reply arrives and the waiting thread becomes runnable. (R20) -/
  | threadReply (core slot : Nat)
  /-- A token held by an engine takes a freed place of its q port. (R192) -/
  | heldTokenPush (core slot port : Nat)
  /-- A pending completion token enters the handler at hbase when the thread is about to issue. (R210) -/
  | completionHandlerEntry (core slot : Nat)
  /-- A global request arriving at a line's home is performed under its policy and replied to. (R274) -/
  | homeAccess (k : Nat)
  /-- 1,024 home cycles after a grant the global reservation ends and the granule passes on. (R158) -/
  | reservationTimeout (granule : Nat)
  /-- After 65,536 cycles a wrs watch ends with the granule's current value. (R165) -/
  | wrsTimeout (core slot : Nat)
  /-- A request waiting in the home's admission buffer is admitted as places free. (R278) -/
  | homeAdmission (home : Nat)
  /-- A remote load, store or atomic is performed at the target bank and replied to. (R270) -/
  | remoteAccess (k : Nat)
  /-- A combining-buffer entry is written out to the home or HBM. (R150) -/
  | combineWriteOut (cluster block : Nat)
  /-- 256 cycles after its first store a combining entry is written out. (R150) -/
  | combineTimeout (cluster block : Nat)
  /-- The 8-cycle merge window of a block's pending burst ends and the burst is performed. (R277) -/
  | hbmBurstMergeClose (block : Nat)
  /-- A bank requester refused for 16 eligible cycles becomes aged. (R269) -/
  | bankRequesterAged (k : Nat)
  /-- A page-table walk completes, installing a translation or failing every joined request. (R383) -/
  | tlbWalkComplete (cluster k : Nat)
  /-- A waiting fault record is appended to the context's fault queue and notified once room exists. (R387) -/
  | faultRecordDelivery (cluster : Nat)
  /-- A launch queued 2^22 cycles rises one class. (R363) -/
  | launchClassRise (lid : BitVec 32)
  /-- A task record is dispatched into an empty open slot and its thread started. (R371) -/
  | taskDispatch (cluster : Nat)
  /-- The spill engine moves records from the overflow ring into the bank when it falls below 512. (R370) -/
  | spillRefill (cluster : Nat)
  /-- A launch completes: resources and pseudo-channels are released and the completion block written. (R373) -/
  | launchComplete (lid : BitVec 32)
  /-- A sent element arrives at its target, pushed, deferred or waiting for room. (R254) -/
  | messageArrival (k : Nat)
  /-- A spawn request arrives at its target core, which accepts or refuses it. (R257) -/
  | spawnArrival (k : Nat)
  /-- A landing request arrives at a core and is admitted or waits. (R312) -/
  | landingRequest (k : Nat)
  /-- A free landing buffer is granted to the oldest admitted request and the image is sent. (R312) -/
  | landingGrant (core : Nat)
  /-- The last flit of a capsule arrives and it has landed. (R312) -/
  | capsuleLanded (k : Nat)
  /-- A landed thread step takes the lowest empty open slot and starts. (R316) -/
  | capsuleStepStart (core buf : Nat)
  /-- A landed bank step executes its command on the run, state in the tile, then forwards. (R317) -/
  | bankStep (core buf : Nat)
  /-- A request ungranted for 8,192 cycles is withdrawn and the capsule goes to the harbour. (R314) -/
  | landingRequestTimeout (k : Nat)
  /-- After 1,024 cycles of waiting the longest-parked capsule moves to the harbour. (R322) -/
  | bufferNeeded (core : Nat)
  /-- A refused harbour task submission is retried every 1,024 cycles. (R323) -/
  | harbourTaskRetry (k : Nat)
  /-- A capsule crossing to another module lands there and continues under the receiving launch. (R315) -/
  | crossingLanding (arrival : CapsuleArrival)
  /-- A migrating rover lands at the home core, takes a slot and reissues its access. (R281) -/
  | roverLanding (k : Nat)
  /-- A refused apply task submission is retried every 1,024 cycles. (R418) -/
  | applyTaskRetry (cluster group : Nat)
  /-- A leaf or partial sum arrives at a merge site, or is recomputed when poisoned. (R425) -/
  | clePartialArrival (arrival : LeafArrival)
  /-- A pair's held outward entry is compared with the trailing copy and performed once on a match. (R444) -/
  | storeCompare (core pair : Nat)
  /-- An uncorrectable error in slot state kills and scrubs the slot. (R442) -/
  | deviceKill (core slot : Nat)
  /-- After 256 cycles of scrubbing a killed slot becomes empty. (R41) -/
  | slotScrubEnd (core slot : Nat)
  /-- The patrol scrubber reads and corrects a word or line in a free bank cycle. (R440) -/
  | patrolScrub (check : ScrubCheck)
  /-- After 4,096 bank cycles without a free one the scrubber takes one at class 5. (R440) -/
  | scrubForcedCycle (core bank : Nat) (check : ScrubCheck)
  /-- A core fails: its work is destroyed, its cache salvaged and its homes moved. (R448) -/
  | coreFailed (core : Nat) (tagsReadable : Bool)
  /-- A write to fence with action 0b01 fences a core off and moves its homes. (R448) -/
  | fenceOff (core : Nat)
  /-- A write to fence with action 0b10 returns a fenced core to service with a zeroed scratchpad. (R449) -/
  | returnToService (core : Nat)
  /-- A write to hmap moves changed homes of a cluster in one step. (R449) -/
  | hmap (core : Nat)
  /-- Writes back and invalidates every home line of a physical range. (R284) -/
  | wbirun (core : Nat)
  /-- Submits a launch record to its class queue. (R360) -/
  | lqsub (core : Nat)
  /-- Withdraws a queued launch. (R360) -/
  | lqdel (core : Nat)
  /-- Loads a context descriptor into the port's entry for a tag. (R376) -/
  | ctxdescLoad (core : Nat)
  /-- Writing 0 to ctxdesc unloads the context entry. (R376) -/
  | ctxdescUnload (core : Nat)
  /-- Invalidates TLB entries and drains accesses through them at the named ports. (R384) -/
  | tlbinv (core : Nat)
  /-- Resumes engine bursts held at the port with a key. (R388) -/
  | pfwake (core : Nat)
  /-- Sets a pseudo-channel's row window, directly or in the shadow. (R333) -/
  | sqwin (core : Nat)
  /-- Sets a pseudo-channel's row offset, directly or in the shadow. (R333) -/
  | sqoff (core : Nat)
  /-- Releases a pseudo-channel: aborts its sequence, ends queued commands and leaves all-bank mode. (R335) -/
  | sqrel (core : Nat)
  /-- Sets a context's membership identity, size and rank. (R409) -/
  | mbself (core : Nat) (value : BitVec 64)
  /-- Sets the Phoup route set toward a rank. (R411) -/
  | mbroute (core : Nat) (value : BitVec 64)
  /-- Removes a rank from the membership and every collective mask. (R426) -/
  | memdrop (core : Nat)
  /-- A gent0 write with state open configures a group, zeroing its buffers. (R414) -/
  | gent0Configure (core : Nat)
  /-- A gent0 write of 0 unconfigures a group. (R414) -/
  | gent0Unconfigure (core : Nat)
  /-- Reading trpop pops the oldest trap record into the record latch. (R390) -/
  | trpop (core : Nat)
  /-- Reading evpop pops the oldest containment event into the event latch. (R441) -/
  | evpop (core : Nat)
  /-- Enables or disables control loops; disabling voltage and clock resets every cluster to nominal. (R458) -/
  | loopctl (core : Nat) (value : BitVec 64)
  /-- Host submits a launch record through BAR0. (R402) -/
  | hlqsub (value : BitVec 64)
  /-- Host withdraws a queued launch through BAR0. (R402) -/
  | hlqdel (value : BitVec 64)
  /-- Host read pops the oldest management-queue record into the latch. (R402) -/
  | mqpop
  /-- A halted pilot's waiting record enters the management queue when a place frees. (R402) -/
  | mgmtQueueEnqueue
  /-- A host-process environment call record is written to the host ring once room exists. (R403) -/
  | envCallRecord
  /-- Host answers an environment call: sets g1, skips the call and resumes the slot. (R403) -/
  | ecans (value : BitVec 64)
  /-- A host CXL.mem read is performed at the line's home. (R399) -/
  | cxlMemRead (pa : BitVec 52) (cached : Bool)
  /-- A host CXL.mem write is performed at the line's home. (R399) -/
  | cxlMemWrite (pa : BitVec 52) (data : BitVec 256) (enable : BitVec 32)
  /-- A host snoop of a host-memory line cached at its home is one event in the home's order. (R400) -/
  | hostSnoop (pa : BitVec 52) (data : BitVec 256) (write : Bool)
  /-- The host's answer to a back-invalidate snoop lets the home perform the waiting device write. (R399) -/
  | backInvalidateResponse (pa : BitVec 52)
  /-- A PRI page-group response wakes a parked host-process requester or raises an address-range fault. (R397) -/
  | pageGroupResponse (key : BitVec 32) (success : Bool)
  /-- A host ATS invalidation acts as a module-wide tlbinv for the PASID. (R397) -/
  | atsInvalidation (pasid : BitVec 20) (va : BitVec 57) (size : BitVec 2) (all : Bool)
  /-- A Phoup flit is accepted in order, or a replay is requested. (R405) -/
  | phoupFlitReceived (port : Nat) (flit : Flit)
  /-- No ack for 65,536 cycles puts the port link down. (R405) -/
  | linkAckTimeout (port : Nat)
  /-- Link training succeeds again and the port carries traffic. (R405) -/
  | linkRetrained (port : Nat)
  /-- A peer request without a response in 2^20 cycles completes as for a failed peer. (R411) -/
  | peerResponseTimeout (k : Nat)
  /-- Power-on or module reset runs the bring-up stages in order. (R452) -/
  | moduleReset (report : BringUpReport)
  /-- After every initialisation write is performed the device sets ready with a release. (R455) -/
  | ready
  /-- SPDM GET_VERSION request answered. (R456) -/
  | getVersion
  /-- SPDM GET_CAPABILITIES request answered. (R456) -/
  | getCapabilities
  /-- SPDM NEGOTIATE_ALGORITHMS request answered. (R456) -/
  | negotiateAlgorithms (algorithms : BitVec 64)
  /-- SPDM GET_DIGESTS request answered. (R456) -/
  | getDigests
  /-- SPDM GET_CERTIFICATE request answered. (R456) -/
  | getCertificate (offset length : Nat)
  /-- SPDM CHALLENGE request answered. (R456) -/
  | challenge (nonce : BitVec 256)
  /-- SPDM GET_MEASUREMENTS request answered with the measurement blocks. (R456) -/
  | getMeasurements (index : BitVec 8)
  /-- SPDM KEY_EXCHANGE starts a secured session. (R456) -/
  | keyExchange (exchange : BitVec 256)
  /-- SPDM FINISH completes a secured session. (R456) -/
  | finish (verify : BitVec 512)
  /-- A detected supply droop stretches the cluster clock. (R457) -/
  | droopStretch (cluster : Nat)
  /-- The loop changes a cluster's voltage and clock, gating its clock meanwhile. (R457) -/
  | voltageClockChange (cluster mhz mv gated : Nat)
  /-- Equaliser settings are adjusted in band from eye margins. (R457) -/
  | linkEqualisation (port : Nat) (restored : Bool)
  /-- The scrub period halves on a 0x01 event and doubles after 7 quiet days. (R457) -/
  | scrubRateAdjust (quiet : Bool)
  /-- A cluster above 95 °C is held from placement and dispatch. (R459) -/
  | clusterHold (cluster temperature : Nat)
  /-- 2^20 cycles after cooling, the cluster hold ends. (R459) -/
  | holdEnd (cluster temperature : Nat)
  /-- Periodic recalibration of a pseudo-channel's HBM interface. (R460) -/
  | hbmRecalibration (stack pch : Nat)
  /-- Every 10 minutes and at orderly power-down the lifetime counters are committed to flash. (R461) -/
  | lifetimeCommit
  /-- A slot issues a fetched word that is all zeros, all ones, of an unassigned opcode or with a nonzero must-be-zero field, and takes an illegal-instruction fault. (R104) -/
  | illegalInstruction (word : BitVec 32)
  /-- An instruction fetch fails its segment check or names a non-global segment, and raises a segment or space fault carrying the failing PC. (R127) -/
  | fetchFault (cause : BitVec 8)
  /-- The host answers an ATS translation request, and the port caches the result, tagged by PASID, and resumes the waiting requests. (R397) -/
  | atsTranslationResponse (answer : AtsAnswer)
  /-- A DRAM refresh of a pseudo-channel falls due and is served, at the next yield point when a sequence runs. (R337) -/
  | refresh (stack pch : Nat)
  /-- A core cycle passes: the wheel advances one position, the cycle counter increments, and the position is used by its owner, lent, or left without issue. (R12) -/
  | coreCycle (core : Nat)
  /-- Power is lost abruptly, and lifetime counts accumulated since the last commit are lost. (R461) -/
  | abruptLossOfPower
  /-- Each powered hour, the powered-hours record and the hourly temperature and voltage histogram bins are counted. (R461) -/
  | poweredHours (peaks : List HourPeak)
  deriving DecidableEq, Repr

end Sys2Proof
end

