-- ==== Sys2Proof/Word.lean ====
section
/-!
DEFINITION. The words of the machine: 64-bit registers, 32-bit lanes, bytes, whole vector registers (lane i of a
vector register occupies bits 32i + 31:32i, R24) and 128-bit segment and ring registers (R34, R35).
-/

namespace Sys2Proof

abbrev Word := BitVec 64
abbrev Byte := BitVec 8
abbrev Lane := BitVec 32
abbrev Vec := BitVec 2048
abbrev Quad := BitVec 128

/-- A bit as 0 or 1 of `w` bits. -/
def bitOf (w : Nat) (b : Bool) : BitVec w := if b then 1#w else 0#w

end Sys2Proof
end

