-- ==== Sys2Proof/Machine/State.lean ====
section
/-!
DEFINITION. The state of the whole module as plain data: 1,280 cores of eight slots, 80 clusters, the
pseudo-channels, the memories, the dispatcher, the collective engine, the links, the host's register block and the
lifetime records. Fields the spec does not name, which hold the order in which independent things happen, stand
together at the end of `State` and are marked as the model's own.
-/

namespace Sys2Proof.Machine

/-- A table from numbers to plain data. An absent key reads as the default that its reader names. -/
structure Table (α : Type) where
  entries : List (Nat × α) := []
  deriving DecidableEq, Repr

/-- An element of a q port, of the operand latch or of a load-value queue, with its poison mark (R434).
`token` says that an engine pushed it as a completion token (R206). -/
structure Elem where
  val : Word
  poison : Bool := false
  token : Bool := false
  deriving DecidableEq, Repr

/-- The states of a slot (R40). -/
inductive Status where
  | empty | runnable | memoryWait | engineWait | handler | parked | trapped | halted | killed | placed
  deriving DecidableEq, Repr

/-- The four spaces of a segment (R34, R265). -/
inductive Space where
  | global | localPad | remote | landing
  deriving DecidableEq, Repr

/-- The cache policies of a page (R275, R378). -/
inductive Policy where
  | homed | stream | direct | combine
  deriving DecidableEq, Repr

/-- The six engine classes (R204). -/
inductive Engine where
  | tile | copy | bank | stack | reduction | collective
  deriving DecidableEq, Repr

/-- The causes of a trap (R389). -/
inductive Cause where
  | illegalInstruction | illegalOperand | privilege | state | segment | misaligned | space | addressRange
  | policy | environmentCall | breakpoint
  deriving DecidableEq, Repr

/-- A trap record of four doublewords (R389). -/
structure TrapRec where
  d0 : Word
  d1 : Word
  d2 : Word
  d3 : Word
  deriving DecidableEq, Repr

/-- What a thread's access does (R146, R147, R154, R156, R160, R162, R164). -/
inductive AccessKind where
  | load (signed : Bool)
  | store
  | lres
  | sres
  | amo (op : BitVec 4)
  | cas
  | wrs
  deriving DecidableEq, Repr

/-- Where an access goes after its checks (R265, R274, R407). -/
inductive Target where
  | home (pa : Nat) (policy : Policy)
  | bank (core offset : Nat)
  | peer (rank pa : Nat)
  deriving DecidableEq, Repr

/-- One access of a thread on its way to the place that performs it (R274, R270). `lane` numbers the lane of a
vector access. `refused` and `aged` are the bank requester's state (R269). -/
structure Flight where
  core : Nat
  slot : Nat
  kind : AccessKind
  target : Target
  n : Nat
  data : Word := 0
  expected : Word := 0
  lane : Option Nat := none
  refused : Nat := 0
  aged : Bool := false
  ident : Nat := 0
  /-- the context whose translation it went through (R384) -/
  ctag : BitVec 4 := 0
  /-- the number of the context register that its value goes to, or 0: a value that the register refuses stops an atomic
  before it writes (R31, R106) -/
  guard : Nat := 0
  /-- the launch on whose behalf it is made (R374) -/
  lid : BitVec 32 := 0
  /-- a flit of it failed its check on the mesh to the last: it is delivered with every word poisoned (R439) -/
  spoiled : Bool := false
  deriving DecidableEq, Repr

/-- What a thread that polls waits for; it issues its instruction again once the condition holds. -/
inductive Poll where
  /-- every earlier access would satisfy .rel (R163) -/
  | release
  /-- a plain fence, a fence.b or a fence.a at a scope (R168–R170) -/
  | fence (scope : Word)
  | fenceBank (scope : Word)
  | fenceAlias (scope : Word)
  /-- room in the queue of an engine class (R204) -/
  | queueRoom (e : Engine)
  /-- no tile command of the slot outstanding (R202) -/
  | tileIdle
  /-- every command of the slot completed (R230, R259) -/
  | commandsDone
  /-- no tile or copy operation that names a ring of a slot (R36, R212) -/
  | ringFree (slot ring : Nat)
  /-- a free outbound ferry buffer of a core (R227, R325) -/
  | ferryRoom (core : Nat)
  /-- a value in, or room in, the pair's load-value queue (R444) -/
  | loadValue
  | loadValueRoom
  /-- a run of free accumulator units (R393) -/
  | units (count : Nat)
  /-- the target slot of dock.out has stopped (R392) -/
  | dockable (slot handle : Nat)
  /-- the fences of a barrier at a level's cores (R255) -/
  | barrierFence (level : Nat)
  /-- every earlier request to a rank of the context has ended (R411) -/
  | peerDrained (rank : Nat)
  /-- what a fetch waits for: the answers of a peer, or its bank's yield point (R337, R407) -/
  | fetch
  /-- the yield point of the sequence that holds the array at an address, or room at its home (R275, R337) -/
  | array (policy : Policy) (pa : Nat)
  /-- its accesses to another core's scratchpad by which it reads or writes a block have been answered (R267, R270) -/
  | window
  deriving DecidableEq, Repr

/-- Why a slot is out of rotation. -/
inductive Wait where
  | nothing
  /-- a reply, which writes the register `rd` if there is one; with `acq` the instruction retires only when a module
  fence would complete too (R163) -/
  | reply (rd : Option (BitVec 6)) (acq : Bool)
  /-- the replies of the lanes of a vector access -/
  | lanes
  /-- the translation of the page of a virtual address, of a fetch or of an access -/
  | translation (va : Nat) (fetch : Bool)
  /-- an element of port `port`, or a place in it (R191, R192) -/
  | pop (port : Nat)
  | push (port : Nat)
  | poll (p : Poll)
  /-- the completion of a blocking command, whose token goes to `rd` (R205) -/
  | token (rd : BitVec 6)
  /-- the next row or the completion of a te.mma (R208) -/
  | row (rd : BitVec 6)
  /-- the comparison of a pair's outward entry (R444) -/
  | compare
  /-- a landing buffer at the home a rover moves to (R281) -/
  | landing
  /-- the trailing or leading thread's reaching the same trap or fault (R446) -/
  | pairTrap
  /-- the release of a barrier at a level, by a member of a launch (R255) -/
  | barrier (level : Nat) (rd : BitVec 6)
  /-- the fold of a capsule step that has met a page fault: its key, its place among the parked, and whether a wake has
  come for it (R320) -/
  | folding (key : BitVec 32) (order : Nat) (woken : Bool)
  deriving DecidableEq, Repr

/-- A reply that has arrived and that the thread takes when it becomes runnable (R20). -/
structure Reply where
  val : Word
  poison : Bool := false
  deriving DecidableEq, Repr

/-- Which handler a slot runs (R208, R210): none, the drain handler of a row, or a completion handler. -/
inductive Handler where
  | outside
  | drain (row : Nat)
  | completion
  deriving DecidableEq, Repr

/-- A grant of accumulator rows: its first unit of 16 rows, M' and N' (R202). -/
structure Grant where
  unit : Nat
  rows : Nat
  cols : Nat
  deriving DecidableEq, Repr

/-- A reservation held by a slot: on a global granule, by its physical address, or on a local one (R153, R157). -/
inductive Reservation where
  | free
  | global (granule : Nat)
  | localPad (granule : Nat)
  deriving DecidableEq, Repr

/-- What a rover keeps of its dispatch (R28, R29, R267): its origin core and slot, the fold register of that slot, and the
core whose position it reads, which changes at its first issue after a move. -/
structure RoverHome where
  core : Nat
  slot : Nat
  fold : Word
  seen : Nat
  deriving DecidableEq, Repr

/-- How a slot is parked: by park (R250), by a page fault (R385), or as a mismatched pair (R445). -/
inductive Park where
  | free
  | key (k : BitVec 32) (qwake : Bool)
  | fault (k : BitVec 32)
  | pair
  deriving DecidableEq, Repr

/-- A thread's part in a pair (R443). -/
inductive PairRole where
  | alone | leading | trailing
  deriving DecidableEq, Repr

/-- An outward request held for comparison: its instruction's word and its address and data (R444). -/
structure Outward where
  word : BitVec 32
  vals : List Word
  deriving DecidableEq, Repr

/-- A vector memory access in progress: the register it loads, its active lanes, where its lanes that leave the core
go, the local rows done, the lanes gathered and the replies still missing (R188). -/
structure VecAccess where
  dest : Option (BitVec 4)
  active : BitVec 64
  away : List (Nat × Target)
  rows : List Nat := []
  acc : Vec := 0
  poison : Bool := false
  sent : Bool := false
  left : Nat := 0
  deriving DecidableEq, Repr

/-- A pending push of a result to a full port, with the PC the instruction retires to (R192). -/
structure PendingPush where
  port : Nat
  elem : Elem
  pc : Word
  deriving DecidableEq, Repr

/-- A task record of 64 bytes (R368), its poison mark, how often a pair has mismatched on it (R445), and of an apply task
the group that closes with it, as its group word, and the close (R418). -/
structure TaskRec where
  data : BitVec 512
  poison : Bool := false
  misses : Nat := 0
  apply : Option (Nat × Nat) := none
  deriving DecidableEq, Repr

/-- A harbour entry that a wake has taken for a resend: the core to send from, the entry's address, and its image as it
was read, line by line with its poisoned words (R325, R434). -/
structure Resend where
  core : Nat
  entry : Nat
  lines : List (Nat × List Nat)
  deriving DecidableEq, Repr

/-- The state of one thread slot (R21, R27, R30, R40 and the rules named at the fields). -/
structure Slot where
  status : Status
  g : Vector Word 32
  pred : BitVec 16
  v : Vector Vec 16
  m : Vector Word 4
  q0 : List Elem
  qe : Vector (List Elem) 8
  rank : BitVec 16
  mrank : BitVec 16
  lid : BitVec 32
  ctag : BitVec 4
  task : Word
  hbase : Word
  fmt : BitVec 11
  sca : BitVec 21
  scb : BitVec 21
  frm : BitVec 3
  fflags : BitVec 7
  srseed : BitVec 32
  pois : Bool
  hlink : Word
  sg : Vector Quad 8
  ring : Vector Quad 8
  pc : Word
  winG : Vector Word 8
  winV : Vector Vec 4
  handler : Handler
  latch : List Elem
  push : Option PendingPush
  vec : Option VecAccess
  pending : List Word
  grant : Option Grant
  inline : List Word
  reservation : Reservation
  park : Park
  haltPending : Bool
  stepArmed : Bool
  /-- a trapped slot to which a tret has returned: the cycle from which it is runnable (R239) -/
  returnAt : Option Word
  /-- a dock.out has asked the slot to stop at its next instruction boundary (R392) -/
  docking : Bool
  /-- the slot that a dock.out named, of a rover that has left it since (R281) -/
  dockFor : Option (Nat × Nat)
  /-- the instruction at the PC has waited and is issued again: no handler is entered before it retires (R210) -/
  midway : Bool
  wait : Wait
  reply : Option Reply
  gang : Bool
  /-- started by task dispatch (R367, R373) -/
  tasked : Bool
  /-- a rover, and where its scratchpad is -/
  origin : Option RoverHome
  /-- the landing buffer of a capsule thread step (R316) -/
  capsule : Option Nat
  /-- the step was started from its resume block and has not issued (R316) -/
  resumed : Bool
  pair : PairRole
  lvq : List Elem
  outward : Option Outward
  matched : Bool
  pairTrap : Option TrapRec
  envCall : Bool
  last : Word
  firstIssue : Bool
  boundary : Word
  scrub : Nat
  /-- a rover whose migration was refused performs its access from where it is (R281) -/
  stay : Bool
  /-- the address whose translation the host has refused for good (R397) -/
  barred : Option Nat
  /-- the harbour entry that its wake has taken and waits to resend (R325) -/
  resend : Option Resend
  /-- what its gacc has obtained from the group step unit: the configuration, by its number, and E (R232) -/
  gacc : Option (Nat × Nat)
  /-- MODEL'S OWN: the word of the instruction issued latest, which a trap record carries (R389) -/
  word : BitVec 32
  deriving DecidableEq, Repr

/-- Who receives the token of a command: the slot that pushed it, the dock entry of that slot, or nobody, where the slot has
been killed; `id` tells the commands of one killed slot from those of others (R252). -/
inductive Owner where
  | slot (k : Nat)
  | docked (handle : BitVec 16)
  | gone (id : Nat)
  deriving DecidableEq, Repr

/-- An accepted engine command (R116, R117, R204): the word, what acceptance resolved, and its progress. -/
structure Cmd where
  ident : Nat
  word : BitVec 256
  owner : Owner
  lid : BitVec 32
  ctag : BitVec 4
  sg : Vector Quad 8
  fmt : BitVec 11
  sca : BitVec 21
  scb : BitVec 21
  grant : Option Grant
  rings : Vector Quad 8
  rebase : Nat
  /-- enqw: the register that the token goes to -/
  rd : Option (BitVec 6)
  /-- the address of the enqw, whose drain handler stands at +8 (R208) -/
  pc : Word
  stage : Nat
  started : Bool
  /-- chunks, rows, elements or words done, as the command's engine counts them -/
  done : List Nat
  count : Nat
  moved : Nat
  flags : BitVec 7
  poison : Bool
  status : BitVec 8
  value : BitVec 32
  /-- keys of bursts held on a page fault, with the number of the burst (R385) -/
  held : List (Nat × BitVec 32)
  /-- the address whose translation the host has refused for good (R397, R462) -/
  barred : Option Nat
  /-- what the command read at its start and keeps: m and s of bu.nsm, n of bu.wel, the parameter block of bre.sum -/
  kept : Nat
  /-- cycles for which its bank has refused it, and whether it is aged (R269) -/
  refused : Nat
  aged : Bool
  /-- the address of an access that waits for the yield point of the sequence on its bank (R337) -/
  waits : Option Nat := none
  deriving DecidableEq, Repr

/-- A token held by an engine for a full port, or a full list of pending entries (R117, R210). `port` 8 names
the pending-entry list. -/
structure HeldToken where
  owner : Owner
  port : Nat
  elem : Elem
  deriving DecidableEq, Repr

/-- An element that a thread has pushed to a port and that takes effect at the end of the cycle in which its
instruction retires (R12, R190). -/
structure Arriving where
  due : Nat
  slot : Nat
  port : Nat
  elem : Elem
  deriving DecidableEq, Repr

/-- A run of words that a bank-unit command or a capsule bank step works on, and where its state words are: in the
scratchpad of its core at `aux`, or in a capsule's tile, at a memory address (R219, R221, R317). -/
structure Run where
  code : Nat
  opa : Nat
  opb : Nat
  fop : Nat
  core : Nat
  addr : Nat
  count : Nat
  aux : Nat
  tile : Option Nat
  deriving DecidableEq, Repr

/-- A capsule's bank step in progress (R317): its run, its elements done, by their banks or by their count, what they raised,
what it read at its start, and how long its bank has refused it (R269). -/
structure BankRun where
  run : Run
  done : List Nat := []
  next : Nat := 0
  flags : BitVec 7 := 0
  poison : Bool := false
  kept : Nat := 0
  started : Bool := false
  refused : Nat := 0
  aged : Bool := false
  deriving DecidableEq, Repr

/-- What a landing or outbound ferry buffer is used for (R311–R321). -/
inductive BufUse where
  | free
  /-- granted to a capsule that has not arrived -/
  | awaited
  /-- landed, or about to be sent -/
  | landed
  /-- its thread step runs in a slot -/
  | running (slot : Nat)
  /-- its bank step is under way -/
  | banking (run : BankRun)
  /-- parked by a page fault (`folded`) or by cpark, with its key -/
  | parked (folded : Bool) (key : BitVec 32) (order : Nat)
  /-- its landing request waits -/
  | requesting
  deriving DecidableEq, Repr

/-- A saved thread context (R263). -/
structure DockEntry where
  handle : BitVec 16
  /-- the entry of the dock that holds it; of no meaning once it is spilled -/
  entry : Nat
  image : Slot
  /-- the number of the slot saved -/
  slot : Nat
  /-- of a spilled entry: the number from which the bytes of its spill slot were drawn (log entry 7) -/
  spill : Nat
  deferred : List Elem
  /-- the accumulators of the grant, and the rows marked, counted from its first row -/
  acc : Table Lane
  accPoison : List Nat
  /-- withdrawn copies, then copies not started; a te.mma between stages, and what the slot queued behind it (R392) -/
  copies : List Cmd
  tile : List Cmd
  tokens : List HeldToken
  trap : Option TrapRec
  deriving DecidableEq, Repr

/-- An entry of the migration predictor (R280). -/
structure Predict where
  c : Nat := 0
  h : Option Nat := none
  deriving DecidableEq, Repr

/-- A line held by a home cache (R275), keyed by its physical address divided by 32. -/
structure HomeLine where
  data : BitVec 256
  dirty : Bool
  poison : Bool
  /-- whose COMBINE stores stand in it and not yet in the array (R170) -/
  owners : List (Nat × Nat) := []
  deriving DecidableEq, Repr

/-- One core: its slots, ports, system registers, engines, buffers and its part as a home. -/
structure Core where
  slots : Vector Slot 8
  cycle : Word
  q1 : List Elem
  qi : Vector (List Elem) 6
  /-- slots waiting to pop or push a port, the longest first, as (port, slot) (R191–R193) -/
  poppers : List (Nat × Nat)
  pushers : List (Nat × Nat)
  arriving : List Arriving
  /-- slots whose enq or enqw waits for room in an engine's queue, the first to issue first (R117) -/
  cmdWaiters : List (Engine × Nat)
  deferred : List (Nat × Elem)
  bhalt : Bool
  efrz : Bool
  spawnctl : BitVec 7
  dockspill : BitVec 52
  dock : List DockEntry
  spilled : List DockEntry
  traps : List TrapRec
  trapLatch : TrapRec
  eventLatch : TrapRec
  wbiaddr : BitVec 52
  wbistat : BitVec 32
  sqsel : BitVec 10
  lqstat : BitVec 40
  ctxsel : BitVec 4
  fold : Vector Word 7
  gsel : BitVec 6
  lesel : BitVec 32
  hmsel : BitVec 7
  clsel : BitVec 7
  lifesel : BitVec 16
  mbsel : BitVec 32
  tileQ : List Cmd
  copyQ : List Cmd
  bankQ : List Cmd
  stackQ : List Cmd
  reductionQ : List Cmd
  collectiveQ : List Cmd
  acc : Table Lane
  accPoison : List Nat
  heldTokens : List HeldToken
  bufs : Vector BufUse 6
  capsules : BitVec 32
  predictor : Table Predict
  resident : List (BitVec 4 × BitVec 32)
  icache : Table (BitVec 32)
  fenced : Bool
  failed : Bool
  /-- requests waiting for admission at this home (R278) -/
  admission : List Flight
  /-- the banks that a thread's bank turn has taken in this cycle (R269) -/
  bankTurns : BitVec 32
  /-- by bank, the cycles since the last that no requester wanted (R440) -/
  scrubWait : Table Nat
  deriving DecidableEq, Repr

/-- A context entry of a cluster memory port (R375). -/
structure Context where
  desc : BitVec 52
  root : BitVec 52
  pasid : BitVec 20
  folded : Bool
  hostProcess : Bool
  fqsize : Nat
  fqbase : BitVec 52
  notify : Nat
  foldtab : BitVec 52
  deriving DecidableEq, Repr

/-- A TLB entry (R382): tagged by context tag, or by PASID in a host-process context. -/
structure TlbEntry where
  tag : Nat
  hostProcess : Bool
  page : Nat
  size : Nat
  pa : Nat
  policy : Policy
  r : Bool
  w : Bool
  x : Bool
  d : Bool
  deriving DecidableEq, Repr

/-- A request that awaits translation (R383): who, the address, the rights it needs. -/
structure XlateReq where
  core : Nat
  slot : Nat
  ctag : BitVec 4
  va : Nat
  read : Bool
  write : Bool
  exec : Bool
  /-- of an engine's request whose walk has failed: the kind and the level of the failure, which its burst meets (R385) -/
  failed : Option (Nat × Nat) := none
  deriving DecidableEq, Repr

/-- A fault record of 32 bytes waiting at a port (R386, R387). -/
structure FaultRec where
  ctag : BitVec 4
  data : BitVec 256
  deriving DecidableEq, Repr

/-- An entry of the combining buffer: a block, the bytes stored, who stored them, when it was opened (R150). -/
structure CombineEntry where
  block : Nat
  bytes : List Host.Cell
  owners : List (Nat × Nat)
  opened : Nat
  /-- granules that an engine stored poisoned data to, and granules that it covered with good data (R434, R435) -/
  poison : List Nat := []
  cured : List Nat := []
  deriving DecidableEq, Repr

/-- A step group's entry (R412–R415). -/
structure Group where
  state : BitVec 2
  s : BitVec 32
  w : BitVec 16
  ctag : BitVec 4
  core : BitVec 4
  v : Bool
  nmin : BitVec 32
  nmax : BitVec 32
  t : BitVec 32
  snr : BitVec 32
  buf0 : BitVec 16
  buf1 : BitVec 16
  e : BitVec 16
  stale : BitVec 32
  launch : BitVec 32
  applyPc : Word
  journal : Word
  jcount : BitVec 32
  /-- MODEL'S OWN: numbers that tell one configuration, and one close, from another -/
  config : Nat
  closing : Nat
  /-- the apply task still to be submitted (R418), and when it was last tried -/
  retry : Option TaskRec
  retryAt : Nat
  deriving DecidableEq, Repr

/-- One cluster: its memory port, task queue bank, group step unit and operating point. -/
structure Cluster where
  contexts : Table Context
  tlb : List TlbEntry
  waiting : List XlateReq
  faults : BitVec 24
  records : List FaultRec
  combine : List CombineEntry
  hmap : Word
  bank : List TaskRec
  tqbase : BitVec 52
  tqsize : BitVec 24
  /-- the overflow ring: the position of its head, and its records, whose bytes stand in memory (R370) -/
  ringHead : Nat
  ring : List TaskRec
  rotation : Vector (BitVec 32) 4
  groups : Table Group
  held : Bool
  cooledAt : Option Nat
  celsius : Nat
  mhz : Nat
  mv : Nat
  deriving DecidableEq, Repr

/-- A pending burst of a block at its home cluster's port (R277): write bytes not yet in the array. -/
structure Burst where
  block : Nat
  write : Bool
  bytes : List Host.Cell
  poison : List Nat
  owners : List (Nat × Nat)
  opened : Nat
  deriving DecidableEq, Repr

/-- The reservation queue of a granule (R155): the holder, the home cycle of its grant, and the waiters. -/
structure Queue where
  granule : Nat
  holder : Option (Nat × Nat)
  grantedAt : Word
  waiters : List Flight
  deriving DecidableEq, Repr

/-- A wrs watch (R164, R165), on a global granule or on a granule of the scratchpad of core `pad`. -/
structure Watch where
  core : Nat
  slot : Nat
  global : Bool
  pad : Nat
  granule : Nat
  since : Word
  deriving DecidableEq, Repr

/-- The unit of one DRAM bank (R327). -/
structure StackUnit where
  fl : BitVec 256
  flPoison : Bool
  bv : Vector (BitVec 256) 8
  bvPoison : BitVec 8
  acc : Vector Lane 64
  accPoison : BitVec 64
  deriving DecidableEq, Repr

/-- A sequence running on a pseudo-channel (R329, R337): whose command, its banks, the next word, cycles run. -/
structure Sequence where
  core : Nat
  ident : Nat
  banks : BitVec 16
  at_ : Nat
  openRow : Option Nat
  /-- it stands at a yield point, where ordinary requests are served (R337) -/
  atYield : Bool
  cycles : Nat
  flags : BitVec 7
  poison : Bool
  deriving DecidableEq, Repr

/-- One pseudo-channel's sequencer (R327, R332–R335). -/
structure Pch where
  allBank : Bool
  owner : BitVec 32
  units : Table StackUnit
  store : Table Word
  starts : List Nat
  rowlo : BitVec 17
  rowhi : BitVec 17
  rowoff : BitVec 17
  shadowStore : Table Word
  shadowStarts : Option (List Nat)
  shadowWin : Option (BitVec 17 × BitVec 17)
  shadowOff : Option (BitVec 17)
  running : Option Sequence
  failedBanks : BitVec 16
  refreshDue : Bool
  deriving DecidableEq, Repr

/-- A local section of a program's image: the segment register that addresses it, its offset there, and its initial contents
(R83, R86). -/
structure LocalSection where
  sel : Nat
  offset : Nat
  data : List (BitVec 8)
  deriving DecidableEq, Repr

/-- A launch record as read at submission (R356), and the local sections of the image that it belongs to (R86, R365). -/
structure Launch where
  lid : BitVec 32
  ctag : BitVec 4
  cls : Nat
  pair : Bool
  pull : Bool
  fixed : Bool
  crew : Nat
  origin : Nat
  bandw : Nat
  bandh : Nat
  coresw : Nat
  coresh : Nat
  scratch : Nat
  sbase : Nat
  segn : Nat
  classes : Nat
  entry : Word
  hpc : Word
  segtab : BitVec 52
  cltab : BitVec 52
  hrbase : BitVec 52
  hcap : Nat
  cblk : BitVec 52
  cval : Word
  args : Vector Word 4
  sections : List LocalSection := []
  deriving DecidableEq, Repr

/-- A queued launch (R361–R363). -/
structure Queued where
  record : Launch
  cls : Nat
  passes : Nat
  since : Nat
  deriving DecidableEq, Repr

/-- A placed launch (R364–R366). -/
structure Placed where
  record : Launch
  origin : Nat
  abandoned : BitVec 32
  deriving DecidableEq, Repr

/-- A record that a thread has taken and not completed (R261, R262, R372). -/
structure Outstanding where
  core : Nat
  slot : Nat
  addr : Nat
  lid : BitVec 32
  record : TaskRec
  deriving DecidableEq, Repr

/-- A harbour or apply task that its bank refused (R323). -/
structure TaskRetry where
  core : Nat
  record : TaskRec
  since : Nat
  deriving DecidableEq, Repr

/-- A message, spawn or unit request on its way (R254, R257, R242). -/
structure Message where
  core : Nat
  slot : Nat
  dest : Nat
  destSlot : Nat
  port1 : Bool
  payload : Elem
  pilot : Bool
  lid : BitVec 32
  /-- has arrived and waits at its target for a place -/
  waiting : Bool
  /-- sent by the device, which awaits no reply (R387, R441) -/
  device : Bool
  deriving DecidableEq, Repr

structure SpawnReq where
  core : Nat
  slot : Nat
  dest : Nat
  pc : Word
  args : Vector Word 4
  deriving DecidableEq, Repr

/-- A system-register write that waits for its unit (R376, R284, R359, R413, R447). -/
structure UnitReq where
  core : Nat
  reg : Nat
  value : Word
  deriving DecidableEq, Repr

/-- A crossing that a peer module asks this one to let land (R315): its context, the rank it comes from, and the
identifier that the answer names. -/
structure Inbound where
  ctag : BitVec 4
  rank : Nat
  ident : Nat
  deriving DecidableEq, Repr

/-- A landing request (R312): of a capsule in a buffer of its sender, of a rover, or of a crossing from a peer. -/
structure LandReq where
  core : Nat
  buf : Nat
  dest : Nat
  rover : Option Nat
  admitted : Bool
  since : Word
  inbound : Option Inbound := none
  deriving DecidableEq, Repr

/-- A traveller on the ferry lanes (R311): to the landing buffer granted. A rover comes from slot `buf`; once it has
arrived it may still wait in its landing buffer for an empty slot (R281). -/
structure Transit where
  core : Nat
  buf : Nat
  dest : Nat
  destBuf : Nat
  rover : Option Slot
  arrived : Bool := false
  deriving DecidableEq, Repr

/-- How far a crossing has come at its sender (R315, R411): the landing request is out; it is answered, 0 for a buffer granted and
else the reason of the refusal; the image is sent and its landing not yet known; nothing is left to wait for. -/
inductive CrossStage where
  | asked
  | answered (v : Word)
  | sent
  | over
  deriving DecidableEq, Repr

/-- A crossing to a peer module (R315), with the cycle of its core in which it asked, or sent. -/
structure Crossing where
  ident : Nat
  core : Nat
  buf : Nat
  ctag : BitVec 4
  rank : Nat
  since : Word
  stage : CrossStage
  deriving DecidableEq, Repr

/-- A landing buffer granted to a crossing of a peer module, which has not arrived (R315). -/
structure Granted where
  inbound : Inbound
  core : Nat
  buf : Nat
  deriving DecidableEq, Repr

/-- One instance of a collective at this module (R422): its mask, fixed when it starts, the leaves that have
arrived, this module's own command, by its core and identifier, and the ranks that have left since (R425). -/
structure Instance where
  mask : Option (List Nat) := none
  leaves : List LeafArrival := []
  own : Option (Nat × Nat) := none
  left : List Nat := []
  deriving DecidableEq, Repr

/-- A collective identifier of a context (R422, R427): whether this module has had a command for it accepted, how many, and
how many leaves have come from each rank. -/
structure Coll where
  ctag : BitVec 4
  coll : BitVec 16
  kept : Bool
  pushed : Nat
  heard : Table Nat
  mask : Option (List Nat)
  current : Instance
  /-- leaves of later instances, which arrive early -/
  early : List LeafArrival
  /-- ranks that a completed cle.msk admitted and whose own push of it is still to come (R427) -/
  late : List Nat
  /-- by rank, the poisoned words of the chunk whose flits are arriving (R406) -/
  arriving : Table (List Nat) := {}
  deriving DecidableEq, Repr

/-- The membership table of a context (R409). -/
structure Membership where
  valid : Bool := false
  mid : BitVec 16 := 0
  n : BitVec 16 := 0
  self : BitVec 16 := 0
  routes : Table (BitVec 32) := {}
  removed : List Nat := []
  deriving DecidableEq, Repr

/-- A Phoup port (R404, R405). -/
structure Port where
  up : Bool
  lanes : Nat
  tx : BitVec 12
  rx : BitVec 12
  replay : List Flit
  /-- how often a flit in the replay buffer has been resent, by its sequence number -/
  resent : Table Nat
  lastAck : Nat
  /-- flits accepted whose credits have not been returned, and credits that the peer has returned (R404) -/
  owed : Nat
  credits : Nat
  deriving DecidableEq, Repr

/-- A peer request without its response (R411). -/
structure PeerReq where
  ident : Nat
  ctag : BitVec 4
  rank : Nat
  port : Nat
  flight : Flight
  since : Word
  deriving DecidableEq, Repr

/-- What a peer has answered to a fetch or to an engine that is not the copy engine (R407), or another core to a thread that reads
or writes a block there (R270): who asked, where, and the doubleword with its poison. -/
structure PeerData where
  core : Nat
  slot : Nat
  rank : Nat
  addr : Nat
  val : Word
  poison : Bool
  deriving DecidableEq, Repr

/-- A request of a peer that has been accepted and is to be performed here (R405, R407). -/
structure PeerCall where
  ctag : BitVec 4
  rank : Nat
  ident : Nat
  pa : Nat
  op : PeerOp
  poison : Bool
  deriving DecidableEq, Repr

/-- An invalidation that the host has asked for and that is not completed (R397). -/
structure AtsInvalidation where
  pasid : BitVec 20
  va : BitVec 57
  size : BitVec 2
  all : Bool
  deriving DecidableEq, Repr

/-- An environment call waiting for the host (R403). -/
structure EnvCall where
  core : Nat
  slot : Nat
  pasid : BitVec 20
  record : TrapRec
  written : Bool
  deriving DecidableEq, Repr

/-- A PRI page request the host has not answered, or whose refusal a folded step has still to meet (R397). -/
structure PageReq where
  key : BitVec 32
  core : Nat
  slot : Nat
  engine : Bool
  va : Nat
  /-- refused for good, of a folded step that has not run again -/
  refused : Bool := false
  deriving DecidableEq, Repr

/-- The SPDM responder's session (R456). -/
structure Session where
  transcript : List (BitVec 8) := []
  /-- Ed25519 and SHA-512 are agreed on -/
  negotiated : Bool := false
  keyed : Bool := false
  finished : Bool := false
  deriving DecidableEq, Repr

/-- Byte memory in canonical form: addresses strictly rising, and no byte equal to zero, which is what an
unlisted address reads as (R454; log entry 2 for host memory). Addresses are those of `Sys2Proof.Machine.Ops`. -/
structure Memory where
  cells : List Host.Cell := []
  deriving DecidableEq, Repr

/-- An uncorrectable error in a structure that the scrubber does not read (R439): a group step unit's entry; the pc or lid, or
another part, of a record in a task queue bank; a word of a landing buffer; a dock entry; an entry of a TLB, an instruction cache
or a predictor; a flit of the mesh. -/
inductive Upset where
  | group (cluster number : Nat)
  | record (cluster index : Nat) (named : Bool)
  | buffer (core buf offset : Nat)
  | dockEntry (core handle : Nat)
  | tlb (cluster index : Nat)
  | icache (core line : Nat)
  | predictor (core index : Nat)
  | meshFlit (flight : Nat)
  deriving DecidableEq, Repr

/-- What comes from outside the machine: an event of the opcode table, the host's accesses to the register block (R402),
a line that its home drops (R275), a ferry link that fails (R324), an uncorrectable error (R439), the running firmware's raise of
the fused minimum (R453), an orderly power-down (R461), and the placing of a program's image by system software, whose
local sections the dispatcher keeps for the launch record at an address (R86). -/
inductive Input where
  | event (i : Instr)
  | barRead (offset : Nat)
  | barWrite (offset : Nat) (value : Word)
  | evictLine (line : Nat)
  | ferryFail (transit : Nat)
  | upset (u : Upset)
  | raiseSecurity (version : BitVec 32)
  | powerDown
  | placeImage (record : Nat) (sections : List LocalSection)
  deriving DecidableEq, Repr

/-- The whole module. -/
structure State where
  mem : Memory
  /-- poisoned granules, by the address of their first byte (R434) -/
  poison : List Nat
  /-- words of harbour entries that are poisoned, where their line is marked (R434) -/
  entryMarks : List Nat
  cores : Table Core
  clusters : Table Cluster
  pchs : Table Pch
  homes : Table HomeLine
  nextLid : BitVec 32
  queued : List Queued
  placed : List Placed
  ready : Word
  bursts : List Burst
  queues : List Queue
  watches : List Watch
  flights : List Flight
  messages : List Message
  spawns : List SpawnReq
  unitReqs : List UnitReq
  evnote : BitVec 11
  landReqs : List LandReq
  transits : List Transit
  crossings : List Crossing
  granted : List Granted
  /-- the local sections of the program images placed, by the address of their launch record (R86; log entry 47) -/
  images : Table (List LocalSection)
  errWords : Table (BitVec 4)
  history : List Nat
  outstanding : List Outstanding
  taskRetries : List TaskRetry
  colls : List Coll
  memberships : Table Membership
  apertures : Table Word
  ports : Table Port
  peerReqs : List PeerReq
  peerData : List PeerData
  peerCalls : List PeerCall
  /-- ranks of contexts to which new requests are held until the earlier ones have ended (R411) -/
  heldRanks : List (BitVec 4 × Nat)
  events : List TrapRec
  eventsLost : BitVec 8
  mgmt : List TrapRec
  mgmtWaiting : List TrapRec
  mgmtLatch : TrapRec
  hlqstat : BitVec 40
  /-- values written to hlqsub that are still to be acted on -/
  hlqReqs : List Word
  ecbase : Word
  ecsize : BitVec 16
  ectail : Word
  echead : Word
  ecval : Word
  envCalls : List EnvCall
  pageReqs : List PageReq
  atsInvs : List AtsInvalidation
  /-- what the host's latest read of the register block returned (R402) -/
  barData : Word
  /-- the line that the host's latest CXL.mem read returned, and its poison (R399, R455) -/
  cxlData : BitVec 256
  cxlPoison : Bool
  hostLines : List Nat
  snoops : List Nat
  loopctl : BitVec 4
  scrubPeriod : BitVec 32
  /-- 0x01 events to which the scrub-rate loop has not yet reacted; powered hours since the last one, and since the scrub
  period began (R440, R457) -/
  scrubDue : Nat
  quietHours : Nat
  scrubHours : Nat
  corrected : Table Nat
  life : Table Word
  lifeRecent : Table Word
  /-- MODEL'S OWN: the clock at which the next commit is due (R461; log entry 165) -/
  lifeDue : Nat
  /-- what running firmware has raised the fused minimum security version to (R453); 0 where it has not -/
  raisedSecurity : BitVec 32
  session : Session
  /-- what the stages of bring-up that are still to run will find (R452) -/
  bringing : Option BringUpReport
  /-- bring-up has run and ready has not been set (R452, R455) -/
  booting : Bool
  /-- MODEL'S OWN: the slot that issues or issued last (log entry 4) -/
  core : Nat
  slot : Nat
  /-- MODEL'S OWN: an issue of that slot is due in this cycle -/
  issuing : Bool
  /-- MODEL'S OWN: slots, by core and number, whose instruction in progress goes on without an issue, since what it waited for has
  come and its reply has not (R20) -/
  going : List (Nat × Nat)
  /-- MODEL'S OWN: inputs and events still to come, in order (log entry 4) -/
  agenda : List Input
  /-- MODEL'S OWN: the next core whose cycle passes when nothing else is due -/
  turn : Nat
  /-- MODEL'S OWN: the arithmetic clock, the count of the core that has run longest (log entry 6) -/
  clock : Nat
  /-- MODEL'S OWN: lines that the host holds and that the step in progress would write (R399) -/
  wants : List Nat
  /-- MODEL'S OWN: counters of free values, and of identifiers of commands and requests (log entry 7) -/
  free : Nat
  ident : Nat
  deriving DecidableEq, Repr

/-- The registers of a slot that holds no thread: every register at the value R21 gives for a thread's start, and
zero where the dispatch sets it. DESIGN CHOICE for an empty slot, of which the spec gives no register (log entry 1). -/
def Slot.blank : Slot where
  status := .empty
  g := Vector.replicate 32 0
  pred := 1
  v := Vector.replicate 16 0
  m := Vector.replicate 4 0
  q0 := []
  qe := Vector.replicate 8 []
  rank := 0
  mrank := 0
  lid := 0
  ctag := 0
  task := 0
  hbase := 0
  fmt := 0
  sca := 0
  scb := 0
  frm := 0
  fflags := 0
  srseed := 0
  pois := false
  hlink := 0
  sg := Vector.replicate 8 0
  ring := Vector.replicate 8 0
  pc := 0
  winG := Vector.replicate 8 0
  winV := Vector.replicate 4 0
  handler := .outside
  latch := []
  push := none
  vec := none
  pending := []
  grant := none
  inline := []
  reservation := .free
  park := .free
  haltPending := false
  stepArmed := false
  returnAt := none
  docking := false
  dockFor := none
  midway := false
  wait := .nothing
  reply := none
  gang := false
  tasked := false
  origin := none
  capsule := none
  resumed := false
  pair := .alone
  lvq := []
  outward := none
  matched := false
  pairTrap := none
  envCall := false
  last := 0
  firstIssue := false
  boundary := 0
  scrub := 0
  stay := false
  barred := none
  resend := none
  gacc := none
  word := 0

def TrapRec.zero : TrapRec := ⟨0, 0, 0, 0⟩

/-- A core after reset (R21, R40, R243, R280, R332, R359, R376, R394, R413, R438, R447, R454, R458, R461). -/
def Core.reset : Core where
  slots := Vector.replicate 8 Slot.blank
  cycle := 0
  q1 := []
  qi := Vector.replicate 6 []
  poppers := []
  pushers := []
  arriving := []
  cmdWaiters := []
  deferred := []
  bhalt := false
  efrz := false
  spawnctl := 0x7F
  dockspill := 0
  dock := []
  spilled := []
  traps := []
  trapLatch := .zero
  eventLatch := .zero
  wbiaddr := 0
  wbistat := 0
  sqsel := 0
  lqstat := 0
  ctxsel := 0
  fold := Vector.replicate 7 0
  gsel := 0
  lesel := 0
  hmsel := 0
  clsel := 0
  lifesel := 0
  mbsel := 0
  tileQ := []
  copyQ := []
  bankQ := []
  stackQ := []
  reductionQ := []
  collectiveQ := []
  acc := {}
  accPoison := []
  heldTokens := []
  bufs := Vector.replicate 6 .free
  capsules := 0
  predictor := {}
  resident := []
  icache := {}
  fenced := false
  failed := false
  admission := []
  bankTurns := 0
  scrubWait := {}

/-- A step group that is not configured (R414, R454). -/
def Group.blank : Group where
  state := 0
  s := 0
  w := 0
  ctag := 0
  core := 0
  v := false
  nmin := 0
  nmax := 0
  t := 0
  snr := 0
  buf0 := 0
  buf1 := 0
  e := 0
  stale := 0
  launch := 0
  applyPc := 0
  journal := 0
  jcount := 0
  config := 0
  closing := 0
  retry := none
  retryAt := 0

/-- A cluster after reset (R376, R382, R447, R452, R454, R359, R412). -/
def Cluster.reset : Cluster where
  contexts := {}
  tlb := []
  waiting := []
  faults := 0
  records := []
  combine := []
  hmap := 0xFEDCBA9876543210
  bank := []
  tqbase := 0
  tqsize := 0
  ringHead := 0
  ring := []
  rotation := Vector.replicate 4 0
  groups := {}
  held := false
  cooledAt := none
  celsius := 0
  mhz := 1250
  mv := 400

def StackUnit.zero : StackUnit where
  fl := 0
  flPoison := false
  bv := Vector.replicate 8 0
  bvPoison := 0
  acc := Vector.replicate 64 0
  accPoison := 0

/-- A pseudo-channel after reset (R327, R332). -/
def Pch.reset : Pch where
  allBank := false
  owner := 0
  units := {}
  store := {}
  starts := []
  rowlo := 0
  rowhi := 0x1FFFF
  rowoff := 0
  shadowStore := {}
  shadowStarts := none
  shadowWin := none
  shadowOff := none
  running := none
  failedBanks := 0
  refreshDue := false

/-- A Phoup port after reset: trained and up with four lanes (R404, R452). -/
def Port.reset : Port where
  up := true
  lanes := 4
  tx := 0
  rx := 0
  replay := []
  resent := {}
  lastAck := 0
  owed := 0
  credits := 0

/-- The module right after reset, before bring-up has run: the ready register is 0 (R402) and everything else is as
R454 says. -/
def State.reset : State where
  mem := {}
  poison := []
  entryMarks := []
  cores := {}
  clusters := {}
  pchs := {}
  homes := {}
  nextLid := 1
  queued := []
  placed := []
  ready := 0
  bursts := []
  queues := []
  watches := []
  flights := []
  messages := []
  spawns := []
  unitReqs := []
  evnote := 0
  landReqs := []
  transits := []
  crossings := []
  granted := []
  images := {}
  errWords := {}
  history := []
  outstanding := []
  taskRetries := []
  colls := []
  memberships := {}
  apertures := {}
  ports := {}
  peerReqs := []
  peerData := []
  peerCalls := []
  heldRanks := []
  events := []
  eventsLost := 0
  mgmt := []
  mgmtWaiting := []
  mgmtLatch := .zero
  hlqstat := 0
  hlqReqs := []
  ecbase := 0
  ecsize := 0
  ectail := 0
  echead := 0
  ecval := 0
  envCalls := []
  pageReqs := []
  atsInvs := []
  barData := 0
  cxlData := 0
  cxlPoison := false
  hostLines := []
  snoops := []
  loopctl := 0xF
  scrubPeriod := 28800
  scrubDue := 0
  quietHours := 0
  scrubHours := 0
  corrected := {}
  life := {}
  lifeRecent := {}
  lifeDue := 750000000000
  raisedSecurity := 0
  session := {}
  bringing := none
  booting := false
  core := 0
  slot := 0
  issuing := false
  going := []
  agenda := []
  turn := 0
  clock := 0
  wants := []
  free := 0
  ident := 0

/-- Why the machine stops. -/
inductive Fault where
  /-- Raised by `step` alone: bring-up stopped (R452) and the module stays so until the next reset, which only an
  input can bring. Safe: the module does nothing. -/
  | bringUpStopped
  deriving DecidableEq, Repr

/-- Why an instruction has no meaning. -/
inductive Refusal where
  /-- Raised by `exec` for an instruction not modelled; no arm of it answers so. Safe: nothing is claimed. -/
  | notModelled (mnemonic : String)
  deriving DecidableEq, Repr

end Sys2Proof.Machine
end

