-- ==== Sys2Proof/Machine/Bits.lean ====
section
/-!
DEFINITION. The plain helpers under the machine: tables, vectors by number, lanes of a vector register, byte
memory, poison marks by granule. Byte order is decided here once: everything is little-endian (R8).
-/

namespace Sys2Proof.Machine

/-! ## Tables -/

/-- What stands at a key. -/
def tableFind {α : Type} (k : Nat) (l : List (Nat × α)) : Option α := (l.find? fun e => e.1 == k).map Prod.snd

/-- The rows from a key on, without that key's own. -/
def tableAfter {α : Type} (k : Nat) (l : List (Nat × α)) : List (Nat × α) :=
  match l.dropWhile fun e => decide (e.1 < k) with
  | e :: rest => if e.1 = k then rest else e :: rest
  | [] => []

/-- A row goes behind those of lower keys; the one that it replaces goes away. -/
def tablePut {α : Type} (k : Nat) (v : α) (l : List (Nat × α)) : List (Nat × α) :=
  (l.takeWhile fun e => decide (e.1 < k)) ++ (k, v) :: tableAfter k l

def tableErase {α : Type} (k : Nat) (l : List (Nat × α)) : List (Nat × α) := l.filter fun e => e.1 != k

def Table.find? {α : Type} (t : Table α) (k : Nat) : Option α := tableFind k t.entries

def Table.get {α : Type} (t : Table α) (d : α) (k : Nat) : α := (tableFind k t.entries).getD d

def Table.set {α : Type} (t : Table α) (k : Nat) (v : α) : Table α := ⟨tablePut k v t.entries⟩

def Table.erase {α : Type} (t : Table α) (k : Nat) : Table α := ⟨tableErase k t.entries⟩

/-! ## Lists and vectors by number -/

def vget {α : Type} {n : Nat} (v : Vector α n) (d : α) (k : Nat) : α := v.toList.getD k d

def vset {α : Type} {n : Nat} (v : Vector α n) (k : Nat) (x : α) : Vector α n := v.setIfInBounds k x

/-- The list without its element number `k`. -/
def dropAt {α : Type} (l : List α) (k : Nat) : List α := l.eraseIdx k

/-- The element at number `k` replaced. -/
def putAt {α : Type} (l : List α) (k : Nat) (x : α) : List α := l.set k x

/-- The least number below `n` at which a test holds. -/
def firstBelow (n : Nat) (p : Nat → Bool) : Option Nat := (List.range n).find? p

/-! ## Bits -/

/-- Bits hi:lo as a number. -/
def bitsOf {w : Nat} (x : BitVec w) (hi lo : Nat) : Nat := (x.toNat / 2 ^ lo) % 2 ^ (hi - lo + 1)

/-- Bit `k`. -/
def bitAt {w : Nat} (x : BitVec w) (k : Nat) : Bool := x.getLsbD k

/-- Field hi:lo replaced by a number. -/
def setBits {w : Nat} (x : BitVec w) (hi lo v : Nat) : BitVec w :=
  BitVec.ofNat w (x.toNat % 2 ^ lo + (v % 2 ^ (hi - lo + 1)) * 2 ^ lo + x.toNat / 2 ^ (hi + 1) * 2 ^ (hi + 1))

def signExt {w : Nat} (x : BitVec w) : Word := x.signExtend 64

def zeroExt {w : Nat} (x : BitVec w) : Word := x.zeroExtend 64

/-- The low `8n` bits of a word read as an `n`-byte value, extended to 64 bits (R146). -/
def extendN (signed : Bool) (n : Nat) (x : Word) : Word :=
  if signed && bitAt x (8 * n - 1) then BitVec.ofInt 64 ((x.toNat % 2 ^ (8 * n) : Int) - 2 ^ (8 * n))
  else BitVec.ofNat 64 (x.toNat % 2 ^ (8 * n))

/-! ## Vector registers -/

/-- Lane `i` of a vector register (R24). -/
def lane (v : Vec) (i : Nat) : Lane := v.extractLsb' (32 * i) 32

/-- The register whose lane `i` is `f i`, from lane 63 down. -/
def lanesFrom (f : Nat → Lane) : Nat → Nat
  | 0 => 0
  | n + 1 => (f (63 - n)).toNat + 2 ^ 32 * lanesFrom f n

/-- The register with the lanes that a function gives. -/
def ofLanes (f : Nat → Lane) : Vec := BitVec.ofNat 2048 (lanesFrom f 64)

def setLane (v : Vec) (i : Nat) (x : Lane) : Vec := ofLanes fun j => if j = i then x else lane v j

/-- Doubleword `d` of a vector register, which holds lanes 2d and 2d + 1 (R240). -/
def vecWord (v : Vec) (d : Nat) : Word := v.extractLsb' (64 * d) 64

def setVecWord (v : Vec) (d : Nat) (x : Word) : Vec :=
  ofLanes fun j => if j / 2 = d then x.extractLsb' (32 * (j % 2)) 32 else lane v j

/-! ## Byte memory -/

/-- What the memory holds at an address: an unlisted address reads as zero (R454). -/
def Memory.read (m : Memory) (a : Nat) : Byte := (tableFind a m.cells).getD 0

/-- A byte written; a zero byte is the same as no entry. -/
def Memory.write (m : Memory) (a : Nat) (b : Byte) : Memory :=
  if b = 0 then ⟨tableErase a m.cells⟩ else ⟨tablePut a b m.cells⟩

/-- `n` bytes at `a` as a number, little-endian. -/
def Memory.readN (m : Memory) (a : Nat) : Nat → Nat
  | 0 => 0
  | n + 1 => (m.read a).toNat + 256 * Memory.readN m (a + 1) n

/-- `n` bytes of a number written at `a`, little-endian. -/
def Memory.writeN (m : Memory) (a : Nat) : Nat → Nat → Memory
  | 0, _ => m
  | n + 1, v => (Memory.writeN m (a + 1) n (v / 256)).write a (BitVec.ofNat 8 v)

/-- A list of cells with rising addresses, each above `lo`, and no zero byte. -/
def cellsAbove (lo : Nat) : List Host.Cell → Bool
  | [] => true
  | (a, b) :: rest => decide (lo ≤ a) && b != 0 && cellsAbove (a + 1) rest

/-- The canonical form: addresses strictly rising, no entry equal to what an unlisted address reads as. -/
def Memory.wf (m : Memory) : Bool := cellsAbove 0 m.cells

/-- Where the memories lie in the one address space of the model's memory: physical addresses at themselves
(52 bits, R271), scratchpads and landing buffers above them. The layout above the physical addresses is the
model's own. -/
def padAddr (core off : Nat) : Nat := 2 ^ 52 + core * 2 ^ 21 + off

/-- Byte `off` of ferry buffer `buf` of a core: 0–3 are the landing buffers, 4 and 5 the outbound ones (R312). -/
def bufAddr (core buf off : Nat) : Nat := 2 ^ 53 + core * 2 ^ 16 + buf * 2 ^ 13 + off

/-- The size of the poison granule at an address (R434): 4 bytes in scratchpads and buffers, 32 bytes in HBM and
host memory. -/
def granuleSize (a : Nat) : Nat := if a < 2 ^ 52 then 32 else 4

/-- The granules that `n` bytes at `a` touch, by their first bytes. -/
def granules (a n : Nat) : List Nat :=
  let g := granuleSize a
  (List.range ((a % g + n + g - 1) / g)).map fun i => a / g * g + i * g

/-- The granules that `n` bytes at `a` cover whole. -/
def wholeGranules (a n : Nat) : List Nat :=
  let g := granuleSize a
  (granules a n).filter fun x => decide (a ≤ x) && decide (x + g ≤ a + n)

def insertSorted (x : Nat) : List Nat → List Nat
  | [] => [x]
  | y :: rest => if x < y then x :: y :: rest else if x = y then y :: rest else y :: insertSorted x rest

/-- Some granule of the range is marked. -/
def poisonedIn (marks : List Nat) (a n : Nat) : Bool :=
  !marks.isEmpty && (granules a n).any fun x => marks.contains x

def markPoison (marks : List Nat) (gs : List Nat) : List Nat := gs.foldl (fun acc x => insertSorted x acc) marks

def clearMarks (marks : List Nat) (gs : List Nat) : List Nat := marks.filter fun x => !gs.contains x

end Sys2Proof.Machine
end

