-- ==== Sys2Proof/Machine/FP.lean ====
section
/-!
DEFINITION. Number formats, rounding and the order of sums (R42–R68). Operands are decoded to exact values, every
operation is exact, and one rounding narrows the result: carries, ties and overflow are comparisons of exact numbers.
-/

namespace Sys2Proof.Machine

/-! ## Formats (R42, R43) -/

/-- How a format codes what is not a finite number. -/
inductive Special where
  | ieee | e4m3 | finite
  deriving DecidableEq, Repr

structure Fmt where
  ebits : Nat
  mbits : Nat
  bias : Nat
  special : Special
  deriving DecidableEq, Repr

def fp32 : Fmt := ⟨8, 23, 127, .ieee⟩
def fp16 : Fmt := ⟨5, 10, 15, .ieee⟩
def bf16 : Fmt := ⟨8, 7, 127, .ieee⟩
def e4m3 : Fmt := ⟨4, 3, 7, .e4m3⟩
def e5m2 : Fmt := ⟨5, 2, 15, .ieee⟩
def e3m2 : Fmt := ⟨3, 2, 3, .finite⟩
def e2m3 : Fmt := ⟨2, 3, 1, .finite⟩
def e2m1 : Fmt := ⟨2, 1, 1, .finite⟩

def Fmt.width (f : Fmt) : Nat := 1 + f.ebits + f.mbits
def Fmt.signBit (f : Fmt) : Nat := 2 ^ (f.ebits + f.mbits)
/-- The code of the largest finite value. -/
def Fmt.maxCode (f : Fmt) : Nat :=
  match f.special with
  | .ieee => (2 ^ f.ebits - 1) * 2 ^ f.mbits - 1
  | .e4m3 => 2 ^ (f.ebits + f.mbits) - 2
  | .finite => 2 ^ (f.ebits + f.mbits) - 1
/-- The NaN produced; a format without NaN has none, and no operation rounds a NaN to one (R54). -/
def Fmt.nanCode (f : Fmt) : Nat :=
  match f.special with
  | .ieee => (2 ^ f.ebits - 1) * 2 ^ f.mbits + 2 ^ (f.mbits - 1)
  | .e4m3 => 2 ^ (f.ebits + f.mbits) - 1
  | .finite => 0
def Fmt.infCode (f : Fmt) : Nat := (2 ^ f.ebits - 1) * 2 ^ f.mbits

/-- An exact value: ± num / den, an infinity, or a NaN and whether it is signalling. Zeros keep their sign. -/
inductive Val where
  | fin (neg : Bool) (num den : Nat)
  | inf (neg : Bool)
  | nan (signalling : Bool)
  deriving DecidableEq, Repr

/-- m × 2^e as an exact value. -/
def dyadic (neg : Bool) (m : Nat) (e : Int) : Val :=
  match e with
  | .ofNat k => .fin neg (m * 2 ^ k) 1
  | .negSucc k => .fin neg m (2 ^ (k + 1))

/-- The value of a code (R42, R43). Which NaN codes are signalling is DEDUCED (log entry 132). -/
def decodeFp (f : Fmt) (code : Nat) : Val :=
  let neg := code / f.signBit % 2 == 1
  let e := code / 2 ^ f.mbits % 2 ^ f.ebits
  let m := code % 2 ^ f.mbits
  if f.special == .ieee && e == 2 ^ f.ebits - 1 then
    if m = 0 then .inf neg else .nan (decide (m < 2 ^ (f.mbits - 1)))
  else if f.special == .e4m3 && e == 2 ^ f.ebits - 1 && m == 2 ^ f.mbits - 1 then .nan false
  else if e = 0 then dyadic neg m (1 - f.bias - f.mbits)
  else dyadic neg (2 ^ f.mbits + m) (e - f.bias - f.mbits)

/-! ## Flags (R32) -/

def flagNx : BitVec 7 := 1
def flagUf : BitVec 7 := 2
def flagOf : BitVec 7 := 4
def flagDz : BitVec 7 := 8
def flagNv : BitVec 7 := 16
def flagSat : BitVec 7 := 32
def flagFmt : BitVec 7 := 64

def flagIf (b : Bool) (f : BitVec 7) : BitVec 7 := if b then f else 0

/-! ## Rounding (R51, R52, R56) -/

inductive Mode where
  | rne | rtz | rdn | rup | rmm | sr
  deriving DecidableEq, Repr

def modeOf (frm : BitVec 3) : Mode :=
  match frm.toNat with
  | 0 => .rne
  | 1 => .rtz
  | 2 => .rdn
  | 3 => .rup
  | 4 => .rmm
  | _ => .sr

/-- SR is taken as RNE where results are FP32 or wider, and in reductions (R51, R63). -/
def Mode.noSr (m : Mode) : Mode := if m = .sr then .rne else m

/-- ⌊log2 (num / den)⌋ of a positive fraction. -/
def fracLog2 (num den : Nat) : Int :=
  let e : Int := Nat.log2 num - Nat.log2 den
  let small := match e with
    | .ofNat k => decide (num < den * 2 ^ k)
    | .negSucc k => decide (num * 2 ^ (k + 1) < den)
  if small then e - 1 else e

/-- num / den divided by 2^q, as a numerator and a denominator. -/
def scaleDown (num den : Nat) (q : Int) : Nat × Nat :=
  match q with
  | .ofNat k => (num, den * 2 ^ k)
  | .negSucc k => (num * 2 ^ (k + 1), den)

/-- Whether the magnitude lo + rem/den is rounded away from zero (R51, R56). -/
def roundsUp (mode : Mode) (rnd : Nat) (neg : Bool) (lo rem den : Nat) : Bool :=
  if rem = 0 then false
  else match mode with
    | .rne => decide (den < 2 * rem) || (2 * rem == den && lo % 2 == 1)
    | .rmm => decide (den ≤ 2 * rem)
    | .rtz => false
    | .rdn => neg
    | .rup => !neg
    | .sr => decide (rnd < rem * 2 ^ 32 / den)

/-- The integer that a magnitude in units of 2^q rounds to. -/
def roundAt (mode : Mode) (rnd : Nat) (neg : Bool) (num den : Nat) (q : Int) : Nat × Bool :=
  let (a, b) := scaleDown num den q
  let lo := a / b
  (lo + (if roundsUp mode rnd neg lo (a % b) b then 1 else 0), a % b != 0)

def signed (f : Fmt) (neg : Bool) (mag : Nat) : Nat := mag + if neg then f.signBit else 0

/-- The result of an overflow (R52). -/
def overflowCode (f : Fmt) (mode : Mode) (sat neg : Bool) : Nat × BitVec 7 :=
  let flags := flagOf ||| flagNx
  if sat then (signed f neg f.maxCode, flags ||| flagSat)
  else match f.special with
    | .ieee =>
      let toInf := match mode with
        | .rtz => false
        | .rdn => neg
        | .rup => !neg
        | _ => true
      (signed f neg (if toInf then f.infCode else f.maxCode), flags)
    | .e4m3 => (signed f neg f.nanCode, flags)
    | .finite => (signed f neg f.maxCode, flags ||| flagSat)

/-- RoundTo(x, F, mode, sat) of R52, with the draw that SR uses. The flag nv of a signalling operand is raised by the
operation, not here. That an infinite x rounded to E4M3 with sat = 0 gives the NaN of x's sign is DEDUCED (log entry 131). -/
def roundTo (f : Fmt) (mode : Mode) (sat : Bool) (rnd : Nat) (x : Val) : Nat × BitVec 7 :=
  match x with
  | .nan _ => (f.nanCode, 0)
  | .inf neg =>
    match f.special, sat with
    | .ieee, false => (signed f neg f.infCode, 0)
    | .e4m3, false => (signed f neg f.nanCode, 0)
    | _, _ => (signed f neg f.maxCode, flagSat)
  | .fin neg num den =>
    if num = 0 then (signed f neg 0, 0)
    else
      let emin : Int := 1 - f.bias
      let e := fracLog2 num den
      let q := max e emin - f.mbits
      let (k, inexact) := roundAt mode rnd neg num den q
      let mag := if k < 2 ^ f.mbits then k else (q + f.mbits + f.bias).toNat * 2 ^ f.mbits + (k - 2 ^ f.mbits)
      if f.maxCode < mag then overflowCode f mode sat neg
      else
        let tiny := decide (e < emin) &&
          !(decide (e = emin - 1) && decide ((roundAt mode rnd neg num den (e - f.mbits)).1 = 2 ^ (f.mbits + 1)))
        (signed f neg mag, flagIf (tiny && inexact) flagUf ||| flagIf inexact flagNx)

/-- RoundF32(x, mode) (R52). -/
def roundF32 (mode : Mode) (x : Val) : Nat × BitVec 7 := roundTo fp32 mode.noSr false 0 x

/-! ## Exact arithmetic (R57) -/

def Val.isNan : Val → Bool
  | .nan _ => true
  | _ => false

def Val.sNan : Val → Bool
  | .nan s => s
  | _ => false

def Val.isZero : Val → Bool
  | .fin _ 0 _ => true
  | _ => false

def Val.negative : Val → Bool
  | .fin n _ _ => n
  | .inf n => n
  | .nan _ => false

def Val.neg : Val → Val
  | .fin n a b => .fin (!n) a b
  | .inf n => .inf (!n)
  | .nan s => .nan s

/-- ± num / den of an integer numerator. A zero is negative only when rounding down. -/
def fromInt (zeroNeg : Bool) (num : Int) (den : Nat) : Val :=
  if num = 0 then .fin zeroNeg 0 1 else .fin (decide (num < 0)) num.natAbs den

def toSigned (neg : Bool) (num : Nat) : Int := if neg then -(num : Int) else num

/-- The exact sum and its flags. A sum of zero is −0 if both addends are, and else +0, or −0 when rounding down (R57, whose
words hold of two +0 too; DEDUCED, log entry 15). -/
def addVal (mode : Mode) (a b : Val) : Val × BitVec 7 :=
  match a, b with
  | .nan s, y => (.nan false, flagIf (s || y.sNan) flagNv)
  | _, .nan s => (.nan false, flagIf s flagNv)
  | .inf x, .inf y => if x = y then (.inf x, 0) else (.nan false, flagNv)
  | .inf x, .fin _ _ _ => (.inf x, 0)
  | .fin _ _ _, .inf y => (.inf y, 0)
  | .fin n1 a1 b1, .fin n2 a2 b2 =>
    if a1 = 0 && a2 = 0 then (.fin (decide (mode = .rdn) || (n1 && n2)) 0 1, 0)
    else
      let g := Nat.gcd b1 b2
      let num := toSigned n1 a1 * (b2 / g : Nat) + toSigned n2 a2 * (b1 / g : Nat)
      (fromInt (decide (mode = .rdn)) num (b1 / g * b2), 0)

def subVal (mode : Mode) (a b : Val) : Val × BitVec 7 := addVal mode a b.neg

/-- The exact product and its flags (R57). -/
def mulVal (a b : Val) : Val × BitVec 7 :=
  match a, b with
  | .nan s, y => (.nan false, flagIf (s || y.sNan) flagNv)
  | _, .nan s => (.nan false, flagIf s flagNv)
  | .inf x, y => if y.isZero then (.nan false, flagNv) else (.inf (x != y.negative), 0)
  | x, .inf y => if x.isZero then (.nan false, flagNv) else (.inf (x.negative != y), 0)
  | .fin n1 a1 b1, .fin n2 a2 b2 => (.fin (n1 != n2) (a1 * a2) (b1 * b2), 0)

/-- The exact quotient and its flags (R57). -/
def divVal (a b : Val) : Val × BitVec 7 :=
  match a, b with
  | .nan s, y => (.nan false, flagIf (s || y.sNan) flagNv)
  | _, .nan s => (.nan false, flagIf s flagNv)
  | .inf _, .inf _ => (.nan false, flagNv)
  | .inf x, .fin n _ _ => (.inf (x != n), 0)
  | .fin n _ _, .inf y => (.fin (n != y) 0 1, 0)
  | .fin n1 a1 b1, .fin n2 a2 b2 =>
    if a2 = 0 then (if a1 = 0 then (.nan false, flagNv) else (.inf (n1 != n2), flagDz))
    else (.fin (n1 != n2) (a1 * b2) (b1 * a2), 0)

/-- a × b + d, the product exact; ∞ × 0 raises nv even when d is a NaN (R176). -/
def fmaVal (mode : Mode) (a b d : Val) : Val × BitVec 7 :=
  let (p, f) := mulVal a b
  let (r, g) := addVal mode p d
  (r, f ||| g)

/-- The integer square root by digits, from bit `k` down. -/
def isqrtFrom (n : Nat) : Nat → Nat → Nat
  | 0, r => r
  | k + 1, r => isqrtFrom n k (if (r + 2 ^ k) * (r + 2 ^ k) ≤ n then r + 2 ^ k else r)

def isqrt (n : Nat) : Nat := isqrtFrom n (Nat.log2 n / 2 + 1) 0

/-- √a as an exact value, or one that lies strictly between the same neighbours of a grid finer than any format's, so
that every rounding of it is that of the root (R176). -/
def sqrtVal (a : Val) : Val × BitVec 7 :=
  match a with
  | .nan s => (.nan false, flagIf s flagNv)
  | .inf n => if n then (.nan false, flagNv) else (.inf false, 0)
  | .fin n num den =>
    if num = 0 then (.fin n 0 1, 0)
    else if n then (.nan false, flagNv)
    else
      let x := num * den * 2 ^ 128
      let r := isqrt x
      if r * r = x then (.fin false r (den * 2 ^ 64), 0) else (.fin false (2 * r + 1) (2 * den * 2 ^ 64), 0)

/-- ln 2 in units of 2^−256: Σ 1 / (n 2^n), with guard bits. -/
def ln2From : Nat → Nat
  | 0 => 0
  | n + 1 => ln2From n + 2 ^ 288 / ((n + 1) * 2 ^ (n + 1))

def ln2Fixed : Nat := ln2From 290 / 2 ^ 32

/-- Σ y^i / i! in units of 2^−256, for `n` terms from term `i` on, the current term being `t`. -/
def expFrom (y : Nat) : Nat → Nat → Nat → Nat
  | 0, _, _ => 0
  | n + 1, i, t => t + expFrom y n (i + 1) (t * y / 2 ^ 256 / (i + 1))

/-- 2^a for a finite a, to far more bits than any format's rounding needs (R59). -/
def exp2Finite (neg : Bool) (num den : Nat) : Val :=
  let x : Int := toSigned neg num
  let i := x / (den : Int)
  let f := (x % (den : Int)).toNat
  if f = 0 then dyadic false 1 i
  else
    let y := f * 2 ^ 256 / den * ln2Fixed / 2 ^ 256
    dyadic false (2 * expFrom y 70 0 (2 ^ 256) + 1) (i - 257)

/-- 2^a (R59, R176): far beyond every format's range the exponent is cut, which no rounding can tell. -/
def exp2Val (a : Val) : Val × BitVec 7 :=
  match a with
  | .nan s => (.nan false, flagIf s flagNv)
  | .inf n => (if n then .fin false 0 1 else .inf false, 0)
  | .fin n num den =>
    if 400 * den < num then (dyadic false 3 (if n then -400 else 400), 0) else (exp2Finite n num den, 0)

/-- Rounding of an operation's exact result: code and all flags. -/
def rounded (f : Fmt) (mode : Mode) (rnd : Nat) (r : Val × BitVec 7) : Nat × BitVec 7 :=
  let (c, fl) := roundTo f mode false rnd r.1
  (c, fl ||| r.2)

/-- One FP32 operation with one rounding. -/
def f32 (mode : Mode) (r : Val × BitVec 7) : Nat × BitVec 7 := rounded fp32 mode.noSr 0 r

def dec32 (c : Nat) : Val := decodeFp fp32 c

def add32 (a b : Nat) : Nat × BitVec 7 := f32 .rne (addVal .rne (dec32 a) (dec32 b))
def sub32 (a b : Nat) : Nat × BitVec 7 := f32 .rne (subVal .rne (dec32 a) (dec32 b))
def mul32 (a b : Nat) : Nat × BitVec 7 := f32 .rne (mulVal (dec32 a) (dec32 b))
def div32 (a b : Nat) : Nat × BitVec 7 := f32 .rne (divVal (dec32 a) (dec32 b))
/-- a + b × c, rounded once. -/
def fma32 (a b c : Nat) : Nat × BitVec 7 := f32 .rne (fmaVal .rne (dec32 b) (dec32 c) (dec32 a))
/-- Exp2F32 (R59). -/
def exp32 (a : Nat) : Nat × BitVec 7 := f32 .rne (exp2Val (dec32 a))

/-! ## Comparison (R58, R181) -/

/-- The place of a non-NaN code in the order in which −0 lies below +0. -/
def orderKey (f : Fmt) (code : Nat) : Int :=
  let mag := (code % f.signBit : Nat)
  if code / f.signBit % 2 = 1 then -(mag : Int) - 1 else mag

/-- max or min of two codes (R58). -/
def pick (f : Fmt) (larger : Bool) (a b : Nat) : Nat × BitVec 7 :=
  let x := decodeFp f a
  let y := decodeFp f b
  if x.isNan || y.isNan then (f.nanCode, flagIf (x.sNan || y.sNan) flagNv)
  else
    let aLess := decide (orderKey f a < orderKey f b)
    (if aLess == larger then b else a, 0)

def max32 (a b : Nat) : Nat × BitVec 7 := pick fp32 true a b
def min32 (a b : Nat) : Nat × BitVec 7 := pick fp32 false a b

/-- The order of two non-NaN codes with −0 equal to +0, by their exact values. -/
def fpCmp (f : Fmt) (a b : Nat) : Ordering :=
  let key := fun c => let k := orderKey f c; if k < 0 then k + 1 else k
  compare (key a) (key b)

/-! ## Conversion (R53) -/

/-- Float to an integer of `w` bits, saturating. -/
def toIntW (w : Nat) (mode : Mode) (x : Val) : Nat × BitVec 7 :=
  let hi : Int := 2 ^ (w - 1) - 1
  let lo : Int := -(2 ^ (w - 1))
  let enc := fun (i : Int) => (BitVec.ofInt w i).toNat
  match x with
  | .nan _ => (0, flagNv)
  | .inf n => (enc (if n then lo else hi), flagNv ||| flagSat)
  | .fin n num den =>
    let (k, inexact) := roundAt mode 0 n num den 0
    let i := toSigned n k
    if hi < i then (enc hi, flagNv ||| flagSat)
    else if i < lo then (enc lo, flagNv ||| flagSat)
    else (enc i, flagIf inexact flagNx)

/-- An integer as an exact value. -/
def ofIntVal (i : Int) : Val := .fin (decide (i < 0)) i.natAbs 1

/-! ## The generator of stochastic rounding (R55) -/

def lfsrStep (s : BitVec 32) : BitVec 32 :=
  let s := if s = 0 then 1 else s
  if s.getLsbD 0 then (s >>> 1) ^^^ 0x80200003#32 else s >>> 1

/-! ## Sums (R60–R68) -/

/-- One Welford update with the new count n (R64): mean, M2 and flags. -/
def welford (n mean m2 x : Nat) : Nat × Nat × BitVec 7 :=
  let (d, f1) := sub32 x mean
  let (q, g2) := divVal (dec32 d) (.fin false n 1)
  let (s, h2) := addVal .rne (dec32 mean) q
  let (mu, f2) := rounded fp32 .rne 0 (s, g2 ||| h2)
  let (t, f3) := sub32 x mu
  let (m2', f4) := fma32 m2 d t
  (mu, m2', f1 ||| f2 ||| f3 ||| f4)

/-- The sum of up to eight operands in the order of R65; absent ones are `none`. -/
def addAbsent (a b : Option Nat) : Option Nat × BitVec 7 :=
  match a, b with
  | some x, some y => let (r, f) := add32 x y; (some r, f)
  | some x, none => (some x, 0)
  | none, y => (y, 0)

/-- One level of a pairwise tree: neighbours combined, an unpaired last one passed up. -/
def pairUp {α : Type} (f : α → α → α) : List α → List α
  | a :: b :: rest => f a b :: pairUp f rest
  | short => short

/-- `n` levels of a pairwise tree. -/
def treeLevels {α : Type} (f : α → α → α) : Nat → List α → List α
  | 0, l => l
  | n + 1, l => treeLevels f n (pairUp f l)

/-- The sum of R65 with its flags. -/
def sumEight (l : List Nat) : Nat × BitVec 7 :=
  let join := fun (a b : Option Nat × BitVec 7) => let (r, f) := addAbsent a.1 b.1; (r, f ||| a.2 ||| b.2)
  let leaves := (List.range 8).map fun i => (l[i]?, (0 : BitVec 7))
  match treeLevels join 3 leaves with
  | (some r, f) :: _ => (r, f)
  | _ => (0, 0)

/-- A partial result of a collective: count, mean and M2 of one element (R66). -/
structure Partial where
  n : Nat
  mean : Nat
  m2 : Nat
  deriving DecidableEq, Repr

/-- The merge of R66, A covering the lower ranks. -/
def mergePartials (a b : Partial) : Partial :=
  if a.n = 0 then b
  else if b.n = 0 then a
  else
    let n := a.n + b.n
    let d := (sub32 b.mean a.mean).1
    let w := (roundF32 .rne (.fin false b.n n)).1
    let mean := (fma32 a.mean d w).1
    let k := (roundF32 .rne (.fin false (a.n * b.n) n)).1
    let m2 := (fma32 (add32 a.m2 b.m2).1 (mul32 d d).1 k).1
    ⟨n, mean, m2⟩

/-- Absent leaves pass their siblings through (R67). -/
def mergeAbsent (a b : Option Partial) : Option Partial :=
  match a, b with
  | some x, some y => some (mergePartials x y)
  | some x, none => some x
  | none, y => y

/-- The signal-to-noise figure of R68 over means and M2 values with one count. -/
def snrOf (n : Nat) (elems : List (Nat × Nat)) : Nat :=
  let q := (roundF32 .rne (.fin false (n * (n - 1)) 1)).1
  let (num, den) := elems.foldl (fun (acc : Nat × Nat) (e : Nat × Nat) =>
    ((add32 acc.1 (mul32 e.1 e.1).1).1, (add32 acc.2 (div32 e.2 q).1).1)) (0, 0)
  if n < 2 then 0x7FC00000
  else if (dec32 den).isZero then
    (if (dec32 num).isNan then 0 else if 0 < orderKey fp32 num then 0x7F800000 else 0)
  else (div32 num den).1

/-! ## Block formats (R44–R50) -/

/-- An E8M0 scale (R44). -/
def scaleVal (e : Nat) : Val := if e = 255 then .nan false else dyadic false 1 ((e : Int) - 127)

/-- Trit `i` of a T5 byte, and whether the byte is reserved (R48). -/
def tritVal (b i : Nat) : Val × Bool :=
  if 243 ≤ b then (.fin false 0 1, true)
  else match b / 3 ^ i % 3 with
    | 1 => (.fin false 1 1, false)
    | 2 => (.fin true 1 1, false)
    | _ => (.fin false 0 1, false)

/-- The element formats of a block: those of MX and T5 (R45, R54). -/
inductive BlockFmt where
  | mx (f : Fmt)
  | int8
  | t5
  deriving DecidableEq, Repr

/-- The elements of a block. -/
def BlockFmt.size (f : BlockFmt) : Nat := if f = .t5 then 40 else 32

/-- The largest exponent of a block format's elements (R54). -/
def BlockFmt.emax (f : BlockFmt) : Int :=
  match f with
  | .mx ⟨4, 3, _, _⟩ => 8
  | .mx ⟨5, 2, _, _⟩ => 15
  | .mx ⟨3, 2, _, _⟩ => 4
  | .mx ⟨2, 3, _, _⟩ => 2
  | .mx ⟨2, 1, _, _⟩ => 2
  | _ => 0

def Val.isInf : Val → Bool
  | .inf _ => true
  | _ => false

/-- ⌊log2 |v|⌋ of a finite nonzero value. -/
def Val.exponent : Val → Option Int
  | .fin _ (n + 1) den => some (fracLog2 (n + 1) den)
  | _ => none

/-- The scale of a block (R54): its code, and whether an infinity or a signalling NaN raised nv. -/
def blockScale (f : BlockFmt) (vs : List Val) : Nat × BitVec 7 :=
  if vs.any fun v => v.isNan || v.isInf then (255, flagIf (vs.any fun v => v.isInf || v.sNan) flagNv)
  else match vs.filterMap Val.exponent with
    | [] => (127, 0)
    | e :: rest => ((min 254 (max 0 (rest.foldl max e - f.emax + 127))).toNat, 0)

/-- A finite value in units of 1 / `unit`, rounded to an integer and cut to `top`: its magnitude, whether that overflowed
and whether it is inexact (R54). -/
def roundUnits (unit top : Nat) (mode : Mode) (rnd : Nat) (neg : Bool) (num den : Nat) : Nat × Bool × Bool :=
  let (k, inexact) := roundAt mode rnd neg (num * unit) den 0
  (min k top, decide (top < k), inexact)

/-- The code of an element of a block with a valid scale (R54): RoundTo with sat = 1; units of 2^−6 cut to 0x81–0x7F (R49);
the nearest trit. The flags of a cut INT8 element are those of RoundTo's overflow, and a trit raises nx alone (log entry
130). -/
def blockElem (f : BlockFmt) (mode : Mode) (rnd scale : Nat) (v : Val) : Nat × BitVec 7 :=
  match f, (divVal v (scaleVal scale)).1 with
  | .mx g, x => roundTo g mode true rnd x
  | .int8, .fin neg num den =>
    let (k, cut, inexact) := roundUnits 64 127 mode rnd neg num den
    ((if neg then (256 - k) % 256 else k), if cut then flagOf ||| flagNx ||| flagSat else flagIf inexact flagNx)
  | .t5, .fin neg num den =>
    let (k, cut, inexact) := roundUnits 1 1 mode rnd neg num den
    ((if neg then 2 * k else k), flagIf (cut || inexact) flagNx)
  | _, _ => (0, 0)

/-- A block converted (R54): its scale and element codes, the flags, and the generator. -/
structure BlockCodes where
  scale : Nat
  elems : List Nat
  flags : BitVec 7
  seed : BitVec 32
  deriving DecidableEq, Repr

/-- The elements of a block in increasing order. In SR mode each draws one step, whatever it holds (R56). -/
def convertElems (f : BlockFmt) (mode : Mode) (scale : Nat) (seed : BitVec 32) : List Val → BlockCodes
  | [] => ⟨scale, [], 0, seed⟩
  | v :: rest =>
    let drawn := if mode = .sr then lfsrStep seed else seed
    let (code, fl) := if scale = 255 then (0, 0) else blockElem f mode drawn.toNat scale v
    let b := convertElems f mode scale drawn rest
    { b with elems := code :: b.elems, flags := fl ||| b.flags }

/-- The conversion of a block's values (R54, R56). No instruction of the table converts a block. -/
def convertBlock (f : BlockFmt) (mode : Mode) (seed : BitVec 32) (vs : List Val) : BlockCodes :=
  let (scale, fl) := blockScale f vs
  let b := convertElems f mode scale seed vs
  { b with flags := fl ||| b.flags }

/-- Five trit codes as one byte (R48). -/
def tritByte (codes : List Nat) : Nat := codes.foldr (fun c acc => c + 3 * acc) 0

/-- Element codes of `w` bits packed from the least significant bits (R47). -/
def packElems (w : Nat) (codes : List Nat) : Nat := codes.foldr (fun c acc => c % 2 ^ w + 2 ^ w * acc) 0

end Sys2Proof.Machine
end

