-- ==== Sys2Proof/WellFormed.lean ====
section
/-!
DEFINITION. Which instructions the encoding admits (R96–R104): the reserved codes of the families, of the mask,
type, width and level fields, and the fields a form wants zero. A word whose fields break one of these checks is
no instruction. The events and engine commands have no word, and nothing here restricts them.
-/

namespace Sys2Proof

/-- A msk code names no mask or one of m0–m3 (R99); 0b001–0b011 are reserved. -/
def maskCode (msk : BitVec 3) : Bool := msk == 0#3 || msk.getLsbD 2

/-- A ty code that names an element type (R99); 0b110 and 0b111 are reserved. -/
def anyType (ty : BitVec 3) : Bool := decide (ty.toNat < 6)

/-- FP32, FP16 or BF16 (R99). -/
def floatType (ty : BitVec 3) : Bool := decide (ty.toNat < 3)

/-- INT32, INT16 or INT8 (R99). -/
def intType (ty : BitVec 3) : Bool := decide (3 ≤ ty.toNat) && decide (ty.toNat < 6)

/-- The types vpack and vunpk allow: FP16, BF16, INT16 and INT8 (R179, R180). -/
def packType (ty : BitVec 3) : Bool := anyType ty && ty != 0#3 && ty != 3#3

/-- In the scalar form (gs nonzero) vb must be zero (R175). -/
def scalarForm (vb : BitVec 4) (gs : BitVec 6) : Bool := gs == 0#6 || vb == 0#4

/-- The six conditions of cmp and vcmp (R103). -/
def condCode (c : BitVec 3) : Bool := decide (c.toNat < 6)

/-- vunpk takes h of 0 or 1 for the 16-bit types (R180). -/
def halfCode (ty : BitVec 3) (h : BitVec 2) : Bool := ty == 5#3 || !h.getLsbD 1

/-- The widths of sext and zext (R132). -/
def widthCode (w : BitVec 2) : Bool := w != 3#2

/-- The levels of bar (R255). -/
def levelCode (lvl : BitVec 2) : Bool := lvl != 3#2

/-- The operations of amo (R103). -/
def amoCode (f : BitVec 4) : Bool := decide (f.toNat < 9)

/-- The instruction is one the encoding admits. -/
def Instr.wellFormed : Instr → Bool
  | .trap _ _ => true
  | .tret _ _ => true
  | .park _ => true
  | .xrd _ _ _ => true
  | .xwr _ _ _ => true
  | .sysrd _ _ => true
  | .syswr _ _ => true
  | .segld _ _ => true
  | .segldImg _ _ => true
  | .ifence => true
  | .chkerr _ _ => true
  | .quit => true
  | .send _ _ _ => true
  | .bar _ lvl => levelCode lvl
  | .dockIn _ _ _ => true
  | .dockOut _ _ _ => true
  | .spawn _ _ _ => true
  | .tsub _ _ _ => true
  | .tget _ _ => true
  | .tdone _ _ => true
  | .brk _ => true
  | .kill _ _ => true
  | .wake _ _ _ => true
  | .halt _ _ => true
  | .cont _ _ _ => true
  | .add _ _ _ => true
  | .sub _ _ _ => true
  | .mul _ _ _ => true
  | .mulh _ _ _ => true
  | .mulhu _ _ _ => true
  | .div _ _ _ => true
  | .divu _ _ _ => true
  | .rem _ _ _ => true
  | .remu _ _ _ => true
  | .and _ _ _ => true
  | .or _ _ _ => true
  | .xor _ _ _ => true
  | .andn _ _ _ => true
  | .sll _ _ _ => true
  | .srl _ _ _ => true
  | .sra _ _ _ => true
  | .min _ _ _ => true
  | .max _ _ _ => true
  | .minu _ _ _ => true
  | .maxu _ _ _ => true
  | .clz _ _ => true
  | .ctz _ _ => true
  | .popc _ _ => true
  | .sext _ _ w => widthCode w
  | .zext _ _ w => widthCode w
  | .rotl _ _ _ => true
  | .rotr _ _ _ => true
  | .sel _ _ _ _ => true
  | .cmp _ _ _ c => condCode c
  | .pl _ _ _ _ => true
  | .jalr _ _ => true
  | .addi _ _ _ => true
  | .andi _ _ _ => true
  | .ori _ _ _ => true
  | .xori _ _ _ => true
  | .slli _ _ _ => true
  | .srli _ _ _ => true
  | .srai _ _ _ => true
  | .cmpi _ _ _ _ => true
  | .ldB _ _ _ => true
  | .ldBu _ _ _ => true
  | .ldH _ _ _ => true
  | .ldHu _ _ _ => true
  | .ldW _ _ _ => true
  | .ldWu _ _ _ => true
  | .ldD _ _ _ => true
  | .stB _ _ _ => true
  | .stH _ _ _ => true
  | .stW _ _ _ => true
  | .stD _ _ _ => true
  | .lres _ _ _ _ => true
  | .sres _ _ _ _ _ => true
  | .amo _ _ _ f _ => amoCode f
  | .cas _ _ _ _ _ => true
  | .wrs _ _ _ => true
  | .fence _ => true
  | .fenceB _ => true
  | .fenceA _ => true
  | .beq _ _ _ => true
  | .bne _ _ _ => true
  | .blt _ _ _ => true
  | .bge _ _ _ => true
  | .bltu _ _ _ => true
  | .bgeu _ _ _ => true
  | .bt _ _ => true
  | .bf _ _ => true
  | .jmp _ => true
  | .jal _ _ => true
  | .lui _ _ => true
  | .lpc _ _ => true
  | .vadd _ _ vb msk gs ty => maskCode msk && anyType ty && scalarForm vb gs
  | .vsub _ _ vb msk gs ty => maskCode msk && anyType ty && scalarForm vb gs
  | .vmul _ _ vb msk gs ty => maskCode msk && anyType ty && scalarForm vb gs
  | .vdiv _ _ vb msk gs ty => maskCode msk && anyType ty && scalarForm vb gs
  | .vfma _ _ vb msk gs ty => maskCode msk && anyType ty && scalarForm vb gs
  | .vfms _ _ vb msk gs ty => maskCode msk && anyType ty && scalarForm vb gs
  | .vmin _ _ vb msk gs ty => maskCode msk && anyType ty && scalarForm vb gs
  | .vmax _ _ vb msk gs ty => maskCode msk && anyType ty && scalarForm vb gs
  | .vabs _ _ msk ty => maskCode msk && anyType ty
  | .vneg _ _ msk ty => maskCode msk && anyType ty
  | .vsqrt _ _ msk ty => maskCode msk && floatType ty
  | .vexp2 _ _ msk ty => maskCode msk && floatType ty
  | .vand _ _ vb msk gs ty => maskCode msk && intType ty && scalarForm vb gs
  | .vor _ _ vb msk gs ty => maskCode msk && intType ty && scalarForm vb gs
  | .vxor _ _ vb msk gs ty => maskCode msk && intType ty && scalarForm vb gs
  | .vshl _ _ vb msk gs ty => maskCode msk && intType ty && scalarForm vb gs
  | .vshr _ _ vb msk gs ty => maskCode msk && intType ty && scalarForm vb gs
  | .vsra _ _ vb msk gs ty => maskCode msk && intType ty && scalarForm vb gs
  | .vcvt _ _ msk _ c ty => maskCode msk && anyType ty && anyType c
  | .vcmp _ _ _ msk c ty => maskCode msk && anyType ty && condCode c
  | .vm _ _ _ _ => true
  | .vperm _ _ _ msk ty => maskCode msk && anyType ty
  | .vbcast _ msk _ ty => maskCode msk && anyType ty
  | .vslide _ _ msk _ ty => maskCode msk && anyType ty
  | .vextr _ msk _ ty => maskCode msk && anyType ty
  | .vins _ msk _ ty => maskCode msk && anyType ty
  | .vredsum _ _ msk _ ty => maskCode msk && anyType ty
  | .vredmax _ _ msk _ ty => maskCode msk && anyType ty
  | .vredmin _ _ msk _ ty => maskCode msk && anyType ty
  | .viota _ msk ty => maskCode msk && anyType ty
  | .vmcnt _ _ => true
  | .vfirst _ _ => true
  | .vld _ msk _ ty => maskCode msk && anyType ty
  | .vst _ msk _ ty => maskCode msk && anyType ty
  | .vlds _ msk _ ty => maskCode msk && anyType ty
  | .vsts _ msk _ ty => maskCode msk && anyType ty
  | .vgath _ _ msk _ ty => maskCode msk && anyType ty
  | .vscat _ _ msk _ ty => maskCode msk && anyType ty
  | .qtry _ _ _ => true
  | .qoffer _ _ _ => true
  | .qcnt _ _ => true
  | .vqpop _ _ _ => true
  | .vqpush _ _ _ => true
  | .mset _ _ => true
  | .mget _ _ => true
  | .vpack _ _ _ ty => packType ty
  | .vunpk _ _ h ty => packType ty && halfCode ty h
  | .mshape _ _ => true
  | .enq _ => true
  | .enqw _ _ => true
  | .drain => true
  | .cnew _ _ _ => true
  | .cfwd => true
  | .cins _ _ _ => true
  | .cdel _ _ => true
  | .crep _ _ _ => true
  | .cpark _ => true
  | .gacc _ _ _ => true
  | .gstat _ _ _ => true
  | .gclose _ _ => true
  | .gflip _ _ => true
  | .gjoin _ _ _ => true
  | .ringrd _ _ _ => true
  | .teMma _ => true
  | .teZacc _ => true
  | .ceCpy _ _ => true
  | .ceStr _ _ _ => true
  | .ceGth _ => true
  | .ceSct _ => true
  | .ceFill _ _ => true
  | .ceRld _ => true
  | .ceRst _ => true
  | .buAdd _ _ _ => true
  | .buMul _ _ _ => true
  | .buScl _ _ _ => true
  | .buMax _ _ _ => true
  | .buMin _ _ _ => true
  | .buOes _ _ => true
  | .buNsm _ _ => true
  | .buWel _ _ => true
  | .buHist _ _ => true
  | .buFill _ _ _ => true
  | .buTopk _ _ => true
  | .buCas _ _ => true
  | .buFop _ _ _ => true
  | .suModeEnter _ _ => true
  | .suModeLeave _ _ => true
  | .suProg _ _ => true
  | .suBcast _ _ => true
  | .suRun _ _ => true
  | .suRead _ _ => true
  | .suAbort _ _ => true
  | .breSum _ _ => true
  | .cleMs _ _ => true
  | .cleBc _ _ => true
  | .cleMsk _ _ => true
  | .placedSlotActivate _ _ => true
  | .threadReply _ _ => true
  | .heldTokenPush _ _ _ => true
  | .completionHandlerEntry _ _ => true
  | .homeAccess _ => true
  | .reservationTimeout _ => true
  | .wrsTimeout _ _ => true
  | .homeAdmission _ => true
  | .remoteAccess _ => true
  | .combineWriteOut _ _ => true
  | .combineTimeout _ _ => true
  | .hbmBurstMergeClose _ => true
  | .bankRequesterAged _ => true
  | .tlbWalkComplete _ _ => true
  | .faultRecordDelivery _ => true
  | .launchClassRise _ => true
  | .taskDispatch _ => true
  | .spillRefill _ => true
  | .launchComplete _ => true
  | .messageArrival _ => true
  | .spawnArrival _ => true
  | .landingRequest _ => true
  | .landingGrant _ => true
  | .capsuleLanded _ => true
  | .capsuleStepStart _ _ => true
  | .bankStep _ _ => true
  | .landingRequestTimeout _ => true
  | .bufferNeeded _ => true
  | .harbourTaskRetry _ => true
  | .crossingLanding _ => true
  | .roverLanding _ => true
  | .applyTaskRetry _ _ => true
  | .clePartialArrival _ => true
  | .storeCompare _ _ => true
  | .deviceKill _ _ => true
  | .slotScrubEnd _ _ => true
  | .patrolScrub _ => true
  | .scrubForcedCycle _ _ _ => true
  | .coreFailed _ _ => true
  | .fenceOff _ => true
  | .returnToService _ => true
  | .hmap _ => true
  | .wbirun _ => true
  | .lqsub _ => true
  | .lqdel _ => true
  | .ctxdescLoad _ => true
  | .ctxdescUnload _ => true
  | .tlbinv _ => true
  | .pfwake _ => true
  | .sqwin _ => true
  | .sqoff _ => true
  | .sqrel _ => true
  | .mbself _ _ => true
  | .mbroute _ _ => true
  | .memdrop _ => true
  | .gent0Configure _ => true
  | .gent0Unconfigure _ => true
  | .trpop _ => true
  | .evpop _ => true
  | .loopctl _ _ => true
  | .hlqsub _ => true
  | .hlqdel _ => true
  | .mqpop => true
  | .mgmtQueueEnqueue => true
  | .envCallRecord => true
  | .ecans _ => true
  | .cxlMemRead _ _ => true
  | .cxlMemWrite _ _ _ => true
  | .hostSnoop _ _ _ => true
  | .backInvalidateResponse _ => true
  | .pageGroupResponse _ _ => true
  | .atsInvalidation _ _ _ _ => true
  | .phoupFlitReceived _ _ => true
  | .linkAckTimeout _ => true
  | .linkRetrained _ => true
  | .peerResponseTimeout _ => true
  | .moduleReset _ => true
  | .ready => true
  | .getVersion => true
  | .getCapabilities => true
  | .negotiateAlgorithms _ => true
  | .getDigests => true
  | .getCertificate _ _ => true
  | .challenge _ => true
  | .getMeasurements _ => true
  | .keyExchange _ => true
  | .finish _ => true
  | .droopStretch _ => true
  | .voltageClockChange _ _ _ _ => true
  | .linkEqualisation _ _ => true
  | .scrubRateAdjust _ => true
  | .clusterHold _ _ => true
  | .holdEnd _ _ => true
  | .hbmRecalibration _ _ => true
  | .lifetimeCommit => true
  | .illegalInstruction _ => true
  | .fetchFault _ => true
  | .atsTranslationResponse _ => true
  | .refresh _ _ => true
  | .coreCycle _ => true
  | .abruptLossOfPower => true
  | .poweredHours _ => true

/-- The instruction is one of the 158 words, and not an engine command or an event. -/
def Instr.isWord : Instr → Bool
  | .trap _ _ => true
  | .tret _ _ => true
  | .park _ => true
  | .xrd _ _ _ => true
  | .xwr _ _ _ => true
  | .sysrd _ _ => true
  | .syswr _ _ => true
  | .segld _ _ => true
  | .segldImg _ _ => true
  | .ifence => true
  | .chkerr _ _ => true
  | .quit => true
  | .send _ _ _ => true
  | .bar _ _ => true
  | .dockIn _ _ _ => true
  | .dockOut _ _ _ => true
  | .spawn _ _ _ => true
  | .tsub _ _ _ => true
  | .tget _ _ => true
  | .tdone _ _ => true
  | .brk _ => true
  | .kill _ _ => true
  | .wake _ _ _ => true
  | .halt _ _ => true
  | .cont _ _ _ => true
  | .add _ _ _ => true
  | .sub _ _ _ => true
  | .mul _ _ _ => true
  | .mulh _ _ _ => true
  | .mulhu _ _ _ => true
  | .div _ _ _ => true
  | .divu _ _ _ => true
  | .rem _ _ _ => true
  | .remu _ _ _ => true
  | .and _ _ _ => true
  | .or _ _ _ => true
  | .xor _ _ _ => true
  | .andn _ _ _ => true
  | .sll _ _ _ => true
  | .srl _ _ _ => true
  | .sra _ _ _ => true
  | .min _ _ _ => true
  | .max _ _ _ => true
  | .minu _ _ _ => true
  | .maxu _ _ _ => true
  | .clz _ _ => true
  | .ctz _ _ => true
  | .popc _ _ => true
  | .sext _ _ _ => true
  | .zext _ _ _ => true
  | .rotl _ _ _ => true
  | .rotr _ _ _ => true
  | .sel _ _ _ _ => true
  | .cmp _ _ _ _ => true
  | .pl _ _ _ _ => true
  | .jalr _ _ => true
  | .addi _ _ _ => true
  | .andi _ _ _ => true
  | .ori _ _ _ => true
  | .xori _ _ _ => true
  | .slli _ _ _ => true
  | .srli _ _ _ => true
  | .srai _ _ _ => true
  | .cmpi _ _ _ _ => true
  | .ldB _ _ _ => true
  | .ldBu _ _ _ => true
  | .ldH _ _ _ => true
  | .ldHu _ _ _ => true
  | .ldW _ _ _ => true
  | .ldWu _ _ _ => true
  | .ldD _ _ _ => true
  | .stB _ _ _ => true
  | .stH _ _ _ => true
  | .stW _ _ _ => true
  | .stD _ _ _ => true
  | .lres _ _ _ _ => true
  | .sres _ _ _ _ _ => true
  | .amo _ _ _ _ _ => true
  | .cas _ _ _ _ _ => true
  | .wrs _ _ _ => true
  | .fence _ => true
  | .fenceB _ => true
  | .fenceA _ => true
  | .beq _ _ _ => true
  | .bne _ _ _ => true
  | .blt _ _ _ => true
  | .bge _ _ _ => true
  | .bltu _ _ _ => true
  | .bgeu _ _ _ => true
  | .bt _ _ => true
  | .bf _ _ => true
  | .jmp _ => true
  | .jal _ _ => true
  | .lui _ _ => true
  | .lpc _ _ => true
  | .vadd _ _ _ _ _ _ => true
  | .vsub _ _ _ _ _ _ => true
  | .vmul _ _ _ _ _ _ => true
  | .vdiv _ _ _ _ _ _ => true
  | .vfma _ _ _ _ _ _ => true
  | .vfms _ _ _ _ _ _ => true
  | .vmin _ _ _ _ _ _ => true
  | .vmax _ _ _ _ _ _ => true
  | .vabs _ _ _ _ => true
  | .vneg _ _ _ _ => true
  | .vsqrt _ _ _ _ => true
  | .vexp2 _ _ _ _ => true
  | .vand _ _ _ _ _ _ => true
  | .vor _ _ _ _ _ _ => true
  | .vxor _ _ _ _ _ _ => true
  | .vshl _ _ _ _ _ _ => true
  | .vshr _ _ _ _ _ _ => true
  | .vsra _ _ _ _ _ _ => true
  | .vcvt _ _ _ _ _ _ => true
  | .vcmp _ _ _ _ _ _ => true
  | .vm _ _ _ _ => true
  | .vperm _ _ _ _ _ => true
  | .vbcast _ _ _ _ => true
  | .vslide _ _ _ _ _ => true
  | .vextr _ _ _ _ => true
  | .vins _ _ _ _ => true
  | .vredsum _ _ _ _ _ => true
  | .vredmax _ _ _ _ _ => true
  | .vredmin _ _ _ _ _ => true
  | .viota _ _ _ => true
  | .vmcnt _ _ => true
  | .vfirst _ _ => true
  | .vld _ _ _ _ => true
  | .vst _ _ _ _ => true
  | .vlds _ _ _ _ => true
  | .vsts _ _ _ _ => true
  | .vgath _ _ _ _ _ => true
  | .vscat _ _ _ _ _ => true
  | .qtry _ _ _ => true
  | .qoffer _ _ _ => true
  | .qcnt _ _ => true
  | .vqpop _ _ _ => true
  | .vqpush _ _ _ => true
  | .mset _ _ => true
  | .mget _ _ => true
  | .vpack _ _ _ _ => true
  | .vunpk _ _ _ _ => true
  | .mshape _ _ => true
  | .enq _ => true
  | .enqw _ _ => true
  | .drain => true
  | .cnew _ _ _ => true
  | .cfwd => true
  | .cins _ _ _ => true
  | .cdel _ _ => true
  | .crep _ _ _ => true
  | .cpark _ => true
  | .gacc _ _ _ => true
  | .gstat _ _ _ => true
  | .gclose _ _ => true
  | .gflip _ _ => true
  | .gjoin _ _ _ => true
  | .ringrd _ _ _ => true
  | .teMma _ => false
  | .teZacc _ => false
  | .ceCpy _ _ => false
  | .ceStr _ _ _ => false
  | .ceGth _ => false
  | .ceSct _ => false
  | .ceFill _ _ => false
  | .ceRld _ => false
  | .ceRst _ => false
  | .buAdd _ _ _ => false
  | .buMul _ _ _ => false
  | .buScl _ _ _ => false
  | .buMax _ _ _ => false
  | .buMin _ _ _ => false
  | .buOes _ _ => false
  | .buNsm _ _ => false
  | .buWel _ _ => false
  | .buHist _ _ => false
  | .buFill _ _ _ => false
  | .buTopk _ _ => false
  | .buCas _ _ => false
  | .buFop _ _ _ => false
  | .suModeEnter _ _ => false
  | .suModeLeave _ _ => false
  | .suProg _ _ => false
  | .suBcast _ _ => false
  | .suRun _ _ => false
  | .suRead _ _ => false
  | .suAbort _ _ => false
  | .breSum _ _ => false
  | .cleMs _ _ => false
  | .cleBc _ _ => false
  | .cleMsk _ _ => false
  | .placedSlotActivate _ _ => false
  | .threadReply _ _ => false
  | .heldTokenPush _ _ _ => false
  | .completionHandlerEntry _ _ => false
  | .homeAccess _ => false
  | .reservationTimeout _ => false
  | .wrsTimeout _ _ => false
  | .homeAdmission _ => false
  | .remoteAccess _ => false
  | .combineWriteOut _ _ => false
  | .combineTimeout _ _ => false
  | .hbmBurstMergeClose _ => false
  | .bankRequesterAged _ => false
  | .tlbWalkComplete _ _ => false
  | .faultRecordDelivery _ => false
  | .launchClassRise _ => false
  | .taskDispatch _ => false
  | .spillRefill _ => false
  | .launchComplete _ => false
  | .messageArrival _ => false
  | .spawnArrival _ => false
  | .landingRequest _ => false
  | .landingGrant _ => false
  | .capsuleLanded _ => false
  | .capsuleStepStart _ _ => false
  | .bankStep _ _ => false
  | .landingRequestTimeout _ => false
  | .bufferNeeded _ => false
  | .harbourTaskRetry _ => false
  | .crossingLanding _ => false
  | .roverLanding _ => false
  | .applyTaskRetry _ _ => false
  | .clePartialArrival _ => false
  | .storeCompare _ _ => false
  | .deviceKill _ _ => false
  | .slotScrubEnd _ _ => false
  | .patrolScrub _ => false
  | .scrubForcedCycle _ _ _ => false
  | .coreFailed _ _ => false
  | .fenceOff _ => false
  | .returnToService _ => false
  | .hmap _ => false
  | .wbirun _ => false
  | .lqsub _ => false
  | .lqdel _ => false
  | .ctxdescLoad _ => false
  | .ctxdescUnload _ => false
  | .tlbinv _ => false
  | .pfwake _ => false
  | .sqwin _ => false
  | .sqoff _ => false
  | .sqrel _ => false
  | .mbself _ _ => false
  | .mbroute _ _ => false
  | .memdrop _ => false
  | .gent0Configure _ => false
  | .gent0Unconfigure _ => false
  | .trpop _ => false
  | .evpop _ => false
  | .loopctl _ _ => false
  | .hlqsub _ => false
  | .hlqdel _ => false
  | .mqpop => false
  | .mgmtQueueEnqueue => false
  | .envCallRecord => false
  | .ecans _ => false
  | .cxlMemRead _ _ => false
  | .cxlMemWrite _ _ _ => false
  | .hostSnoop _ _ _ => false
  | .backInvalidateResponse _ => false
  | .pageGroupResponse _ _ => false
  | .atsInvalidation _ _ _ _ => false
  | .phoupFlitReceived _ _ => false
  | .linkAckTimeout _ => false
  | .linkRetrained _ => false
  | .peerResponseTimeout _ => false
  | .moduleReset _ => false
  | .ready => false
  | .getVersion => false
  | .getCapabilities => false
  | .negotiateAlgorithms _ => false
  | .getDigests => false
  | .getCertificate _ _ => false
  | .challenge _ => false
  | .getMeasurements _ => false
  | .keyExchange _ => false
  | .finish _ => false
  | .droopStretch _ => false
  | .voltageClockChange _ _ _ _ => false
  | .linkEqualisation _ _ => false
  | .scrubRateAdjust _ => false
  | .clusterHold _ _ => false
  | .holdEnd _ _ => false
  | .hbmRecalibration _ _ => false
  | .lifetimeCommit => false
  | .illegalInstruction _ => false
  | .fetchFault _ => false
  | .atsTranslationResponse _ => false
  | .refresh _ _ => false
  | .coreCycle _ => false
  | .abruptLossOfPower => false
  | .poweredHours _ => false

/-- The instruction has a word of the encoding. -/
def Instr.encodable (i : Instr) : Bool := i.isWord && i.wellFormed

end Sys2Proof
end

