-- ==== Sys2Proof/Decode.lean ====
section
/-!
DEFINITION. The decoder of the 32-bit instruction words and, after it, the encoder, both written from the same
encoding tables (R96–R104). Decoding is total: every word is an instruction or is rejected by name, in the order
of the first three tests of R104.
-/

namespace Sys2Proof

/-- Why a word is no instruction (R104). Each is answered by an illegal-instruction fault when it is issued. -/
inductive Reject where
  /-- the all-zeros or the all-ones word (R104, test 1) -/
  | blankWord
  /-- a major opcode that R101 leaves unassigned (R104, test 2) -/
  | unassignedOpcode
  /-- a field that must be zero is not, or a family, mask, type or other code is reserved (R104, test 3) -/
  | reservedField
  /-- fewer bytes than a word -/
  | truncated
  deriving DecidableEq, Repr

/-- What a word is: an instruction, or rejected by name. -/
inductive Decoded where
  | instr (i : Instr)
  | rejected (r : Reject)
  deriving DecidableEq, Repr

/-- Field hi:lo of a word, for a field of `n` bits at bit `lo`. -/
def field (lo n : Nat) (w : BitVec 32) : BitVec n := w.extractLsb' lo n

/-- Word `w` agrees with `pat` in every bit that `mask` sets. -/
def fixedBits (mask pat w : BitVec 32) : Bool := (w &&& mask) == pat

/-- An instruction whose fixed bits hold and whose codes are admitted; otherwise a reserved field. -/
def accept (fixed : Bool) (i : Instr) : Decoded :=
  if fixed && i.wellFormed then .instr i else .rejected .reservedField

/-- The opcode map of R101 with the fixed bits of each form (R96–R103): the word `w`, whose bits 31:24 are `opcode`. -/
def decodeAt (opcode : Nat) (w : BitVec 32) : Decoded :=
  match opcode with
  | 0x01 => accept (fixedBits 0xFFFC0000#32 0x01000000#32 w) (.trap (field 12 6 w) (field 0 12 w))
  | 0x02 => accept (fixedBits 0xFFFC0FFE#32 0x02000000#32 w) (.tret (field 12 6 w) (field 0 1 w))
  | 0x03 => accept (fixedBits 0xFFFC0FFF#32 0x03000000#32 w) (.park (field 12 6 w))
  | 0x04 => accept (fixedBits 0xFF00003F#32 0x04000000#32 w) (.xrd (field 18 6 w) (field 12 6 w) (field 6 6 w))
  | 0x05 => accept (fixedBits 0xFF00003F#32 0x05000000#32 w) (.xwr (field 18 6 w) (field 12 6 w) (field 6 6 w))
  | 0x06 => accept (fixedBits 0xFF03F000#32 0x06000000#32 w) (.sysrd (field 18 6 w) (field 0 12 w))
  | 0x07 => accept (fixedBits 0xFFFC0000#32 0x07000000#32 w) (.syswr (field 12 6 w) (field 0 12 w))
  | 0x08 =>
    if fixedBits 0xFFE00FFF#32 0x08000000#32 w then accept (fixedBits 0xFFE00FFF#32 0x08000000#32 w) (.segld (field 18 3 w) (field 12 6 w)) else
    accept (fixedBits 0xFFE00FFF#32 0x08000001#32 w) (.segldImg (field 18 3 w) (field 12 6 w))
  | 0x09 => accept (fixedBits 0xFFFFFFFF#32 0x09000000#32 w) .ifence
  | 0x0A => accept (fixedBits 0xFF03FFFE#32 0x0A000000#32 w) (.chkerr (field 18 6 w) (field 0 1 w))
  | 0x0B => accept (fixedBits 0xFFFFFFFF#32 0x0B000000#32 w) .quit
  | 0x0C => accept (fixedBits 0xFF00003F#32 0x0C000000#32 w) (.send (field 18 6 w) (field 12 6 w) (field 6 6 w))
  | 0x0D => accept (fixedBits 0xFF03FFFC#32 0x0D000000#32 w) (.bar (field 18 6 w) (field 0 2 w))
  | 0x0E => accept (fixedBits 0xFF00003F#32 0x0E000000#32 w) (.dockIn (field 18 6 w) (field 12 6 w) (field 6 6 w))
  | 0x0F => accept (fixedBits 0xFF00003F#32 0x0F000000#32 w) (.dockOut (field 18 6 w) (field 12 6 w) (field 6 6 w))
  | 0x10 => accept (fixedBits 0xFF00003F#32 0x10000000#32 w) (.spawn (field 18 6 w) (field 12 6 w) (field 6 6 w))
  | 0x11 => accept (fixedBits 0xFF00003F#32 0x11000000#32 w) (.tsub (field 18 6 w) (field 12 6 w) (field 6 6 w))
  | 0x12 => accept (fixedBits 0xFF000FFF#32 0x12000000#32 w) (.tget (field 18 6 w) (field 12 6 w))
  | 0x13 => accept (fixedBits 0xFF000FFF#32 0x13000000#32 w) (.tdone (field 18 6 w) (field 12 6 w))
  | 0x14 => accept (fixedBits 0xFFFFFFC0#32 0x14000000#32 w) (.brk (field 0 6 w))
  | 0x15 => accept (fixedBits 0xFF000FFF#32 0x15000000#32 w) (.kill (field 18 6 w) (field 12 6 w))
  | 0x16 => accept (fixedBits 0xFF00003F#32 0x16000000#32 w) (.wake (field 18 6 w) (field 12 6 w) (field 6 6 w))
  | 0x17 => accept (fixedBits 0xFF000FFF#32 0x17000000#32 w) (.halt (field 18 6 w) (field 12 6 w))
  | 0x18 => accept (fixedBits 0xFF000FFE#32 0x18000000#32 w) (.cont (field 18 6 w) (field 12 6 w) (field 0 1 w))
  | 0x20 => accept (fixedBits 0xFF00003F#32 0x20000000#32 w) (.add (field 18 6 w) (field 12 6 w) (field 6 6 w))
  | 0x21 => accept (fixedBits 0xFF00003F#32 0x21000000#32 w) (.sub (field 18 6 w) (field 12 6 w) (field 6 6 w))
  | 0x22 => accept (fixedBits 0xFF00003F#32 0x22000000#32 w) (.mul (field 18 6 w) (field 12 6 w) (field 6 6 w))
  | 0x23 => accept (fixedBits 0xFF00003F#32 0x23000000#32 w) (.mulh (field 18 6 w) (field 12 6 w) (field 6 6 w))
  | 0x24 => accept (fixedBits 0xFF00003F#32 0x24000000#32 w) (.mulhu (field 18 6 w) (field 12 6 w) (field 6 6 w))
  | 0x25 => accept (fixedBits 0xFF00003F#32 0x25000000#32 w) (.div (field 18 6 w) (field 12 6 w) (field 6 6 w))
  | 0x26 => accept (fixedBits 0xFF00003F#32 0x26000000#32 w) (.divu (field 18 6 w) (field 12 6 w) (field 6 6 w))
  | 0x27 => accept (fixedBits 0xFF00003F#32 0x27000000#32 w) (.rem (field 18 6 w) (field 12 6 w) (field 6 6 w))
  | 0x28 => accept (fixedBits 0xFF00003F#32 0x28000000#32 w) (.remu (field 18 6 w) (field 12 6 w) (field 6 6 w))
  | 0x29 => accept (fixedBits 0xFF00003F#32 0x29000000#32 w) (.and (field 18 6 w) (field 12 6 w) (field 6 6 w))
  | 0x2A => accept (fixedBits 0xFF00003F#32 0x2A000000#32 w) (.or (field 18 6 w) (field 12 6 w) (field 6 6 w))
  | 0x2B => accept (fixedBits 0xFF00003F#32 0x2B000000#32 w) (.xor (field 18 6 w) (field 12 6 w) (field 6 6 w))
  | 0x2C => accept (fixedBits 0xFF00003F#32 0x2C000000#32 w) (.andn (field 18 6 w) (field 12 6 w) (field 6 6 w))
  | 0x2D => accept (fixedBits 0xFF00003F#32 0x2D000000#32 w) (.sll (field 18 6 w) (field 12 6 w) (field 6 6 w))
  | 0x2E => accept (fixedBits 0xFF00003F#32 0x2E000000#32 w) (.srl (field 18 6 w) (field 12 6 w) (field 6 6 w))
  | 0x2F => accept (fixedBits 0xFF00003F#32 0x2F000000#32 w) (.sra (field 18 6 w) (field 12 6 w) (field 6 6 w))
  | 0x30 => accept (fixedBits 0xFF00003F#32 0x30000000#32 w) (.min (field 18 6 w) (field 12 6 w) (field 6 6 w))
  | 0x31 => accept (fixedBits 0xFF00003F#32 0x31000000#32 w) (.max (field 18 6 w) (field 12 6 w) (field 6 6 w))
  | 0x32 => accept (fixedBits 0xFF00003F#32 0x32000000#32 w) (.minu (field 18 6 w) (field 12 6 w) (field 6 6 w))
  | 0x33 => accept (fixedBits 0xFF00003F#32 0x33000000#32 w) (.maxu (field 18 6 w) (field 12 6 w) (field 6 6 w))
  | 0x34 => accept (fixedBits 0xFF000FFF#32 0x34000000#32 w) (.clz (field 18 6 w) (field 12 6 w))
  | 0x35 => accept (fixedBits 0xFF000FFF#32 0x35000000#32 w) (.ctz (field 18 6 w) (field 12 6 w))
  | 0x36 => accept (fixedBits 0xFF000FFF#32 0x36000000#32 w) (.popc (field 18 6 w) (field 12 6 w))
  | 0x37 => accept (fixedBits 0xFF000FFC#32 0x37000000#32 w) (.sext (field 18 6 w) (field 12 6 w) (field 0 2 w))
  | 0x38 => accept (fixedBits 0xFF000FFC#32 0x38000000#32 w) (.zext (field 18 6 w) (field 12 6 w) (field 0 2 w))
  | 0x39 => accept (fixedBits 0xFF00003F#32 0x39000000#32 w) (.rotl (field 18 6 w) (field 12 6 w) (field 6 6 w))
  | 0x3A => accept (fixedBits 0xFF00003F#32 0x3A000000#32 w) (.rotr (field 18 6 w) (field 12 6 w) (field 6 6 w))
  | 0x3B => accept (fixedBits 0xFF000030#32 0x3B000000#32 w) (.sel (field 18 6 w) (field 12 6 w) (field 6 6 w) (field 0 4 w))
  | 0x3C => accept (fixedBits 0xFFC00038#32 0x3C000000#32 w) (.cmp (field 18 4 w) (field 12 6 w) (field 6 6 w) (field 0 3 w))
  | 0x3D => accept (fixedBits 0xFFC30C3C#32 0x3D000000#32 w) (.pl (field 18 4 w) (field 12 4 w) (field 6 4 w) (field 0 2 w))
  | 0x3E => accept (fixedBits 0xFF000FFF#32 0x3E000000#32 w) (.jalr (field 18 6 w) (field 12 6 w))
  | 0x40 => accept (fixedBits 0xFF000000#32 0x40000000#32 w) (.addi (field 18 6 w) (field 12 6 w) (field 0 12 w))
  | 0x41 => accept (fixedBits 0xFF000000#32 0x41000000#32 w) (.andi (field 18 6 w) (field 12 6 w) (field 0 12 w))
  | 0x42 => accept (fixedBits 0xFF000000#32 0x42000000#32 w) (.ori (field 18 6 w) (field 12 6 w) (field 0 12 w))
  | 0x43 => accept (fixedBits 0xFF000000#32 0x43000000#32 w) (.xori (field 18 6 w) (field 12 6 w) (field 0 12 w))
  | 0x44 => accept (fixedBits 0xFF000FC0#32 0x44000000#32 w) (.slli (field 18 6 w) (field 12 6 w) (field 0 6 w))
  | 0x45 => accept (fixedBits 0xFF000FC0#32 0x45000000#32 w) (.srli (field 18 6 w) (field 12 6 w) (field 0 6 w))
  | 0x46 => accept (fixedBits 0xFF000FC0#32 0x46000000#32 w) (.srai (field 18 6 w) (field 12 6 w) (field 0 6 w))
  | 0x47 => accept (fixedBits 0xFF000000#32 0x47000000#32 w) (.cmpi (field 22 2 w) (field 18 4 w) (field 12 6 w) (field 0 12 w))
  | 0x48 => accept (fixedBits 0xFF000000#32 0x48000000#32 w) (.ldB (field 18 6 w) (field 12 6 w) (field 0 12 w))
  | 0x49 => accept (fixedBits 0xFF000000#32 0x49000000#32 w) (.ldBu (field 18 6 w) (field 12 6 w) (field 0 12 w))
  | 0x4A => accept (fixedBits 0xFF000000#32 0x4A000000#32 w) (.ldH (field 18 6 w) (field 12 6 w) (field 0 12 w))
  | 0x4B => accept (fixedBits 0xFF000000#32 0x4B000000#32 w) (.ldHu (field 18 6 w) (field 12 6 w) (field 0 12 w))
  | 0x4C => accept (fixedBits 0xFF000000#32 0x4C000000#32 w) (.ldW (field 18 6 w) (field 12 6 w) (field 0 12 w))
  | 0x4D => accept (fixedBits 0xFF000000#32 0x4D000000#32 w) (.ldWu (field 18 6 w) (field 12 6 w) (field 0 12 w))
  | 0x4E => accept (fixedBits 0xFF000000#32 0x4E000000#32 w) (.ldD (field 18 6 w) (field 12 6 w) (field 0 12 w))
  | 0x50 => accept (fixedBits 0xFF000000#32 0x50000000#32 w) (.stB (field 18 6 w) (field 12 6 w) (field 0 12 w))
  | 0x51 => accept (fixedBits 0xFF000000#32 0x51000000#32 w) (.stH (field 18 6 w) (field 12 6 w) (field 0 12 w))
  | 0x52 => accept (fixedBits 0xFF000000#32 0x52000000#32 w) (.stW (field 18 6 w) (field 12 6 w) (field 0 12 w))
  | 0x53 => accept (fixedBits 0xFF000000#32 0x53000000#32 w) (.stD (field 18 6 w) (field 12 6 w) (field 0 12 w))
  | 0x54 => accept (fixedBits 0xFF000FF8#32 0x54000000#32 w) (.lres (field 18 6 w) (field 12 6 w) (field 2 1 w) (field 0 2 w))
  | 0x55 => accept (fixedBits 0xFF000038#32 0x55000000#32 w) (.sres (field 18 6 w) (field 12 6 w) (field 6 6 w) (field 2 1 w) (field 0 2 w))
  | 0x56 => accept (fixedBits 0xFF000000#32 0x56000000#32 w) (.amo (field 18 6 w) (field 12 6 w) (field 6 6 w) (field 2 4 w) (field 0 2 w))
  | 0x57 => accept (fixedBits 0xFF000038#32 0x57000000#32 w) (.cas (field 18 6 w) (field 12 6 w) (field 6 6 w) (field 2 1 w) (field 0 2 w))
  | 0x58 => accept (fixedBits 0xFF00003F#32 0x58000000#32 w) (.wrs (field 18 6 w) (field 12 6 w) (field 6 6 w))
  | 0x59 =>
    if fixedBits 0xFFFC0FFF#32 0x59000000#32 w then accept (fixedBits 0xFFFC0FFF#32 0x59000000#32 w) (.fence (field 12 6 w)) else
    if fixedBits 0xFFFC0FFF#32 0x59000001#32 w then accept (fixedBits 0xFFFC0FFF#32 0x59000001#32 w) (.fenceB (field 12 6 w)) else
    accept (fixedBits 0xFFFC0FFF#32 0x59000002#32 w) (.fenceA (field 12 6 w))
  | 0x60 => accept (fixedBits 0xFF000000#32 0x60000000#32 w) (.beq (field 18 6 w) (field 12 6 w) (field 0 12 w))
  | 0x61 => accept (fixedBits 0xFF000000#32 0x61000000#32 w) (.bne (field 18 6 w) (field 12 6 w) (field 0 12 w))
  | 0x62 => accept (fixedBits 0xFF000000#32 0x62000000#32 w) (.blt (field 18 6 w) (field 12 6 w) (field 0 12 w))
  | 0x63 => accept (fixedBits 0xFF000000#32 0x63000000#32 w) (.bge (field 18 6 w) (field 12 6 w) (field 0 12 w))
  | 0x64 => accept (fixedBits 0xFF000000#32 0x64000000#32 w) (.bltu (field 18 6 w) (field 12 6 w) (field 0 12 w))
  | 0x65 => accept (fixedBits 0xFF000000#32 0x65000000#32 w) (.bgeu (field 18 6 w) (field 12 6 w) (field 0 12 w))
  | 0x66 => accept (fixedBits 0xFFC3F000#32 0x66000000#32 w) (.bt (field 18 4 w) (field 0 12 w))
  | 0x67 => accept (fixedBits 0xFFC3F000#32 0x67000000#32 w) (.bf (field 18 4 w) (field 0 12 w))
  | 0x68 => accept (fixedBits 0xFFFC0000#32 0x68000000#32 w) (.jmp (field 0 18 w))
  | 0x69 => accept (fixedBits 0xFF000000#32 0x69000000#32 w) (.jal (field 18 6 w) (field 0 18 w))
  | 0x6A => accept (fixedBits 0xFF000000#32 0x6A000000#32 w) (.lui (field 18 6 w) (field 0 18 w))
  | 0x6B => accept (fixedBits 0xFF000000#32 0x6B000000#32 w) (.lpc (field 18 6 w) (field 0 18 w))
  | 0x80 => accept (fixedBits 0xFF000000#32 0x80000000#32 w) (.vadd (field 20 4 w) (field 16 4 w) (field 12 4 w) (field 9 3 w) (field 3 6 w) (field 0 3 w))
  | 0x81 => accept (fixedBits 0xFF000000#32 0x81000000#32 w) (.vsub (field 20 4 w) (field 16 4 w) (field 12 4 w) (field 9 3 w) (field 3 6 w) (field 0 3 w))
  | 0x82 => accept (fixedBits 0xFF000000#32 0x82000000#32 w) (.vmul (field 20 4 w) (field 16 4 w) (field 12 4 w) (field 9 3 w) (field 3 6 w) (field 0 3 w))
  | 0x83 => accept (fixedBits 0xFF000000#32 0x83000000#32 w) (.vdiv (field 20 4 w) (field 16 4 w) (field 12 4 w) (field 9 3 w) (field 3 6 w) (field 0 3 w))
  | 0x84 => accept (fixedBits 0xFF000000#32 0x84000000#32 w) (.vfma (field 20 4 w) (field 16 4 w) (field 12 4 w) (field 9 3 w) (field 3 6 w) (field 0 3 w))
  | 0x85 => accept (fixedBits 0xFF000000#32 0x85000000#32 w) (.vfms (field 20 4 w) (field 16 4 w) (field 12 4 w) (field 9 3 w) (field 3 6 w) (field 0 3 w))
  | 0x86 => accept (fixedBits 0xFF000000#32 0x86000000#32 w) (.vmin (field 20 4 w) (field 16 4 w) (field 12 4 w) (field 9 3 w) (field 3 6 w) (field 0 3 w))
  | 0x87 => accept (fixedBits 0xFF000000#32 0x87000000#32 w) (.vmax (field 20 4 w) (field 16 4 w) (field 12 4 w) (field 9 3 w) (field 3 6 w) (field 0 3 w))
  | 0x88 => accept (fixedBits 0xFF00F1F8#32 0x88000000#32 w) (.vabs (field 20 4 w) (field 16 4 w) (field 9 3 w) (field 0 3 w))
  | 0x89 => accept (fixedBits 0xFF00F1F8#32 0x89000000#32 w) (.vneg (field 20 4 w) (field 16 4 w) (field 9 3 w) (field 0 3 w))
  | 0x8A => accept (fixedBits 0xFF00F1F8#32 0x8A000000#32 w) (.vsqrt (field 20 4 w) (field 16 4 w) (field 9 3 w) (field 0 3 w))
  | 0x8B => accept (fixedBits 0xFF00F1F8#32 0x8B000000#32 w) (.vexp2 (field 20 4 w) (field 16 4 w) (field 9 3 w) (field 0 3 w))
  | 0x8C => accept (fixedBits 0xFF000000#32 0x8C000000#32 w) (.vand (field 20 4 w) (field 16 4 w) (field 12 4 w) (field 9 3 w) (field 3 6 w) (field 0 3 w))
  | 0x8D => accept (fixedBits 0xFF000000#32 0x8D000000#32 w) (.vor (field 20 4 w) (field 16 4 w) (field 12 4 w) (field 9 3 w) (field 3 6 w) (field 0 3 w))
  | 0x8E => accept (fixedBits 0xFF000000#32 0x8E000000#32 w) (.vxor (field 20 4 w) (field 16 4 w) (field 12 4 w) (field 9 3 w) (field 3 6 w) (field 0 3 w))
  | 0x8F => accept (fixedBits 0xFF000000#32 0x8F000000#32 w) (.vshl (field 20 4 w) (field 16 4 w) (field 12 4 w) (field 9 3 w) (field 3 6 w) (field 0 3 w))
  | 0x90 => accept (fixedBits 0xFF000000#32 0x90000000#32 w) (.vshr (field 20 4 w) (field 16 4 w) (field 12 4 w) (field 9 3 w) (field 3 6 w) (field 0 3 w))
  | 0x91 => accept (fixedBits 0xFF000000#32 0x91000000#32 w) (.vsra (field 20 4 w) (field 16 4 w) (field 12 4 w) (field 9 3 w) (field 3 6 w) (field 0 3 w))
  | 0x92 => accept (fixedBits 0xFF00F180#32 0x92000000#32 w) (.vcvt (field 20 4 w) (field 16 4 w) (field 9 3 w) (field 6 1 w) (field 3 3 w) (field 0 3 w))
  | 0x93 => accept (fixedBits 0xFFC001C0#32 0x93000000#32 w) (.vcmp (field 20 2 w) (field 16 4 w) (field 12 4 w) (field 9 3 w) (field 3 3 w) (field 0 3 w))
  | 0x94 => accept (fixedBits 0xFFCCCFE7#32 0x94000000#32 w) (.vm (field 20 2 w) (field 16 2 w) (field 12 2 w) (field 3 2 w))
  | 0x95 => accept (fixedBits 0xFF0001F8#32 0x95000000#32 w) (.vperm (field 20 4 w) (field 16 4 w) (field 12 4 w) (field 9 3 w) (field 0 3 w))
  | 0x96 => accept (fixedBits 0xFF0FF000#32 0x96000000#32 w) (.vbcast (field 20 4 w) (field 9 3 w) (field 3 6 w) (field 0 3 w))
  | 0x97 => accept (fixedBits 0xFF00F000#32 0x97000000#32 w) (.vslide (field 20 4 w) (field 16 4 w) (field 9 3 w) (field 3 6 w) (field 0 3 w))
  | 0x98 => accept (fixedBits 0xFFF0F000#32 0x98000000#32 w) (.vextr (field 16 4 w) (field 9 3 w) (field 3 6 w) (field 0 3 w))
  | 0x99 => accept (fixedBits 0xFF0FF000#32 0x99000000#32 w) (.vins (field 20 4 w) (field 9 3 w) (field 3 6 w) (field 0 3 w))
  | 0x9A => accept (fixedBits 0xFF00F000#32 0x9A000000#32 w) (.vredsum (field 20 4 w) (field 16 4 w) (field 9 3 w) (field 3 6 w) (field 0 3 w))
  | 0x9B => accept (fixedBits 0xFF00F000#32 0x9B000000#32 w) (.vredmax (field 20 4 w) (field 16 4 w) (field 9 3 w) (field 3 6 w) (field 0 3 w))
  | 0x9C => accept (fixedBits 0xFF00F000#32 0x9C000000#32 w) (.vredmin (field 20 4 w) (field 16 4 w) (field 9 3 w) (field 3 6 w) (field 0 3 w))
  | 0x9D => accept (fixedBits 0xFF0FF1F8#32 0x9D000000#32 w) (.viota (field 20 4 w) (field 9 3 w) (field 0 3 w))
  | 0x9E => accept (fixedBits 0xFFFCFE07#32 0x9E000000#32 w) (.vmcnt (field 16 2 w) (field 3 6 w))
  | 0x9F => accept (fixedBits 0xFFFCFE07#32 0x9F000000#32 w) (.vfirst (field 16 2 w) (field 3 6 w))
  | 0xA0 => accept (fixedBits 0xFF0FF000#32 0xA0000000#32 w) (.vld (field 20 4 w) (field 9 3 w) (field 3 6 w) (field 0 3 w))
  | 0xA1 => accept (fixedBits 0xFF0FF000#32 0xA1000000#32 w) (.vst (field 20 4 w) (field 9 3 w) (field 3 6 w) (field 0 3 w))
  | 0xA2 => accept (fixedBits 0xFF0FF000#32 0xA2000000#32 w) (.vlds (field 20 4 w) (field 9 3 w) (field 3 6 w) (field 0 3 w))
  | 0xA3 => accept (fixedBits 0xFF0FF000#32 0xA3000000#32 w) (.vsts (field 20 4 w) (field 9 3 w) (field 3 6 w) (field 0 3 w))
  | 0xA4 => accept (fixedBits 0xFF00F000#32 0xA4000000#32 w) (.vgath (field 20 4 w) (field 16 4 w) (field 9 3 w) (field 3 6 w) (field 0 3 w))
  | 0xA5 => accept (fixedBits 0xFF00F000#32 0xA5000000#32 w) (.vscat (field 20 4 w) (field 16 4 w) (field 9 3 w) (field 3 6 w) (field 0 3 w))
  | 0xA6 => accept (fixedBits 0xFF030FF0#32 0xA6000000#32 w) (.qtry (field 18 6 w) (field 12 4 w) (field 0 4 w))
  | 0xA7 => accept (fixedBits 0xFFC00FF0#32 0xA7000000#32 w) (.qoffer (field 18 4 w) (field 12 6 w) (field 0 4 w))
  | 0xA8 => accept (fixedBits 0xFF030FFF#32 0xA8000000#32 w) (.qcnt (field 18 6 w) (field 12 4 w))
  | 0xA9 => accept (fixedBits 0xFF0F0F87#32 0xA9000100#32 w) (.vqpop (field 20 4 w) (field 12 4 w) (field 3 4 w))
  | 0xAA => accept (fixedBits 0xFFF00F87#32 0xAA000100#32 w) (.vqpush (field 16 4 w) (field 12 4 w) (field 3 4 w))
  | 0xAB => accept (fixedBits 0xFFCFFE07#32 0xAB000000#32 w) (.mset (field 20 2 w) (field 3 6 w))
  | 0xAC => accept (fixedBits 0xFFFCFE07#32 0xAC000000#32 w) (.mget (field 16 2 w) (field 3 6 w))
  | 0xAD => accept (fixedBits 0xFF000FF8#32 0xAD000000#32 w) (.vpack (field 20 4 w) (field 16 4 w) (field 12 4 w) (field 0 3 w))
  | 0xAE => accept (fixedBits 0xFF00CFF8#32 0xAE000000#32 w) (.vunpk (field 20 4 w) (field 16 4 w) (field 12 2 w) (field 0 3 w))
  | 0xC0 => accept (fixedBits 0xFF000FFF#32 0xC0000000#32 w) (.mshape (field 18 6 w) (field 12 6 w))
  | 0xC1 => accept (fixedBits 0xFF03FFFF#32 0xC1000000#32 w) (.enq (field 18 6 w))
  | 0xC2 => accept (fixedBits 0xFF000FFF#32 0xC2000000#32 w) (.enqw (field 18 6 w) (field 12 6 w))
  | 0xC3 => accept (fixedBits 0xFFFFFFFF#32 0xC3000000#32 w) .drain
  | 0xC4 => accept (fixedBits 0xFF000000#32 0xC4000000#32 w) (.cnew (field 18 6 w) (field 12 6 w) (field 0 12 w))
  | 0xC5 => accept (fixedBits 0xFFFFFFFF#32 0xC5000000#32 w) .cfwd
  | 0xC6 => accept (fixedBits 0xFF00003F#32 0xC6000000#32 w) (.cins (field 18 6 w) (field 12 6 w) (field 6 6 w))
  | 0xC7 => accept (fixedBits 0xFF000FFF#32 0xC7000000#32 w) (.cdel (field 18 6 w) (field 12 6 w))
  | 0xC8 => accept (fixedBits 0xFF00003F#32 0xC8000000#32 w) (.crep (field 18 6 w) (field 12 6 w) (field 6 6 w))
  | 0xC9 => accept (fixedBits 0xFFFC0FFF#32 0xC9000000#32 w) (.cpark (field 12 6 w))
  | 0xCA => accept (fixedBits 0xFF00003F#32 0xCA000000#32 w) (.gacc (field 18 6 w) (field 12 6 w) (field 6 6 w))
  | 0xCB => accept (fixedBits 0xFF00003F#32 0xCB000000#32 w) (.gstat (field 18 6 w) (field 12 6 w) (field 6 6 w))
  | 0xCC => accept (fixedBits 0xFF000FFF#32 0xCC000000#32 w) (.gclose (field 18 6 w) (field 12 6 w))
  | 0xCD => accept (fixedBits 0xFF000FFF#32 0xCD000000#32 w) (.gflip (field 18 6 w) (field 12 6 w))
  | 0xCE => accept (fixedBits 0xFF00003F#32 0xCE000000#32 w) (.gjoin (field 18 6 w) (field 12 6 w) (field 6 6 w))
  | 0xCF => accept (fixedBits 0xFF038FFE#32 0xCF000000#32 w) (.ringrd (field 18 6 w) (field 12 3 w) (field 0 1 w))
  | _ => .rejected .unassignedOpcode

/-- The instruction of a word by its major opcode, bits 31:24 (R101). -/
def decodeOpcode (w : BitVec 32) : Decoded := decodeAt (field 24 8 w).toNat w

/-- The decoder of an instruction word, in the order of R104. -/
def decodeWord (w : BitVec 32) : Decoded :=
  if w = 0#32 || w = 0xFFFFFFFF#32 then .rejected .blankWord else decodeOpcode w

/-- A word from its bytes, which memory holds little-endian (R8, R96). -/
def wordOfBytes (b0 b1 b2 b3 : BitVec 8) : BitVec 32 := b3 ++ b2 ++ b1 ++ b0

/-- The instruction at the front of a list of bytes, and the bytes after it. -/
def decodeBytes : List (BitVec 8) → Decoded × List (BitVec 8)
  | b0 :: b1 :: b2 :: b3 :: rest => (decodeWord (wordOfBytes b0 b1 b2 b3), rest)
  | short => (.rejected .truncated, short)

/-- The bytes of a word as memory holds them, the lowest address first. -/
def bytesOfWord (w : BitVec 32) : List (BitVec 8) :=
  [field 0 8 w, field 8 8 w, field 16 8 w, field 24 8 w]

/-- The host's question of the decoder: the instruction in the bits `w` of a row of `nbits` bits. Every row with
an encoding has 32 bits; the bits at and above `nbits` are zero. -/
def decodeTableWord (nbits w : Nat) : Option Instr :=
  match (decodeBytes (bytesOfWord (BitVec.ofNat 32 (w % 2 ^ nbits)))).1 with
  | .instr i => some i
  | .rejected _ => none

/-- The word of an instruction, field by field from the same tables. An engine command or an event has none, and
the all-zeros word, which is no instruction, stands for it. -/
def encodeWord : Instr → BitVec 32
  | .trap ra imm => 0x40#14 ++ ra ++ imm
  | .tret ra s => 0x80#14 ++ ra ++ 0x0#11 ++ s
  | .park ra => 0xC0#14 ++ ra ++ 0x0#12
  | .xrd rd ra rb => 0x4#8 ++ rd ++ ra ++ rb ++ 0x0#6
  | .xwr gv ra rb => 0x5#8 ++ gv ++ ra ++ rb ++ 0x0#6
  | .sysrd rd n => 0x6#8 ++ rd ++ 0x0#6 ++ n
  | .syswr ra n => 0x1C0#14 ++ ra ++ n
  | .segld s ra => 0x40#11 ++ s ++ ra ++ 0x0#12
  | .segldImg s ra => 0x40#11 ++ s ++ ra ++ 0x1#12
  | .ifence => 0x9000000#32
  | .chkerr rd c => 0xA#8 ++ rd ++ 0x0#17 ++ c
  | .quit => 0xB000000#32
  | .send rd ra rb => 0xC#8 ++ rd ++ ra ++ rb ++ 0x0#6
  | .bar rd lvl => 0xD#8 ++ rd ++ 0x0#16 ++ lvl
  | .dockIn rd ra rb => 0xE#8 ++ rd ++ ra ++ rb ++ 0x0#6
  | .dockOut rd ra rb => 0xF#8 ++ rd ++ ra ++ rb ++ 0x0#6
  | .spawn rd ra rb => 0x10#8 ++ rd ++ ra ++ rb ++ 0x0#6
  | .tsub rd ra rb => 0x11#8 ++ rd ++ ra ++ rb ++ 0x0#6
  | .tget rd ra => 0x12#8 ++ rd ++ ra ++ 0x0#12
  | .tdone rd ra => 0x13#8 ++ rd ++ ra ++ 0x0#12
  | .brk n => 0x500000#26 ++ n
  | .kill rd ra => 0x15#8 ++ rd ++ ra ++ 0x0#12
  | .wake rd ra rb => 0x16#8 ++ rd ++ ra ++ rb ++ 0x0#6
  | .halt rd ra => 0x17#8 ++ rd ++ ra ++ 0x0#12
  | .cont rd ra s => 0x18#8 ++ rd ++ ra ++ 0x0#11 ++ s
  | .add rd ra rb => 0x20#8 ++ rd ++ ra ++ rb ++ 0x0#6
  | .sub rd ra rb => 0x21#8 ++ rd ++ ra ++ rb ++ 0x0#6
  | .mul rd ra rb => 0x22#8 ++ rd ++ ra ++ rb ++ 0x0#6
  | .mulh rd ra rb => 0x23#8 ++ rd ++ ra ++ rb ++ 0x0#6
  | .mulhu rd ra rb => 0x24#8 ++ rd ++ ra ++ rb ++ 0x0#6
  | .div rd ra rb => 0x25#8 ++ rd ++ ra ++ rb ++ 0x0#6
  | .divu rd ra rb => 0x26#8 ++ rd ++ ra ++ rb ++ 0x0#6
  | .rem rd ra rb => 0x27#8 ++ rd ++ ra ++ rb ++ 0x0#6
  | .remu rd ra rb => 0x28#8 ++ rd ++ ra ++ rb ++ 0x0#6
  | .and rd ra rb => 0x29#8 ++ rd ++ ra ++ rb ++ 0x0#6
  | .or rd ra rb => 0x2A#8 ++ rd ++ ra ++ rb ++ 0x0#6
  | .xor rd ra rb => 0x2B#8 ++ rd ++ ra ++ rb ++ 0x0#6
  | .andn rd ra rb => 0x2C#8 ++ rd ++ ra ++ rb ++ 0x0#6
  | .sll rd ra rb => 0x2D#8 ++ rd ++ ra ++ rb ++ 0x0#6
  | .srl rd ra rb => 0x2E#8 ++ rd ++ ra ++ rb ++ 0x0#6
  | .sra rd ra rb => 0x2F#8 ++ rd ++ ra ++ rb ++ 0x0#6
  | .min rd ra rb => 0x30#8 ++ rd ++ ra ++ rb ++ 0x0#6
  | .max rd ra rb => 0x31#8 ++ rd ++ ra ++ rb ++ 0x0#6
  | .minu rd ra rb => 0x32#8 ++ rd ++ ra ++ rb ++ 0x0#6
  | .maxu rd ra rb => 0x33#8 ++ rd ++ ra ++ rb ++ 0x0#6
  | .clz rd ra => 0x34#8 ++ rd ++ ra ++ 0x0#12
  | .ctz rd ra => 0x35#8 ++ rd ++ ra ++ 0x0#12
  | .popc rd ra => 0x36#8 ++ rd ++ ra ++ 0x0#12
  | .sext rd ra w => 0x37#8 ++ rd ++ ra ++ 0x0#10 ++ w
  | .zext rd ra w => 0x38#8 ++ rd ++ ra ++ 0x0#10 ++ w
  | .rotl rd ra rb => 0x39#8 ++ rd ++ ra ++ rb ++ 0x0#6
  | .rotr rd ra rb => 0x3A#8 ++ rd ++ ra ++ rb ++ 0x0#6
  | .sel rd ra rb k => 0x3B#8 ++ rd ++ ra ++ rb ++ 0x0#2 ++ k
  | .cmp pd ra rb c => 0xF0#10 ++ pd ++ ra ++ rb ++ 0x0#3 ++ c
  | .pl rd ra rb o => 0xF4#10 ++ rd ++ 0x0#2 ++ ra ++ 0x0#2 ++ rb ++ 0x0#4 ++ o
  | .jalr rd ra => 0x3E#8 ++ rd ++ ra ++ 0x0#12
  | .addi rd ra imm => 0x40#8 ++ rd ++ ra ++ imm
  | .andi rd ra imm => 0x41#8 ++ rd ++ ra ++ imm
  | .ori rd ra imm => 0x42#8 ++ rd ++ ra ++ imm
  | .xori rd ra imm => 0x43#8 ++ rd ++ ra ++ imm
  | .slli rd ra s => 0x44#8 ++ rd ++ ra ++ 0x0#6 ++ s
  | .srli rd ra s => 0x45#8 ++ rd ++ ra ++ 0x0#6 ++ s
  | .srai rd ra s => 0x46#8 ++ rd ++ ra ++ 0x0#6 ++ s
  | .cmpi c pd ra imm => 0x47#8 ++ c ++ pd ++ ra ++ imm
  | .ldB rd ra imm => 0x48#8 ++ rd ++ ra ++ imm
  | .ldBu rd ra imm => 0x49#8 ++ rd ++ ra ++ imm
  | .ldH rd ra imm => 0x4A#8 ++ rd ++ ra ++ imm
  | .ldHu rd ra imm => 0x4B#8 ++ rd ++ ra ++ imm
  | .ldW rd ra imm => 0x4C#8 ++ rd ++ ra ++ imm
  | .ldWu rd ra imm => 0x4D#8 ++ rd ++ ra ++ imm
  | .ldD rd ra imm => 0x4E#8 ++ rd ++ ra ++ imm
  | .stB ra rb imm => 0x50#8 ++ ra ++ rb ++ imm
  | .stH ra rb imm => 0x51#8 ++ ra ++ rb ++ imm
  | .stW ra rb imm => 0x52#8 ++ ra ++ rb ++ imm
  | .stD ra rb imm => 0x53#8 ++ ra ++ rb ++ imm
  | .lres rd ra w o => 0x54#8 ++ rd ++ ra ++ 0x0#9 ++ w ++ o
  | .sres rd ra rb w o => 0x55#8 ++ rd ++ ra ++ rb ++ 0x0#3 ++ w ++ o
  | .amo rd ra rb f o => 0x56#8 ++ rd ++ ra ++ rb ++ f ++ o
  | .cas rd ra rb w o => 0x57#8 ++ rd ++ ra ++ rb ++ 0x0#3 ++ w ++ o
  | .wrs rd ra rb => 0x58#8 ++ rd ++ ra ++ rb ++ 0x0#6
  | .fence ra => 0x1640#14 ++ ra ++ 0x0#12
  | .fenceB ra => 0x1640#14 ++ ra ++ 0x1#12
  | .fenceA ra => 0x1640#14 ++ ra ++ 0x2#12
  | .beq ra rb o => 0x60#8 ++ ra ++ rb ++ o
  | .bne ra rb o => 0x61#8 ++ ra ++ rb ++ o
  | .blt ra rb o => 0x62#8 ++ ra ++ rb ++ o
  | .bge ra rb o => 0x63#8 ++ ra ++ rb ++ o
  | .bltu ra rb o => 0x64#8 ++ ra ++ rb ++ o
  | .bgeu ra rb o => 0x65#8 ++ ra ++ rb ++ o
  | .bt k o => 0x198#10 ++ k ++ 0x0#6 ++ o
  | .bf k o => 0x19C#10 ++ k ++ 0x0#6 ++ o
  | .jmp o => 0x1A00#14 ++ o
  | .jal rd o => 0x69#8 ++ rd ++ o
  | .lui rd imm => 0x6A#8 ++ rd ++ imm
  | .lpc rd imm => 0x6B#8 ++ rd ++ imm
  | .vadd vd va vb msk gs ty => 0x80#8 ++ vd ++ va ++ vb ++ msk ++ gs ++ ty
  | .vsub vd va vb msk gs ty => 0x81#8 ++ vd ++ va ++ vb ++ msk ++ gs ++ ty
  | .vmul vd va vb msk gs ty => 0x82#8 ++ vd ++ va ++ vb ++ msk ++ gs ++ ty
  | .vdiv vd va vb msk gs ty => 0x83#8 ++ vd ++ va ++ vb ++ msk ++ gs ++ ty
  | .vfma vd va vb msk gs ty => 0x84#8 ++ vd ++ va ++ vb ++ msk ++ gs ++ ty
  | .vfms vd va vb msk gs ty => 0x85#8 ++ vd ++ va ++ vb ++ msk ++ gs ++ ty
  | .vmin vd va vb msk gs ty => 0x86#8 ++ vd ++ va ++ vb ++ msk ++ gs ++ ty
  | .vmax vd va vb msk gs ty => 0x87#8 ++ vd ++ va ++ vb ++ msk ++ gs ++ ty
  | .vabs vd va msk ty => 0x88#8 ++ vd ++ va ++ 0x0#4 ++ msk ++ 0x0#6 ++ ty
  | .vneg vd va msk ty => 0x89#8 ++ vd ++ va ++ 0x0#4 ++ msk ++ 0x0#6 ++ ty
  | .vsqrt vd va msk ty => 0x8A#8 ++ vd ++ va ++ 0x0#4 ++ msk ++ 0x0#6 ++ ty
  | .vexp2 vd va msk ty => 0x8B#8 ++ vd ++ va ++ 0x0#4 ++ msk ++ 0x0#6 ++ ty
  | .vand vd va vb msk gs ty => 0x8C#8 ++ vd ++ va ++ vb ++ msk ++ gs ++ ty
  | .vor vd va vb msk gs ty => 0x8D#8 ++ vd ++ va ++ vb ++ msk ++ gs ++ ty
  | .vxor vd va vb msk gs ty => 0x8E#8 ++ vd ++ va ++ vb ++ msk ++ gs ++ ty
  | .vshl vd va vb msk gs ty => 0x8F#8 ++ vd ++ va ++ vb ++ msk ++ gs ++ ty
  | .vshr vd va vb msk gs ty => 0x90#8 ++ vd ++ va ++ vb ++ msk ++ gs ++ ty
  | .vsra vd va vb msk gs ty => 0x91#8 ++ vd ++ va ++ vb ++ msk ++ gs ++ ty
  | .vcvt vd va msk s c ty => 0x92#8 ++ vd ++ va ++ 0x0#4 ++ msk ++ 0x0#2 ++ s ++ c ++ ty
  | .vcmp k va vb msk c ty => 0x24C#10 ++ k ++ va ++ vb ++ msk ++ 0x0#3 ++ c ++ ty
  | .vm vd va vb o => 0x250#10 ++ vd ++ 0x0#2 ++ va ++ 0x0#2 ++ vb ++ 0x0#7 ++ o ++ 0x0#3
  | .vperm vd va vb msk ty => 0x95#8 ++ vd ++ va ++ vb ++ msk ++ 0x0#6 ++ ty
  | .vbcast vd msk gs ty => 0x96#8 ++ vd ++ 0x0#8 ++ msk ++ gs ++ ty
  | .vslide vd va msk gs ty => 0x97#8 ++ vd ++ va ++ 0x0#4 ++ msk ++ gs ++ ty
  | .vextr va msk gs ty => 0x980#12 ++ va ++ 0x0#4 ++ msk ++ gs ++ ty
  | .vins vd msk gs ty => 0x99#8 ++ vd ++ 0x0#8 ++ msk ++ gs ++ ty
  | .vredsum vd va msk gs ty => 0x9A#8 ++ vd ++ va ++ 0x0#4 ++ msk ++ gs ++ ty
  | .vredmax vd va msk gs ty => 0x9B#8 ++ vd ++ va ++ 0x0#4 ++ msk ++ gs ++ ty
  | .vredmin vd va msk gs ty => 0x9C#8 ++ vd ++ va ++ 0x0#4 ++ msk ++ gs ++ ty
  | .viota vd msk ty => 0x9D#8 ++ vd ++ 0x0#8 ++ msk ++ 0x0#6 ++ ty
  | .vmcnt va gs => 0x2780#14 ++ va ++ 0x0#7 ++ gs ++ 0x0#3
  | .vfirst va gs => 0x27C0#14 ++ va ++ 0x0#7 ++ gs ++ 0x0#3
  | .vld vd msk gs ty => 0xA0#8 ++ vd ++ 0x0#8 ++ msk ++ gs ++ ty
  | .vst vd msk gs ty => 0xA1#8 ++ vd ++ 0x0#8 ++ msk ++ gs ++ ty
  | .vlds vd msk gs ty => 0xA2#8 ++ vd ++ 0x0#8 ++ msk ++ gs ++ ty
  | .vsts vd msk gs ty => 0xA3#8 ++ vd ++ 0x0#8 ++ msk ++ gs ++ ty
  | .vgath vd va msk gs ty => 0xA4#8 ++ vd ++ va ++ 0x0#4 ++ msk ++ gs ++ ty
  | .vscat vd va msk gs ty => 0xA5#8 ++ vd ++ va ++ 0x0#4 ++ msk ++ gs ++ ty
  | .qtry rd n k => 0xA6#8 ++ rd ++ 0x0#2 ++ n ++ 0x0#8 ++ k
  | .qoffer n ra k => 0x29C#10 ++ n ++ ra ++ 0x0#8 ++ k
  | .qcnt rd n => 0xA8#8 ++ rd ++ 0x0#2 ++ n ++ 0x0#12
  | .vqpop vd k n => 0xA9#8 ++ vd ++ 0x0#4 ++ k ++ 0x2#5 ++ n ++ 0x0#3
  | .vqpush va k n => 0xAA0#12 ++ va ++ k ++ 0x2#5 ++ n ++ 0x0#3
  | .mset vd gs => 0x2AC#10 ++ vd ++ 0x0#11 ++ gs ++ 0x0#3
  | .mget va gs => 0x2B00#14 ++ va ++ 0x0#7 ++ gs ++ 0x0#3
  | .vpack vd va vb ty => 0xAD#8 ++ vd ++ va ++ vb ++ 0x0#9 ++ ty
  | .vunpk vd va h ty => 0xAE#8 ++ vd ++ va ++ 0x0#2 ++ h ++ 0x0#9 ++ ty
  | .mshape rd ra => 0xC0#8 ++ rd ++ ra ++ 0x0#12
  | .enq ra => 0xC1#8 ++ ra ++ 0x0#18
  | .enqw ra rd => 0xC2#8 ++ ra ++ rd ++ 0x0#12
  | .drain => 0xC3000000#32
  | .cnew rd ra c => 0xC4#8 ++ rd ++ ra ++ c
  | .cfwd => 0xC5000000#32
  | .cins rd ra rb => 0xC6#8 ++ rd ++ ra ++ rb ++ 0x0#6
  | .cdel rd ra => 0xC7#8 ++ rd ++ ra ++ 0x0#12
  | .crep rd ra rb => 0xC8#8 ++ rd ++ ra ++ rb ++ 0x0#6
  | .cpark ra => 0x3240#14 ++ ra ++ 0x0#12
  | .gacc rd ra rb => 0xCA#8 ++ rd ++ ra ++ rb ++ 0x0#6
  | .gstat rd ra rb => 0xCB#8 ++ rd ++ ra ++ rb ++ 0x0#6
  | .gclose rd ra => 0xCC#8 ++ rd ++ ra ++ 0x0#12
  | .gflip rd ra => 0xCD#8 ++ rd ++ ra ++ 0x0#12
  | .gjoin rd ra rb => 0xCE#8 ++ rd ++ ra ++ rb ++ 0x0#6
  | .ringrd rd n h => 0xCF#8 ++ rd ++ 0x0#3 ++ n ++ 0x0#11 ++ h
  | .teMma _ => 0#32
  | .teZacc _ => 0#32
  | .ceCpy _ _ => 0#32
  | .ceStr _ _ _ => 0#32
  | .ceGth _ => 0#32
  | .ceSct _ => 0#32
  | .ceFill _ _ => 0#32
  | .ceRld _ => 0#32
  | .ceRst _ => 0#32
  | .buAdd _ _ _ => 0#32
  | .buMul _ _ _ => 0#32
  | .buScl _ _ _ => 0#32
  | .buMax _ _ _ => 0#32
  | .buMin _ _ _ => 0#32
  | .buOes _ _ => 0#32
  | .buNsm _ _ => 0#32
  | .buWel _ _ => 0#32
  | .buHist _ _ => 0#32
  | .buFill _ _ _ => 0#32
  | .buTopk _ _ => 0#32
  | .buCas _ _ => 0#32
  | .buFop _ _ _ => 0#32
  | .suModeEnter _ _ => 0#32
  | .suModeLeave _ _ => 0#32
  | .suProg _ _ => 0#32
  | .suBcast _ _ => 0#32
  | .suRun _ _ => 0#32
  | .suRead _ _ => 0#32
  | .suAbort _ _ => 0#32
  | .breSum _ _ => 0#32
  | .cleMs _ _ => 0#32
  | .cleBc _ _ => 0#32
  | .cleMsk _ _ => 0#32
  | .placedSlotActivate _ _ => 0#32
  | .threadReply _ _ => 0#32
  | .heldTokenPush _ _ _ => 0#32
  | .completionHandlerEntry _ _ => 0#32
  | .homeAccess _ => 0#32
  | .reservationTimeout _ => 0#32
  | .wrsTimeout _ _ => 0#32
  | .homeAdmission _ => 0#32
  | .remoteAccess _ => 0#32
  | .combineWriteOut _ _ => 0#32
  | .combineTimeout _ _ => 0#32
  | .hbmBurstMergeClose _ => 0#32
  | .bankRequesterAged _ => 0#32
  | .tlbWalkComplete _ _ => 0#32
  | .faultRecordDelivery _ => 0#32
  | .launchClassRise _ => 0#32
  | .taskDispatch _ => 0#32
  | .spillRefill _ => 0#32
  | .launchComplete _ => 0#32
  | .messageArrival _ => 0#32
  | .spawnArrival _ => 0#32
  | .landingRequest _ => 0#32
  | .landingGrant _ => 0#32
  | .capsuleLanded _ => 0#32
  | .capsuleStepStart _ _ => 0#32
  | .bankStep _ _ => 0#32
  | .landingRequestTimeout _ => 0#32
  | .bufferNeeded _ => 0#32
  | .harbourTaskRetry _ => 0#32
  | .crossingLanding _ => 0#32
  | .roverLanding _ => 0#32
  | .applyTaskRetry _ _ => 0#32
  | .clePartialArrival _ => 0#32
  | .storeCompare _ _ => 0#32
  | .deviceKill _ _ => 0#32
  | .slotScrubEnd _ _ => 0#32
  | .patrolScrub _ => 0#32
  | .scrubForcedCycle _ _ _ => 0#32
  | .coreFailed _ _ => 0#32
  | .fenceOff _ => 0#32
  | .returnToService _ => 0#32
  | .hmap _ => 0#32
  | .wbirun _ => 0#32
  | .lqsub _ => 0#32
  | .lqdel _ => 0#32
  | .ctxdescLoad _ => 0#32
  | .ctxdescUnload _ => 0#32
  | .tlbinv _ => 0#32
  | .pfwake _ => 0#32
  | .sqwin _ => 0#32
  | .sqoff _ => 0#32
  | .sqrel _ => 0#32
  | .mbself _ _ => 0#32
  | .mbroute _ _ => 0#32
  | .memdrop _ => 0#32
  | .gent0Configure _ => 0#32
  | .gent0Unconfigure _ => 0#32
  | .trpop _ => 0#32
  | .evpop _ => 0#32
  | .loopctl _ _ => 0#32
  | .hlqsub _ => 0#32
  | .hlqdel _ => 0#32
  | .mqpop => 0#32
  | .mgmtQueueEnqueue => 0#32
  | .envCallRecord => 0#32
  | .ecans _ => 0#32
  | .cxlMemRead _ _ => 0#32
  | .cxlMemWrite _ _ _ => 0#32
  | .hostSnoop _ _ _ => 0#32
  | .backInvalidateResponse _ => 0#32
  | .pageGroupResponse _ _ => 0#32
  | .atsInvalidation _ _ _ _ => 0#32
  | .phoupFlitReceived _ _ => 0#32
  | .linkAckTimeout _ => 0#32
  | .linkRetrained _ => 0#32
  | .peerResponseTimeout _ => 0#32
  | .moduleReset _ => 0#32
  | .ready => 0#32
  | .getVersion => 0#32
  | .getCapabilities => 0#32
  | .negotiateAlgorithms _ => 0#32
  | .getDigests => 0#32
  | .getCertificate _ _ => 0#32
  | .challenge _ => 0#32
  | .getMeasurements _ => 0#32
  | .keyExchange _ => 0#32
  | .finish _ => 0#32
  | .droopStretch _ => 0#32
  | .voltageClockChange _ _ _ _ => 0#32
  | .linkEqualisation _ _ => 0#32
  | .scrubRateAdjust _ => 0#32
  | .clusterHold _ _ => 0#32
  | .holdEnd _ _ => 0#32
  | .hbmRecalibration _ _ => 0#32
  | .lifetimeCommit => 0#32
  | .illegalInstruction _ => 0#32
  | .fetchFault _ => 0#32
  | .atsTranslationResponse _ => 0#32
  | .refresh _ _ => 0#32
  | .coreCycle _ => 0#32
  | .abruptLossOfPower => 0#32
  | .poweredHours _ => 0#32

/-- The bytes of an instruction's word. -/
def encode (i : Instr) : List (BitVec 8) := bytesOfWord (encodeWord i)

end Sys2Proof
end

