-- ==== Sys2Proof/Config.lean ====
section
/-!
DEFINITION. What the spec leaves to the part or leaves open. Every constant here is opaque: nothing can be proved
about the value it takes, so a claim that mentions one holds for every value.
-/

namespace Sys2Proof.Config

/-- A value the spec leaves open, fresh for each number it is applied to. DESIGN CHOICE (log entry 7). -/
opaque freeWord : Nat → BitVec 64

/-- An open choice between two outcomes that the spec both allows. DESIGN CHOICE (log entry 7). -/
opaque freeBit : Nat → Bool

/-- The secret of the part's identity key, derived from a fused unique secret (R456; log entry 10). -/
opaque identitySecret : BitVec 256

/-- The secret of the alias key, from that of the identity key and a measurement (R456); how it is derived is open (log entry 10). -/
opaque aliasSecret : BitVec 256 → List (BitVec 8) → BitVec 256

/-- The bytes of the certificate chain around the two public keys that it holds (R456; log entry 10). -/
opaque certificatePart : Nat → List (BitVec 8)

/-- The bytes of an SPDM answer beyond what R456 states, by request code and content (log entry 10). -/
opaque spdmAnswer : Nat → List (BitVec 8) → List (BitVec 8)

/-- The digest of the firmware key fused into the part (R453). -/
opaque fusedKeyDigest : BitVec 512

/-- SHA-512 of the boot sequencer's ROM (R456, measurement 1). -/
opaque romDigest : BitVec 512

/-- SHA-512 of the fuse configuration and the repair map applied (R456, measurement 3). -/
opaque fuseDigest : BitVec 512

/-- The initial content of the firmware slot `s` of the management flash (R453; log entry 11). -/
opaque flashImage : Nat → List (BitVec 8)

/-- The fused minimum security version (R453). -/
opaque fusedSecurityVersion : BitVec 32

/-- HB of R399: the host physical address at which host software has placed this device's HBM (log entry 2). -/
opaque hdmBase : Nat

end Sys2Proof.Config
end

