-- ==== Sys2Proof/Machine/Access.lean ====
section
/-!
DEFINITION. Reaching the parts of the state by number: cores, slots, clusters, pseudo-channels, the registers of a
slot with the handler window (R30), the coordinates of a core (R2, R273), events (R441) and error words (R437).
-/

namespace Sys2Proof.Machine

/-! ## Coordinates -/

def coreAt (x y : Nat) : Nat := x + 80 * y
def coreX (c : Nat) : Nat := c % 80
def coreY (c : Nat) : Nat := c / 80
/-- The die of a core (R2). -/
def dieOf (c : Nat) : Nat := coreX c / 20 + 4 * (coreY c / 8)
/-- The cluster of a core (R2). -/
def clusterOf (c : Nat) : Nat := coreX c / 4 + 20 * (coreY c / 4)
/-- Core `l` of a cluster (R412). -/
def clusterCore (cl l : Nat) : Nat := coreAt (4 * (cl % 20) + l % 4) (4 * (cl / 20) + l / 4)
/-- The place of a core in its cluster (R412). -/
def coreInCluster (c : Nat) : Nat := coreX c % 4 + 4 * (coreY c % 4)

/-! ## Parts of the state -/

def State.coreOf (s : State) (c : Nat) : Core := s.cores.get Core.reset c
def State.setCore (s : State) (c : Nat) (k : Core) : State := { s with cores := s.cores.set c k }
def State.modCore (s : State) (c : Nat) (f : Core → Core) : State := s.setCore c (f (s.coreOf c))
def State.clusterAt (s : State) (c : Nat) : Cluster := s.clusters.get Cluster.reset c
def State.setCluster (s : State) (c : Nat) (k : Cluster) : State := { s with clusters := s.clusters.set c k }
def State.modCluster (s : State) (c : Nat) (f : Cluster → Cluster) : State := s.setCluster c (f (s.clusterAt c))
/-- Pseudo-channel `pch` of a stack. -/
def State.pchOf (s : State) (stack pch : Nat) : Pch := s.pchs.get Pch.reset (stack * 64 + pch)
def State.setPch (s : State) (stack pch : Nat) (p : Pch) : State := { s with pchs := s.pchs.set (stack * 64 + pch) p }
def State.slotOf (s : State) (c k : Nat) : Slot := vget (s.coreOf c).slots Slot.blank k
def State.setSlot (s : State) (c k : Nat) (x : Slot) : State := s.modCore c fun r => { r with slots := vset r.slots k x }
def State.modSlot (s : State) (c k : Nat) (f : Slot → Slot) : State := s.setSlot c k (f (s.slotOf c k))
/-- The slot that issues. -/
def State.me (s : State) : Slot := s.slotOf s.core s.slot
def State.setMe (s : State) (x : Slot) : State := s.setSlot s.core s.slot x
def State.modMe (s : State) (f : Slot → Slot) : State := s.modSlot s.core s.slot f
def State.myCore (s : State) : Core := s.coreOf s.core
def State.groupOf (s : State) (cl g : Nat) : Group := (s.clusterAt cl).groups.get Group.blank g
def State.setGroup (s : State) (cl g : Nat) (x : Group) : State :=
  s.modCluster cl fun c => { c with groups := c.groups.set g x }
def State.memberOf (s : State) (ctag : BitVec 4) : Membership := s.memberships.get {} ctag.toNat
def State.portOf (s : State) (p : Nat) : Port := s.ports.get Port.reset p

/-- A fresh free value (log entry 7). -/
def State.draw (s : State) : Word × State := (Config.freeWord s.free, { s with free := s.free + 1 })
/-- A fresh identifier of a command or request (the model's own). -/
def State.fresh (s : State) : Nat × State := (s.ident, { s with ident := s.ident + 1 })

/-- A core that neither is fenced off nor has failed (R447, R448), and exists. -/
def State.inService (s : State) (c : Nat) : Bool :=
  decide (c < 1280) && !(s.coreOf c).fenced && !(s.coreOf c).failed

/-! ## Registers of a slot -/

def Status.code : Status → Nat
  | .empty => 0
  | .runnable => 1
  | .memoryWait => 2
  | .engineWait => 3
  | .handler => 4
  | .parked => 5
  | .trapped => 6
  | .halted => 7
  | .killed => 8
  | .placed => 9

/-- Runnable in the sense of R14–R17 (R40). -/
def Status.issues (x : Status) : Bool := x == .runnable || x == .handler

def Slot.inHandler (x : Slot) : Bool := x.handler != .outside

/-- Register g`n` as an operand reference names it (R21, R30). -/
def Slot.readG (x : Slot) (n : Nat) : Word :=
  if n = 0 then 0
  else if x.inHandler && decide (24 ≤ n) then vget x.winG 0 (n - 24)
  else vget x.g 0 n

/-- Register g`n` written; a write to g0 is ignored (R21, R30). -/
def Slot.writeG (x : Slot) (n : Nat) (v : Word) : Slot :=
  if n = 0 then x
  else if x.inHandler && decide (24 ≤ n) then { x with winG := vset x.winG (n - 24) v }
  else { x with g := vset x.g n v }

def Slot.readV (x : Slot) (n : Nat) : Vec :=
  if x.inHandler && decide (12 ≤ n) then vget x.winV 0 (n - 12) else vget x.v 0 n

def Slot.writeV (x : Slot) (n : Nat) (v : Vec) : Slot :=
  if x.inHandler && decide (12 ≤ n) then { x with winV := vset x.winV (n - 12) v }
  else { x with v := vset x.v n v }

/-- Predicate p`k`; p0 is always true (R21, R23). -/
def Slot.predicate (x : Slot) (k : Nat) : Bool := k == 0 || bitAt x.pred k

/-- A write to p0 is ignored (R21). -/
def Slot.writePred (x : Slot) (k : Nat) (b : Bool) : Slot :=
  if k = 0 then x else { x with pred := setBits x.pred k k (if b then 1 else 0) }

/-- The mask that a msk code names: every lane for 0b000 (R99, R172). -/
def Slot.maskOf (x : Slot) (msk : BitVec 3) : BitVec 64 :=
  if msk = 0#3 then BitVec.allOnes 64 else vget x.m 0 (msk.toNat - 4)

/-- OR into fflags (R32). -/
def Slot.raise (x : Slot) (f : BitVec 7) : Slot := { x with fflags := x.fflags ||| f }

/-! ## Folding (R394, R395) -/

/-- The fold register of slot `k` of a core, if it is enabled. -/
def ownFold (r : Core) (k : Nat) : Option Word :=
  let f := vget r.fold 0 k
  if k < 7 && bitAt f 63 then some f else none

/-- The fold register of slot `k` of a core, if it is enabled. A rover's addresses keep the meaning that they had at its
origin, and so the fold of the slot it came from (R267). -/
def foldReg (s : State) (c k : Nat) : Option Word :=
  match (s.slotOf c k).origin with
  | some o => if o.core != c || o.slot != k then (if bitAt o.fold 63 then some o.fold else none) else ownFold (s.coreOf c) k
  | none => ownFold (s.coreOf c) k

/-- The core whose position a thread reads: the virtual core where the slot is folded (R29, R395); of a rover, the core of
its latest issue, which it has not yet left behind while it waits for its first issue after a move. -/
def virtualCore (s : State) (c k : Nat) : Nat :=
  match ownFold (s.coreOf c) k, (s.slotOf c k).origin with
  | some f, _ => bitsOf f 10 0
  | none, some o => if (s.slotOf c k).firstIssue then o.seen else c
  | none, none => c

/-- The slot number that tid shows: a rover's does not change when it moves (R28, R29). -/
def tidSlot (s : State) (c k : Nat) : Nat :=
  match (s.slotOf c k).origin with
  | some o => o.slot
  | none => k

/-- What is added to every scratchpad offset that a slot presents (R395), in bytes. -/
def slotRebase (s : State) (c k : Nat) : Nat :=
  match foldReg s c k with
  | some f => bitsOf f 47 32 * 32
  | none => 0

/-! ## Error words and events -/

/-- A bit set in a launch's error word (R437). -/
def setErr (s : State) (lid : BitVec 32) (bit : Nat) : State :=
  { s with errWords := s.errWords.set lid.toNat (setBits (s.errWords.get 0 lid.toNat) bit bit 1) }

/-- A slot consumes poison: its cir.pois and its launch's check-interval bit (R151, R436, R437). -/
def consumePoison (s : State) (c k : Nat) : State :=
  setErr (s.modSlot c k fun x => { x with pois := true }) (s.slotOf c k).lid 0

def consumeIf (s : State) (c k : Nat) (p : Bool) : State := if p then consumePoison s c k else s

/-- A lifetime count (R461): counters saturate. -/
def countLife (s : State) (idx n : Nat) : State :=
  { s with lifeRecent := s.lifeRecent.set idx (BitVec.ofNat 64 (min ((s.lifeRecent.get 0 idx).toNat + n) (2 ^ 64 - 1))) }

/-- An element the device sends to a slot's q0 (R387, R441): it arrives as a message that awaits no reply. -/
def deviceMessage (s : State) (dest slot : Nat) (v : Word) : State :=
  let m : Message :=
    { core := dest, slot := slot, dest := dest, destSlot := slot, port1 := false, payload := { val := v }
      pilot := true, lid := 0, waiting := false, device := true }
  { s with messages := s.messages ++ [m] }

/-- A containment event queued (R441). -/
def pushEvent (s : State) (kind core part : Nat) (addr : Nat) (lid : BitVec 32) (detail : Nat) : State :=
  let s := countLife s (0x10 + kind) 1
  if s.events.length < 256 then
    let d0 := kind + s.eventsLost.toNat * 2 ^ 8 + core * 2 ^ 16 + part * 2 ^ 32
    let r : TrapRec := ⟨BitVec.ofNat 64 d0, BitVec.ofNat 64 addr,
      BitVec.ofNat 64 (lid.toNat + (detail % 2 ^ 32) * 2 ^ 32), 0⟩
    let s' := { s with events := s.events ++ [r], eventsLost := 0 }
    if s.events.isEmpty then deviceMessage s' s.evnote.toNat 7 1 else s'
  else { s with eventsLost := BitVec.ofNat 8 (min (s.eventsLost.toNat + 1) 255) }

/-! ## Values that a context register refuses -/

/-- A value that frm or fmt refuses: a reserved mode or format code (R31, R199). -/
def ctxRefuses (n : Nat) (v : Word) : Bool :=
  (n == 9 && decide (6 ≤ bitsOf v 2 0))
    || (n == 6 && (decide (10 < bitsOf v 3 0) || decide (10 < bitsOf v 7 4) || bitsOf v 9 8 == 3))

/-! ## Replies -/

/-- A reply arrives at a slot that waits for one (R20); otherwise it is discarded (R252). -/
def postReply (s : State) (c k : Nat) (v : Word) (poison : Bool := false) : State :=
  match (s.slotOf c k).wait with
  | .reply _ _ => s.modSlot c k fun x => { x with reply := some ⟨v, poison⟩ }
  | _ => s

/-- The reply to one lane of a vector access (R188). -/
def laneReply (s : State) (c k ln : Nat) (v : Word) (poison : Bool) : State :=
  s.modSlot c k fun x =>
    match x.vec with
    | some a => { x with vec := some { a with acc := setLane a.acc ln (v.truncate 32), poison := a.poison || poison,
                                              left := a.left - 1 } }
    | none => x

/-- How another core's answers about a block are told from a peer module's: no rank is so great. -/
def bankKey (core : Nat) : Nat := 2 ^ 16 + core

/-- An answer about a part of a block is kept for the thread that asked (R270). -/
def keepAnswer (s : State) (f : Flight) (v : Word) (poison : Bool) : State :=
  match f.target with
  | .bank c off => if f.slot < 8 then { s with peerData := s.peerData ++ [⟨f.core, f.slot, bankKey c, off, v, poison⟩] } else s
  | _ => s

/-- The answer of an access. What a spoiled one reads comes poisoned (R439). -/
def Flight.answer (f : Flight) (s : State) (v : Word) (poison : Bool := false) : State :=
  let poison := poison || (f.spoiled && f.kind != .store)
  match f.lane with
  | some 64 => keepAnswer s f v poison
  | none => postReply s f.core f.slot v poison
  | some ln => laneReply s f.core f.slot ln v poison

end Sys2Proof.Machine
end

