-- ==== Sys2Proof/Machine/Memory.lean ====
section
/-!
DEFINITION. Where accesses are performed (R265–R286): scratchpad words, home lines under their policies, the
bursts of a port, combining buffers, reservation queues and watches; and how an address gets there: the segment
check of R108 and the translation of R377–R383.
-/

namespace Sys2Proof.Machine

/-! ## Bytes and poison -/

/-- `n` bytes of the model's memory, and whether a granule they touch is poisoned. -/
def State.load (s : State) (a n : Nat) : Nat × Bool := (s.mem.readN a n, poisonedIn s.poison a n)

/-- `n` bytes stored; no store of a thread clears a mark (R435). -/
def State.store (s : State) (a n v : Nat) : State := { s with mem := s.mem.writeN a n v }

/-- A line is marked as a whole: of a harbour entry too, every word of it. -/
def State.widen (s : State) (a : Nat) : State :=
  { s with entryMarks := s.entryMarks.filter fun w => w / 32 != a / 32 }

def State.mark (s : State) (a n : Nat) : State := { s.widen a with poison := markPoison s.poison (granules a n) }

/-- Whether `n` bytes within a line are poisoned where their line is marked: in a harbour entry the granule is the word (R434). -/
def State.poisonHere (s : State) (pa n : Nat) (marked : Bool) : Bool :=
  let here := s.entryMarks.filter fun w => w / 32 == pa / 32
  marked && (here.isEmpty || here.any fun w => decide (w < pa + n) && decide (pa < w + 4))

/-- An engine's write: granules covered whole with good data lose their mark, and poisoned data marks every granule
it touches (R434, R435). -/
def State.engineStore (s : State) (a n v : Nat) (poison : Bool) : State :=
  let s := s.store a n v
  if poison then s.mark a n else { s with poison := clearMarks s.poison (wholeGranules a n) }

/-! ## Homes (R273) -/

/-- The home of the line at a physical address: cluster and place in it, before the home map. -/
def homeIndex (pa : Nat) : Nat × Nat :=
  let f := ((pa / 2 ^ 8 % 2 ^ 16) ^^^ (pa / 2 ^ 24 % 2 ^ 16)) ^^^ (pa / 2 ^ 40 % 2 ^ 12)
  (f * 80 / 2 ^ 16, pa / 32 % 8 + 8 * (f % 2))

/-- The cluster whose port serves a block (R273). -/
def homeCluster (pa : Nat) : Nat := (homeIndex pa).1

/-- The core that serves the home of a line, through the cluster's home map (R273, R447). -/
def homeCore (s : State) (pa : Nat) : Nat :=
  let (cl, j) := homeIndex pa
  clusterCore cl (bitsOf (s.clusterAt cl).hmap (4 * j + 3) (4 * j))

/-- An address of host memory (R271). -/
def isHost (pa : Nat) : Bool := decide (2 ^ 51 ≤ pa)

/-- An address that a translation may yield: HBM or host memory (R271). -/
def isPopulated (pa : Nat) : Bool := decide (pa < 2 ^ 41) || (isHost pa && decide (pa < 2 ^ 52))

/-! ## Banks that a sequence holds (R272, R337) -/

/-- The bank that an HBM address lies in: stack, pseudo-channel, bank (R272). -/
def bankOf (pa : Nat) : Nat × Nat × Nat := (pa / 2 ^ 37, pa / 2 ^ 8 % 64, pa / 2 ^ 14 % 16)

/-- An ordinary request for the array at an address has to wait for a yield point of the sequence on its bank (R337). -/
def bankBusy (s : State) (pa : Nat) : Bool :=
  let (stack, pch, bank) := bankOf pa
  !isHost pa && (match (s.pchOf stack pch).running with
    | some q => bitAt q.banks bank && !q.atYield
    | none => false)

/-- An access reaches the array: no home holds its line, or it goes past the homes. -/
def needsArray (s : State) (pol : Policy) (pa : Nat) : Bool := pol == .direct || (s.homes.find? (pa / 32)).isNone

/-- The lines that the home at a core holds. -/
def linesAt (s : State) (h : Nat) : List Nat := (s.homes.entries.map (·.1)).filter fun l => homeCore s (l * 32) == h

/-- A home cache holds 768 KiB (R1). -/
def homeCapacity : Nat := 24576

/-- The home of an address is full. -/
def homeFull (s : State) (pa : Nat) : Bool :=
  decide (homeCapacity ≤ s.homes.entries.length) && decide (homeCapacity ≤ (linesAt s (homeCore s pa)).length)

/-- The lines that may leave the home of an address: clean ones, and dirty ones that can be written back now (R337). -/
def movableLines (s : State) (pa : Nat) : List Nat :=
  (linesAt s (homeCore s pa)).filter fun l => !((s.homes.find? l).any HomeLine.dirty && bankBusy s (l * 32))

/-- The home of an address can take a new line. -/
def hasRoom (s : State) (pa : Nat) : Bool := !homeFull s pa || !(movableLines s pa).isEmpty

/-- The access must go to the HBM array and a running sequence holds the bank (R337), or its line must be allocated and its full
home has none that may leave yet. -/
def arrayBlocked (s : State) (pol : Policy) (pa : Nat) : Bool :=
  needsArray s pol pa && (bankBusy s pa || ((pol == .homed || pol == .combine) && !hasRoom s pa))

/-! ## Bursts of the home cluster's port (R277) -/

/-- The bytes of a burst written into the array, in order. -/
def writeCells (m : Memory) : List Host.Cell → Memory
  | [] => m
  | (a, b) :: rest => writeCells (m.write a b) rest

/-- The pending write burst of a block is performed. -/
def flushBurst (s : State) (block : Nat) : State :=
  match s.bursts.find? fun b => b.block == block with
  | some b => { s with mem := writeCells s.mem b.bytes, poison := markPoison s.poison b.poison
                       bursts := s.bursts.filter fun b => b.block != block }
  | none => s

/-- The cells of `n` bytes at `a`. -/
def cellsOf (a : Nat) : Nat → Nat → List Host.Cell
  | 0, _ => []
  | n + 1, v => (a, BitVec.ofNat 8 v) :: cellsOf (a + 1) n (v / 256)

/-- A write request at the port: merged into a pending burst of the block within 8 cycles of its first request,
else a burst of its own behind it. Host memory is written over CXL at once (R400). -/
def portWrite (s : State) (pa n v : Nat) (owner : Option (Nat × Nat)) : State :=
  if isHost pa then s.store pa n v
  else
    let block := pa / 256
    let cells := cellsOf pa n v
    let mine := owner.toList
    match s.bursts.find? fun b => b.block == block with
    | some b =>
      if s.clock - b.opened ≤ 8 then
        let b' := { b with bytes := b.bytes ++ cells, owners := b.owners ++ mine }
        { s with bursts := s.bursts.map fun x => if x.block == block then b' else x }
      else
        let s := flushBurst s block
        { s with bursts := s.bursts ++ [⟨block, true, cells, [], mine, s.clock⟩] }
    | none => { s with bursts := s.bursts ++ [⟨block, true, cells, [], mine, s.clock⟩] }

/-- A read request at the port: it takes its place behind the writes of its block (R277). -/
def portRead (s : State) (pa n : Nat) : Nat × Bool × State :=
  let s := if isHost pa then s else flushBurst s (pa / 256)
  let (v, p) := s.load pa n
  (v, s.poisonHere pa n p, s)

/-! ## The home cache (R275) -/

def lineSlice (l : HomeLine) (pa n : Nat) : Nat := l.data.toNat / 2 ^ (8 * (pa % 32)) % 2 ^ (8 * n)

def lineMerge (l : HomeLine) (pa n v : Nat) : HomeLine :=
  { l with data := setBits l.data (8 * (pa % 32) + 8 * n - 1) (8 * (pa % 32)) v, dirty := true }

/-- The array takes a line as its home holds it. -/
def putLine (s : State) (line : Nat) (l : HomeLine) : State :=
  (if isHost (line * 32) then s else flushBurst s (line / 8)).engineStore (line * 32) 32 l.data.toNat l.poison

/-- A home line written back if dirty, and forgotten; 1 if it was dirty (R284, R448). -/
def evictLine (s : State) (line : Nat) : Nat × State :=
  match s.homes.find? line with
  | none => (0, s)
  | some l =>
    let s := { s with homes := s.homes.erase line }
    if l.dirty then (1, putLine s line l) else (0, s)

/-- A home line written back and kept, clean. -/
def cleanLine (s : State) (line : Nat) : State :=
  match s.homes.find? line with
  | some l => putLine { s with homes := s.homes.set line { l with dirty := false, owners := [] } } line l
  | none => s

/-- A place for the line of `pa` at its home: from a full cache a line leaves, and which one is open (log entry 60). -/
def makeRoom (s : State) (pa : Nat) : State :=
  if homeFull s pa then
    let l := movableLines s pa
    let (n, s) := s.draw
    (evictLine s (l.getD (n.toNat % l.length) (pa / 32))).2
  else s

/-- A line put into its home, which takes it if it holds the line or has room (R1). -/
def keepLine (s : State) (pa : Nat) (l : HomeLine) : State :=
  if (s.homes.find? (pa / 32)).isSome then { s with homes := s.homes.set (pa / 32) l }
  else if hasRoom s pa then
    let s := makeRoom s pa
    { s with homes := s.homes.set (pa / 32) l }
  else if l.dirty then putLine s (pa / 32) l
  else s

/-- The line as a home access finds it: a hit, or read from HBM and allocated if `keep` (R275). -/
def homeLine (s : State) (pa : Nat) (keep : Bool) : HomeLine × State :=
  match s.homes.find? (pa / 32) with
  | some l => (l, s)
  | none =>
    let (v, p, s) := portRead s (pa / 32 * 32) 32
    let l : HomeLine := { data := BitVec.ofNat 256 v, dirty := false, poison := p }
    (l, if keep then keepLine s pa l else s)

/-- A load of `n` bytes within a line, at its home or, under DIRECT, at the port (R275). -/
def homeLoad (s : State) (pol : Policy) (pa n : Nat) : Nat × Bool × State :=
  match pol with
  | .direct => portRead s pa n
  | .stream => let (l, s) := homeLine s pa false; (lineSlice l pa n, s.poisonHere pa n l.poison, s)
  | _ => let (l, s) := homeLine s pa true; (lineSlice l pa n, s.poisonHere pa n l.poison, s)

/-- A store of `n` bytes within a line. A COMBINE write-out is performed as STREAM (R275). -/
def homeStore (s : State) (pol : Policy) (pa n v : Nat) (owner : Option (Nat × Nat)) : State :=
  match pol with
  | .direct => portWrite s pa n v owner
  | .homed =>
    let (l, s) := homeLine s pa true
    keepLine s pa (lineMerge l pa n v)
  | _ =>
    match s.homes.find? (pa / 32) with
    | some l => { s with homes := s.homes.set (pa / 32) (lineMerge l pa n v) }
    | none => portWrite s pa n v none

/-! ## Combining buffers (R150) -/

/-- The entry of a block in a port's combining buffer. -/
def combineEntry (s : State) (cl pa : Nat) : Option CombineEntry := (s.clusterAt cl).combine.find? fun e => e.block == pa / 256

/-- The buffer holds every one of the `n` bytes at `pa`. -/
def CombineEntry.holds (e : CombineEntry) (pa n : Nat) : Bool :=
  (List.range n).all fun i => (tableFind (pa + i) e.bytes).isSome

/-- `n` bytes at `pa`, those that the buffer holds in place of those of `v`. -/
def CombineEntry.over (e : CombineEntry) (pa n v : Nat) : Nat :=
  (List.range n).foldl (fun acc i =>
    acc + 2 ^ (8 * i) * (((tableFind (pa + i) e.bytes).map BitVec.toNat).getD (v / 2 ^ (8 * i) % 256))) 0

/-- A COMBINE load of bytes within a line: those that the port's buffer holds, the others by `load` (R149, R275). -/
def combineView (s : State) (cl pa n : Nat) (load : State → Nat × Bool × State) : Nat × Bool × State :=
  match combineEntry s cl pa with
  | none => load s
  | some e =>
    if e.holds pa n then (e.over pa n 0, poisonedIn e.poison pa n, s)
    else
      let (v, p, s) := load s
      (e.over pa n v, p || poisonedIn e.poison pa n, s)

def combineLoad (s : State) (cl pa n : Nat) : Nat × Bool × State :=
  combineView s cl pa n fun s => homeLoad s .homed pa n

/-- What a store does to an entry: a thread's clears no mark, and an engine's marks or cures granules (R434, R435). -/
def CombineEntry.put (e : CombineEntry) (pa n v : Nat) (owner : Option (Nat × Nat)) (poison : Bool) : CombineEntry :=
  let bytes := (cellsOf pa n v).foldl (fun l x => tablePut x.1 x.2 l) e.bytes
  let good := if owner.isNone && !poison then wholeGranules pa n else []
  let bad := if poison then granules pa n else []
  { e with bytes := bytes, owners := e.owners ++ owner.toList
           poison := markPoison (clearMarks e.poison good) bad, cured := clearMarks (markPoison e.cured good) bad }

/-- A COMBINE store enters the port's buffer: a thread's, or an engine's without an owner. -/
def combineStore (s : State) (cl pa n v : Nat) (owner : Option (Nat × Nat)) (poison : Bool := false) : State :=
  s.modCluster cl fun c =>
    if c.combine.any fun e => e.block == pa / 256 then
      { c with combine := c.combine.map fun e => if e.block == pa / 256 then e.put pa n v owner poison else e }
    else
      let e : CombineEntry := { block := pa / 256, bytes := [], owners := [], opened := s.clock }
      { c with combine := c.combine ++ [e.put pa n v owner poison] }

/-! ## Engines (R276, R435) -/

/-- The line with an engine's data: good data over a whole line clears its mark. -/
def HomeLine.engineMerge (l : HomeLine) (pa n v : Nat) (poison : Bool) : HomeLine :=
  { lineMerge l pa n v with poison := poison || (l.poison && n != 32) }

/-- An engine's write to the array, behind the pending writes of its block. -/
def arrayStore (s : State) (pa n v : Nat) (poison : Bool) : State :=
  (if isHost pa then s else flushBurst s (pa / 256)).engineStore pa n v poison

/-- A burst's write within a line (R276): under HOMED or STREAM into a line that a home holds and HBM otherwise; under
DIRECT into HBM alone; under COMBINE into the issuing port's buffer. -/
def burstStore (s : State) (cl : Nat) (pol : Policy) (pa n v : Nat) (poison : Bool) : State :=
  let s := if poison then s.widen pa else s
  match pol, s.homes.find? (pa / 32) with
  | .combine, _ => combineStore s cl pa n v none poison
  | .direct, _ | _, none => arrayStore s pa n v poison
  | _, some l => { s with homes := s.homes.set (pa / 32) (l.engineMerge pa n v poison) }

/-- The write of a result that is no copy burst, at its place under the policy (R275, R276): HOMED allocates. -/
def resultStore (s : State) (cl : Nat) (pol : Policy) (pa n v : Nat) (poison : Bool) : State :=
  match pol with
  | .homed =>
    let (l, s) := homeLine (if poison then s.widen pa else s) pa true
    keepLine s pa (l.engineMerge pa n v poison)
  | _ => burstStore s cl pol pa n v poison

/-- What a burst under HOMED or STREAM reads: lines that a home holds dirty, else HBM (R276). -/
def dirtyLoad (s : State) (pa n : Nat) : Nat × Bool × State :=
  match s.homes.find? (pa / 32) with
  | some l => if l.dirty then (lineSlice l pa n, s.poisonHere pa n l.poison, s) else portRead s pa n
  | none => portRead s pa n

/-- The line of an address is marked where an access of a policy finds it. -/
def lineMarked (s : State) (cl : Nat) (pol : Policy) (pa : Nat) : Bool :=
  match pol, combineEntry s cl pa with
  | .combine, some e => poisonedIn e.poison pa 1 || (!poisonedIn e.cured pa 1 && (dirtyLoad s (pa / 32 * 32) 32).2.1)
  | .direct, _ => (portRead s (pa / 32 * 32) 32).2.1
  | _, _ => (dirtyLoad s (pa / 32 * 32) 32).2.1

/-- The write of a record of the device, or of a collective's result, which is none of those that clear poison (R435; DESIGN CHOICE,
log entry 170). -/
def recordStore (s : State) (cl : Nat) (pol : Policy) (pa n v : Nat) (poison : Bool) : State :=
  resultStore s cl pol pa n v (poison || lineMarked s cl pol pa)

/-- An engine's read within a line, through the port of cluster `cl` (R276, R291). -/
def burstLoad (s : State) (cl : Nat) (pol : Policy) (pa n : Nat) : Nat × Bool × State :=
  match pol with
  | .direct => portRead s pa n
  | .combine => combineView s cl pa n fun s => dirtyLoad s pa n
  | _ => dirtyLoad s pa n

/-- The pending writes of the blocks that a test picks by a line are performed (R277). -/
def flushWhere (s : State) (p : Nat → Bool) : State :=
  (s.bursts.map Burst.block).foldl (fun s b =>
    if (List.range 8).any fun i => p (8 * b + i) then flushBurst s b else s) s

/-- Every home line that a test picks, written back and forgotten, and pending writes of those lines performed; how many
were dirty. -/
def evictWhere (s : State) (p : Nat → Bool) : Nat × State :=
  (s.homes.entries.map (·.1)).foldl
    (fun (acc : Nat × State) line =>
      if p line then let (k, s) := evictLine acc.2 line; (acc.1 + k, s) else acc) (0, flushWhere s p)

/-! ## Reservations and watches (R153–R166) -/

/-- A store of the device that the host may hold a copy of waits for a back-invalidate (R399): the snoop is sent
and the answer is `true`. -/
def snoopBlocked (s : State) (pa n : Nat) : Bool × State :=
  let lines := (List.range ((pa % 32 + n + 31) / 32)).map fun i => pa / 32 + i
  match lines.find? fun l => s.hostLines.contains l with
  | some l => (true, { s with snoops := insertSorted l s.snoops })
  | none => (false, s)

/-! ### The migration predictor (R280) -/

/-- The predictor entry of an access instruction. -/
def predictIndex (pc : Word) : Nat := bitsOf pc 7 2

/-- The predictor after an access of slot `k` to a home has been performed (R280, R281): of a rover that moved, the entry of
its new core; an access performed from where a refusal left the rover does not count. -/
def trainPredictor (s : State) (c k h : Nat) : State :=
  let x := s.slotOf c k
  if x.origin.isSome && (x.stay == (h == c)) then
    s.modCore c fun r =>
      let e := r.predictor.get {} (predictIndex x.pc)
      let up := if e.h == some h then Nat.min 3 (e.c + 1) else e.c - 1
      { r with predictor := r.predictor.set (predictIndex x.pc) ⟨up, some h⟩ }
  else s

/-- What came poisoned over the mesh leaves its place poisoned (R434, R439). -/
def spoilPlace (s : State) (cl : Nat) (pol : Policy) (pa n : Nat) : State :=
  match pol, s.homes.find? (pa / 32) with
  | .combine, _ => s.modCluster cl fun c =>
      { c with combine := c.combine.map fun e =>
          if e.block == pa / 256 then { e with poison := markPoison e.poison (granules pa n) } else e }
  | .direct, _ | _, none => s.mark pa n
  | _, some l => { s.widen pa with homes := s.homes.set (pa / 32) { l with poison := true } }

/-- An access that writes, of which a flit was spoiled. -/
def Flight.spoils (f : Flight) : Bool :=
  f.spoiled && (match f.kind with
    | .store | .sres | .amo _ | .cas => true
    | _ => false)

/-- The answer of an access performed at the home of `pa`. -/
def Flight.homeAnswer (f : Flight) (s : State) (pa : Nat) (pol : Policy) (v : Word) (poison : Bool := false) : State :=
  let s := f.answer (if f.spoils then spoilPlace s (clusterOf f.core) pol pa f.n else s) v poison
  if pol = .homed ∨ pol = .stream then trainPredictor s f.core f.slot (homeCore s pa) else s

/-! ### Watches -/

/-- The value of an 8-byte granule of global memory as its home gives it, without a new line (R279). -/
def granuleValue (s : State) (g : Nat) : Nat × Bool × State := homeLoad s .stream g 8

/-- The value that a write around the home left, in a pending burst or in the array. -/
def arrayGranule (s : State) (g : Nat) : Nat × Bool × State := portRead s g 8

/-- The watches that a test picks end with the value that `value` reads (R165). -/
def endWatches (s : State) (p : Watch → Bool) (value : State → Watch → Nat × Bool × State) : State :=
  let ended := s.watches.filter p
  let s := { s with watches := s.watches.filter fun w => !p w }
  ended.foldl (fun s w =>
    let (v, po, s) := value s w
    let s := postReply s w.core w.slot (BitVec.ofNat 64 v) po
    if w.global then trainPredictor s w.core w.slot (homeCore s w.granule) else s) s

/-- F of R160, at a width of 8·`n` bits. -/
def amoResult (n : Nat) (op : BitVec 4) (old b : Nat) : Nat :=
  let w := 8 * n
  let so : Int := (BitVec.ofNat w old).toInt
  let sb : Int := (BitVec.ofNat w b).toInt
  let b := b % 2 ^ w
  match op.toNat with
  | 0 => (old + b) % 2 ^ w
  | 1 => old &&& b
  | 2 => old ||| b
  | 3 => old ^^^ b
  | 4 => if sb ≤ so then old else b
  | 5 => if so ≤ sb then old else b
  | 6 => if b ≤ old then old else b
  | 7 => if old ≤ b then old else b
  | _ => b

/-- What an amo or cas leaves in its word: nothing new for a failing cas (R160, R162), nor where the old value is one that
the destination, context register `guard`, refuses, so that the instruction traps without an effect (R31, R106). -/
def atomicResult (k : AccessKind) (n old : Nat) (data expected : Word) (guard : Nat := 0) : Option Nat :=
  if ctxRefuses guard (BitVec.ofNat 64 old) then none
  else match k with
  | .amo op => some (amoResult n op old data.toNat)
  | .cas => if old = expected.toNat % 2 ^ (8 * n) then some (data.toNat % 2 ^ (8 * n)) else none
  | _ => none

/-- Watches on a global granule end because it was written, at its home or, if `around`, past it (R165). -/
def wakeGlobal (s : State) (g : Nat) (around : Bool := false) : State :=
  endWatches s (fun w => w.global && w.granule == g) fun s w =>
    if around then arrayGranule s w.granule else granuleValue s w.granule

/-- A granted request of a queue performed: an lres becomes the holder with the granule's value, an amo or cas is
performed and passes on (R155, R161). The answer says whether the granule is now held. -/
def grantOne (s : State) (g : Nat) (pol : Policy) (f : Flight) : Bool × State :=
  let pa := match f.target with
    | .home pa _ => pa
    | _ => g
  let (old, p, s) := homeLoad s pol pa f.n
  match f.kind with
  | .lres =>
    let s := s.modSlot f.core f.slot fun x => { x with reservation := .global g }
    (true, f.homeAnswer s pa pol (BitVec.ofNat 64 old) p)
  | k =>
    let s := match atomicResult k f.n old f.data f.expected f.guard with
      | some v => wakeGlobal (homeStore s pol pa f.n v none) g
      | none => s
    (false, f.homeAnswer s pa pol (BitVec.ofNat 64 old) p)

def Flight.policy (f : Flight) : Policy :=
  match f.target with
  | .home _ p => p
  | _ => .homed

/-- The queue of a granule replaced. -/
def putQueue (s : State) (q : Queue) : State :=
  if s.queues.any fun p => p.granule == q.granule then
    { s with queues := s.queues.map fun p => if p.granule == q.granule then q else p }
  else { s with queues := s.queues ++ [q] }

/-- A request that a home is to perform has to wait: for the array of its line (R337), or, where it may write, for a line of it
that the host holds, which is called back (R399). -/
def homeWaits (s : State) (pol : Policy) (pa : Nat) (f : Flight) : Bool × State :=
  if arrayBlocked s pol pa then (true, s)
  else if f.kind == .lres || f.kind == .wrs then (false, s) else snoopBlocked s pa f.n

/-- The waiters of a queue served in order until one holds the granule, or has to wait itself (R155). -/
def serveWaiters (g : Nat) : List Flight → State → State
  | [], s => { s with queues := s.queues.filter fun q => q.granule != g }
  | f :: rest, s =>
    let pa := match f.target with
      | .home pa _ => pa
      | _ => g
    match homeWaits s f.policy pa f with
    | (true, s) => putQueue s ⟨g, none, 0, f :: rest⟩
    | (false, s) =>
      let (held, s) := grantOne s g f.policy f
      if held then putQueue s ⟨g, some (f.core, f.slot), (s.coreOf (homeCore s g)).cycle, rest⟩
      else serveWaiters g rest s

/-- The reservation of a granule ends and its queue passes on (R158). -/
def passGranule (s : State) (g : Nat) : State :=
  match s.queues.find? fun q => q.granule == g with
  | none => s
  | some q =>
    let s := match q.holder with
      | some (c, k) => s.modSlot c k fun x => if x.reservation == .global g then { x with reservation := .free } else x
      | none => s
    serveWaiters g q.waiters s

/-- A slot's reservation or monitor ends (R158). -/
def endReservation (s : State) (c k : Nat) : State :=
  match (s.slotOf c k).reservation with
  | .free => s
  | .localPad _ => s.modSlot c k fun x => { x with reservation := .free }
  | .global g => passGranule (s.modSlot c k fun x => { x with reservation := .free }) g

/-- What a plain store, or an engine's write, to global memory does beside its bytes: the reservations and watches
on the granules it touches end (R158, R165). `around` says that the write went past the homes. -/
def noteGlobal (s : State) (pa n : Nat) (around : Bool := false) : State :=
  let gs := (List.range ((pa % 8 + n + 7) / 8)).map fun i => pa / 8 * 8 + 8 * i
  gs.foldl (fun s g =>
    wakeGlobal (if s.queues.any fun q => q.granule == g && q.holder.isSome then passGranule s g else s) g around) s

/-- The value of an 8-byte granule of a scratchpad. -/
def padGranule (s : State) (w : Watch) : Nat × Bool × State :=
  let (v, p) := s.load (padAddr w.pad w.granule) 8
  (v, p, s)

/-- The bank of a scratchpad byte (R18). -/
def bankAt (off : Nat) : Nat := off / 32 % 32

/-- The banks that the `n` bytes at `off` stand in. -/
def banksAt (off n : Nat) : List Nat :=
  (List.range (min 32 ((off % 32 + n + 31) / 32))).map fun i => (off / 32 + i) % 32

/-- A thread's bank turn takes the banks of the `n` bytes at `off` in this cycle (R269). -/
def bankTurnAt (s : State) (c off n : Nat) : State :=
  s.modCore c fun r => { r with bankTurns := (banksAt off n).foldl (fun m b => setBits m b b 1) r.bankTurns }

/-- The core whose scratchpad a slot's local space is: a rover's stays that of its origin core (R267). -/
def padHome (c : Nat) (x : Slot) : Nat := (x.origin.map RoverHome.core).getD c

/-- The slots that use the scratchpad of core `c` as their local space. -/
def padUsers (s : State) (c : Nat) : List (Nat × Nat) :=
  (s.cores.entries.map (·.1)).flatMap fun d =>
    ((List.range 8).filter fun k => padHome d (s.slotOf d k) == c).map fun k => (d, k)

/-- A granule of 8 bytes meets the `n` bytes at `off`. -/
def meets (off n g : Nat) : Bool := decide (g / 8 * 8 < off + n) && decide (off < g / 8 * 8 + 8)

/-- The monitor of a slot on the bytes written is cleared (R157). -/
def clearMonitor (off n : Nat) (s : State) (u : Nat × Nat) : State :=
  s.modSlot u.1 u.2 fun x =>
    match x.reservation with
    | .localPad g => if meets off n g then { x with reservation := .free } else x
    | _ => x

/-- What a write to a scratchpad does beside its bytes: the monitors and watches on its granules end (R157, R158,
R165). -/
def notePad (s : State) (c off n : Nat) : State :=
  endWatches ((padUsers s c).foldl (clearMonitor off n) s)
    (fun w => !w.global && w.pad == c && meets off n w.granule) padGranule

/-- A thread's or a remote store into a scratchpad. -/
def padStore (s : State) (c off n v : Nat) : State := notePad (s.store (padAddr c off) n v) c off n

/-- An engine's or a bank unit's write into a scratchpad. -/
def padEngineStore (s : State) (c off n v : Nat) (poison : Bool) : State :=
  notePad (s.engineStore (padAddr c off) n v poison) c off n

/-- A read-modify-write by a bank unit or an atomic: a result from poisoned data keeps the mark (R109, R223). -/
def padRmwStore (s : State) (c off n v : Nat) (poison : Bool) : State :=
  let s := padStore s c off n v
  if poison then s.mark (padAddr c off) n else s

/-! ## Writing a combining entry out (R150) -/

/-- One byte of a combining entry written out as STREAM (R275). -/
def writeOutByte (s : State) (x : Host.Cell) : State := homeStore s .stream x.1 1 x.2.toNat none

/-- The marks of a combining entry take effect on a granule. -/
def writeOutMark (poison : Bool) (s : State) (g : Nat) : State :=
  match s.homes.find? (g / 32) with
  | some l => { s with homes := s.homes.set (g / 32) { l with poison := poison } }
  | none => if poison then s.mark g 32 else { s with poison := clearMarks s.poison [g] }

/-- The stores of an entry that stand at its block's places: in its burst, or in lines of its homes that are still to be
written back, on which their threads' fence.a waits (R170). -/
def passOwners (s : State) (e : CombineEntry) : State :=
  let touched := fun line => e.bytes.any fun x => x.1 / 32 == line
  let s := { s with bursts := s.bursts.map fun b => if b.block == e.block then { b with owners := b.owners ++ e.owners } else b }
  (List.range 8).foldl (fun s i =>
    match s.homes.find? (8 * e.block + i) with
    | some l => if touched (8 * e.block + i) then { s with homes := s.homes.set (8 * e.block + i) { l with owners := l.owners ++ e.owners } } else s
    | none => s) s

/-- A combining entry written out (R150): its bytes at their homes or in HBM, then the watches and reservations. -/
def combineOut (s : State) (cl block : Nat) : State :=
  match (s.clusterAt cl).combine.find? fun e => e.block == block with
  | none => s
  | some e =>
    let s := s.modCluster cl fun c => { c with combine := c.combine.filter fun e => e.block != block }
    let s := e.bytes.foldl writeOutByte s
    let s := if e.poison.isEmpty && e.cured.isEmpty then s else
      e.poison.foldl (writeOutMark true) (e.cured.foldl (writeOutMark false) (flushBurst s block))
    let s := passOwners s e
    e.bytes.foldl (fun s x => noteGlobal s x.1 1) s

/-- The host holds no line of an entry, or is asked for them (R399). -/
def combineSnoop (s : State) (cl block : Nat) : Bool × State :=
  match (s.clusterAt cl).combine.find? fun e => e.block == block with
  | none => (true, s)
  | some e => e.bytes.foldl (fun (acc : Bool × State) x =>
      let (b, s) := snoopBlocked acc.2 x.1 1
      (acc.1 || b, s)) (false, s)

/-- A combining entry leaves its buffer, unless a sequence holds the bank or the host a line. -/
def writeOut (s : State) (cl block : Nat) : State :=
  if bankBusy s (block * 256) then s
  else match combineSnoop s cl block with
  | (true, s) => s
  | (false, s) => combineOut s cl block

/-- The combining buffer of a port written out as far as it can be. -/
def writeOutAll (s : State) (cl : Nat) : State :=
  ((s.clusterAt cl).combine.map fun e => e.block).foldl (fun s b => writeOut s cl b) s

/-! ## The segment check (R108, R265) -/

/-- The outcome of the checks of an access: a trap, or the space and the address in it. -/
inductive Checked where
  | bad (c : Cause)
  | ok (space : Space) (p : Nat)
  deriving DecidableEq, Repr

def segSpace (q : Quad) : Space :=
  match bitsOf q 123 122 with
  | 0 => .global
  | 1 => .localPad
  | 2 => .remote
  | _ => .landing

/-- Access(a, n, right) up to the space's own checks, in the order of R108 and R265. `cap` is the length of the
running capsule's image and its tile's size, for the landing space; `rebase` is that of a folded slot. -/
def accessCheck (sg : Vector Quad 8) (rebase : Nat) (cap : Option (Nat × Nat)) (a : Word) (n : Nat) (r w x : Bool) :
    Checked :=
  let q := vget sg 0 (bitsOf a 63 61)
  let off := bitsOf a 60 0
  let p := bitsOf q 56 0 + off
  if !bitAt q 127 || (r && !bitAt q 124) || (w && !bitAt q 125) || (x && !bitAt q 126) then .bad .segment
  else if bitsOf q 120 64 < off + n - 1 then .bad .segment
  else if (n == 1 || n == 2 || n == 4 || n == 8) && p % n != 0 then .bad .misaligned
  else match segSpace q with
    | .global => if 2 ^ 57 ≤ p then .bad .segment else .ok .global p
    | .localPad => if 2 ^ 21 < p + rebase + n then .bad .segment else .ok .localPad (p + rebase)
    | .remote =>
      if 2 ^ 32 ≤ p || 80 ≤ p / 2 ^ 21 % 2 ^ 7 || 2 ^ 21 < p % 2 ^ 21 + n then .bad .segment else .ok .remote p
    | .landing =>
      match cap with
      | none => .bad .space
      | some (len, tile) =>
        if 2 ^ 13 ≤ p || len < p + n then .bad .segment
        else if w && (p < 416 || 416 + tile < p + n) then .bad .space
        else .ok .landing p

/-- The core and offset that a remote address names (R265). -/
def remoteCore (p : Nat) : Nat := coreAt (p / 2 ^ 21 % 2 ^ 7) (p / 2 ^ 28 % 2 ^ 4)
def remoteOff (p : Nat) : Nat := p % 2 ^ 21

/-! ## Capsule images (R306, R307) -/

def bufByte (s : State) (c b off : Nat) : Nat := (s.mem.read (bufAddr c b off)).toNat
def bufN (s : State) (c b off n : Nat) : Nat := s.mem.readN (bufAddr c b off) n
def setBufN (s : State) (c b off n v : Nat) : State := s.store (bufAddr c b off) n v
/-- The tile size in the header of a buffer (R307). -/
def bufTile (s : State) (c b : Nat) : Nat := bufN s c b 16 2
def bufSteps (s : State) (c b : Nat) : Nat := bufByte s c b 14

/-- The length of the image and the tile of the capsule a slot runs, for the landing space (R265). -/
def capsuleExtent (s : State) (c k : Nat) : Option (Nat × Nat) :=
  (s.slotOf c k).capsule.map fun b => (416 + bufTile s c b, bufTile s c b)

/-- The access check of a slot. -/
def slotCheck (s : State) (c k : Nat) (a : Word) (n : Nat) (r w x : Bool) : Checked :=
  accessCheck (s.slotOf c k).sg (slotRebase s c k) (capsuleExtent s c k) a n r w x

/-! ## Translation (R375–R383) -/

def pageBits (size : Nat) : Nat := if size = 0 then 16 else if size = 1 then 25 else 31

def TlbEntry.covers (e : TlbEntry) (host : Bool) (tag va : Nat) : Bool :=
  e.hostProcess == host && e.tag == tag && va / 2 ^ pageBits e.size == e.page / 2 ^ pageBits e.size

/-- The tag of a context in the TLB: its PASID where it is a host-process context (R397). -/
def Context.tlbTag (x : Context) (ctag : BitVec 4) : Nat := if x.hostProcess then x.pasid.toNat else ctag.toNat

def TlbEntry.address (e : TlbEntry) (va : Nat) : Nat := e.pa + va % 2 ^ pageBits e.size

/-- What the port's TLB says of an address: an entry with the rights needed, and with D set for a write (R380). -/
def tlbFind (s : State) (cl : Nat) (ctag : BitVec 4) (va : Nat) (r w x : Bool) : Option TlbEntry :=
  match (s.clusterAt cl).contexts.find? ctag.toNat with
  | none => none
  | some ctx => (s.clusterAt cl).tlb.find? fun e =>
      e.covers ctx.hostProcess (ctx.tlbTag ctag) va && (!r || e.r) && (!w || (e.w && e.d)) && (!x || e.x)

/-- What a translation answers: the address and policy; a miss; no context or an unpopulated address (R271, R376). -/
inductive Translated where
  | hit (pa : Nat) (policy : Policy)
  | miss
  | badRange
  deriving DecidableEq, Repr

def translate (s : State) (cl : Nat) (ctag : BitVec 4) (va : Nat) (r w x : Bool) : Translated :=
  if ((s.clusterAt cl).contexts.find? ctag.toNat).isNone then .badRange
  else match tlbFind s cl ctag va r w x with
    | none => .miss
    | some e => if isPopulated (e.address va) then .hit (e.address va) e.policy else .badRange

/-- The translation of an access of slot `k`: a page that the host has refused it has no address (R397). -/
def translateSlot (s : State) (c k va : Nat) (r w x : Bool) : Translated :=
  if (s.slotOf c k).barred == some va then .badRange else translate s (clusterOf c) (s.slotOf c k).ctag va r w x

/-- The index of a level of the walk (R377). -/
def walkIndex (va level : Nat) : Nat :=
  if level = 0 then va / 2 ^ 44 % 2 ^ 13
  else if level = 1 then va / 2 ^ 31 % 2 ^ 13
  else if level = 2 then va / 2 ^ 25 % 2 ^ 6
  else va / 2 ^ 16 % 2 ^ 9

/-- The size code of a leaf at a level: 0 for 64 KiB, 1 for 32 MiB, 2 for 2,048 MiB (R377, R384). -/
def leafSize (level : Nat) : Nat := 3 - level

/-- An entry with V = 1 is malformed (R378). -/
def entryMalformed (e : Word) (level : Nat) : Bool :=
  let leaf := bitAt e 1
  bitsOf e 63 52 != 0 || bitsOf e 11 9 != 0 || (leaf && level == 0) || (!leaf && level == 3)
    || (leaf && bitsOf e 51 0 / 2 ^ 12 * 2 ^ 12 % 2 ^ pageBits (leafSize level) != 0) || (!leaf && bitsOf e 8 2 != 0)

def policyOf (n : Nat) : Policy :=
  match n with
  | 0 => .homed
  | 1 => .stream
  | 2 => .direct
  | _ => .combine

/-- A translation installed: it takes the place of an older one of the same page; of 4,096 entries the oldest goes
first (which one goes is not architectural, R382). -/
def installTlb (s : State) (cl : Nat) (e : TlbEntry) : State :=
  s.modCluster cl fun c =>
    let kept := c.tlb.filter fun x => !(x.covers e.hostProcess e.tag e.page && x.size == e.size)
    { c with tlb := (if kept.length < 4096 then kept else kept.drop 1) ++ [e] }

/-- The core and rebase that a core named by a thread stands for, through its context's fold table (R394, R395). -/
def routeCore (s : State) (c k vc : Nat) : Nat × Nat :=
  match foldReg s c k with
  | none => (vc, 0)
  | some _ =>
    match (s.clusterAt (clusterOf c)).contexts.find? (s.slotOf c k).ctag.toNat with
    | some ctx =>
      if ctx.folded then
        let (v, _, _) := homeLoad s .homed (ctx.foldtab.toNat + 4 * vc) 4
        if v / 2 ^ 31 = 1 then (v % 2 ^ 11, v / 2 ^ 11 % 2 ^ 16 * 32) else (vc, 0)
      else (vc, 0)
    | none => (vc, 0)

/-! ## Apertures (R407) -/

/-- The aperture that claims an address of the host range, as the peer's rank and its HBM address. -/
def apertureOf (s : State) (pa : Nat) : Option (Nat × Nat) :=
  if isHost pa then
    ((List.range 16).find? fun i =>
        let a := s.apertures.get 0 i
        bitAt a 63 && pa / 2 ^ 41 == bitsOf a 51 41).map
      fun i => let a := s.apertures.get 0 i; (bitsOf a 15 0, pa - bitsOf a 51 41 * 2 ^ 41)
  else none

end Sys2Proof.Machine
end

