-- ==== Sys2Proof/Machine/Ops.lean ====
section
/-!
DEFINITION. The operations every instruction shares: leaving rotation and retiring (R16, R20), the q ports
(R190–R195), taking an exception (R106, R237, R389–R391) and returning from one (R239), parking and resuming.
-/

namespace Sys2Proof.Machine

/-! ## The flow of an instruction -/

/-- How far an instruction has come: it goes on with a value, or it has ended in a state (it waits or trapped). -/
inductive Flow (α : Type) where
  | go (a : α) (s : State)
  | stop (s : State)

def Flow.bind {α β : Type} (f : Flow α) (k : α → State → Flow β) : Flow β :=
  match f with
  | .go a s => k a s
  | .stop s => .stop s

/-- The state in which an instruction's issue ends. -/
def Flow.state {α : Type} : Flow α → State
  | .go _ s => s
  | .stop s => s

/-! ## Rotation -/

/-- A slot leaves rotation at the end of the issue cycle (R16), for a reason. The reservation is kept only for a
load, a store, a fence, or an amo or cas to another granule (R158). -/
def leaveRotation (s : State) (c k : Nat) (status : Status) (w : Wait) : State :=
  s.modSlot c k fun x => { x with status := status, wait := w, reply := none }

/-- A wait of a load, a store, an atomic or a fence, or for the port's or the home's answer to one: its instruction retires
before the slot is saved (R166). A step that is being folded leaves its slot (R320). -/
def Wait.mustRetire : Wait → Bool
  | .translation _ _ | .landing | .folding _ _ _ => true
  | .poll (.fence _) | .poll (.fenceBank _) | .poll (.fenceAlias _) | .poll .release | .poll (.peerDrained _) => true
  | .poll (.array _ _) | .poll .window => true
  | _ => false

/-- The issuing slot polls for a condition and issues its instruction again once it holds. -/
def pollFor (s : State) (status : Status) (p : Poll) : State := leaveRotation s s.core s.slot status (.poll p)

/-- A slot back in rotation: in its handler if it runs one. -/
def Slot.resumed' (x : Slot) : Slot :=
  { x with status := if x.inHandler then .handler else .runnable, wait := .nothing, reply := none, returnAt := none }

/-- A slot becomes runnable, unless a halt is pending (R239, R252) or a dock.out has asked it to stop, which leaves a
pending halt as it is (R392). -/
def makeRunnable (s : State) (c k : Nat) : State :=
  s.modSlot c k fun x =>
    let x := { x.resumed' with park := .free }
    if x.docking then { x with status := .halted }
    else if x.haltPending then { x with status := .halted, haltPending := false } else x

/-- A slot issues the instruction it has in progress again. A pending halt takes effect when that instruction retires
(R252); a dock.out stops it first, unless the instruction has to retire (R166, R392). -/
def reissue (s : State) (c k : Nat) : State :=
  s.modSlot c k fun x =>
    if x.docking && !x.wait.mustRetire then { x.resumed' with status := .halted } else { x.resumed' with midway := true }

/-- The instruction in progress of a slot goes on at once, though its slot does not issue: it stays out of rotation until its
reply arrives (R20). -/
def goOn (s : State) (c k : Nat) : State := { s with going := s.going ++ [(c, k)] }

/-- The slot whose instruction goes on is the one that acts, as at an issue. -/
def takeUp (s : State) (c k : Nat) : State :=
  { s.modSlot c k fun x => { x.resumed' with midway := true } with core := c, slot := k }

/-- The instruction of a slot retires: its latch is emptied (R100), the PC is set, and a pending halt or a single
step halts the slot (R252, R253). -/
def retireSlot (x : Slot) (pc : Word) : Slot :=
  let x := { x.resumed' with
    pc := pc, latch := [], push := none, vec := none, matched := false, outward := none, stay := false
    barred := none, midway := false, gacc := none }
  if x.docking then { x with status := .halted }
  else if x.haltPending || x.stepArmed then { x with status := .halted, haltPending := false, stepArmed := false } else x

/-- A slot that a halt has stopped holds no reservation (R158). -/
def haltEnds (s : State) (c k : Nat) : State := if (s.slotOf c k).status == .halted then endReservation s c k else s

def retire (s : State) (pc : Word) : State := haltEnds (s.modMe fun x => retireSlot x pc) s.core s.slot

/-- The leading slot of a slot's pair, and the other slot of it (R443). -/
def leadOf (k : Nat) : Nat := k / 2 * 2
def otherOf (k : Nat) : Nat := if k % 2 = 0 then k + 1 else k - 1

/-- The slots that an action on slot `k` acts on: both of a pair when it names the leading one (R446). -/
def actsOn (s : State) (c k : Nat) : List Nat :=
  if (s.slotOf c k).pair == .leading then [k, otherOf k] else [k]

/-- A parked slot becomes runnable (R250, R385): its park retires, or the access that faulted is issued again, unless a
halt is pending (R252). That park retires when its slot is woken is DEDUCED (log entry 54). -/
def unparkOne (s : State) (c k : Nat) : State :=
  match (s.slotOf c k).park with
  | .key _ _ => s.modSlot c k fun x => retireSlot { x with park := .free } (x.pc + 4)
  | .fault _ => makeRunnable (s.modSlot c k fun x => { x with midway := true }) c k
  | _ => makeRunnable s c k

/-- The same, for both threads of a pair that its leading slot stands for (R446). -/
def unpark (s : State) (c k : Nat) : State :=
  (actsOn s c k).foldl (fun s j => if (s.slotOf c j).status == .parked then unparkOne s c j else s) s

/-! ## Ports (R25, R190–R195) -/

def portDepth (port : Nat) : Nat := if port = 0 then 16 else if port = 1 then 32 else if port < 8 then 8 else 16

/-- The content of a port as slot `k` names it: q0 and q8–q15 are the slot's own, q1–q7 the core's. -/
def portGet (s : State) (c k port : Nat) : List Elem :=
  if port = 0 then (s.slotOf c k).q0
  else if port = 1 then (s.coreOf c).q1
  else if port < 8 then vget (s.coreOf c).qi [] (port - 2)
  else vget (s.slotOf c k).qe [] (port - 8)

def portSet (s : State) (c k port : Nat) (l : List Elem) : State :=
  if port = 0 then s.modSlot c k fun x => { x with q0 := l }
  else if port = 1 then s.modCore c fun r => { r with q1 := l }
  else if port < 8 then s.modCore c fun r => { r with qi := vset r.qi (port - 2) l }
  else s.modSlot c k fun x => { x with qe := vset x.qe (port - 8) l }

/-- Two slots mean the same port by one number: a shared port, or their own. -/
def samePort (port k k' : Nat) : Bool := (decide (1 ≤ port) && decide (port < 8)) || k == k'

/-- Pushers of a port that a freed place is reserved for: they no longer wait (R192). -/
def reservedPlaces (s : State) (c k port : Nat) : Nat :=
  ((s.coreOf c).pushers.filter fun (p, j) =>
    p == port && samePort port k j && (s.slotOf c j).wait != .push port).length

/-- Messages that wait at a port of core `c` for a place (R254). -/
def messagesWaiting (s : State) (c k port : Nat) : List Message :=
  s.messages.filter fun m => m.waiting && m.dest == c &&
    (if port = 1 then m.port1 else decide (port = 0) && !m.port1 && m.destSlot == k)

/-- Tokens held by engines for a port of slot `k` (R117). -/
def tokensHeld (s : State) (c k port : Nat) : Nat :=
  ((s.coreOf c).heldTokens.filter fun t => t.owner == .slot k && t.port + 8 == port).length

/-- Elements on their way to a port through the pipeline: each has a place (R190). -/
def arrivingAt (s : State) (c k port : Nat) : Nat :=
  ((s.coreOf c).arriving.filter fun a => a.port == port && samePort port k a.slot).length

/-- Places of a port that are taken: present elements, those that arrive, and places reserved for pushers. -/
def takenPlaces (s : State) (c k port : Nat) : Nat :=
  (portGet s c k port).length + arrivingAt s c k port + reservedPlaces s c k port

/-- Places of a port that a new pusher may take (R192, R194): a message that waits holds one (R254). -/
def freePlaces (s : State) (c k port : Nat) : Nat :=
  if 8 ≤ port && tokensHeld s c k port != 0 then 0
  else portDepth port - takenPlaces s c k port - (messagesWaiting s c k port).length

/-- What receipt of an element does to its receiver (R151, R206): poison sets cir, a token's flags are ORed in. -/
def receive (s : State) (c k : Nat) (e : Elem) : State :=
  let s := if e.token then s.modSlot c k fun x => x.raise (BitVec.ofNat 7 (bitsOf e.val 39 33)) else s
  consumeIf s c k (e.poison || (e.token && bitAt e.val 32))

/-- A freed place goes to the pusher that has waited longest (R192): it pushes at its next issue. -/
def wakePusher (s : State) (c k port : Nat) : State :=
  if 8 ≤ port && tokensHeld s c k port != 0 then s
  else match (s.coreOf c).pushers.find? fun (p, j) =>
      p == port && samePort port k j && (s.slotOf c j).wait == .push port with
    | some (_, j) =>
      let s := s.modSlot c j fun x => { x with midway := true }
      if (s.slotOf c j).status == .halted then s.modSlot c j fun x => { x with wait := .nothing }
      else makeRunnable s c j
    | none => s

/-- A slot leaves every list of waiters of its core; a place reserved for it goes to the next waiter (R193). -/
def dropWaits (s : State) (c k : Nat) : State :=
  let s := s.modCore c fun r => { r with cmdWaiters := r.cmdWaiters.filter fun w => w.2 != k }
  let held := ((s.coreOf c).pushers.filter fun w => w.2 == k && (s.slotOf c k).wait != .push w.1).map (·.1)
  let s := s.modCore c fun r => { r with poppers := r.poppers.filter (fun w => w.2 != k)
                                         pushers := r.pushers.filter fun w => w.2 != k }
  held.foldl (fun s port => wakePusher s c k port) s

/-- An element arrives at a port with room: it is reserved for the longest-waiting popper and goes into its latch, or
it joins the port (R191). A halted popper takes it and stays halted (R252). -/
def portArrive (s : State) (c k port : Nat) (e : Elem) : State :=
  match (s.coreOf c).poppers.find? fun (p, j) => p == port && samePort port k j with
  | some (_, j) =>
    let s := s.modCore c fun r => { r with poppers := r.poppers.filter fun w => w.2 != j }
    let s := s.modSlot c j fun x => { x with latch := x.latch ++ [e], wait := .nothing }
    let s := receive s c j e
    if (s.slotOf c j).status == .halted then s else makeRunnable s c j
  | none =>
    let s := portSet s c k port (portGet s c k port ++ [e])
    -- a slot parked with qwake becomes runnable when its q0 holds an element (R250)
    match port, (s.slotOf c k).park with
    | 0, .key _ true => if (s.slotOf c k).status == .parked then unpark s c k else s
    | _, _ => s

/-- The elements that a test picks leave the pipeline and arrive, in the order in which they were pushed (R190). -/
def landPushes (s : State) (c : Nat) (p : Arriving → Bool) : State :=
  let l := (s.coreOf c).arriving.filter p
  if l.isEmpty then s
  else
    let s := s.modCore c fun r => { r with arriving := r.arriving.filter fun a => !p a }
    l.foldl (fun s a => portArrive s c a.slot a.port a.elem) s

/-- Freed places go to the pushers that have waited longest, as many as there are. -/
def wakePushers (s : State) (c k port : Nat) : State :=
  (List.range (freePlaces s c k port)).foldl (fun s _ => wakePusher s c k port) s

/-! ## Taking an exception -/

/-- The causes in the order of their codes, which count from 1 (R389). -/
def causes : List Cause :=
  [.illegalInstruction, .illegalOperand, .privilege, .state, .segment, .misaligned, .space, .addressRange, .policy
   , .environmentCall, .breakpoint]

def causeCode (c : Cause) : Nat := causes.idxOf c + 1

/-- The record of a trap (R389). -/
def trapRecord (cause : Cause) (slot lane code : Nat) (pc : Word) (word : BitVec 32) (addr : Word) : TrapRec :=
  ⟨BitVec.ofNat 64 (causeCode cause + slot * 2 ^ 8 + lane * 2 ^ 11 + code * 2 ^ 32), pc, word.zeroExtend 64, addr⟩

/-- A record that a halted pilot sends to the module's management queue; it waits at its core while the queue is full
(R391, R402). -/
def mgmtEnqueue (s : State) (r : TrapRec) : State :=
  if s.mgmt.length < 64 && s.mgmtWaiting.isEmpty then { s with mgmt := s.mgmt ++ [r] }
  else { s with mgmtWaiting := s.mgmtWaiting ++ [r] }

/-- A record joins the core's trap queue, and a pilot parked by park becomes runnable (R250, R390). -/
def trapEnqueue (s : State) (c : Nat) (r : TrapRec) : State :=
  let s := s.modCore c fun x => { x with traps := x.traps ++ [r] }
  match (s.slotOf c 7).status, (s.slotOf c 7).park with
  | .parked, .key _ _ => unpark s c 7
  | _, _ => s

/-- The context of a slot, where it is a host process's (R397). -/
def hostContext (s : State) (c k : Nat) : Option Context :=
  match (s.clusterAt (clusterOf c)).contexts.find? (s.slotOf c k).ctag.toNat with
  | some x => if x.hostProcess then some x else none
  | none => none

/-- The record of a trapped slot goes to its pilot, or, of an environment call in a host process, to the host
(R390, R397, R403). -/
def reportTrap (s : State) (c k : Nat) (cause : Cause) (r : TrapRec) : State :=
  match cause, hostContext s c k with
  | .environmentCall, some x =>
    { s.modSlot c k fun y => { y with envCall := true } with envCalls := s.envCalls ++ [⟨c, k, x.pasid, r, false⟩] }
  | _, _ => trapEnqueue s c r

/-- A slot is stopped by a trap: it leaves rotation unretired and is trapped, or, for the pilot, halted (R106, R237).
Its reservation ends (R158). -/
def stopTrapped (s : State) (c k : Nat) : State :=
  let s := endReservation s c k
  leaveRotation (s.modSlot c k fun x => { x with barred := none, midway := false, gacc := none }) c k (if k = 7 then .halted else .trapped) .nothing

/-- A pair that disagrees is parked under a key that no wake matches, and reported (R445): event 0x05 and the launch's
error bit. -/
def pairReport (s : State) (c k : Nat) : State :=
  let stopped := fun (s : State) j =>
    (leaveRotation (endReservation s c j) c j .parked .nothing).modSlot c j fun x => { x with park := .pair, outward := none }
  let s := stopped (stopped s (leadOf k)) (leadOf k + 1)
  setErr (pushEvent s 5 c (leadOf k) 0 (s.slotOf c k).lid 0) (s.slotOf c k).lid 2

/-- A thread of a pair has reached a trap and waits for the other one (R446). -/
def awaitTrap (s : State) (c k : Nat) (r : TrapRec) : State :=
  leaveRotation (s.modSlot c k fun y => { y with pairTrap := some r }) c k .memoryWait .pairTrap

/-- Both threads of a pair trap, with one record (R446). -/
def trapPair (s : State) (c k : Nat) (cause : Cause) (r : TrapRec) : State :=
  let clear := fun (s : State) j => stopTrapped (s.modSlot c j fun y => { y with pairTrap := none }) c j
  reportTrap (clear (clear s k) (otherOf k)) c (leadOf k) cause r

/-- TAKING AN EXCEPTION (R106, R389–R391): slot `k` of core `c` traps with a cause, before any effect of the
instruction. Its record carries the cause, the slot, the lane, the code, the PC, the faulting word and the address;
it goes to the core's trap queue, for the pilot to the management queue, or, of a host process's call, to the host. A pair's trap waits until both threads
have reached it, and one record names the leading slot; of two that differ both wait, for the comparison to find the mismatch
(R446). The PC and the registers stay as they are. -/
def takeTrap (s : State) (c k : Nat) (cause : Cause) (lane code : Nat) (addr : Word) : State :=
  let x := s.slotOf c k
  let r := trapRecord cause (if x.pair == .alone then k else leadOf k) lane code x.pc x.word addr
  if k = 7 then mgmtEnqueue (stopTrapped s c k) r
  else if x.pair == .alone then reportTrap (stopTrapped s c k) c k cause r
  else
    match (s.slotOf c (otherOf k)).pairTrap with
    | some r' => if r = r' then trapPair s c k cause r else awaitTrap s c k r
    | none => awaitTrap s c k r

/-- The issuing slot traps at its instruction. -/
def trapHere (s : State) (cause : Cause) (addr : Word := 0) (lane : Nat := 0) (code : Nat := 0) : State :=
  takeTrap s s.core s.slot cause lane code addr

/-! ## Returning from an exception -/

/-- The deferred elements of a slot enter its q0 in arrival order, as far as it has room (R256). -/
def deliverDeferred (s : State) (c k : Nat) : State :=
  (s.coreOf c).deferred.foldl (fun s (j, e) =>
    if j = k && (portGet s c k 0).length < 16 then
      portArrive (s.modCore c fun r => { r with deferred := r.deferred.erase (j, e) }) c k 0 e
    else s) s

/-- A place of a port has been freed: a deferred element of the slot takes one of its q0 ahead of new arrivals (R256), else
the pusher that has waited longest has it (R192). -/
def placeFreed (s : State) (c k port : Nat) : State :=
  if port == 0 && (s.coreOf c).deferred.any fun d => d.1 == k then deliverDeferred s c k else wakePusher s c k port

/-- RETURNING FROM AN EXCEPTION (R239): slot `k` is to resume at the instruction that trapped, or past it when `skip`,
which also discards its operand latch. -/
def returnFromTrap (s : State) (c k : Nat) (skip : Bool) : State :=
  let s := if skip then s.modSlot c k fun x => { x with latch := [], push := none, pc := x.pc + 4 } else s
  let s := { s.modSlot c k fun x => { x with envCall := false } with
             envCalls := s.envCalls.filter fun q => !(q.core == c && q.slot == k) }
  deliverDeferred s c k

/-- A slot that tret has returned to stays trapped until that tret has retired, three cycles after its issue (R12, R239). -/
def returnLater (s : State) (c k : Nat) : State :=
  s.modSlot c k fun x => { x with returnAt := some ((s.coreOf c).cycle + 4) }

/-- A slot to which a tret that has retired returned is runnable, or halted where a halt is pending (R239). -/
def returnDue (s : State) (c k : Nat) : State :=
  match (s.slotOf c k).status, (s.slotOf c k).returnAt with
  | .trapped, some n => if n.toNat ≤ (s.coreOf c).cycle.toNat then makeRunnable (deliverDeferred s c k) c k else s
  | _, _ => s

end Sys2Proof.Machine
end

