-- ==== Sys2Proof/Machine/Operands.lean ====
section
/-!
DEFINITION. The operand forms (R22, R98, R100, R124): which fields of an instruction are sources, destinations or
restricted to general registers (R105, R125), the checks made before any effect (R104 step 4, R235, R236), reading
sources through the operand latch and writing the destination.
-/

namespace Sys2Proof.Machine

/-- The register fields of an instruction: sources in the order of R100, the destination, the fields restricted to
g0–g31 (R105, R125), and whether it names a v, m, q or ring register in another way (R38). -/
structure Uses where
  srcs : List (BitVec 6) := []
  dst : Option (BitVec 6) := none
  general : List (BitVec 6) := []
  vectorial : Bool := false
  deriving DecidableEq, Repr

/-- The register fields of each instruction word; the events have none. DEDUCED (log entry 13): a field that an entry
writes as ga or gb is restricted to g0–g31, one that it writes as gd is any writable register. -/
def instrUses : Instr → Uses
  | .trap ra _ => { general := [ra] }
  | .tret ra _ => { general := [ra] }
  | .park ra => { general := [ra] }
  | .xrd rd ra rb => { dst := some rd, general := [ra, rb] }
  | .xwr gv ra rb => { srcs := [gv], general := [ra, rb] }
  | .sysrd rd _ => { dst := some rd }
  | .syswr ra _ => { general := [ra] }
  | .segld _ ra => { general := [ra] }
  | .segldImg _ ra => { general := [ra] }
  | .ifence => {  }
  | .chkerr rd _ => { dst := some rd }
  | .quit => {  }
  | .send rd ra rb => { dst := some rd, general := [ra, rb] }
  | .bar rd _ => { dst := some rd }
  | .dockIn rd ra rb => { dst := some rd, general := [ra, rb] }
  | .dockOut rd ra rb => { dst := some rd, general := [ra, rb] }
  | .spawn rd ra rb => { dst := some rd, general := [ra, rb] }
  | .tsub rd ra rb => { dst := some rd, general := [ra, rb] }
  | .tget rd ra => { dst := some rd, general := [ra] }
  | .tdone rd ra => { dst := some rd, general := [ra] }
  | .brk _ => {  }
  | .kill rd ra => { dst := some rd, general := [ra] }
  | .wake rd ra rb => { dst := some rd, general := [ra, rb] }
  | .halt rd ra => { dst := some rd, general := [ra] }
  | .cont rd ra _ => { dst := some rd, general := [ra] }
  | .add rd ra rb => { srcs := [ra, rb], dst := some rd }
  | .sub rd ra rb => { srcs := [ra, rb], dst := some rd }
  | .mul rd ra rb => { srcs := [ra, rb], dst := some rd }
  | .mulh rd ra rb => { srcs := [ra, rb], dst := some rd }
  | .mulhu rd ra rb => { srcs := [ra, rb], dst := some rd }
  | .div rd ra rb => { srcs := [ra, rb], dst := some rd }
  | .divu rd ra rb => { srcs := [ra, rb], dst := some rd }
  | .rem rd ra rb => { srcs := [ra, rb], dst := some rd }
  | .remu rd ra rb => { srcs := [ra, rb], dst := some rd }
  | .and rd ra rb => { srcs := [ra, rb], dst := some rd }
  | .or rd ra rb => { srcs := [ra, rb], dst := some rd }
  | .xor rd ra rb => { srcs := [ra, rb], dst := some rd }
  | .andn rd ra rb => { srcs := [ra, rb], dst := some rd }
  | .sll rd ra rb => { srcs := [ra, rb], dst := some rd }
  | .srl rd ra rb => { srcs := [ra, rb], dst := some rd }
  | .sra rd ra rb => { srcs := [ra, rb], dst := some rd }
  | .min rd ra rb => { srcs := [ra, rb], dst := some rd }
  | .max rd ra rb => { srcs := [ra, rb], dst := some rd }
  | .minu rd ra rb => { srcs := [ra, rb], dst := some rd }
  | .maxu rd ra rb => { srcs := [ra, rb], dst := some rd }
  | .clz rd ra => { srcs := [ra], dst := some rd }
  | .ctz rd ra => { srcs := [ra], dst := some rd }
  | .popc rd ra => { srcs := [ra], dst := some rd }
  | .sext rd ra _ => { srcs := [ra], dst := some rd }
  | .zext rd ra _ => { srcs := [ra], dst := some rd }
  | .rotl rd ra rb => { srcs := [ra, rb], dst := some rd }
  | .rotr rd ra rb => { srcs := [ra, rb], dst := some rd }
  | .sel rd ra rb _ => { srcs := [ra, rb], dst := some rd }
  | .cmp _ ra rb _ => { srcs := [ra, rb] }
  | .pl _ _ _ _ => {  }
  | .jalr rd ra => { general := [rd, ra] }
  | .addi rd ra _ => { srcs := [ra], dst := some rd }
  | .andi rd ra _ => { srcs := [ra], dst := some rd }
  | .ori rd ra _ => { srcs := [ra], dst := some rd }
  | .xori rd ra _ => { srcs := [ra], dst := some rd }
  | .slli rd ra _ => { srcs := [ra], dst := some rd }
  | .srli rd ra _ => { srcs := [ra], dst := some rd }
  | .srai rd ra _ => { srcs := [ra], dst := some rd }
  | .cmpi _ _ ra _ => { srcs := [ra] }
  | .ldB rd ra _ => { dst := some rd, general := [ra] }
  | .ldBu rd ra _ => { dst := some rd, general := [ra] }
  | .ldH rd ra _ => { dst := some rd, general := [ra] }
  | .ldHu rd ra _ => { dst := some rd, general := [ra] }
  | .ldW rd ra _ => { dst := some rd, general := [ra] }
  | .ldWu rd ra _ => { dst := some rd, general := [ra] }
  | .ldD rd ra _ => { dst := some rd, general := [ra] }
  | .stB ra rb _ => { srcs := [rb], general := [ra] }
  | .stH ra rb _ => { srcs := [rb], general := [ra] }
  | .stW ra rb _ => { srcs := [rb], general := [ra] }
  | .stD ra rb _ => { srcs := [rb], general := [ra] }
  | .lres rd ra _ _ => { dst := some rd, general := [ra] }
  | .sres rd ra rb _ _ => { srcs := [rb], dst := some rd, general := [ra] }
  | .amo rd ra rb _ _ => { srcs := [rb], dst := some rd, general := [ra] }
  | .cas rd ra rb _ _ => { srcs := [rb, rd], dst := some rd, general := [ra] }
  | .wrs rd ra rb => { srcs := [rb], dst := some rd, general := [ra] }
  | .fence ra => { general := [ra] }
  | .fenceB ra => { general := [ra] }
  | .fenceA ra => { general := [ra] }
  | .beq ra rb _ => { srcs := [ra, rb] }
  | .bne ra rb _ => { srcs := [ra, rb] }
  | .blt ra rb _ => { srcs := [ra, rb] }
  | .bge ra rb _ => { srcs := [ra, rb] }
  | .bltu ra rb _ => { srcs := [ra, rb] }
  | .bgeu ra rb _ => { srcs := [ra, rb] }
  | .bt _ _ => {  }
  | .bf _ _ => {  }
  | .jmp _ => {  }
  | .jal rd _ => { general := [rd] }
  | .lui rd _ => { dst := some rd }
  | .lpc rd _ => { dst := some rd }
  | .vadd _ _ _ _ gs _ => { srcs := [gs], vectorial := true }
  | .vsub _ _ _ _ gs _ => { srcs := [gs], vectorial := true }
  | .vmul _ _ _ _ gs _ => { srcs := [gs], vectorial := true }
  | .vdiv _ _ _ _ gs _ => { srcs := [gs], vectorial := true }
  | .vfma _ _ _ _ gs _ => { srcs := [gs], vectorial := true }
  | .vfms _ _ _ _ gs _ => { srcs := [gs], vectorial := true }
  | .vmin _ _ _ _ gs _ => { srcs := [gs], vectorial := true }
  | .vmax _ _ _ _ gs _ => { srcs := [gs], vectorial := true }
  | .vabs _ _ _ _ => { vectorial := true }
  | .vneg _ _ _ _ => { vectorial := true }
  | .vsqrt _ _ _ _ => { vectorial := true }
  | .vexp2 _ _ _ _ => { vectorial := true }
  | .vand _ _ _ _ gs _ => { srcs := [gs], vectorial := true }
  | .vor _ _ _ _ gs _ => { srcs := [gs], vectorial := true }
  | .vxor _ _ _ _ gs _ => { srcs := [gs], vectorial := true }
  | .vshl _ _ _ _ gs _ => { srcs := [gs], vectorial := true }
  | .vshr _ _ _ _ gs _ => { srcs := [gs], vectorial := true }
  | .vsra _ _ _ _ gs _ => { srcs := [gs], vectorial := true }
  | .vcvt _ _ _ _ _ _ => { vectorial := true }
  | .vcmp _ _ _ _ _ _ => { vectorial := true }
  | .vm _ _ _ _ => { vectorial := true }
  | .vperm _ _ _ _ _ => { vectorial := true }
  | .vbcast _ _ gs _ => { srcs := [gs], vectorial := true }
  | .vslide _ _ _ gs _ => { srcs := [gs], vectorial := true }
  | .vextr _ _ gs _ => { dst := some gs, vectorial := true }
  | .vins _ _ gs _ => { srcs := [gs], vectorial := true }
  | .vredsum _ _ _ gs _ => { srcs := [gs], vectorial := true }
  | .vredmax _ _ _ gs _ => { srcs := [gs], vectorial := true }
  | .vredmin _ _ _ gs _ => { srcs := [gs], vectorial := true }
  | .viota _ _ _ => { vectorial := true }
  | .vmcnt _ gs => { dst := some gs, vectorial := true }
  | .vfirst _ gs => { dst := some gs, vectorial := true }
  | .vld _ _ gs _ => { general := [gs], vectorial := true }
  | .vst _ _ gs _ => { general := [gs], vectorial := true }
  | .vlds _ _ gs _ => { general := [gs], vectorial := true }
  | .vsts _ _ gs _ => { general := [gs], vectorial := true }
  | .vgath _ _ _ gs _ => { general := [gs], vectorial := true }
  | .vscat _ _ _ gs _ => { general := [gs], vectorial := true }
  | .qtry rd _ _ => { general := [rd], vectorial := true }
  | .qoffer _ ra _ => { general := [ra], vectorial := true }
  | .qcnt rd _ => { general := [rd], vectorial := true }
  | .vqpop _ _ _ => { vectorial := true }
  | .vqpush _ _ _ => { vectorial := true }
  | .mset _ gs => { srcs := [gs], vectorial := true }
  | .mget _ gs => { dst := some gs, vectorial := true }
  | .vpack _ _ _ _ => { vectorial := true }
  | .vunpk _ _ _ _ => { vectorial := true }
  | .mshape rd ra => { dst := some rd, general := [ra], vectorial := true }
  | .enq ra => { general := [ra], vectorial := true }
  | .enqw ra rd => { dst := some rd, general := [ra], vectorial := true }
  | .drain => { vectorial := true }
  | .cnew rd ra _ => { dst := some rd, general := [ra], vectorial := true }
  | .cfwd => { vectorial := true }
  | .cins rd ra rb => { dst := some rd, general := [ra, rb], vectorial := true }
  | .cdel rd ra => { dst := some rd, general := [ra], vectorial := true }
  | .crep rd ra rb => { dst := some rd, general := [ra, rb], vectorial := true }
  | .cpark ra => { general := [ra], vectorial := true }
  | .gacc rd ra rb => { dst := some rd, general := [ra, rb], vectorial := true }
  | .gstat rd ra rb => { dst := some rd, general := [ra, rb], vectorial := true }
  | .gclose rd ra => { dst := some rd, general := [ra], vectorial := true }
  | .gflip rd ra => { dst := some rd, general := [ra], vectorial := true }
  | .gjoin rd ra rb => { dst := some rd, general := [ra, rb], vectorial := true }
  | .ringrd rd _ _ => { dst := some rd, vectorial := true }
  | _ => {}

/-- The instruction is pilot-only (R236). -/
def pilotOnly : Instr → Bool
  | .tret _ _ => true
  | .xrd _ _ _ => true
  | .xwr _ _ _ => true
  | .sysrd _ _ => true
  | .syswr _ _ => true
  | .segldImg _ _ => true
  | .dockIn _ _ _ => true
  | .dockOut _ _ _ => true
  | .kill _ _ => true
  | .halt _ _ => true
  | .cont _ _ _ => true
  | _ => false

/-! ## The checks before any effect -/

/-- A register field names a general register (R22). -/
def isG (f : BitVec 6) : Bool := decide (f.toNat < 32)

/-- The context registers that are read-only (R27): c0–c4, c12, c13 and c15. -/
def isReadOnly (f : BitVec 6) : Bool :=
  let n := f.toNat
  (decide (48 ≤ n) && decide (n ≤ 52)) || n == 60 || n == 61 || n == 63

/-- A rover may name g0–g10, pred, coord and cycle (R37). -/
def roverField (f : BitVec 6) : Bool :=
  let n := f.toNat
  decide (n ≤ 10) || n == 62 || n == 49 || n == 61

/-- Instructions that R236 refuses a rover beside those that name a register outside R37. -/
def refusesRover : Instr → Bool
  | .spawn _ _ _ | .bar _ _ | .segld _ _ => true
  | _ => false

/-- The instructions that R236 allows a rover only where gd is one of g0–g10. -/
def roverDst : Instr → Bool
  | .send _ _ _ | .tsub _ _ _ | .tget _ _ | .tdone _ _ | .chkerr _ _ | .wake _ _ _ => true
  | _ => false

/-- An operand is illegal whatever its value (R105, R38, R197): a q or c register in a restricted field, a read-only
destination, a register a rover may not name. enq and enqw want ga to be one of 4, 8, … 28. -/
def operandIllegal (i : Instr) (rover : Bool) : Bool :=
  let u := instrUses i
  u.general.any (fun f => !isG f) || u.dst.any isReadOnly
    || (match i with
        | .enq ra | .enqw ra _ => !(ra.toNat % 4 == 0 && decide (4 ≤ ra.toNat) && decide (ra.toNat ≤ 28))
        | _ => false)
    || (rover && (u.vectorial || refusesRover i || (u.srcs ++ u.general ++ u.dst.toList).any (fun f => !roverField f)
        || (roverDst i && u.dst.any fun f => decide (10 < f.toNat))))

/-- The instruction is used outside the slot condition that its entry wants (R198, R236). quit is refused to a capsule step
at every inline depth (log entry 14). -/
def stateIllegal (i : Instr) (x : Slot) : Bool :=
  match i with
  | .park _ => x.inHandler || x.capsule.isSome
  | .quit => x.inHandler || x.capsule.isSome
  | .spawn _ _ _ => x.inHandler
  | .bar _ _ => x.inHandler || x.capsule.isSome || !x.gang
  | .enqw _ _ => x.inHandler
  | .drain => !x.inHandler
  | .cfwd | .cins _ _ _ | .cdel _ _ | .crep _ _ _ | .cpark _ => x.capsule.isNone
  | _ => false

/-- The trap that an instruction raises before any effect and whatever the values of its operands, if any. -/
def precheck (i : Instr) (s : State) : Option Cause :=
  if pilotOnly i && s.slot != 7 then some .privilege
  else if operandIllegal i s.me.origin.isSome then some .illegalOperand
  else if stateIllegal i s.me then some .state
  else none

/-- The first issue of a capsule step started from its resume block clears resume valid in the header (R316). -/
def clearResume (s : State) : State :=
  match s.me.resumed, s.me.capsule with
  | true, some b =>
    let s := s.modMe fun x => { x with resumed := false }
    setBufN s s.core b 15 1 (bufByte s s.core b 15 &&& 0xFD)
  | _, _ => s

/-- An instruction issues: its word is noted for a trap's record (R389), the checks are made, and its effect follows
in this step (DESIGN CHOICE, log entry 169). The thread's first issue also clears resume valid in the header of a capsule step's image (R316). -/
def issue (i : Instr) (s : State) (body : State → State) : State :=
  let s := clearResume (s.modMe fun x => { x with word := encodeWord i })
  match precheck i s with
  | some c => trapHere s c
  | none => body s

/-! ## Context registers (R27–R33, R199, R201, R436) -/

/-- The value of context register c`n` of a slot. -/
def ctxRead (s : State) (c k n : Nat) : Word :=
  let x := s.slotOf c k
  match n with
  | 0 => BitVec.ofNat 64 (x.rank.toNat + tidSlot s c k * 2 ^ 16)
  | 1 =>
    let v := virtualCore s c k
    BitVec.ofNat 64 (coreX v + coreY v * 2 ^ 7 + dieOf v * 2 ^ 11 + clusterOf v * 2 ^ 14 + x.mrank.toNat * 2 ^ 32)
  | 2 => zeroExt x.lid
  | 3 => zeroExt x.ctag
  | 4 => x.task
  | 5 => x.hbase
  | 6 => zeroExt x.fmt
  | 7 => zeroExt x.sca
  | 8 => zeroExt x.scb
  | 9 => zeroExt x.frm
  | 10 => zeroExt x.fflags
  | 11 => zeroExt x.srseed
  | 12 => BitVec.ofNat 64 ((if x.pois then 1 else 0) + (s.errWords.get 0 x.lid.toNat).toNat * 2)
  | 13 => (s.coreOf c).cycle
  | 14 => zeroExt (setBits x.pred 0 0 1)
  | _ => x.hlink

/-- A writable context register written; reserved bits ignore the write (R11, R27). -/
def Slot.ctxWrite (x : Slot) (n : Nat) (v : Word) : Slot :=
  match n with
  | 5 => { x with hbase := v }
  | 6 => { x with fmt := v.truncate 11 }
  | 7 => { x with sca := v.truncate 21 }
  | 8 => { x with scb := v.truncate 21 }
  | 9 => { x with frm := v.truncate 3 }
  | 10 => { x with fflags := v.truncate 7 }
  | 11 => { x with srseed := v.truncate 32 }
  | 14 => { x with pred := setBits (v.truncate 16) 0 0 1 }
  | _ => x

/-! ## Sources (R100, R191) -/

/-- A value that an instruction has read is kept in the latch until it retires, so that a reissue reads it again. -/
def keepLatch (s : State) (e : Elem) : State := s.modMe fun x => { x with latch := x.latch ++ [e] }

/-- The leading thread of a pair queues a value that crosses the pair's boundary for the trailing one, as it reads it (R444). -/
def handOn (s : State) (e : Elem) : State :=
  if s.me.pair == .leading then s.modMe fun x => { x with lvq := x.lvq ++ [e] } else s

/-- A value that crosses a pair's boundary is kept and handed on (R444). -/
def keepRead (s : State) (e : Elem) : State := handOn (keepLatch s e) e

/-- The trailing thread takes a value from the leading thread's load-value queue, or waits for it (R444). Of a token it takes the
flags as well (DEDUCED, log entry 155). -/
def takeValue (s : State) : Flow Word :=
  let lead := leadOf s.slot
  match (s.slotOf s.core lead).lvq with
  | e :: rest =>
    let s := s.modSlot s.core lead fun y => { y with lvq := rest }
    .go e.val (receive (keepRead s e) s.core s.slot e)
  | [] => .stop (pollFor s .memoryWait .loadValue)

/-- The trailing thread takes `n` values at once, or waits until they are queued. -/
def takeMany (n : Nat) (s : State) : Flow (List Elem) :=
  let lead := leadOf s.slot
  let q := (s.slotOf s.core lead).lvq
  if q.length < n then .stop (pollFor s .memoryWait .loadValue)
  else
    let s := s.modSlot s.core lead fun y => { y with lvq := q.drop n }
    .go (q.take n) (consumeIf s s.core s.slot ((q.take n).any fun e => e.poison))

/-- The queue of a pair has no room for `n` doublewords that a read may bring (R444): it holds 128. -/
def valueQueueFull (s : State) (n : Nat := 1) : Bool := s.me.pair == .leading && decide (128 < s.me.lvq.length + n)

/-- The leading thread waits for room in the queue; its reservation ends, unless it loads (R158, R444). -/
def awaitValueRoom (s : State) : State := pollFor (endReservation s s.core s.slot) .memoryWait .loadValueRoom

/-- The n-th popped source of the instruction: from the latch if it was popped before, else from the port, or the
thread waits on the port (R100, R191). `cur` counts the sources popped so far in this issue. -/
def popPort (port cur : Nat) (s : State) : Flow (Word × Nat) :=
  let x := s.me
  if h : cur < x.latch.length then .go (x.latch[cur].val, cur + 1) s
  else if x.pair == .trailing then (takeValue s).bind fun v s => .go (v, cur + 1) s
  else if valueQueueFull s then .stop (awaitValueRoom s)
  else match portGet s s.core s.slot port with
    | e :: rest =>
      let s := portSet s s.core s.slot port rest
      let s := receive (keepRead s e) s.core s.slot e
      .go (e.val, cur + 1) (placeFreed s s.core s.slot port)
    | [] =>
      let s := s.modCore s.core fun r => { r with poppers := r.poppers ++ [(port, s.slot)] }
      let s := endReservation s s.core s.slot
      .stop (leaveRotation s s.core s.slot (if port < 8 then .memoryWait else .engineWait) (.pop port))

/-- A source field read (R124). In a pair, cycle and cir cross the boundary like a popped value (R444). -/
def readField (f : BitVec 6) (cur : Nat) (s : State) : Flow (Word × Nat) :=
  let n := f.toNat
  if n < 32 then .go (s.me.readG n, cur) s
  else if n < 48 then popPort (n - 32) cur s
  else if s.me.pair != .alone && (n == 61 || n == 60) then
    if h : cur < s.me.latch.length then .go (s.me.latch[cur].val, cur + 1) s
    else if s.me.pair == .trailing then (takeValue s).bind fun v s => .go (v, cur + 1) s
    else if valueQueueFull s then .stop (awaitValueRoom s)
    else
      let v := ctxRead s s.core s.slot (n - 48)
      .go (v, cur + 1) (keepRead s ⟨v, false, false⟩)
  else .go (ctxRead s s.core s.slot (n - 48), cur) s

/-- A result for a destination that refuses it: where the result is known before the effect, the trap comes first (R31, R106). -/
def resultRefused (rd : BitVec 6) (v : Word) : Bool := ctxRefuses (rd.toNat - 48) v

/-- Source fields read in order, from `cur` popped ones on. -/
def readFrom : List (BitVec 6) → Nat → State → Flow (List Word)
  | [], _, s => .go [] s
  | f :: rest, cur, s =>
    (readField f cur s).bind fun (v, cur) s => (readFrom rest cur s).bind fun vs s => .go (v :: vs) s

/-- Two sources read in field order. -/
def read2 (a b : BitVec 6) (s : State) (k : Word → Word → State → State) : State :=
  match readFrom [a, b] 0 s with
  | .go (x :: y :: _) s => k x y s
  | .go _ s => s
  | .stop s => s

/-- One source read. -/
def read1 (a : BitVec 6) (s : State) (k : Word → State → State) : State :=
  match readFrom [a] 0 s with
  | .go (x :: _) s => k x s
  | .go _ s => s
  | .stop s => s

/-- The value of a field restricted to general registers. -/
def gval (s : State) (f : BitVec 6) : Word := s.me.readG f.toNat

/-! ## Pairs: outward requests (R444) -/

/-- An outward request of a thread. A thread of no pair makes it at once. A pair's threads each hold it, with its
address and data, until both are there and agree; then the leading thread makes it and the trailing one only takes
its result. `own` makes the request, `result` takes it. A wait for the comparison ends the reservation, unless `keep` (R158). -/
def outwardBy (keep : Bool) (vals : List Word) (s : State) (own result : State → State) : State :=
  let x := s.me
  if x.pair == .alone then own s
  else if x.matched then (if x.pair == .leading then own s else result s)
  else
    let s := if keep then s else endReservation s s.core s.slot
    leaveRotation (s.modMe fun y => { y with outward := some ⟨y.word, vals⟩ }) s.core s.slot .memoryWait .compare

/-- The request of a load, a store or an atomic keeps the reservation while it waits, and another's ends it (R158). -/
def outwardAccess : List Word → State → (State → State) → (State → State) → State := outwardBy true
def outward : List Word → State → (State → State) → (State → State) → State := outwardBy false

/-! ## Destinations (R100, R124, R192) -/

/-- The instruction retires to a PC. -/
def done (s : State) (pc : Word) : State := retire s pc

/-- The instruction retires to the next word. -/
def doneNext (s : State) : State := done s (s.me.pc + 4)

/-- The cycle at whose end a push of the issuing slot takes effect: three after that of its instruction's issue, or, where the
instruction is completed by a reply that comes later, this one (R12, R13, R20, R190). -/
def pushCycle (s : State) : Nat := max s.myCore.cycle.toNat (s.me.last.toNat + 3)

/-- A thread's push: the element takes effect at the end of the cycle in which the instruction retires (R190). -/
def pushLater (s : State) (port : Nat) (e : Elem) : State :=
  s.modCore s.core fun r => { r with arriving := r.arriving ++ [⟨pushCycle s, s.slot, port, e⟩] }

/-- A result pushed to a port, or held until a place is free (R192). -/
def pushResult (port : Nat) (v : Word) (pc : Word) (s : State) : State :=
  let e : Elem := ⟨v, false, false⟩
  if freePlaces s s.core s.slot port = 0 then
    let s := s.modMe fun x => { x with push := some ⟨port, e, pc⟩ }
    let s := s.modCore s.core fun r => { r with pushers := r.pushers ++ [(port, s.slot)] }
    let s := endReservation s s.core s.slot
    leaveRotation s s.core s.slot (if port < 8 then .memoryWait else .engineWait) (.push port)
  else done (pushLater s port e) pc

/-- The destination written and the instruction retired to `pc`. `before` is the state before any effect, in which an
illegal value for frm or fmt traps (R31, R105, R106, R199). In a pair a push waits for the comparison, and the
instruction's other effects are not repeated (R444). -/
def writeTo (f : BitVec 6) (v : Word) (pc : Word) (before s : State) : State :=
  let n := f.toNat
  if n < 32 then done (s.modMe fun x => x.writeG n v) pc
  else if n < 48 then
    (if s.me.pair == .alone then pushResult (n - 32) v pc s
     else outward [v] (s.modMe fun x => { x with push := some ⟨n - 32, ⟨v, false, false⟩, pc⟩, matched := false }) id id)
  else if ctxRefuses (n - 48) v then trapHere before .illegalOperand
  else done (s.modMe fun x => x.ctxWrite (n - 48) v) pc

/-- The destination written, and the instruction retired to the next word. -/
def writeNext (f : BitVec 6) (v : Word) (before s : State) : State := writeTo f v (s.me.pc + 4) before s

/-- The pending push of a slot that issues: a place is reserved for it (R192), or, in a pair, its comparison has matched
and the leading thread pushes (R444). -/
def issuePush (p : PendingPush) (s : State) : State :=
  if s.me.pair == .trailing then done s p.pc
  else if s.myCore.pushers.any fun w => w.2 == s.slot then
    let s := s.modCore s.core fun r => { r with pushers := r.pushers.filter fun w => w.2 != s.slot }
    done (pushLater s p.port p.elem) p.pc
  else pushResult p.port p.elem.val p.pc s

/-! ## Pairs: results (R444) -/

/-- A read that only the leading thread makes; the trailing one takes its value (R444). -/
def boundaryRead (s : State) (own : State → State) (result : Word → State → State) : State :=
  if s.me.pair == .trailing then
    (match takeValue s with
     | .go v s => result v s
     | .stop s => s)
  else if valueQueueFull s then pollFor s .memoryWait .loadValueRoom
  else own s

/-- The trailing thread takes the result of a matched request into `rd` and retires. -/
def takeResult (rd : BitVec 6) (s : State) : State :=
  match takeValue s with
  | .go v s => writeNext rd v s s
  | .stop s => s

/-- A value that crosses the pair's boundary is written to `rd` and handed on (R444). -/
def writeBoundary (rd : BitVec 6) (v : Word) (poison : Bool) (before s : State) : State :=
  let s := consumeIf s s.core s.slot poison
  writeNext rd v before (handOn s ⟨v, poison, false⟩)

end Sys2Proof.Machine
end

