-- ==== Sys2Proof/Machine/Flags.lean ====
section
/-!
DEFINITION. Conditions and flags: the integer conditions of cmp, cmpi and the branches (R137, R138, R140), the
floating-point conditions of vcmp with the flags they raise (R181), and the OR of flags into fflags (R32).
-/

namespace Sys2Proof.Machine

/-- Cond of R137 by the code of cmp: eq, ne, lt, ge, ltu, geu. -/
def condHolds (cc : Nat) (a b : Word) : Bool :=
  match cc with
  | 0 => a == b
  | 1 => a != b
  | 2 => a.slt b
  | 3 => !a.slt b
  | 4 => a.ult b
  | _ => !a.ult b

/-- cmpi codes .ltu as 3 (R138). -/
def cmpiCond (cc : BitVec 2) (a b : Word) : Bool := condHolds (if cc = 3#2 then 4 else cc.toNat) a b

/-- pl.op (R139) and vm.op (R182): and, or, xor, andn. -/
def logicOp (op : Nat) (a b : Bool) : Bool :=
  match op with
  | 0 => a && b
  | 1 => a || b
  | 2 => a != b
  | _ => a && !b

/-- An ordered condition of vcmp: eq, ne, lt, le, gt, ge. -/
def orderHolds (cc : Nat) (o : Ordering) : Bool :=
  match cc with
  | 0 => o == .eq
  | 1 => o != .eq
  | 2 => o == .lt
  | 3 => o != .gt
  | 4 => o == .gt
  | _ => o != .lt

/-- vcmp on floating-point codes (R181): with a NaN only .ne holds; .eq and .ne raise nv for a signalling NaN alone. -/
def fpCond (f : Fmt) (cc a b : Nat) : Bool × BitVec 7 :=
  let x := decodeFp f a
  let y := decodeFp f b
  if x.isNan || y.isNan then (cc == 1, flagIf (decide (2 ≤ cc) || x.sNan || y.sNan) flagNv)
  else (orderHolds cc (fpCmp f a b), 0)

/-- Flags ORed into the fflags of the issuing slot (R32). -/
def raiseFlags (s : State) (f : BitVec 7) : State := s.modMe fun x => x.raise f

end Sys2Proof.Machine
end

