-- ==== Sys2Proof/Machine/Scalar.lean ====
section
/-!
DEFINITION. The integer instructions, compares, predicate logic, branches and jumps (R129–R144). Each meaning is one
application of a shared shape to the function its entry gives.
-/

namespace Sys2Proof.Machine

abbrev Result := Host.Outcome State Fault Refusal

/-! ## Shapes -/

/-- rd := f(a, b) from two sources (R129). -/
def rrOp (i : Instr) (rd ra rb : BitVec 6) (f : Word → Word → Word) (s : State) : Result :=
  .next (issue i s fun s0 => read2 ra rb s0 fun a b s => writeNext rd (f a b) s0 s)

/-- rd := f(a) from one source (R131, R132, R134, R135). -/
def rOp (i : Instr) (rd ra : BitVec 6) (f : Word → Word) (s : State) : Result :=
  .next (issue i s fun s0 => read1 ra s0 fun a s => writeNext rd (f a) s0 s)

/-- A predicate written and the instruction retired. -/
def writePredNext (p : Nat) (b : Bool) (s : State) : State := doneNext (s.modMe fun x => x.writePred p b)

/-- The target of a CB branch (R98). -/
def cbTarget (pc : Word) (off : BitVec 12) : Word := pc + 4 * signExt off
/-- The target of a JP jump (R98). -/
def jpTarget (pc : Word) (off : BitVec 18) : Word := pc + 4 * signExt off

/-- A compare-branch (R140). -/
def branchOp (i : Instr) (cc : Nat) (ra rb : BitVec 6) (off : BitVec 12) (s : State) : Result :=
  .next (issue i s fun s0 => read2 ra rb s0 fun a b s =>
    if condHolds cc a b then done s (cbTarget s.me.pc off) else doneNext s)

/-! ## The functions of R129–R132 -/

/-- Division by R130: all ones by zero; the most negative number by −1 wraps. -/
def divS (a b : Word) : Word := if b = 0 then BitVec.allOnes 64 else BitVec.ofInt 64 (a.toInt.tdiv b.toInt)
def divU (a b : Word) : Word := if b = 0 then BitVec.allOnes 64 else BitVec.ofNat 64 (a.toNat / b.toNat)
def mulHigh (a b : Word) : Word := BitVec.ofInt 64 ((a.toInt * b.toInt) / 2 ^ 64)
def mulHighU (a b : Word) : Word := BitVec.ofNat 64 (a.toNat * b.toNat / 2 ^ 64)
/-- The count of a shift or rotate: bits 5:0 of b. -/
def shiftCount (b : Word) : Nat := b.toNat % 64

/-- The zero bits above the highest set bit; 64 for 0 (R131). -/
def countLeading (a : Word) : Word := BitVec.ofNat 64 (if a = 0 then 64 else 63 - Nat.log2 a.toNat)
/-- The zero bits below the lowest set bit; 64 for 0 (R131). -/
def countTrailing (a : Word) : Word := BitVec.ofNat 64 ((firstBelow 64 fun k => bitAt a k).getD 64)
/-- The set bits of the low `n` bits. -/
def onesBelow (a : Word) (n : Nat) : Nat := ((List.range n).filter fun k => bitAt a k).length
def countOnes (a : Word) : Word := BitVec.ofNat 64 (onesBelow a 64)

/-- The bytes that a width code of sext and zext names (R132). -/
def extBytes (w : BitVec 2) : Nat := 2 ^ w.toNat

def execAdd (rd ra rb : BitVec 6) (s : State) : Result := rrOp (.add rd ra rb) rd ra rb (fun a b => a + b) s
def execSub (rd ra rb : BitVec 6) (s : State) : Result := rrOp (.sub rd ra rb) rd ra rb (fun a b => a - b) s
def execMul (rd ra rb : BitVec 6) (s : State) : Result := rrOp (.mul rd ra rb) rd ra rb (fun a b => a * b) s
def execMulh (rd ra rb : BitVec 6) (s : State) : Result := rrOp (.mulh rd ra rb) rd ra rb mulHigh s
def execMulhu (rd ra rb : BitVec 6) (s : State) : Result := rrOp (.mulhu rd ra rb) rd ra rb mulHighU s
def execDiv (rd ra rb : BitVec 6) (s : State) : Result := rrOp (.div rd ra rb) rd ra rb divS s
def execDivu (rd ra rb : BitVec 6) (s : State) : Result := rrOp (.divu rd ra rb) rd ra rb divU s
def execRem (rd ra rb : BitVec 6) (s : State) : Result := rrOp (.rem rd ra rb) rd ra rb (fun a b => a - b * divS a b) s
def execRemu (rd ra rb : BitVec 6) (s : State) : Result := rrOp (.remu rd ra rb) rd ra rb (fun a b => a - b * divU a b) s
def execAnd (rd ra rb : BitVec 6) (s : State) : Result := rrOp (.and rd ra rb) rd ra rb (fun a b => a &&& b) s
def execOr (rd ra rb : BitVec 6) (s : State) : Result := rrOp (.or rd ra rb) rd ra rb (fun a b => a ||| b) s
def execXor (rd ra rb : BitVec 6) (s : State) : Result := rrOp (.xor rd ra rb) rd ra rb (fun a b => a ^^^ b) s
def execAndn (rd ra rb : BitVec 6) (s : State) : Result := rrOp (.andn rd ra rb) rd ra rb (fun a b => a &&& ~~~b) s
def execSll (rd ra rb : BitVec 6) (s : State) : Result := rrOp (.sll rd ra rb) rd ra rb (fun a b => a <<< shiftCount b) s
def execSrl (rd ra rb : BitVec 6) (s : State) : Result := rrOp (.srl rd ra rb) rd ra rb (fun a b => a >>> shiftCount b) s
def execSra (rd ra rb : BitVec 6) (s : State) : Result :=
  rrOp (.sra rd ra rb) rd ra rb (fun a b => a.sshiftRight (shiftCount b)) s
def execMin (rd ra rb : BitVec 6) (s : State) : Result := rrOp (.min rd ra rb) rd ra rb (fun a b => if a.sle b then a else b) s
def execMax (rd ra rb : BitVec 6) (s : State) : Result := rrOp (.max rd ra rb) rd ra rb (fun a b => if b.sle a then a else b) s
def execMinu (rd ra rb : BitVec 6) (s : State) : Result := rrOp (.minu rd ra rb) rd ra rb (fun a b => if a.ule b then a else b) s
def execMaxu (rd ra rb : BitVec 6) (s : State) : Result := rrOp (.maxu rd ra rb) rd ra rb (fun a b => if b.ule a then a else b) s
def execClz (rd ra : BitVec 6) (s : State) : Result := rOp (.clz rd ra) rd ra countLeading s
def execCtz (rd ra : BitVec 6) (s : State) : Result := rOp (.ctz rd ra) rd ra countTrailing s
def execPopc (rd ra : BitVec 6) (s : State) : Result := rOp (.popc rd ra) rd ra countOnes s
def execSext (rd ra : BitVec 6) (w : BitVec 2) (s : State) : Result := rOp (.sext rd ra w) rd ra (extendN true (extBytes w)) s
def execZext (rd ra : BitVec 6) (w : BitVec 2) (s : State) : Result := rOp (.zext rd ra w) rd ra (extendN false (extBytes w)) s
def execRotl (rd ra rb : BitVec 6) (s : State) : Result :=
  rrOp (.rotl rd ra rb) rd ra rb (fun a b => a.rotateLeft (shiftCount b)) s
def execRotr (rd ra rb : BitVec 6) (s : State) : Result :=
  rrOp (.rotr rd ra rb) rd ra rb (fun a b => a.rotateRight (shiftCount b)) s

/-- sel (R133): both sources are read whatever the predicate holds. -/
def execSel (rd ra rb : BitVec 6) (k : BitVec 4) (s : State) : Result :=
  .next (issue (.sel rd ra rb k) s fun s0 => read2 ra rb s0 fun a b s =>
    writeNext rd (if s0.me.predicate k.toNat then a else b) s0 s)

/-- cmp (R137). -/
def execCmp (pd : BitVec 4) (ra rb : BitVec 6) (c : BitVec 3) (s : State) : Result :=
  .next (issue (.cmp pd ra rb c) s fun s0 => read2 ra rb s0 fun a b s => writePredNext pd.toNat (condHolds c.toNat a b) s)

/-- pl (R139). -/
def execPl (pd pa pb : BitVec 4) (o : BitVec 2) (s : State) : Result :=
  .next (issue (.pl pd pa pb o) s fun s0 =>
    writePredNext pd.toNat (logicOp o.toNat (s0.me.predicate pa.toNat) (s0.me.predicate pb.toNat)) s0)

/-- jalr (R143): a misaligned target faults with nothing written. -/
def execJalr (rd ra : BitVec 6) (s : State) : Result :=
  .next (issue (.jalr rd ra) s fun s0 =>
    let t := gval s0 ra
    if bitsOf t 1 0 != 0 then trapHere s0 .misaligned t
    else writeTo rd (s0.me.pc + 4) t s0 s0)

def execAddi (rd ra : BitVec 6) (imm : BitVec 12) (s : State) : Result := rOp (.addi rd ra imm) rd ra (fun a => a + signExt imm) s
def execAndi (rd ra : BitVec 6) (imm : BitVec 12) (s : State) : Result := rOp (.andi rd ra imm) rd ra (fun a => a &&& signExt imm) s
def execOri (rd ra : BitVec 6) (imm : BitVec 12) (s : State) : Result := rOp (.ori rd ra imm) rd ra (fun a => a ||| signExt imm) s
def execXori (rd ra : BitVec 6) (imm : BitVec 12) (s : State) : Result := rOp (.xori rd ra imm) rd ra (fun a => a ^^^ signExt imm) s
def execSlli (rd ra : BitVec 6) (c : BitVec 6) (s : State) : Result := rOp (.slli rd ra c) rd ra (fun a => a <<< c.toNat) s
def execSrli (rd ra : BitVec 6) (c : BitVec 6) (s : State) : Result := rOp (.srli rd ra c) rd ra (fun a => a >>> c.toNat) s
def execSrai (rd ra : BitVec 6) (c : BitVec 6) (s : State) : Result := rOp (.srai rd ra c) rd ra (fun a => a.sshiftRight c.toNat) s

/-- cmpi (R138). -/
def execCmpi (c : BitVec 2) (pd : BitVec 4) (ra : BitVec 6) (imm : BitVec 12) (s : State) : Result :=
  .next (issue (.cmpi c pd ra imm) s fun s0 => read1 ra s0 fun a s => writePredNext pd.toNat (cmpiCond c a (signExt imm)) s)

def execBeq (ra rb : BitVec 6) (o : BitVec 12) (s : State) : Result := branchOp (.beq ra rb o) 0 ra rb o s
def execBne (ra rb : BitVec 6) (o : BitVec 12) (s : State) : Result := branchOp (.bne ra rb o) 1 ra rb o s
def execBlt (ra rb : BitVec 6) (o : BitVec 12) (s : State) : Result := branchOp (.blt ra rb o) 2 ra rb o s
def execBge (ra rb : BitVec 6) (o : BitVec 12) (s : State) : Result := branchOp (.bge ra rb o) 3 ra rb o s
def execBltu (ra rb : BitVec 6) (o : BitVec 12) (s : State) : Result := branchOp (.bltu ra rb o) 4 ra rb o s
def execBgeu (ra rb : BitVec 6) (o : BitVec 12) (s : State) : Result := branchOp (.bgeu ra rb o) 5 ra rb o s

/-- bt branches when p[K] = 1 (R141). -/
def execBt (k : BitVec 4) (o : BitVec 12) (s : State) : Result :=
  .next (issue (.bt k o) s fun s0 => if s0.me.predicate k.toNat then done s0 (cbTarget s0.me.pc o) else doneNext s0)
/-- bf branches when p[K] = 0 (R141). -/
def execBf (k : BitVec 4) (o : BitVec 12) (s : State) : Result :=
  .next (issue (.bf k o) s fun s0 => if s0.me.predicate k.toNat then doneNext s0 else done s0 (cbTarget s0.me.pc o))
/-- jmp (R142). -/
def execJmp (o : BitVec 18) (s : State) : Result := .next (issue (.jmp o) s fun s0 => done s0 (jpTarget s0.me.pc o))
/-- jal (R142). -/
def execJal (rd : BitVec 6) (o : BitVec 18) (s : State) : Result :=
  .next (issue (.jal rd o) s fun s0 => writeTo rd (s0.me.pc + 4) (jpTarget s0.me.pc o) s0 s0)
/-- lui (R136). -/
def execLui (rd : BitVec 6) (imm : BitVec 18) (s : State) : Result :=
  .next (issue (.lui rd imm) s fun s0 => writeNext rd (signExt imm <<< 12) s0 s0)
/-- lpc (R136): PC is the address of the lpc. -/
def execLpc (rd : BitVec 6) (imm : BitVec 18) (s : State) : Result :=
  .next (issue (.lpc rd imm) s fun s0 => writeNext rd (s0.me.pc + (signExt imm <<< 12)) s0 s0)

end Sys2Proof.Machine
end

