-- ==== Sys2Proof/Machine/LoadStore.lean ====
section
/-!
DEFINITION. Loads, stores, reservations and atomics (R145–R166): the checks and the route of an access, what is
performed at once in the core, and what leaves as a request for a home, another core's bank or a peer module.
-/

namespace Sys2Proof.Machine

/-! ## Routes -/

def AccessKind.reads : AccessKind → Bool
  | .store | .sres => false
  | _ => true

def AccessKind.writes : AccessKind → Bool
  | .load _ | .wrs => false
  | _ => true

/-- The kinds that DIRECT and COMBINE pages refuse (R279). -/
def AccessKind.ordered : AccessKind → Bool
  | .load _ | .store => false
  | _ => true

/-- The kinds that a peer aperture refuses (R407). -/
def AccessKind.reserves : AccessKind → Bool
  | .lres | .sres | .wrs => true
  | _ => false

/-- Where an access goes: it traps, is performed at once in a scratchpad or landing buffer, leaves as a request, or
waits for a translation. -/
inductive Route where
  | trap (c : Cause)
  | pad (off : Nat)
  | land (buf off : Nat)
  | away (t : Target)
  | miss (va : Nat)
  deriving DecidableEq, Repr

/-- The route of a global access: translation at the port, the aperture that claims it, its page's policy (R274,
R279, R407). -/
def globalRoute (s : State) (c k va : Nat) (kind : AccessKind) : Route :=
  match translateSlot s c k va kind.reads kind.writes false with
  | .badRange => .trap .addressRange
  | .miss => .miss va
  | .hit pa pol =>
    if kind.ordered && (pol == .direct || pol == .combine) then .trap .policy
    else match apertureOf s pa with
      | some (rank, there) => if kind.reserves then .trap .policy else .away (.peer rank there)
      | none => .away (.home pa pol)

/-- The route of a remote access: the core that the address names, through the fold table (R265, R395). -/
def remoteRoute (s : State) (c k p n : Nat) (kind : AccessKind) : Route :=
  let (core, rebase) := routeCore s c k (remoteCore p)
  if kind.reserves then .trap .space
  else if 2 ^ 21 < remoteOff p + rebase + n then .trap .segment
  else .away (.bank core (remoteOff p + rebase))

/-- The route of an access of slot `k` of core `c` after its checks (R108, R265, R267). -/
def route (s : State) (c k : Nat) (a : Word) (n : Nat) (kind : AccessKind) : Route :=
  match slotCheck s c k a n kind.reads kind.writes false with
  | .bad cause => .trap cause
  | .ok .global p => globalRoute s c k p kind
  | .ok .localPad p => if padHome c (s.slotOf c k) = c then .pad p else .away (.bank (padHome c (s.slotOf c k)) p)
  | .ok .remote p => remoteRoute s c k p n kind
  | .ok .landing p =>
    if kind.ordered && kind != .wrs then .trap .space
    else match (s.slotOf c k).capsule with
      | some b => .land b p
      | none => .trap .space

/-! ## Order suffixes (R163) -/

/-- A COMBINE store of the thread stands in the combining buffer of its cluster's port (R150, R168). -/
def combinePending (s : State) (c k : Nat) : Bool :=
  (s.clusterAt (clusterOf c)).combine.any fun e => e.owners.contains (c, k)

/-- A DIRECT store of the thread is accepted and not yet in the array (R170). -/
def directPending (s : State) (c k : Nat) : Bool := s.bursts.any fun b => b.owners.contains (c, k)

/-- A fence with module scope would complete at once. -/
def releaseHolds (s : State) (c k : Nat) : Bool := !combinePending s c k

/-! ## Performing an access in a scratchpad (R149, R154–R164) -/

/-- The doubleword granule of an address. -/
def granuleOf (a : Nat) : Nat := a / 8 * 8

/-- What an access performed in the scratchpad of core `p` on behalf of slot `k` of core `c` comes to: the value it
brings and whether it was poisoned, or `none` where it now watches (R164). -/
def padAccess (s : State) (c k p off n : Nat) (kind : AccessKind) (data expected : Word) (guard : Nat := 0) :
    Option (Word × Bool) × State :=
  let (old, poison) := s.load (padAddr p off) n
  match kind with
  | .load signed => (some (extendN signed n (BitVec.ofNat 64 old), poison), s)
  | .store => (some (0, false), padStore s p off n data.toNat)
  | .lres =>
    let s := endReservation s c k
    (some (BitVec.ofNat 64 old, poison), s.modSlot c k fun x => { x with reservation := .localPad (granuleOf off) })
  | .sres =>
    let held := (s.slotOf c k).reservation == .localPad (granuleOf off)
    let s := endReservation s c k
    if held then (some (0, false), padStore s p off n data.toNat) else (some (1, false), s)
  | .wrs =>
    let s := endReservation s c k
    if BitVec.ofNat 64 old != expected then (some (BitVec.ofNat 64 old, poison), s)
    else (none, { s with watches := s.watches ++ [⟨c, k, false, p, granuleOf off, (s.slotOf c k).last⟩] })
  | kind =>
    let s := if padHome c (s.slotOf c k) = p && (s.slotOf c k).reservation == .localPad (granuleOf off) then
      endReservation s c k else s
    match atomicResult kind n old data expected guard with
    | some v => (some (BitVec.ofNat 64 old, poison), padRmwStore s p off n v poison)
    | none => (some (BitVec.ofNat 64 old, poison), s)

/-! ## Completing an access -/

/-- The value of an access written to its register, if it has one, and the instruction retired (R151). -/
def settle (rd : Option (BitVec 6)) (v : Word) (poison : Bool) (s0 s : State) : State :=
  match rd with
  | some r => writeBoundary r v poison s0 s
  | none => doneNext (consumeIf s s.core s.slot poison)

/-- The issuing slot waits for a reply. -/
def awaitReply (s : State) (rd : Option (BitVec 6)) (acq : Bool) : State :=
  leaveRotation s s.core s.slot .memoryWait (.reply rd acq)

/-- An access performed at once completes, or, with .acq, waits as a module fence does (R163). -/
def settleAcq (rd : Option (BitVec 6)) (acq : Bool) (v : Word) (poison : Bool) (s0 s : State) : State :=
  if acq && !releaseHolds s s.core s.slot then postReply (awaitReply s rd true) s.core s.slot v poison
  else settle rd v poison s0 s

/-- An access of the issuing slot: what it does, with which data, and where its value goes. -/
structure Access where
  addr : Word
  n : Nat
  kind : AccessKind
  data : Word := 0
  expected : Word := 0
  rd : Option (BitVec 6) := none
  rel : Bool := false
  acq : Bool := false
  deriving DecidableEq, Repr

/-- The context register that an access's value goes to, by its number, or 0. -/
def Access.guard (x : Access) : Nat := (x.rd.map fun f => f.toNat - 48).getD 0

/-! ## Peers (R407, R410, R411) -/

/-- The port on which a flit for a rank leaves: the lowest of the rank's route set that is up. -/
def peerPort (s : State) (ctag : BitVec 4) (rank : Nat) : Option Nat :=
  firstBelow 32 fun p => bitAt ((s.memberOf ctag).routes.get 0 rank) p && (s.portOf p).up

/-- A rank that the context's membership holds, as it holds this module's own (R410, R450), and that a port leads toward. -/
def peerReachable (s : State) (ctag : BitVec 4) (rank : Nat) : Bool :=
  let m := s.memberOf ctag
  m.valid && decide (rank < m.n.toNat) && !m.removed.contains rank && !m.removed.contains m.self.toNat
    && (peerPort s ctag rank).isSome

/-- A flit leaves on a port: it takes the next sequence number, returns the credits owed, and joins the last 512 flits held for
replay (R404, R405). -/
def sendFlit (s : State) (p : Nat) (f : Flit) : State :=
  let port := s.portOf p
  let f := { f with seq := port.tx + 1, ack := port.rx, credit := BitVec.ofNat 16 port.owed }
  let port := { port with owed := 0 }
  let port := if port.replay.isEmpty then { port with lastAck := s.clock } else port
  { s with ports := s.ports.set p { port with tx := port.tx + 1, replay := (port.replay ++ [f]).drop (port.replay.length - 511) } }

/-- A flit from this module to a rank of a context's membership, with hops 0 (R411). -/
def sendToRank (s : State) (ctag : BitVec 4) (rank : Nat) (type : BitVec 8) (poison : Bool) (body : FlitBody) : State :=
  let m := s.memberOf ctag
  match peerPort s ctag rank with
  | some p => sendFlit s p { type := type, poison := poison, seq := 0, ack := 0, credit := 0, mid := m.mid
                             dest := BitVec.ofNat 16 rank, source := m.self, hops := 0, crcGood := true, body := body }
  | none => s

/-- A crossing is on its way, as a request or as an image. -/
def Crossing.out (q : Crossing) : Bool := q.stage == .asked || q.stage == .sent

/-- No request to a rank of a context is unanswered: no access, and no crossing. -/
def peerDrained (s : State) (ctag : BitVec 4) (rank : Nat) : Bool :=
  !(s.peerReqs.any fun q => q.ctag == ctag && q.rank == rank)
    && !(s.crossings.any fun q => q.ctag == ctag && q.rank == rank && q.out)

/-- A request to a rank waits for the earlier ones, after a port went down or a route set changed on its way (R411). -/
def peerHeld (s : State) (ctag : BitVec 4) (rank : Nat) : Bool :=
  s.heldRanks.contains (ctag, rank) && !peerDrained s ctag rank

/-- From now on, new requests to the ranks that a test picks wait for those that are out (R411). -/
def holdRanks (s : State) (p : BitVec 4 → Nat → Bool) : State :=
  let out := (s.peerReqs.map fun q => (q.ctag, q.rank)) ++ (s.crossings.filter Crossing.out).map fun q => (q.ctag, q.rank)
  { s with heldRanks := (s.heldRanks ++ out.filter fun r => p r.1 r.2).eraseDups }

/-- A request to a peer has ended: a rank that has no other is held no longer. -/
def releaseRanks (s : State) : State := { s with heldRanks := s.heldRanks.filter fun r => !peerDrained s r.1 r.2 }

/-- What a request asks of the peer. -/
def peerOp (f : Flight) : PeerOp :=
  match f.kind with
  | .store => .write f.n f.data
  | .amo op => .amo op f.data
  | .cas => .cas f.n f.expected f.data
  | _ => .read f.n

/-- The cycles of a requester: its core's; the device's own requests count in the arithmetic clock (log entry 6). -/
def cyclesOf (s : State) (c : Nat) : Word := if c < 1280 then (s.coreOf c).cycle else BitVec.ofNat 64 s.clock

/-- A request to a peer is noted until its response comes. -/
def notePeer (s : State) (ctag : BitVec 4) (rank : Nat) (f : Flight) : State :=
  let q : PeerReq :=
    { ident := f.ident, ctag := ctag, rank := rank, port := (peerPort s ctag rank).getD 0, flight := f
      since := cyclesOf s f.core }
  { s with peerReqs := s.peerReqs ++ [q] }

/-! ## Rovers (R280, R281, R303) -/

/-- A rover's access under HOMED or STREAM goes to another core, and the predictor says to follow it. -/
def wantsMigration (s : State) (x : Slot) (t : Target) : Option Nat :=
  match t with
  | .home pa pol =>
    let h := homeCore s pa
    if x.origin.isSome && (pol == .homed || pol == .stream) && h != s.core && !x.stay && x.reservation == .free
        && decide (2 ≤ (s.myCore.predictor.get {} (predictIndex x.pc)).c) then some h else none
  | _ => none

/-- A rover asks its access's home for a landing buffer. -/
def requestMigration (s : State) (h : Nat) : State :=
  let r : LandReq := { core := s.core, buf := 0, dest := h, rover := some s.slot, admitted := false, since := s.myCore.cycle }
  leaveRotation { s with landReqs := s.landReqs ++ [r] } s.core s.slot .memoryWait .landing

/-! ## The access of an instruction -/

/-- An access leaves as a request (R274, R270, R407), or a rover moves to its home first. A peer that cannot be reached
answers poisoned zero (R285). -/
def sendAway (x : Access) (t : Target) (s : State) : State :=
  match wantsMigration s s.me t, t with
  | some h, _ => if releaseHolds s s.core s.slot then requestMigration s h else pollFor s .memoryWait .release
  | none, .peer rank pa =>
    if peerHeld s s.me.ctag rank then pollFor s .memoryWait (.peerDrained rank)
    else
      let (ident, s) := s.fresh
      let f : Flight := { core := s.core, slot := s.slot, kind := x.kind, target := t, n := x.n, data := x.data
                          expected := x.expected, ident := ident, ctag := s.me.ctag, guard := x.guard, lid := s.me.lid }
      let s := awaitReply s x.rd x.acq
      if peerReachable s s.me.ctag rank then
        sendToRank (notePeer s s.me.ctag rank f) s.me.ctag rank 1 false (.request ident (BitVec.ofNat 52 pa) (peerOp f))
      else postReply s s.core s.slot 0 true
  | none, _ =>
    let s := if x.kind == .lres || x.kind == .wrs then endReservation s s.core s.slot else s
    let (ident, s) := s.fresh
    let f : Flight := { core := s.core, slot := s.slot, kind := x.kind, target := t, n := x.n, data := x.data
                        expected := x.expected, ident := ident, ctag := s.me.ctag, guard := x.guard, lid := s.me.lid }
    { awaitReply s x.rd x.acq with flights := s.flights ++ [f] }

/-- A missing translation: the request waits at the port; once the translation is there an access goes on, and the slot of a
fetch issues (R20, R152, R383). -/
def awaitTranslation (s : State) (va : Nat) (r w x : Bool) : State :=
  let q : XlateReq := { core := s.core, slot := s.slot, ctag := s.me.ctag, va := va, read := r, write := w, exec := x }
  leaveRotation (s.modCluster (clusterOf s.core) fun p => { p with waiting := p.waiting ++ [q] }) s.core s.slot
    .memoryWait (.translation va x)

/-- An access performed on its route. `s0` is the state before any effect. -/
def performRoute (x : Access) (s0 : State) (r : Route) (s : State) : State :=
  if x.rel && !releaseHolds s s.core s.slot then pollFor s .memoryWait .release
  else match r with
  | .trap c => trapHere s c x.addr
  | .miss va => awaitTranslation s va x.kind.reads x.kind.writes false
  | .away t => sendAway x t s
  | .pad off =>
    match padAccess (bankTurnAt s s.core off x.n) s.core s.slot s.core off x.n x.kind x.data x.expected x.guard with
    | (some (v, p), s) => settleAcq x.rd x.acq v p s0 s
    | (none, s) => awaitReply s x.rd false
  | .land b off =>
    match x.kind with
    | .store => settle x.rd 0 false s0 (setBufN s s.core b off x.n x.data.toNat)
    | kind =>
      let s := if kind == .wrs then endReservation s s.core s.slot else s
      let (v, p) := s.load (bufAddr s.core b off) x.n
      settle x.rd (extendN (kind == .load true) x.n (BitVec.ofNat 64 v)) p s0 s

/-- The access of an instruction (R145–R166): the checks, which in a pair both threads make, and then the access,
which in a pair the leading thread makes once (R444, R446). -/
def access (x : Access) (s0 s : State) : State :=
  match route s s.core s.slot x.addr x.n x.kind with
  | .trap c => trapHere s c x.addr
  | r =>
    if x.kind.writes then
      outwardAccess [x.addr, x.data, x.expected] s (performRoute x s0 r) fun s =>
        match x.rd with
        | some rd => takeResult rd s
        | none => doneNext s
    else boundaryRead s (performRoute x s0 r) fun v s => settle x.rd v false s s

/-- The effective address of a load or store (R145). -/
def effective (s : State) (ra : BitVec 6) (imm : BitVec 12) : Word := gval s ra + signExt imm

/-- A load of `n` bytes (R146). -/
def loadOp (i : Instr) (n : Nat) (signed : Bool) (rd ra : BitVec 6) (imm : BitVec 12) (s : State) : Result :=
  .next (issue i s fun s0 =>
    access { addr := effective s0 ra imm, n := n, kind := .load signed, rd := some rd } s0 s0)

/-- A store of the low `n` bytes of rb (R147). -/
def storeOp (i : Instr) (n : Nat) (ra rb : BitVec 6) (imm : BitVec 12) (s : State) : Result :=
  .next (issue i s fun s0 => read1 rb s0 fun v s =>
    access { addr := effective s0 ra imm, n := n, kind := .store, data := v } s0 s)

def execLdB (rd ra : BitVec 6) (imm : BitVec 12) (s : State) : Result := loadOp (.ldB rd ra imm) 1 true rd ra imm s
def execLdBu (rd ra : BitVec 6) (imm : BitVec 12) (s : State) : Result := loadOp (.ldBu rd ra imm) 1 false rd ra imm s
def execLdH (rd ra : BitVec 6) (imm : BitVec 12) (s : State) : Result := loadOp (.ldH rd ra imm) 2 true rd ra imm s
def execLdHu (rd ra : BitVec 6) (imm : BitVec 12) (s : State) : Result := loadOp (.ldHu rd ra imm) 2 false rd ra imm s
def execLdW (rd ra : BitVec 6) (imm : BitVec 12) (s : State) : Result := loadOp (.ldW rd ra imm) 4 true rd ra imm s
def execLdWu (rd ra : BitVec 6) (imm : BitVec 12) (s : State) : Result := loadOp (.ldWu rd ra imm) 4 false rd ra imm s
def execLdD (rd ra : BitVec 6) (imm : BitVec 12) (s : State) : Result := loadOp (.ldD rd ra imm) 8 false rd ra imm s
def execStB (ra rb : BitVec 6) (imm : BitVec 12) (s : State) : Result := storeOp (.stB ra rb imm) 1 ra rb imm s
def execStH (ra rb : BitVec 6) (imm : BitVec 12) (s : State) : Result := storeOp (.stH ra rb imm) 2 ra rb imm s
def execStW (ra rb : BitVec 6) (imm : BitVec 12) (s : State) : Result := storeOp (.stW ra rb imm) 4 ra rb imm s
def execStD (ra rb : BitVec 6) (imm : BitVec 12) (s : State) : Result := storeOp (.stD ra rb imm) 8 ra rb imm s

/-! ## Reservations and atomics -/

/-- The bytes that the width bit of lres, sres and cas gives (R154). -/
def atomBytes (w : BitVec 1) : Nat := if w = 1#1 then 4 else 8

/-- Bit 0 of an order suffix is .acq, bit 1 .rel (R103). -/
def hasAcq (o : BitVec 2) : Bool := bitAt o 0
def hasRel (o : BitVec 2) : Bool := bitAt o 1

def execLres (rd ra : BitVec 6) (w : BitVec 1) (o : BitVec 2) (s : State) : Result :=
  .next (issue (.lres rd ra w o) s fun s0 =>
    access { addr := gval s0 ra, n := atomBytes w, kind := .lres, rd := some rd, rel := hasRel o, acq := hasAcq o } s0 s0)

def execSres (rd ra rb : BitVec 6) (w : BitVec 1) (o : BitVec 2) (s : State) : Result :=
  .next (issue (.sres rd ra rb w o) s fun s0 => read1 rb s0 fun v s =>
    access { addr := gval s0 ra, n := atomBytes w, kind := .sres, data := v, rd := some rd, rel := hasRel o, acq := hasAcq o }
      s0 s)

def execAmo (rd ra rb : BitVec 6) (f : BitVec 4) (o : BitVec 2) (s : State) : Result :=
  .next (issue (.amo rd ra rb f o) s fun s0 => read1 rb s0 fun v s =>
    access { addr := gval s0 ra, n := 8, kind := .amo f, data := v, rd := some rd, rel := hasRel o, acq := hasAcq o } s0 s)

/-- cas reads rb and then rd, its expected value (R162). -/
def execCas (rd ra rb : BitVec 6) (w : BitVec 1) (o : BitVec 2) (s : State) : Result :=
  .next (issue (.cas rd ra rb w o) s fun s0 => read2 rb rd s0 fun v e s =>
    access
      { addr := gval s0 ra, n := atomBytes w, kind := .cas, data := v, expected := e, rd := some rd
        rel := hasRel o, acq := hasAcq o } s0 s)

def execWrs (rd ra rb : BitVec 6) (s : State) : Result :=
  .next (issue (.wrs rd ra rb) s fun s0 => read1 rb s0 fun b s =>
    if bitsOf (gval s0 ra) 2 0 != 0 && (match slotCheck s s.core s.slot (gval s0 ra) 8 true false false with
        | .bad _ => false
        | _ => true) then trapHere s .misaligned (gval s0 ra)
    else access { addr := gval s0 ra, n := 8, kind := .wrs, expected := b, rd := some rd } s0 s)

end Sys2Proof.Machine
end

