-- ==== Sys2Proof/Machine/Vector.lean ====
section
/-!
DEFINITION. The vector instructions (R171–R189) and the port instructions (R194, R195). Lane arithmetic is one fold
over the 64 lanes, with a stochastic draw for each active lane where the instruction rounds to a narrow format.
-/

namespace Sys2Proof.Machine

/-! ## Element types (R99, R171) -/

/-- An element type: a floating-point format or a signed integer of a width. -/
inductive VType where
  | fp (f : Fmt)
  | int (w : Nat)
  deriving DecidableEq, Repr

def vtype (ty : BitVec 3) : VType :=
  match ty.toNat with
  | 0 => .fp fp32
  | 1 => .fp fp16
  | 2 => .fp bf16
  | 3 => .int 32
  | 4 => .int 16
  | _ => .int 8

def VType.width : VType → Nat
  | .fp f => f.width
  | .int w => w

def VType.isInt : VType → Bool
  | .int _ => true
  | .fp _ => false

/-- A floating-point type narrower than FP32, whose results draw in SR mode (R56, R173). -/
def VType.narrow : VType → Bool
  | .fp f => f != fp32
  | .int _ => false

/-- The bytes of an element in memory (R186). -/
def elemBytes (ty : BitVec 3) : Nat := (vtype ty).width / 8

/-- The element bits of a lane or a scalar. -/
def elemCode {w : Nat} (t : VType) (x : BitVec w) : Nat := x.toNat % 2 ^ t.width

/-- A code with the upper bits that R171 gives. -/
def elemLane (t : VType) (code : Nat) : Lane :=
  match t with
  | .fp _ => BitVec.ofNat 32 code
  | .int w => BitVec.ofInt 32 (BitVec.ofNat w code).toInt

def codeInt (w code : Nat) : Int := (BitVec.ofNat w code).toInt
def intCode (w : Nat) (i : Int) : Nat := (BitVec.ofInt w i).toNat

/-! ## One pass over the lanes (R172–R174) -/

/-- What a pass over the lanes has come to: the codes of the active lanes, the flags, the generator. -/
structure Pass where
  out : List (Nat × Nat)
  flags : BitVec 7
  seed : BitVec 32

/-- One lane: in SR mode a narrow result draws, active lane by active lane. -/
def passLane (draws : Bool) (f : Nat → Nat → Nat × BitVec 7) (p : Pass) (i : Nat) : Pass :=
  let seed := if draws then lfsrStep p.seed else p.seed
  let (c, fl) := f i seed.toNat
  ⟨(i, c) :: p.out, p.flags ||| fl, seed⟩

def runPass (active : List Nat) (draws : Bool) (seed : BitVec 32) (f : Nat → Nat → Nat × BitVec 7) : Pass :=
  active.foldl (passLane draws f) ⟨[], 0, seed⟩

/-- The lanes of a mask, in increasing order. -/
def activeLanes (m : BitVec 64) : List Nat := (List.range 64).filter fun i => bitAt m i

/-- The register with the lanes that a list gives, the others kept. -/
def mergeLanes (t : VType) (old : Vec) (out : List (Nat × Nat)) : Vec :=
  ofLanes fun i =>
    match tableFind i out with
    | some c => elemLane t c
    | none => lane old i

/-- A vector destination written from a pass; its flags and draws take effect and the instruction retires. -/
def writePass (vd : BitVec 4) (t : VType) (p : Pass) (s : State) : State :=
  doneNext (s.modMe fun x =>
    { (x.writeV vd.toNat (mergeLanes t (x.readV vd.toNat) p.out)).raise p.flags with srseed := p.seed })

/-- A lane operation on codes: it has the rounding mode, the draw and the codes of a, b and d. -/
abbrev LaneOp := Mode → Nat → Nat → Nat → Nat → Nat × BitVec 7

/-- The mode that an instruction rounds in. -/
def Slot.mode (x : Slot) : Mode := modeOf x.frm

/-- An arithmetic instruction with its second operand given lane by lane (R176). -/
def arith (vd va : BitVec 4) (msk : BitVec 3) (t : VType) (draws : Bool) (op : LaneOp) (b : Nat → Nat) (s : State) :
    State :=
  let x := s.me
  let mode := x.mode
  let p := runPass (activeLanes (x.maskOf msk)) (draws && t.narrow && mode == .sr) x.srseed fun i rnd =>
    op mode rnd (elemCode t (lane (x.readV va.toNat) i)) (b i) (elemCode t (lane (x.readV vd.toNat) i))
  writePass vd t p s

/-- A binary instruction: vb, or the scalar of gs where gs is not 0 (R175). -/
def binary (i : Instr) (vd va vb : BitVec 4) (msk : BitVec 3) (gs : BitVec 6) (ty : BitVec 3) (draws : Bool)
    (op : VType → LaneOp) (s : State) : Result :=
  .next (issue i s fun s0 =>
    let t := vtype ty
    if gs = 0 then arith vd va msk t draws (op t) (fun i => elemCode t (lane (s0.me.readV vb.toNat) i)) s0
    else read1 gs s0 fun b s => arith vd va msk t draws (op t) (fun _ => elemCode t b) s)

/-- A unary instruction. -/
def unary (i : Instr) (vd va : BitVec 4) (msk : BitVec 3) (ty : BitVec 3) (draws : Bool) (op : VType → LaneOp)
    (s : State) : Result :=
  .next (issue i s fun s0 => arith vd va msk (vtype ty) draws (op (vtype ty)) (fun _ => 0) s0)

/-- An operation that rounds in floating point and is exact modulo the width in integers. -/
def roundOp (fp : Mode → Val → Val → Val → Val × BitVec 7) (int : Nat → Int → Int → Int → Int) (t : VType) : LaneOp :=
  fun mode rnd a b d =>
    match t with
    | .fp f =>
      let m := if f = fp32 then mode.noSr else mode
      rounded f m rnd (fp m (decodeFp f a) (decodeFp f b) (decodeFp f d))
    | .int w => (intCode w (int w (codeInt w a) (codeInt w b) (codeInt w d)), 0)

/-- An operation on raw codes of either kind. -/
def codeOp (fp : Fmt → Nat → Nat → Nat × BitVec 7) (int : Nat → Int → Int → Int) (t : VType) : LaneOp :=
  fun _ _ a b _ =>
    match t with
    | .fp f => fp f a b
    | .int w => (intCode w (int w (codeInt w a) (codeInt w b)), 0)

/-- An operation on the bits of integer elements. -/
def bitOp (op : Nat → Nat → Nat → Nat) (t : VType) : LaneOp := fun _ _ a b _ => (op t.width a b % 2 ^ t.width, 0)

def vdivInt (b : Int) (a : Int) : Int := if b = 0 then -1 else a.tdiv b
def negCode (f : Fmt) (a : Nat) : Nat := if a / f.signBit % 2 = 1 then a - f.signBit else a + f.signBit

def vaddOp : VType → LaneOp := roundOp (fun m a b _ => addVal m a b) fun _ a b _ => a + b
def vsubOp : VType → LaneOp := roundOp (fun m a b _ => subVal m a b) fun _ a b _ => a - b
def vmulOp : VType → LaneOp := roundOp (fun _ a b _ => mulVal a b) fun _ a b _ => a * b
def vdivOp : VType → LaneOp := roundOp (fun _ a b _ => divVal a b) fun _ a b _ => vdivInt b a
def vfmaOp : VType → LaneOp := roundOp (fun m a b d => fmaVal m a b d) fun _ a b d => a * b + d
def vfmsOp : VType → LaneOp := roundOp (fun m a b d => fmaVal m a.neg b d) fun _ a b d => d - a * b
def vminOp : VType → LaneOp := codeOp (fun f a b => pick f false a b) fun _ a b => min a b
def vmaxOp : VType → LaneOp := codeOp (fun f a b => pick f true a b) fun _ a b => max a b
def vabsOp : VType → LaneOp := codeOp (fun f a _ => (a % f.signBit, 0)) fun _ a _ => (a.natAbs : Int)
def vnegOp : VType → LaneOp := codeOp (fun f a _ => (negCode f a, 0)) fun _ a _ => -a
def vsqrtOp : VType → LaneOp := roundOp (fun _ a _ _ => sqrtVal a) fun _ a _ _ => a
def vexp2Op : VType → LaneOp := roundOp (fun _ a _ _ => exp2Val a) fun _ a _ _ => a

def execVadd (vd va vb : BitVec 4) (msk : BitVec 3) (gs : BitVec 6) (ty : BitVec 3) (s : State) : Result :=
  binary (.vadd vd va vb msk gs ty) vd va vb msk gs ty true vaddOp s
def execVsub (vd va vb : BitVec 4) (msk : BitVec 3) (gs : BitVec 6) (ty : BitVec 3) (s : State) : Result :=
  binary (.vsub vd va vb msk gs ty) vd va vb msk gs ty true vsubOp s
def execVmul (vd va vb : BitVec 4) (msk : BitVec 3) (gs : BitVec 6) (ty : BitVec 3) (s : State) : Result :=
  binary (.vmul vd va vb msk gs ty) vd va vb msk gs ty true vmulOp s
def execVdiv (vd va vb : BitVec 4) (msk : BitVec 3) (gs : BitVec 6) (ty : BitVec 3) (s : State) : Result :=
  binary (.vdiv vd va vb msk gs ty) vd va vb msk gs ty true vdivOp s
def execVfma (vd va vb : BitVec 4) (msk : BitVec 3) (gs : BitVec 6) (ty : BitVec 3) (s : State) : Result :=
  binary (.vfma vd va vb msk gs ty) vd va vb msk gs ty true vfmaOp s
def execVfms (vd va vb : BitVec 4) (msk : BitVec 3) (gs : BitVec 6) (ty : BitVec 3) (s : State) : Result :=
  binary (.vfms vd va vb msk gs ty) vd va vb msk gs ty true vfmsOp s
def execVmin (vd va vb : BitVec 4) (msk : BitVec 3) (gs : BitVec 6) (ty : BitVec 3) (s : State) : Result :=
  binary (.vmin vd va vb msk gs ty) vd va vb msk gs ty false vminOp s
def execVmax (vd va vb : BitVec 4) (msk : BitVec 3) (gs : BitVec 6) (ty : BitVec 3) (s : State) : Result :=
  binary (.vmax vd va vb msk gs ty) vd va vb msk gs ty false vmaxOp s
def execVabs (vd va : BitVec 4) (msk ty : BitVec 3) (s : State) : Result :=
  unary (.vabs vd va msk ty) vd va msk ty false vabsOp s
def execVneg (vd va : BitVec 4) (msk ty : BitVec 3) (s : State) : Result :=
  unary (.vneg vd va msk ty) vd va msk ty false vnegOp s
def execVsqrt (vd va : BitVec 4) (msk ty : BitVec 3) (s : State) : Result :=
  unary (.vsqrt vd va msk ty) vd va msk ty true vsqrtOp s
def execVexp2 (vd va : BitVec 4) (msk ty : BitVec 3) (s : State) : Result :=
  unary (.vexp2 vd va msk ty) vd va msk ty true vexp2Op s
def execVand (vd va vb : BitVec 4) (msk : BitVec 3) (gs : BitVec 6) (ty : BitVec 3) (s : State) : Result :=
  binary (.vand vd va vb msk gs ty) vd va vb msk gs ty false (bitOp fun _ a b => a &&& b) s
def execVor (vd va vb : BitVec 4) (msk : BitVec 3) (gs : BitVec 6) (ty : BitVec 3) (s : State) : Result :=
  binary (.vor vd va vb msk gs ty) vd va vb msk gs ty false (bitOp fun _ a b => a ||| b) s
def execVxor (vd va vb : BitVec 4) (msk : BitVec 3) (gs : BitVec 6) (ty : BitVec 3) (s : State) : Result :=
  binary (.vxor vd va vb msk gs ty) vd va vb msk gs ty false (bitOp fun _ a b => a ^^^ b) s
def execVshl (vd va vb : BitVec 4) (msk : BitVec 3) (gs : BitVec 6) (ty : BitVec 3) (s : State) : Result :=
  binary (.vshl vd va vb msk gs ty) vd va vb msk gs ty false (bitOp fun w a b => a <<< (b % w)) s
def execVshr (vd va vb : BitVec 4) (msk : BitVec 3) (gs : BitVec 6) (ty : BitVec 3) (s : State) : Result :=
  binary (.vshr vd va vb msk gs ty) vd va vb msk gs ty false (bitOp fun w a b => a >>> (b % w)) s
def execVsra (vd va vb : BitVec 4) (msk : BitVec 3) (gs : BitVec 6) (ty : BitVec 3) (s : State) : Result :=
  binary (.vsra vd va vb msk gs ty) vd va vb msk gs ty false
    (bitOp fun w a b => intCode w (codeInt w a >>> (b % w))) s

/-! ## Conversion (R53, R178) -/

/-- An integer at a narrower width: wrapped, or clamped where `sat` (R53). -/
def narrowInt (w : Nat) (sat : Bool) (i : Int) : Nat × BitVec 7 :=
  let hi : Int := 2 ^ (w - 1) - 1
  let lo : Int := -(2 ^ (w - 1))
  let c := max lo (min hi i)
  if sat then (intCode w c, flagIf (c != i) flagSat) else (intCode w i, 0)

/-- One element converted. With .sat every float destination narrower than FP32 saturates (DEDUCED for f16 and bf16
of one another, log entry 21). -/
def convert (dt st : VType) (sat : Bool) (mode : Mode) (rnd a : Nat) : Nat × BitVec 7 :=
  match dt, st with
  | .fp f, .fp g =>
    let x := decodeFp g a
    if f = g then (if x.sNan then (f.nanCode, flagNv) else (a, 0))
    else
      let (c, fl) := roundTo f (if f = fp32 then mode.noSr else mode) (sat && f != fp32) rnd x
      (c, fl ||| flagIf x.sNan flagNv)
  | .fp f, .int w => roundTo f (if f = fp32 then mode.noSr else mode) false rnd (ofIntVal (codeInt w a))
  | .int w, .fp g => toIntW w mode.noSr (decodeFp g a)
  | .int w, .int v => narrowInt w (sat && decide (w < v)) (codeInt v a)

def execVcvt (vd va : BitVec 4) (msk : BitVec 3) (sat : BitVec 1) (st ty : BitVec 3) (s : State) : Result :=
  .next (issue (.vcvt vd va msk sat st ty) s fun s0 =>
    let x := s0.me
    let dt := vtype ty
    let p := runPass (activeLanes (x.maskOf msk)) (dt.narrow && x.mode == .sr) x.srseed fun i rnd =>
      convert dt (vtype st) (sat == 1#1) x.mode rnd (elemCode (vtype st) (lane (x.readV va.toNat) i))
    writePass vd dt p s0)

/-! ## Masks and lane moves (R181–R184) -/

/-- vcmp's condition on two codes. -/
def laneCond (t : VType) (cc a b : Nat) : Bool × BitVec 7 :=
  match t with
  | .fp f => fpCond f cc a b
  | .int w => (orderHolds cc (compare (codeInt w a) (codeInt w b)), 0)

/-- A mask with the bits that a list gives. -/
def mergeMask (old : Word) (out : List (Nat × Nat)) : Word :=
  BitVec.ofNat 64 ((List.range 64).foldl (fun acc i =>
    acc + 2 ^ i * (match tableFind i out with
      | some c => c
      | none => if bitAt old i then 1 else 0)) 0)

def execVcmp (md : BitVec 2) (va vb : BitVec 4) (msk : BitVec 3) (cc ty : BitVec 3) (s : State) : Result :=
  .next (issue (.vcmp md va vb msk cc ty) s fun s0 =>
    let x := s0.me
    let t := vtype ty
    let p := runPass (activeLanes (x.maskOf msk)) false x.srseed fun i _ =>
      let (b, f) := laneCond t cc.toNat (elemCode t (lane (x.readV va.toNat) i)) (elemCode t (lane (x.readV vb.toNat) i))
      (if b then 1 else 0, f)
    doneNext (s0.modMe fun x =>
      ({ x with m := vset x.m md.toNat (mergeMask (vget x.m 0 md.toNat) p.out) } : Slot).raise p.flags))

def execVm (md ma mb op : BitVec 2) (s : State) : Result :=
  .next (issue (.vm md ma mb op) s fun s0 =>
    let a := vget s0.me.m 0 ma.toNat
    let b := vget s0.me.m 0 mb.toNat
    let r := match op.toNat with
      | 0 => a &&& b
      | 1 => a ||| b
      | 2 => a ^^^ b
      | _ => a &&& ~~~b
    doneNext (s0.modMe fun x => { x with m := vset x.m md.toNat r }))

/-- A vector destination whose active lanes a function gives as whole lanes, and the instruction retired. -/
def moveLanes (vd : BitVec 4) (msk : BitVec 3) (f : Slot → Nat → Lane) (s : State) : State :=
  doneNext (s.modMe fun x =>
    x.writeV vd.toNat (ofLanes fun i => if bitAt (x.maskOf msk) i then f x i else lane (x.readV vd.toNat) i))

def execVperm (vd va vb : BitVec 4) (msk ty : BitVec 3) (s : State) : Result :=
  .next (issue (.vperm vd va vb msk ty) s
    (moveLanes vd msk fun x i => lane (x.readV va.toNat) (bitsOf (lane (x.readV vb.toNat) i) 5 0)))

def execVbcast (vd : BitVec 4) (msk : BitVec 3) (gs : BitVec 6) (ty : BitVec 3) (s : State) : Result :=
  .next (issue (.vbcast vd msk gs ty) s fun s0 => read1 gs s0 fun v s =>
    moveLanes vd msk (fun _ _ => elemLane (vtype ty) (elemCode (vtype ty) v)) s)

/-- The lane that vslide takes lane `i` from, if it exists. -/
def slideFrom (t : Int) (i : Nat) : Option Nat :=
  let j := (i : Int) + t
  if 0 ≤ j ∧ j ≤ 63 then some j.toNat else none

def execVslide (vd va : BitVec 4) (msk : BitVec 3) (gs : BitVec 6) (ty : BitVec 3) (s : State) : Result :=
  .next (issue (.vslide vd va msk gs ty) s fun s0 => read1 gs s0 fun v s =>
    moveLanes vd msk (fun x i => match slideFrom v.toInt i with
      | some j => lane (x.readV va.toNat) j
      | none => 0) s)

/-- The integer `i` as an element, exactly. -/
def iotaLane (t : VType) (i : Nat) : Lane :=
  match t with
  | .fp f => elemLane t (roundTo f .rne false 0 (ofIntVal i)).1
  | .int _ => elemLane t i

def execViota (vd : BitVec 4) (msk ty : BitVec 3) (s : State) : Result :=
  .next (issue (.viota vd msk ty) s (moveLanes vd msk fun _ i => iotaLane (vtype ty) i))

/-- The lowest set bit of a mask. -/
def lowestSet (m : Word) : Option Nat := firstBelow 64 fun i => bitAt m i

/-- The element of the lowest active lane extended to 64 bits; 0 with an empty mask (R184). -/
def extracted (t : VType) (v : Vec) (m : Word) : Word :=
  match lowestSet m with
  | none => 0
  | some i => match t with
    | .fp _ => BitVec.ofNat 64 (elemCode t (lane v i))
    | .int w => BitVec.ofInt 64 (codeInt w (elemCode t (lane v i)))

def execVextr (va : BitVec 4) (msk : BitVec 3) (gs : BitVec 6) (ty : BitVec 3) (s : State) : Result :=
  .next (issue (.vextr va msk gs ty) s fun s0 =>
    writeNext gs (extracted (vtype ty) (s0.me.readV va.toNat) (s0.me.maskOf msk)) s0 s0)

def execVins (vd : BitVec 4) (msk : BitVec 3) (gs : BitVec 6) (ty : BitVec 3) (s : State) : Result :=
  .next (issue (.vins vd msk gs ty) s fun s0 => read1 gs s0 fun v s =>
    doneNext (s.modMe fun x =>
      match lowestSet (x.maskOf msk) with
      | some i => x.writeV vd.toNat (setLane (x.readV vd.toNat) i (elemLane (vtype ty) (elemCode (vtype ty) v)))
      | none => x))

def execVmcnt (ma : BitVec 2) (gs : BitVec 6) (s : State) : Result :=
  .next (issue (.vmcnt ma gs) s fun s0 => writeNext gs (countOnes (vget s0.me.m 0 ma.toNat)) s0 s0)

def execVfirst (ma : BitVec 2) (gs : BitVec 6) (s : State) : Result :=
  .next (issue (.vfirst ma gs) s fun s0 =>
    writeNext gs (BitVec.ofNat 64 ((lowestSet (vget s0.me.m 0 ma.toNat)).getD 64)) s0 s0)

def execMset (md : BitVec 2) (gs : BitVec 6) (s : State) : Result :=
  .next (issue (.mset md gs) s fun s0 => read1 gs s0 fun v s =>
    doneNext (s.modMe fun x => { x with m := vset x.m md.toNat v }))

def execMget (ma : BitVec 2) (gs : BitVec 6) (s : State) : Result :=
  .next (issue (.mget ma gs) s fun s0 => writeNext gs (vget s0.me.m 0 ma.toNat) s0 s0)

/-! ## Packing (R179, R180) -/

/-- Lane `i` of a packed register: the elements that stand in it, from va's lanes and then vb's. -/
def packLane (ty : BitVec 3) (a b : Vec) (i : Nat) : Lane :=
  let t := vtype ty
  if t.width = 8 then
    let src := if i < 16 then a else b
    if 32 ≤ i then 0
    else BitVec.ofNat 32 ((List.range 4).foldl (fun acc j => acc + 2 ^ (8 * j) * elemCode t (lane src (4 * (i % 16) + j))) 0)
  else
    let src := if i < 32 then a else b
    BitVec.ofNat 32 (elemCode t (lane src (2 * (i % 32))) + 2 ^ 16 * elemCode t (lane src (2 * (i % 32) + 1)))

def execVpack (vd va vb : BitVec 4) (ty : BitVec 3) (s : State) : Result :=
  .next (issue (.vpack vd va vb ty) s
    (moveLanes vd 0 fun x i => packLane ty (x.readV va.toNat) (x.readV vb.toNat) i))

def execVunpk (vd va : BitVec 4) (h : BitVec 2) (ty : BitVec 3) (s : State) : Result :=
  .next (issue (.vunpk vd va h ty) s
    (moveLanes vd 0 fun x i =>
      let t := vtype ty
      elemLane t ((x.readV va.toNat).toNat / 2 ^ (t.width * (64 * h.toNat + i)) % 2 ^ t.width)))

/-! ## Reductions (R63, R185) -/

/-- One step of a reduction on two codes with their flags. -/
def reduceStep (op : VType → LaneOp) (t : VType) (mode : Mode) (a b : Nat × BitVec 7) : Nat × BitVec 7 :=
  let (c, f) := op t mode.noSr 0 a.1 b.1 0
  (c, f ||| a.2 ||| b.2)

/-- The tree over 64 codes, and a scalar as a last step. -/
def reduceTree (op : VType → LaneOp) (t : VType) (mode : Mode) (leaves : List Nat) (scalar : Option Nat) :
    Nat × BitVec 7 :=
  match treeLevels (reduceStep op t mode) 6 (leaves.map fun c => (c, 0)), scalar with
  | r :: _, none => r
  | r :: _, some c => reduceStep op t mode r (c, 0)
  | [], _ => (0, 0)

/-- A reduction instruction; `absent` is what an inactive lane contributes. -/
def reduction (i : Instr) (vd va : BitVec 4) (msk : BitVec 3) (gs : BitVec 6) (ty : BitVec 3) (op : VType → LaneOp)
    (absent : VType → Nat) (s : State) : Result :=
  .next (issue i s fun s0 =>
    let t := vtype ty
    let result := fun (scalar : Option Nat) (s : State) =>
      let x := s.me
      let leaves := (List.range 64).map fun j =>
        if bitAt (x.maskOf msk) j then elemCode t (lane (x.readV va.toNat) j) else absent t
      let (c, f) := reduceTree op t x.mode leaves scalar
      doneNext (s.modMe fun x => (x.writeV vd.toNat (setLane (x.readV vd.toNat) 0 (elemLane t c))).raise f)
    if gs = 0 then result none s0 else read1 gs s0 fun v s => result (some (elemCode t v)) s)

def execVredsum (vd va : BitVec 4) (msk : BitVec 3) (gs : BitVec 6) (ty : BitVec 3) (s : State) : Result :=
  reduction (.vredsum vd va msk gs ty) vd va msk gs ty vaddOp
    (fun t => match t with
      | .fp f => f.signBit
      | .int _ => 0) s
def execVredmax (vd va : BitVec 4) (msk : BitVec 3) (gs : BitVec 6) (ty : BitVec 3) (s : State) : Result :=
  reduction (.vredmax vd va msk gs ty) vd va msk gs ty vmaxOp
    (fun t => match t with
      | .fp f => f.signBit + f.infCode
      | .int w => 2 ^ (w - 1)) s
def execVredmin (vd va : BitVec 4) (msk : BitVec 3) (gs : BitVec 6) (ty : BitVec 3) (s : State) : Result :=
  reduction (.vredmin vd va msk gs ty) vd va msk gs ty vminOp
    (fun t => match t with
      | .fp f => f.infCode
      | .int w => 2 ^ (w - 1) - 1) s

/-! ## Vector memory (R186–R189) -/

/-- One active lane of a vector access: its number, address and data. -/
structure LaneReq where
  lane : Nat
  addr : Word
  data : Word

/-- A vector access as an instruction gives it. -/
structure VecOp where
  dest : Option (BitVec 4)
  ty : BitVec 3
  active : BitVec 64
  lanes : List LaneReq

def VecOp.kind (v : VecOp) : AccessKind := if v.dest.isSome then .load (vtype v.ty).isInt else .store
def VecOp.bytes (v : VecOp) : Nat := elemBytes v.ty

/-- The rows of local lanes still outstanding that a pass performs: in each bank the lowest (R188). A row is named by
its offset divided by 32, its bank being that number modulo 32 (R268). -/
def passRows (rows : List Nat) : List Nat :=
  rows.filter fun r => !(rows.any fun q => q % 32 == r % 32 && decide (q < r))

/-- The vector access ends: its loaded lanes are written and the instruction retires. -/
def finishVec (s : State) : State :=
  match s.me.vec with
  | none => s
  | some a =>
    let s := consumeIf s s.core s.slot a.poison
    match a.dest with
    | none => doneNext s
    | some vd =>
      let handed := (List.range 32).map fun d => (⟨vecWord a.acc d, a.poison, false⟩ : Elem)
      let s := handed.foldl handOn s
      doneNext (s.modMe fun x =>
        x.writeV vd.toNat (ofLanes fun i => if bitAt a.active i then lane a.acc i else lane (x.readV vd.toNat) i))

/-- A local lane performed in the core's scratchpad. -/
def padLane (v : VecOp) (s : State) (off : Nat) (q : LaneReq) : State :=
  match padAccess (bankTurnAt s s.core off v.bytes) s.core s.slot s.core off v.bytes v.kind q.data 0 with
  | (some (x, p), s) => laneReply s s.core s.slot q.lane x p
  | (none, s) => s

/-- A landing lane performed at the buffer: it may only be read (R187). -/
def landLane (v : VecOp) (s : State) (b off : Nat) (q : LaneReq) : State :=
  let (x, p) := s.load (bufAddr s.core b off) v.bytes
  laneReply s s.core s.slot q.lane (extendN (v.kind == .load true) v.bytes (BitVec.ofNat 64 x)) p

/-- The scratchpad offset of a local lane. -/
def localOff (v : VecOp) (s : State) (q : LaneReq) : Option Nat :=
  match slotCheck s s.core s.slot q.addr v.bytes v.kind.reads v.kind.writes false with
  | .ok .localPad p => some p
  | _ => none

/-- The image offset of a landing lane. -/
def landOff (v : VecOp) (s : State) (q : LaneReq) : Option Nat :=
  match slotCheck s s.core s.slot q.addr v.bytes v.kind.reads v.kind.writes false with
  | .ok .landing p => some p
  | _ => none

/-- The request of a lane leaves; a peer that cannot be reached answers poisoned zero (R285, R407). -/
def sendLane (s : State) (f : Flight) : State :=
  match f.target with
  | .peer rank pa =>
    let ctag := (s.slotOf f.core f.slot).ctag
    if peerReachable s ctag rank then
      let (ident, s) := s.fresh
      let f := { f with ident := ident }
      sendToRank (notePeer s ctag rank f) ctag rank 1 false (.request ident (BitVec.ofNat 52 pa) (peerOp f))
    else f.answer s 0 true
  | _ => { s with flights := s.flights ++ [f] }

/-- The last stage: landing lanes at once, then a request for each lane that leaves the core. Of two lanes of a store at one element
of the own core, the higher through the local space and the lower through the remote window, the lower one's value remains, since
local lanes are performed first (DESIGN CHOICE, log entry 162). -/
def sendLanes (v : VecOp) (a : VecAccess) (s : State) : State :=
  let s := v.lanes.foldl (fun s q =>
    match landOff v s q, s.me.capsule with
    | some off, some b => landLane v s b off q
    | _, _ => s) s
  if a.away.isEmpty then finishVec s
  else
    let flights := a.away.map fun (ln, t) =>
      ({ core := s.core, slot := s.slot, kind := v.kind, target := t, n := v.bytes
         data := ((v.lanes.find? fun q => q.lane == ln).map fun q => q.data).getD 0, lane := some ln, ctag := s.me.ctag, lid := s.me.lid } : Flight)
    let s := s.modMe fun x => { x with vec := x.vec.map fun a => { a with sent := true, left := flights.length } }
    leaveRotation (flights.foldl sendLane s) s.core s.slot .memoryWait .lanes

/-- One pass over the local lanes (R188); after the last one the other lanes follow. Between passes the slot stays
runnable and its instruction issues again. -/
def vecPass (v : VecOp) (s : State) : State :=
  match s.me.vec with
  | none => s
  | some a =>
    let rows := (v.lanes.filterMap (localOff v s)).map (· / 32)
    let todo := (rows.filter fun r => !a.rows.contains r).eraseDups
    let now := passRows todo
    let s := v.lanes.foldl (fun s q =>
      match localOff v s q with
      | some off => if now.contains (off / 32) then padLane v s off q else s
      | none => s) s
    let s := s.modMe fun x => { x with vec := x.vec.map fun a => { a with rows := a.rows ++ now } }
    if todo.length = now.length then sendLanes v a s else s

/-- The first active lane that a test picks an answer for. -/
def firstLane {α : Type} (f : LaneReq → Option α) : List LaneReq → Option (LaneReq × α)
  | [] => none
  | q :: rest => match f q with
    | some x => some (q, x)
    | none => firstLane f rest

/-- Why a lane fails its segment checks (R187, first stage); a write to a landing lane is a space fault. -/
def laneFault (v : VecOp) (s : State) (q : LaneReq) : Option Cause :=
  match slotCheck s s.core s.slot q.addr v.bytes v.kind.reads v.kind.writes false with
  | .bad c => some c
  | .ok .landing _ => if v.kind.writes then some .space else none
  | .ok .remote p =>
    (match remoteRoute s s.core s.slot p v.bytes v.kind with
     | .trap c => some c
     | _ => none)
  | .ok _ _ => none

/-- A lane whose translation misses or yields no address (R187, second stage). -/
def laneMiss (v : VecOp) (s : State) (q : LaneReq) : Option Route :=
  match route s s.core s.slot q.addr v.bytes v.kind with
  | .miss va => some (.miss va)
  | .trap c => some (.trap c)
  | _ => none

/-- The lanes that leave the core, with their targets. -/
def awayLanes (v : VecOp) (s : State) : List (Nat × Target) :=
  v.lanes.filterMap fun q =>
    match route s s.core s.slot q.addr v.bytes v.kind with
    | .away t => some (q.lane, t)
    | _ => none

/-- The access starts: nothing is performed before every lane has passed. Where lanes fail in different ways the lowest one's
outcome is taken (DEDUCED, log entry 144). -/
def startVec (v : VecOp) (s : State) : State :=
  match firstLane (laneMiss v s) v.lanes with
  | some (_, .miss va) => awaitTranslation s va v.kind.reads v.kind.writes false
  | some (q, .trap c) => trapHere s c q.addr q.lane
  | _ =>
    match (awayLanes v s).findSome? fun (_, t) => match t with
      | .peer rank _ => if peerHeld s s.me.ctag rank then some rank else none
      | _ => none with
    | some rank => pollFor s .memoryWait (.peerDrained rank)
    | none => vecPass v (s.modMe fun x => { x with vec := some { dest := v.dest, active := v.active, away := awayLanes v s } })

/-- The trailing thread of a pair takes the 32 doublewords of a loaded register (R444). -/
def takeVec (v : VecOp) (vd : BitVec 4) (s : State) : State :=
  match takeMany 32 s with
  | .stop s => s
  | .go l s =>
    doneNext (s.modMe fun x =>
      x.writeV vd.toNat (ofLanes fun i =>
        if bitAt v.active i then (((l.getD (i / 2) ⟨0, false, false⟩).val).extractLsb' (32 * (i % 2)) 32)
        else lane (x.readV vd.toNat) i))

/-- A vector memory instruction (R187–R189). -/
def vecMem (i : Instr) (op : State → VecOp) (s : State) : Result :=
  .next (issue i s fun s0 =>
    let v := op s0
    if s0.me.vec.isSome then vecPass v s0
    else match firstLane (laneFault v s0) v.lanes with
      | some (q, c) => trapHere s0 c q.addr q.lane
      | none =>
        match v.dest with
        | some vd =>
          if s0.me.pair == .trailing then takeVec v vd s0
          else if valueQueueFull s0 32 then pollFor s0 .memoryWait .loadValueRoom
          else startVec v s0
        | none => outwardAccess (v.lanes.flatMap fun q => [q.addr, q.data]) s0 (startVec v) doneNext)

/-- The lanes of an access whose addresses a function gives. -/
def vecOp (load : Bool) (vd : BitVec 4) (msk ty : BitVec 3) (addr : Slot → Nat → Word) (s : State) : VecOp :=
  let x := s.me
  let active := x.maskOf msk
  { dest := if load then some vd else none, ty := ty, active := active
    lanes := (activeLanes active).map fun i =>
      ⟨i, addr x i, BitVec.ofNat 64 (elemCode (vtype ty) (lane (x.readV vd.toNat) i))⟩ }

/-- g(gs) + E × i. -/
def unitAddr (gs : BitVec 6) (ty : BitVec 3) (x : Slot) (i : Nat) : Word :=
  x.readG gs.toNat + BitVec.ofNat 64 (elemBytes ty * i)
/-- g(gs) + SInt(g(w)) × i, with the stride in the register after the base. -/
def strideAddr (gs : BitVec 6) (x : Slot) (i : Nat) : Word :=
  x.readG gs.toNat + x.readG ((gs.toNat + 1) % 32) * BitVec.ofNat 64 i
/-- g(gs) + SignExtend(va lane i). -/
def indexAddr (gs : BitVec 6) (va : BitVec 4) (x : Slot) (i : Nat) : Word :=
  x.readG gs.toNat + signExt (lane (x.readV va.toNat) i)

def execVld (vd : BitVec 4) (msk : BitVec 3) (gs : BitVec 6) (ty : BitVec 3) (s : State) : Result :=
  vecMem (.vld vd msk gs ty) (vecOp true vd msk ty (unitAddr gs ty)) s
def execVst (vd : BitVec 4) (msk : BitVec 3) (gs : BitVec 6) (ty : BitVec 3) (s : State) : Result :=
  vecMem (.vst vd msk gs ty) (vecOp false vd msk ty (unitAddr gs ty)) s
def execVlds (vd : BitVec 4) (msk : BitVec 3) (gs : BitVec 6) (ty : BitVec 3) (s : State) : Result :=
  vecMem (.vlds vd msk gs ty) (vecOp true vd msk ty (strideAddr gs)) s
def execVsts (vd : BitVec 4) (msk : BitVec 3) (gs : BitVec 6) (ty : BitVec 3) (s : State) : Result :=
  vecMem (.vsts vd msk gs ty) (vecOp false vd msk ty (strideAddr gs)) s
def execVgath (vd va : BitVec 4) (msk : BitVec 3) (gs : BitVec 6) (ty : BitVec 3) (s : State) : Result :=
  vecMem (.vgath vd va msk gs ty) (vecOp true vd msk ty (indexAddr gs va)) s
def execVscat (vd va : BitVec 4) (msk : BitVec 3) (gs : BitVec 6) (ty : BitVec 3) (s : State) : Result :=
  vecMem (.vscat vd va msk gs ty) (vecOp false vd msk ty (indexAddr gs va)) s

/-! ## Ports by number (R194, R195) -/

/-- qtry's outcome written: the value and p K, or p K alone. -/
def tried (rd : BitVec 6) (pk : Nat) (e : Option Elem) (s : State) : State :=
  match e with
  | some e => doneNext (s.modMe fun x => (x.writeG rd.toNat e.val).writePred pk true)
  | none => doneNext (s.modMe fun x => x.writePred pk false)

def execQtry (rd : BitVec 6) (n k : BitVec 4) (s : State) : Result :=
  .next (issue (.qtry rd n k) s fun s =>
    if s.me.pair == .trailing then
      match takeMany 2 s with
      | .stop s => s
      | .go l s => tried rd k.toNat (if (l.getD 0 ⟨0, false, false⟩).val = 1 then l[1]? else none) s
    else if valueQueueFull s 2 then awaitValueRoom s
    else match portGet s s.core s.slot n.toNat with
      | e :: rest =>
        let s := receive (portSet s s.core s.slot n.toNat rest) s.core s.slot e
        let s := handOn (handOn s ⟨1, false, false⟩) e
        tried rd k.toNat (some e) (placeFreed s s.core s.slot n.toNat)
      | [] =>
        let s := handOn (handOn s ⟨0, false, false⟩) ⟨0, false, false⟩
        tried rd k.toNat none s)

/-- A predicate that reports an outcome, which in a pair the trailing thread takes over (R444). -/
def reportPred (pk : Nat) (b : Bool) (s : State) : State :=
  doneNext ((handOn s ⟨if b then 1 else 0, false, false⟩).modMe fun x => x.writePred pk b)

def execQoffer (n : BitVec 4) (ra : BitVec 6) (k : BitVec 4) (s : State) : Result :=
  .next (issue (.qoffer n ra k) s fun s =>
    outward [gval s ra] s
      (fun s =>
        if freePlaces s s.core s.slot n.toNat = 0 then reportPred k.toNat false s
        else reportPred k.toNat true (pushLater s n.toNat ⟨gval s ra, false, false⟩))
      fun s => match takeValue s with
        | .go v s => doneNext (s.modMe fun x => x.writePred k.toNat (v == 1))
        | .stop s => s)

def execQcnt (rd : BitVec 6) (n : BitVec 4) (s : State) : Result :=
  .next (issue (.qcnt rd n) s fun s =>
    boundaryRead s
      (fun s => writeBoundary rd (BitVec.ofNat 64 ((portGet s s.core s.slot n.toNat).length
        + 256 * freePlaces s s.core s.slot n.toNat)) false s s)
      fun v s => writeNext rd v s s)

/-- Elements popped one at a time, from the `cur`-th on; those in the latch are not popped again. -/
def popMany (port : Nat) : Nat → Nat → State → Flow (List Word)
  | 0, _, s => .go [] s
  | n + 1, cur, s => (popPort port cur s).bind fun (v, cur) s => (popMany port n cur s).bind fun vs s => .go (v :: vs) s

def execVqpop (vd k n : BitVec 4) (s : State) : Result :=
  .next (issue (.vqpop vd k n) s fun s =>
    match popMany n.toNat (k.toNat + 1) 0 s with
    | .stop s => s
    | .go vs s =>
      doneNext (s.modMe fun x =>
        x.writeV vd.toNat ((List.range vs.length).foldl (fun v e => setVecWord v e (vs.getD e 0)) (x.readV vd.toNat))))

/-- Elements of a register pushed one at a time (R195); the latch counts those pushed. An element pushed before a later one has to
wait takes effect three cycles after the issue that pushed it, before the instruction retires (DESIGN CHOICE, log entry 156). -/
def pushMany (port : Nat) (v : Vec) : List Nat → State → State
  | [], s => doneNext (s.modMe fun x => { x with latch := [] })
  | e :: rest, s =>
    if freePlaces s s.core s.slot port = 0 then
      let s := s.modCore s.core fun r => { r with pushers := r.pushers ++ [(port, s.slot)] }
      let s := endReservation s s.core s.slot
      leaveRotation s s.core s.slot (if port < 8 then .memoryWait else .engineWait) (.push port)
    else
      let s := pushLater s port ⟨vecWord v e, false, false⟩
      pushMany port v rest (keepLatch s ⟨0, false, false⟩)

/-- The element for which a place has been reserved while the thread waited goes into it (R192). -/
def pushReserved (port : Nat) (v : Vec) (es : List Nat) (s : State) : State :=
  match es.drop s.me.latch.length with
  | [] => pushMany port v [] s
  | e :: rest =>
    if s.myCore.pushers.any fun w => w.2 == s.slot then
      let s := s.modCore s.core fun r => { r with pushers := r.pushers.filter fun w => w.2 != s.slot }
      pushMany port v rest (keepLatch (pushLater s port ⟨vecWord v e, false, false⟩) ⟨0, false, false⟩)
    else pushMany port v (e :: rest) s

def execVqpush (va k n : BitVec 4) (s : State) : Result :=
  .next (issue (.vqpush va k n) s fun s =>
    let v := s.me.readV va.toNat
    let es := List.range (k.toNat + 1)
    outward (es.map (vecWord v)) s (pushReserved n.toNat v es) doneNext)

end Sys2Proof.Machine
end

