-- ==== Sys2Proof/Machine/Engine.lean ====
section
/-!
DEFINITION. The command port (R110–R123, R204, R205): command words, their checks in the order of R116, the queues of
the engine classes, tokens and where they go (R112, R117, R206, R210); ring descriptors (R35, R36, R211); and the
translation of engine accesses with the faults it meets (R383–R387, R462).
-/

namespace Sys2Proof.Machine

/-! ## Faults at a port (R385–R387) -/

/-- A port can hold one more record (R387). -/
def recordRoom (s : State) (cl : Nat) : Bool := decide ((s.clusterAt cl).records.length < 256)

/-- A key is assigned: the cluster and the port's running fault count, which starts at 0 (DEDUCED, log entry 20). -/
def assignKey (s : State) (cl : Nat) : BitVec 32 × State :=
  (BitVec.ofNat 32 (cl * 2 ^ 24 + (s.clusterAt cl).faults.toNat), s.modCluster cl fun c => { c with faults := c.faults + 1 })

/-- The access byte of a record. -/
def accessByte (r w x : Bool) : Nat := (if r then 1 else 0) + (if w then 2 else 0) + (if x then 4 else 0)

/-- A fault record of 32 bytes (R386). -/
def faultData (va : Nat) (key : BitVec 32) (core source kind access level : Nat) (ctag : BitVec 4) (lid : BitVec 32)
    (pc : Word) : BitVec 256 :=
  BitVec.ofNat 256 (va + key.toNat * 2 ^ 64 + core * 2 ^ 96 + source * 2 ^ 112 + kind * 2 ^ 120 + access * 2 ^ 128
    + level * 2 ^ 136 + ctag.toNat * 2 ^ 144 + lid.toNat * 2 ^ 160 + pc.toNat * 2 ^ 192)

/-- A record queued at its port; it is delivered by an event of its own (R387). -/
def queueRecord (s : State) (cl : Nat) (ctag : BitVec 4) (data : BitVec 256) : State :=
  s.modCluster cl fun c => { c with records := c.records ++ [⟨ctag, data⟩] }

/-! ## Fields of a command word (R111, R118–R123) -/

def cmdCode (w : BitVec 256) : Nat := bitsOf w 255 248
def cmdPort (w : BitVec 256) : Nat := bitsOf w 247 245
def cmdDone (w : BitVec 256) : Nat := bitsOf w 244 243
def cmdRing (w : BitVec 256) : Nat := bitsOf w 242 240
def cmdTag (w : BitVec 256) : Nat := bitsOf w 239 224
/-- Bits 223:192 of the body: bytes, opa or elems. -/
def cmdA (w : BitVec 256) : Nat := bitsOf w 223 192
/-- Bits 191:160 of a bank command: opb. -/
def cmdB (w : BitVec 256) : Nat := bitsOf w 191 160
/-- Bits 191:128: gaddr, pblk or src. -/
def cmdAddr (w : BitVec 256) : Word := BitVec.ofNat 64 (bitsOf w 191 128)
def ceSoff (w : BitVec 256) : Nat := bitsOf w 116 96
def ceGstride (w : BitVec 256) : BitVec 32 := BitVec.ofNat 32 (bitsOf w 95 64)
def ceSstride (w : BitVec 256) : Nat := bitsOf w 63 32
def ceRows (w : BitVec 256) : Nat := bitsOf w 31 16
def ceDir (w : BitVec 256) : Bool := bitAt w 0
def teK (w : BitVec 256) : Nat := bitsOf w 223 208
def teRingA (w : BitVec 256) : Nat := bitsOf w 191 189
def teRingB (w : BitVec 256) : Nat := bitsOf w 188 186
def teDoff (w : BitVec 256) : Nat := bitsOf w 175 155
def teDstride (w : BitVec 256) : Nat := bitsOf w 143 128
def buX (w : BitVec 256) : Nat := bitsOf w 159 153
def buY (w : BitVec 256) : Nat := bitsOf w 152 149
def buSelf (w : BitVec 256) : Bool := bitAt w 148
def buAddr (w : BitVec 256) : Nat := bitsOf w 116 96
def buCount (w : BitVec 256) : Nat := bitsOf w 74 64
def buAux (w : BitVec 256) : Nat := bitsOf w 52 32
def buFopCode (w : BitVec 256) : Nat := bitsOf w 31 28
def suStack (w : BitVec 256) : Nat := bitsOf w 223 220
def suPch (w : BitVec 256) : Nat := bitsOf w 219 214
def suMask (w : BitVec 256) : BitVec 16 := BitVec.ofNat 16 (bitsOf w 207 192)
def suStart (w : BitVec 256) : Nat := bitsOf w 127 112
def suLen (w : BitVec 256) : Nat := bitsOf w 111 96
def suMode (w : BitVec 256) : Bool := bitAt w 0
def breOps (w : BitVec 256) : Nat := bitsOf w 219 216
def cleDst (w : BitVec 256) : Word := BitVec.ofNat 64 (bitsOf w 127 64)
def cleColl (w : BitVec 256) : BitVec 16 := BitVec.ofNat 16 (bitsOf w 63 48)

/-- The engine class of a command code (R115). -/
def engineOf (code : Nat) : Option Engine :=
  if code = 0x10 ∨ code = 0x11 then some .tile
  else if 0x20 ≤ code ∧ code ≤ 0x26 then some .copy
  else if 0x30 ≤ code ∧ code ≤ 0x3C then some .bank
  else if 0x50 ≤ code ∧ code ≤ 0x55 then some .stack
  else if code = 0x60 then some .reduction
  else if 0x70 ≤ code ∧ code ≤ 0x72 then some .collective
  else none

def Core.queue (c : Core) : Engine → List Cmd
  | .tile => c.tileQ
  | .copy => c.copyQ
  | .bank => c.bankQ
  | .stack => c.stackQ
  | .reduction => c.reductionQ
  | .collective => c.collectiveQ

def Core.setQueue (c : Core) (e : Engine) (l : List Cmd) : Core :=
  match e with
  | .tile => { c with tileQ := l }
  | .copy => { c with copyQ := l }
  | .bank => { c with bankQ := l }
  | .stack => { c with stackQ := l }
  | .reduction => { c with reductionQ := l }
  | .collective => { c with collectiveQ := l }

/-- Every accepted command of a core. -/
def Core.commands (c : Core) : List Cmd :=
  c.tileQ ++ c.copyQ ++ c.bankQ ++ c.stackQ ++ c.reductionQ ++ c.collectiveQ

/-- One command of a queue changed, found by its identifier. -/
def modCmd (s : State) (c : Nat) (e : Engine) (ident : Nat) (f : Cmd → Cmd) : State :=
  s.modCore c fun r => r.setQueue e ((r.queue e).map fun x => if x.ident == ident then f x else x)

/-! ## Ring descriptors (R35) -/

def ringBase (q : Quad) : Nat := bitsOf q 20 0
def ringStage (q : Quad) : Nat := bitsOf q 51 40 * 32
def ringCount (q : Quad) : Nat := bitsOf q 55 52 + 1
def ringHead (q : Quad) : Nat := bitsOf q 67 64
def ringTail (q : Quad) : Nat := bitsOf q 75 72
def ringFull (q : Quad) (stage : Nat) : Bool := bitAt q (96 + stage)
def ringReplay (q : Quad) (stage : Nat) : Bool := bitAt q (112 + stage)
def setFull (q : Quad) (stage : Nat) (b : Bool) : Quad := setBits q (96 + stage) (96 + stage) (if b then 1 else 0)
def setReplay (q : Quad) (stage : Nat) (b : Bool) : Quad := setBits q (112 + stage) (112 + stage) (if b then 1 else 0)
/-- The reserved bits of a descriptor ignore writes (R11, R35). -/
def ringMask (q : Quad) : Quad :=
  BitVec.ofNat 128 (bitsOf q 127 96 * 2 ^ 96 + bitsOf q 75 72 * 2 ^ 72 + bitsOf q 67 64 * 2 ^ 64 + bitsOf q 55 40 * 2 ^ 40
    + bitsOf q 20 0)

/-- A malformed descriptor; a folded slot's base has its rebase added first (R35, R395). -/
def ringMalformed (q : Quad) (rebase : Nat) : Bool :=
  bitsOf q 51 40 == 0 || bitsOf q 4 0 != 0 || decide (2 ^ 21 < ringBase q + rebase + ringCount q * ringStage q)

/-- The ring of a command's slot; the commands of a killed slot keep its rings, which its docked ones share too. -/
def ringOf (s : State) (c : Nat) (x : Cmd) (r : Nat) : Quad :=
  match x.owner with
  | .slot k => vget (s.slotOf c k).ring 0 r
  | _ => vget x.rings 0 r

def setRingOf (s : State) (c : Nat) (x : Cmd) (r : Nat) (q : Quad) : State :=
  match x.owner with
  | .slot k => s.modSlot c k fun y => { y with ring := vset y.ring r q }
  | _ =>
    let put := fun (y : Cmd) => if y.owner == x.owner then { y with rings := vset y.rings r q } else y
    s.modCore c fun k => { k with tileQ := k.tileQ.map put, copyQ := k.copyQ.map put }

/-- A command names a ring of its slot (R36, R212). -/
def namesRing (x : Cmd) (r : Nat) : Bool :=
  match cmdCode x.word with
  | 0x10 => teRingA x.word == r || teRingB x.word == r
  | 0x25 | 0x26 => cmdRing x.word == r
  | code => decide (0x20 ≤ code) && decide (code ≤ 0x26) && cmdDone x.word == 1 && cmdRing x.word == r

/-- Some outstanding tile or copy command of slot `k` names its ring `r`. -/
def ringBusy (s : State) (c k r : Nat) : Bool :=
  ((s.coreOf c).tileQ ++ (s.coreOf c).copyQ).any fun x => x.owner == .slot k && namesRing x r

/-! ## Ranges of engine accesses (R108, R213) -/

/-- Access to a range of global memory under a copy of the segment registers: the device virtual address of its first
byte. The copy engine's accesses have no alignment test (R108). -/
def rangeOf (sg : Vector Quad 8) (a : Word) (n : Nat) (r w : Bool) : Option Nat :=
  let q := vget sg 0 (bitsOf a 63 61)
  let off := bitsOf a 60 0
  let p := bitsOf q 56 0 + off
  if bitAt q 127 && (!r || bitAt q 124) && (!w || bitAt q 125) && decide (off + n - 1 ≤ bitsOf q 120 64)
      && segSpace q == .global && decide (p + n ≤ 2 ^ 57) then some p else none

/-- The same for the other engines, whose accesses of 1, 2, 4 or 8 bytes are aligned (R108). -/
def rangeCheck (sg : Vector Quad 8) (a : Word) (n : Nat) (r w : Bool) : Option Nat :=
  (rangeOf sg a n r w).filter fun p => !(n == 2 || n == 4 || n == 8) || p % n == 0

/-- `n` scratchpad bytes at `off` lie inside a valid segment of a space, with a right; offsets are those the thread
presents, before a rebase. `at_` is where the range begins in the segment's space. -/
def insideSegment (sg : Vector Quad 8) (space : Space) (at_ n : Nat) (r w : Bool) : Bool :=
  (List.range 8).any fun i =>
    let q := vget sg 0 i
    bitAt q 127 && segSpace q == space && (!r || bitAt q 124) && (!w || bitAt q 125)
      && decide (bitsOf q 56 0 ≤ at_) && decide (at_ + n ≤ bitsOf q 56 0 + bitsOf q 120 64 + 1)

/-- The rows of a transfer that a test rejects do not exist. -/
def allRows (n : Nat) (p : Nat → Bool) : Bool := (List.range n).all p

/-- The number of rows or elements a copy command has. -/
def ceCount (w : BitVec 256) : Nat := if ceRows w = 0 then 1 else ceRows w

/-- The scratchpad offset of row `r`, from the offset that stands for soff. -/
def ceScratch (w : BitVec 256) (base r : Nat) : Nat := base + (if ceRows w = 0 then 0 else ceSstride w * r)

/-- The global address of row `r` of ce.cpy, ce.str and ce.fill. -/
def ceGlobal (w : BitVec 256) (r : Nat) : Word :=
  if cmdCode w = 0x21 then cmdAddr w + signExt (ceGstride w) * BitVec.ofNat 64 r else cmdAddr w

/-! ## The checks of an accepted word (R116) -/

/-- What the command port knows of the thread that pushes. -/
structure Pusher where
  sg : Vector Quad 8
  rings : Vector Quad 8
  rebase : Nat
  grant : Option Grant
  fmt : BitVec 11
  hbase : Word
  enqw : Bool

/-- Header faults (R114). -/
def headerBad (w : BitVec 256) (e : Engine) (p : Pusher) : Bool :=
  let done := cmdDone w
  done == 3 || (done == 1 && (e != .copy || cmdCode w == 0x25 || cmdCode w == 0x26))
    || (done == 2 && p.hbase == 0) || (done != 0 && p.enqw)

/-- A field of `n` possible values lies in a range. -/
def within (lo hi n : Nat) : Bool := decide (lo ≤ n) && decide (n ≤ hi)

/-- The copy-engine body (R118, R212, R213). -/
def ceBodyOk (w : BitVec 256) : Bool :=
  let code := cmdCode w
  let table := code == 0x22 || code == 0x23
  let rowed := code == 0x21 || table
  bitsOf w 127 117 == 0 && bitsOf w 15 1 == 0 && cmdA w % 4 == 0 && within 4 2097152 (cmdA w)
    && (if table then bitsOf w 95 85 == 0 && bitsOf w 84 64 % 4 == 0 else code == 0x21 || ceGstride w == 0)
    && (rowed || code == 0x24 || ceSstride w == 0) && (if rowed then ceRows w != 0 else ceRows w == 0)
    && !(code == 0x22 && ceDir w) && !(code == 0x23 && !ceDir w)
    && (!(code == 0x25 || code == 0x26) || (cmdA w == 16 && cmdAddr w == 0 && !ceDir w && ceSoff w % 16 == 0))
    && !(cmdDone w == 1 && ceDir w)

/-- The bytes of a row of a ring stage in an element format (R200). -/
def rowBytes (f : Nat) : Nat :=
  match f with
  | 0 | 1 => 256
  | 6 | 7 => 96
  | 8 => 64
  | 10 => 24
  | _ => 128

/-- The tile-engine body and what R204, R217 and R203 want of it beside. -/
def teBodyOk (w : BitVec 256) (p : Pusher) : Bool :=
  p.grant.isSome &&
    (if cmdCode w = 0x11 then bitsOf w 223 0 == 0
     else
      teK w != 0 && bitsOf w 207 192 == 0 && bitsOf w 185 176 == 0 && bitsOf w 154 144 == 0 && bitsOf w 127 0 == 0
        && teDoff w % 32 == 0 && teDstride w % 32 == 0 && p.enqw && teRingA w != teRingB w
        && ((bitsOf p.fmt 3 0 == 10) == (bitsOf p.fmt 7 4 == 10)))

/-- The stages of te.mma's rings hold a slab of the granted shape (R217). -/
def teStagesOk (w : BitVec 256) (p : Pusher) : Bool :=
  match p.grant with
  | none => false
  | some g =>
    decide (g.rows * rowBytes (bitsOf p.fmt 3 0) ≤ ringStage (vget p.rings 0 (teRingA w)))
      && decide (g.cols * rowBytes (bitsOf p.fmt 7 4) ≤ ringStage (vget p.rings 0 (teRingB w)))

/-- The bytes of state words that a bank-unit code uses on a run of `count` words (R221, R222). -/
def stateBytes (code count : Nat) : Nat :=
  match code with
  | 0x35 | 0x36 => 8
  | 0x37 => 4 + 8 * count
  | 0x38 => 1024
  | 0x3A => (count + 31) / 32 * 4
  | _ => 0

/-- The bytes of state words that a command uses at aux. -/
def buState (w : BitVec 256) : Nat := stateBytes (cmdCode w) (buCount w)

/-- The bank-unit body (R120, R219, R220, R222); `rebase` is that of the target. -/
def buBodyOk (w : BitVec 256) (rebase : Nat) : Bool :=
  let code := cmdCode w
  let usesB := code == 0x3B || code == 0x3A || code == 0x38
  within 0 79 (buX w) && (!buSelf w || (buX w == 0 && buY w == 0)) && bitsOf w 147 117 == 0 && bitsOf w 95 75 == 0
    && bitsOf w 63 53 == 0 && bitsOf w 27 0 == 0 && buAddr w % 4 == 0 && within 1 1024 (buCount w)
    && (if buState w = 0 then buAux w == 0 else buAux w % 4 == 0) && (usesB || cmdB w == 0)
    && (if code = 0x3C then within 0 8 (buFopCode w) else buFopCode w == 0) && (code != 0x3B || buCount w == 1)
    && (code != 0x3A || (within 1 1024 (cmdA w) && buCount w % cmdA w == 0 && within 1 (cmdA w) (cmdB w)))
    && decide (buAddr w + rebase + 4 * buCount w ≤ 2 ^ 21) && decide (buAux w + rebase + buState w ≤ 2 ^ 21)

/-- The stack-unit body (R121, R224, R336). -/
def suBodyOk (w : BitVec 256) : Bool :=
  let code := cmdCode w
  bitsOf w 213 208 == 0 && bitsOf w 95 1 == 0 && (code == 0x50 || !suMode w)
    && (if code = 0x51 then suLen w != 0 && decide (suStart w + suLen w ≤ 1024) else suLen w == 0)
    && (!(code == 0x52 || code == 0x53 || code == 0x54) || suMask w != 0)
    && (!(code == 0x52 || code == 0x54) || (cmdAddr w).toNat % 32 == 0)
    && (code != 0x53 || decide (suStart w < 1024))

def breBodyOk (w : BitVec 256) : Bool :=
  within 1 8 (breOps w) && bitsOf w 215 192 == 0 && (cmdAddr w).toNat % 64 == 0 && bitsOf w 127 0 == 0

/-- The collective body (R123, R423). -/
def cleBodyOk (w : BitVec 256) : Bool :=
  bitsOf w 47 0 == 0 && within 1 1048576 (cmdA w)
    && (if cmdCode w = 0x72 then cleDst w == 0
        else cmdA w % 16 == 0 && (cmdAddr w).toNat % 16 == 0 && (cleDst w).toNat % 16 == 0)

/-- The bytes of a collective's records: 144 for each 16 elements (R423), or a bitmap. -/
def cleBytes (w : BitVec 256) : Nat := if cmdCode w = 0x72 then (cmdA w + 7) / 8 else cmdA w / 16 * 144

/-- Step 2 of R116. -/
def bodyOk (w : BitVec 256) (e : Engine) (p : Pusher) (targetRebase : Nat) : Bool :=
  match e with
  | .tile => teBodyOk w p
  | .copy => ceBodyOk w
  | .bank => buBodyOk w targetRebase
  | .stack => suBodyOk w
  | .reduction => breBodyOk w
  | .collective => cleBodyOk w

/-- Step 3 of R116: the rings that the word names as operands. -/
def ringsBad (w : BitVec 256) (e : Engine) (p : Pusher) : Bool :=
  let bad := fun r => ringMalformed (vget p.rings 0 r) p.rebase
  match e with
  | .tile => cmdCode w == 0x10 && (bad (teRingA w) || bad (teRingB w))
  | .copy => cmdDone w == 1 && bad (cmdRing w)
  | _ => false

/-- The offset that stands for soff: in a ring fill, within its stage (R214). -/
def ceBase (w : BitVec 256) (rings : Vector Quad 8) (stage : Nat) : Nat :=
  if cmdDone w = 1 then ringBase (vget rings 0 (cmdRing w)) + stage * ringStage (vget rings 0 (cmdRing w)) + ceSoff w
  else ceSoff w

/-- The rows of a fill lie within the stage (R214). -/
def ceStageOk (w : BitVec 256) (rings : Vector Quad 8) : Bool :=
  cmdDone w != 1 ||
    allRows (ceCount w) fun r => decide (ceScratch w (ceSoff w) r + cmdA w ≤ ringStage (vget rings 0 (cmdRing w)))

/-- The scratchpad side of a copy command passes (R213): the range touched, from its first row to its last, lies below 2 MiB and
inside a valid local segment with the right. -/
def ceScratchOk (w : BitVec 256) (p : Pusher) (stage : Nat) : Bool :=
  let code := cmdCode w
  let reads := if code = 0x25 then true else if code = 0x26 then false else ceDir w
  let base := ceBase w p.rings stage
  let last := ceScratch w base (ceCount w - 1) + cmdA w
  (code == 0x24 && ceDir w)
    || (decide (last + p.rebase ≤ 2 ^ 21) && insideSegment p.sg .localPad base (last - base) reads (!reads))

/-- The index table of ce.gth and ce.sct. -/
def ceTableOk (w : BitVec 256) (p : Pusher) : Bool :=
  !(cmdCode w == 0x22 || cmdCode w == 0x23) ||
    (decide (bitsOf w 84 64 + p.rebase + 4 * ceRows w ≤ 2 ^ 21)
      && insideSegment p.sg .localPad (bitsOf w 84 64) (4 * ceRows w) true false)

/-- The global rows that are checked at acceptance. -/
def ceGlobalOk (w : BitVec 256) (p : Pusher) : Bool :=
  let code := cmdCode w
  if code = 0x20 ∨ code = 0x21 ∨ (code = 0x24 ∧ ceDir w) then
    allRows (ceCount w) fun r => (rangeOf p.sg (ceGlobal w r) (cmdA w) (!ceDir w) (ceDir w)).isSome
  else true

/-- The scratchpad range of a bank command in the space of its target (R219). -/
def buSegmentOk (w : BitVec 256) (p : Pusher) : Bool :=
  if buSelf w then insideSegment p.sg .localPad (buAddr w) (4 * buCount w) false true
  else insideSegment p.sg .remote (buAddr w + buX w * 2 ^ 21 + buY w * 2 ^ 28) (4 * buCount w) false true

/-- Step 4 of R116. -/
def addressesOk (w : BitVec 256) (e : Engine) (p : Pusher) (stage : Nat) : Bool :=
  match e with
  | .tile => true
  | .copy => ceScratchOk w p stage && ceTableOk w p && ceGlobalOk w p
  | .bank => buSegmentOk w p
  | .stack =>
    (match cmdCode w with
     | 0x51 => (rangeCheck p.sg (cmdAddr w) (8 * suLen w) true false).isSome
     | 0x52 => (List.range 16).all fun b => !bitAt (suMask w) b
         || (rangeCheck p.sg (cmdAddr w + BitVec.ofNat 64 (256 * b)) 256 true false).isSome
     | 0x54 => (List.range 16).all fun b => !bitAt (suMask w) b
         || (rangeCheck p.sg (cmdAddr w + BitVec.ofNat 64 (256 * b)) 256 false true).isSome
     | _ => true)
  | .reduction => (rangeCheck p.sg (cmdAddr w) 128 true false).isSome
  | .collective =>
    (rangeCheck p.sg (cmdAddr w) (cleBytes w) true false).isSome
      && (cmdCode w == 0x72 || (rangeCheck p.sg (cleDst w) (cleBytes w) false true).isSome)

/-- The physical target of a bank command, and what is added to its offsets (R219, R395). -/
def buTarget (s : State) (c k : Nat) (w : BitVec 256) : Nat × Nat :=
  if buSelf w then (c, slotRebase s c k) else routeCore s c k (coreAt (buX w) (buY w))

/-- The context's membership of a collective engine command: the module is a member (R410, R426). -/
def isMember (s : State) (ctag : BitVec 4) : Bool :=
  let m := s.memberOf ctag
  m.valid && !m.removed.contains m.self.toNat

/-- Step 5 of R116: the target is there (R114, R219, R224, R410). A stack refuses a command that
names a failed bank (R449); modes are checked when the command reaches its sequencer (R336). -/
def targetPresent (s : State) (c k : Nat) (w : BitVec 256) (e : Engine) : Bool :=
  match e with
  | .bank => s.inService (buTarget s c k w).1
  | .collective => isMember s (s.slotOf c k).ctag
  | .stack => (s.pchOf (suStack w) (suPch w)).failedBanks &&& suMask w == 0
  | _ => true

/-- What the port knows of slot `k`. -/
def pusherOf (s : State) (c k : Nat) (enqw : Bool) : Pusher :=
  let x := s.slotOf c k
  ⟨x.sg, x.ring, slotRebase s c k, x.grant, x.fmt, x.hbase, enqw⟩

/-- The stage that a fill takes: after those that accepted, incomplete fills of its ring take (R214). -/
def fillStage (s : State) (c k : Nat) (w : BitVec 256) : Nat :=
  if cmdDone w = 1 then
    let q := vget (s.slotOf c k).ring 0 (cmdRing w)
    let pending := ((s.coreOf c).copyQ.filter fun x =>
      x.owner == .slot k && cmdDone x.word == 1 && cmdRing x.word == cmdRing w).length
    (ringTail q + pending) % ringCount q
  else 0

/-- The status that the checks of R116 give a word: 0 if it is accepted. -/
def commandStatus (s : State) (c k : Nat) (enqw : Bool) (w : BitVec 256) : Nat :=
  let p := pusherOf s c k enqw
  match engineOf (cmdCode w) with
  | none => 1
  | some e =>
    if headerBad w e p || !bodyOk w e p (buTarget s c k w).2 then 2
    else if ringsBad w e p then 3
    else if (cmdCode w == 0x10 && !teStagesOk w p) || (e == .copy && !ceStageOk w p.rings) then 2
    else if !addressesOk w e p (fillStage s c k w) then 5
    else if !targetPresent s c k w e then 4
    else 0

/-! ## Tokens (R112, R113, R117, R206, R210) -/

/-- A token (R113). -/
def tokenWord (w : BitVec 256) (status : Nat) (flags : BitVec 7) (poison : Bool) (value : Nat) : Word :=
  BitVec.ofNat 64 (value % 2 ^ 32 + (if poison then 2 ^ 32 else 0) + flags.toNat * 2 ^ 33 + status * 2 ^ 40
    + cmdTag w * 2 ^ 48)

def tokenElem (v : Word) : Elem := { val := v, poison := false, token := true }

/-- A place of port q8 + `port` for a token: none is held for the port, and it has one that is not reserved. -/
def tokenPlace (s : State) (c k port : Nat) : Bool :=
  tokensHeld s c k (port + 8) == 0
    && decide (takenPlaces s c k (port + 8) < 16)

/-- A token for a q port: pushed, or held while the port is full (R117, R192). -/
def pushToken (s : State) (c k port : Nat) (v : Word) : State :=
  if tokenPlace s c k port then portArrive s c k (port + 8) (tokenElem v)
  else s.modCore c fun r => { r with heldTokens := r.heldTokens ++ [⟨.slot k, port, tokenElem v⟩] }

/-- A token for the pending-entry list of 16, or held while it is full (R210). Port 8 names the list. -/
def pushPending (s : State) (c k : Nat) (v : Word) : State :=
  if (s.slotOf c k).pending.length < 16 && tokensHeld s c k 16 == 0 then
    s.modSlot c k fun x => { x with pending := x.pending ++ [v] }
  else s.modCore c fun r => { r with heldTokens := r.heldTokens ++ [⟨.slot k, 8, tokenElem v⟩] }

/-- The token of an enqw arrives at its waiting thread, and in a pair at both (R205, R444). -/
def postToken (s : State) (c k : Nat) (v : Word) : State :=
  (actsOn s c k).foldl (fun s j =>
    match (s.slotOf c j).wait with
    | .token _ | .row _ => s.modSlot c j fun x => { x with reply := some ⟨v, false⟩ }
    | _ => s) s

/-- The token of a command goes where its done field says, once every write it made has been performed (R112, R206).
A ring fill pushes one only for a status that is not 0. -/
def deliverToken (s : State) (c : Nat) (x : Cmd) (v : Word) : State :=
  match x.owner with
  | .gone _ => s
  | .docked h => s.modCore c fun r =>
      let add := fun (d : DockEntry) => if d.handle == h then
        { d with tokens := d.tokens ++ [⟨x.owner, if x.rd.isSome then 9 else if cmdDone x.word = 2 then 8 else cmdPort x.word,
                                         tokenElem v⟩] } else d
      { r with dock := r.dock.map add, spilled := r.spilled.map add }
  | .slot k =>
    if x.rd.isSome then postToken s c k v
    else match cmdDone x.word with
      | 1 => if bitsOf v 47 40 = 0 then s else pushToken s c k (cmdPort x.word) v
      | 2 => pushPending s c k v
      | _ => pushToken s c k (cmdPort x.word) v

/-- What peers have answered to a requester is no longer kept. -/
def dropAnswers (s : State) (c slot : Nat) : State :=
  { s with peerData := s.peerData.filter fun d => !(d.core == c && d.slot == slot) }

/-- The slot number that a request of a command carries at the port: above those of the threads. -/
def cmdRequester (x : Cmd) : Nat := 8 + x.ident

/-- Requests of some requesters of a core that await translation are dropped. -/
def dropXlate (s : State) (c : Nat) (ks : List Nat) : State :=
  s.modCluster (clusterOf c) fun p => { p with waiting := p.waiting.filter fun q => !(q.core == c && ks.contains q.slot) }

/-- A command completes: it leaves its queue and its token goes out. -/
def completeCmd (s : State) (c : Nat) (e : Engine) (x : Cmd) (status : Nat) (flags : BitVec 7) (poison : Bool) (value : Nat) :
    State :=
  let s := (dropXlate (dropAnswers s c (cmdRequester x)) c [cmdRequester x]).modCore c fun r => r.setQueue e ((r.queue e).filter fun y => y.ident != x.ident)
  deliverToken s c x (tokenWord x.word status flags poison (min value (2 ^ 32 - 1)))

/-- An accepted command refused by its unit: it has no effect other than its token, placed as done = 0b00 directs
(R116, R336; DEDUCED, log entry 34). -/
def refuseLate (s : State) (c : Nat) (e : Engine) (x : Cmd) (status : Nat) (poison : Bool := false) : State :=
  completeCmd s c e { x with word := setBits x.word 244 243 0 } status 0 poison 0

/-! ## enq and enqw (R110, R204, R205) -/

/-- The command word in four registers (R110). -/
def commandWord (s : State) (ra : BitVec 6) : BitVec 256 :=
  (s.me.readG (ra.toNat + 3)) ++ (s.me.readG (ra.toNat + 2)) ++ (s.me.readG (ra.toNat + 1)) ++ (s.me.readG ra.toNat)

/-- The word accepted into its queue. `stage` holds the ring stage of a fill, and the core a bank command goes to. -/
def acceptCmd (e : Engine) (w : BitVec 256) (rd : Option (BitVec 6)) (s : State) : State :=
  let x := s.me
  let (target, rebase) :=
    if e == .bank then buTarget s s.core s.slot w else (fillStage s s.core s.slot w, slotRebase s s.core s.slot)
  let (ident, s) := s.fresh
  let cmd : Cmd :=
    { ident := ident, word := w, owner := .slot s.slot, lid := x.lid, ctag := x.ctag, sg := x.sg, fmt := x.fmt
      sca := x.sca, scb := x.scb, grant := x.grant, rings := x.ring, rebase := rebase, rd := rd
      pc := x.pc, stage := target, started := false, done := [], count := 0, moved := 0, flags := 0, poison := false
      status := 0, value := 0, held := [], barred := none, kept := 0, refused := 0, aged := false }
  s.modCore s.core fun r => r.setQueue e (r.queue e ++ [cmd])

/-- A refused word: its token, placed as done = 0b00 directs, or written to the register of enqw at once (R116, R205).
-/
def refuseCmd (w : BitVec 256) (status : Nat) (rd : Option (BitVec 6)) (s : State) : State :=
  let v := tokenWord w status 0 false 0
  match rd with
  | some r => writeBoundary r v false s s
  | none => doneNext (pushToken s s.core s.slot (cmdPort w) v)

/-- Slot `k` is the first of those of its core that wait for room in a queue, or none waits (R117). -/
def firstToPush (s : State) (c k : Nat) (e : Engine) : Bool :=
  match (s.coreOf c).cmdWaiters.find? fun w => w.1 == e with
  | some w => w.2 == k
  | none => true

/-- The issuing slot waits for room in a queue, in the order in which such waits began. -/
def waitToPush (s : State) (e : Engine) : State :=
  let s := endReservation s s.core s.slot
  let s := s.modCore s.core fun r =>
    if r.cmdWaiters.contains (e, s.slot) then r else { r with cmdWaiters := r.cmdWaiters ++ [(e, s.slot)] }
  pollFor s .engineWait (.queueRoom e)

/-- The word offered to the command port, after the waits of R163, R204 and R212. -/
def offerCmd (w : BitVec 256) (rd : Option (BitVec 6)) (s : State) : State :=
  if !releaseHolds s s.core s.slot then pollFor s .engineWait .release
  else match engineOf (cmdCode w) with
  | none => refuseCmd w 1 rd s
  | some e =>
    let ended := fun (s : State) => endReservation s s.core s.slot
    if 16 ≤ (s.myCore.queue e).length || !firstToPush s s.core s.slot e then waitToPush s e
    else if cmdCode w = 0x25 && ringBusy s s.core s.slot (cmdRing w) then
      pollFor (ended s) .engineWait (.ringFree s.slot (cmdRing w))
    else
      let s := s.modCore s.core fun r => { r with cmdWaiters := r.cmdWaiters.erase (e, s.slot) }
      let status := commandStatus s s.core s.slot rd.isSome w
      if status ≠ 0 then refuseCmd w status rd s
      else
        let s := acceptCmd e w rd s
        match rd with
        | none => doneNext s
        | some r => leaveRotation (ended s) s.core s.slot .engineWait (.token r)

def commandVals (w : BitVec 256) : List Word := [w.extractLsb' 0 64, w.extractLsb' 64 64, w.extractLsb' 128 64, w.extractLsb' 192 64]

def execEnq (ra : BitVec 6) (s : State) : Result :=
  .next (issue (.enq ra) s fun s =>
    outward (commandVals (commandWord s ra)) s (offerCmd (commandWord s ra) none) doneNext)

/-- enqw: in a pair both threads wait for the token (R444). -/
def execEnqw (ra rd : BitVec 6) (s : State) : Result :=
  .next (issue (.enqw ra rd) s fun s =>
    outward (commandVals (commandWord s ra)) s (offerCmd (commandWord s ra) (some rd)) fun s =>
      leaveRotation s s.core s.slot .engineWait (.token rd))

/-- ringrd (R211). -/
def execRingrd (rd : BitVec 6) (n : BitVec 3) (h : BitVec 1) (s : State) : Result :=
  .next (issue (.ringrd rd n h) s fun s =>
    boundaryRead s
      (fun s => writeBoundary rd ((vget s.me.ring 0 n.toNat).extractLsb' (64 * h.toNat) 64) false s s)
      fun v s => writeNext rd v s s)

/-- HELD_TOKEN_PUSH (R117, R192, R210): the first token held for a place takes it when one is free. -/
def execHeldTokenPush (core slot port : Nat) (s : State) : Result :=
  .next (
    match (s.coreOf core).heldTokens.find? fun t => t.owner == .slot slot && t.port == port with
    | none => s
    | some t =>
      let s' := s.modCore core fun r => { r with heldTokens := r.heldTokens.erase t }
      if port = 8 then
        if (s.slotOf core slot).pending.length < 16 then
          s'.modSlot core slot fun x => { x with pending := x.pending ++ [t.elem.val] }
        else s
      else if takenPlaces s core slot (port + 8) < 16 then
        wakePushers (portArrive s' core slot (port + 8) t.elem) core slot (port + 8)
      else s)

/-- COMPLETION_HANDLER_ENTRY (R210): the oldest pending entry is taken when the thread is runnable, in no handler and
about to issue. -/
def enterCompletion (s : State) (c k : Nat) : State :=
  let x := s.slotOf c k
  match x.pending with
  | [] => s
  | v :: rest =>
    if x.status == .runnable && x.handler == .outside && !x.midway && x.push.isNone && x.latch.isEmpty && x.vec.isNone then
      let s := s.modSlot c k fun x =>
        { x with pending := rest, hlink := x.pc, pc := x.hbase, winG := vset x.winG 0 v, handler := .completion
                 status := .handler }
      receive s c k (tokenElem v)
    else s

def execCompletionHandlerEntry (core slot : Nat) (s : State) : Result := .next (enterCompletion s core slot)

/-! ## Engine accesses to global memory (R276, R383, R385, R462) -/

/-- Where an engine's access goes: an address and policy; no address (R462); held on a page fault with a key; or it
waits, for a walk or for the host's translation (R383, R397). -/
inductive EngAddr where
  | ok (pa : Nat) (policy : Policy)
  | range
  | held (key : BitVec 32)
  | wait
  deriving DecidableEq, Repr

/-- The source byte of a command's fault record (R386). -/
def cmdSource (x : Cmd) : Nat :=
  match x.owner with
  | .slot k => 8 + k
  | _ => 8

/-- The request of a command at its port for the page of an address, and the command's page request to the host. -/
def requestOf (s : State) (c : Nat) (x : Cmd) (va : Nat) : Option XlateReq :=
  (s.clusterAt (clusterOf c)).waiting.find? fun q => q.core == c && q.slot == cmdRequester x && q.va / 2 ^ 16 == va / 2 ^ 16

def pageRequestOf (s : State) (c : Nat) (x : Cmd) (va : Nat) : Option PageReq :=
  s.pageReqs.find? fun q => q.engine && q.core == c && q.slot == cmdRequester x && q.va / 2 ^ 16 == va / 2 ^ 16

/-- An engine's miss joins the requests of its port, and its burst waits for the walk, or for the host (R383, R397). A walk that has
failed holds the burst at the port under a key of its own, with one record (R385), and so does a page that the host is asked for. -/
def missFor (s : State) (c : Nat) (x : Cmd) (va : Nat) (r w : Bool) : EngAddr × State :=
  let cl := clusterOf c
  let drop := fun (s : State) (q : XlateReq) => s.modCluster cl fun p => { p with waiting := p.waiting.erase q }
  match pageRequestOf s c x va, requestOf s c x va with
  | some q, some q' => (.held q.key, drop s q')
  | some q, none => (.held q.key, s)
  | none, none =>
    let q : XlateReq := { core := c, slot := cmdRequester x, ctag := x.ctag, va := va, read := r, write := w, exec := false }
    (.wait, s.modCluster cl fun p => { p with waiting := p.waiting ++ [q] })
  | none, some q =>
    match q.failed with
    | none => (.wait, s)
    | some (kind, level) =>
      if recordRoom s cl then
        let (key, s) := assignKey (drop s q) cl
        (.held key, queueRecord s cl x.ctag
          (faultData q.va key c (cmdSource x) kind (accessByte q.read q.write false) level x.ctag x.lid 0))
      else (.wait, s)

/-- An engine access translated. -/
def translateFor (s : State) (c : Nat) (x : Cmd) (va : Nat) (r w : Bool) : EngAddr × State :=
  match (if x.barred == some va then .badRange else translate s (clusterOf c) x.ctag va r w false) with
  | .hit pa pol => (.ok pa pol, s)
  | .badRange => (.range, s)
  | .miss => missFor s c x va r w

/-- Whether a command's next access waits for a yield point is noted with the command. -/
def noteWait (s : State) (c : Nat) (x : Cmd) (w : Option Nat) : State :=
  match engineOf (cmdCode x.word) with
  | some e => modCmd s c e x.ident fun y => { y with waits := w }
  | none => s

/-- The same, waiting while a sequence holds the bank (R337) or requests to a peer have to drain (R411). -/
def engineAddress (s : State) (c : Nat) (x : Cmd) (va : Nat) (r w : Bool) : EngAddr × State :=
  match translateFor s c x va r w with
  | (.ok pa pol, s) =>
    let drains := match apertureOf s pa with
      | some (rank, _) => peerHeld s x.ctag rank
      | none => false
    if bankBusy s pa then (.wait, noteWait s c x (some pa))
    else if drains then (.wait, noteWait s c x none)
    else (.ok pa pol, noteWait s c x none)
  | other => other

/-- Pieces of `n` bytes at `a` that lie within a line of 32 bytes each. -/
def linePieces (a n : Nat) : List (Nat × Nat) :=
  (List.range ((a % 32 + n + 31) / 32)).map fun i =>
    let b := max a (a / 32 * 32 + 32 * i)
    (b, min (a + n) (a / 32 * 32 + 32 * i + 32) - b)

/-- Pieces of at most 8 bytes, as requests to a peer carry them. -/
def wordPieces (a n : Nat) : List (Nat × Nat) :=
  (List.range ((a % 8 + n + 7) / 8)).map fun i =>
    let b := max a (a / 8 * 8 + 8 * i)
    (b, min (a + n) (a / 8 * 8 + 8 * i + 8) - b)

/-- What a read brings: its bytes as a number, and the 4-byte words of it, counted from its start, that were poisoned. -/
abbrev Bytes := Nat × List Nat

/-- The words that a piece of a read touches. -/
def pieceWords (at_ n : Nat) : List Nat := (List.range ((at_ + n + 3) / 4 - at_ / 4)).map fun i => at_ / 4 + i

/-- `n` bytes of global memory read in pieces that lie within a line (R276). -/
def readLines (s : State) (cl : Nat) (pol : Policy) (pa n : Nat) : Bytes × State :=
  (linePieces pa n).foldl (fun (acc : Bytes × State) (a, m) =>
    let (v, p, s) := burstLoad acc.2 cl pol a m
    let bad := (pieceWords (a - pa) m).filter fun i => s.poisonHere (pa + 4 * i) 4 true
    ((acc.1.1 + v * 2 ^ (8 * (a - pa)), if p then acc.1.2 ++ bad else acc.1.2), s)) ((0, []), s)

/-- How bytes within a line are written at their place under a policy. -/
abbrev LinePut := State → Nat → Policy → Nat → Nat → Nat → Bool → State

/-- `n` bytes written to global memory line by line, as `put` writes within a line (R276, R435); the poison of the bytes
from `i` on is `marks i`. The reservations and watches of the granules end, for a COMBINE page when the bytes leave the port's
buffer (R150). -/
def storeLines (put : LinePut) (s : State) (cl : Nat) (pol : Policy)
    (pa n v : Nat) (marks : Nat → Nat → Bool) : State :=
  let s := (linePieces pa n).foldl (fun s (a, m) =>
    put s cl pol a m (v / 2 ^ (8 * (a - pa)) % 2 ^ (8 * m)) (marks (a - pa) m)) s
  if pol = .combine then s else noteGlobal s pa n (pol == .direct)

/-- A copy burst's write. -/
def writeLines (s : State) (cl : Nat) (pol : Policy) (pa n v : Nat) (marks : Nat → Nat → Bool) : State :=
  storeLines burstStore s cl pol pa n v marks

/-- The write of a result (DEDUCED, log entry 134). -/
def resultLines (s : State) (cl : Nat) (pol : Policy) (pa n v : Nat) (marks : Nat → Nat → Bool) : State :=
  storeLines resultStore s cl pol pa n v marks

/-- The write of a record or of a collective's result, which clears no poison (R435). -/
def recordLines (s : State) (cl : Nat) (pol : Policy) (pa n v : Nat) (marks : Nat → Nat → Bool) : State :=
  storeLines recordStore s cl pol pa n v marks

/-! ## Requests of engines and fetches to a peer (R407) -/

/-- A requester has unanswered requests to peers. -/
def asksPeer (s : State) (c slot : Nat) : Bool := s.peerReqs.any fun q => q.flight.core == c && q.flight.slot == slot

/-- What a peer has answered to a requester about an address. -/
def peerWord (s : State) (c slot rank a : Nat) : Option PeerData :=
  s.peerData.find? fun d => d.core == c && d.slot == slot && d.rank == rank && d.addr == a

/-- A request for a doubleword or part of one leaves for a peer; its answer is kept for the requester, or nobody waits for it. -/
def askPeer (keep : Bool) (c slot : Nat) (ctag : BitVec 4) (rank : Nat) (lid : BitVec 32)
    (store : Option (Nat → Nat → Nat × Bool)) (pa : Nat) (s : State) (piece : Nat × Nat) : State :=
  let (a, m) := piece
  let (ident, s) := s.fresh
  let (v, poison) := (store.map fun f => f (a - pa) m).getD (0, false)
  let f : Flight := { core := c, slot := slot, kind := if store.isSome then .store else .load false, target := .peer rank a
                      n := m, ident := ident, data := BitVec.ofNat 64 v, lane := some (if keep then 64 else 65), ctag := ctag, lid := lid }
  sendToRank (notePeer s ctag rank f) ctag rank 1 poison (.request ident (BitVec.ofNat 52 a) (peerOp f))

/-- The bytes that the answers to a requester bring, if they are all there. -/
def answered (s : State) (c slot rank pa n : Nat) : Option Bytes :=
  if (wordPieces pa n).all fun x => (peerWord s c slot rank x.1).isSome then
    some ((wordPieces pa n).foldl (fun (acc : Bytes) (a, m) =>
      match peerWord s c slot rank a with
      | some d => (acc.1 + d.val.toNat % 2 ^ (8 * m) * 2 ^ (8 * (a - pa)), if d.poison then acc.2 ++ pieceWords (a - pa) m else acc.2)
      | none => acc) (0, []))
  else none

/-- A read, or the write of what `store` gives, at a peer: nothing yet while its requests are out. A peer that cannot be
reached gives poisoned zeros and takes nothing (R285). The answers are kept until the requester has all that it wants. -/
def peerTransfer (s : State) (c slot : Nat) (ctag : BitVec 4) (lid : BitVec 32) (rank pa n : Nat) (store : Option (Nat → Nat → Nat × Bool)) :
    Option Bytes × State :=
  if asksPeer s c slot then (none, s)
  else match answered s c slot rank pa n with
    | some r => (some r, s)
    | none =>
      if !peerReachable s ctag rank then (some (0, pieceWords 0 n), s)
      else if peerHeld s ctag rank then (none, s)
      else (none, (wordPieces pa n).foldl (askPeer true c slot ctag rank lid store pa) s)

/-! ## Blocks in another core's scratchpad (R267, R270) -/

/-- A thread's accesses to a block are on their way. -/
def asksBank (s : State) (c k : Nat) : Bool := s.flights.any fun f => f.core == c && f.slot == k && f.lane == some 64

/-- A block in the scratchpad of core `d`, read by a thread or written as `store` gives: an access for each doubleword or part of
one, whose answers are kept until they are all there. -/
def bankTransfer (s : State) (c k d off n : Nat) (store : Option (Nat → Nat → Nat × Bool)) : Option Bytes × State :=
  let x := s.slotOf c k
  let request := fun (p : Nat × Nat) =>
    let (v, poison) := (store.map fun f => f (p.1 - off) p.2).getD (0, false)
    ({ core := c, slot := k, kind := if store.isSome then .store else .load false, target := .bank d p.1, n := p.2
       data := BitVec.ofNat 64 v, lane := some 64, ctag := x.ctag, lid := x.lid, spoiled := poison } : Flight)
  if asksBank s c k then (none, s)
  else match answered s c k (bankKey d) off n with
    | some r => (some r, s)
    | none => (none, { s with flights := s.flights ++ (wordPieces off n).map request })

/-! ## Page-table walks (R377–R380) -/

/-- The outcome of a walk: a leaf found, or why and at which level it failed (R386), or that it
has to wait: for a table line that the host holds, for a bank that a sequence holds, or for a peer's answer
(R337, R399, R407). -/
inductive Walked where
  | leaf (e : TlbEntry) (s : State)
  | failed (kind level : Nat) (s : State)
  | snooped (s : State)

/-- The requester under which the walks of a port ask a peer: no core and slot (R407). -/
def walkAsker (cl : Nat) : Nat × Nat := (1281 + cl, 8)

/-- An entry of a page table, with its poison, or nothing yet. -/
def walkEntry (s : State) (cl : Nat) (ctag : BitVec 4) (at_ : Nat) : Option (Nat × Bool) × State :=
  match apertureOf s at_ with
  | some (rank, there) =>
    let (r, s) := peerTransfer s (walkAsker cl).1 (walkAsker cl).2 ctag 0 rank there 8 none
    (r.map fun b => (b.1, !b.2.isEmpty), s)
  | none =>
    if arrayBlocked s .homed at_ then (none, s)
    else let (v, p, s) := homeLoad s .homed at_ 8; (some (v, p), s)

/-- A page-table entry written back with A or D, if it can be now. -/
def writeEntryBack (s : State) (cl : Nat) (ctag : BitVec 4) (at_ v : Nat) : Bool × State :=
  match apertureOf s at_ with
  | some (rank, there) =>
    if peerHeld s ctag rank then (false, s)
    else if peerReachable s ctag rank then
      (true, askPeer false (walkAsker cl).1 (walkAsker cl).2 ctag rank 0 (some fun _ _ => (v, false)) there s (there, 8))
    else (true, s)
  | none => match snoopBlocked s at_ 8 with
    | (true, s) => (false, s)
    | (false, s) => (true, noteGlobal (homeStore s .homed at_ 8 v none) at_ 8)

/-- The levels still to be walked, from a table at `table` (R377–R380). The leaf gets A, and D for a write. -/
def walkFrom (ctx : Context) (cl : Nat) (ctag : BitVec 4) (va : Nat) (r w x : Bool) : List Nat → Nat → State → Walked
  | [], _, s => .failed 3 3 s
  | level :: rest, table, s =>
    let at_ := table + 8 * walkIndex va level
    match walkEntry s cl ctag at_ with
    | (none, s) => .snooped s
    | (some (v, p), s) =>
      let e : Word := BitVec.ofNat 64 v
      if p then .failed 4 level s
      else if !bitAt e 0 then .failed 1 level s
      else if entryMalformed e level then .failed 3 level s
      else if !bitAt e 1 then walkFrom ctx cl ctag va r w x rest (bitsOf e 51 12 * 2 ^ 12) s
      else if (r && !bitAt e 2) || (w && !bitAt e 3) || (x && !bitAt e 4) then .failed 2 level s
      else
        let e' := setBits (if w then setBits e 6 6 1 else e) 5 5 1
        match (if e' = e then (true, s) else writeEntryBack s cl ctag at_ e'.toNat) with
        | (false, s) => .snooped s
        | (true, s) =>
          let size := leafSize level
          .leaf { tag := ctx.tlbTag ctag, hostProcess := false, page := va / 2 ^ pageBits size * 2 ^ pageBits size
                  size := size, pa := bitsOf e 51 12 * 2 ^ 12, policy := policyOf (bitsOf e 8 7)
                  r := bitAt e 2, w := bitAt e 3, x := bitAt e 4, d := bitAt e' 6 } s

/-- A page-table walk of a context (R377). -/
def walk (s : State) (cl : Nat) (ctag : BitVec 4) (va : Nat) (r w x : Bool) : Walked :=
  let ended := fun (s : State) => dropAnswers s (walkAsker cl).1 (walkAsker cl).2
  match (s.clusterAt cl).contexts.find? ctag.toNat with
  | none => .failed 1 0 s
  | some ctx =>
    match walkFrom ctx cl ctag va r w x [0, 1, 2, 3] ctx.root.toNat s with
    | .leaf e s => .leaf e (installTlb (ended s) cl e)
    | .failed kind level s => .failed kind level (ended s)
    | .snooped s => .snooped s

/-! ## Reads and writes of an engine -/

/-- What an access of an engine comes to. -/
inductive EngDone (α : Type) where
  | ok (a : α) (s : State)
  | range (s : State)
  | held (key : BitVec 32) (s : State)
  | wait (s : State)

def EngDone.map {α β : Type} (f : α → β) : EngDone α → EngDone β
  | .ok a s => .ok (f a) s
  | .range s => .range s
  | .held k s => .held k s
  | .wait s => .wait s

/-- What a transfer with a peer comes to. -/
def ofPeer {α : Type} (f : Bytes → α) : Option Bytes × State → EngDone α
  | (some r, s) => .ok (f r) s
  | (none, s) => .wait s

/-- A read of `n` bytes that lie within one page, by an engine other than the copy engine. -/
def engineRead (s : State) (c : Nat) (x : Cmd) (va n : Nat) : EngDone Bytes :=
  match engineAddress s c x va true false with
  | (.range, s) => .range s
  | (.held k, s) => .held k s
  | (.wait, s) => .wait s
  | (.ok pa pol, s) =>
    match apertureOf s pa with
    | some (rank, there) => ofPeer id (peerTransfer s c (cmdRequester x) x.ctag x.lid rank there n none)
    | none => let (r, s) := readLines s (clusterOf c) pol pa n; .ok r s

/-- A write of `n` bytes that lie within one page, of a result. It waits while the host holds a copy of a line (R399). The
answer says that a peer did not take it. -/
def engineWrite (put : LinePut) (s : State) (c : Nat) (x : Cmd) (va n v : Nat) (marks : Nat → Nat → Bool) : EngDone Bool :=
  match engineAddress s c x va false true with
  | (.range, s) => .range s
  | (.held k, s) => .held k s
  | (.wait, s) => .wait s
  | (.ok pa pol, s) =>
    match apertureOf s pa with
    | some (rank, there) =>
      ofPeer (fun r => !r.2.isEmpty)
        (peerTransfer s c (cmdRequester x) x.ctag x.lid rank there n (some fun i m => (v / 2 ^ (8 * i) % 2 ^ (8 * m), marks i m)))
    | none => match snoopBlocked s pa n with
      | (true, s) => .wait s
      | (false, s) => .ok false (storeLines put s (clusterOf c) pol pa n v marks)

/-- Several reads of one command, block by block (R349). -/
def readParts (c : Nat) (x : Cmd) (va n : Nat) : List Nat → State → EngDone Bytes
  | [], s => .ok (0, []) s
  | j :: rest, s =>
    let a := max va ((va / 256 + j) * 256)
    match engineRead s c x a (min (va + n) ((va / 256 + j + 1) * 256) - a) with
    | .ok (v, p) s =>
      (readParts c x va n rest s).map fun (w, q) => (v * 2 ^ (8 * (a - va)) + w, p.map (fun i => (a - va) / 4 + i) ++ q)
    | other => other

/-- What a command has of the peers is no longer kept once its access is whole. -/
def EngDone.close {α : Type} (c : Nat) (x : Cmd) : EngDone α → EngDone α
  | .ok a s => .ok a (dropAnswers s c (cmdRequester x))
  | other => other

/-- A read of `n` bytes by a command. -/
def readRange (s : State) (c : Nat) (x : Cmd) (va n : Nat) : EngDone Bytes :=
  (readParts c x va n (List.range ((va % 256 + n + 255) / 256)) s).close c x

/-- Several writes of one command, block by block; the answer says that a peer took one of them not. -/
def writeParts (put : LinePut) (c : Nat) (x : Cmd) (va n v : Nat) (marks : Nat → Nat → Bool) :
    List Nat → State → EngDone Bool
  | [], s => .ok false s
  | j :: rest, s =>
    let a := max va ((va / 256 + j) * 256)
    let m := min (va + n) ((va / 256 + j + 1) * 256) - a
    match engineWrite put s c x a m (v / 2 ^ (8 * (a - va)) % 2 ^ (8 * m)) (fun i l => marks (a - va + i) l) with
    | .ok lost s => (writeParts put c x va n v marks rest s).map (lost || ·)
    | other => other

/-- A write of `n` bytes by a command. -/
def writeRange (put : LinePut) (s : State) (c : Nat) (x : Cmd) (va n v : Nat) (marks : Nat → Nat → Bool) : EngDone Bool :=
  (writeParts put c x va n v marks (List.range ((va % 256 + n + 255) / 256)) s).close c x

/-- Engines start nothing new for a command of a halted slot while dbgctl.efrz = 1 (R244), and no copy of a slot that
dock.out is about to save (R392). -/
def frozen (s : State) (c : Nat) (x : Cmd) : Bool :=
  match x.owner with
  | .slot k =>
    ((s.coreOf c).efrz && (s.slotOf c k).status == .halted)
      || ((s.slotOf c k).docking && !x.started && engineOf (cmdCode x.word) == some .copy)
  | _ => false

end Sys2Proof.Machine
end

