-- ==== Sys2Proof/Machine/Arbiter.lean ====
section
/-!
DEFINITION. The banks of a scratchpad and who is served (R18, R207, R269, R270, R298): where the transfers of a copy, the
stages of a te.mma and the elements of a bank-unit run stand, which requesters have waited long enough to go first, and the
order of the commands that have reached a bank.
-/

namespace Sys2Proof.Machine

/-- Two ranges overlap; an empty range overlaps nothing. -/
def rangesMeet (a n b m : Nat) : Bool := decide (0 < n) && decide (0 < m) && decide (a < b + m) && decide (b < a + n)

/-! ## Transfers of a copy (R214) -/

/-- The scratchpad offset of row `r`, rebased (R214, R395). -/
def copyScratch (x : Cmd) (r : Nat) : Nat := ceScratch x.word (ceBase x.word x.rings x.stage) r + x.rebase

/-- Burst `j` of `n` bytes at address `p`: where it begins and its length; a burst lies in one block of 256 bytes. -/
def burstPart (p n j : Nat) : Nat × Nat :=
  let a := max p ((p / 256 + j) * 256)
  (a, min (p + n) ((p / 256 + j + 1) * 256) - a)

/-- The number of bursts of `n` bytes at `p`. -/
def burstCount (p n : Nat) : Nat := (p % 256 + n + 255) / 256

/-- Bursts are numbered by row and place in the row. -/
def burstNumber (row chunk : Nat) : Nat := row * 2 ^ 14 + chunk

/-- The address that a row's bursts are cut by: global, or, for a scratchpad fill, the scratchpad offset. -/
def rowAddress (x : Cmd) (r : Nat) : Option Nat :=
  if cmdCode x.word = 0x24 ∧ !ceDir x.word then some (copyScratch x r)
  else rangeOf x.sg (ceGlobal x.word r) (cmdA x.word) (!ceDir x.word) (ceDir x.word)

/-- Every burst of a command by rows. -/
def allBursts (x : Cmd) : List (Nat × Nat) :=
  (List.range (ceCount x.word)).flatMap fun r =>
    (List.range (burstCount ((rowAddress x r).getD 0) (cmdA x.word))).map fun j => (r, j)

/-- Burst `chunk` of row `row` is still to be done and not held on a page fault. -/
def burstDue (x : Cmd) (row chunk : Nat) : Bool :=
  (allBursts x).contains (row, chunk) && !x.done.contains (burstNumber row chunk)
    && !(x.held.any fun h => h.1 == burstNumber row chunk)

/-- The copy moves elements through an index table. -/
def isTable (x : Cmd) : Bool := cmdCode x.word == 0x22 || cmdCode x.word == 0x23

/-- The copy moves a ring descriptor. -/
def isDescriptor (x : Cmd) : Bool := cmdCode x.word == 0x25 || cmdCode x.word == 0x26

/-- The scratchpad bytes of a burst: where they begin and how many. A fill of global memory has none. -/
def burstPad (x : Cmd) (row chunk : Nat) : Nat × Nat :=
  if cmdCode x.word = 0x24 ∧ ceDir x.word then (0, 0)
  else
    let p := (rowAddress x row).getD 0
    let (a, n) := burstPart p (cmdA x.word) chunk
    (copyScratch x row + (a - p), n)

/-- The scratchpad bytes that a copy has still to move, part by part. -/
def padLeft (x : Cmd) : List (Nat × Nat) :=
  if isTable x then
    ((List.range (ceCount x.word)).filter fun i => decide (x.count ≤ i)).map fun i => (copyScratch x i, cmdA x.word)
  else if isDescriptor x then (if x.count = 0 then [(ceSoff x.word + x.rebase, 16)] else [])
  else ((allBursts x).filter fun b => !x.done.contains (burstNumber b.1 b.2)).map fun b => burstPad x b.1 b.2

/-- Every part of a copy has been performed. -/
def partsDone (x : Cmd) : Bool :=
  if isDescriptor x then x.count == 1
  else if isTable x then x.count == ceCount x.word
  else x.done.length == (allBursts x).length

/-- A copy has nothing left to do: its parts are done or it has met a failing address (R462), and no peer owes it an answer. -/
def copyOver (s : State) (c : Nat) (x : Cmd) : Bool := (x.status == 5 || partsDone x) && !asksPeer s c (cmdRequester x)

/-! ## What parts of copies touch (R207) -/

/-- The bytes that a part of a copy reads and writes, in the scratchpad and beyond it by physical address; `far` where its
global bytes have no address yet. -/
structure Touch where
  reads : List (Nat × Nat) := []
  writes : List (Nat × Nat) := []
  far : Bool := false

/-- The global bytes of an access by their physical address, if it is in the port's TLB. -/
def globalAt (s : State) (c : Nat) (x : Cmd) (va n : Nat) : Option (Nat × Nat) :=
  match translate s (clusterOf c) x.ctag va (!ceDir x.word) (ceDir x.word) false with
  | .hit pa _ => some (pa, n)
  | _ => none

/-- The touch of a transfer between scratchpad bytes and global ones. -/
def touchOf (x : Cmd) (pad : List (Nat × Nat)) (glob : List (Option (Nat × Nat))) : Touch :=
  let near := glob.filterMap id
  if ceDir x.word then { reads := pad, writes := near, far := glob.any Option.isNone }
  else { reads := near, writes := pad, far := glob.any Option.isNone }

/-- What a burst touches. -/
def burstTouch (s : State) (c : Nat) (x : Cmd) (b : Nat × Nat) : Touch :=
  let (off, n) := burstPad x b.1 b.2
  let pad := if n = 0 then [] else [(padAddr c off, n)]
  if cmdCode x.word = 0x24 ∧ !ceDir x.word then touchOf x pad []
  else
    let (a, m) := burstPart ((rowAddress x b.1).getD 0) (cmdA x.word) b.2
    touchOf x pad [globalAt s c x a m]

/-- The index word of element `i` and its poison. -/
def indexWord (s : State) (c : Nat) (x : Cmd) (i : Nat) : Nat × Bool :=
  s.load (padAddr c (bitsOf x.word 84 64 + x.rebase + 4 * i)) 4

/-- The device virtual address of element `i` of ce.gth or ce.sct (R213). -/
def elementAddress (s : State) (c : Nat) (x : Cmd) (i : Nat) : Option Nat :=
  let n := cmdA x.word
  rangeOf x.sg (cmdAddr x.word + BitVec.ofNat 64 ((indexWord s c x i).1 * n)) n (!ceDir x.word) (ceDir x.word)

/-- What element `i` touches. -/
def elementTouch (s : State) (c : Nat) (x : Cmd) (i : Nat) : Touch :=
  let n := cmdA x.word
  let t := touchOf x [(padAddr c (copyScratch x i), n)] (match elementAddress s c x i with
    | some p => (List.range (burstCount p n)).map fun j => let (a, m) := burstPart p n j; globalAt s c x a m
    | none => [])
  { t with reads := (padAddr c (bitsOf x.word 84 64 + x.rebase + 4 * i), 4) :: t.reads }

/-- What a ring descriptor's move touches. -/
def descriptorTouch (c : Nat) (x : Cmd) : Touch :=
  let pad := [(padAddr c (ceSoff x.word + x.rebase), 16)]
  if cmdCode x.word = 0x25 then { reads := pad } else { writes := pad }

/-- The scratchpad bytes of a copy's bursts that a peer has been asked for and that have not come (R407). -/
def askedBytes (s : State) (c : Nat) (x : Cmd) : List (Nat × Nat) :=
  (s.peerReqs.filter fun q => q.flight.core == c && q.flight.slot == cmdRequester x && q.flight.lane.isNone
      && q.flight.kind == .load false).map fun q => (padAddr c q.flight.expected.toNat, q.flight.n)

/-- The bytes that a copy has still to write by parts that are not performed. -/
def partWrites (s : State) (c : Nat) (x : Cmd) : Touch :=
  let pads : Touch := { writes := (padLeft x).map fun b => (padAddr c b.1, b.2) }
  if x.status == 5 || cmdCode x.word == 0x25 then {}
  else if cmdCode x.word == 0x26 then pads
  else if isTable x then (if ceDir x.word then { far := decide (x.count < ceCount x.word) } else pads)
  else
    let l := ((allBursts x).filter fun b => !x.done.contains (burstNumber b.1 b.2)).map (burstTouch s c x)
    { writes := l.flatMap Touch.writes, far := ceDir x.word && l.any Touch.far }

/-- The bytes that a copy has still to write. -/
def writesLeft (s : State) (c : Nat) (x : Cmd) : Touch :=
  let t := partWrites s c x
  { t with writes := t.writes ++ askedBytes s c x }

/-- A part meets what an earlier copy has still to write. -/
def Touch.meets (earlier t : Touch) : Bool :=
  let mine := t.reads ++ t.writes
  let isFar := fun (b : Nat × Nat) => decide (b.1 < 2 ^ 52)
  (earlier.writes.any fun b => mine.any fun d => rangesMeet b.1 b.2 d.1 d.2)
    || (earlier.far && (t.far || mine.any isFar)) || (t.far && earlier.writes.any isFar)

/-- A fill waits until its stage is empty. That of a killed slot waits only for a te.mma of that slot which is to read the ring
(log entry 33). -/
def mayStart (s : State) (c : Nat) (x : Cmd) : Bool :=
  x.started || cmdDone x.word != 1 || !ringFull (ringOf s c x (cmdRing x.word)) x.stage || (match x.owner with
    | .gone _ => !((s.coreOf c).tileQ.any fun y => y.owner == x.owner && namesRing y (cmdRing x.word))
    | _ => false)

/-- A copy has started, or starts now that those before it have: what its first part waits for delays only that part. -/
def startsNow (s : State) (c : Nat) (x : Cmd) : Bool := x.started || (mayStart s c x && !frozen s c x)

/-- Command `i` of a copy queue may perform a part: every earlier one has started, and it meets nothing that one of them has
still to write. -/
def mayOvertake (s : State) (c i : Nat) (t : State → Touch) : Bool :=
  ((s.coreOf c).copyQ.take i).all fun y => (startsNow s c y && !(writesLeft s c y).meets (t s))

/-! ## Copies that wait behind a held one (R392) -/

/-- What a copy has still to move: of one through an index table the next element. -/
def partsLeft (s : State) (c : Nat) (x : Cmd) : Touch :=
  if isTable x then elementTouch s c x x.count
  else
    let l := ((allBursts x).filter fun b => !x.done.contains (burstNumber b.1 b.2)).map (burstTouch s c x)
    { reads := l.flatMap Touch.reads, writes := l.flatMap Touch.writes, far := l.any Touch.far }

/-- No copy of slot `j` that has started is still moving, of the rest of a queue behind the copies `stuck`: it has moved
everything, is held at the port, or has to wait for what a stuck one is still to write. -/
def copiesRest (s : State) (c j : Nat) : List Cmd → List Cmd → Bool
  | _, [] => true
  | stuck, x :: rest =>
    if !x.started || copyOver s c x then copiesRest s c j stuck rest
    else if !x.held.isEmpty || (!isDescriptor x && stuck.any fun y => (writesLeft s c y).meets (partsLeft s c x)) then
      copiesRest s c j (stuck ++ [x]) rest
    else x.owner != .slot j && copiesRest s c j stuck rest

/-! ## Bank-unit runs (R219–R222) -/

/-- The run of a command at its target, which acceptance resolved (R116, R395). -/
def runOf (x : Cmd) : Run :=
  { code := cmdCode x.word, opa := cmdA x.word, opb := cmdB x.word, fop := buFopCode x.word, core := x.stage
    addr := buAddr x.word + x.rebase, count := buCount x.word, aux := buAux x.word + x.rebase, tile := none }

/-- The command is element-wise (R220). -/
def isElementWise (code : Nat) : Bool :=
  (decide (0x30 ≤ code) && decide (code ≤ 0x34)) || code == 0x39 || code == 0x3B || code == 0x3C

/-- The bank of element `e`, and the elements that a bank holds, in increasing order (R270). -/
def Run.bank (r : Run) (e : Nat) : Nat := bankAt (r.addr + 4 * e)
def Run.elements (r : Run) (bank : Nat) : List Nat := (List.range r.count).filter fun e => r.bank e == bank

/-- How far a run has come: of an element-wise one, the bank of each element done; of another, the elements or rows done. -/
structure Progress where
  done : List Nat
  next : Nat
  started : Bool

/-- Elements done by a bank. -/
def Progress.at_ (p : Progress) (bank : Nat) : Nat := (p.done.filter fun b => b == bank).length

/-- The next element of an element-wise run at a bank. -/
def Run.nextAt (r : Run) (p : Progress) (bank : Nat) : Option Nat := (r.elements bank)[p.at_ bank]?

/-- The elements that are done when `next` steps of a run are: rows of L words for bu.topk, else elements. -/
def Run.passed (r : Run) (next : Nat) : Nat := if r.code = 0x3A then next * r.opa else next

/-- The scratchpad banks of a run's state words. -/
def Run.stateBanks (r : Run) : List Nat := if r.tile.isSome then [] else banksAt r.aux (stateBytes r.code r.count)

/-- The run has words to do at a bank. -/
def Run.leftAt (r : Run) (p : Progress) (bank : Nat) : Bool :=
  if isElementWise r.code then decide (p.at_ bank < (r.elements bank).length)
  else
    let from_ := r.passed p.next
    decide (from_ < r.count) && (r.stateBanks.contains bank || (List.range r.count).any fun e => decide (from_ ≤ e) && r.bank e == bank)

/-- The run has reached a bank and not left it: an element-wise one once it has executed an element there, a stateful one at all
its banks once it has started (R298). When a command reaches a bank is no more fixed than that (log entry 135). -/
def Run.standsAt (r : Run) (p : Progress) (bank : Nat) : Bool :=
  r.leftAt p bank && (if isElementWise r.code then p.done.contains bank else p.started)

def Cmd.progress (x : Cmd) : Progress := ⟨x.done, x.count, x.started⟩
def BankRun.progress (x : BankRun) : Progress := ⟨x.done, x.next, x.started⟩

/-- Who runs elements at a bank: a command, by its core and identifier, or a capsule's bank step, by its core and buffer. -/
inductive Runner where
  | command (core ident : Nat)
  | capsule (core buf : Nat)
  | atomic
  deriving DecidableEq, Repr

/-- The runs at the banks of core `p`. -/
def runsAt (s : State) (p : Nat) : List (Runner × Run × Progress) :=
  let cmds := s.cores.entries.flatMap fun e =>
    (e.2.bankQ.filter fun x => x.stage == p).map fun x => (Runner.command e.1 x.ident, runOf x, x.progress)
  let caps := (List.range 6).filterMap fun b =>
    match vget (s.coreOf p).bufs .free b with
    | .banking r => some (Runner.capsule p b, r.run, r.progress)
    | _ => none
  cmds ++ caps

/-- No other run stands at a bank of core `p` (R298). -/
def reaches (s : State) (p bank : Nat) (who : Runner) : Bool :=
  !((runsAt s p).any fun x => x.1 != who && x.2.1.standsAt x.2.2 bank)

/-- The banks that a run needs for its next step: of a stateful one, all that it has words at, before it starts. -/
def Run.needs (r : Run) (p : Progress) (bank : Nat) : List Nat :=
  if isElementWise r.code then [bank] else if p.started then [] else (List.range 32).filter fun b => r.leftAt p b

/-! ## Aged requesters (R269) -/

/-- The stage of te.mma's rings that the tile engine reads next. -/
def stageBanks (s : State) (c : Nat) (x : Cmd) (ring f rows : Nat) : List Nat :=
  let q := ringOf s c x ring
  banksAt (ringBase q + x.rebase + ringHead q * ringStage q) (rows * rowBytes f)

/-- The global side of a transfer of `n` bytes at `va` is ready: it is translated, no sequence holds its bank, no peer has to be
waited for, and the host holds no line that is to be written. -/
def globalReady (s : State) (c : Nat) (x : Cmd) (va n : Nat) : Bool :=
  match translate s (clusterOf c) x.ctag va (!ceDir x.word) (ceDir x.word) false with
  | .hit pa _ => !bankBusy s pa && !(ceDir x.word && (snoopBlocked s pa n).1)
      && !((apertureOf s pa).any fun a => peerHeld s x.ctag a.1)
  | _ => false

/-- A burst of a copy can be performed but for its banks. -/
def burstReady (s : State) (c : Nat) (x : Cmd) (b : Nat × Nat) : Bool :=
  if cmdCode x.word = 0x24 ∧ !ceDir x.word then true
  else
    match rowAddress x b.1 with
    | none => false
    | some p => let (a, n) := burstPart p (cmdA x.word) b.2; globalReady s c x a n

/-- The next element of a gather or a scatter can be performed but for its banks. -/
def elementReady (s : State) (c : Nat) (x : Cmd) : Bool :=
  match elementAddress s c x x.count with
  | none => false
  | some p => (List.range (burstCount p (cmdA x.word))).all fun j => let (a, m) := burstPart p (cmdA x.word) j; globalReady s c x a m

/-- The scratchpad bytes that the next part of a copy of a core needs, and what it touches: a copy that is held or has to wait for
something else needs none. -/
def copyNext (s : State) (c : Nat) (x : Cmd) : Option ((Nat × Nat) × Touch) :=
  if x.status == 5 then none
  else if isDescriptor x then (if x.count = 0 then some ((ceSoff x.word + x.rebase, 16), descriptorTouch c x) else none)
  else if isTable x then
    if x.held.isEmpty && decide (x.count < ceCount x.word) && elementReady s c x then
      some ((copyScratch x x.count, cmdA x.word), elementTouch s c x x.count)
    else none
  else ((allBursts x).find? fun b => burstDue x b.1 b.2 && burstReady s c x b).map fun b => (burstPad x b.1 b.2, burstTouch s c x b)

/-- The banks that a copy of core `c` wants next. -/
def copyWants (s : State) (c : Nat) (x : Cmd) : List Nat :=
  if frozen s c x || !mayStart s c x then []
  else match copyNext s c x with
    | none => []
    | some (pad, t) =>
      let i := (s.coreOf c).copyQ.findIdx fun y => y.ident == x.ident
      if mayOvertake s c i fun _ => t then banksAt pad.1 pad.2 else []

/-- An earlier command of the same core to the same target has words left at a bank (R207). -/
def holdsBank (earlier : Cmd) (target bank : Nat) : Bool :=
  (runOf earlier).core == target && (runOf earlier).leftAt earlier.progress bank

/-- A run may take its next step at a bank of its core, but for who goes first there: no other run stands at the banks it needs, and
no earlier command of its core has words left there. -/
def runAble (s : State) (who : Runner) (r : Run) (p : Progress) (bank : Nat) (earlier : List Cmd) : Bool :=
  r.leftAt p bank
    && (bank :: r.needs p bank).all fun b => reaches s r.core b who && !(earlier.any fun y => holdsBank y r.core b)

/-- A run's next step stands at a bank. -/
def Run.nextStep (r : Run) (p : Progress) (bank : Nat) : Bool := isElementWise r.code || r.bank (r.passed p.next) == bank

/-- The banks that a bank-unit command wants next. -/
def bankWants (s : State) (c : Nat) (x : Cmd) : List Nat :=
  let before := (s.coreOf c).bankQ.takeWhile fun y => y.ident != x.ident
  if frozen s c x then [] else (List.range 32).filter fun b =>
    (runOf x).nextStep x.progress b && runAble s (.command c x.ident) (runOf x) x.progress b before

/-- The banks that a capsule's bank step wants next. -/
def stepWants (s : State) (c b : Nat) (x : BankRun) : List Nat :=
  (List.range 32).filter fun k => x.run.nextStep x.progress k && runAble s (.capsule c b) x.run x.progress k []

/-- The banks of core `p` that a command wants next, with its class, or none: a te.mma's stage once both rings hold it, the next
part of a copy, the next elements of a run. -/
def wants (s : State) (c : Nat) (x : Cmd) (p : Nat) : Nat × List Nat :=
  match engineOf (cmdCode x.word) with
  | some .tile =>
    (2, match x.grant with
      | some g =>
        if c == p && cmdCode x.word == 0x10
            && (let q := ringOf s c x (teRingA x.word); ringFull q (ringHead q))
            && (let q := ringOf s c x (teRingB x.word); ringFull q (ringHead q)) then
          stageBanks s c x (teRingA x.word) (bitsOf x.fmt 3 0) g.rows ++ stageBanks s c x (teRingB x.word) (bitsOf x.fmt 7 4) g.cols
        else []
      | none => [])
  | some .copy => (3, if c == p then copyWants s c x else [])
  | some .bank => (5, if x.stage == p then bankWants s c x else [])
  | _ => (0, [])

/-- The commands that may want a bank of core `p`: the first of its tile queue, its copies, and the bank commands aimed at it. -/
def bankers (s : State) (p : Nat) : List (Nat × Engine × Cmd) :=
  let r := s.coreOf p
  (r.tileQ.take 1).map (fun x => (p, Engine.tile, x)) ++ r.copyQ.map (fun x => (p, Engine.copy, x))
    ++ s.cores.entries.flatMap fun e => (e.2.bankQ.filter fun x => x.stage == p).map fun x => (e.1, Engine.bank, x)

/-- A flight is for a bank of core `p`; its class there: a load or store, or an atomic (R161, R269). -/
def flightClass (f : Flight) : Nat :=
  match f.kind with
  | .amo _ | .cas => 5
  | _ => 4

def flightWants (f : Flight) (p bank : Nat) : Bool :=
  match f.target with
  | .bank c off => c == p && bankAt off == bank
  | _ => false

/-- The classes of the aged requesters of a bank. -/
def agedAt (s : State) (p bank : Nat) : List Nat :=
  let cmds := ((bankers s p).filter fun x => x.2.2.aged).filterMap fun x =>
    let (cls, l) := wants s x.1 x.2.2 p
    if l.contains bank then some cls else none
  let caps := (List.range 6).filterMap fun b =>
    match vget (s.coreOf p).bufs .free b with
    | .banking r => if r.aged then (if (stepWants s p b r).contains bank then some 5 else none) else none
    | _ => none
  cmds ++ caps ++ (s.flights.filter fun f => f.aged && flightWants f p bank).map flightClass

/-- A requester of a class may be served at a bank: an aged requester goes before one that is not, and aged ones go in the order of
their classes (R269). -/
def bankServes (s : State) (p bank cls : Nat) (aged : Bool) : Bool :=
  let l := agedAt s p bank
  l.isEmpty || (aged && l.all fun k => decide (cls ≤ k))

/-- The same, for the banks of the `n` bytes at `off`. -/
def padServes (s : State) (p off n cls : Nat) (aged : Bool) : Bool := (banksAt off n).all fun b => bankServes s p b cls aged

/-- A step of a command has been served. -/
def served (s : State) (c : Nat) (e : Engine) (ident : Nat) : State :=
  modCmd s c e ident fun y => { y with refused := 0, aged := false }

/-- A command that wants banks of which some was not taken by a thread has been refused once more. -/
def refusedOnce (s : State) (p : Nat) (x : Nat × Engine × Cmd) : State :=
  if (wants s x.1 x.2.2 p).2.any fun b => !bitAt (s.coreOf p).bankTurns b then
    modCmd s x.1 x.2.1 x.2.2.ident fun y => { y with refused := y.refused + 1 }
  else s

/-- A capsule's bank step in a buffer, refused once more where no thread had a bank that it wants. -/
def stepRefused (s : State) (p b : Nat) (u : BufUse) : BufUse :=
  match u with
  | .banking x =>
    if (stepWants s p b x).any fun k => !bitAt (s.coreOf p).bankTurns k then .banking { x with refused := x.refused + 1 } else u
  | u => u

/-- The banks of core `p` that a requester of R269 wants in this cycle. -/
def wantedBanks (s : State) (p : Nat) : List Nat :=
  let r := s.coreOf p
  ((List.range 32).filter fun b => bitAt r.bankTurns b)
    ++ (bankers s p).flatMap (fun x => (wants s x.1 x.2.2 p).2)
    ++ (List.range 6).flatMap (fun b => match vget r.bufs .free b with
      | .banking x => stepWants s p b x
      | _ => [])
    ++ s.flights.flatMap fun f => match f.target with
      | .bank c off => if c = p then banksAt off f.n else []
      | _ => []

/-- The counts of cycles without a free one, by bank, after another cycle (R440). -/
def countWanted (s : State) (p : Nat) : Table Nat :=
  let old := (s.coreOf p).scrubWait
  (wantedBanks s p).eraseDups.foldl (fun t b => t.set b (min 4096 (old.get 0 b + 1))) {}

/-- The requests that wait at the banks of a core have been refused in one more cycle, where no thread had the bank (R269), and
the scrubber has waited for the banks that one of them wants (R440). -/
def ageRequests (s : State) (p : Nat) : State :=
  let turns := (s.coreOf p).bankTurns
  let waits := countWanted s p
  let s := (bankers s p).foldl (fun s x => refusedOnce s p x) s
  let s := { s with flights := s.flights.map fun (f : Flight) =>
    match f.target with
    | .bank c off => if c == p && !bitAt turns (bankAt off) then { f with refused := f.refused + 1 } else f
    | _ => f }
  s.modCore p fun r => { r with bankTurns := 0, scrubWait := waits, bufs := r.bufs.mapIdx fun b u => stepRefused s p b u }

end Sys2Proof.Machine
end

