-- ==== Sys2Proof/Machine/Tile.lean ====
section
/-!
DEFINITION. The tile engine: grants of accumulator rows (R202, R203), te.mma and te.zacc stage by stage and row by row
(R60–R62, R216–R218), and the drain handler (R208, R209).
-/

namespace Sys2Proof.Machine

/-! ## Grants (R202, R203) -/

/-- Unit `u` of 16 accumulator rows is free: no slot's grant holds it. -/
def unitFree (s : State) (c u : Nat) : Bool :=
  (List.range 8).all fun k =>
    match (s.slotOf c k).grant with
    | some g => !(decide (g.unit ≤ u) && decide (u < g.unit + g.rows / 16))
    | none => true

/-- Units u .. u + n − 1 exist and are free. -/
def runFree (s : State) (c u n : Nat) : Bool :=
  decide (u + n ≤ 8) && (List.range n).all fun i => unitFree s c (u + i)

/-- The longest free run that begins at `u`. -/
def runFrom (s : State) (c u : Nat) : Nat :=
  ((List.range 9).filter fun n => runFree s c u n).getLastD 0

/-- The first unit and the number of units that a request for `want` gets: the lowest run that fits, else the longest,
the lowest among equals. -/
def chooseRun (s : State) (c want : Nat) : Nat × Nat :=
  match firstBelow 8 fun u => runFree s c u want with
  | some u => (u, want)
  | none => (List.range 8).foldl (fun best u => if best.2 < runFrom s c u then (u, runFrom s c u) else best) (0, 0)

/-- A slot's grant ends. -/
def endGrant (s : State) (c k : Nat) : State := s.modSlot c k fun x => { x with grant := none }

/-- The grant that a request gives slot `k`, and the word that reports it. -/
def grantRows (s : State) (c k m n : Nat) : Word × State :=
  let s := endGrant s c k
  if m = 0 then (0, s)
  else
    let (u, units) := chooseRun s c ((m + 15) / 16)
    let cols := 16 * ((n + 15) / 16)
    if units = 0 then (0, s)
    else (BitVec.ofNat 64 (16 * units + cols * 2 ^ 8 + 16 * u * 2 ^ 16),
          s.modSlot c k fun x => { x with grant := some ⟨u, 16 * units, cols⟩ })

/-- A tile command of slot `k` is outstanding. -/
def tileOutstanding (s : State) (c k : Nat) : Bool := (s.coreOf c).tileQ.any fun x => x.owner == .slot k

/-- A te.mma of slot `k` is outstanding: no completion handler is entered (R210). -/
def mmaOutstanding (s : State) (c k : Nat) : Bool :=
  (s.coreOf c).tileQ.any fun x => x.owner == .slot k && cmdCode x.word == 0x10

/-- mshape (R202). -/
def execMshape (rd ra : BitVec 6) (s : State) : Result :=
  .next (issue (.mshape rd ra) s fun s0 =>
    let v := gval s0 ra
    let m := bitsOf v 7 0
    let n := bitsOf v 15 8
    if 128 < m || n == 0 || 128 < n || bitsOf v 63 16 != 0 then trapHere s0 .illegalOperand
    else outward [v] s0
      (fun s =>
        if tileOutstanding s s.core s.slot then pollFor (endReservation s s.core s.slot) .engineWait .tileIdle
        else
          let (w, s') := grantRows s s.core s.slot m n
          writeBoundary rd w false s s')
      (takeResult rd))

/-! ## Elements and groups (R46–R50, R60, R200) -/

/-- Element `t` of a row of a stage, whose bytes are the number `row`, in tile format `f`; and whether its byte is a
reserved T5 code. -/
def tileElem (f row t : Nat) : Val × Bool :=
  match f with
  | 0 => (decodeFp bf16 (row / 2 ^ (16 * t) % 2 ^ 16), false)
  | 1 => (decodeFp fp16 (row / 2 ^ (16 * t) % 2 ^ 16), false)
  | 2 | 4 => (decodeFp e4m3 (row / 2 ^ (8 * t) % 2 ^ 8), false)
  | 3 | 5 => (decodeFp e5m2 (row / 2 ^ (8 * t) % 2 ^ 8), false)
  | 6 => (decodeFp e3m2 (row / 2 ^ (6 * t) % 2 ^ 6), false)
  | 7 => (decodeFp e2m3 (row / 2 ^ (6 * t) % 2 ^ 6), false)
  | 8 => (decodeFp e2m1 (row / 2 ^ (4 * t) % 2 ^ 4), false)
  | 9 =>
    let i := codeInt 8 (row / 2 ^ (8 * t) % 2 ^ 8)
    (.fin (decide (i < 0)) i.natAbs 64, false)
  | _ => tritVal (row / 2 ^ (8 * (t / 5)) % 2 ^ 8) (t % 5)

/-- The formats whose blocks have a scale. -/
def scaled (f : Nat) : Bool := decide (4 ≤ f)

/-- The group of a format pair and the k-slab of a stage (R60, R200). -/
def groupSize (f : Nat) : Nat := if f = 10 then 40 else 32
def slabSize (f : Nat) : Nat := if f = 10 then 120 else 128

/-- A scale byte of an operand (R201). Beyond the scratchpad the spec gives no byte: a free value (log entry 31). -/
def scaleByte (s : State) (c off : Nat) : Nat × Bool :=
  if off < 2 ^ 21 then s.load (padAddr c off) 1 else (bitsOf (Config.freeWord (s.free + off)) 7 0, false)

/-- An element as its block's scale leaves it: a block whose scale is 0xFF holds NaN in every element, whatever the codes
(R50). -/
def scaledElem (scale v : Val) : Val := if scale.isNan then .nan false else v

/-- The flags that products raise by themselves, and whether two of them are infinities of opposite signs (R62). -/
def productFlags (ps : List (Val × BitVec 7)) : BitVec 7 :=
  ps.foldl (fun f p => f ||| p.2) 0
    ||| flagIf (ps.any (fun p => p.1 == .inf false) && ps.any fun p => p.1 == .inf true) flagNv

/-- The sum of finite products, absent ones +0 (R57, R60). -/
def finiteSum (n : Nat) (ps : List Val) : Val :=
  match ps ++ (List.range (n - ps.length)).map fun _ => (.fin false 0 1 : Val) with
  | [] => .fin false 0 1
  | p :: rest => rest.foldl (fun acc q => (addVal .rne acc q).1) p

/-- The exact sum of a group of products, whatever their order (R60, R62): `pairs` are the elements present. -/
def groupSum (n : Nat) (pairs : List (Val × Val)) : Val × BitVec 7 :=
  let ps := pairs.map fun (a, b) => mulVal a b
  let has := fun (v : Val) => ps.any fun p => p.1 == v
  let v : Val :=
    if (ps.any fun p => p.1.isNan) || (has (.inf false) && has (.inf true)) then .nan false
    else if has (.inf false) then .inf false
    else if has (.inf true) then .inf true
    else finiteSum n (ps.map Prod.fst)
  (v, productFlags ps)

/-- g of a group: the exact sum scaled exactly and rounded once (R60, R61). -/
def groupTerm (sum : Val × BitVec 7) (sa sb : Val) : Nat × BitVec 7 :=
  let (v, f) := mulVal sum.1 sa
  let (w, h) := mulVal v sb
  rounded fp32 .rne 0 (w, sum.2 ||| f ||| h)

/-- What a stage reads of one row or column: its bytes and whether they are poisoned. -/
def stageRow (s : State) (c base f i : Nat) : Nat × Bool := s.load (padAddr c (base + i * rowBytes f)) (rowBytes f)

/-- The operands of a stage of te.mma. -/
structure Stage where
  baseA : Nat
  baseB : Nat
  fa : Nat
  fb : Nat
  /-- the first k index of the stage, and K -/
  first : Nat
  k : Nat

/-- The value and flags of one accumulator after a stage, and whether what it read was poisoned. -/
def stageAcc (s : State) (c : Nat) (x : Cmd) (st : Stage) (i j : Nat) (old : Nat) : Nat × BitVec 7 × Bool :=
  let g := groupSize st.fa
  let (ra, pa) := stageRow s c st.baseA st.fa i
  let (rb, pb) := stageRow s c st.baseB st.fb j
  let last := min st.k (st.first + slabSize st.fa)
  let groups := (List.range ((last - st.first + g - 1) / g)).map fun q => st.first / g + q
  let total := (st.k + g - 1) / g
  groups.foldl (fun (acc : Nat × BitVec 7 × Bool) q =>
    let ks := (List.range g).filter fun t => decide (q * g + t < last)
    let elems := ks.map fun t => (tileElem st.fa ra (q * g + t - st.first), tileElem st.fb rb (q * g + t - st.first))
    let fmtFlag := elems.any fun e => e.1.2 || e.2.2
    let (sa, ua) := if scaled st.fa then scaleByte s c (x.sca.toNat + x.rebase + i * total + q) else (127, false)
    let (sb, ub) := if scaled st.fb then scaleByte s c (x.scb.toNat + x.rebase + j * total + q) else (127, false)
    let (va, vb) := (scaleVal sa, scaleVal sb)
    let (term, f) := groupTerm (groupSum g (elems.map fun e => (scaledElem va e.1.1, scaledElem vb e.2.1))) va vb
    let (r, h) := add32 acc.1 term
    (r, acc.2.1 ||| f ||| h ||| flagIf fmtFlag flagFmt, acc.2.2 || ua || ub)) (old, 0, pa || pb)

/-- Every accumulator of a grant by row and column. -/
def grantCells (g : Grant) : List (Nat × Nat) :=
  (List.range g.rows).flatMap fun i => (List.range g.cols).map fun j => (i, j)

def accKey (g : Grant) (i j : Nat) : Nat := (16 * g.unit + i) * 128 + j

/-- One stage performed on every accumulator of the grant. -/
def runStage (s : State) (c : Nat) (x : Cmd) (g : Grant) (st : Stage) : Table Lane × BitVec 7 × Bool :=
  (grantCells g).foldl (fun (acc : Table Lane × BitVec 7 × Bool) (i, j) =>
    let key := accKey g i j
    let (v, f, p) := stageAcc s c x st i j (acc.1.get 0 key).toNat
    (acc.1.set key (BitVec.ofNat 32 v), acc.2.1 ||| f, acc.2.2 || p)) ((s.coreOf c).acc, 0, false)

/-- A stage of a ring consumed: full cleared and head advanced. -/
def consumeStage (q : Quad) : Quad :=
  setBits (setFull q (ringHead q) false) 67 64 ((ringHead q + 1) % ringCount q)

/-- The rows of a grant, by their numbers among the 128. -/
def grantRowsOf (g : Grant) : List Nat := (List.range g.rows).map fun i => 16 * g.unit + i

/-- A te.mma ends with its token. -/
def finishMma (s : State) (c : Nat) (x : Cmd) (g : Grant) : State :=
  completeCmd s c .tile x (if x.poison then 6 else 0) x.flags x.poison g.rows

/-- The stage at the head of a ring may still come: it is there, or a copy of the same owner fills the ring. To the rings of a
killed slot nothing else can bring one. -/
def stageMayCome (s : State) (c : Nat) (x : Cmd) (ring : Nat) : Bool :=
  let q := ringOf s c x ring
  ringFull q (ringHead q) || (match x.owner with
    | .gone _ => (s.coreOf c).copyQ.any fun y => y.owner == x.owner && cmdDone y.word == 1 && cmdRing y.word == ring
    | _ => true)

/-- The next stage of te.mma, once both rings hold it and the banks serve it (R217, R269). That of a killed slot whose stage
cannot come ends there (R252; log entry 71). -/
def mmaStage (s : State) (c : Nat) (x : Cmd) (g : Grant) : State :=
  let qa := ringOf s c x (teRingA x.word)
  let qb := ringOf s c x (teRingB x.word)
  if !stageMayCome s c x (teRingA x.word) || !stageMayCome s c x (teRingB x.word) then finishMma s c x g
  else if ringFull qa (ringHead qa) && ringFull qb (ringHead qb) && (wants s c x c).2.all (fun b => bankServes s c b 2 x.aged) then
    let fa := bitsOf x.fmt 3 0
    let st : Stage :=
      { baseA := ringBase qa + x.rebase + ringHead qa * ringStage qa
        baseB := ringBase qb + x.rebase + ringHead qb * ringStage qb
        fa := fa, fb := bitsOf x.fmt 7 4, first := x.stage * slabSize fa, k := teK x.word }
    let (acc, f, p) := runStage s c x g st
    let s := s.modCore c fun r =>
      { r with acc := acc, accPoison := if p then markPoison r.accPoison (grantRowsOf g) else r.accPoison }
    let s := setRingOf s c x (teRingA x.word) (consumeStage qa)
    let s := setRingOf s c x (teRingB x.word) (consumeStage qb)
    modCmd (served s c .tile x.ident) c .tile x.ident fun y => { y with stage := y.stage + 1, flags := y.flags ||| f, poison := y.poison || p }
  else s

/-- The accumulators of a row, columns N' and above +0, as the lanes of a register (R208). -/
def rowLanes (s : State) (c : Nat) (g : Grant) (i first : Nat) : Vec :=
  ofLanes fun j => if first + j < g.cols then (s.coreOf c).acc.get 0 (accKey g i (first + j)) else 0

/-- A thread enters its drain handler for row `i` (R208). -/
def enterRow (s : State) (c k : Nat) (x : Cmd) (g : Grant) (i : Nat) : State :=
  s.modSlot c k fun y =>
    let y := { y with
      winV := vset (vset y.winV 2 (rowLanes s c g i 0)) 3 (rowLanes s c g i 64)
      winG := vset (vset y.winG 0 (BitVec.ofNat 64 i)) 1 (BitVec.ofNat 64 (teDoff x.word + i * teDstride x.word))
      handler := .drain i, pc := x.pc + 8, status := .handler, reply := none
      wait := .row (x.rd.getD 0) }
    if y.docking then { y with status := .halted }
    else if y.haltPending || y.stepArmed then { y with status := .halted, haltPending := false, stepArmed := false } else y

/-- A slot waits for the engine at its te.mma, outside its handler. -/
def awaitsRow (x : Slot) : Bool :=
  x.status == .engineWait && x.handler == .outside && (match x.wait with
    | .token _ | .row _ => true
    | _ => false)

/-- te.mma's next step: a stage, then a row for each granted row, then the token (R208, R217, R218). In a pair both
threads drain. -/
def mmaStep (s : State) (c : Nat) (x : Cmd) : State :=
  match x.grant with
  | none => s
  | some g =>
    let fa := bitsOf x.fmt 3 0
    if x.stage < (teK x.word + slabSize fa - 1) / slabSize fa then mmaStage s c x g
    else match x.owner with
      | .slot k =>
        let js := actsOn s c k
        if js.all fun j => awaitsRow (s.slotOf c j) then
          if x.count < g.rows then
            modCmd (js.foldl (fun s j => enterRow s c j x g x.count) s) c .tile x.ident fun y => { y with count := y.count + 1 }
          else finishMma s c x g
        else s
      | .gone _ => finishMma s c x g
      | .docked _ => s

/-- TE_MMA (R217), by its code in R115 (DEDUCED, log entry 133). -/
def execTeMma (core : Nat) (s : State) : Result :=
  .next (match (s.coreOf core).tileQ with
    | x :: _ => if cmdCode x.word = 0x10 && !frozen s core x then mmaStep s core x else s
    | [] => s)

/-- TE_ZACC (R216), by its code in R115 (DEDUCED, log entry 133). -/
def execTeZacc (core : Nat) (s : State) : Result :=
  .next (match (s.coreOf core).tileQ with
    | x :: _ =>
      if cmdCode x.word = 0x11 && !frozen s core x then
        match x.grant with
        | some g =>
          let s := s.modCore core fun r =>
            { r with acc := (grantCells g).foldl (fun t (i, j) => t.erase (accKey g i j)) r.acc
                     accPoison := clearMarks r.accPoison (grantRowsOf g) }
          completeCmd s core .tile x 0 0 false 0
        | none => s
      else s
    | [] => s)

/-! ## drain (R209) -/

/-- The format of a drain (R199). -/
def drainFmt (fmt : BitVec 11) : Fmt :=
  match bitsOf fmt 9 8 with
  | 0 => fp32
  | 1 => bf16
  | _ => fp16

/-- The columns of a row converted, in increasing order: the codes, the flags, the generator. -/
def drainRow (x : Slot) (cols : Nat) : Pass :=
  let f := drainFmt x.fmt
  let mode := x.mode
  let col := fun j => (lane (x.readV (14 + j / 64)) (j % 64)).toNat
  runPass (List.range cols) (f != fp32 && mode == .sr) x.srseed fun j rnd =>
    let v := dec32 (col j)
    let (code, fl) := roundTo f (if f = fp32 then mode.noSr else mode) (bitAt x.fmt 10) rnd v
    (code, fl ||| flagIf v.sNan flagNv)

/-- The command whose row a slot drains: in a pair, the leading thread's. -/
def drainedCmd (s : State) (c k : Nat) : Option Cmd :=
  (s.coreOf c).tileQ.find? fun x => x.owner == .slot k || ((s.slotOf c k).pair == .trailing && x.owner == .slot (leadOf k))

/-- The row is released: the slot waits at its te.mma for the next row or the completion, out of rotation and without its
reservation (R158, R209). -/
def releaseRow (x : Cmd) (s : State) : State :=
  (endReservation s s.core s.slot).modMe fun y =>
    { y with handler := .outside, status := .engineWait, wait := .row (x.rd.getD 0), reply := none, pc := x.pc
             latch := [], matched := false, outward := none }

/-- The row's words written to the scratchpad, marked where the row came from a poisoned stage (R209). -/
def writeRow (s : State) (row p cols : Nat) (pass : Pass) : State :=
  let e := (drainFmt s.me.fmt).width / 8
  let bytes := (List.range cols).foldl (fun acc j => acc + 2 ^ (8 * e * j) * ((tableFind j pass.out).getD 0)) 0
  let s := padStore (bankTurnAt s s.core p (cols * e)) s.core p (cols * e) bytes
  if s.myCore.accPoison.contains row then s.mark (padAddr s.core p) (cols * e) else s

/-- drain in a drain handler. -/
def drainHere (i : Nat) (x : Cmd) (g : Grant) (s0 : State) : State :=
  let y := s0.me
  let e := (drainFmt y.fmt).width / 8
  let p := bitsOf (y.readG 25) 20 0 + slotRebase s0 s0.core s0.slot
  if p % e ≠ 0 then trapHere s0 .misaligned (BitVec.ofNat 64 p)
  else if 2 ^ 21 < p + g.cols * e then trapHere s0 .segment (BitVec.ofNat 64 p)
  else
    let pass := drainRow y g.cols
    let local_ := fun (s : State) => s.modMe fun z => { (z.raise pass.flags) with srseed := pass.seed }
    let own := fun (s : State) => releaseRow x (local_ (writeRow s (16 * g.unit + i) p g.cols pass))
    outward (BitVec.ofNat 64 p :: (List.range g.cols).map fun j => BitVec.ofNat 64 ((tableFind j pass.out).getD 0))
      s0 own fun s => releaseRow x (local_ s)

/-- drain: in a completion handler it returns to hlink (R209). -/
def execDrain (s : State) : Result :=
  .next (issue .drain s fun s0 =>
    match s0.me.handler with
    | .drain i =>
      (match drainedCmd s0 s0.core s0.slot with
       | some x => match x.grant with
         | some g => drainHere i x g s0
         | none => s0
       | none => s0)
    | _ => done (s0.modMe fun y => { y with handler := .outside }) s0.me.hlink)

end Sys2Proof.Machine
end

