-- ==== Sys2Proof/Machine/Copy.lean ====
section
/-!
DEFINITION. The copy engine (R207, R212–R215): bursts of one 256-byte block each, gathered and scattered elements,
ring fills, and ring descriptors moved to and from the scratchpad. Commands start and complete in acceptance order, and a
later one's bursts may go ahead of an earlier one's where they meet nothing that it has still to write.
-/

namespace Sys2Proof.Machine

/-- A command as it stands in a queue. -/
def findCmd (s : State) (c : Nat) (e : Engine) (ident : Nat) : Option Cmd :=
  ((s.coreOf c).queue e).find? fun x => x.ident == ident

/-! ## Completion (R112, R207, R214, R215) -/

/-- A ring fill completes: its stage is full, and the tail follows it. What it did not write is marked. -/
def completeFill (s : State) (c : Nat) (x : Cmd) : State :=
  if cmdDone x.word = 1 then
    let s := (padLeft x).foldl (fun s (off, n) => s.mark (padAddr c off) n) s
    let q := ringOf s c x (cmdRing x.word)
    let q := setReplay (setFull q x.stage true) x.stage false
    setRingOf s c x (cmdRing x.word) (setBits q 75 72 ((x.stage + 1) % ringCount q))
  else s

/-- A copy command ends. Status 0x05 goes before 0x06 (R462). A ce.rld whose image is malformed has status 0x03, a refusal, whose
value is 0 (R113, R114; log entry 128). -/
def finishCopy (s : State) (c : Nat) (x : Cmd) : State :=
  if x.status = 3 then refuseLate s c .copy x 3 x.poison
  else completeCmd (completeFill s c x) c .copy x (if x.status ≠ 0 then x.status.toNat else if x.poison then 6 else 0) 0 x.poison x.moved

/-- The copies at the head of the queue that are over complete, in order. -/
def finishCopies (c : Nat) : Nat → State → State
  | 0, s => s
  | n + 1, s =>
    match (s.coreOf c).copyQ with
    | x :: _ => if copyOver s c x then finishCopies c n (finishCopy s c x) else s
    | [] => s

def finishHeads (s : State) (c : Nat) : State := finishCopies c (s.coreOf c).copyQ.length s

/-- A copy that a failing address has ended (R462). -/
def endCopy (s : State) (c : Nat) (x : Cmd) : State := modCmd s c .copy x.ident fun y => { y with status := 5, started := true }

/-! ## Transfers -/

/-- The lines of a burst read: its bytes as one number, and the pieces that were poisoned, by their distance and length. -/
def burstRead (s : State) (cl : Nat) (pol : Policy) (pa n : Nat) : Nat × List (Nat × Nat) × State :=
  (linePieces pa n).foldl (fun (acc : Nat × List (Nat × Nat) × State) (a, m) =>
    let (v, p, s) := burstLoad acc.2.2 cl pol a m
    (acc.1 + 2 ^ (8 * (a - pa)) * v, if p then acc.2.1 ++ [(a - pa, m)] else acc.2.1, s)) (0, [], s)

/-- Global bytes into the scratchpad, in one write: a granule that the burst covers whole loses its mark, and poisoned bytes mark
every granule they touch (R434, R435). -/
def burstIn (s : State) (c off : Nat) (pol : Policy) (pa n : Nat) : Bool × State :=
  let (v, bad, s) := burstRead s (clusterOf c) pol pa n
  (!bad.isEmpty, bad.foldl (fun s b => s.mark (padAddr c (off + b.1)) b.2) (padEngineStore s c off n v false))

/-- Scratchpad bytes into global memory, each word's poison kept. -/
def burstOut (s : State) (c off : Nat) (pol : Policy) (pa n : Nat) : Bool × State :=
  let (v, p) := s.load (padAddr c off) n
  (p, writeLines s (clusterOf c) pol pa n v fun i m => poisonedIn s.poison (padAddr c (off + i)) m)

/-- The fill word repeated, from a distance into the pattern on, for `n` bytes. -/
def fillBytes (x : Cmd) (dist n : Nat) : Nat :=
  (List.range (n / 4 + 2)).foldl (fun acc i => acc + 2 ^ (32 * i) * ceSstride x.word) 0 / 2 ^ (8 * (dist % 4)) % 2 ^ (8 * n)

/-- What a command sends outward from `at_`, and its poison: scratchpad bytes, or, for ce.fill, the pattern at that distance. -/
def outgoing (s : State) (c : Nat) (x : Cmd) (at_ n : Nat) : Nat × Bool :=
  if cmdCode x.word = 0x24 then (fillBytes x at_ n, false) else if ceDir x.word then s.load (padAddr c at_) n else (0, false)

/-- A burst through a peer aperture: one request for each doubleword (R407). Its answers go to the scratchpad. A peer that cannot
be reached gives poisoned zeros, and takes nothing. -/
def burstPeer (s : State) (c : Nat) (x : Cmd) (off rank pa n : Nat) : Bool × State :=
  let reads := !ceDir x.word
  if peerReachable s x.ctag rank then
    ((outgoing s c x off n).2, (wordPieces pa n).foldl (fun s (a, m) =>
      let (ident, s) := s.fresh
      let at_ := off + (a - pa)
      let (v, poison) := outgoing s c x at_ m
      let f : Flight := { core := c, slot := cmdRequester x, kind := if reads then .load false else .store
                          target := .peer rank a, n := m, ident := ident, expected := BitVec.ofNat 64 at_
                          data := BitVec.ofNat 64 v, ctag := x.ctag, lid := x.lid }
      sendToRank (notePeer s x.ctag rank f) x.ctag rank 1 poison (.request ident (BitVec.ofNat 52 a) (peerOp f))) s)
  else if reads then (true, padEngineStore s c off n 0 true)
  else (true, s)

/-- A part of a row moved, once its address is known. The answer is `none` where it has to wait. -/
def moveBurst (s : State) (c : Nat) (x : Cmd) (off pa n : Nat) (pol : Policy) : Option Bool × State :=
  match apertureOf s pa with
  | some (rank, there) => let (p, s) := burstPeer s c x off rank there n; (some p, s)
  | none =>
    if ceDir x.word then
      match snoopBlocked s pa n with
      | (true, s) => (none, s)
      | (false, s) =>
        if cmdCode x.word = 0x24 then
          (some false, writeLines s (clusterOf c) pol pa n (fillBytes x off n) fun _ _ => false)
        else let (p, s) := burstOut s c off pol pa n; (some p, s)
    else let (p, s) := burstIn s c off pol pa n; (some p, s)

/-- A burst is done: its bytes count. -/
def burstDone (s : State) (c : Nat) (x : Cmd) (num n : Nat) (p : Bool) : State :=
  modCmd (served s c .copy x.ident) c .copy x.ident fun y =>
    { y with done := y.done ++ [num], moved := y.moved + n, poison := y.poison || p, started := true }

/-- The key under which a burst of the command is already held for a page of 64 KiB: a command has one record for each page
(R383, R385). -/
def heldKey (x : Cmd) (va : Nat) : Option (BitVec 32) :=
  (x.held.find? fun h =>
    let p := (rowAddress x (h.1 / 2 ^ 14)).getD 0
    (burstPart p (cmdA x.word) (h.1 % 2 ^ 14)).1 / 2 ^ 16 == va / 2 ^ 16).map Prod.snd

/-- A burst is held at the port under a key. -/
def holdBurst (s : State) (c : Nat) (x : Cmd) (num : Nat) (key : BitVec 32) : State :=
  modCmd s c .copy x.ident fun y => { y with held := y.held ++ [(num, key)], started := true }

/-- One burst of ce.cpy, ce.str or ce.fill. For a global fill the place in the pattern follows the distance from the
fill's start. -/
def copyBurst (s : State) (c : Nat) (x : Cmd) (row chunk : Nat) : State :=
  match rowAddress x row with
  | none => endCopy s c x
  | some p =>
    let (a, n) := burstPart p (cmdA x.word) chunk
    let num := burstNumber row chunk
    let off := copyScratch x row + (a - p)
    if cmdCode x.word = 0x24 ∧ !ceDir x.word then
      burstDone (padEngineStore s c off n (fillBytes x (a - p) n) false) c x num n false
    else
      match heldKey x a with
      | some key => holdBurst s c x num key
      | none =>
        match engineAddress s c x a (!ceDir x.word) (ceDir x.word) with
        | (.range, s) => endCopy s c x
        | (.wait, s) => s
        | (.held key, s) => holdBurst s c x num key
        | (.ok pa pol, s) =>
          match moveBurst s c x (if cmdCode x.word = 0x24 then a - p else off) pa n pol with
          | (none, s) => s
          | (some poison, s) => burstDone s c x num n poison

/-- Command `i` of a copy queue may perform a part that touches `t` and whose scratchpad bytes are `pad`. -/
def copyTurn (s : State) (c i : Nat) (x : Cmd) (pad : Nat × Nat) (t : State → Touch) : Bool :=
  !frozen s c x && mayStart s c x && x.status != 5 && mayOvertake s c i t && padServes s c pad.1 pad.2 3 x.aged

/-- The commands of a copy queue, numbered. -/
def numbered (l : List Cmd) : List (Nat × Cmd) := (List.range l.length).zip l

/-- One of several commands that may go on: which of them does is open (R207). -/
def chooseCmd (s : State) (l : List Cmd) : Option Cmd × State :=
  if l.length < 2 then (l.head?, s)
  else let (n, s) := s.draw; (l[n.toNat % l.length]?, s)

/-- A burst of a command of a code that may perform it. -/
def copyStep (code core row chunk : Nat) (s : State) : State :=
  let able := (numbered (s.coreOf core).copyQ).filter fun (i, x) =>
    cmdCode x.word = code && burstDue x row chunk && copyTurn s core i x (burstPad x row chunk) fun s => burstTouch s core x (row, chunk)
  match chooseCmd s (able.map Prod.snd) with
  | (some x, s) => finishHeads (copyBurst s core x row chunk) core
  | (none, s) => finishHeads s core

def execCeCpy (core chunk : Nat) (s : State) : Result := .next (copyStep 0x20 core 0 chunk s)
def execCeStr (core row chunk : Nat) (s : State) : Result := .next (copyStep 0x21 core row chunk s)
def execCeFill (core chunk : Nat) (s : State) : Result := .next (copyStep 0x24 core 0 chunk s)

/-! ## Gathered and scattered elements (R213) -/

/-- Every burst of an element has an address: the list of them, or why not yet. -/
def elementParts (c : Nat) (x : Cmd) (p n : Nat) : List Nat → State → EngDone (List (Nat × Nat × Nat × Policy))
  | [], s => .ok [] s
  | j :: rest, s =>
    let (a, m) := burstPart p n j
    match engineAddress s c x a (!ceDir x.word) (ceDir x.word) with
    | (.range, s) => .range s
    | (.wait, s) => .wait s
    | (.held k, s) => .held k s
    | (.ok pa pol, s) =>
      if (apertureOf s pa).isNone && ceDir x.word && (snoopBlocked s pa m).1 then .wait (snoopBlocked s pa m).2
      else (elementParts c x p n rest s).map fun l => (a - p, m, pa, pol) :: l

/-- The parts of an element moved. -/
def moveParts (c : Nat) (x : Cmd) (off : Nat) (l : List (Nat × Nat × Nat × Policy)) (s : State) : Bool × State :=
  l.foldl (fun (acc : Bool × State) (d, m, pa, pol) =>
    match moveBurst acc.2 c x (off + d) pa m pol with
    | (some p, s) => (acc.1 || p, s)
    | (none, s) => (acc.1, s)) (false, s)

/-- The next element of ce.gth or ce.sct. A failing element ends the command with status 0x05. -/
def element (s : State) (c : Nat) (x : Cmd) : State :=
  let ip := (indexWord s c x x.count).2
  let n := cmdA x.word
  match elementAddress s c x x.count with
  | none => endCopy s c x
  | some p =>
    match elementParts c x p n (List.range (burstCount p n)) s with
    | .range s => endCopy s c x
    | .wait s => s
    | .held key s => modCmd s c .copy x.ident fun y => { y with held := [(x.count, key)], started := true }
    | .ok l s =>
      let off := copyScratch x x.count
      let (dp, s) := moveParts c x off l s
      let s := if ip && !ceDir x.word then s.mark (padAddr c off) n else s
      modCmd (served s c .copy x.ident) c .copy x.ident fun y =>
        { y with count := y.count + 1, moved := y.moved + n, poison := y.poison || ip || dp, started := true }

/-- The next element of a command of a code that may perform it. -/
def tableStep (code core : Nat) (s : State) : State :=
  let able := (numbered (s.coreOf core).copyQ).filter fun (i, x) =>
    cmdCode x.word = code && x.held.isEmpty && decide (x.count < ceCount x.word)
      && copyTurn s core i x (copyScratch x x.count, cmdA x.word) fun s => elementTouch s core x x.count
  match chooseCmd s (able.map Prod.snd) with
  | (some x, s) => finishHeads (element s core x) core
  | (none, s) => finishHeads s core

def execCeGth (core : Nat) (s : State) : Result := .next (tableStep 0x22 core s)
def execCeSct (core : Nat) (s : State) : Result := .next (tableStep 0x23 core s)

/-! ## Ring descriptors (R212) -/

/-- The descriptor of a command is moved: what it came to. -/
def descriptorDone (s : State) (c : Nat) (x : Cmd) (status : BitVec 8) (poison : Bool) : State :=
  modCmd (served s c .copy x.ident) c .copy x.ident fun y =>
    { y with count := 1, moved := 16, poison := poison, status := status, started := true }

/-- CE_RLD: a malformed image leaves the register as it is. -/
def ringLoad (s : State) (c : Nat) (x : Cmd) : State :=
  let (v, p) := s.load (padAddr c (ceSoff x.word + x.rebase)) 16
  let q := ringMask (BitVec.ofNat 128 v)
  if ringMalformed q x.rebase then descriptorDone s c x 3 p
  else descriptorDone (setRingOf s c x (cmdRing x.word) q) c x 0 p

/-- CE_RST: the register's image as it stands. -/
def ringStore (s : State) (c : Nat) (x : Cmd) : State :=
  descriptorDone (padEngineStore s c (ceSoff x.word + x.rebase) 16 (ringOf s c x (cmdRing x.word)).toNat false) c x 0 false

/-- The descriptor of a command of a code that may move it. -/
def descriptorStep (code core : Nat) (move : State → Nat → Cmd → State) (s : State) : State :=
  let able := (numbered (s.coreOf core).copyQ).filter fun (i, x) =>
    cmdCode x.word = code && x.count = 0 && copyTurn s core i x (ceSoff x.word + x.rebase, 16) fun _ => descriptorTouch core x
  match chooseCmd s (able.map Prod.snd) with
  | (some x, s) => finishHeads (move s core x) core
  | (none, s) => finishHeads s core

def execCeRld (core : Nat) (s : State) : Result := .next (descriptorStep 0x25 core ringLoad s)
def execCeRst (core : Nat) (s : State) : Result := .next (descriptorStep 0x26 core ringStore s)

end Sys2Proof.Machine
end

