-- ==== Sys2Proof/Machine/Bank.lean ====
section
/-!
DEFINITION. The bank units (R219–R223, R64, R298, R299): element-wise commands one element at a time at each bank, stateful
commands one element at a time across the run, and bu.topk row by row, its bitmap word by word. The element operations are
shared with capsule bank steps (R317), whose state words stand in the capsule's tile.
-/

namespace Sys2Proof.Machine

/-! ## Words of a run -/

/-- Element `e` of a run and its poison. -/
def runWord (s : State) (r : Run) (e : Nat) : Nat × Bool := s.load (padAddr r.core (r.addr + 4 * e)) 4
def putWord (s : State) (r : Run) (e v : Nat) (poison : Bool) : State := padRmwStore s r.core (r.addr + 4 * e) 4 v poison

/-- State word at byte `off` of the state. -/
def stateWord (s : State) (r : Run) (off : Nat) : Nat × Bool :=
  match r.tile with
  | some t => s.load (t + off) 4
  | none => s.load (padAddr r.core (r.aux + off)) 4
def putState (s : State) (r : Run) (off v : Nat) (poison : Bool) : State :=
  match r.tile with
  | some t => let s := s.store (t + off) 4 v; if poison then s.mark (t + off) 4 else s
  | none => padRmwStore s r.core (r.aux + off) 4 v poison

/-! ## Element operations (R220, R221) -/

/-- The new word of an element-wise command (R220). A power of two is cut far beyond every result's range. -/
def elementWise (r : Run) (w : Nat) : Nat × BitVec 7 :=
  match r.code with
  | 0x30 => add32 w r.opa
  | 0x31 => mul32 w r.opa
  | 0x32 => f32 .rne (mulVal (dec32 w) (dyadic false 1 (max (-1000) (min 1000 (codeInt 32 r.opa)))))
  | 0x33 => max32 w r.opa
  | 0x34 => min32 w r.opa
  | 0x39 => (r.opa, 0)
  | 0x3C => (amoResult 4 (BitVec.ofNat 4 r.fop) w r.opa, 0)
  | _ => (if w = r.opa then r.opb else w, 0)

/-- What element steps have raised and read: flags, poison, and the value they report. -/
structure Told where
  flags : BitVec 7 := 0
  poison : Bool := false
  value : Nat := 0

/-- One element of an element-wise command: one BankRMW (R109). bu.fill reads nothing and clears a mark (R435). -/
def oneElement (r : Run) (e : Nat) (t : Told) (s : State) : Told × State :=
  let (w, p) := runWord s r e
  let (v, f) := elementWise r w
  let value := if (r.code = 0x3C || r.code = 0x3B) && e == 0 then w else t.value
  if r.code = 0x39 then (t, padEngineStore s r.core (r.addr + 4 * e) 4 v false)
  else (⟨t.flags ||| f, t.poison || p, value⟩, putWord s r e v p)

/-- The exponent-sum step of R64: scaled value, new m and s. -/
def oesStep (c m sum x : Nat) : Nat × Nat × Nat × BitVec 7 :=
  let (y, f1) := mul32 c x
  let (m2, f2) := max32 m y
  let (d1, f3) := sub32 m m2
  let (e1, f4) := exp32 d1
  let (a, f5) := mul32 sum e1
  let (d2, f6) := sub32 y m2
  let (e2, f7) := exp32 d2
  let (s2, f8) := add32 a e2
  (y, m2, s2, f1 ||| f2 ||| f3 ||| f4 ||| f5 ||| f6 ||| f7 ||| f8)

/-- bu.oes, element `e`. -/
def oesElement (r : Run) (e : Nat) (t : Told) (s : State) : Told × State :=
  let (w, p) := runWord s r e
  let (m, pm) := stateWord s r 0
  let (sum, ps) := stateWord s r 4
  let (y, m2, s2, f) := oesStep r.opa m sum w
  let p := p || pm || ps
  (⟨t.flags ||| f, t.poison || p, r.count⟩, putState (putState (putWord s r e y p) r 0 m2 p) r 4 s2 p)

/-- bu.nsm, element `e`, with m and s as read before element 0. -/
def nsmElement (r : Run) (m sum : Nat) (ps : Bool) (e : Nat) (t : Told) (s : State) : Told × State :=
  let (w, p) := runWord s r e
  let (d, f1) := sub32 w m
  let (x, f2) := exp32 d
  let (v, f3) := div32 x sum
  (⟨t.flags ||| f1 ||| f2 ||| f3, t.poison || p || ps, r.count⟩, putWord s r e v (p || ps))

/-- The new n of a Welford command, which its element 0 writes and the others keep (R221). -/
def welCount (r : Run) (s : State) : Nat := (stateWord s r 0).1 + 1

/-- A Welford step with input `x` on element `e` of the state, with the new count `n`. An element that reads a poisoned count is
poisoned (R223). -/
def welStep (r : Run) (n e x : Nat) (p : Bool) (t : Told) (s : State) : Told × State :=
  let pn := (stateWord s r 0).2
  let (mean, pm) := stateWord s r (4 + 8 * e)
  let (m2, p2) := stateWord s r (8 + 8 * e)
  let (mu, q, f) := welford n mean m2 x
  let p := p || pm || p2 || pn
  let s := if e = 0 then (match r.tile with
    | some a => s.store a 4 n
    | none => padStore s r.core r.aux 4 n) else s
  (⟨t.flags ||| f, t.poison || p, n⟩, putState (putState s r (4 + 8 * e) mu p) r (8 + 8 * e) q p)

/-- At the greatest count a Welford command changes nothing and says so (R221). -/
def welFull (r : Run) (s : State) : Option Told :=
  let (n, p) := stateWord s r 0
  if n = 2 ^ 32 - 1 then some ⟨flagSat, p, n⟩ else none

/-- bu.wel, element `e`. -/
def welElement (r : Run) (n e : Nat) (t : Told) (s : State) : Told × State :=
  welStep r n e (runWord s r e).1 (runWord s r e).2 t s

/-- The bin of a value (R221), or none where it counts nothing. -/
def histBin (r : Run) (w : Nat) : Option Nat :=
  let x := dec32 w
  let b := dec32 r.opb
  if x.isNan || (dec32 r.opa).isNan || b.isNan || b.isZero then none
  else
    match (divVal (subVal .rne x (dec32 r.opa)).1 b).1 with
    | .nan _ => none
    | .inf n => some (if n then 0 else 255)
    | .fin n num den => some (if n then 0 else min 255 (num / den))

/-- bu.hist, element `e`. -/
def histElement (r : Run) (e : Nat) (t : Told) (s : State) : Told × State :=
  let (w, p) := runWord s r e
  match histBin r w with
  | none => (⟨t.flags ||| flagNv, t.poison || p, t.value⟩, s)
  | some b =>
    let (n, pb) := stateWord s r (4 * b)
    (⟨t.flags, t.poison || p || pb, t.value + 1⟩, putState s r (4 * b) (min (n + 1) (2 ^ 32 - 1)) (p || pb))

/-! ## bu.topk (R222) -/

/-- The order key of a word. -/
def topKey (w : Nat) : Nat := if w / 2 ^ 31 = 0 then w + 2 ^ 31 else 2 ^ 32 - 1 - w

/-- The search from bit `b` − 1 down: candidates and chosen columns. -/
def topSearch (keys : List Nat) (k : Nat) : Nat → List Nat → List Nat → List Nat × List Nat
  | 0, cand, chosen => (cand, chosen)
  | b + 1, cand, chosen =>
    let ones := cand.filter fun j => keys.getD j 0 / 2 ^ b % 2 == 1
    if k ≤ chosen.length + ones.length then topSearch keys k b ones chosen
    else topSearch keys k b (cand.filter fun j => !ones.contains j) (chosen ++ ones)

/-- The columns of the `k` largest words. -/
def topChosen (words : List Nat) (k : Nat) : List Nat :=
  let (cand, chosen) := topSearch (words.map topKey) k 32 (List.range words.length) []
  chosen ++ cand.take (k - chosen.length)

/-- The search of row `row` of bu.topk: the chosen columns as a bitmap, and whether a word was poisoned. -/
def topkSearch (s : State) (r : Run) (row : Nat) : Nat × Bool :=
  let words := (List.range r.opa).map fun j => runWord s r (row * r.opa + j)
  let chosen := topChosen (words.map (·.1)) r.opb
  ((List.range r.opa).foldl (fun acc j => if chosen.contains j then acc + 2 ^ j else acc) 0, words.any (·.2))

/-- The bits of the bitmap that row `row` writes, from the first to before the last; the last row clears those beyond count. -/
def topkBits (r : Run) (row : Nat) : Nat × Nat :=
  (row * r.opa, if (row + 1) * r.opa = r.count then (r.count + 31) / 32 * 32 else (row + 1) * r.opa)

/-- Word `w` of the bitmap written after the search of a row (R299), each chosen column's bit 1 and the row's others 0. -/
def topkWord (r : Run) (row chosen : Nat) (poison : Bool) (w : Nat) (s : State) : State :=
  let (lo, hi) := topkBits r row
  let (old, pw) := stateWord s r (4 * w)
  let v := (List.range 32).foldl (fun acc b =>
    let n := 32 * w + b
    let bit := if lo ≤ n ∧ n < hi then chosen / 2 ^ (n - lo) % 2 else old / 2 ^ b % 2
    acc + 2 ^ b * bit) 0
  putState s r (4 * w) v (poison || pw)

/-! ## The steps of commands (R207, R269, R270, R298) -/

/-- A run may take its next step at a bank of its core, and the bank serves class 5. -/
def runTurn (s : State) (who : Runner) (r : Run) (p : Progress) (aged : Bool) (bank : Nat) (earlier : List Cmd) : Bool :=
  bankServes s r.core bank 5 aged && runAble s who r p bank earlier

/-- The command `k` of a bank queue, if it is of a code and its engine is not frozen. -/
def bankCmd (s : State) (c k code : Nat) : Option (Cmd × Run) :=
  match (s.coreOf c).bankQ[k]? with
  | none => none
  | some x => if cmdCode x.word = code && !frozen s c x then some (x, runOf x) else none

/-- Command `k` may take its next step at a bank. -/
def cmdTurn (s : State) (c k : Nat) (x : Cmd) (bank : Nat) : Bool :=
  runTurn s (.command c x.ident) (runOf x) x.progress x.aged bank ((s.coreOf c).bankQ.take k)

/-- Command `k` goes on by `step`; one whose target has failed since ends with status 0x04 (R219, R448; log entry 139). -/
def orLost (s : State) (c : Nat) (x : Cmd) (r : Run) (step : State) : State :=
  if (s.coreOf r.core).failed then refuseLate s c .bank x 4 else step

/-- What the steps of a command told so far. -/
def toldOf (x : Cmd) : Told := ⟨x.flags, x.poison, x.value.toNat⟩

def saveTold (s : State) (c : Nat) (x : Cmd) (t : Told) : State :=
  modCmd (served s c .bank x.ident) c .bank x.ident fun y =>
    { y with flags := t.flags, poison := t.poison, value := BitVec.ofNat 32 t.value, started := true }

/-- A bank command completes (R223). -/
def finishBank (s : State) (c : Nat) (x : Cmd) (t : Told) : State :=
  completeCmd s c .bank x (if t.poison then 6 else 0) t.flags t.poison t.value

/-- The value an element-wise command reports. -/
def elementValue (r : Run) (t : Told) : Told := if r.code = 0x3C || r.code = 0x3B then t else { t with value := r.count }

/-- One bank executes its next element of an element-wise command. -/
def elementStep (code c k bank : Nat) (s : State) : State :=
  match bankCmd s c k code with
  | none => s
  | some (x, r) =>
    match r.nextAt x.progress bank with
    | none => s
    | some e => orLost s c x r <|
      if !cmdTurn s c k x bank then s
      else
        let (t, s) := oneElement r e (toldOf x) s
        let s := modCmd (saveTold s c x t) c .bank x.ident fun y => { y with done := y.done ++ [bank] }
        if x.done.length + 1 = r.count then finishBank s c x (elementValue r t) else s

def execBuAdd (core k bank : Nat) (s : State) : Result := .next (elementStep 0x30 core k bank s)
def execBuMul (core k bank : Nat) (s : State) : Result := .next (elementStep 0x31 core k bank s)
def execBuScl (core k bank : Nat) (s : State) : Result := .next (elementStep 0x32 core k bank s)
def execBuMax (core k bank : Nat) (s : State) : Result := .next (elementStep 0x33 core k bank s)
def execBuMin (core k bank : Nat) (s : State) : Result := .next (elementStep 0x34 core k bank s)
def execBuFill (core k bank : Nat) (s : State) : Result := .next (elementStep 0x39 core k bank s)
def execBuFop (core k bank : Nat) (s : State) : Result := .next (elementStep 0x3C core k bank s)

/-- bu.cas: the one bank that holds its word. -/
def execBuCas (core k : Nat) (s : State) : Result :=
  .next (match (s.coreOf core).bankQ[k]? with
    | some x => elementStep 0x3B core k ((runOf x).bank 0) s
    | none => s)

/-- What a stateful command reads before its element 0 and keeps: m and s of bu.nsm, the new n of bu.wel (R221). -/
def readKept (s : State) (r : Run) : Nat :=
  match r.code with
  | 0x36 =>
    let (m, pm) := stateWord s r 0
    let (sum, ps) := stateWord s r 4
    m + 2 ^ 32 * sum + (if pm || ps then 2 ^ 64 else 0)
  | 0x37 => welCount r s
  | _ => 0

/-- Element `e` of a stateful command, with what it keeps. -/
def statefulElement (r : Run) (kept e : Nat) (t : Told) (s : State) : Told × State :=
  match r.code with
  | 0x35 => oesElement r e t s
  | 0x36 => nsmElement r (kept % 2 ^ 32) (kept / 2 ^ 32 % 2 ^ 32) (decide (2 ^ 64 ≤ kept)) e t s
  | 0x37 => welElement r kept e t s
  | _ => histElement r e t s

/-- One element of a stateful command, across the whole run. A bu.wel at the greatest count completes at once. -/
def statefulStep (code c k : Nat) (s : State) : State :=
  match bankCmd s c k code with
  | none => s
  | some (x, r) => orLost s c x r <|
    if !cmdTurn s c k x (r.bank x.count) then s
    else match (if code = 0x37 && !x.started then welFull r s else none) with
      | some t => finishBank s c x t
      | none =>
        let kept := if x.started then x.kept else readKept s r
        let (t, s) := statefulElement r kept x.count (toldOf x) s
        let s := modCmd (saveTold s c x t) c .bank x.ident fun y => { y with count := y.count + 1, kept := kept }
        if x.count + 1 = r.count then finishBank s c x t else s

def execBuOes (core k : Nat) (s : State) : Result := .next (statefulStep 0x35 core k s)
def execBuHist (core k : Nat) (s : State) : Result := .next (statefulStep 0x38 core k s)
def execBuWel (core k : Nat) (s : State) : Result := .next (statefulStep 0x37 core k s)
def execBuNsm (core k : Nat) (s : State) : Result := .next (statefulStep 0x36 core k s)

/-- A bu.topk between the search of a row and its last bitmap word: the words written, the columns chosen and the poison. -/
def topkPhase (x : Cmd) : Option (Nat × Nat × Bool) :=
  if x.kept = 0 then none else some (x.moved, x.kept / 4, x.kept / 2 % 2 == 1)

/-- bu.topk: the search of a row, or the next word of its bits (R222, R299). -/
def topkStep (c k : Nat) (s : State) : State :=
  match bankCmd s c k 0x3A with
  | none => s
  | some (x, r) => orLost s c x r <|
    if !cmdTurn s c k x (r.bank (x.count * r.opa)) then s
    else match topkPhase x with
      | none =>
        let (chosen, p) := topkSearch s r x.count
        modCmd (saveTold s c x ⟨x.flags, x.poison || p, 0⟩) c .bank x.ident fun y =>
          { y with kept := chosen * 4 + (if p then 2 else 0) + 1, moved := 0 }
      | some (n, chosen, p) =>
        let (lo, hi) := topkBits r x.count
        let w := lo / 32 + n
        let s := topkWord r x.count chosen p w s
        if w + 1 < (hi + 31) / 32 then modCmd s c .bank x.ident fun y => { y with moved := n + 1 }
        else if hi < r.count then modCmd s c .bank x.ident fun y => { y with kept := 0, moved := 0, count := y.count + 1 }
        else finishBank s c x ⟨x.flags, x.poison, r.count / r.opa * r.opb⟩

def execBuTopk (core k : Nat) (s : State) : Result := .next (topkStep core k s)

/-! ## fence.b (R169) -/

/-- A command of slot `k` to a core that a test picks has elements to execute. -/
def bankPending (s : State) (c k : Nat) (p : Nat → Bool) : Bool :=
  (s.coreOf c).bankQ.any fun x => x.owner == .slot k && p (runOf x).core

end Sys2Proof.Machine
end

