-- ==== Sys2Proof/Machine/Crypto.lean ====
section
/-!
DEFINITION. The two algorithms that R453 and R456 name: SHA-512 and Ed25519 as RFC 8032 gives it (log entry 11). Keys,
signatures and digests are lists of bytes.
-/

namespace Sys2Proof.Machine

/-! ## Numbers and bytes -/

/-- The little-endian bytes of a number. -/
def numBytes (n v : Nat) : List (BitVec 8) := (List.range n).map fun i => BitVec.ofNat 8 (v / 256 ^ i)

/-- Bytes as a little-endian number. -/
def bytesNum (l : List (BitVec 8)) : Nat := l.foldr (fun b acc => b.toNat + 256 * acc) 0

/-- The whole part of a root of degree `k` of `n`, of at most `bits` bits. -/
def wholeRoot (k n bits : Nat) : Nat :=
  (List.range bits).foldr (fun i r => r + if (r + 2 ^ i) ^ k ≤ n then 2 ^ i else 0) 0

/-! ## SHA-512 -/

/-- The first 80 primes. -/
def firstPrimes : List Nat := (List.range 410).filter fun n => 2 ≤ n && (List.range n).all fun d => d < 2 || n % d != 0

/-- The first 64 bits of the fractions of their cube roots, and of the square roots of eight of them. -/
def shaConstants : List (BitVec 64) := firstPrimes.map fun p => BitVec.ofNat 64 (wholeRoot 3 (p * 2 ^ 192) 68)
def shaStart : List (BitVec 64) := (firstPrimes.take 8).map fun p => BitVec.ofNat 64 (wholeRoot 2 (p * 2 ^ 128) 68)

/-- Three rotations, or two and a shift, combined. -/
def shaMix (x y : BitVec 64) (i j : Nat) : BitVec 64 := x.rotateRight i ^^^ x.rotateRight j ^^^ y

/-- The next word of a message schedule, whose words stand latest first. -/
def shaExtend (w : List (BitVec 64)) : List (BitVec 64) :=
  let a := w.getD 1 0
  let b := w.getD 14 0
  (shaMix a (a >>> 6) 19 61 + w.getD 6 0 + shaMix b (b >>> 7) 1 8 + w.getD 15 0) :: w

/-- A round on the eight working words. -/
def shaRound (h : List (BitVec 64)) (x : BitVec 64) : List (BitVec 64) :=
  match h with
  | [a, b, c, d, e, f, g, z] =>
    let t := z + shaMix e (e.rotateRight 41) 14 18 + ((e &&& f) ^^^ (~~~e &&& g)) + x
    [t + shaMix a (a.rotateRight 39) 28 34 + ((a &&& b) ^^^ (a &&& c) ^^^ (b &&& c)), a, b, c, d + t, e, f, g]
  | h => h

/-- A block of 16 words compressed into the eight. -/
def shaBlock (h block : List (BitVec 64)) : List (BitVec 64) :=
  let w := ((List.range 64).foldl (fun w _ => shaExtend w) block.reverse).reverse
  List.zipWith (· + ·) h ((List.zipWith (· + ·) w shaConstants).foldl shaRound h)

/-- A message with its padding, a multiple of 128 bytes. -/
def shaPadded (m : List (BitVec 8)) : List (BitVec 8) :=
  m ++ 0x80 :: List.replicate ((239 - m.length % 128) % 128) 0 ++ (numBytes 16 (8 * m.length)).reverse

/-- The blocks of a padded message, as words. -/
def shaBlocks (m : List (BitVec 8)) : List (List (BitVec 64)) :=
  (List.range (m.length / 128)).map fun i =>
    (List.range 16).map fun j => BitVec.ofNat 64 (bytesNum ((m.drop (128 * i + 8 * j)).take 8).reverse)

/-- SHA-512. -/
def sha512 (m : List (BitVec 8)) : List (BitVec 8) :=
  ((shaBlocks (shaPadded m)).foldl shaBlock shaStart).flatMap fun w => (numBytes 8 w.toNat).reverse

/-! ## Ed25519 -/

/-- The field's prime and the order of the base point. -/
def edP : Nat := 2 ^ 255 - 19
def edL : Nat := 2 ^ 252 + 27742317777372353535851937790883648493

/-- A power modulo the prime, of an exponent below 2^256. -/
def edPow (a n : Nat) : Nat :=
  (List.range 256).foldr (fun i r => r * r % edP * (if n / 2 ^ i % 2 = 1 then a else 1) % edP) 1

def edInv (a : Nat) : Nat := edPow a (edP - 2)

/-- The curve's constant. -/
def edD : Nat := (edP - 121665) * edInv 121666 % edP

/-- A point in extended coordinates. -/
structure EdPoint where
  x : Nat
  y : Nat
  z : Nat
  t : Nat
  deriving DecidableEq, Repr

def EdPoint.zero : EdPoint := ⟨0, 1, 1, 0⟩

def EdPoint.add (p q : EdPoint) : EdPoint :=
  let a := (p.y + edP - p.x) * (q.y + edP - q.x) % edP
  let b := (p.y + p.x) * (q.y + q.x) % edP
  let c := 2 * p.t * q.t % edP * edD % edP
  let d := 2 * p.z * q.z % edP
  let e := b + edP - a
  let f := d + edP - c
  let g := d + c
  let h := b + a
  ⟨e * f % edP, g * h % edP, f * g % edP, e * h % edP⟩

/-- A multiple of a point by a factor below 2^256. -/
def EdPoint.times (n : Nat) (p : EdPoint) : EdPoint :=
  (List.range 256).foldr (fun i (r : EdPoint) => if n / 2 ^ i % 2 = 1 then (r.add r).add p else r.add r) .zero

/-- Two points are the same. -/
def EdPoint.same (p q : EdPoint) : Bool := p.x * q.z % edP == q.x * p.z % edP && p.y * q.z % edP == q.y * p.z % edP

/-- The point that 32 bytes stand for, if they stand for one. -/
def edDecode (l : List (BitVec 8)) : Option EdPoint :=
  let y := bytesNum l % 2 ^ 255
  let sign := bytesNum l / 2 ^ 255
  let x2 := (y * y + edP - 1) % edP * edInv ((edD * (y * y % edP) + 1) % edP) % edP
  let r := edPow x2 ((edP + 3) / 8)
  let x := if r * r % edP = x2 then r else r * edPow 2 ((edP - 1) / 4) % edP
  if edP ≤ y || x * x % edP != x2 || (x = 0 && sign = 1) then none
  else
    let x := if x % 2 = sign then x else edP - x
    some ⟨x, y, 1, x * y % edP⟩

/-- The 32 bytes of a point. -/
def EdPoint.encode (p : EdPoint) : List (BitVec 8) :=
  let i := edInv p.z
  numBytes 32 (p.y * i % edP + 2 ^ 255 * (p.x * i % edP % 2))

/-- The base point: y is 4/5, and x even. -/
def edBase : EdPoint := (edDecode (numBytes 32 (4 * edInv 5 % edP))).getD .zero

/-- The number that a hash of several parts gives, modulo the order. -/
def edHash (l : List (BitVec 8)) : Nat := bytesNum (sha512 l) % edL

/-- Ed25519 verification (RFC 8032, 5.1.7). -/
def ed25519Verifies (key signature message : List (BitVec 8)) : Bool :=
  let s := bytesNum ((signature.drop 32).take 32)
  match edDecode key, edDecode (signature.take 32) with
  | some a, some r =>
    decide (s < edL)
      && ((edBase.times s).times 8).same ((r.add (a.times (edHash (signature.take 32 ++ key ++ message)))).times 8)
  | _, _ => false

/-- The factor and the prefix that a secret key of 32 bytes stands for (RFC 8032, 5.1.5). -/
def edSecret (secret : List (BitVec 8)) : Nat × List (BitVec 8) :=
  let h := sha512 secret
  (2 ^ 254 + bytesNum (h.take 32) % 2 ^ 254 / 8 * 8, h.drop 32)

/-- The public key of a secret one. -/
def edPublic (secret : List (BitVec 8)) : List (BitVec 8) := (edBase.times (edSecret secret).1).encode

/-- An Ed25519 signature (RFC 8032, 5.1.6). -/
def ed25519Sign (secret message : List (BitVec 8)) : List (BitVec 8) :=
  let (a, front) := edSecret secret
  let r := edHash (front ++ message)
  let point := (edBase.times r).encode
  point ++ numBytes 32 ((r + edHash (point ++ edPublic secret ++ message) * a) % edL)

end Sys2Proof.Machine
end

