-- ==== Sys2Proof/Machine/Stack.lean ====
section
/-!
DEFINITION. Compute in the memory stack (R224, R327–R339): program checks, the sequencer's commands and its word by
word execution on the banks, yield points, the shadow; and the base-die reduction engine (R225, R340–R342, R346).
-/

namespace Sys2Proof.Machine

/-! ## Program words (R328, R330) -/

def pwEnd (w : Word) : Bool := bitAt w 63
def pwYield (w : Word) : Bool := bitAt w 62
def pwFetch (w : Word) : Bool := bitAt w 61
def pwFrow (w : Word) : Nat := bitsOf w 60 44
def pwFcol (w : Word) : Nat := bitsOf w 43 39
def pwOp (w : Word) : Nat := bitsOf w 38 36
def pwBsel (w : Word) : Nat := bitsOf w 35 33
def pwAcc (w : Word) : Nat := bitsOf w 32 27
def pwWrite (w : Word) : Nat := bitsOf w 26 25
def pwWacc (w : Word) : Nat := bitsOf w 24 22
def pwWrow (w : Word) : Nat := bitsOf w 21 5
def pwWcol (w : Word) : Nat := bitsOf w 4 0

/-- A word meets R328: no reserved code and every field demand. -/
def wordOk (w : Word) : Bool :=
  (pwFetch w || (pwFrow w == 0 && pwFcol w == 0))
    && (match pwOp w with
        | 0 => pwBsel w == 0 && pwAcc w == 0
        | 1 => pwAcc w % 16 == 0
        | 2 => true
        | 3 | 4 | 5 => pwAcc w % 16 == 0 && pwBsel w == 0
        | _ => false)
    && (match pwWrite w with
        | 0 => pwWacc w == 0 && pwWrow w == 0 && pwWcol w == 0
        | 1 => true
        | 2 => pwWacc w % 2 == 0
        | _ => false)

/-- The rows that a word names, fetch before write-back. -/
def wordRows (w : Word) : List Nat :=
  (if pwFetch w then [pwFrow w] else []) ++ (if pwWrite w = 0 then [] else [pwWrow w])

/-- The column cycles of a word: one, and 16 for each row it names that is not the open one (R329); and the row then
open. -/
def wordCost (opened : Option Nat) (w : Word) : Nat × Option Nat :=
  (wordRows w).foldl (fun acc r => if acc.2 = some r then acc else (acc.1 + 16, some r)) (1, opened)

/-- Every block takes at most 64 column cycles (R330). A block starts with no row open, so its first row counts 16, as
the 48 column cycles of the 32-word blocks of program_bank_matvec say. -/
def blocksOk : List Word → Nat → Option Nat → Bool
  | [], _, _ => true
  | w :: rest, used, row =>
    let (cost, row') := wordCost row w
    decide (used + cost ≤ 64) && (if pwYield w || pwEnd w then blocksOk rest 0 none else blocksOk rest (used + cost) row')

/-- A row within a window after the offset (R330, R332). -/
def rowInWindow (lo hi off : BitVec 17) (r : Nat) : Bool :=
  let x := (r + off.toNat) % 2 ^ 17
  decide (lo.toNat ≤ x) && decide (x ≤ hi.toNat)

/-- The tests of R330 on an image of `plen` doublewords but the last, which concerns the window. -/
def imageOk (image : List Word) : Bool :=
  match image with
  | [] => false
  | h :: words =>
    let ihi := bitsOf h 33 17
    let ilo := bitsOf h 16 0
    bitsOf h 63 56 == 0x5A && bitsOf h 55 45 == words.length && decide (ilo ≤ ihi) && bitsOf h 44 34 == 0
      && !words.isEmpty && words.all wordOk && (words.getLast?.any pwEnd) && !(words.dropLast.any pwEnd)
      && words.all (fun w => !pwFetch w || within ilo ihi (pwFrow w))
      && words.all (fun w => pwWrite w == 0 || !within ilo ihi (pwWrow w)) && blocksOk words 0 none

def imageInWindow (lo hi off : BitVec 17) (image : List Word) : Bool :=
  (image.drop 1).all fun w => (wordRows w).all (rowInWindow lo hi off)

/-! ## The sequencer's state (R327, R333) -/

/-- The shadow takes effect (R333). -/
def Pch.applyShadow (p : Pch) : Pch :=
  { p with store := p.shadowStore.entries.foldl (fun t e => t.set e.1 e.2) p.store, shadowStore := {}
           starts := p.shadowStarts.getD p.starts, shadowStarts := none
           rowlo := (p.shadowWin.map (·.1)).getD p.rowlo, rowhi := (p.shadowWin.map (·.2)).getD p.rowhi
           shadowWin := none, rowoff := p.shadowOff.getD p.rowoff, shadowOff := none }

def Pch.shadowed (p : Pch) : Bool :=
  !p.shadowStore.entries.isEmpty || p.shadowStarts.isSome || p.shadowWin.isSome || p.shadowOff.isSome

/-- The configuration and program in force: nothing waits for the next start where no sequence runs (R333; log entry 136). -/
def Pch.inForce (p : Pch) : Pch := if p.running.isSome then p else p.applyShadow

/-- A program loaded from word `at_`: the start table marks it and clears the marks of the other words written. While
a sequence runs it goes to the shadow. -/
def Pch.loadProgram (p : Pch) (at_ : Nat) (image : List Word) : Pch :=
  let words := (List.range image.length).map fun i => (at_ + i, image.getD i 0)
  let starts := fun (old : List Nat) => insertSorted at_ (old.filter fun w => !(decide (at_ ≤ w) && decide (w < at_ + image.length)))
  if p.running.isSome then
    { p with shadowStore := words.foldl (fun t e => t.set e.1 e.2) p.shadowStore
             shadowStarts := some (starts (p.shadowStarts.getD p.starts)) }
  else
    let p := p.applyShadow
    { p with store := words.foldl (fun t e => t.set e.1 e.2) p.store, starts := starts p.starts }

/-- Every unit register of the pseudo-channel zero (R334). -/
def Pch.leaveAllBank (p : Pch) : Pch := { p with allBank := false, owner := 0, units := {} }

def Pch.unit (p : Pch) (b : Nat) : StackUnit := p.units.get StackUnit.zero b

/-- The unit's latch and accumulators zero, its broadcast registers kept (R334, R339). -/
def StackUnit.clear (u : StackUnit) : StackUnit := { StackUnit.zero with bv := u.bv, bvPoison := u.bvPoison }

/-- The banks of a mask, in increasing order. -/
def banksOf (m : BitVec 16) : List Nat := (List.range 16).filter fun b => bitAt m b

def Pch.clearUnits (p : Pch) (m : BitVec 16) : Pch :=
  { p with units := (banksOf m).foldl (fun t b => t.set b (p.unit b).clear) p.units }

/-- The bytes of column `col` of row `row` of a bank (R272, R327). -/
def columnAddr (stack pch bank row col : Nat) : Nat :=
  let o := row * 1024 + col * 32
  stack * 2 ^ 37 + o / 256 * 2 ^ 18 + bank * 2 ^ 14 + pch * 2 ^ 8 + o % 256

/-! ## Taking commands (R207, R224, R336) -/

/-- Two commands are for one pseudo-channel. -/
def samePch (x y : Cmd) : Bool := suStack y.word == suStack x.word && suPch y.word == suPch x.word

/-- A command goes before another of its pseudo-channel: an accepted su.abort, which nothing overtakes (R224), or a transfer
that the sequencer has begun (log entry 135). -/
def goesFirst (x y : Cmd) : Bool :=
  samePch x y && (cmdCode y.word == 0x55 || (y.ident != x.ident && y.started && (cmdCode y.word == 0x52 || cmdCode y.word == 0x54)))

/-- A command of a core's stack queue, if a step may take it: no earlier command of the core for the pseudo-channel stands
before it, and none of any core goes first. An su.abort is performed whatever stands there (R207, R224). -/
def stackCmd (s : State) (c k code : Nat) : Option Cmd :=
  match (s.coreOf c).stackQ[k]? with
  | none => none
  | some x =>
    let before := ((s.coreOf c).stackQ.take k).any (samePch x)
    let after := s.cores.entries.any fun e => e.2.stackQ.any (goesFirst x)
    if cmdCode x.word = code && (code == 0x55 || (!frozen s c x && !before && !after && x.held.isEmpty)) then some x else none

/-- The pseudo-channel of a command. -/
def pchFor (s : State) (x : Cmd) : Pch := s.pchOf (suStack x.word) (suPch x.word)
def setPchFor (s : State) (x : Cmd) (p : Pch) : State := s.setPch (suStack x.word) (suPch x.word) p

/-- The pseudo-channel is owned by another launch (R334). -/
def foreign (p : Pch) (x : Cmd) : Bool := p.allBank && p.owner != x.lid

/-- A command held on a page fault. -/
def holdCmd (s : State) (c : Nat) (e : Engine) (x : Cmd) (key : BitVec 32) : State :=
  modCmd s c e x.ident fun y => { y with held := [(0, key)] }

/-- The pending write bursts of a pseudo-channel performed, in order: those of the banks that a test picks. -/
def flushPch (s : State) (stack pch : Nat) (banks : Nat → Bool) : State :=
  (s.bursts.map (·.block)).foldl (fun s b =>
    let (st, p, bank) := bankOf (b * 256)
    if st = stack && p == pch && banks bank then flushBurst s b else s) s

/-- SU_MODE_ENTER (R334): after the pending ordinary requests. -/
def execSuModeEnter (core k : Nat) (s : State) : Result :=
  .next (match stackCmd s core k 0x50 with
    | none => s
    | some x =>
      if !suMode x.word then s
      else if foreign (pchFor s x) x then refuseLate s core .stack x 7
      else if (pchFor s x).allBank then completeCmd s core .stack x 0 0 false 0
      else
        let s := flushPch s (suStack x.word) (suPch x.word) fun _ => true
        completeCmd (setPchFor s x { pchFor s x with allBank := true, owner := x.lid, units := {} }) core .stack x 0 0 false 0)

/-- SU_MODE_LEAVE (R334, R336). -/
def execSuModeLeave (core k : Nat) (s : State) : Result :=
  .next (match stackCmd s core k 0x50 with
    | none => s
    | some x =>
      let p := pchFor s x
      if suMode x.word then s
      else if foreign p x || p.running.isSome then refuseLate s core .stack x 7
      else completeCmd (if p.allBank then setPchFor s x p.leaveAllBank else s) core .stack x 0 0 false 0)

/-- SU_PROG (R224, R330, R333). -/
def execSuProg (core k : Nat) (s : State) : Result :=
  .next (match stackCmd s core k 0x51 with
    | none => s
    | some x =>
      if foreign (pchFor s x) x then refuseLate s core .stack x 7
      else match rangeCheck x.sg (cmdAddr x.word) (8 * suLen x.word) true false with
        | none => completeCmd s core .stack x 5 0 false 0
        | some va =>
          match readRange s core x va (8 * suLen x.word) with
          | .range s => completeCmd s core .stack x 5 0 false 0
          | .held key s => holdCmd s core .stack x key
          | .wait s => s
          | .ok (v, marks) s =>
            let p := (pchFor s x).inForce
            let image := (List.range (suLen x.word)).map fun i => BitVec.ofNat 64 (v / 2 ^ (64 * i))
            if !marks.isEmpty then completeCmd s core .stack x 6 0 true 0
            else if !imageOk image || !imageInWindow p.rowlo p.rowhi p.rowoff image then refuseLate s core .stack x 2
            else completeCmd (setPchFor s x (p.loadProgram (suStart x.word) image)) core .stack x 0 0 false (suLen x.word))

/-- A transfer bank by bank has done its next bank: after the last it completes. -/
def bankDone (s : State) (c : Nat) (x : Cmd) (poison : Bool) : State :=
  let bad := x.poison || poison
  let n := (banksOf (suMask x.word)).length
  if x.count + 1 = n then completeCmd s c .stack x (if bad then 6 else 0) 0 bad (256 * n)
  else modCmd s c .stack x.ident fun y => { y with count := y.count + 1, poison := bad }

/-- What a bank's transfer comes to: done, ended by a failing address (R462), held, or not yet. -/
def bankOutcome (c : Nat) (x : Cmd) : EngDone State → State
  | .range s => completeCmd s c .stack x 5 0 false (256 * x.count)
  | .held key s => holdCmd s c .stack x key
  | .wait s => s
  | .ok t _ => t

/-- The next bank of a transfer between banks and memory, and the address of its 256 bytes (R336). -/
def bankAddress (x : Cmd) (r w : Bool) : Option (Nat × Nat) :=
  match (banksOf (suMask x.word))[x.count]? with
  | none => none
  | some b => (rangeCheck x.sg (cmdAddr x.word + BitVec.ofNat 64 (256 * b)) 256 r w).map fun va => (b, va)

/-- A bank's broadcast registers take the 256 bytes read for it, each with the poison of its own bytes. -/
def StackUnit.broadcast (u : StackUnit) (v : Nat) (marks : List Nat) : StackUnit :=
  { u with bv := Vector.ofFn fun (i : Fin 8) => BitVec.ofNat 256 (v / 2 ^ (256 * i.val))
           bvPoison := marks.foldl (fun m i => setBits m (i / 8) (i / 8) 1) 0 }

/-- SU_BCAST (R336): the vector of the next bank. The checks are made when the command is taken. -/
def execSuBcast (core k : Nat) (s : State) : Result :=
  .next (match stackCmd s core k 0x52 with
    | none => s
    | some x =>
      let p := pchFor s x
      if !x.started && (foreign p x || !p.allBank) then refuseLate s core .stack x 7
      else if !x.started && p.running.isSome then s
      else
        let s := modCmd s core .stack x.ident fun y => { y with started := true }
        match bankAddress x true false with
        | none => bankOutcome core x (.range s)
        | some (b, va) =>
          bankOutcome core x (match readRange s core x va 256 with
            | .ok (v, marks) s =>
              let p := pchFor s x
              let p := { p with units := p.units.set b ((p.unit b).broadcast v marks) }
              .ok (bankDone (setPchFor s x p) core x !marks.isEmpty) s
            | other => other.map fun _ => s))

/-! ## One word on one bank (R329) -/

/-- Lane `l` of a column of FP16. -/
def halfLane (v : BitVec 256) (l : Nat) : Nat := bitsOf v (16 * l + 15) (16 * l)

/-- What a bank's word raises. -/
structure WordDone where
  unit : StackUnit
  flags : BitVec 7
  poison : Bool

/-- An accumulator replaced, with its mark. -/
def StackUnit.setAcc (u : StackUnit) (i v : Nat) (poison : Bool) : StackUnit :=
  { u with acc := vset u.acc i (BitVec.ofNat 32 v), accPoison := setBits u.accPoison i i (if poison then 1 else 0) }

/-- FP16 widened to FP32. -/
def widen16 (c : Nat) : Nat × BitVec 7 :=
  let v := decodeFp fp16 c
  ((roundTo fp32 .rne false 0 v).1, flagIf v.sNan flagNv)

/-- The arithmetic of a word on the latch just fetched. -/
def unitArith (w : Word) (u : StackUnit) : StackUnit × BitVec 7 :=
  let b := vget u.bv 0 (pwBsel w)
  let bp := bitAt u.bvPoison (pwBsel w)
  let base := 16 * (pwAcc w / 16)
  let lanes := fun (f : Nat → Nat → Nat × BitVec 7) (mark : Bool) =>
    (List.range 16).foldl (fun (acc : StackUnit × BitVec 7) l =>
      let old := (vget acc.1.acc 0 (base + l)).toNat
      let (v, fl) := f l old
      (acc.1.setAcc (base + l) v (mark || bitAt acc.1.accPoison (base + l)), acc.2 ||| fl)) (u, 0)
  match pwOp w with
  | 1 => lanes (fun l old => f32 .rne (fmaVal .rne (decodeFp fp16 (halfLane u.fl l)) (decodeFp fp16 (halfLane b l)) (dec32 old)))
      (u.flPoison || bp)
  | 2 =>
    let sum := groupSum 16 ((List.range 16).map fun l => (decodeFp fp16 (halfLane u.fl l), decodeFp fp16 (halfLane b l)))
    let (t, f) := rounded fp32 .rne 0 sum
    let (v, g) := add32 (vget u.acc 0 (pwAcc w)).toNat t
    (u.setAcc (pwAcc w) v (u.flPoison || bp || bitAt u.accPoison (pwAcc w)), f ||| g)
  | 3 =>
    ((List.range 16).foldl (fun u l => u.setAcc (base + l) 0 false) u, 0)
  | 4 => lanes (fun l old => f32 .rne (addVal .rne (dec32 old) (decodeFp fp16 (halfLane u.fl l)))) u.flPoison
  | 5 => lanes (fun l old =>
      let (x, f) := widen16 (halfLane u.fl l)
      let (v, g) := max32 old x
      (v, f ||| g)) u.flPoison
  | _ => (u, 0)

/-- The 32 bytes of a write-back, their poison and flags. -/
def writeBack (w : Word) (u : StackUnit) : Nat × Bool × BitVec 7 :=
  if pwWrite w = 1 then
    (List.range 8).foldl (fun (acc : Nat × Bool × BitVec 7) i =>
      let j := 8 * pwWacc w + i
      (acc.1 + 2 ^ (32 * i) * (vget u.acc 0 j).toNat, acc.2.1 || bitAt u.accPoison j, acc.2.2)) (0, false, 0)
  else
    (List.range 16).foldl (fun (acc : Nat × Bool × BitVec 7) i =>
      let j := 16 * (pwWacc w / 2) + i
      let v := dec32 (vget u.acc 0 j).toNat
      let (c, f) := roundTo fp16 .rne false 0 v
      (acc.1 + 2 ^ (16 * i) * c, acc.2.1 || bitAt u.accPoison j, acc.2.2 ||| f ||| flagIf v.sNan flagNv)) (0, false, 0)

/-- One word executed by one bank: fetch, arithmetic, write-back. -/
def bankWord (x : Cmd) (w : Word) (bank : Nat) (acc : State × BitVec 7 × Bool) : State × BitVec 7 × Bool :=
  let (s, flags, bad) := acc
  let stack := suStack x.word
  let pch := suPch x.word
  let p := s.pchOf stack pch
  let row := fun r => (r + p.rowoff.toNat) % 2 ^ 17
  let u := p.unit bank
  let (u, fetched) :=
    if pwFetch w then
      let (v, poison) := s.load (columnAddr stack pch bank (row (pwFrow w)) (pwFcol w)) 32
      ({ u with fl := BitVec.ofNat 256 v, flPoison := poison }, poison)
    else (u, false)
  let (u, f) := unitArith w u
  let s := s.setPch stack pch { p with units := p.units.set bank u }
  if pwWrite w = 0 then (s, flags ||| f, bad || fetched)
  else
    let (v, poison, g) := writeBack w u
    let pa := columnAddr stack pch bank (row (pwWrow w)) (pwWcol w)
    (noteGlobal (s.engineStore pa 32 v poison) pa 32 true, flags ||| f ||| g, bad || fetched)

/-! ## Sequences (R329, R334, R337) -/

/-- The program whose header stands at a word of the store. -/
def programAt (p : Pch) (start : Nat) : List Word :=
  let h := p.store.get 0 start
  (List.range (bitsOf h 55 45 + 1)).map fun i => p.store.get 0 (start + i)

/-- A sequence starts, if its start and its rows pass: the shadow takes effect, and latch and accumulators are zeroed. Status 0x05
completes the command, as R333 says, and its token goes where the done field directs (DEDUCED, log entry 163). -/
def startSequence (s : State) (c : Nat) (x : Cmd) (p : Pch) : State :=
  let p := p.applyShadow
  if !p.starts.contains (suStart x.word) then refuseLate s c .stack x 2
  else if !imageInWindow p.rowlo p.rowhi p.rowoff (programAt p (suStart x.word)) then completeCmd s c .stack x 5 0 false 0
  else
    let q : Sequence := { core := c, ident := x.ident, banks := suMask x.word, at_ := suStart x.word + 1, openRow := none
                          atYield := false, cycles := 0, flags := 0, poison := false }
    let s := setPchFor s x { p.clearUnits (suMask x.word) with running := some q }
    modCmd s c .stack x.ident fun y => { y with started := true }

/-- The host holds a line that the word would write (R399): a snoop is sent, and the word waits. -/
def wordBlocked (x : Cmd) (w : Word) (q : Sequence) (s : State) : Bool × State :=
  if pwWrite w = 0 then (false, s)
  else
    let p := pchFor s x
    (banksOf q.banks).foldl (fun (acc : Bool × State) b =>
      let (blocked, s) := snoopBlocked acc.2
        (columnAddr (suStack x.word) (suPch x.word) b ((pwWrow w + p.rowoff.toNat) % 2 ^ 17) (pwWcol w)) 32
      (acc.1 || blocked, s)) (false, s)

/-- SU_YIELD_POINT (R337): the ordinary requests that wait at the banks are served, and a refresh that is due. -/
def yieldPoint (s : State) (x : Cmd) (q : Sequence) : State :=
  let s := flushPch s (suStack x.word) (suPch x.word) fun b => bitAt q.banks b
  setPchFor s x { pchFor s x with running := some { q with atYield := true, openRow := none }, refreshDue := false }

/-- The requester's own reserved granule (R161). -/
def ownGranule (s : State) (f : Flight) (g : Nat) : Bool := (s.slotOf f.core f.slot).reservation == .global g

/-- The queues, waiting entries and watches of the granules whose home is core `h`. -/
def homeQueues (s : State) (h : Nat) : List Queue := s.queues.filter fun q => homeCore s q.granule == h
def homeWaiters (s : State) (h : Nat) : Nat := ((homeQueues s h).map fun q => q.waiters.length).sum
def homeWatches (s : State) (h : Nat) : Nat := (s.watches.filter fun w => w.global && homeCore s w.granule == h).length

/-- A request that wants a place finds one (R278): a place among the waiters of its granule's queue, a queue of its own,
or a watch. -/
def placeFree (s : State) (h : Nat) (f : Flight) (g : Nat) : Bool :=
  if f.kind == .wrs then decide (homeWatches s h < 256)
  else if s.queues.any fun q => q.granule == g then decide (homeWaiters s h < 512)
  else decide ((homeQueues s h).length < 64)

/-- A wrs whose granule differs needs no watch. -/
def needsPlace (s : State) (pa : Nat) (f : Flight) : Bool :=
  match f.kind with
  | .wrs => BitVec.ofNat 64 (granuleValue s (granuleOf pa)).1 == f.expected
  | .lres | .amo _ | .cas => !ownGranule s f (granuleOf pa)
  | _ => false

/-- An address lies in a bank of a sequence. -/
def inSequence (x : Cmd) (q : Sequence) (pa : Nat) : Bool :=
  let (stack, pch, bank) := bankOf pa
  !isHost pa && stack == suStack x.word && pch == suPch x.word && bitAt q.banks bank

/-- The access of a request goes to an array of the sequence, and the host holds no copy of the line. -/
def goesThere (s : State) (x : Cmd) (q : Sequence) (pol : Policy) (pa : Nat) : Bool :=
  inSequence x q pa && needsArray s pol pa && !s.hostLines.contains (pa / 32)

/-- A request on its way to a home, or first in the admission buffer of one with its place free, waits for the array. -/
def flightWaits (s : State) (x : Cmd) (q : Sequence) (admitted : Option Nat) (f : Flight) : Bool :=
  match f.target with
  | .home pa pol => goesThere s x q pol pa && !(pol == .combine && f.kind == .store)
      && admitted.all fun h => !needsPlace s pa f || placeFree s h f (granuleOf pa)
  | _ => false

/-- What a slot waits for is the array: a block, or the line of its fetch. -/
def slotWaits (s : State) (x : Cmd) (q : Sequence) (c k : Nat) : Bool :=
  match (s.slotOf c k).wait with
  | .poll (.array pol pa) => goesThere s x q pol pa
  | .poll .fetch =>
    (match slotCheck s c k (s.slotOf c k).pc 4 false false true with
     | .ok .global p =>
       (match translateSlot s c k p false false true with
        | .hit pa pol => goesThere s x q pol pa
        | _ => false)
     | _ => false)
  | _ => false

/-- A walk can go on now and could not while the sequence runs. -/
def walkWaits (s : State) (x : Cmd) (q : Sequence) (cl : Nat) (r : XlateReq) : Bool :=
  let running := setPchFor s x { pchFor s x with running := some { q with atYield := false } }
  r.failed.isNone && (match walk running cl r.ctag r.va r.read r.write r.exec, walk s cl r.ctag r.va r.read r.write r.exec with
    | .snooped _, .snooped _ => false
    | .snooped _, _ => true
    | _, _ => false)

/-- The ordinary requests of a core that wait for the sequence's arrays. -/
def coreWaits (s : State) (x : Cmd) (q : Sequence) (c : Nat) (r : Core) : Bool :=
  (r.admission.head?.any (flightWaits s x q (some c)))
    || (r.commands.any fun y => y.waits.any (inSequence x q))
    || (List.range 8).any (slotWaits s x q c)

/-- Ordinary requests for the arrays of the sequence's banks that waited for its yield point: it resumes once they are served
(R337). -/
def requestsWait (s : State) (x : Cmd) (q : Sequence) : Bool :=
  s.flights.any (flightWaits s x q none) || (s.peerCalls.any fun r => goesThere s x q .homed r.pa)
    || (s.queues.any fun u => u.holder.isNone && u.waiters.head?.any (flightWaits s x q none))
    || (s.clusters.entries.any fun e => e.2.waiting.any (walkWaits s x q e.1))
    || s.cores.entries.any fun e => coreWaits s x q e.1 e.2

/-- The next word of a running sequence; after a yield point, once the requests that waited there have been served. -/
def runWordStep (s : State) (c : Nat) (x : Cmd) (q : Sequence) : State :=
  let w := (pchFor s x).store.get 0 q.at_
  if q.atYield && requestsWait s x q then s
  else match wordBlocked x w q s with
  | (true, s) => s
  | (false, s) =>
    let (cost, opened) := wordCost q.openRow w
    let (s, f, bad) := (banksOf q.banks).foldl (fun acc b => bankWord x w b acc) (s, q.flags, q.poison)
    let q := { q with at_ := q.at_ + 1, openRow := opened, atYield := false, cycles := q.cycles + cost, flags := f, poison := bad }
    if pwEnd w then
      let s := yieldPoint s x q
      let s := setPchFor s x { pchFor s x with running := none }
      completeCmd s c .stack x (if bad then 6 else 0) f bad q.cycles
    else if pwYield w then yieldPoint s x q
    else setPchFor s x { pchFor s x with running := some q }

/-- SU_RUN: the start of a sequence, or its next word. -/
def execSuRun (core k : Nat) (s : State) : Result :=
  .next (match stackCmd s core k 0x53 with
    | none => s
    | some x =>
      let p := pchFor s x
      match p.running with
      | some q => if q.core = core && q.ident == x.ident then runWordStep s core x q
                  else if foreign p x then refuseLate s core .stack x 7 else s
      | none => if foreign p x || !p.allBank then refuseLate s core .stack x 7 else startSequence s core x p)

/-- SU_READ (R336): the accumulators of the next bank. The checks are made when the command is taken. -/
def execSuRead (core k : Nat) (s : State) : Result :=
  .next (match stackCmd s core k 0x54 with
    | none => s
    | some x =>
      let p := pchFor s x
      if !x.started && (foreign p x || !p.allBank || p.running.isSome) then refuseLate s core .stack x 7
      else
        let s := modCmd s core .stack x.ident fun y => { y with started := true }
        match bankAddress x false true with
        | none => bankOutcome core x (.range s)
        | some (b, va) =>
          let u := p.unit b
          let v := (List.range 64).foldl (fun acc i => acc + 2 ^ (32 * i) * (vget u.acc 0 i).toNat) 0
          let marks := fun i m => (List.range ((m + 3) / 4)).any fun j => bitAt u.accPoison (i / 4 + j)
          bankOutcome core x (match writeRange resultStore s core x va 256 v marks with
            | .ok lost s => .ok (bankDone s core x (lost || u.accPoison != 0)) s
            | other => other.map fun _ => s))

/-- A running sequence ended at a column-cycle boundary (R339): its su.run completes with status 0x08. -/
def abortSequence (s : State) (stack pch : Nat) : State :=
  let p := s.pchOf stack pch
  match p.running with
  | none => s
  | some q =>
    let s := s.setPch stack pch { p.clearUnits q.banks with running := none }
    match findCmd s q.core .stack q.ident with
    | some x => completeCmd s q.core .stack x 8 q.flags q.poison q.cycles
    | none => s

/-- SU_ABORT. -/
def execSuAbort (core k : Nat) (s : State) : Result :=
  .next (match stackCmd s core k 0x55 with
    | none => s
    | some x =>
      let p := pchFor s x
      if foreign p x then refuseLate s core .stack x 7
      else completeCmd (abortSequence s (suStack x.word) (suPch x.word)) core .stack x 0 0 false
        (if p.running.isSome then 1 else 0))

/-- The commands of a launch queued for a pseudo-channel complete with status 0x08 (R335). -/
def cancelQueued (s : State) (stack pch : Nat) (lid : BitVec 32) : State :=
  (s.cores.entries.map (·.1)).foldl (fun s c =>
    ((s.coreOf c).stackQ.filter fun x => suStack x.word == stack && suPch x.word == pch && x.lid == lid).foldl
      (fun s x => completeCmd s c .stack x 8 0 false 0) s) s

/-- A pseudo-channel released (R335). -/
def releasePch (s : State) (stack pch : Nat) : State :=
  let s := abortSequence s stack pch
  let p := s.pchOf stack pch
  let s := if p.allBank then cancelQueued s stack pch p.owner else s
  let p := s.pchOf stack pch
  if p.allBank then s.setPch stack pch p.leaveAllBank else s

/-- REFRESH (R337): served at once, or at the next yield point of a running sequence. -/
def execRefresh (stack pch : Nat) (s : State) : Result :=
  .next (let p := s.pchOf stack pch
    if stack < 16 && pch < 64 && p.running.isSome then s.setPch stack pch { p with refreshDue := true } else s)

/-! ## The base-die reduction engine (R225, R340–R342, R346) -/

/-- A doubleword of the parameter block. -/
def blockWord (block i : Nat) : Word := BitVec.ofNat 64 (block / 2 ^ (64 * i))
def blockElems (block : Nat) : Nat := block / 2 ^ (8 * 88) % 2 ^ 32

/-- A dst that partly overlaps an operand. -/
def partlyOverlaps (a b : Word) (n : Nat) : Bool :=
  a != b && decide (a.toNat < b.toNat + n) && decide (b.toNat < a.toNat + n)

/-- The first check of R341. -/
def blockOk (block nops : Nat) : Bool :=
  let elems := blockElems block
  elems % 8 == 0 && within 8 1048576 elems && block / 2 ^ (8 * 92) == 0 && (blockWord block 8).toNat % 32 == 0
    && (List.range nops).all fun i =>
      (blockWord block i).toNat % 32 == 0 && !partlyOverlaps (blockWord block 8) (blockWord block i) (4 * elems)

/-- Every page of a range translated, and its address tested. -/
def pagesOk (c : Nat) (x : Cmd) (r w : Bool) (test : Nat → Bool) : List Nat → State → EngDone Bool
  | [], s => .ok true s
  | va :: rest, s =>
    match engineAddress s c x va r w with
    | (.ok pa _, s) => if test pa then pagesOk c x r w test rest s else .ok false s
    | (.range, s) => .range s
    | (.held k, s) => .held k s
    | (.wait, s) => .wait s

/-- The pages of 64 KiB that a range touches, by an address in each. -/
def pagesOf (va n : Nat) : List Nat := (List.range ((va % 2 ^ 16 + n + 2 ^ 16 - 1) / 2 ^ 16)).map fun i => max va (va / 2 ^ 16 * 2 ^ 16 + i * 2 ^ 16)

/-- The second check of R341 on a list of ranges: address, length, read, write, and whether it must lie in the stack. -/
def rangesOk (c : Nat) (x : Cmd) : List (Word × Nat × Bool × Bool × Bool) → State → EngDone Bool
  | [], s => .ok true s
  | (a, n, r, w, here) :: rest, s =>
    match rangeCheck x.sg a n r w with
    | none => .ok false s
    | some va =>
      match pagesOk c x r w (fun pa => !here || pa / 2 ^ 37 == suStack x.word) (pagesOf va n) s with
      | .ok true s => rangesOk c x rest s
      | other => other

def blockRanges (block nops : Nat) : List (Word × Nat × Bool × Bool × Bool) :=
  let n := 4 * blockElems block
  (List.range nops).map (fun i => (blockWord block i, n, true, false, true))
    ++ [(blockWord block 8, n, false, true, false), (blockWord block 9, 8, false, true, false)]

/-- bre.sum ended by a failing address once it has begun to write (R462). -/
def endSum (s : State) (c : Nat) (x : Cmd) : State := completeCmd s c .reduction x 5 0 false 0

/-- bre.sum refused at its start: its only effect is its token (R116, R341). -/
def refuseSum (s : State) (c : Nat) (x : Cmd) (status : Nat) : State := refuseLate s c .reduction x status

/-- The start of bre.sum: its block is read and its addresses are checked and translated. -/
def startSum (s : State) (c : Nat) (x : Cmd) : State :=
  match rangeCheck x.sg (cmdAddr x.word) 128 true false with
  | none => refuseSum s c x 5
  | some va =>
    match readRange s c x va 128 with
    | .range s => refuseSum s c x 5
    | .held key s => holdCmd s c .reduction x key
    | .wait s => s
    | .ok (block, marks) s =>
      if !blockOk block (breOps x.word) then refuseSum s c x 2
      else if bitsOf (blockWord block 9) 2 0 != 0 then refuseSum s c x 5
      else match rangesOk c x (blockRanges block (breOps x.word)) s with
        | .ok true s => modCmd s c .reduction x.ident fun y =>
            { y with started := true, kept := block, poison := !marks.isEmpty }
        | .ok false s => refuseSum s c x 5
        | .range s => refuseSum s c x 5
        | .held key s => holdCmd s c .reduction x key
        | .wait s => s

/-- The 32 bytes of an operand at element `e`, from the HBM array (R342). -/
def operandLine (c : Nat) (x : Cmd) (block e i : Nat) (s : State) : EngDone (Nat × Bool) :=
  match rangeCheck x.sg (blockWord block i + BitVec.ofNat 64 (4 * e)) 32 true false with
  | none => .range s
  | some va =>
    match engineAddress s c x va true false with
    | (.ok pa _, s) => .ok (s.load pa 32) s
    | (.range, s) => .range s
    | (.held k, s) => .held k s
    | (.wait, s) => .wait s

def operandLines (c : Nat) (x : Cmd) (block e : Nat) : List Nat → State → EngDone (List (Nat × Bool))
  | [], s => .ok [] s
  | i :: rest, s =>
    match operandLine c x block e i s with
    | .ok a s => (operandLines c x block e rest s).map (a :: ·)
    | .range s => .range s
    | .held k s => .held k s
    | .wait s => .wait s

/-- Eight elements summed in the order of R65. -/
def sumLines (l : List (Nat × Bool)) : Nat × BitVec 7 :=
  (List.range 8).foldl (fun (acc : Nat × BitVec 7) j =>
    let (v, f) := sumEight (l.map fun a => a.1 / 2 ^ (32 * j) % 2 ^ 32)
    (acc.1 + 2 ^ (32 * j) * v, acc.2 ||| f)) (0, 0)

/-- The next eight elements of bre.sum. -/
def sumStep (s : State) (c : Nat) (x : Cmd) : State :=
  match operandLines c x x.kept x.count (List.range (breOps x.word)) s,
        rangeCheck x.sg (blockWord x.kept 8 + BitVec.ofNat 64 (4 * x.count)) 32 false true with
  | .ok l s, some va =>
    let (v, f) := sumLines l
    let bad := l.any (·.2)
    (match writeRange resultStore s c x va 32 v fun _ _ => bad with
     | .ok lost s => modCmd s c .reduction x.ident fun y =>
         { y with count := y.count + 8, flags := y.flags ||| f, poison := y.poison || bad || lost }
     | .held key s => holdCmd s c .reduction x key
     | .wait s => s
     | .range s => endSum s c x)
  | .held key s, _ => holdCmd s c .reduction x key
  | .wait s, _ => s
  | .range s, _ => endSum s c x
  | .ok _ s, none => endSum s c x

/-- The results may stand in the port's combining buffer: a page of dst is a COMBINE page, or not known to be another. -/
def combinesDst (s : State) (c : Nat) (x : Cmd) : Bool :=
  let n := 4 * blockElems x.kept
  match rangeCheck x.sg (blockWord x.kept 8) n false true with
  | none => false
  | some va => (pagesOf va n).any fun a => match translate s (clusterOf c) x.ctag a false true false with
    | .hit _ pol => pol == .combine
    | _ => true

/-- fval as a plain store at the flag's place (R275, R346). -/
def storeFlag (s : State) (c : Nat) (pol : Policy) (pa fval : Nat) : State :=
  if pol = .combine then combineStore s (clusterOf c) pa 8 fval none
  else noteGlobal (homeStore s pol pa 8 fval none) pa 8 (pol == .direct)

/-- The flag, and then the token (R342, R346). The flag is written with release semantics at package scope: results that stand in
the port's combining buffer are written out first (R292, R304). -/
def finishSum (s : State) (c : Nat) (x : Cmd) : State :=
  let s := if combinesDst s c x then writeOutAll s (clusterOf c) else s
  if combinesDst s c x && !(s.clusterAt (clusterOf c)).combine.isEmpty then s
  else match rangeCheck x.sg (blockWord x.kept 9) 8 false true with
  | none => endSum s c x
  | some va =>
    let fval := (blockWord x.kept 10).toNat
    let done := fun s bad => completeCmd s c .reduction x (if bad then 6 else 0) x.flags bad (breOps x.word)
    match engineAddress s c x va false true with
    | (.ok pa pol, s) =>
      (match apertureOf s pa with
       | some (rank, there) =>
         (match peerTransfer s c (cmdRequester x) x.ctag x.lid rank there 8 (some fun _ _ => (fval, false)) with
          | (some r, s) => done s (x.poison || !r.2.isEmpty)
          | (none, s) => s)
       | none =>
         match snoopBlocked s pa 8 with
         | (true, s) => s
         | (false, s) =>
           done (storeFlag s c pol pa fval) x.poison)
    | (.range, s) => endSum s c x
    | (.held key, s) => holdCmd s c .reduction x key
    | (.wait, s) => s

/-- BRE_SUM: per stack in acceptance order (R207). -/
def execBreSum (core k : Nat) (s : State) : Result :=
  .next (match (s.coreOf core).reductionQ[k]? with
    | none => s
    | some x =>
      let before := s.cores.entries.any fun e =>
        e.2.reductionQ.any fun y => suStack y.word == suStack x.word && decide (y.ident < x.ident)
      if before || frozen s core x || !x.held.isEmpty then s
      else if !x.started then startSum s core x
      else if x.count < blockElems x.kept then sumStep s core x
      else finishSum s core x)

end Sys2Proof.Machine
end

