-- ==== Sys2Proof/Machine/Fence.lean ====
section
/-!
DEFINITION. Scope words (R5–R7, R395) and the fences (R167–R170, R292).
-/

namespace Sys2Proof.Machine

/-! ## Scope words -/

def scopeLevel (w : Word) : Nat := bitsOf w 23 22
def scopeXmin (w : Word) : Nat := bitsOf w 6 0
def scopeYmin (w : Word) : Nat := bitsOf w 10 7
def scopeXmax (w : Word) : Nat := bitsOf w 17 11
def scopeYmax (w : Word) : Nat := bitsOf w 21 18

/-- A malformed scope word (R7). -/
def scopeMalformed (w : Word) : Bool :=
  bitsOf w 63 24 != 0
    || (scopeLevel w == 1 && (decide (scopeXmax w < scopeXmin w) || decide (scopeYmax w < scopeYmin w) || decide (79 < scopeXmax w)))
    || (scopeLevel w == 3 && decide (79 < scopeXmin w))

/-- The cores that a scope word names, before the fold table: `none` is every core (R6). -/
def scopeNames (w : Word) : Option (List Nat) :=
  if scopeLevel w = 3 then some [coreAt (scopeXmin w) (scopeYmin w)]
  else if scopeLevel w = 1 then
    some ((List.range (scopeYmax w + 1 - scopeYmin w)).flatMap fun dy =>
      (List.range (scopeXmax w + 1 - scopeXmin w)).map fun dx => coreAt (scopeXmin w + dx) (scopeYmin w + dy))
  else none

/-- The physical cores of a thread's scope word, each routed through the context's fold table (R395). -/
def scopeCores (s : State) (c k : Nat) (w : Word) : Option (List Nat) :=
  (scopeNames w).map fun l => l.map fun v => (routeCore s c k v).1

/-- A core lies in a scope. -/
def inScope (cores : Option (List Nat)) (c : Nat) : Bool :=
  match cores with
  | none => true
  | some l => l.contains c

/-! ## What a fence waits for -/

/-- A plain fence completes (R168): its scope lies in the thread's own cluster, or no COMBINE store of the thread is
still in a combining buffer. -/
def fenceHolds (s : State) (c k : Nat) (w : Word) : Bool :=
  !combinePending s c k
    || (match scopeCores s c k w with
        | none => false
        | some l => l.all fun d => clusterOf d == clusterOf c)

/-- fence.b completes (R169). -/
def fenceBankHolds (s : State) (c k : Nat) (w : Word) : Bool :=
  !bankPending s c k fun d => inScope (scopeCores s c k w) d

/-- The cores of a launch placed at an origin, each with the rank of its first crew member. -/
def bandCores (r : Launch) (o : Nat) : List (Nat × Nat) :=
  (List.range (r.bandw * r.bandh)).flatMap fun q =>
    (List.range (r.coresw * r.coresh)).map fun l =>
      (coreAt (4 * (o % 20 + q % r.bandw) + l % r.coresw) (4 * (o / 20 + q / r.bandw) + l / r.coresw),
       (q * (r.coresw * r.coresh) + l) * r.crew)

def bandClusters (r : Launch) (o : Nat) : List Nat :=
  (List.range (r.bandw * r.bandh)).map fun q => (o % 20 + q % r.bandw) + 20 * (o / 20 + q / r.bandw)

def Placed.cores (p : Placed) : List Nat := (bandCores p.record p.origin).map (·.1)
def Placed.clusters (p : Placed) : List Nat := bandClusters p.record p.origin

def findPlaced (s : State) (lid : BitVec 32) : Option Placed := s.placed.find? fun p => p.record.lid == lid

/-- The cores of a level of a barrier (R255): the thread's core, its cluster's cores of the launch, every core of it. -/
def levelCores (s : State) (c k level : Nat) : List Nat :=
  match findPlaced s (s.slotOf c k).lid with
  | none => [c]
  | some p => if level = 0 then [c] else p.cores.filter fun d => level != 1 || clusterOf d == clusterOf c

/-- The fences of a barrier complete: at the cores of its level, and for the bank commands sent to them. -/
def barrierReady (s : State) (c k level : Nat) : Bool :=
  let l := levelCores s c k level
  (!combinePending s c k || l.all fun d => clusterOf d == clusterOf c) && !bankPending s c k fun d => l.contains d

/-- The home lines in which COMBINE stores of a slot stand that the array does not hold yet (R170, R275). -/
def ownedLines (s : State) (c k : Nat) : List Nat :=
  (s.homes.entries.filter fun e => e.2.owners.contains (c, k)).map (·.1)

/-- fence.a can complete (R170): no DIRECT or COMBINE store of the slot stands in a buffer or a queue, and its stores that
stand in home lines can be written back. A write-back is done in the step that begins it, so none is ever in progress. -/
def fenceAliasHolds (s : State) (c k : Nat) : Bool :=
  !combinePending s c k && !directPending s c k && (ownedLines s c k).all fun l => !bankBusy s (l * 32)

/-- The stores of a slot that stand in home lines are written back, as its fence.a waits for. -/
def settleOwned (s : State) (c k : Nat) : State := (ownedLines s c k).foldl cleanLine s

/-- A fence instruction: a malformed scope word is refused (R7); the fence retires, or waits for its condition. -/
def fenceOp (i : Instr) (ra : BitVec 6) (holds : State → Word → Bool) (p : Word → Poll) (settle : State → State) (s : State) :
    Result :=
  .next (issue i s fun s =>
    let w := gval s ra
    if scopeMalformed w then trapHere s .illegalOperand
    else if holds s w then doneNext (settle s)
    else pollFor s .memoryWait (p w))

def execFence (ra : BitVec 6) (s : State) : Result :=
  fenceOp (.fence ra) ra (fun s w => fenceHolds s s.core s.slot w) .fence id s
def execFenceB (ra : BitVec 6) (s : State) : Result :=
  fenceOp (.fenceB ra) ra (fun s w => fenceBankHolds s s.core s.slot w) .fenceBank id s
def execFenceA (ra : BitVec 6) (s : State) : Result :=
  fenceOp (.fenceA ra) ra (fun s _ => fenceAliasHolds s s.core s.slot) .fenceAlias
    (fun s => settleOwned s s.core s.slot) s

end Sys2Proof.Machine
end

