-- ==== Sys2Proof/Machine/Fetch.lean ====
section
/-!
DEFINITION. Fetching an instruction (R104, R127, R247, R266): the checks of the PC, the instruction cache, and the two
faults that stop an instruction before it is one.
-/

namespace Sys2Proof.Machine

/-! ## The checks of a fetch -/

/-- Why the fetch of a slot's PC fails before any byte is read, if it does (R127, R266, R271, R376). -/
def fetchCheck (s : State) (c k : Nat) : Option Cause :=
  match slotCheck s c k (s.slotOf c k).pc 4 false false true with
  | .bad cause => some cause
  | .ok .global p =>
    (match translateSlot s c k p false false true with
     | .badRange => some .addressRange
     | _ => none)
  | .ok _ _ => some .space

/-- The issuing slot's fetch fails: the record carries the failing PC as the faulting address and no instruction word
(R389). -/
def fetchFaultHere (c : Cause) (s : State) : State := trapHere (s.modMe fun x => { x with word := 0 }) c s.me.pc

/-- FETCH_FAULT (R127, R266). -/
def execFetchFault (cause : BitVec 8) (s : State) : Result :=
  .next (match fetchCheck s s.core s.slot with
    | some c => if causeCode c = cause.toNat then fetchFaultHere c s else s
    | none => s)

/-- The word that the issuing slot fetched is no instruction (R104, R106): the record carries it. -/
def illegalHere (word : BitVec 32) (s : State) : State :=
  trapHere (s.modMe fun x => { x with word := word }) .illegalInstruction

/-- ILLEGAL_INSTRUCTION. -/
def execIllegalInstruction (word : BitVec 32) (s : State) : Result :=
  .next (match decodeWord word with
    | .instr _ => s
    | .rejected _ => illegalHere word s)

/-! ## The instruction cache (R247) -/

/-- The key of a word of a context in a core's instruction cache. -/
def icacheKey (ctag : BitVec 4) (pa : Nat) : Nat := ctag.toNat * 2 ^ 50 + pa / 4

/-- The words that an instruction cache holds: 64 KiB (R1). -/
def icacheWords : Nat := 16384

/-- A place for a line in the instruction cache: from a full one a line leaves, and which one is open (log entry 76). -/
def icacheRoom (c : Nat) (s : State) : State :=
  let l := (s.coreOf c).icache.entries
  if l.length + 8 ≤ icacheWords then s
  else
    let (n, s) := s.draw
    let line := ((l[n.toNat % l.length]?).map fun e => e.1 / 8).getD 0
    s.modCore c fun r => { r with icache := ⟨r.icache.entries.filter fun e => e.1 / 8 != line⟩ }

/-- The eight words of a line, brought into the cache. -/
def cacheWords (c : Nat) (ctag : BitVec 4) (pa v : Nat) (s : State) : State :=
  (List.range 8).foldl (fun s i =>
    let w := BitVec.ofNat 32 (v / 2 ^ (32 * i))
    s.modCore c fun r => { r with icache := r.icache.set (icacheKey ctag (pa / 32 * 32 + 4 * i)) w }) (icacheRoom c s)

/-- `n` bytes of memory as a fetch of core `c` finds them: at their home, and under COMBINE first in the port's buffer. -/
def codeLoad (s : State) (c : Nat) (pol : Policy) (pa n : Nat) : Nat × State :=
  let (v, _, s) := if pol = .combine then combineLoad s (clusterOf c) pa n else homeLoad s pol pa n
  (v, s)

/-- A line for the instruction cache, or why the slot has to wait for it: its bank, or a peer's answer (R337, R407). -/
def codeLine (s : State) (c k : Nat) (pol : Policy) (pa : Nat) : Option Nat × State :=
  let at_ := pa / 32 * 32
  let x := s.slotOf c k
  match apertureOf s at_ with
  | some (rank, there) =>
    let (r, s) := peerTransfer s c k x.ctag x.lid rank there 32 none
    (r.map (·.1), if r.isSome then dropAnswers s c k else s)
  | none => if arrayBlocked s pol at_ then (none, s) else let (v, s) := codeLoad s c pol at_ 32; (some v, s)

/-- The word fetched, or none where the slot has to wait: a cached word may be old or new, and which of the two is open (R247;
log entry 40). -/
def fetchWord (s : State) (c k : Nat) (pol : Policy) (pa : Nat) : Option (BitVec 32) × State :=
  let ctag := (s.slotOf c k).ctag
  let key := icacheKey ctag pa
  match (s.coreOf c).icache.find? key with
  | none =>
    match codeLine s c k pol pa with
    | (some v, s) =>
      let s := cacheWords c ctag pa v s
      (some ((s.coreOf c).icache.get 0 key), s)
    | (none, s) => (none, s)
  | some old =>
    if (apertureOf s pa).isSome || arrayBlocked s pol pa then (some old, s)
    else
      let now := BitVec.ofNat 32 (codeLoad s c pol pa 4).1
      if old = now then (some old, s)
      else
        let stale := Config.freeBit s.free
        let s := { s with free := s.free + 1 }
        if stale then (some old, s) else (some now, s.modCore c fun r => { r with icache := r.icache.set key now })

/-- The line that a slot waited for is brought into its core's cache (R247). -/
def fetchInto (s : State) (c k : Nat) : State :=
  match slotCheck s c k (s.slotOf c k).pc 4 false false true with
  | .ok .global p =>
    (match translateSlot s c k p false false true with
     | .hit pa pol => (fetchWord s c k pol pa).2
     | _ => s)
  | _ => s

/-- A slot that waits for its fetch can go on. -/
def fetchReady (s : State) (c k : Nat) : Bool :=
  !asksPeer s c k && (match slotCheck s c k (s.slotOf c k).pc 4 false false true with
    | .ok .global p =>
      (match translateSlot s c k p false false true with
       | .hit pa pol => (apertureOf s pa).isSome || !arrayBlocked s pol pa
       | _ => true)
    | _ => true)

/-! ## The next instruction of the issuing slot -/

/-- What the issuing slot's turn comes to: an instruction, or a state in which the turn has ended. -/
inductive Turn where
  | run (i : Instr) (s : State)
  | ended (s : State)

/-- What a word runs as. -/
def runOfWord (w : BitVec 32) (s : State) : Turn :=
  match decodeWord w with
  | .instr i => .run i s
  | .rejected _ => .ended (illegalHere w s)

/-- The instruction at the PC of the issuing slot. A fetch that has to wait takes the slot out of rotation and leaves its
reservation (DESIGN CHOICE, log entry 157). -/
def fetchNext (s : State) : Turn :=
  match fetchCheck s s.core s.slot with
  | some c => .ended (fetchFaultHere c s)
  | none =>
    match slotCheck s s.core s.slot s.me.pc 4 false false true with
    | .ok .global p =>
      (match translateSlot s s.core s.slot p false false true with
       | .hit pa pol =>
         (match fetchWord s s.core s.slot pol pa with
          | (some w, s) => runOfWord w s
          | (none, s) => .ended (pollFor s .memoryWait .fetch))
       | _ => .ended (awaitTranslation s p false false true))
    | _ => .ended s

/-- The issuing slot's turn: a pending push, the entry of a completion handler, the instruction it has in progress, or
the one at its PC (R192, R195, R210). An entry leaves the turn to the handler's first instruction. -/
def takeTurn (s : State) : Turn :=
  let x := s.me
  match x.push with
  | some p => .ended (issuePush p s)
  | none =>
    if !x.pending.isEmpty && x.status == .runnable && x.handler == .outside && !x.midway && x.latch.isEmpty && x.vec.isNone
        && !mmaOutstanding s s.core s.slot then
      .ended (enterCompletion { s with issuing := true } s.core s.slot)
    else if x.vec.isSome || x.matched then runOfWord x.word s
    else fetchNext s

end Sys2Proof.Machine
end

