-- ==== Sys2Proof/Machine/Reply.lean ====
section
/-!
DEFINITION. What brings a waiting thread back (R20, R151, R206): replies, tokens and conditions it polls for; and the
places that perform its requests: homes with their queues, watches and admission (R153–R166, R274, R278), the banks of
other cores (R269, R270, R285), combining buffers and merged bursts (R150, R277).
-/

namespace Sys2Proof.Machine

/-- An operation done as if slot `k` of core `c` were the issuing slot. -/
def asSlot (s : State) (c k : Nat) (f : State → State) : State :=
  let t := f { s with core := c, slot := k }
  { t with core := s.core, slot := s.slot }

/-! ## Conditions that a thread polls for -/

/-- No command that slot `k` pushed is incomplete (R230, R259). -/
def commandsDone (s : State) (c k : Nat) : Bool := !((s.coreOf c).commands.any fun x => x.owner == .slot k)

/-- The lowest free outbound ferry buffer of a core (R312). -/
def freeFerry (s : State) (c : Nat) : Option Nat :=
  [4, 5].find? fun b => vget (s.coreOf c).bufs .free b == .free

/-- A slot is out of rotation on an lres or wrs, which is withdrawn where others are awaited, wherever it waits and even if its
grant or value is on its way (R166). -/
def withdrawable (s : State) (c k : Nat) : Bool :=
  let x := s.slotOf c k
  (x.status == .memoryWait || x.status == .engineWait)
    && (match decodeWord x.word with
        | .instr (.lres _ _ _ _) | .instr (.wrs _ _ _) => true
        | _ => false)
    && (match x.wait with
        | .translation _ true | .poll .fetch => false
        | _ => true)

/-- A slot stands at an instruction boundary, or in a wait that dock.out resolves by saving it as it is (R166, R193, R392). -/
def atBoundary (s : State) (c k : Nat) : Bool :=
  let x := s.slotOf c k
  match x.status with
  | .runnable | .handler => false
  | .memoryWait | .engineWait =>
    (match x.wait with
     | .reply _ _ | .lanes => false
     | w => !w.mustRetire)
  | _ => true

/-- Where the thread stands that a dock.out naming slot `k` of core `c` is to save: a rover may have left that slot since, and
while it is in transit it stands nowhere (R281). -/
def dockPlace (s : State) (c k : Nat) : Option (Nat × Nat) :=
  let named := fun (x : Slot) => x.dockFor == some (c, k)
  if s.transits.any fun t => t.rover.any named then none
  else
    let landed := s.cores.entries.flatMap fun e => ((List.range 7).filter fun j => named (s.slotOf e.1 j)).map fun j => (e.1, j)
    some (landed.headD (c, k))

/-- dock.out can take the image: the thread has stopped, and so have the copies of it that have started. -/
def dockReady (s : State) (c k : Nat) : Bool :=
  match dockPlace s c k with
  | none => false
  | some (d, j) => atBoundary s d j && copiesRest s d j [] (s.coreOf d).copyQ

/-- The condition of a poll holds. -/
def pollHolds (s : State) (c k : Nat) (p : Poll) : Bool :=
  match p with
  | .release => releaseHolds s c k
  | .fence w => fenceHolds s c k w
  | .fenceBank w => fenceBankHolds s c k w
  | .fenceAlias _ => fenceAliasHolds s c k
  | .barrierFence level => barrierReady s c k level
  | .queueRoom e => decide (((s.coreOf c).queue e).length < 16) && firstToPush s c k e
  | .tileIdle => !tileOutstanding s c k
  | .commandsDone => commandsDone s c k
  | .ringFree j r => !ringBusy s c j r
  | .ferryRoom d => (freeFerry s d).isSome
  | .loadValue => !(s.slotOf c (leadOf k)).lvq.isEmpty
  | .loadValueRoom => decide ((s.slotOf c k).lvq.length ≤ 96)
  | .units n => (List.range 8).any fun u => runFree s c u n
  | .dockable j _ => dockReady s c j
  | .peerDrained rank => peerDrained s (s.slotOf c k).ctag rank
  | .fetch => fetchReady s c k
  | .array pol pa => !arrayBlocked s pol pa
  | .window => !asksBank s c k

/-! ## What a wait comes to (R20) -/

/-- What a polling thread does once its condition holds: an access to memory goes on, out of rotation until its reply (R20), and
another instruction is issued again. -/
def pollEnds (s : State) (c k : Nat) (p : Poll) : State :=
  match p with
  | .release | .peerDrained _ | .array _ _ | .window => goOn s c k
  | .fetch => reissue (fetchInto s c k) c k
  | _ => reissue s c k

/-- The token of an enqw is received (R205, R206): its flags and poison, then its word in the register. A register that refuses the
word, which is known only when the command has been performed, traps then (DESIGN CHOICE, log entry 158). -/
def takeToken (rd : BitVec 6) (v : Word) (s : State) : State :=
  let s := receive s s.core s.slot (tokenElem v)
  writeNext rd v s s

/-- What a slot that waits does with what has come, if anything has. -/
def takeReply (s : State) (c k : Nat) : State :=
  let x := s.slotOf c k
  match x.wait with
  | .reply rd acq =>
    (match x.reply with
     | some r => if acq && !releaseHolds s c k then s else asSlot s c k fun s => settle rd r.val r.poison s s
     | none => s)
  | .barrier _ rd =>
    (match x.reply with
     | some r => asSlot s c k fun s => settle (some rd) r.val r.poison s s
     | none => s)
  | .token rd | .row rd =>
    (match x.reply with
     | some r => asSlot s c k (takeToken rd r.val)
     | none => s)
  | .lanes =>
    (match x.vec with
     | some a => if a.left = 0 then asSlot s c k finishVec else s
     | none => s)
  | .poll p => if pollHolds s c k p then pollEnds s c k p else s
  | _ => s

/-- A slot is out of rotation for a memory or engine wait. -/
def Slot.waiting (x : Slot) : Bool := x.status == .memoryWait || x.status == .engineWait

/-- The state of a placed slot when its boundary comes: a thread that dock.in restored in the midst of a wait waits on. -/
def activeStatus (x : Slot) : Status :=
  match x.wait with
  | .nothing => if x.inHandler then .handler else .runnable
  | .token _ | .row _ => .engineWait
  | _ => .memoryWait

/-- A placed slot whose wheel boundary is at or before a cycle becomes runnable (R17). A pending halt waits until what it waits
for has come (R252). -/
def activateBy (n : Nat) (x : Slot) : Slot :=
  if x.status == .placed && decide (x.boundary.toNat ≤ n) then
    let x := { x with status := activeStatus x }
    if x.haltPending && x.status.issues then { x with status := .halted, haltPending := false } else x
  else x

/-- PLACED_SLOT_ACTIVATE (R17, R40): the core's next cycle is at or past the wheel boundary after the placing. -/
def execPlacedSlotActivate (core slot : Nat) (s : State) : Result :=
  .next (s.modSlot core slot (activateBy ((s.coreOf core).cycle.toNat + 1)))

/-! ## The order of requests -/

/-- Two flights of one slot touch a common byte. -/
def flightsMeet (f g : Flight) : Bool :=
  f.core == g.core && f.slot == g.slot && (match f.target, g.target with
    | .home a _, .home b _ => decide (a < b + g.n) && decide (b < a + f.n)
    | .bank c a, .bank d b => c == d && decide (a < b + g.n) && decide (b < a + f.n)
    | _, _ => false)

/-- Lanes of one store that share a byte are performed in lane order (R188). -/
def inLaneOrder (s : State) (k : Nat) (f : Flight) : Bool := !((s.flights.take k).any fun g => flightsMeet g f)

/-- A flight has been performed: it is gone. -/
def landed (s : State) (k : Nat) : State := { s with flights := dropAt s.flights k }

/-! ## Homes (R153–R166, R274, R278) -/

/-- A request that waits on its granule's queue joins it, or is granted at once (R155, R161). -/
def joinQueue (s : State) (g : Nat) (pol : Policy) (f : Flight) : State :=
  if s.queues.any fun q => q.granule == g then
    { s with queues := s.queues.map fun q => if q.granule == g then { q with waiters := q.waiters ++ [f] } else q }
  else
    let (held, s) := grantOne s g pol f
    if held then { s with queues := s.queues ++ [⟨g, some (f.core, f.slot), (s.coreOf (homeCore s g)).cycle, []⟩] } else s

/-- A wrs at the home (R164): the value, if it differs, or a watch. -/
def watchHome (s : State) (g : Nat) (pol : Policy) (f : Flight) : State :=
  let (v, p, s) := homeLoad s pol g 8
  if BitVec.ofNat 64 v != f.expected then f.homeAnswer s g pol (BitVec.ofNat 64 v) p
  else { s with watches := s.watches ++ [⟨f.core, f.slot, true, 0, g, (s.slotOf f.core f.slot).last⟩] }

/-- A request admitted to a queue or a watch is served. -/
def serveAdmitted (s : State) (pa : Nat) (pol : Policy) (f : Flight) : State :=
  if f.kind == .wrs then watchHome s (granuleOf pa) pol f else joinQueue s (granuleOf pa) pol f

/-- An amo or cas on the requester's own reserved granule: performed at once, and the reservation ends (R161). -/
def atomicOwn (s : State) (pa : Nat) (pol : Policy) (f : Flight) : State :=
  let (old, p, s) := homeLoad s pol pa f.n
  let s := match atomicResult f.kind f.n old f.data f.expected f.guard with
    | some v => wakeGlobal (homeStore s pol pa f.n v none) (granuleOf pa)
    | none => s
  passGranule (f.homeAnswer s pa pol (BitVec.ofNat 64 old) p) (granuleOf pa)

/-- A plain load at its place (R149, R275). -/
def loadHere (s : State) (pa : Nat) (pol : Policy) (signed : Bool) (f : Flight) : State :=
  let (v, p, s) := if pol = .combine then combineLoad s (clusterOf f.core) pa f.n else homeLoad s pol pa f.n
  f.homeAnswer s pa pol (extendN signed f.n (BitVec.ofNat 64 v)) p

/-- A plain store at its place: a COMBINE store enters the issuing port's buffer (R149, R158, R165). -/
def storeHere (s : State) (pa : Nat) (pol : Policy) (f : Flight) : State :=
  if pol = .combine then
    f.homeAnswer (combineStore s (clusterOf f.core) pa f.n f.data.toNat (some (f.core, f.slot))) pa pol 0
  else
    f.homeAnswer (noteGlobal (homeStore s pol pa f.n f.data.toNat (some (f.core, f.slot))) pa f.n (pol == .direct)) pa pol 0

/-- sres at the home (R156). -/
def sresHere (s : State) (pa : Nat) (pol : Policy) (f : Flight) : State :=
  if ownGranule s f (granuleOf pa) then
    let s := wakeGlobal (homeStore s pol pa f.n f.data.toNat none) (granuleOf pa)
    f.homeAnswer (passGranule s (granuleOf pa)) pa pol 0
  else f.homeAnswer (endReservation s f.core f.slot) pa pol 1

/-- A request performed at its home, or waiting there for its turn: while any waits in the admission buffer, a later wrs
waits behind it whatever its granule holds (R278). -/
def performHome (s : State) (pa : Nat) (pol : Policy) (f : Flight) : State :=
  let h := homeCore s pa
  if needsPlace s pa f || (f.kind == .wrs && !(s.coreOf h).admission.isEmpty) then
    if (s.coreOf h).admission.isEmpty && placeFree s h f (granuleOf pa) then serveAdmitted s pa pol f
    else s.modCore h fun r => { r with admission := r.admission ++ [f] }
  else match f.kind with
  | .load signed => loadHere s pa pol signed f
  | .store => storeHere s pa pol f
  | .sres => sresHere s pa pol f
  | .wrs => watchHome s (granuleOf pa) pol f
  | _ => atomicOwn s pa pol f

/-- The kinds of a request that may write at the home, for which the host's copies are called back first (R399). -/
def mayWrite (k : AccessKind) (pol : Policy) : Bool := k != .load true && k != .load false && k != .wrs && pol != .combine

/-- Flight `k` reaches its home. -/
def reachHome (s : State) (k : Nat) (f : Flight) : State :=
  match f.target with
  | .home pa pol =>
    if !inLaneOrder s k f || (arrayBlocked s pol pa && !(pol == .combine && f.kind == .store)) then s
    else match (if mayWrite f.kind pol then snoopBlocked s pa f.n else (false, s)) with
      | (true, s) => s
      | (false, s) => performHome (landed s k) pa pol f
  | _ => s

/-- RESERVATION_TIMEOUT (R158); of a granule whose first waiter had to wait for its line, that waiter's turn. -/
def execReservationTimeout (granule : Nat) (s : State) : Result :=
  .next (match s.queues.find? fun q => q.granule == granule with
    | some q =>
      if q.holder.isNone || decide (q.grantedAt.toNat + 1024 ≤ (s.coreOf (homeCore s granule)).cycle.toNat) then
        passGranule s granule else s
    | none => s)

/-- The value that a watch ends with. -/
def watchValue (s : State) (w : Watch) : Nat × Bool × State := if w.global then granuleValue s w.granule else padGranule s w

/-- A wrs that waits for a watch at home `h` ends with its granule's value, unless the array is in use (R278, R337). -/
def endAdmitted (h : Nat) (s : State) (f : Flight) : State :=
  match f.target with
  | .home pa pol =>
    if arrayBlocked s .stream pa then s
    else
      let s := s.modCore h fun r => { r with admission := r.admission.erase f }
      let (v, p, s) := granuleValue s (granuleOf pa)
      f.homeAnswer s pa pol (BitVec.ofNat 64 v) p
  | _ => s

/-- WRS_TIMEOUT (R165, R278): a watch, or a wrs that still waits for one, ends with the granule's value. -/
def execWrsTimeout (core slot : Nat) (s : State) : Result :=
  .next (
    if (s.coreOf core).cycle.toNat < (s.slotOf core slot).last.toNat + 65536 then s
    else
      let mine := fun (f : Flight) => f.core == core && f.slot == slot && f.kind == .wrs
      let s := s.cores.entries.foldl (fun s e => (e.2.admission.filter mine).foldl (endAdmitted e.1) s) s
      endWatches s (fun w => w.core == core && w.slot == slot && !(w.global && arrayBlocked s .stream w.granule)) watchValue)

/-- HOME_ADMISSION (R278): the oldest waiting request, if its place is free. -/
def execHomeAdmission (home : Nat) (s : State) : Result :=
  .next (match (s.coreOf home).admission with
    | [] => s
    | f :: rest =>
      match f.target with
      | .home pa pol =>
        let s' := s.modCore home fun r => { r with admission := rest }
        if !(!needsPlace s pa f || placeFree s home f (granuleOf pa)) then s
        else match homeWaits s pol pa f with
        | (true, s) => s
        | (false, _) => serveAdmitted s' pa pol f
      | _ => s)

/-! ## Other cores' banks (R269, R270, R285) -/

/-- A flight may be served at its bank: no aged requester goes first, and an atomic meets no run that stands there (R269,
R298). -/
def flightServes (s : State) (f : Flight) (core off : Nat) : Bool :=
  bankServes s core (bankAt off) (flightClass f) f.aged && (flightClass f != 5 || reaches s core (bankAt off) .atomic)

/-- REMOTE_ACCESS. A core that is fenced off or failed performs nothing: the answer is poisoned zero. -/
def execRemoteAccess (k : Nat) (s : State) : Result :=
  .next (match s.flights[k]? with
    | none => s
    | some f =>
      match f.target with
      | .bank core off =>
        if !inLaneOrder s k f || !flightServes s f core off then s
        else if !s.inService core then f.answer (landed s k) 0 true
        else match padAccess (landed s k) f.core f.slot core off f.n f.kind f.data f.expected f.guard with
          | (some (v, p), s) => f.answer (if f.spoils then s.mark (padAddr core off) f.n else s) v p
          | (none, s) => s
      | _ => s)

/-- A bank requester that is no flight: a command, or a capsule's bank step, by its core and queue or buffer. -/
inductive Ager where
  | command (core : Nat) (e : Engine) (ident : Nat)
  | capsule (core buf : Nat)

/-- Refused for 16 cycles and not yet aged. -/
def isDue (refused : Nat) (aged : Bool) : Bool := decide (16 ≤ refused) && !aged

/-- The requesters of a core that are to age. -/
def agersOf (c : Nat) (r : Core) : List Ager :=
  let due := fun (e : Engine) => ((r.queue e).filter fun x => isDue x.refused x.aged).map fun x => Ager.command c e x.ident
  due .tile ++ due .copy ++ due .bank ++ (List.range 6).filterMap fun b =>
    match vget r.bufs .free b with
    | .banking x => if isDue x.refused x.aged then some (Ager.capsule c b) else none
    | _ => none

/-- The requester ages. -/
def Ager.age (a : Ager) (s : State) : State :=
  match a with
  | .command c e i => modCmd s c e i fun y => { y with aged := true }
  | .capsule c b => s.modCore c fun r =>
      match vget r.bufs .free b with
      | .banking x => { r with bufs := vset r.bufs b (.banking { x with aged := true }) }
      | _ => r

/-- BANK_REQUESTER_AGED (R269): flight `k`, or, past the flights, one of the other requesters that are to age. -/
def execBankRequesterAged (k : Nat) (s : State) : Result :=
  .next (match s.flights[k]? with
    | some f => if isDue f.refused f.aged then { s with flights := putAt s.flights k { f with aged := true } } else s
    | none =>
      match (s.cores.entries.flatMap fun e => agersOf e.1 e.2)[k - s.flights.length]? with
      | some a => a.age s
      | none => s)

/-! ## Buffers of the ports (R150, R277) -/

/-- COMBINE_WRITE_OUT (R150): entries are written out when complete, when a fence or the port needs it, in any order. -/
def execCombineWriteOut (cluster block : Nat) (s : State) : Result := .next (writeOut s cluster block)

/-- COMBINE_TIMEOUT: 256 cycles after the first store. -/
def execCombineTimeout (cluster block : Nat) (s : State) : Result :=
  .next (match (s.clusterAt cluster).combine.find? fun e => e.block == block with
    | some e => if e.opened + 256 ≤ s.clock then writeOut s cluster block else s
    | none => s)

/-- HBM_BURST_MERGE_CLOSE (R277). -/
def execHbmBurstMergeClose (block : Nat) (s : State) : Result :=
  .next (match s.bursts.find? fun b => b.block == block with
    | some b => if b.opened + 8 ≤ s.clock && !bankBusy s (block * 256) then flushBurst s block else s
    | none => s)

end Sys2Proof.Machine
end

