-- ==== Sys2Proof/Machine/Collective.lean ====
section
/-!
DEFINITION. The collective engine (R226, R422–R427, R450, R462): the leaves that arrive, members that leave, and the
three commands. Merge sites and partial sums are not kept: every member merges the leaves themselves, which gives the
bytes of R424 (log entry 41).
-/

namespace Sys2Proof.Machine

/-! ## Identifiers and their instances (R422) -/

def findColl (s : State) (ctag : BitVec 4) (coll : BitVec 16) : Option Coll :=
  s.colls.find? fun x => x.ctag == ctag && x.coll == coll

/-- The record of an identifier put in its place. -/
def putColl (s : State) (x : Coll) : State :=
  if (findColl s x.ctag x.coll).isSome then
    { s with colls := s.colls.map fun y => if y.ctag == x.ctag && y.coll == x.coll then x else y }
  else { s with colls := s.colls ++ [x] }

def Coll.new (ctag : BitVec 4) (coll : BitVec 16) : Coll :=
  { ctag := ctag, coll := coll, kept := false, pushed := 0, heard := {}, mask := none, current := {}, early := [], late := [] }

/-- The instance at hand, its mask fixed if it starts now (R67). -/
def Coll.started (x : Coll) : Instance :=
  if x.current.mask.isNone && x.current.leaves.isEmpty && x.current.own.isNone then { x.current with mask := x.mask }
  else x.current

def isMaskCode (code : BitVec 8) : Bool := code == 0x72

/-- A leaf finds its place. A rank outside the mask pushes nothing but cle.msk: one that an earlier cle.msk
admitted catches up, and another waits (R427). A rank's second leaf belongs to a later instance. -/
def Coll.takeIn (x : Coll) (a : LeafArrival) : Coll :=
  let i := x.started
  if isMaskCode a.code && x.late.contains a.rank then { x with late := x.late.erase a.rank }
  else if i.leaves.any fun b => b.rank == a.rank then { x with early := x.early ++ [a] }
  else { x with current := { i with leaves := i.leaves ++ [a] } }

/-- More of a leaf, or a leaf sent again: what has come stands, chunk by chunk (R425). -/
def refillLeaf (a b : LeafArrival) : LeafArrival :=
  if b.rank == a.rank && b.turn == a.turn then
    { b with more := a.more && b.more, chunks := (List.range (max a.chunks.length b.chunks.length)).map fun j =>
        match b.chunks[j]? with
        | some (some k) => some k
        | _ => (a.chunks[j]?).join }
  else b

/-- A leaf of another rank arrives: each rank's come in the order of its commands. -/
def Coll.hear (x : Coll) (a : LeafArrival) : Coll :=
  if a.turn < x.heard.get 0 a.rank then
    { x with current := { x.current with leaves := x.current.leaves.map (refillLeaf a) }, early := x.early.map (refillLeaf a) }
  else { x with heard := x.heard.set a.rank (a.turn + 1) }.takeIn a

/-- A removed bit cleared (R427). -/
def admitRank (s : State) (ctag : BitVec 4) (r : Nat) : State :=
  let m := s.memberOf ctag
  { s with memberships := s.memberships.set ctag.toNat { m with removed := m.removed.filter fun q => q != r } }

/-- Every member of an instance has come to a cle.msk that names rank `self`, which is outside its mask (R427). -/
def Instance.names (i : Instance) (self : Nat) : Bool :=
  match i.leaves.find? fun a => a.rank != self && isMaskCode a.code && a.bitmap.contains self && !a.mask.isEmpty with
  | some a => a.mask.all fun r => r == self || i.left.contains r || i.leaves.any fun b => b.rank == r
  | none => false

/-- A leaf of a removed rank is absent (R425), but for the cle.msk by which it asks to be admitted again (R427, R430). -/
def asksEntry (x : Coll) (a : LeafArrival) : Bool :=
  isMaskCode a.code && a.bitmap.contains a.rank && !(x.started.mask.any fun m => m.contains a.rank)

/-- CLE_PARTIAL_ARRIVAL (R425): a leaf reaches this module. A removed module is one no more when the members have completed a
cle.msk that names it (R427). -/
def leafArrives (s : State) (a : LeafArrival) : State :=
  let m := s.memberOf a.ctag
  let x := (findColl s a.ctag a.coll).getD (Coll.new a.ctag a.coll)
  if !m.valid || a.rank == m.self.toNat || (m.removed.contains a.rank && !asksEntry x a) then s
  else
    let x := x.hear a
    let s := putColl s x
    if m.removed.contains m.self.toNat && x.current.names m.self.toNat then admitRank s a.ctag m.self.toNat else s

def execClePartialArrival (arrival : LeafArrival) (s : State) : Result := .next (leafArrives s arrival)

/-- A flit of a leaf arrives: part `part` of a chunk, whose 11 words are poisoned if the flit is (R404, R406). The chunk is there with
its last flit. A flit that lists no chunk brings a bitmap, of which nothing counts before the last flit, or the end of a leaf of
which no more could be read. -/
def leafFlitArrives (s : State) (a : LeafArrival) (part : Nat) (poison : Bool) : State :=
  if !a.chunks.any Option.isSome then (if a.more && isMaskCode a.code then s else leafArrives s a)
  else
    let x := (findColl s a.ctag a.coll).getD (Coll.new a.ctag a.coll)
    let marks := (if part = 0 then [] else x.arriving.get [] a.rank)
      ++ if poison then (List.range 11).map (11 * part + ·) |>.filter fun i => decide (i < 36) else []
    if part < 3 then (if (s.memberOf a.ctag).valid then putColl s { x with arriving := x.arriving.set a.rank marks } else s)
    else leafArrives s { a with chunks := a.chunks.map fun k => k.map fun k => { k with marks := marks } }

/-! ## Leaving (R425, R426, R450) -/

/-- A rank leaves every mask of its context; an instance that has started goes on without it. -/
def Coll.leave (x : Coll) (r : Nat) : Coll :=
  { x with mask := x.mask.map fun m => m.filter fun q => q != r
           current := { x.current with left := insertSorted r x.current.left }
           heard := x.heard.erase r
           late := x.late.filter fun q => q != r }

/-- A rank leaves the membership of a context at this module. A module that learns of its own removal says so (event
0x0B, R450). -/
def leaveRank (s : State) (ctag : BitVec 4) (r : Nat) : State :=
  let m := s.memberOf ctag
  if !m.valid || m.n.toNat ≤ r || m.removed.contains r then s
  else
    let s := { s with
      memberships := s.memberships.set ctag.toNat { m with removed := insertSorted r m.removed }
      colls := s.colls.map fun x => if x.ctag == ctag then x.leave r else x }
    if r = m.self.toNat then pushEvent s 0x0B 0xFFFF 0 0 0 r else s

/-- A rank leaves at every member: the others are told (R426). -/
def dropRank (s : State) (ctag : BitVec 4) (r : Nat) : State :=
  let m := s.memberOf ctag
  if !m.valid || m.n.toNat ≤ r || m.removed.contains r then s
  else
    let others := (List.range m.n.toNat).filter fun q => q != m.self.toNat && !m.removed.contains q
    leaveRank (others.foldl (fun s q => sendToRank s ctag q 4 false (.leave r)) s) ctag r

/-- Every port of the route set of a rank is down, and there was one that was up before (R426). -/
def routeLost (s : State) (m : Membership) (p r : Nat) : Bool :=
  let set := m.routes.get 0 r
  bitAt set p && !((List.range 32).any fun q => bitAt set q && (s.portOf q).up)

/-- A port goes down: the ranks that no other port leads to leave, and with the last route this module leaves too
(R426, R450). -/
def ranksLost (s : State) (p : Nat) : State :=
  (s.memberships.entries).foldl (fun s e =>
    let ctag := BitVec.ofNat 4 e.1
    let m := s.memberOf ctag
    let lost := (List.range m.n.toNat).filter fun r => r != m.self.toNat && routeLost s m p r
    let s := lost.foldl (fun s r => dropRank s ctag r) s
    let cut := !lost.isEmpty && (List.range m.n.toNat).all fun r =>
      r == m.self.toNat || !((List.range 32).any fun q => bitAt (m.routes.get 0 r) q && (s.portOf q).up)
    if cut then leaveRank s ctag m.self.toNat else s) s

/-! ## Reading a contribution (R423, R462) -/

/-- A chunk record from its 144 bytes, with its poisoned words. -/
def chunkOf (v : Nat) (marks : List Nat) : Chunk :=
  let w := fun i => BitVec.ofNat 32 (v / 2 ^ (32 * i))
  { mean := (List.range 16).map w, m2 := (List.range 16).map fun i => w (16 + i), count := w 32
    tail := BitVec.ofNat 96 (v / 2 ^ (8 * 132)), marks := marks }

/-- The chunks of a record, from the first one listed; a read that fails leaves the rest absent. What peers have answered is kept
until the whole record is there (R407). -/
def readChunks (c : Nat) (x : Cmd) (va : Nat) : List Nat → State → EngDone (List (Option Chunk) × Bool × Bool)
  | [], s => .ok ([], false, false) s
  | i :: rest, s =>
    match readParts c x (va + 144 * i) 144 (List.range (((va + 144 * i) % 256 + 144 + 255) / 256)) s with
    | .ok (v, p) s =>
      (readChunks c x va rest s).map fun (l, q, f) => (some (chunkOf v p) :: l, !p.isEmpty || q, f)
    | .range s => .ok ((i :: rest).map fun _ => none, false, true) s
    | .held k s => .held k s
    | .wait s => .wait s

/-- The bitmap of a cle.msk, as the ranks it names, and its poisoned words; a read that fails gives none. -/
def readBitmap (s : State) (c : Nat) (x : Cmd) (va : Nat) : EngDone (List Nat × List Nat × Bool) :=
  match readRange s c x va (cleBytes x.word) with
  | .ok (v, p) s => .ok ((List.range (cmdA x.word)).filter (fun r => v / 2 ^ r % 2 == 1), p, false) s
  | .range s => .ok ([], [], true) s
  | .held k s => .held k s
  | .wait s => .wait s

/-- What a command contributes: its leaf, the poisoned words of a bitmap, whether its own records were poisoned, and whether a read
failed. -/
def readLeaf (s : State) (c : Nat) (x : Cmd) (self : Nat) : EngDone (LeafArrival × List Nat × Bool × Bool) :=
  let leaf : LeafArrival :=
    { ctag := x.ctag, coll := cleColl x.word, rank := self, code := BitVec.ofNat 8 (cmdCode x.word)
      elems := BitVec.ofNat 32 (cmdA x.word), chunks := [], bitmap := [], turn := 0, mask := [] }
  match rangeCheck x.sg (cmdAddr x.word) (cleBytes x.word) true false with
  | none => .ok ({ leaf with chunks := (List.range (cmdA x.word / 16)).map fun _ => none }, [], false, true) s
  | some va =>
    if cmdCode x.word = 0x72 then
      (readBitmap s c x va).map fun (b, p, f) => ({ leaf with bitmap := b }, p, !p.isEmpty, f)
    else
      ((readChunks c x va (List.range (cmdA x.word / 16)) s).close c x).map fun (l, p, f) => ({ leaf with chunks := l }, [], p, f)

/-! ## Sending a leaf (R404) -/

/-- Some of 11 words from `11 * part` on are marked. -/
def partMarked (marks : List Nat) (part : Nat) : Bool := marks.any fun i => i / 11 == part

/-- The flits of a bitmap of `n` bytes: 44 bytes each. The ranks stand in the last. -/
def bitmapFlits (leaf : LeafArrival) (n : Nat) (marks : List Nat) : List (Bool × FlitBody) :=
  let last := (n + 43) / 44 - 1
  (List.range (last + 1)).map fun p =>
    (partMarked marks p, .collective p (if p = last then leaf else { leaf with bitmap := [], more := true }))

/-- The flits of a record: four for each chunk that was read, each poisoned as its words are, and one for the end of a record that
could not be read to its end. -/
def chunkFlits (leaf : LeafArrival) : List (Bool × FlitBody) :=
  let n := leaf.chunks.length
  let read := leaf.chunks.filterMap id
  let only := fun (j : Nat) (k : Chunk) =>
    { leaf with chunks := (List.range n).map (fun i => if i = j then some { k with marks := [] } else none)
                more := decide (j + 1 < n) }
  let body := read.zipIdx.flatMap fun (k, j) =>
    (List.range 4).map fun p => (partMarked k.marks p, FlitBody.collective p (only j k))
  if read.length < n then body ++ [(false, .collective 0 { leaf with chunks := (List.range n).map fun _ => none })] else body

/-- A leaf goes to a rank. -/
def sendLeaf (flits : List (Bool × FlitBody)) (ctag : BitVec 4) (s : State) (r : Nat) : State :=
  flits.foldl (fun s f => sendToRank s ctag r 4 f.1 f.2) s

/-! ## Joining an instance -/

def refuseCle (s : State) (c : Nat) (x : Cmd) (status : Nat) : State := refuseLate s c .collective x status

/-- The ranks whose leaves an instance merges: its mask, which a module without one learns from the leaves of members that have
one; or, in the first cle.msk of an identifier, the ranks of the membership that the bitmap of this module's own command names
(DEDUCED, log entry 173). -/
def instanceRanks (s : State) (i : Coll) : List Nat :=
  let m := s.memberOf i.ctag
  let own := fun (a : LeafArrival) => a.rank == m.self.toNat
  match i.current.mask, i.current.leaves.find? fun a => !own a && !a.mask.isEmpty, i.current.leaves.find? own with
  | some l, _, _ => l
  | none, some a, _ => a.mask
  | none, none, some a => a.bitmap.filter fun r => decide (r < m.n.toNat) && !m.removed.contains r
  | none, none, none => []

/-- The command joins the instance at hand with its leaf, which goes to the other members and to the ranks that a
cle.msk names. -/
def enterColl (s : State) (c : Nat) (x : Cmd) (i : Coll) : State :=
  let m := s.memberOf x.ctag
  match readLeaf s c x m.self.toNat with
  | .held key s => holdCmd s c .collective x key
  | .wait s => s
  | .range s => s
  | .ok (leaf, marks, poison, failed) s =>
    let cur := i.started
    let leaf := { leaf with turn := i.pushed, mask := cur.mask.getD [] }
    let s := putColl s { i with kept := true, pushed := i.pushed + 1
                                current := { cur with own := some (c, x.ident), leaves := cur.leaves ++ [leaf] } }
    let s := modCmd s c .collective x.ident fun y =>
      { y with started := true, poison := poison, status := if failed then 5 else 0 }
    let dests := ((i.mask.getD []) ++ leaf.bitmap).eraseDups.filter fun r => r != m.self.toNat
    let flits := if isMaskCode leaf.code then bitmapFlits leaf (cleBytes x.word) marks else chunkFlits leaf
    dests.foldl (sendLeaf flits x.ctag) s

/-- A command reaches the engine (R422, R426, R427). -/
def joinColl (s : State) (c : Nat) (x : Cmd) : State :=
  let msk := cmdCode x.word == 0x72
  if !isMember s x.ctag then refuseCle s c x 4
  else
    let i := (findColl s x.ctag (cleColl x.word)).getD (Coll.new x.ctag (cleColl x.word))
    if i.current.own.isSome then s
    else if !msk && !(i.kept && (i.mask.getD []).contains (s.memberOf x.ctag).self.toNat) then refuseCle s c x 4
    else if !i.kept && 256 ≤ (s.colls.filter Coll.kept).length then refuseCle s c x 2
    else enterColl s c x i

/-! ## Completing an instance (R424–R427) -/

/-- This module is outside the mask: its cle.msk waits for one of the members that names it (R427). -/
def isOutside (s : State) (i : Coll) : Bool := !(instanceRanks s i).contains (s.memberOf i.ctag).self.toNat

/-- Every member has pushed its command or left; or, outside the mask, every member has pushed a cle.msk that names this
module. -/
def instanceReady (s : State) (i : Coll) : Bool :=
  let self := (s.memberOf i.ctag).self.toNat
  let here := fun r => i.current.leaves.any fun a => a.rank == r && !a.more
  if isOutside s i then i.current.names self
  else (instanceRanks s i).all fun r => here r || i.current.left.contains r

/-- The members pushed different codes or element counts (R422). -/
def instanceMixed (s : State) (i : Coll) (x : Cmd) : Bool :=
  !isOutside s i && i.current.leaves.any fun a =>
    (instanceRanks s i).contains a.rank && (a.code.toNat != cmdCode x.word || a.elems.toNat != cmdA x.word)

/-- The next instance: the leaves kept, of ranks that still wait to be admitted, and the early leaves, the first of each
rank. -/
def Coll.next (x : Coll) (keep : Nat → Bool) : Coll :=
  (x.current.leaves.filter (fun a => keep a.rank) ++ x.early).foldl Coll.takeIn { x with current := {}, early := [] }

/-- The instance ends at this module. -/
def endInstance (s : State) (i : Coll) : State := putColl s (i.next fun r => !(instanceRanks s i).contains r)

/-- The leaf of a rank, chunk `j`: nothing if the rank left or its read failed. -/
def leafChunk (i : Coll) (r j : Nat) : Option Chunk :=
  match i.current.leaves.find? fun a => a.rank == r with
  | some a => (a.chunks[j]?).join
  | none => none

/-- The leaf that takes part in the merge of a chunk: one that arrived poisoned is absent (R425). -/
def goodChunk (i : Coll) (r j : Nat) : Option Chunk :=
  match leafChunk i r j with
  | some k => if k.marks.isEmpty then some k else none
  | none => none

/-- Element `e` of chunk `j` merged over the tree of the ranks, in increasing order (R67). -/
def mergeElement (i : Coll) (ranks : List Nat) (j e : Nat) : Option Partial :=
  let leaves := ranks.map fun r => (goodChunk i r j).map fun k =>
    ({ n := k.count.toNat, mean := (k.mean.getD e 0).toNat, m2 := (k.m2.getD e 0).toNat } : Partial)
  (treeLevels mergeAbsent 16 leaves).headD none

/-- The result of chunk `j`: its bytes as a number, and its poisoned words: the mean and M2 of a count 0 (R423, R424). A count
beyond 32 bits has no stated bytes: a free value (log entry 42). -/
def mergeChunk (s : State) (i : Coll) (ranks : List Nat) (j : Nat) : Bytes :=
  let parts := (List.range 16).map (mergeElement i ranks j)
  let n := match parts.headD none with
    | some p => p.n
    | none => 0
  let word := fun (f : Partial → Nat) e => if n = 0 then 0 else ((parts.getD e none).map f).getD 0
  let flags := (if ranks.any fun r => match leafChunk i r j with
      | some k => !k.marks.isEmpty
      | none => false then 1 else 0)
    + (if ranks.any fun r => i.current.left.contains r && (leafChunk i r j).isNone
          && !(i.current.leaves.any fun a => a.rank == r && !a.more) then 2 else 0)
    + (if n = 0 then 4 else 0)
  let count := if n < 2 ^ 32 then n else bitsOf (Config.freeWord (s.free + j)) 31 0
  ((List.range 16).foldl (fun acc e => acc + 2 ^ (32 * e) * word (·.mean) e + 2 ^ (512 + 32 * e) * word (·.m2) e) 0
    + 2 ^ 1024 * count + 2 ^ 1056 * flags, if n = 0 then List.range 32 else [])

/-- The bytes of a chunk as its member read them. -/
def chunkBytes (k : Chunk) : Nat :=
  (List.range 16).foldl (fun acc e =>
    acc + 2 ^ (32 * e) * (k.mean.getD e 0).toNat + 2 ^ (512 + 32 * e) * (k.m2.getD e 0).toNat) 0
    + 2 ^ 1024 * k.count.toNat + 2 ^ 1056 * k.tail.toNat

/-- The lowest rank whose src data arrived (R424). -/
def lowestPresent (i : Coll) (ranks : List Nat) : Option Nat :=
  ranks.find? fun r => match i.current.leaves.find? fun a => a.rank == r with
    | some a => a.chunks.all Option.isSome
    | none => false

/-- Chunk `j` of a broadcast, with its poisoned words: the source's, or, with no rank present, poisoned zeros. -/
def bcChunk (i : Coll) (ranks : List Nat) (j : Nat) : Bytes :=
  match (lowestPresent i ranks).bind fun r => leafChunk i r j with
  | some k => (chunkBytes k, k.marks)
  | none => (0, List.range 36)

/-- The ranks whose leaf entered at least one chunk (R226). -/
def enteredRanks (i : Coll) (ranks : List Nat) (n : Nat) : Nat :=
  (ranks.filter fun r => (List.range n).any fun j => (goodChunk i r j).isSome).length

/-- The status of this module's command: 0x05 before 0x06 (R425, R462). -/
def cleStatus (x : Cmd) : Nat := if x.status = 5 then 5 else if x.poison then 6 else 0

/-- A collective command ends. Its token carries no flags: R226 names none that its merges raise (DESIGN CHOICE, log entry 166). -/
def endCle (s : State) (c : Nat) (x : Cmd) (status value : Nat) : State :=
  completeCmd s c .collective x status 0 x.poison value

/-- The next chunk of a result written to dst, and after the last one the command's end. What a failed peer does not take changes
no status (R425). -/
def writeChunk (s : State) (c : Nat) (x : Cmd) (i : Coll) (chunk : Nat → Bytes) (value : Nat) : State :=
  let n := cmdA x.word / 16
  if n ≤ x.count then endCle (endInstance s i) c x (cleStatus x) value
  else
    let (v, marks) := chunk x.count
    match rangeCheck x.sg (cleDst x.word) (cleBytes x.word) false true with
    | none => endCle (endInstance s i) c x 5 value
    | some va =>
      match writeRange recordStore s c x (va + 144 * x.count) 144 v fun off n => (pieceWords off n).any marks.contains with
      | .ok _ s => modCmd s c .collective x.ident fun y => { y with count := y.count + 1 }
      | .held key s => holdCmd s c .collective x key
      | .wait s => s
      | .range s => endCle (endInstance s i) c x 5 value

/-- The new mask of a cle.msk: the bitmap that the members pushed. Where they pushed different ones, which of them is open
(log entry 43). -/
def newMask (s : State) (i : Coll) : List Nat :=
  let self := (s.memberOf i.ctag).self.toNat
  let bitmaps := (i.current.leaves.filter fun a =>
    isMaskCode a.code && (if isOutside s i then a.rank != self && a.bitmap.contains self else (instanceRanks s i).contains a.rank)).map
      (·.bitmap)
  let pick := (Config.freeWord s.free).toNat % bitmaps.length
  (bitmaps.getD pick []).filter fun r => decide (r < (s.memberOf i.ctag).n.toNat)

/-- A cle.msk completes: the mask is replaced for the instances that follow, and the ranks it names are admitted (R427).
-/
def finishMask (s : State) (c : Nat) (x : Cmd) (i : Coll) : State :=
  let mask := newMask s i
  let old := instanceRanks s i
  let here := i.current.leaves.map (·.rank)
  let fresh := mask.filter fun r => !old.contains r && !here.contains r && r != (s.memberOf i.ctag).self.toNat
  let s := mask.foldl (fun s r => admitRank s i.ctag r) { s with free := s.free + 1 }
  let outside := isOutside s i
  let s := putColl s (Coll.next { i with mask := some mask, late := if outside then i.late else i.late ++ fresh }
    fun r => !outside && !old.contains r && !mask.contains r)
  endCle s c x (cleStatus x) mask.length

/-! ## The steps of the commands -/

/-- A command for the same collective was accepted earlier, at any core (R207). -/
def earlierCle (s : State) (x : Cmd) : Bool :=
  s.cores.entries.any fun e => e.2.collectiveQ.any fun y =>
    decide (y.ident < x.ident) && y.ctag == x.ctag && cleColl y.word == cleColl x.word

/-- Command `k` of a core's collective queue, if it is of a code and no earlier one has its identifier. -/
def cleCmd (s : State) (c k code : Nat) : Option Cmd :=
  match (s.coreOf c).collectiveQ[k]? with
  | none => none
  | some x =>
    if cmdCode x.word = code && !earlierCle s x && !frozen s c x && x.held.isEmpty then some x else none

/-- A step of a collective command: it joins its instance, waits for the members, and then does what `fin` says. The token of an
instance whose commands differ (0x02) goes where the word's done field says, for R422 lets the command complete with it (DEDUCED,
log entry 163). -/
def cleStep (code c k : Nat) (fin : State → Cmd → Coll → State) (s : State) : State :=
  match cleCmd s c k code with
  | none => s
  | some x =>
    if !x.started then joinColl s c x
    else match findColl s x.ctag (cleColl x.word) with
    | none => s
    | some i =>
      if !isMember s x.ctag then refuseCle (endInstance s i) c x 4
      else if !instanceReady s i then s
      else if instanceMixed s i x then endCle (endInstance s i) c x 2 0
      else fin s x i

def execCleMs (core k : Nat) (s : State) : Result :=
  .next (cleStep 0x70 core k (fun s x i =>
    let ranks := instanceRanks s i
    writeChunk s core x i (mergeChunk s i ranks) (enteredRanks i ranks (cmdA x.word / 16))) s)

def execCleBc (core k : Nat) (s : State) : Result :=
  .next (cleStep 0x71 core k (fun s x i =>
    let ranks := instanceRanks s i
    writeChunk s core x i (bcChunk i ranks) ((lowestPresent i ranks).getD 0xFFFFFFFF)) s)

def execCleMsk (core k : Nat) (s : State) : Result :=
  .next (cleStep 0x72 core k (fun s x i => finishMask s core x i) s)

end Sys2Proof.Machine
end

