-- ==== Sys2Proof/Machine/Links.lean ====
section
/-!
DEFINITION. The Phoup links (R404–R411): flits accepted in order, replay, ports that go down and come up, routing by the
route header, and the requests of peers performed at their homes here.
-/

namespace Sys2Proof.Machine

/-! ## Ports (R4, R405) -/

/-- The module's Phoup ports (R4). -/
def isPort (p : Nat) : Bool := decide (p < 32)

/-- The die that a port is attached to (R4, R404). -/
def portDie (p : Nat) : Nat := p / 4

/-- A capsule is lost: the launch's capsule-loss bit and event 0x06 (R324, R437, R441). -/
def capsuleLost (s : State) (core ident : Nat) (lid : BitVec 32) : State := setErr (pushEvent s 6 core 0 ident lid 0) lid 1

/-- This module's capsules of which flits on a port are still in flight: core, identifier and launch. Flits that it forwards are
of another module (R411), and count a hop. -/
def travellersOn (l : List Flit) : List (Nat × Nat × BitVec 32) :=
  (l.filterMap fun f => match f.body with
    | .traveller i c lid _ => if f.hops = 0 then some (c, i.toNat, lid) else none
    | _ => none).eraseDups

/-- The crossing of a capsule that is destroyed on its way is over: its buffer frees. -/
def crossingLost (s : State) (core ident : Nat) : State :=
  { s with crossings := s.crossings.map fun q =>
      if q.stage == .sent && q.core == core && bufN s core q.buf 0 8 == ident then { q with stage := .over } else q }

/-- A port goes down (event 0x0A): new requests to the ranks it led to are held (R411), the capsules in flight on it are
destroyed (R324), and the ranks that only it led to leave (R405, R426). -/
def linkDown (s : State) (p : Nat) : State :=
  if (s.portOf p).up then
    let lost := travellersOn (s.portOf p).replay
    let s := holdRanks s fun ctag r => peerPort s ctag r == some p
    let s := { s with ports := s.ports.set p { s.portOf p with up := false, replay := [] } }
    let s := lost.foldl (fun s t => crossingLost (capsuleLost s t.1 t.2.1 t.2.2) t.1 t.2.1) (pushEvent s 0x0A 0xFFFF p 0 0 0)
    ranksLost s p
  else s

/-- Flits that an ack names, and those before it, leave the replay buffer. -/
def ackedBy (l : List Flit) (ack : BitVec 12) : List Flit :=
  if l.any fun f => f.seq == ack then (l.dropWhile fun f => f.seq != ack).drop 1 else l

def takeAck (s : State) (p : Nat) (ack : BitVec 12) : State :=
  let port := s.portOf p
  if (port.replay.any fun f => f.seq == ack) then
    let left := ackedBy port.replay ack
    let resent : Table Nat := ⟨port.resent.entries.filter fun e => left.any fun f => f.seq.toNat == e.1⟩
    { s with ports := s.ports.set p { port with replay := left, resent := resent, lastAck := s.clock } }
  else s

/-- A replay request: the flits from the one it names on are sent again; where one of them has been resent 8 times in vain, the port
goes down. -/
def resend (s : State) (p : Nat) (expected : BitVec 12) : State :=
  let port := s.portOf p
  if port.replay.any fun f => f.seq == expected then
    let again := (port.replay.dropWhile fun f => f.seq != expected).map fun f => f.seq.toNat
    if again.any fun q => decide (8 ≤ port.resent.get 0 q) then linkDown s p
    else { s with ports := s.ports.set p { port with resent := again.foldl (fun t q => t.set q (t.get 0 q + 1)) port.resent } }
  else s

/-- A control flit on a port; it has no route header. -/
def sendControl (s : State) (p : Nat) (body : FlitBody) : State :=
  sendFlit s p { type := 6, poison := false, seq := 0, ack := 0, credit := 0, mid := 0, dest := 0, source := 0, hops := 0
                 crcGood := true, body := body }

/-! ## Requests of peers, performed here (R407) -/

/-- A request can be performed at once: its address is HBM, no one holds or waits for its granule where it is an atomic,
the array is free and the host holds no copy of what it writes. -/
def peerRequestBlocked (s : State) (pa n : Nat) (op : PeerOp) : Bool × State :=
  let atomic := match op with
    | .amo _ _ | .cas _ _ _ => s.queues.any fun q => q.granule == granuleOf pa
    | _ => false
  if atomic || arrayBlocked s .homed pa then (true, s)
  else match op with
    | .read _ => (false, s)
    | _ => snoopBlocked s pa n

def peerBytes : PeerOp → Nat
  | .read n => n
  | .write n _ => n
  | .amo _ _ => 8
  | .cas n _ _ => n

/-- The line of an address is left poisoned by what came poisoned (R406, R434). -/
def poisonLine (s : State) (pa : Nat) (poison : Bool) : State :=
  match poison, s.homes.find? (pa / 32) with
  | true, some l => { s.widen pa with homes := s.homes.set (pa / 32) { l with poison := true } }
  | _, _ => s

/-- A request performed at the line's home under HOMED: the value of its response, and its poison. What a poisoned flit
writes, or has combined with memory, leaves its line poisoned (R406, R434). -/
def performPeer (s : State) (pa : Nat) (op : PeerOp) (poison : Bool) : Word × Bool × State :=
  match op with
  | .read n =>
    let (v, p, s) := homeLoad s .homed pa n
    (BitVec.ofNat 64 v, p, s)
  | .write n d =>
    (0, false, noteGlobal (poisonLine (homeStore s .homed pa n d.toNat none) pa poison) pa n)
  | .amo op d =>
    let (old, p, s) := homeLoad s .homed pa 8
    (BitVec.ofNat 64 old, p,
      wakeGlobal (poisonLine (homeStore s .homed pa 8 (amoResult 8 op old d.toNat) none) pa poison) (granuleOf pa))
  | .cas n e d =>
    let (old, p, s) := homeLoad s .homed pa n
    (BitVec.ofNat 64 old, p,
      if old = e.toNat % 2 ^ (8 * n) then
        wakeGlobal (poisonLine (homeStore s .homed pa n d.toNat none) pa poison) (granuleOf pa)
      else s)

/-- The oldest request of its peer performed and answered, if it does not have to wait (R407, R408). An address beyond the
HBM stacks has nothing behind it (R271). -/
def performCall (s : State) (k : Nat) (q : PeerCall) : State :=
  if (s.peerCalls.take k).any fun r => r.ctag == q.ctag && r.rank == q.rank then s
  else
    let answer := fun (s : State) (v : Word) (poison : Bool) =>
      sendToRank { s with peerCalls := dropAt s.peerCalls k } q.ctag q.rank 2 poison (.response q.ident v)
    if 2 ^ 41 ≤ q.pa then answer s 0 true
    else match peerRequestBlocked s q.pa (peerBytes q.op) q.op with
    | (true, s) => s
    | (false, s) => let (v, p, s) := performPeer s q.pa q.op q.poison; answer s v p

/-- HOME_ACCESS: flight `k` reaches its home; past the flights, a request of a peer does. -/
def execHomeAccess (k : Nat) (s : State) : Result :=
  .next (match s.flights[k]?, s.peerCalls[k - s.flights.length]? with
    | some f, _ => reachHome s k f
    | none, some q => performCall s (k - s.flights.length) q
    | none, none => s)

/-! ## Responses -/

/-- What an answer brings: a thread its value, the copy engine its bytes in the scratchpad, and a fetch or another engine a
doubleword that is kept for it; to a killed thread nothing (R252). -/
def bringAnswer (s : State) (q : PeerReq) (v : Word) (poison : Bool) : State :=
  let f := q.flight
  let at_ := match f.target with
    | .peer _ pa => pa
    | _ => 0
  if f.lane = some 64 then { s with peerData := s.peerData ++ [⟨f.core, f.slot, q.rank, at_, v, poison⟩] }
  else if f.slot < 8 then
    match f.kind with
    | .load signed => f.answer s (extendN signed f.n v) poison
    | _ => f.answer s v poison
  else if f.lane.isSome then s
  else
    let s := match f.kind with
      | .load _ => padEngineStore s f.core f.expected.toNat f.n v.toNat poison
      | _ => s
    modCmd s f.core .copy (f.slot - 8) fun y => { y with poison := y.poison || poison }

/-- The answer to a request of this module. -/
def peerAnswer (s : State) (q : PeerReq) (v : Word) (poison : Bool) : State :=
  releaseRanks (bringAnswer { s with peerReqs := s.peerReqs.filter fun r => r.ident != q.ident } q v poison)

/-- A request completes as for a failed peer (R407, R411): a read brings poisoned zero, a write is discarded. -/
def peerFailed (s : State) (q : PeerReq) : State := peerAnswer s q 0 true

/-- PEER_RESPONSE_TIMEOUT (R411). -/
def execPeerResponseTimeout (k : Nat) (s : State) : Result :=
  .next (match s.peerReqs[k]? with
    | some q => if q.since.toNat + 2 ^ 20 ≤ (cyclesOf s q.flight.core).toNat then peerFailed s q else s
    | none => s)

/-! ## Delivery and routing (R411) -/

/-- The context whose valid membership has an identifier. -/
def contextOfMid (s : State) (mid : BitVec 16) : Option (BitVec 4) :=
  (s.memberships.entries.find? fun e => e.2.valid && e.2.mid == mid).map fun e => BitVec.ofNat 4 e.1

/-- A launch of a context that may receive capsules: queued or placed (R315). -/
def receives (s : State) (ctag : BitVec 4) (lid : BitVec 32) : Bool :=
  s.queued.any (fun q => q.record.lid == lid && q.record.ctag == ctag)
    || s.placed.any fun p => p.record.lid == lid && p.record.ctag == ctag

/-- A peer's request to land a crossing (R315): it joins those of its core, or is refused. An answer names the reason with which its
capsule goes to the harbour, or is 0 (log entry 137). -/
def inboundRequest (s : State) (q : Inbound) (core : Nat) (launch : BitVec 32) : State :=
  if core < 1280 && receives s q.ctag launch then
    { s with landReqs := s.landReqs ++ [{ core := core, buf := 0, dest := core, rover := none, admitted := false, since := 0
                                          inbound := some q }] }
  else sendToRank s q.ctag q.rank 2 false (.response q.ident 8)

/-- The answer to a crossing: to its request, or, once its image is sent, that it has landed. -/
def answerCrossing (v : Word) (q : Crossing) : Crossing :=
  match q.stage with
  | .asked => { q with stage := .answered v }
  | .sent => { q with stage := .over }
  | _ => q

/-- A flit for this module: what it carries takes its effect, or waits here for it. Travellers and bare data land through events
of their own. -/
def deliverFlit (s : State) (ctag : BitVec 4) (f : Flit) : State :=
  match f.body with
  | .request ident pa op =>
    { s with peerCalls := s.peerCalls ++ [⟨ctag, f.source.toNat, ident, pa.toNat, op, f.poison⟩] }
  | .response ident v =>
    (match s.peerReqs.find? fun q => q.ident == ident && q.ctag == ctag && q.rank == f.source.toNat with
     | some q => peerAnswer s q v f.poison
     | none => { s with crossings := s.crossings.map fun q =>
                   if q.ident == ident && q.ctag == ctag && q.rank == f.source.toNat then answerCrossing v q else q })
  | .landing ident core launch => inboundRequest s ⟨ctag, f.source.toNat, ident⟩ core launch
  | .collective part leaf => leafFlitArrives s { leaf with ctag := ctag, rank := f.source.toNat } part f.poison
  | .leave r => leaveRank s ctag r
  | _ => s

/-- A flit for another rank: forwarded, unless its hops run out or no port leads on. -/
def forwardFlit (s : State) (ctag : BitVec 4) (f : Flit) : State :=
  match peerPort s ctag f.dest.toNat with
  | some p => if 16 ≤ f.hops.toNat + 1 then s else sendFlit s p { f with hops := f.hops + 1 }
  | none => s

/-- An accepted flit goes where its header says. -/
def routeFlit (s : State) (p : Nat) (f : Flit) : State :=
  match f.body with
  | .replay n => resend s p n
  | .control => s
  | _ =>
    match contextOfMid s f.mid with
    | none => s
    | some ctag => if f.dest == (s.memberOf ctag).self then deliverFlit s ctag f else forwardFlit s ctag f

/-- The type codes of R404. -/
def flitTypeOk (t : BitVec 8) : Bool := decide (1 ≤ t.toNat) && decide (t.toNat ≤ 6)

/-- A flit accepted: its sequence number, a credit owed for it, and the credits that it returns (R404). -/
def acceptFlit (p : Port) (f : Flit) : Port :=
  { p with rx := f.seq, owed := p.owed + 1, credits := p.credits + f.credit.toNat }

/-- PHOUP_FLIT_RECEIVED (R404, R405): the next flit in order, with a good CRC, is accepted; any other is asked for again. -/
def execPhoupFlitReceived (port : Nat) (flit : Flit) (s : State) : Result :=
  .next (
    if !isPort port || !(s.portOf port).up then s
    else if !flit.crcGood || flit.seq != (s.portOf port).rx + 1 || !flitTypeOk flit.type then
      sendControl s port (.replay ((s.portOf port).rx + 1))
    else
      let s := { s with ports := s.ports.set port (acceptFlit (s.portOf port) flit) }
      routeFlit (takeAck s port flit.ack) port flit)

/-- LINK_ACK_TIMEOUT (R405). -/
def execLinkAckTimeout (port : Nat) (s : State) : Result :=
  .next (
    let p := s.portOf port
    if p.up && !p.replay.isEmpty && decide (p.lastAck + 65536 ≤ s.clock) then linkDown s port else s)

/-- LINK_RETRAINED (R405, R427, R461): the port carries traffic again, with nothing in its buffers; it admits no rank. -/
def execLinkRetrained (port : Nat) (s : State) : Result :=
  .next (
    let p := s.portOf port
    if !isPort port || p.up then s
    else countLife { s with ports := s.ports.set port { Port.reset with lanes := p.lanes, lastAck := s.clock } } (0x40 + port) 1)

end Sys2Proof.Machine
end

