-- ==== Sys2Proof/Machine/Scheduler.lean ====
section
/-!
DEFINITION. From launch to issue (R356–R374): the device's tables in memory, launch records and their queues, placement
passes, the threads that a launch or a task starts, task queue banks with their overflow rings, dispatch, completion;
and what the end of a thread does to its gang (R255, R259).
-/

namespace Sys2Proof.Machine

/-! ## Tables of the device in memory -/

/-- Bytes lo to lo + n − 1 of a block read little-endian (R8). -/
def bytesAt (d lo n : Nat) : Nat := d / 2 ^ (8 * lo) % 2 ^ (8 * n)

/-- `n` words that the spec leaves open, as a number of 64·`n` bits. -/
def freeWords (at_ : Nat) : Nat → Nat
  | 0 => 0
  | n + 1 => (Config.freeWord at_).toNat + 2 ^ 64 * freeWords (at_ + 1) n

/-- The lines that `n` bytes at `pa` stand in. -/
def linesOf (pa n : Nat) : List Nat := (List.range ((pa % 32 + n + 31) / 32)).map fun i => pa / 32 + i

/-- Lines of tables that a step needs and cannot have yet: it is not performed, and they are asked for (`askHost`). -/
def needLines (s : State) (l : List Nat) : State := { s with wants := l.foldl (fun w x => insertSorted x w) s.wants }

/-- The requester under which the device asks peers for its tables: no core and slot (R407). -/
def tableAsker : Nat × Nat := (1280, 8)

/-- The context whose membership leads to a peer for a table of the device, which names none (log entry 45). -/
def tableTag (s : State) (rank : Nat) : BitVec 4 :=
  BitVec.ofNat 4 ((firstBelow 16 fun t => peerReachable s (BitVec.ofNat 4 t) rank).getD 0)

/-- A doubleword of a table at a peer has been answered, or the peer cannot be reached (R285). -/
def wordThere (s : State) (rank a : Nat) : Bool :=
  !peerReachable s (tableTag s rank) rank || (peerWord s tableAsker.1 tableAsker.2 rank a).isSome

/-- The lines of a table that the device cannot have yet: only a yield point lets it reach them (R337), or the peer behind an
aperture has not answered for them (R407). -/
def busyLines (s : State) (pa n : Nat) : List Nat :=
  match apertureOf s pa with
  | some (rank, there) => (linesOf pa n).filter fun l =>
      (List.range 4).any fun i => !wordThere s rank (there / 32 * 32 + (l - pa / 32) * 32 + 8 * i)
  | none => (linesOf pa n).filter fun l => arrayBlocked s .homed (l * 32)

/-- What the device has of a table at a peer: from one that cannot be reached, poisoned zeros (R285, R407). -/
def peerTable (s : State) (rank there n : Nat) : Bytes :=
  if peerReachable s (tableTag s rank) rank then
    (wordPieces there n).foldl (fun (acc : Bytes) (a, m) =>
      match peerWord s tableAsker.1 tableAsker.2 rank (a / 8 * 8) with
      | some d => (acc.1 + d.val.toNat / 2 ^ (8 * (a % 8)) % 2 ^ (8 * m) * 2 ^ (8 * (a - there))
                   , if d.poison then acc.2 ++ pieceWords (a - there) m else acc.2)
      | none => acc) (0, [])
  else (0, pieceWords 0 n)

/-- The device reads `n` bytes of one of its tables under HOMED. What an address without memory holds is open (log entry 45). -/
def tableBytes (s : State) (pa n : Nat) : Bytes × State :=
  let s := needLines s (busyLines s pa n)
  match apertureOf s pa with
  | some (rank, there) => (peerTable s rank there n, s)
  | none =>
    if isPopulated pa then readLines s 0 .homed pa n
    else ((freeWords s.free ((n + 7) / 8) % 2 ^ (8 * n), []), { s with free := s.free + (n + 7) / 8 })

/-- The same, with one mark for all of it. -/
def tableRead (s : State) (pa n : Nat) : Nat × Bool × State :=
  let (r, s) := tableBytes s pa n
  (r.1, !r.2.isEmpty, s)

/-- The device writes `n` bytes of one of its tables under HOMED, once the host holds no copy of them (R399); its writes to a peer
are answered to nobody. -/
def tableWrite (s : State) (pa n v : Nat) (poison : Bool) : State :=
  match apertureOf s pa with
  | some (rank, there) =>
    let tag := tableTag s rank
    if peerHeld s tag rank then needLines s (linesOf pa n)
    else if peerReachable s tag rank then
      (wordPieces there n).foldl (askPeer false tableAsker.1 tableAsker.2 tag rank 0
        (some fun i m => (v / 2 ^ (8 * i) % 2 ^ (8 * m), poison)) there) s
    else s
  | none =>
    if isPopulated pa then
      let s := needLines s ((linesOf pa n).filter fun l => arrayBlocked s .homed (l * 32) || s.hostLines.contains l)
      recordLines s 0 .homed pa n v fun _ _ => poison
    else s

/-- The doublewords of a wanted line at a peer are asked for, those that neither are there nor have been asked for. -/
def askLine (s : State) (l : Nat) : State :=
  match apertureOf s (32 * l) with
  | none => s
  | some (rank, there) =>
    let tag := tableTag s rank
    let asked := fun a => s.peerReqs.any fun q =>
      q.flight.core == tableAsker.1 && q.flight.lane == some 64 && q.flight.target == .peer rank a
    if peerHeld s tag rank then s
    else ((List.range 4).filter fun i => !wordThere s rank (there + 8 * i) && !asked (there + 8 * i)).foldl
      (fun s i => askPeer true tableAsker.1 tableAsker.2 tag rank 0 none there s (there + 8 * i, 8)) s

/-- What a step of the device comes to: its outcome, or, where it has to wait for lines of its tables, the snoops and requests
that ask the host and the peers for them and nothing else (R337, R399, R407). -/
def askHost (s t : State) : State :=
  if t.wants.isEmpty then t
  else t.wants.foldl askLine
    { s with snoops := (t.wants.filter s.hostLines.contains).foldl (fun l x => insertSorted x l) s.snoops }

/-- What peers have answered about tables is kept until no step of the device waits for more. -/
def forgetTables (s : State) : Result :=
  .next (if s.peerReqs.any fun q => q.flight.core == tableAsker.1 && q.flight.lane == some 64 then s
    else dropAnswers s tableAsker.1 tableAsker.2)

/-- A step of the device that reads or writes its tables. -/
def deviceStep (f : State → State) (s : State) : Result := .next (askHost s (f s))

/-! ## Requests to units (R242) -/

/-- The pilot's write to a register that waits for its unit, taken by the unit. -/
def takeUnit (s : State) (core reg : Nat) : Option (Word × State) :=
  (s.unitReqs.find? fun q => q.core == core && q.reg == reg).map fun q =>
    (q.value, { s with unitReqs := s.unitReqs.erase q })

/-- The unit replies: the pilot's syswr retires. -/
def unitDone (s : State) (core : Nat) : State := postReply s core 7 0

/-- The unit finds the value refused when its turn comes: the pilot traps at its syswr. -/
def unitRefuses (s : State) (core : Nat) : State := takeTrap s core 7 .illegalOperand 0 0 0

/-! ## Manifest steps (R308, R309) -/

structure Step where
  d0 : Word
  d1 : Word
  deriving DecidableEq, Repr

def Step.kind (t : Step) : Nat := bitsOf t.d0 63 62
def Step.core (t : Step) : Nat := coreAt (bitsOf t.d0 61 55) (bitsOf t.d0 54 51)
def Step.cmd (t : Step) : Nat := bitsOf t.d0 50 43
def Step.count (t : Step) : Nat := bitsOf t.d0 42 32
def Step.param (t : Step) : BitVec 32 := BitVec.ofNat 32 (bitsOf t.d0 31 0)
def Step.addr (t : Step) : Nat := bitsOf t.d1 20 0
def Step.isThread (t : Step) : Bool := t.kind == 1
def Step.isBank (t : Step) : Bool := t.kind == 2
def Step.isCrossing (t : Step) : Bool := t.kind == 3

/-- The commands a bank step may hold. -/
def stepCommands : List Nat := [0x30, 0x31, 0x33, 0x34, 0x35, 0x36, 0x37, 0x39]

/-- The bytes of the tile that a bank step keeps its state in (R317). -/
def Step.tileNeeds (t : Step) : Nat :=
  match t.cmd with
  | 0x35 | 0x36 => 8
  | 0x37 => 4 + 8 * t.count
  | _ => 0

/-- A malformed step (R309), for a tile of a size. -/
def Step.malformed (t : Step) (tile : Nat) : Bool :=
  decide (79 < bitsOf t.d0 61 55) || (match t.kind with
    | 0 => true
    | 1 => t.cmd != 0 || t.count != 0 || bitsOf t.d1 1 0 != 0 || bitsOf t.d1 60 57 != 0
    | 2 => !stepCommands.contains t.cmd || t.count == 0 || decide (1024 < t.count) || t.addr % 4 != 0
        || decide (2 ^ 21 < t.addr + 4 * t.count) || bitsOf t.d1 63 21 != 0 || decide (tile < t.tileNeeds)
    | _ => t.cmd != 0 || t.count != 0 || bitsOf t.d0 31 16 != 0 || bitsOf t.d1 63 32 != 0 || t.d1 == 0)

/-- The step in 16 bytes of a block. -/
def stepAt (d lo : Nat) : Step := ⟨BitVec.ofNat 64 (bytesAt d lo 8), BitVec.ofNat 64 (bytesAt d (lo + 8) 8)⟩

/-- A class table entry is well formed (R94, R309, R358). -/
def classOk (d : Nat) : Bool :=
  let tile := bytesAt d 0 2
  let steps := bytesAt d 2 1
  tile % 4 == 0 && within 4 4096 tile && within 1 16 steps && bytesAt d 3 61 == 0
    && decide (64 + 16 * steps + 96 + tile ≤ 4512) && allRows steps fun i => !(stepAt d (64 + 16 * i)).malformed tile

/-! ## Launch records (R356–R360) -/

/-- The record in 128 bytes; the number comes at submission. -/
def parseLaunch (d : Nat) : Launch :=
  let mode := bytesAt d 5 1
  { lid := 0, ctag := BitVec.ofNat 4 (bytesAt d 4 1), cls := mode % 4, pair := mode / 4 % 2 == 1, pull := mode / 8 % 2 == 1
    fixed := mode / 16 % 2 == 1, crew := bytesAt d 6 1, origin := bytesAt d 7 1, bandw := bytesAt d 8 1
    bandh := bytesAt d 9 1, coresw := bytesAt d 10 1, coresh := bytesAt d 11 1, scratch := bytesAt d 12 4
    sbase := bytesAt d 16 4, segn := bytesAt d 20 2, classes := bytesAt d 22 1, entry := BitVec.ofNat 64 (bytesAt d 24 8)
    hpc := BitVec.ofNat 64 (bytesAt d 32 8), segtab := BitVec.ofNat 52 (bytesAt d 40 8)
    cltab := BitVec.ofNat 52 (bytesAt d 48 8), hrbase := BitVec.ofNat 52 (bytesAt d 56 8), hcap := bytesAt d 64 2
    cblk := BitVec.ofNat 52 (bytesAt d 72 8), cval := BitVec.ofNat 64 (bytesAt d 80 8)
    args := Vector.ofFn fun i => BitVec.ofNat 64 (bytesAt d (88 + 8 * i.val) 8) }

/-- A physical address field: aligned, and below 2^52. -/
def addressField (d lo align : Nat) : Bool := bytesAt d lo 8 % align == 0 && decide (bytesAt d lo 8 < 2 ^ 52)

/-- The record is well formed, its class entries apart (R356). -/
def launchOk (d : Nat) (r : Launch) : Bool :=
  bytesAt d 4 1 / 16 == 0 && bytesAt d 5 1 / 32 == 0 && within 1 (if r.pair then 3 else 7) r.crew
    && (if r.fixed then decide (r.origin < 80) else r.origin == 0) && within 1 20 r.bandw && within 1 4 r.bandh
    && within 1 4 r.coresw && within 1 4 r.coresh && r.scratch % 32 == 0 && r.sbase % 32 == 0
    && decide (r.sbase + r.scratch ≤ 2 ^ 21) && decide (r.classes ≤ 16) && bytesAt d 23 1 == 0
    && bytesAt d 24 1 % 4 == 0 && bytesAt d 32 1 % 4 == 0 && addressField d 40 64 && addressField d 48 64
    && (r.classes != 0 || r.cltab == 0) && addressField d 56 256 && (r.hcap != 0 || r.hrbase == 0)
    && bytesAt d 66 6 == 0 && addressField d 72 16 && bytesAt d 120 8 == 0

/-- The band of a launch lies in the cluster grid at an origin. -/
def bandInGrid (r : Launch) (o : Nat) : Bool := decide (o % 20 + r.bandw ≤ 20) && decide (o / 20 + r.bandh ≤ 4)

/-- The class entries that a record names, with their poison. -/
def classEntries (s : State) (r : Launch) : List (Nat × Bool) × State :=
  (List.range (min r.classes 16)).foldl (fun (acc : List (Nat × Bool) × State) c =>
    let (d, p, s) := tableRead acc.2 (r.cltab.toNat + 320 * c) 320
    (acc.1 ++ [(d, p)], s)) ([], s)

/-- The next launch number (R360). -/
def nextNumber (n : BitVec 32) : BitVec 32 := if n + 1 = 0 then 1 else n + 1

/-- A submission (R360): its status, the launch number where it is queued, and the state after it, before the pass. -/
def submitLaunch (s : State) (pa : Nat) : Nat × BitVec 32 × State :=
  let (d, poison, s) := tableRead s pa 128
  let r := { parseLaunch d with sections := s.images.get [] pa }
  let (classes, s) := classEntries s r
  if poison || classes.any (·.2) then (4, 0, s)
  else if !launchOk d r || !classes.all (fun e => classOk e.1) then (2, 0, s)
  else if r.fixed && !bandInGrid r r.origin then (3, 0, s)
  else if 256 ≤ (s.queued.filter fun q => q.cls == r.cls).length then (1, 0, s)
  else
    let lid := s.nextLid
    let s := tableWrite s pa 4 lid.toNat false
    (0, lid, { s with queued := s.queued ++ [⟨{ r with lid := lid }, r.cls, 0, s.clock⟩], nextLid := nextNumber lid
                      errWords := s.errWords.set lid.toNat 0 })

/-! ## Bands and cores (R364–R366) -/

/-- The launches placed on a core. -/
def placedOn (s : State) (c : Nat) : List Placed := s.placed.filter fun p => p.cores.contains c

/-- Slots 0–6 that are empty and open for dispatch (R394 apart). -/
def openSlots (s : State) (c : Nat) : List Nat :=
  (List.range 7).filter fun k => (s.slotOf c k).status == .empty && bitAt (s.coreOf c).spawnctl k

/-- The leading slots of the pairs that are empty and open. -/
def openPairs (s : State) (c : Nat) : List Nat :=
  [0, 2, 4].filter fun k => (openSlots s c).contains k && (openSlots s c).contains (k + 1)

/-- The places on a core for the threads of a launch: slots, or pairs. A held cluster offers none (R459). -/
def places (s : State) (c : Nat) (pair : Bool) : List Nat :=
  if (s.clusterAt (clusterOf c)).held then [] else if pair then openPairs s c else openSlots s c

/-- A core takes a crew of a launch (R364). Each of the 16 tags has an entry of its own in the context table. -/
def coreFits (s : State) (r : Launch) (c : Nat) : Bool :=
  s.inService c && decide (r.crew ≤ (places s c r.pair).length)
    && !((placedOn s c).any fun p => rangesMeet r.sbase r.scratch p.record.sbase p.record.scratch)
    && !((s.coreOf c).resident.any fun e => e.1 == r.ctag && e.2 != r.lid)

/-- The origin at which a launch fits, the lowest or the fixed one. -/
def fitAt (s : State) (r : Launch) : Option Nat :=
  (if r.fixed then [r.origin] else List.range 80).find? fun o =>
    bandInGrid r o && (bandCores r o).all fun c => coreFits s r c.1

/-! ## Starting threads (R17, R21, R367) -/

/-- The segment image of a segment-table entry (R246); a context sees only groups of its own (R414). -/
def entryImage (s : State) (ctag : BitVec 4) (d : Nat) : Quad :=
  let control : Word := BitVec.ofNat 64 (bytesAt d 32 8)
  let g := s.groupOf (bitsOf control 12 6) (bitsOf control 5 0)
  BitVec.ofNat 128 (if bitAt control 63 && g.state != 0 && g.ctag == ctag && g.v then bytesAt d 16 16 else bytesAt d 0 16)

/-- The eight segment registers that a dispatch loads; an entry at or beyond segn is invalid. -/
def tableSegments (s : State) (r : Launch) : Vector Quad 8 :=
  Vector.ofFn fun i =>
    if i.val < r.segn then entryImage s r.ctag (tableRead s (r.segtab.toNat + 64 * i.val) 64).1 else 0

/-- The lines of its segment table that a launch's threads are started from. -/
def needSegments (s : State) (r : Launch) : State := needLines s (busyLines s r.segtab.toNat (64 * min 8 r.segn))

/-- The rank of this module that a dispatched thread reads (R410). -/
def moduleRank (s : State) (ctag : BitVec 4) : BitVec 16 := if (s.memberOf ctag).valid then (s.memberOf ctag).self else 0

/-- The first wheel boundary after a cycle (R17). -/
def nextBoundary (n : Word) : Word := BitVec.ofNat 64 ((n.toNat / 8 + 1) * 8)

/-- A thread takes slot `k` under R17; what the dispatch does not set starts as in R21. -/
def startThread (s : State) (c k : Nat) (x : Slot) : State :=
  let n := (s.coreOf c).cycle
  s.setSlot c k
    { x with status := .placed, boundary := nextBoundary n, firstIssue := true, last := n, mrank := moduleRank s x.ctag }

/-- A thread of a launch before the dispatch has given it its own registers. -/
def launchThread (s : State) (r : Launch) : Slot :=
  { Slot.blank with lid := r.lid, ctag := r.ctag, sg := tableSegments s r }

/-- The registers g1–g4 of a thread. -/
def withArgs (x : Slot) (a0 a1 a2 a3 : Word) : Slot :=
  { x with g := vset (vset (vset (vset x.g 1 a0) 2 a1) 3 a2) 4 a3 }

/-- A thread, or in pair mode both of a pair (R443), starts at a place. -/
def startAt (s : State) (c k : Nat) (pair : Bool) (x : Slot) : State :=
  if pair then startThread (startThread s c k { x with pair := .leading }) c (k + 1) { x with pair := .trailing }
  else startThread s c k x

/-- The crew of one core starts (R366, R367). -/
def startCrew (r : Launch) (segs : Slot) (s : State) (c base : Nat) : State :=
  let at_ := places s c r.pair
  (List.range r.crew).foldl (fun s j =>
    let rank := base + j
    let x := withArgs segs (vget r.args 0 0) (vget r.args 0 1) (vget r.args 0 2) (vget r.args 0 3)
    startAt s c (at_.getD j 0) r.pair
      { x with pc := r.entry, rank := BitVec.ofNat 16 rank, gang := true
               srseed := BitVec.ofNat 32 (bitsOf r.lid 15 0 * 2 ^ 16) ^^^ BitVec.ofNat 32 rank }) s

/-- The tag becomes resident on a core for a launch (R365). -/
def makeResident (s : State) (r : Launch) (c : Nat) : State :=
  s.modCore c fun x => { x with resident := if x.resident.contains (r.ctag, r.lid) then x.resident else x.resident ++ [(r.ctag, r.lid)] }

/-- A local section's initial contents written into the scratchpad of a core, at its segment's base plus its offset (R365). What of
them would lie beyond the scratchpad's end is left out (DESIGN CHOICE, log entry 168). -/
def writeSection (segs : Vector Quad 8) (c : Nat) (s : State) (x : LocalSection) : State :=
  let at_ := bitsOf (vget segs 0 x.sel) 56 0 + x.offset
  let n := min x.data.length (2 ^ 21 - at_)
  if n = 0 then s
  else padRmwStore s c at_ n ((x.data.take n).foldr (fun b v => b.toNat + 256 * v) 0) false

/-- A launch is placed whole (R365): the tag is resident on its cores, their local sections stand in their scratchpads (R86), and
every crew has its slots. -/
def placeLaunch (s : State) (q : Queued) (o : Nat) : State :=
  let s := needSegments s q.record
  let segs := launchThread s q.record
  let prepare := fun (s : State) (e : Nat × Nat) => q.record.sections.foldl (writeSection segs.sg e.1) (makeResident s q.record e.1)
  let s := { s with queued := s.queued.filter (fun x => x.record.lid != q.record.lid)
                    placed := s.placed ++ [⟨{ q.record with cls := q.cls }, o, 0⟩] }
  (bandCores q.record o).foldl (fun s e => startCrew q.record segs s e.1 e.2) ((bandCores q.record o).foldl prepare s)

/-! ## Placement passes (R361, R362) -/

/-- A queued launch has been passed over 64 times. -/
def Queued.holds (q : Queued) : Bool := decide (64 ≤ q.passes)

/-- The pass over the launches of one class in queue order, with those so far not placed, and those passed over. The last
answer says that the pass stops. -/
def passClass (cls : Nat) : List (BitVec 32) → List (BitVec 32) → List (BitVec 32) → State →
    List (BitVec 32) × List (BitVec 32) × Bool × State
  | [], unfit, over_, s => (unfit, over_, false, s)
  | lid :: rest, unfit, over_, s =>
    match s.queued.find? fun q => q.record.lid == lid with
    | none => passClass cls rest unfit over_ s
    | some q =>
      if s.queued.any fun h => h.holds && decide (cls ≤ h.cls) && h.record.lid != lid then (unfit, over_, true, s)
      else match fitAt s q.record with
        | some o => passClass cls rest [] (over_ ++ unfit) (placeLaunch s q o)
        | none => passClass cls rest (unfit ++ [lid]) over_ s

/-- A placement pass; the passes-over of it are counted at its end. -/
def placementPass (s : State) : State :=
  let (_, over_, _, s) := [3, 2, 1, 0].foldl (fun acc cls =>
    let (unfit, over_, stopped, s) := acc
    if stopped then acc
    else passClass cls ((s.queued.filter fun q => q.cls == cls).map fun q => q.record.lid) unfit over_ s) ([], [], false, s)
  { s with queued := s.queued.map fun q => if over_.contains q.record.lid then { q with passes := q.passes + 1 } else q }

/-! ## lqsub and lqdel (R359, R360) -/

/-- lqstat after a submission or a withdrawal. -/
def queueStatus (status : Nat) (lid : BitVec 32) : BitVec 40 := BitVec.ofNat 40 (status + lid.toNat * 2 ^ 8)

/-- A submission and the pass it causes. -/
def submitQueued (s : State) (pa : Nat) : BitVec 40 × State :=
  let (status, lid, s) := submitLaunch s pa
  (queueStatus status lid, if status = 0 then placementPass s else s)

/-- A withdrawal. What holds up a queue may have gone, but no pass is made for it. -/
def withdraw (s : State) (lid : BitVec 32) : BitVec 40 × State :=
  if s.queued.any fun q => q.record.lid == lid then
    (queueStatus 5 0, { s with queued := s.queued.filter (fun q => q.record.lid != lid), errWords := s.errWords.erase lid.toNat })
  else (queueStatus 6 0, s)

def execLqsub (core : Nat) (s : State) : Result :=
  deviceStep (fun s => match takeUnit s core 0x120 with
    | none => s
    | some (v, s) =>
      let (st, s) := submitQueued s v.toNat
      unitDone (s.modCore core fun r => { r with lqstat := st }) core) s

def execLqdel (core : Nat) (s : State) : Result :=
  .next (match takeUnit s core 0x122 with
    | none => s
    | some (v, s) =>
      let (st, s) := withdraw s (v.truncate 32)
      unitDone (s.modCore core fun r => { r with lqstat := st }) core)

/-- LAUNCH_CLASS_RISE (R363): the queue of each class is in submission order. -/
def execLaunchClassRise (lid : BitVec 32) (s : State) : Result :=
  .next { s with queued := s.queued.map fun q =>
            if q.record.lid == lid && q.cls < 3 && decide (q.since + 2 ^ 22 ≤ s.clock) then
              { q with cls := q.cls + 1, since := s.clock } else q }

/-! ## Task queue banks (R368–R370) -/

def TaskRec.bytes (r : TaskRec) (lo n : Nat) : Nat := bytesAt r.data.toNat lo n
def TaskRec.pc (r : TaskRec) : Word := BitVec.ofNat 64 (r.bytes 0 8)
def TaskRec.lid (r : TaskRec) : BitVec 32 := BitVec.ofNat 32 (r.bytes 8 4)
def TaskRec.idempotent (r : TaskRec) : Bool := r.bytes 12 1 % 2 == 1
def TaskRec.harbour (r : TaskRec) : Bool := r.bytes 12 1 / 2 % 2 == 1
def TaskRec.arg (r : TaskRec) (i : Nat) : Word := BitVec.ofNat 64 (r.bytes (32 + 8 * i) 8)

/-- A record that the device makes: its pc, launch, flags and arguments; its other fields are zero (R369, R419). -/
def makeTask (pc : Word) (lid : BitVec 32) (flags : Nat) (a0 a1 a2 a3 : Word) (apply : Option (Nat × Nat)) : TaskRec :=
  { data := BitVec.ofNat 512 (pc.toNat + lid.toNat * 2 ^ 64 + flags * 2 ^ 96 + a0.toNat * 2 ^ 256 + a1.toNat * 2 ^ 320
      + a2.toNat * 2 ^ 384 + a3.toNat * 2 ^ 448), apply := apply }

/-- A record of a thread is well formed (R368, R369), apart from the launch it names. -/
def taskOk (r : TaskRec) : Bool :=
  let f := r.bytes 14 2
  r.bytes 0 1 % 4 == 0 && r.bytes 12 1 / 2 == 0 && r.bytes 13 1 == 0 && f / 2 ^ 11 == 0 && decide (f % 16 ≤ 10)
    && decide (f / 16 % 16 ≤ 10) && f / 256 % 4 != 3 && r.bytes 16 4 / 2 ^ 21 == 0 && r.bytes 20 4 / 2 ^ 21 == 0
    && r.bytes 28 4 == 0

/-- A record enters the bank, or the overflow ring, or neither (R370). -/
def bankEnter (s : State) (cl : Nat) (r : TaskRec) : Nat × State :=
  let c := s.clusterAt cl
  if c.bank.length < 2048 && c.ring.isEmpty then (0, s.modCluster cl fun c => { c with bank := c.bank ++ [r] })
  else if c.ring.length < c.tqsize.toNat then
    let pa := c.tqbase.toNat + 64 * ((c.ringHead + c.ring.length) % c.tqsize.toNat)
    (1, (tableWrite s pa 64 r.data.toNat r.poison).modCluster cl fun c => { c with ring := c.ring ++ [r] })
  else (2, s)

/-- Every core of a cluster is fenced off or has failed. -/
def clusterGone (s : State) (cl : Nat) : Bool := (List.range 16).all fun l => !s.inService (clusterCore cl l)

/-- A launch is placed with a cluster inside its band. -/
def placedInBand (s : State) (lid : BitVec 32) (cl : Nat) : Bool :=
  match findPlaced s lid with
  | some p => p.clusters.contains cl
  | none => false

/-- A record submitted to a bank (R260, R369): the status of tsub. -/
def submitTask (s : State) (cl : Nat) (r : TaskRec) : Nat × State :=
  if !placedInBand s r.lid cl then (3, s)
  else if clusterGone s cl then (4, s)
  else bankEnter s cl r

/-- The spill engine moves records from the head of the ring into the bank until it holds 1,536 (R370). -/
def refillBank (cl : Nat) : Nat → State → State
  | 0, s => s
  | n + 1, s =>
    let c := s.clusterAt cl
    match c.ring with
    | [] => s
    | r :: rest =>
      if 1536 ≤ c.bank.length then s
      else
        let (d, p, s) := tableRead s (c.tqbase.toNat + 64 * (c.ringHead % c.tqsize.toNat)) 64
        let r := { r with data := BitVec.ofNat 512 d, poison := p }
        refillBank cl n (s.modCluster cl fun c => { c with bank := c.bank ++ [r], ring := rest
                                                           ringHead := (c.ringHead + 1) % c.tqsize.toNat })

/-- SPILL_REFILL. -/
def execSpillRefill (cluster : Nat) (s : State) : Result :=
  deviceStep (fun s => if (s.clusterAt cluster).bank.length < 512 then refillBank cluster 1536 s else s) s

/-! ## Taking records (R371, R372) -/

/-- The apply task of a group's latest close is taken: the group is applying (R418). -/
def beginApply (s : State) (r : TaskRec) : State :=
  match r.apply with
  | some (w, close) =>
    let g := s.groupOf (w / 64) (w % 64)
    if g.state = 2 && g.closing == close then s.setGroup (w / 64) (w % 64) { g with state := 3 } else s
  | none => s

/-- The oldest record of a bank that a test picks, taken. -/
def takeTask (s : State) (cl : Nat) (p : TaskRec → Bool) : Option (TaskRec × State) :=
  match (s.clusterAt cl).bank.find? p with
  | some r => some (r, beginApply (s.modCluster cl fun c => { c with bank := c.bank.erase r }) r)
  | none => none

/-- The record of a launch that dispatch would take: with pull = 1, a harbour record alone. -/
def dispatchable (p : Placed) (r : TaskRec) : Bool := r.lid == p.record.lid && (!p.record.pull || r.harbour)

/-- The place that a task of a launch gets in a cluster. -/
def taskPlace (s : State) (cl : Nat) (p : Placed) : Option (Nat × Nat) :=
  let cores := (List.range 1280).filter fun c => clusterOf c == cl && p.cores.contains c
  (cores.find? fun c => s.inService c && !(places s c p.record.pair).isEmpty
      && !((placedOn s c).any fun q => rangesMeet 0x1FFE00 512 q.record.sbase q.record.scratch)).map
    fun c => (c, (places s c p.record.pair).headD 0)

/-- The launches with a record that can be dispatched in a cluster now. -/
def dispatchers (s : State) (cl : Nat) : List Placed :=
  s.placed.filter fun p => p.clusters.contains cl && ((s.clusterAt cl).bank.any (dispatchable p)) && (taskPlace s cl p).isSome

/-- The next launch of a rotation: the lowest number above the latest, else the lowest. -/
def nextTurn (last : BitVec 32) (l : List Placed) : Option Placed :=
  let least := fun (l : List Placed) => l.foldl (fun (acc : Option Placed) p =>
    match acc with
    | some q => if p.record.lid.toNat < q.record.lid.toNat then some p else some q
    | none => some p) none
  match least (l.filter fun p => decide (last.toNat < p.record.lid.toNat)) with
  | some p => some p
  | none => least l

/-- The launch whose turn it is: of the highest class that has one. -/
def dispatchChoice (s : State) (cl : Nat) : Option Placed :=
  let l := dispatchers s cl
  match [3, 2, 1, 0].find? fun k => l.any fun p => p.record.cls == k with
  | some k => nextTurn (vget (s.clusterAt cl).rotation 0 k) (l.filter fun p => p.record.cls == k)
  | none => none

/-- The offset of the task window of a slot. -/
def taskWindow (k : Nat) : Nat := 0x1FFE00 + 64 * k

/-- A task thread starts (R367, R372). -/
def startTask (s : State) (p : Placed) (r : TaskRec) (c k : Nat) : State :=
  let s := padRmwStore s c (taskWindow k) 64 r.data.toNat r.poison
  let s := needSegments s p.record
  let x := withArgs (launchThread s p.record) (r.arg 0) (r.arg 1) (r.arg 2) (r.arg 3)
  let s := startAt s c k p.record.pair
    { x with pc := r.pc, rank := 0xFFFF, tasked := true, task := BitVec.ofNat 64 (taskWindow k), fmt := BitVec.ofNat 11 (r.bytes 14 2)
             sca := BitVec.ofNat 21 (r.bytes 16 4), scb := BitVec.ofNat 21 (r.bytes 20 4)
             srseed := BitVec.ofNat 32 (r.bytes 24 4) ^^^ BitVec.ofNat 32 (c * 8 + k) }
  let s := { s with outstanding := s.outstanding ++ [⟨c, k, taskWindow k, r.lid, r⟩] }
  (if p.record.pair then [k, k + 1] else [k]).foldl (fun s j => consumeIf s c j r.poison) s

/-- TASK_DISPATCH (R371). -/
def execTaskDispatch (cluster : Nat) (s : State) : Result :=
  deviceStep (fun s => match dispatchChoice s cluster with
    | none => s
    | some p =>
      match taskPlace s cluster p, takeTask s cluster (dispatchable p) with
      | some (c, k), some (r, s) =>
        startTask (s.modCluster cluster fun x => { x with rotation := vset x.rotation p.record.cls p.record.lid }) p r c k
      | _, _ => s) s

/-! ## Barriers (R255) -/

/-- A slot holds a gang thread of a launch that counts at barriers: one for each pair. -/
def gangMember (lid : BitVec 32) (x : Slot) : Bool :=
  x.gang && x.lid == lid && x.pair != .trailing && x.status != .empty && x.status != .killed

/-- A thread of a core waits at a level and its generation has not been released. -/
def atBarrier (level : Nat) (x : Slot) : Bool :=
  match x.wait with
  | .barrier l _ => l == level && x.reply.isNone
  | _ => false

/-- Two cores belong to the same unit at a level: a core, a cluster, the band. -/
def sameUnit (level a b : Nat) : Bool :=
  match level with
  | 0 => a == b
  | 1 => clusterOf a == clusterOf b
  | _ => true

/-- The members of a core, in its slots and in its dock. -/
def coreMembers (s : State) (lid : BitVec 32) (c : Nat) : List Slot :=
  let r := s.coreOf c
  (r.slots.toList ++ (r.dock ++ r.spilled).map fun d => d.image).filter (gangMember lid)

/-- A member is told the count at release. -/
def releaseMember (lid : BitVec 32) (level count : Nat) (x : Slot) : Slot :=
  if gangMember lid x && atBarrier level x then { x with reply := some ⟨BitVec.ofNat 64 count, false⟩ } else x

def releaseCore (lid : BitVec 32) (level count : Nat) (s : State) (c : Nat) : State :=
  let docked := fun (d : DockEntry) => { d with image := releaseMember lid level count d.image }
  s.modCore c fun r => { r with slots := r.slots.map (releaseMember lid level count), dock := r.dock.map docked
                                spilled := r.spilled.map docked }

/-- A barrier of the unit that a core belongs to is released if every member has arrived. -/
def releaseBarrier (s : State) (lid : BitVec 32) (level c : Nat) : State :=
  match findPlaced s lid with
  | none => s
  | some p =>
    let cores := p.cores.filter (sameUnit level c)
    let members := cores.flatMap (coreMembers s lid)
    if !members.isEmpty && members.all (atBarrier level) then
      cores.foldl (releaseCore lid level members.length) s
    else s

/-- A member of a core has left: the barriers it belonged to may be complete. -/
def leaveGang (s : State) (lid : BitVec 32) (c : Nat) : State :=
  [0, 1, 2].foldl (fun s level => releaseBarrier s lid level c) s

/-! ## The end of a thread (R259, R372) -/

/-- `n` records more of a launch are abandoned (R372). -/
def countAbandoned (s : State) (lid : BitVec 32) (n : Nat) : State :=
  { s with placed := s.placed.map fun p =>
      if p.record.lid == lid then { p with abandoned := BitVec.ofNat 32 (min (2 ^ 32 - 1) (p.abandoned.toNat + n)) } else p }

/-- The records that a thread leaves behind are abandoned. -/
def abandonRecords (s : State) (c k : Nat) : State :=
  let mine := s.outstanding.filter fun o => o.core == c && o.slot == k
  let left := fun (p : Placed) =>
    { p with abandoned := BitVec.ofNat 32 (min (2 ^ 32 - 1)
        (p.abandoned.toNat + (mine.filter fun o => o.lid == p.record.lid).length)) }
  { s with outstanding := s.outstanding.filter (fun o => !(o.core == c && o.slot == k)), placed := s.placed.map left }

/-- Nothing of a slot is left in its core and at the ports. -/
def forgetSlot (s : State) (c k : Nat) : State :=
  let s := dropWaits (endReservation s c k) c k
  let s := (dropAnswers s c k).modCore c fun r =>
    { r with deferred := r.deferred.filter (fun d => d.1 != k), heldTokens := r.heldTokens.filter (fun t => t.owner != .slot k)
             arriving := r.arriving.filter fun a => a.slot != k || (decide (1 ≤ a.port) && decide (a.port < 8)) }
  { s with bursts := s.bursts.map fun b => { b with owners := b.owners.filter fun o => o != (c, k) } }

/-- A thread ends: its reservation and grant end, its queues are discarded, it leaves its gang and the slot is empty. -/
def endThread (s : State) (c k : Nat) : State :=
  let lid := (s.slotOf c k).lid
  let s := (forgetSlot (abandonRecords s c k) c k).setSlot c k Slot.blank
  leaveGang s lid c

/-! ## Completion (R373, R374) -/

/-- A gang or task thread of a launch: a child that one of them spawned is neither (R236, R373). -/
def launchThreadOf (lid : BitVec 32) (x : Slot) : Bool := x.lid == lid && (x.gang || x.tasked)

/-- A gang or task thread of a launch is in a slot, in a dock, or on its way as a rover. -/
def threadsLeft (s : State) (lid : BitVec 32) : Bool :=
  s.cores.entries.any (fun e =>
      ((e.2.slots.toList.take 7).any fun x => launchThreadOf lid x && x.status != .empty && x.status != .killed)
        || (e.2.dock ++ e.2.spilled).any fun d => launchThreadOf lid d.image)
    || s.transits.any fun t => t.rover.any (launchThreadOf lid)

/-- A record of a launch is queued, in a ring, outstanding or refused so far. -/
def recordsLeft (s : State) (lid : BitVec 32) : Bool :=
  s.clusters.entries.any (fun e => (e.2.bank ++ e.2.ring).any fun r => r.lid == lid)
    || s.outstanding.any (fun o => o.lid == lid) || s.taskRetries.any fun t => t.record.lid == lid

/-- A capsule of a launch is in a ferry buffer, or on its way to the one granted to it. -/
def capsulesLeft (s : State) (lid : BitVec 32) : Bool :=
  s.cores.entries.any fun e => (List.range 6).any fun b =>
    (match vget e.2.bufs .free b with
     | .free => false
     | _ => bufN s e.1 b 8 4 == lid.toNat)

/-- A harbour entry of a launch is not free. -/
def harbourLeft (s : State) (r : Launch) : Bool :=
  (List.range r.hcap).any fun i =>
    let pa := r.hrbase.toNat + 4608 * i
    !(busyLines s pa 4).isEmpty || (tableRead s pa 4).1 != 0

/-- Accesses of a launch's threads, dead ones too, that are still to be performed (R252, R374). -/
def accessesLeft (s : State) (lid : BitVec 32) : Bool :=
  s.flights.any (fun f => f.lid == lid) || s.peerReqs.any (fun q => q.flight.lid == lid)
    || s.queues.any (fun q => q.waiters.any fun f => f.lid == lid)
    || s.cores.entries.any fun e => e.2.admission.any fun f => f.lid == lid

/-- Commands of a launch's threads that are still to complete (R252, R374); those for a pseudo-channel that the launch owns its
release ends (R335). -/
def commandsLeft (s : State) (lid : BitVec 32) : Bool :=
  s.cores.entries.any fun e =>
    e.2.commands.any fun x => x.lid == lid && !(engineOf (cmdCode x.word) == some .stack
      && (pchFor s x).allBank && (pchFor s x).owner == lid)

/-- A launch's last work is done (R373), and what its threads have written is written (R374). -/
def launchDone (s : State) (p : Placed) : Bool :=
  !threadsLeft s p.record.lid && !recordsLeft s p.record.lid && !capsulesLeft s p.record.lid && !harbourLeft s p.record
    && !accessesLeft s p.record.lid && !commandsLeft s p.record.lid

/-- A COMBINE store may be of a launch: its thread is one of the launch, or is no more. -/
def mayBeOf (s : State) (lid : BitVec 32) (o : Nat × Nat) : Bool :=
  let x := s.slotOf o.1 o.2
  x.status == .empty || x.status == .killed || x.lid == lid

/-- The COMBINE stores that stand in the buffers of a launch's clusters, or that its rovers have left elsewhere (R281, R303), are
written out before its completion shows. -/
def combineBlocks (s : State) (p : Placed) : List (Nat × Nat) :=
  p.clusters.flatMap (fun cl => (s.clusterAt cl).combine.map fun e => (cl, e.block))
    ++ s.clusters.entries.flatMap fun c =>
      if p.clusters.contains c.1 then []
      else (c.2.combine.filter fun e => e.owners.any (mayBeOf s p.record.lid)).map fun e => (c.1, e.block)

/-- The instruction-cache lines of a tag on a core are invalidated, and the tag is no longer resident for the launch. -/
def releaseCoreOf (r : Launch) (s : State) (c : Nat) : State :=
  s.modCore c fun x =>
    { x with resident := x.resident.filter (fun e => e != (r.ctag, r.lid))
             icache := ⟨x.icache.entries.filter fun e => e.1 / 2 ^ 50 != r.ctag.toNat⟩ }

/-- Every pseudo-channel that a launch owns is released (R335). -/
def releaseOwned (s : State) (lid : BitVec 32) : State :=
  s.pchs.entries.foldl (fun s e => if e.2.allBank && e.2.owner == lid then releasePch s (e.1 / 64) (e.1 % 64) else s) s

/-- The completion block, its first doubleword last (R374). -/
def writeCompletion (s : State) (p : Placed) : State :=
  let r := p.record
  if r.cblk = 0 then s
  else tableWrite (tableWrite s (r.cblk.toNat + 8) 8 p.abandoned.toNat false) r.cblk.toNat 8 r.cval.toNat false

/-- A completed launch joins the history of 256 (R437). -/
def joinHistory (s : State) (lid : BitVec 32) : State :=
  let h := s.history ++ [lid.toNat]
  let gone := h.take (h.length - 256)
  { s with history := h.drop (h.length - 256), errWords := gone.foldl (fun t n => t.erase n) s.errWords }

def completeLaunch (s : State) (p : Placed) : State :=
  let s := { s with placed := s.placed.filter fun q => q.record.lid != p.record.lid }
  let s := releaseOwned (p.cores.foldl (releaseCoreOf p.record) s) p.record.lid
  placementPass (joinHistory (writeCompletion s p) p.record.lid)

/-- LAUNCH_COMPLETE. -/
def execLaunchComplete (lid : BitVec 32) (s : State) : Result :=
  deviceStep (fun s => match findPlaced s lid with
    | none => s
    | some p =>
      if launchDone s p then
        let s := (combineBlocks s p).foldl (fun s e => writeOut s e.1 e.2) s
        if (combineBlocks s p).isEmpty then completeLaunch s p else s
      else s) s

end Sys2Proof.Machine
end

