-- ==== Sys2Proof/Machine/Group.lean ====
section
/-!
DEFINITION. Blocks read through Access by one instruction (R108); and the group step unit (R232–R234, R246, R412–R421,
R428, R429): contributions, the close test, closes with their journal and apply task, flips, joins and the configuration
of groups.
-/

namespace Sys2Proof.Machine

/-! ## Blocks read by an instruction -/

/-- Access(a, n, right) on a block whose address must be a multiple of `align`. -/
def blockCheck (s : State) (c k : Nat) (a : Word) (n align : Nat) (r w : Bool) : Checked :=
  let q := vget (s.slotOf c k).sg 0 (bitsOf a 63 61)
  let off := bitsOf a 60 0
  if !bitAt q 127 || (r && !bitAt q 124) || (w && !bitAt q 125) || bitsOf q 120 64 < off + n - 1 then .bad .segment
  else if a.toNat % align != 0 then .bad .misaligned
  else slotCheck s c k a n r w false

/-- What reading a block comes to. -/
inductive Block where
  | bad (c : Cause)
  | miss (va : Nat)
  | busy (policy : Policy) (pa : Nat) (s : State)
  | asked (p : Poll) (s : State)
  | ok (v : Nat) (poison : Bool) (s : State)

/-- One piece of global memory under its page's policy, or at a peer (R407). -/
def pieceRead (s : State) (c k va n : Nat) : Block :=
  match translateSlot s c k va true false false with
  | .badRange => .bad .addressRange
  | .miss => .miss va
  | .hit pa pol =>
    match apertureOf s pa with
    | some (rank, there) =>
      let x := s.slotOf c k
      (match peerTransfer s c k x.ctag x.lid rank there n none with
       | (some r, s) => .ok r.1 (!r.2.isEmpty) s
       | (none, s) => .asked (.peerDrained rank) s)
    | none =>
      if arrayBlocked s pol pa then .busy pol pa s else
      let (v, p, s) := if pol = .combine then combineLoad s (clusterOf c) pa n else homeLoad s pol pa n
      .ok v p s

/-- The pieces of a block read in order. -/
def piecesRead (c k base : Nat) : List (Nat × Nat) → Nat → Bool → State → Block
  | [], v, poison, s => .ok v poison s
  | (a, n) :: rest, v, poison, s =>
    match pieceRead s c k a n with
    | .ok x p s => piecesRead c k base rest (v + x * 2 ^ (8 * (a - base))) (poison || p) s
    | other => other

/-- A block in another core's scratchpad, read by remote accesses (R267, R270, R285). -/
def farRead (s : State) (c k d off n : Nat) : Block :=
  match bankTransfer s c k d off n none with
  | (some r, s) => .ok r.1 (!r.2.isEmpty) s
  | (none, s) => .asked .window s

/-- A block of `n` bytes read by slot `k` (R149, R265, R285). -/
def readBlock (s : State) (c k : Nat) (a : Word) (n align : Nat) : Block :=
  match blockCheck s c k a n align true false with
  | .bad cause => .bad cause
  | .ok .global p => piecesRead c k p (linePieces p n) 0 false s
  | .ok .localPad p =>
    let d := padHome c (s.slotOf c k)
    if d = c then let (v, poison) := s.load (padAddr c p) n; .ok v poison (bankTurnAt s c p n)
    else farRead s c k d p n
  | .ok .remote p =>
    let (d, rebase) := routeCore s c k (remoteCore p)
    if 2 ^ 21 < remoteOff p + rebase + n then .bad .segment
    else farRead s c k d (remoteOff p + rebase) n
  | .ok .landing p =>
    match (s.slotOf c k).capsule with
    | some b => let (v, poison) := s.load (bufAddr c b p) n; .ok v poison s
    | none => .bad .space

/-- The issuing slot reads a block; it traps, waits for a page or a free array, or goes on with the bytes. -/
def withBlock (s : State) (a : Word) (n align : Nat) (go : Nat → Bool → State → State) : State :=
  match readBlock s s.core s.slot a n align with
  | .bad cause => trapHere (dropAnswers s s.core s.slot) cause a
  | .miss va => awaitTranslation s va true false false
  | .busy pol pa s => pollFor s .memoryWait (.array pol pa)
  | .asked p s => pollFor s .memoryWait p
  | .ok v poison s => go v poison (dropAnswers s s.core s.slot)

/-- An instruction that a unit has answered waits for its reply (R40); the value goes to `rd`. -/
def answer (rd : BitVec 6) (v : Word) (poison : Bool) (s : State) : State :=
  postReply (awaitReply (endReservation s s.core s.slot) (some rd) false) s.core s.slot v poison

/-- The same, for an instruction that writes no register. -/
def answerNone (poison : Bool) (s : State) : State :=
  postReply (awaitReply (endReservation s s.core s.slot) none false) s.core s.slot 0 poison

/-! ## Groups (R412–R415) -/

def wordGroup (w : Word) : Nat × Nat := (bitsOf w 12 6, bitsOf w 5 0)

/-- A malformed group word in its bits `hi`:13. -/
def groupWordBad (w : Word) (hi : Nat) : Bool := bitsOf w hi 13 != 0 || decide (79 < bitsOf w 12 6)

/-- A group is configured for a context. -/
def Group.serves (g : Group) (ctag : BitVec 4) : Bool := g.state != 0 && g.ctag == ctag

/-- The core that holds a group's statistics. -/
def statCore (cl : Nat) (g : Group) : Nat := clusterCore cl g.core.toNat

/-- The offset of buffer 0 or 1. -/
def Group.buffer (g : Group) (one : Bool) : Nat := (if one then g.buf1 else g.buf0).toNat * 32

/-- A buffer as the state of a bu.wel (R415). -/
def statRun (cl : Nat) (g : Group) (one : Bool) : Run :=
  { code := 0x37, opa := 0, opb := 0, fop := 0, core := statCore cl g, addr := 0, count := g.e.toNat, aux := g.buffer one
    tile := none }

/-- The count of a buffer, and its poison. -/
def statCount (s : State) (cl : Nat) (g : Group) (one : Bool) : Nat × Bool := stateWord s (statRun cl g one) 0

/-- Every word of a buffer zero, as by bu.fill. -/
def zeroBuffer (s : State) (cl : Nat) (g : Group) (one : Bool) : State :=
  padEngineStore s (statCore cl g) (g.buffer one) (4 + 8 * g.e.toNat) 0 false

/-- The mean and M2 words of a buffer. -/
def statElems (s : State) (cl : Nat) (g : Group) (one : Bool) : List (Nat × Nat) :=
  (List.range g.e.toNat).map fun e =>
    ((stateWord s (statRun cl g one) (4 + 8 * e)).1, (stateWord s (statRun cl g one) (8 + 8 * e)).1)

/-! ## Closing (R417–R419, R428) -/

/-- The signal-to-noise figure of the current buffer. -/
def currentSnr (s : State) (cl : Nat) (g : Group) : Nat := snrOf (statCount s cl g g.v).1 (statElems s cl g g.v)

/-- The apply task's record (R419). -/
def applyTask (s : State) (cl gi : Nat) (g : Group) (cause : Nat) : TaskRec :=
  let c := statCore cl g
  makeTask g.applyPc g.launch 0 (BitVec.ofNat 64 (gi + cl * 64))
    (BitVec.ofNat 64 (g.s.toNat + (statCount s cl g g.v).1 * 2 ^ 32))
    (BitVec.ofNat 64 (coreY c * 2 ^ 28 + coreX c * 2 ^ 21 + g.buffer g.v)) (BitVec.ofNat 64 (g.snr.toNat + cause * 2 ^ 32))
    (some (gi + cl * 64, g.closing))

/-- The journal entry of a close, and its slot with the means (R428), whose poison goes with them (R434). -/
def writeJournal (s : State) (cl : Nat) (g : Group) (cause : Nat) : State :=
  let j := g.jcount.toNat % 64
  let size := (4 * g.e.toNat + 63) / 64 * 64
  let at_ := g.journal.toNat + 4096 + size * j
  let s := (List.range g.e.toNat).foldl (fun s e =>
    let (mean, poison) := stateWord s (statRun cl g g.v) (4 + 8 * e)
    tableWrite s (at_ + 4 * e) 4 mean poison) s
  let entry := g.journal.toNat + 64 * j
  let low := g.s.toNat + (statCount s cl g g.v).1 * 2 ^ 32 + g.snr.toNat * 2 ^ 64 + cause * 2 ^ 96
    + (if g.v then 2 ^ 104 else 0) + g.e.toNat * 2 ^ 128 + g.stale.toNat * 2 ^ 160 + at_ * 2 ^ 192
  tableWrite (tableWrite s entry 56 low false) (entry + 56) 8 (0x4A45 + g.s.toNat * 2 ^ 32) false

/-- The apply task is submitted; it is tried again while it is refused (R418). -/
def submitApply (s : State) (cl gi : Nat) (r : TaskRec) : State :=
  let (st, s) := submitTask s cl r
  let g := s.groupOf cl gi
  s.setGroup cl gi { g with retry := if st < 2 then none else some r, retryAt := s.clock }

/-- A close: closing, the journal, the apply task (R418). -/
def closeGroup (s : State) (cl gi cause : Nat) : State :=
  let g := { s.groupOf cl gi with state := 2, closing := (s.groupOf cl gi).closing + 1 }
  let s := s.setGroup cl gi g
  let s := if g.journal = 0 then s else (writeJournal s cl g cause).setGroup cl gi { g with jcount := g.jcount + 1 }
  submitApply s cl gi (applyTask s cl gi g cause)

/-- The signal-to-noise figure computed and stored. -/
def storeSnr (s : State) (cl gi : Nat) : State :=
  let g := s.groupOf cl gi
  s.setGroup cl gi { g with snr := BitVec.ofNat 32 (currentSnr s cl g) }

/-- SNR ≥ T; a NaN fails it. -/
def snrReaches (g : Group) : Bool :=
  !(dec32 g.snr.toNat).isNan && fpCmp fp32 g.snr.toNat g.t.toNat != .lt

/-- The close test of R417: the first matching case; the last is gclose's. -/
def closeBy (s : State) (cl gi : Nat) (asked : Bool) : State :=
  let s := storeSnr s cl gi
  let g := s.groupOf cl gi
  let n := (statCount s cl g g.v).1
  if g.nmin.toNat ≤ n && snrReaches g then closeGroup s cl gi 1
  else if g.nmax.toNat ≤ n then closeGroup s cl gi 2
  else if asked then closeGroup s cl gi 3
  else s

def closeTest (s : State) (cl gi : Nat) : State := closeBy s cl gi false

/-- APPLY_TASK_RETRY (R418): every 1,024 cycles. -/
def execApplyTaskRetry (cluster group : Nat) (s : State) : Result :=
  deviceStep (fun s =>
    let g := s.groupOf cluster group
    match g.retry with
    | some r => if g.state == 2 && decide (g.retryAt + 1024 ≤ s.clock) then submitApply s cluster group r else s
    | none => s) s

/-! ## gacc (R232, R416) -/

/-- A step tag lies in a group's window. -/
def inWindow (g : Group) (tag : Nat) : Bool :=
  let first := if g.state = 1 then g.s.toNat else g.s.toNat + 1
  decide (first - g.w.toNat ≤ tag) && decide (tag ≤ g.s.toNat)

/-- The Welford update of a buffer with the words of a contribution; nothing at the greatest count. -/
def welfordAll (r : Run) (words : Nat) (s : State) : Told × State :=
  match welFull r s with
  | some t => (t, s)
  | none =>
    (List.range r.count).foldl (fun (acc : Told × State) e =>
      welStep r (welCount r s) e (bytesAt words (4 * e) 4) false acc.1 acc.2) ({}, s)

/-- A contribution judged and, if it is accepted, added: the status of gacc. -/
def contribute (s : State) (cl gi tag words : Nat) (poison : Bool) : Nat × State :=
  let g := s.groupOf cl gi
  if !inWindow g tag then
    (1, s.setGroup cl gi { g with stale := BitVec.ofNat 32 (min (g.stale.toNat + 1) (2 ^ 32 - 1)) })
  else if poison then (4, consumePoison s s.core s.slot)
  else
    let current := g.state == 1
    let (t, s) := welfordAll (statRun cl g (if current then g.v else !g.v)) words s
    let s := consumeIf (s.modMe fun x => x.raise t.flags) s.core s.slot t.poison
    if current then (0, closeTest s cl gi) else (2, s)

/-- gacc judged by the unit, for the group as it now stands: one that is not configured, or is configured anew since gacc obtained
E from it, answers 3 (R232). -/
def judge (rd : BitVec 6) (ga : Word) (config : Nat) (words : Nat) (poison : Bool) (s : State) : State :=
  let (cl, gi) := wordGroup ga
  let g := s.groupOf cl gi
  if !g.serves s.me.ctag || g.config != config then answer rd 3 false s
  else
    let (st, s) := contribute s cl gi (bitsOf ga 63 32) words poison
    answer rd (BitVec.ofNat 64 st) false s

/-- gacc once its pair's threads agree, in its three stages (R232): it obtains E, reads the words, which may take it out of
rotation, and is judged. The group's configuration comes before the address of the words (DEDUCED, log entry 48). -/
def gaccOp (rd : BitVec 6) (ga gb : Word) (s : State) : State :=
  let (cl, gi) := wordGroup ga
  let g := s.groupOf cl gi
  if s.me.gacc.isNone && !g.serves s.me.ctag then answer rd 3 false s
  else
    let (config, e) := s.me.gacc.getD (g.config, g.e.toNat)
    let s := s.modMe fun x => { x with gacc := some (config, e) }
    withBlock s gb (4 * e) 4 (judge rd ga config)

def execGacc (rd ra rb : BitVec 6) (s : State) : Result :=
  deviceStep (issue (.gacc rd ra rb) · fun s =>
    let a := gval s ra
    if groupWordBad a 31 then trapHere s .illegalOperand
    else outward [a, gval s rb] s (gaccOp rd a (gval s rb)) (takeResult rd)) s

/-! ## gstat (R233) -/

/-- The word of a group that gstat reads. -/
def statWord (s : State) (cl gi : Nat) (w : Word) : Word × Bool :=
  let g := s.groupOf cl gi
  let (n, p) := statCount s cl g g.v
  match w.toNat with
  | 0 => (BitVec.ofNat 64 (g.state.toNat + (if g.v then 4 else 0) + g.s.toNat * 2 ^ 32), false)
  | 1 => (BitVec.ofNat 64 (n + g.stale.toNat * 2 ^ 32), p)
  | 2 => (zeroExt g.snr, false)
  | 3 => (BitVec.ofNat 64 (g.t.toNat + g.w.toNat * 2 ^ 32), false)
  | _ => (BitVec.ofNat 64 (g.nmin.toNat + g.nmax.toNat * 2 ^ 32), false)

def execGstat (rd ra rb : BitVec 6) (s : State) : Result :=
  .next (issue (.gstat rd ra rb) s fun s =>
    let (cl, gi) := wordGroup (gval s ra)
    if groupWordBad (gval s ra) 63 || 4 < (gval s rb).toNat then trapHere s .illegalOperand
    else boundaryRead s
      (fun s =>
        let (v, p) := if (s.groupOf cl gi).serves s.me.ctag then statWord s cl gi (gval s rb) else (0, false)
        answer rd v p s)
      fun v s => writeNext rd v s s)

/-! ## gclose, gflip, gjoin (R234, R421, R429) -/

/-- gclose: its status. The group closes as by its close test (R234, R417). -/
def closeNow (s : State) (cl gi : Nat) : Nat × State :=
  let g := s.groupOf cl gi
  if g.state != 1 then (1, s)
  else if (statCount s cl g g.v).1 = 0 then (2, s)
  else (0, closeBy s cl gi true)

/-- gflip: its status. -/
def flipNow (s : State) (cl gi : Nat) : Nat × State :=
  let g := s.groupOf cl gi
  if g.state != 3 then (1, s)
  else (0, closeTest ((zeroBuffer s cl g g.v).setGroup cl gi { g with v := !g.v, s := g.s + 1, state := 1 }) cl gi)

/-- A group instruction on a group word alone; one that acts as a release waits as .rel (R432). -/
def groupOp (rel : Bool) (i : Instr) (rd ra : BitVec 6) (f : State → Nat → Nat → Nat × State) (s : State) : Result :=
  deviceStep (issue i · fun s =>
    let w := gval s ra
    let (cl, gi) := wordGroup w
    if groupWordBad w 63 then trapHere s .illegalOperand
    else outward [w] s
      (fun s =>
        if rel && !releaseHolds s s.core s.slot then pollFor s .memoryWait .release
        else if !(s.groupOf cl gi).serves s.me.ctag then answer rd 3 false s
        else let (st, s) := f s cl gi; answer rd (BitVec.ofNat 64 st) false s)
      (takeResult rd)) s

def execGclose (rd ra : BitVec 6) (s : State) : Result := groupOp false (.gclose rd ra) rd ra closeNow s

/-- gflip. A gstat that reads the group open after it is ordered after every event of its thread (R432). -/
def execGflip (rd ra : BitVec 6) (s : State) : Result := groupOp true (.gflip rd ra) rd ra flipNow s

/-- A journal entry is malformed for a group (R429). -/
def entryBad (d : Nat) (g : Group) : Bool :=
  bytesAt d 56 4 != 0x4A45 || bytesAt d 60 4 != bytesAt d 0 4 || bytesAt d 16 4 != g.e.toNat || bytesAt d 14 2 != 0
    || bytesAt d 32 24 != 0

/-- gjoin: its status. -/
def joinNow (s : State) (cl gi d : Nat) (poison : Bool) : Nat × State :=
  let g := s.groupOf cl gi
  if g.state != 1 then (1, s)
  else if poison || entryBad d g then (2, s)
  else if bytesAt d 0 4 != g.s.toNat then (1, s)
  else (0, (zeroBuffer (zeroBuffer s cl g false) cl g true).setGroup cl gi
    { g with v := !g.v, s := g.s + 1, snr := BitVec.ofNat 32 (bytesAt d 8 4) })

def execGjoin (rd ra rb : BitVec 6) (s : State) : Result :=
  .next (issue (.gjoin rd ra rb) s fun s =>
    let w := gval s ra
    let (cl, gi) := wordGroup w
    if groupWordBad w 63 then trapHere s .illegalOperand
    else outward [w, gval s rb] s
      (fun s =>
        if !(s.groupOf cl gi).serves s.me.ctag then answer rd 3 false s
        else withBlock s (gval s rb) 64 64 fun d poison s =>
          let (st, s) := joinNow s cl gi d poison
          answer rd (BitVec.ofNat 64 st) poison s)
      (takeResult rd))

/-! ## Configuration (R413, R414) -/

/-- The fields of gent0. -/
def Group.setGent0 (g : Group) (v : Word) : Group :=
  { g with s := BitVec.ofNat 32 (bitsOf v 63 32), w := BitVec.ofNat 16 (bitsOf v 31 16), ctag := BitVec.ofNat 4 (bitsOf v 15 12)
           core := BitVec.ofNat 4 (bitsOf v 11 8), v := bitAt v 2 }

def Group.gent0 (g : Group) : Word :=
  BitVec.ofNat 64 (g.state.toNat + (if g.v then 4 else 0) + g.core.toNat * 2 ^ 8 + g.ctag.toNat * 2 ^ 12 + g.w.toNat * 2 ^ 16
    + g.s.toNat * 2 ^ 32)

/-- gent0–gent7 as read (R413). -/
def Group.gent (g : Group) (n : Nat) : Word :=
  match n with
  | 0 => g.gent0
  | 1 => BitVec.ofNat 64 (g.nmin.toNat + g.nmax.toNat * 2 ^ 32)
  | 2 => BitVec.ofNat 64 (g.snr.toNat + g.t.toNat * 2 ^ 32)
  | 3 => BitVec.ofNat 64 (g.e.toNat + g.buf0.toNat * 2 ^ 32 + g.buf1.toNat * 2 ^ 48)
  | 4 => BitVec.ofNat 64 (g.launch.toNat + g.stale.toNat * 2 ^ 32)
  | 5 => g.applyPc
  | 6 => g.journal
  | _ => BitVec.ofNat 64 (g.jcount.toNat * 2 ^ 32)

/-- A write to gent1–gent6 of an unconfigured group, or to gent4 and gent5 of a configured one: every field but those that
are read-only. -/
def Group.setGent (g : Group) (n : Nat) (v : Word) : Group :=
  match n with
  | 1 => { g with nmin := BitVec.ofNat 32 (bitsOf v 31 0), nmax := BitVec.ofNat 32 (bitsOf v 63 32) }
  | 2 => { g with t := BitVec.ofNat 32 (bitsOf v 63 32) }
  | 3 => { g with e := BitVec.ofNat 16 (bitsOf v 15 0), buf0 := BitVec.ofNat 16 (bitsOf v 47 32)
                  buf1 := BitVec.ofNat 16 (bitsOf v 63 48) }
  | 4 => { g with launch := BitVec.ofNat 32 (bitsOf v 31 0) }
  | 5 => { g with applyPc := v }
  | _ => { g with journal := v }

/-- Buffers of E elements at two offsets lie below 2 MiB and apart. -/
def buffersOk (g : Group) : Bool :=
  let n := 4 + 8 * g.e.toNat
  decide (g.buffer false + n ≤ 2 ^ 21) && decide (g.buffer true + n ≤ 2 ^ 21)
    && !rangesMeet (g.buffer false) n (g.buffer true) n

/-- A configuring write is accepted (R414). -/
def configureOk (g : Group) : Bool :=
  decide (1 ≤ g.nmin.toNat) && decide (g.nmin.toNat ≤ g.nmax.toNat) && decide (g.nmax.toNat ≤ 2 ^ 32 - 2)
    && !(dec32 g.t.toNat).isNan && g.e != 0 && buffersOk g && bitsOf g.applyPc 1 0 == 0 && bitsOf g.journal 11 0 == 0
    && bitsOf g.journal 63 52 == 0

/-- A write to gent0–gent6 that raises an illegal-operand fault: to an unconfigured group, only a configuring one that fails its
tests. -/
def gentIllegal (g : Group) (n : Nat) (v : Word) : Bool :=
  match n with
  | 0 => if g.state = 0 then decide (2 ≤ bitsOf v 1 0) || (bitsOf v 1 0 == 1 && !configureOk (g.setGent0 v)) else v != 0
  | 4 => false
  | 5 => g.state != 0 && bitsOf v 1 0 != 0
  | _ => g.state != 0

/-- GENT0_CONFIGURE: both buffers zero, and the group open at the s and v written. -/
def execGent0Configure (core : Nat) (s : State) : Result :=
  .next (
    let (cl, gi) := (clusterOf core, (s.coreOf core).gsel.toNat)
    match takeUnit s core 0x171 with
    | none => s
    | some (v, t) =>
      let g := (s.groupOf cl gi).setGent0 v
      if bitsOf v 1 0 = 1 && (s.groupOf cl gi).state == 0 && configureOk g then
        unitDone ((zeroBuffer (zeroBuffer t cl g false) cl g true).setGroup cl gi
          { g with state := 1, stale := 0, jcount := 0, snr := 0x7FC00000, retry := none, config := g.config + 1 }) core
      else if bitsOf v 1 0 = 1 then unitRefuses t core else s)

/-- GENT0_UNCONFIGURE: a write with state 0, which on a configured group has to be 0, sets the other fields, and makes the group unconfigured. -/
def execGent0Unconfigure (core : Nat) (s : State) : Result :=
  .next (
    let (cl, gi) := (clusterOf core, (s.coreOf core).gsel.toNat)
    match takeUnit s core 0x171 with
    | none => s
    | some (v, t) =>
      if bitsOf v 1 0 = 0 && ((s.groupOf cl gi).state == 0 || v == 0) then
        unitDone (t.setGroup cl gi { (s.groupOf cl gi).setGent0 v with state := 0, retry := none }) core
      else if bitsOf v 1 0 = 0 then unitRefuses t core else s)

end Sys2Proof.Machine
end

