-- ==== Sys2Proof/Machine/Capsule.lean ====
section
/-!
DEFINITION. Capsules on the ferry lanes (R227–R231, R281, R306–R326): the landing image, sending with its tests, landing
requests and grants, thread steps and bank steps, coalescing, crossings to and from peer modules, the harbour, resends;
and rovers that migrate.
-/

namespace Sys2Proof.Machine

/-! ## The image in a buffer (R306, R307) -/

def bufIdent (s : State) (c b : Nat) : Nat := bufN s c b 0 8
def bufLaunch (s : State) (c b : Nat) : BitVec 32 := BitVec.ofNat 32 (bufN s c b 8 4)
def bufCtag (s : State) (c b : Nat) : BitVec 4 := BitVec.ofNat 4 (bufByte s c b 12)
def bufFlag (s : State) (c b k : Nat) : Bool := bufByte s c b 15 / 2 ^ k % 2 == 1
def setBufFlag (s : State) (c b k : Nat) (v : Bool) : State :=
  setBufN s c b 15 1 (setBits (BitVec.ofNat 8 (bufByte s c b 15)) k k (if v then 1 else 0)).toNat
def raiseBuf (s : State) (c b : Nat) (f : BitVec 7) : State :=
  setBufN s c b 18 1 (BitVec.ofNat 7 (bufByte s c b 18) ||| f).toNat
def bufUse (s : State) (c b : Nat) : BufUse := vget (s.coreOf c).bufs .free b
def setBufUse (s : State) (c b : Nat) (u : BufUse) : State := s.modCore c fun r => { r with bufs := vset r.bufs b u }

/-- The steps of the manifest. -/
def manifest (s : State) (c b : Nat) : List Step :=
  (List.range (min 16 (bufSteps s c b))).map fun i => stepAt (bufN s c b (64 + 16 * i) 16) 0

/-- The manifest replaced; slots beyond it read as zero. -/
def setManifest (s : State) (c b : Nat) (l : List Step) : State :=
  let s := (List.range 16).foldl (fun s i =>
    let t := l.getD i ⟨0, 0⟩
    setBufN s c b (64 + 16 * i) 16 (t.d0.toNat + t.d1.toNat * 2 ^ 64)) s
  setBufN s c b 14 1 l.length

/-- The greatest landing image (R1). -/
def imageBytes : Nat := 4512

/-- Marks moved from one place to another of the same granules. -/
def copyMarks (s : State) (src dst n : Nat) : State :=
  let moved := (s.poison.filter fun g => decide (src ≤ g) && decide (g < src + n)).map fun g => dst + (g - src)
  { s with poison := markPoison (clearMarks s.poison (granules dst n)) moved }

/-- A buffer emptied. -/
def freeBuf (s : State) (c b : Nat) : State :=
  let s := setBufN s c b 0 imageBytes 0
  setBufUse { s with poison := clearMarks s.poison (granules (bufAddr c b 0) imageBytes) } c b .free

/-- The image of a buffer moved to another buffer, granted to it: the sender's buffer frees as it leaves (R312). -/
def moveImage (s : State) (c b d e : Nat) : State :=
  let s := copyMarks (setBufN s d e 0 imageBytes (bufN s c b 0 imageBytes)) (bufAddr c b 0) (bufAddr d e 0) imageBytes
  freeBuf s c b

/-- Some word of the tile carries a mark: header poison is set (R318). -/
def markHeader (s : State) (c b : Nat) : State :=
  if poisonedIn s.poison (bufAddr c b 416) (bufTile s c b) then setBufFlag s c b 0 true else s

/-- The launch record of a launch queued or placed. -/
def launchRecord (s : State) (lid : BitVec 32) : Option Launch :=
  match findPlaced s lid with
  | some p => some p.record
  | none => (s.queued.find? fun q => q.record.lid == lid).map fun q => q.record

/-! ## The harbour (R323, R324) -/

/-- The capsule in a buffer is destroyed (R324). -/
def destroyCapsule (s : State) (c b : Nat) : State :=
  freeBuf (capsuleLost s c (bufIdent s c b) (bufLaunch s c b)) c b

/-- The cluster that a harbour task goes to. -/
def harbourCluster (s : State) (c : Nat) (lid : BitVec 32) : Nat :=
  let own := clusterOf c
  if !clusterGone s own then own
  else match findPlaced s lid with
    | some p => (firstBelow 80 fun cl => p.clusters.contains cl && !clusterGone s cl).getD own
    | none => own

/-- A harbour task submitted; one that a full bank and ring refuse is tried again (R323). -/
def submitHarbour (s : State) (c : Nat) (r : TaskRec) : State :=
  let (st, s) := bankEnter s (harbourCluster s c r.lid) r
  if st < 2 then s else { s with taskRetries := s.taskRetries ++ [⟨c, r, s.clock⟩] }

/-- A line of a harbour entry written, whose words keep their own marks (R318, R434). No write of it clears one (R435). -/
def writeWords (s : State) (pa v : Nat) (bad : List Nat) : State :=
  let marked := lineMarked s 0 .homed pa
  let all := (List.range 8).filter fun w => bad.contains w || s.poisonHere (pa + 4 * w) 4 marked
  let s := tableWrite s pa 32 v (!bad.isEmpty)
  { s with entryMarks := all.foldl (fun l w => insertSorted (pa + 4 * w) l) s.entryMarks }

/-- The landing image written to a harbour entry, 32 bytes at a time with their marks, and the record last. -/
def writeEntry (s : State) (entry from_ c b reason : Nat) : State :=
  let s := (List.range 141).foldl (fun s i =>
    writeWords s (entry + 64 + 32 * i) (bufN s c b (32 * i) 32)
      ((List.range 8).filter fun w => poisonedIn s.poison (bufAddr c b (32 * i + 4 * w)) 4)) s
  let s := tableWrite s (entry + 4576) 32 0 false
  tableWrite s entry 64 (1 + reason * 2 ^ 32 + from_ * 2 ^ 48 + bufN s c b 20 4 * 2 ^ 64) false

/-- A capsule that core `from_` sends goes from a buffer to the harbour of its launch with a reason, or is destroyed. -/
def harbourFrom (s : State) (from_ c b reason : Nat) : State :=
  match launchRecord s (bufLaunch s c b) with
  | none => destroyCapsule s c b
  | some r =>
    match firstBelow r.hcap fun i => (tableRead s (r.hrbase.toNat + 4608 * i) 4).1 == 0 with
    | none => destroyCapsule s c b
    | some i =>
      let s := setBufN (setBufFlag s c b 2 true) c b 19 1 reason
      let s := freeBuf (writeEntry s (r.hrbase.toNat + 4608 * i) from_ c b reason) c b
      submitHarbour s from_ (makeTask r.hpc r.lid 2 (BitVec.ofNat 64 i) (BitVec.ofNat 64 reason) 0 0 none)

/-- The same, from a buffer of the core that sends it. -/
def toHarbour (s : State) (c b reason : Nat) : State := harbourFrom s c c b reason

/-- HARBOUR_TASK_RETRY (R323): every 1,024 cycles. -/
def execHarbourTaskRetry (k : Nat) (s : State) : Result :=
  deviceStep (fun s => match s.taskRetries[k]? with
    | some t =>
      if t.since + 1024 ≤ s.clock then submitHarbour { s with taskRetries := dropAt s.taskRetries k } t.core t.record else s
    | none => s) s

/-! ## Sending (R312–R315, R319) -/

/-- A later step duplicates the first (R319). -/
def Step.duplicates (f t : Step) : Bool :=
  f.kind == t.kind && (f.isThread || f.isBank) && bitsOf f.d0 61 32 == bitsOf t.d0 61 32 && f.d1 == t.d1

/-- The later steps that are kept, and the first step's parameter and flags. -/
def absorb (f : Step) : List Step → Nat × BitVec 7 × List Step → Nat × BitVec 7 × List Step
  | [], acc => acc
  | t :: rest, (p, fl, kept) =>
    if f.duplicates t then
      let (v, h) := add32 p t.param.toNat
      absorb f rest (v, fl ||| h, kept)
    else absorb f rest (p, fl, kept ++ [t])

/-- The manifest of a buffer coalesced. -/
def coalesce (s : State) (c b : Nat) : State :=
  match manifest s c b with
  | [] => s
  | f :: rest =>
    let (p, fl, kept) := absorb f rest (f.param.toNat, 0, [])
    raiseBuf (setManifest s c b ({ f with d0 := setBits f.d0 31 0 p } :: kept)) c b fl

/-- The line of the fold table that a step's place is read through is asked for (R337). -/
def needFold (s : State) (c : Nat) (ctag : BitVec 4) (t : Step) : State :=
  match (s.clusterAt (clusterOf c)).contexts.find? ctag.toNat with
  | some ctx => if ctx.folded then needLines s (busyLines s (ctx.foldtab.toNat + 4 * t.core) 4) else s
  | none => s

/-- The core of a step's place and what is added to its offsets, through the fold table of the capsule's context (R395). -/
def stepPlace (s : State) (c : Nat) (ctag : BitVec 4) (t : Step) : Nat × Nat :=
  match (s.clusterAt (clusterOf c)).contexts.find? ctag.toNat with
  | some ctx =>
    if ctx.folded then
      let v := (homeLoad s .homed (ctx.foldtab.toNat + 4 * t.core) 4).1
      if v / 2 ^ 31 = 1 then (v % 2 ^ 11, v / 2 ^ 11 % 2 ^ 16 * 32) else (t.core, 0)
    else (t.core, 0)
  | none => (t.core, 0)

/-- A bank step's run lies in the footprint that its launch declared. -/
def inFootprint (s : State) (lid : BitVec 32) (t : Step) : Bool :=
  match launchRecord s lid with
  | some r => decide (r.sbase ≤ t.addr) && decide (t.addr + 4 * t.count ≤ r.sbase + r.scratch)
  | none => false

/-- Why a capsule may not be sent to the place of its first step: the reason of the first test that holds (R314). -/
def sendReason (s : State) (c b : Nat) (t : Step) : Option Nat :=
  let place := (stepPlace s c (bufCtag s c b) t).1
  if t.malformed (bufTile s c b) then some 6
  else if t.isCrossing then none
  else if !s.inService place then some 1
  else if !((s.coreOf place).resident.any fun e => e.1 == bufCtag s c b) then some 2
  else if t.isBank && !inFootprint s (bufLaunch s c b) t then some 6
  else none

/-- The rank of a crossing step can be reached (R315). -/
def crossingReachable (s : State) (ctag : BitVec 4) (rank : Nat) : Bool :=
  rank != (s.memberOf ctag).self.toNat && peerReachable s ctag rank

/-- A landing request waits at its sender. -/
def holdRequest (s : State) (c b dest : Nat) : State :=
  { setBufUse s c b .requesting with
    landReqs := s.landReqs ++ [{ core := c, buf := b, dest := dest, rover := none, admitted := false, since := 0 }] }

/-- A crossing step's landing request leaves for the destination module, once earlier requests to that rank let it (R411). -/
def startCrossing (s : State) (c b : Nat) (t : Step) : State :=
  let ctag := bufCtag s c b
  let rank := bitsOf t.d0 15 0
  if !crossingReachable s ctag rank then toHarbour s c b 1
  else if peerHeld s ctag rank then holdRequest s c b c
  else
    let (ident, s) := s.fresh
    let s := setBufUse s c b .requesting
    let s := { s with crossings := s.crossings ++ [⟨ident, c, b, ctag, rank, (s.coreOf c).cycle, .asked⟩] }
    sendToRank s ctag rank 5 false (.landing ident t.core (t.d1.truncate 32))

/-- A capsule about to be sent from buffer `b` of core `c`: it is coalesced and tested, and then stays, goes to the
harbour, or requests a landing buffer. -/
def sendCapsule (s : State) (c b : Nat) : State :=
  let s := coalesce s c b
  match manifest s c b with
  | [] => freeBuf s c b
  | t :: _ =>
    let s := needFold s c (bufCtag s c b) t
    match sendReason s c b t with
    | some reason => toHarbour s c b reason
    | none =>
      if t.isCrossing then startCrossing s c b t
      else
        let place := (stepPlace s c (bufCtag s c b) t).1
        if place = c && b < 4 then setBufUse s c b .landed else holdRequest s c b place

/-- The current step is done: the capsule goes on to the next, or ends. -/
def stepDone (s : State) (c b : Nat) : State := sendCapsule (setManifest s c b ((manifest s c b).drop 1)) c b

/-! ## Landing requests and grants (R312, R281) -/

/-- The lowest free landing buffer of a core. -/
def freeLanding (s : State) (c : Nat) : Option Nat := firstBelow 4 fun b => bufUse s c b == .free

def admittedAt (s : State) (c : Nat) : List LandReq := s.landReqs.filter fun r => r.admitted && r.dest == c

/-- What is noted of a thread under one core and slot stands under another: its records (R372), and whose stores are on their way
(R39, R170, R292). -/
def renameOwner (s : State) (a b : Nat × Nat) : State :=
  let own := fun (l : List (Nat × Nat)) => l.map fun o => if o = a then b else o
  let record := fun (o : Outstanding) => if o.core == a.1 && o.slot == a.2 then { o with core := b.1, slot := b.2 } else o
  let entry := fun (e : CombineEntry) => { e with owners := own e.owners }
  { s with
    outstanding := s.outstanding.map record, bursts := s.bursts.map fun q => { q with owners := own q.owners }
    homes := ⟨s.homes.entries.map fun e => (e.1, { e.2 with owners := own e.2.owners })⟩
    clusters := ⟨s.clusters.entries.map fun e => (e.1, { e.2 with combine := e.2.combine.map entry })⟩ }

/-- What is noted of a rover in transit stands under the landing buffer granted to it; no slot has such a core. -/
def transitOwner (dest b : Nat) : Nat × Nat := (1280 + dest, b)

/-- What travels with a rover: its state (R37), and, since no register changes but coord (R29, R39), every register that it has
beside, with what identifies the thread and what has been asked of it. `k` is the slot that it leaves. -/
def travelling (x : Slot) (c k : Nat) : Slot :=
  { x with
    origin := x.origin.map fun o => { o with seen := c }, wait := .nothing, reply := none, reservation := .free
    dockFor := if x.docking && x.dockFor.isNone then some (c, k) else x.dockFor, midway := true }

/-- A rover leaves for a landing buffer granted to it, and its slot is empty (R281). -/
def departRover (s : State) (c k dest b : Nat) : State :=
  let x := travelling (s.slotOf c k) c k
  let s := renameOwner (setBufUse s dest b .awaited) (c, k) (transitOwner dest b)
  let s := (forgetSlot s c k).setSlot c k Slot.blank
  placementPass { s with transits := s.transits ++ [{ core := c, buf := k, dest := dest, destBuf := b, rover := some x }] }

/-- A rover's request: it leaves at once, or goes on from where it is. -/
def roverRequest (s : State) (r : LandReq) (k : Nat) : State :=
  if (s.slotOf r.core k).wait != .landing then s
  else match (if s.inService r.dest then freeLanding s r.dest else none) with
  | some b => departRover s r.core k r.dest b
  | none => goOn (s.modSlot r.core k fun x => { x with stay := true }) r.core k

/-- The answer to a peer's crossing: 0 grants its request, or says that it has landed; else the reason of a refusal (log entry 137).
-/
def answerInbound (s : State) (q : Inbound) (v : Word) : State := sendToRank s q.ctag q.rank 2 false (.response q.ident v)

/-- A request refused or withdrawn at its destination: the capsule goes to the harbour with a reason, or its module is told. -/
def refuseRequest (s : State) (r : LandReq) (reason : Nat) : State :=
  match r.inbound with
  | some q => answerInbound s q (BitVec.ofNat 64 reason)
  | none => toHarbour s r.core r.buf reason

/-- The first step of the capsule that a request is for, where it is a crossing that has not been sent (R411). -/
def unsentCrossing (s : State) (r : LandReq) : Option Step :=
  match r.inbound, manifest s r.core r.buf with
  | none, t :: _ => if t.isCrossing then some t else none
  | _, _ => none

/-- A request arrives, and joins the waiting ones if fewer than 64 wait (R312). `rest` is the state without it. -/
def admitRequest (s rest : State) (r : LandReq) : State :=
  if r.admitted then s
  else if !s.inService r.dest then refuseRequest rest r 1
  else if (admittedAt s r.dest).length < 64 then
    { rest with landReqs := rest.landReqs ++ [{ r with admitted := true, since := (s.coreOf r.dest).cycle }] }
  else s

/-- LANDING_REQUEST. -/
def execLandingRequest (k : Nat) (s : State) : Result :=
  deviceStep (fun s => match s.landReqs[k]? with
    | none => s
    | some r =>
      let rest := { s with landReqs := dropAt s.landReqs k }
      match r.rover, unsentCrossing s r with
      | some j, _ => roverRequest rest r j
      | none, some t =>
        if peerHeld s (bufCtag s r.core r.buf) (bitsOf t.d0 15 0) then s else startCrossing rest r.core r.buf t
      | none, none => admitRequest s rest r) s

/-- A buffer granted to a request: a capsule's image leaves its sender, or the peer module is told. -/
def grantTo (s : State) (b : Nat) (r : LandReq) : State :=
  let s := setBufUse { s with landReqs := s.landReqs.erase r } r.dest b .awaited
  match r.inbound with
  | some q => answerInbound { s with granted := s.granted ++ [⟨q, r.dest, b⟩] } q 0
  | none =>
    { moveImage s r.core r.buf r.dest b with
      transits := s.transits ++ [{ core := r.core, buf := r.buf, dest := r.dest, destBuf := b, rover := none }] }

/-- The oldest admitted request of a core gets a free buffer. -/
def grantBuffer (s : State) (c : Nat) : State :=
  match freeLanding s c, (admittedAt s c).head? with
  | some b, some r => grantTo s b r
  | _, _ => s

/-- The Phoup flits of a capsule's packed image (R315), each with the poison of the tile words it carries. -/
def sendImage (s : State) (c b : Nat) (q : Crossing) : State :=
  let head := 160 + 16 * bufSteps s c b
  let total := head + bufTile s c b
  let body := fun i => FlitBody.traveller (BitVec.ofNat 64 (bufIdent s c b)) c (bufLaunch s c b) i
  (List.range ((total + 43) / 44)).foldl (fun s i =>
    let lo := max (44 * i) head - head
    let hi := min (44 * i + 44) total - head
    sendToRank s q.ctag q.rank 5 (decide (lo < hi) && poisonedIn s.poison (bufAddr c b (416 + lo)) (hi - lo)) (body i)) s

/-- A crossing is no longer waited for. -/
def dropCrossing (s : State) (q : Crossing) : State :=
  releaseRanks { s with crossings := s.crossings.filter fun x => x.ident != q.ident }

/-- What a sender does with the destination's answer to its crossing request (R315). Its buffer holds the image until the landing is
known, for a traveller whose flits are discarded goes to the harbour (R411; DESIGN CHOICE, log entry 167). -/
def crossingAnswered (s : State) (q : Crossing) (v : Word) : State :=
  if v != 0 then toHarbour (dropCrossing s q) q.core q.buf v.toNat
  else if !crossingReachable s q.ctag q.rank then toHarbour (dropCrossing s q) q.core q.buf 1
  else
    let s := { s with crossings := s.crossings.map fun x =>
      if x.ident == q.ident then { x with stage := .sent, since := (s.coreOf q.core).cycle } else x }
    sendImage s q.core q.buf q

/-- A step of a crossing at its sender: it acts on an answer, and its buffer frees once nothing is left to wait for. -/
def crossingStep (s : State) (q : Crossing) : State :=
  match q.stage with
  | .answered v => crossingAnswered s q v
  | .over => freeBuf (dropCrossing s q) q.core q.buf
  | _ => s

/-- LANDING_GRANT: a crossing of the core's own that can go on does so first. -/
def execLandingGrant (core : Nat) (s : State) : Result :=
  deviceStep (fun s => match s.crossings.find? fun q => q.core == core && !q.out with
    | some q => crossingStep s q
    | none => grantBuffer s core) s

/-- Travellers between two cores arrive in the order in which they left (R311): those before `k` have. -/
def inOrder (s : State) (k : Nat) (t : Transit) : Bool :=
  !((s.transits.take k).any fun u => u.core == t.core && u.dest == t.dest && !u.arrived)

/-- CAPSULE_LANDED (R311, R312). -/
def execCapsuleLanded (k : Nat) (s : State) : Result :=
  .next (match s.transits[k]? with
    | none => s
    | some t =>
      if t.rover.isSome || !inOrder s k t then s
      else setBufUse { s with transits := dropAt s.transits k } t.dest t.destBuf .landed)

/-- A rover takes a slot at its new core, where it issues its access again and performs it (R29, R281). -/
def landRover (s : State) (k : Nat) (t : Transit) (x : Slot) (j : Nat) : State :=
  let n := (s.coreOf t.dest).cycle
  let s := renameOwner (setBufUse { s with transits := dropAt s.transits k } t.dest t.destBuf .free)
    (transitOwner t.dest t.destBuf) (t.dest, j)
  s.setSlot t.dest j { x with status := .placed, boundary := nextBoundary n, firstIssue := true, last := n, stay := true }

/-- ROVER_LANDING (R281): the rover takes the lowest empty slot, or waits for one in its landing buffer. -/
def execRoverLanding (k : Nat) (s : State) : Result :=
  .next (match s.transits[k]? with
    | none => s
    | some t =>
      match t.rover, (List.range 7).find? fun j => (s.slotOf t.dest j).status == .empty with
      | some x, place =>
        if !t.arrived && !inOrder s k t then s
        else (match place with
          | some j => landRover s k t x j
          | none => { s with transits := putAt s.transits k { t with arrived := true } })
      | none, _ => s)

/-- A ferry link fails under traveller `k` (R324): the capsule is destroyed. What becomes of a rover is open (log entry 138). -/
def ferryFails (k : Nat) (s : State) : State :=
  match s.transits[k]? with
  | none => s
  | some t =>
    if t.rover.isSome then s else destroyCapsule { s with transits := dropAt s.transits k } t.dest t.destBuf

/-- How long a crossing waits: 8,192 cycles for its grant (R315), 2^20 for its landing (R411); and the reason that follows. -/
def Crossing.limit (q : Crossing) : Nat × Nat := if q.stage == .asked then (8192, 3) else (2 ^ 20, 1)

/-- LANDING_REQUEST_TIMEOUT (R314, R315, R411): 8,192 cycles after admission, and for a crossing as its stage says; the crossings are
numbered after the requests. -/
def execLandingRequestTimeout (k : Nat) (s : State) : Result :=
  deviceStep (fun s => match s.landReqs[k]?, s.crossings[k - s.landReqs.length]? with
    | some r, _ =>
      if r.admitted && decide (r.since.toNat + 8192 ≤ (s.coreOf r.dest).cycle.toNat) then
        refuseRequest { s with landReqs := dropAt s.landReqs k } r 3
      else s
    | none, some q =>
      if q.out && decide (q.since.toNat + q.limit.1 ≤ (s.coreOf q.core).cycle.toNat) then
        toHarbour (dropCrossing s q) q.core q.buf q.limit.2
      else s
    | none, none => s) s

/-! ## Parked capsules (R231, R320–R322) -/

/-- A capsule in a buffer that counts as parked: whether it was folded, its key, and its place in the order of parking. One whose
step is being folded counts from its fault, until a wake has come for it (R320). -/
def parkedUse (s : State) (c b : Nat) : Option (Bool × BitVec 32 × Nat) :=
  match bufUse s c b with
  | .parked folded key order => some (folded, key, order)
  | .running k =>
    (match (s.slotOf c k).wait with
     | .folding key order false => some (true, key, order)
     | _ => none)
  | _ => none

/-- The parked capsules that a test picks, the longest parked first: buffer, folded, order. -/
def parkedCapsules (s : State) (c : Nat) (p : Nat → Bool → BitVec 32 → Bool) : List (Nat × Bool × Nat) :=
  let all := (List.range 4).filterMap fun b =>
    match parkedUse s c b with
    | some (folded, key, order) => if p b folded key then some (b, folded, order) else none
    | none => none
  all.mergeSort fun x y => decide (x.2.2 ≤ y.2.2)

/-- The longest-parked capsule moves to the harbour and its buffer is granted, once it has been folded whole. -/
def giveUpBuffer (s : State) (c b : Nat) (folded : Bool) : State :=
  match bufUse s c b with
  | .parked _ _ _ => grantBuffer (toHarbour s c b (if folded then 4 else 5)) c
  | _ => s

/-- BUFFER_NEEDED (R322). -/
def execBufferNeeded (core : Nat) (s : State) : Result :=
  deviceStep (fun s =>
    let waited := (admittedAt s core).any fun r => decide (r.since.toNat + 1024 ≤ (s.coreOf core).cycle.toNat)
    match freeLanding s core, parkedCapsules s core fun _ _ _ => true with
    | none, (b, folded, _) :: _ => if waited then giveUpBuffer s core b folded else s
    | _, _ => s) s

/-- The capsule in a buffer is parked under a key, in its place in the order of parking. -/
def parkCapsule (s : State) (c b : Nat) (folded : Bool) (key : BitVec 32) (order : Nat) : State :=
  setBufUse (setBufN s c b 20 4 key.toNat) c b (.parked folded key order)

/-! ## Thread steps (R316, R230, R231) -/

/-- The page that the host has refused to the folded step in a buffer (R397). -/
def refusedPage (s : State) (c b : Nat) : Option PageReq :=
  s.pageReqs.find? fun q => q.refused && q.key.toNat == bufN s c b 20 4

/-- The thread of a landed step. -/
def stepThread (s : State) (c b k : Nat) (r : Launch) (t : Step) : Slot :=
  let resume := bufFlag s c b 1
  let word := fun i => BitVec.ofNat 64 (bufN s c b (320 + 8 * i) 8)
  let ident : Word := BitVec.ofNat 64 (bufIdent s c b)
  let x := { launchThread s r with ctag := bufCtag s c b, rank := 0xFFFF, capsule := some b, resumed := resume
                                   fflags := BitVec.ofNat 7 (bufByte s c b 18) }
  if resume then
    { x with barred := (refusedPage s c b).map PageReq.va, pc := word 0, g := (List.range 10).foldl (fun g i => vset g (i + 1) (word (i + 1))) x.g
             pred := BitVec.ofNat 16 (bufN s c b 408 2), srseed := BitVec.ofNat 32 (bufN s c b 410 4) }
  else
    { withArgs x (t.param.zeroExtend 64) ident (BitVec.ofNat 64 (bufSteps s c b - 1)) 0 with
      pc := t.d1, srseed := ident.truncate 32 ^^^ BitVec.ofNat 32 (c * 8 + k) }

/-- CAPSULE_STEP_START. -/
def execCapsuleStepStart (core buf : Nat) (s : State) : Result :=
  deviceStep (fun s => match bufUse s core buf, manifest s core buf, openSlots s core, launchRecord s (bufLaunch s core buf) with
    | .landed, t :: _, k :: _, some r =>
      if t.isThread && s.inService core then
        let s := needSegments s r
        let x := stepThread s core buf k r t
        let s := { s with pageReqs := s.pageReqs.filter fun q => some q != refusedPage s core buf || !x.resumed }
        startThread (setBufUse s core buf (.running k)) core k x
      else s
    | _, _, _, _ => s) s

/-- A token's flags and poison are applied and it is discarded (R206, R230). -/
def applyToken (s : State) (c k : Nat) (e : Elem) : State := if e.token then receive s c k e else s

/-- Every token that waits for a thread is applied, and its completion ports and pending entries are emptied. -/
def discardTokens (s : State) (c k : Nat) : State :=
  let x := s.slotOf c k
  let elems := x.qe.toList.flatten ++ ((s.coreOf c).heldTokens.filter fun t => t.owner == .slot k).map (fun t => t.elem)
    ++ x.pending.map tokenElem
  let s := elems.foldl (fun s e => applyToken s c k e) s
  (s.modCore c fun r => { r with heldTokens := r.heldTokens.filter fun t => t.owner != .slot k }).modSlot c k fun x =>
    { x with qe := Vector.replicate 8 [], pending := [] }

/-- cfwd and cpark wait as .rel and until the thread's commands have completed; tokens that have come by then, also during the
wait, are applied and discarded, its flags go to the header, and the rest follows with its buffer (R230, R231). -/
def endStep (i : Instr) (finish : Nat → State → State) (s : State) : State :=
  issue i s fun s =>
    match s.me.capsule with
    | none => trapHere s .state
    | some b =>
      if !releaseHolds s s.core s.slot then pollFor s .memoryWait .release
      else if !commandsDone s s.core s.slot then pollFor (endReservation s s.core s.slot) .engineWait .commandsDone
      else
        let s := discardTokens s s.core s.slot
        finish b (setBufN s s.core b 18 1 s.me.fflags.toNat)

def execCfwd (s : State) : Result :=
  deviceStep (endStep .cfwd fun b s => placementPass (stepDone (endThread s s.core s.slot) s.core b)) s

def execCpark (ra : BitVec 6) (s : State) : Result :=
  deviceStep (fun s =>
    let key := gval s ra
    if s.me.capsule.isSome && isG ra && bitAt key 31 then issue (.cpark ra) s fun s => trapHere s .illegalOperand
    else endStep (.cpark ra) (fun b s =>
      let (order, s) := s.fresh
      placementPass (parkCapsule (endThread s s.core s.slot) s.core b false (key.truncate 32) order)) s) s

/-! ## Rewriting the manifest (R228) -/

/-- The answer of a rewrite: a thread whose image came from another place has left rotation for it. -/
def rewritten (rd : BitVec 6) (away : Bool) (st : Nat) (poison : Bool) (s : State) : State :=
  if away then answer rd (BitVec.ofNat 64 st) poison s else writeBoundary rd (BitVec.ofNat 64 st) poison s s

/-- An address names memory outside the core. -/
def leavesCore (s : State) (a : Word) : Bool :=
  match segSpace (vget s.me.sg 0 (bitsOf a 63 61)) with
  | .localPad | .landing => false
  | _ => true

/-- cins and crep: the image, then the tests in order, then the rewrite. -/
def rewriteOp (i : Instr) (rd ra rb : BitVec 6) (insert : Bool) (s : State) : State :=
  issue i s fun s =>
    let p := (gval s ra).toNat
    let a := gval s rb
    match s.me.capsule with
    | none => trapHere s .state
    | some b =>
      withBlock s a 16 16 fun d poison s =>
        let steps := manifest s s.core b
        let future := steps.length - 1
        let t := stepAt d 0
        let away := leavesCore s a
        if (if insert then future < p else future ≤ p) then rewritten rd away 2 poison s
        else if t.malformed (bufTile s s.core b) then rewritten rd away 3 poison s
        else if insert && decide (16 ≤ steps.length) then rewritten rd away 1 poison s
        else
          let l := if insert then steps.insertIdx (p + 1) t else steps.set (p + 1) t
          rewritten rd away 0 poison (setManifest s s.core b l)

def execCins (rd ra rb : BitVec 6) (s : State) : Result := .next (rewriteOp (.cins rd ra rb) rd ra rb true s)
def execCrep (rd ra rb : BitVec 6) (s : State) : Result := .next (rewriteOp (.crep rd ra rb) rd ra rb false s)

def execCdel (rd ra : BitVec 6) (s : State) : Result :=
  .next (issue (.cdel rd ra) s fun s =>
    let p := (gval s ra).toNat
    match s.me.capsule with
    | none => trapHere s .state
    | some b =>
      let steps := manifest s s.core b
      if steps.length - 1 ≤ p then rewritten rd false 2 false s
      else rewritten rd false 0 false (setManifest s s.core b (dropAt steps (p + 1))))

/-! ## cnew (R227) -/

/-- The entry of a class in the launch's class table. -/
def classEntry (s : State) (r : Launch) (cls : Nat) : Nat × State :=
  let (d, _, s) := tableRead s (r.cltab.toNat + 320 * cls) 320
  (d, s)

/-- A new capsule in a buffer: header, manifest, empty resume block and the tile with its marks. -/
def makeCapsule (s : State) (b cls entry pad : Nat) (number : BitVec 32) : State :=
  let c := s.core
  let tile := bytesAt entry 0 2
  let steps := bytesAt entry 2 1
  let x := s.me
  let header := number.toNat + c * 2 ^ 32 + x.lid.toNat * 2 ^ 64 + x.ctag.toNat * 2 ^ 96 + cls * 2 ^ 104 + steps * 2 ^ 112
    + tile * 2 ^ 128 + c * 2 ^ 192
  let s := setBufN s c b 0 64 header
  let s := setManifest s c b ((List.range steps).map fun i => stepAt entry (64 + 16 * i))
  let s := setBufN s c b 416 tile (s.load pad tile).1
  markHeader (copyMarks s pad (bufAddr c b 416) tile) c b

/-- The identifier that the next capsule of the issuing slot's core gets. -/
def capsuleIdent (s : State) : Word := BitVec.ofNat 64 (s.myCore.capsules.toNat + s.core * 2 ^ 32)

/-- cnew once its checks are made and its waits are over; `b` is a free outbound buffer. -/
def launchCapsule (rd : BitVec 6) (b cls entry pad : Nat) (s : State) : State :=
  let number := s.myCore.capsules
  let ident := capsuleIdent s
  let s := makeCapsule (s.modCore s.core fun r => { r with capsules := r.capsules + 1 }) b cls entry pad number
  let s := sendCapsule (setBufUse s s.core b .landed) s.core b
  let s := leaveRotation (endReservation s s.core s.slot) s.core s.slot .engineWait (.reply (some rd) false)
  postReply s s.core s.slot ident

def execCnew (rd ra : BitVec 6) (c : BitVec 12) (s : State) : Result :=
  deviceStep (issue (.cnew rd ra c) · fun s =>
    let a := gval s ra
    match findPlaced s s.me.lid with
    | none => trapHere s .illegalOperand
    | some p =>
      if p.record.classes ≤ c.toNat then trapHere s .illegalOperand
      else
        let (entry, s) := classEntry s p.record c.toNat
        let tile := bytesAt entry 0 2
        match blockCheck s s.core s.slot a tile 1 true false with
        | .bad cause => trapHere s cause a
        | .ok .localPad off =>
          if a.toNat % 4 != 0 then trapHere s .misaligned a
          else outward [a, c.zeroExtend 64] s
            (fun s =>
              if !releaseHolds s s.core s.slot then pollFor s .engineWait .release
              else if !fenceBankHolds s s.core s.slot 0x800000 then
                pollFor (endReservation s s.core s.slot) .engineWait (.fenceBank 0x800000)
              else match freeFerry s s.core with
                | none => pollFor (endReservation s s.core s.slot) .engineWait (.ferryRoom s.core)
                | some b => if resultRefused rd (capsuleIdent s) then trapHere s .illegalOperand else launchCapsule rd b c.toNat entry (padAddr (padHome s.core s.me) off) s)
            (takeResult rd)
        | .ok _ _ => trapHere s .space a) s

/-! ## Bank steps (R317, R318) -/

/-- The run of a bank step at a core (R317, R395). -/
def stepRun (s : State) (c b : Nat) (t : Step) : Run :=
  { code := t.cmd, opa := t.param.toNat, opb := 0, fop := 0, core := c
    addr := t.addr + (stepPlace s c (bufCtag s c b) t).2, count := t.count, aux := 0, tile := some (bufAddr c b 416) }

/-- The elements that a run may do next: of an element-wise one, the next at each bank that serves it (R270, R298). -/
def ableElements (s : State) (c b : Nat) (x : BankRun) : List Nat :=
  let able := fun e => runTurn s (.capsule c b) x.run x.progress x.aged (x.run.bank e) []
  (if isElementWise x.run.code then (List.range 32).filterMap (x.run.nextAt x.progress)
   else if x.next < x.run.count then [x.next] else []).filter able

/-- One element of a run: one BankRMW of class 5 (R109, R269). -/
def bankElement (x : BankRun) (e : Nat) (s : State) : BankRun × State :=
  let kept := if x.started then x.kept else readKept s x.run
  let told : Told := ⟨x.flags, x.poison, 0⟩
  let (told, s) := if isElementWise x.run.code then oneElement x.run e told s else statefulElement x.run kept e told s
  ({ x with done := if isElementWise x.run.code then x.done ++ [x.run.bank e] else x.done, next := x.next + 1, flags := told.flags
            poison := told.poison, kept := kept, started := true, refused := 0, aged := false }, s)

/-- What a bank step raised and read stays with the capsule (R318). -/
def keepToldOf (s : State) (c b : Nat) (x : BankRun) : State :=
  let s := markHeader (raiseBuf s c b x.flags) c b
  if x.poison then setErr s (bufLaunch s c b) 0 else s

/-- A bank step is complete, and its capsule is forwarded (R317). -/
def finishBankStep (s : State) (c b : Nat) (x : BankRun) : State := stepDone (keepToldOf s c b x) c b

/-- A bank step goes on by one of the elements that it may do next. A bu.wel at the greatest count is complete at once. -/
def bankStepOn (s : State) (c b : Nat) (x : BankRun) : State :=
  match ableElements s c b x with
  | [] => s
  | l =>
    match (if x.run.code = 0x37 && !x.started then welFull x.run s else none) with
    | some told => finishBankStep s c b { x with flags := told.flags, poison := told.poison }
    | none =>
      let (n, s) := s.draw
      let (x, s) := bankElement x (l.getD (n.toNat % l.length) 0) s
      let s := setBufUse s c b (.banking x)
      if x.next = x.run.count then finishBankStep s c b x else s

/-- The elements of a run still to be done. -/
def elementsLeft (x : BankRun) : List Nat :=
  if isElementWise x.run.code then (List.range 32).flatMap fun b => (x.run.elements b).drop (x.progress.at_ b)
  else (List.range x.run.count).drop x.next

/-- The bank step of a core that is fenced off is completed, and removed from its capsule, which is not forwarded (R448). -/
def completeBankStep (s : State) (c b : Nat) (x : BankRun) : State :=
  let (x, s) := (elementsLeft x).foldl (fun (acc : BankRun × State) e => bankElement acc.1 e acc.2) (x, s)
  let s := keepToldOf s c b x
  setManifest s c b ((manifest s c b).drop 1)

/-- BANK_STEP: a landed bank step performs one element. -/
def execBankStep (core buf : Nat) (s : State) : Result :=
  deviceStep (fun s => match bufUse s core buf, manifest s core buf with
    | .landed, t :: _ =>
      let s := needFold s core (bufCtag s core buf) t
      let r := stepRun s core buf t
      if t.isBank && r.addr + 4 * r.count ≤ 2 ^ 21 then bankStepOn (setBufUse s core buf (.banking { run := r })) core buf { run := r }
      else s
    | .banking x, _ => bankStepOn s core buf x
    | _, _ => s) s

/-! ## Crossings that arrive (R315) -/

/-- The launch that receives a capsule: queued or placed, and of a context whose membership the request names. -/
def receivingLaunch (s : State) (a : CapsuleArrival) : Option Launch :=
  match launchRecord s a.launch with
  | some r =>
    let m := s.memberOf r.ctag
    if m.valid && m.mid == a.mid then some r else none
  | none => none

/-- The image of an arriving capsule put into a buffer, its crossing step removed and its launch written. -/
def landImage (s : State) (c b : Nat) (r : Launch) (a : CapsuleArrival) : State :=
  let s := (List.range (min a.image.length (imageBytes / 4))).foldl (fun s i => setBufN s c b (4 * i) 4 (a.image.getD i 0).toNat) s
  let s := a.poisonedWords.foldl (fun s i => if 4 * i < bufTile s c b then s.mark (bufAddr c b (416 + 4 * i)) 4 else s) s
  let s := setBufN (setBufN s c b 8 4 r.lid.toNat) c b 12 1 r.ctag.toNat
  markHeader (setManifest s c b ((manifest s c b).drop 1)) c b

/-- A tile size that a header may hold. -/
def tileOk (n : Nat) : Bool := n % 4 == 0 && within 4 4096 n

/-- The buffer that a crossing of a context has been granted at a core. -/
def grantedTo (s : State) (core : Nat) (ctag : BitVec 4) : Option Granted :=
  s.granted.find? fun g => g.core == core && g.inbound.ctag == ctag

/-- CROSSING_LANDING: the image has arrived in the buffer granted to it, and its sender is told. Where the launch that is to receive it
is no longer one that may, the buffer frees and the sender is not told (DESIGN CHOICE, log entry 167). -/
def execCrossingLanding (arrival : CapsuleArrival) (s : State) : Result :=
  deviceStep (fun s =>
    let c := arrival.core
    match (contextOfMid s arrival.mid).bind (grantedTo s c) with
    | none => s
    | some g =>
      let s := { s with granted := s.granted.erase g }
      match receivingLaunch s arrival with
      | none => freeBuf s c g.buf
      | some r =>
        let s := landImage (answerInbound s g.inbound 0) c g.buf r arrival
        if arrival.partPoisoned || !tileOk (bufTile s c g.buf) || (s.coreOf c).failed then destroyCapsule s c g.buf
        else if (s.coreOf c).fenced then toHarbour s c g.buf 7
        else sendCapsule (setBufUse s c g.buf .landed) c g.buf) s

/-! ## Waking and resending (R251, R321, R325) -/

/-- A header that a resend refuses (R307). -/
def headerMalformed (s : State) (c b : Nat) : Bool :=
  bufByte s c b 12 / 16 != 0 || bufByte s c b 13 / 16 != 0 || decide (16 < bufSteps s c b) || bufByte s c b 15 / 8 != 0
    || !tileOk (bufTile s c b) || bufByte s c b 18 / 128 != 0 || bufN s c b 28 36 != 0

/-- The image of a harbour entry, line by line with its poisoned words. -/
def readEntry (s : State) (entry : Nat) : List Bytes × State :=
  (List.range 141).foldl (fun (acc : List Bytes × State) i =>
    let (r, s) := tableBytes acc.2 (entry + 64 + 32 * i) 32
    (acc.1 ++ [r], s)) ([], s)

/-- A harbour entry is taken for a resend from core `d`: its state is 2, and its image is read (R325). -/
def takeEntry (s : State) (d entry : Nat) : Resend × State :=
  let (lines, s) := readEntry (tableWrite s entry 4 2 false) entry
  (⟨d, entry, lines⟩, s)

/-- An image that was read put into a buffer, with its marks. -/
def fillBuffer (s : State) (c b : Nat) (lines : List Bytes) : State :=
  lines.zipIdx.foldl (fun s x =>
    let s := setBufN s c b (32 * x.2) 32 x.1.1
    x.1.2.foldl (fun s w => s.mark (bufAddr c b (32 * x.2 + 4 * w)) 4) s) s

/-- The rest of a resend, from the free outbound buffer `b` (R325): the status of wake. -/
def resendFrom (s : State) (b : Nat) (q : Resend) : Nat × State :=
  let d := q.core
  let s := fillBuffer s d b q.lines
  if headerMalformed s d b || (manifest s d b).any fun t => t.malformed (bufTile s d b) then
    (1, freeBuf (tableWrite (tableWrite s (q.entry + 4) 1 6 false) q.entry 4 1 false) d b)
  else
    let s := setBufN s d b 26 2 (min 65535 (bufN s d b 26 2 + 1))
    let s := sendCapsule (setBufUse (markHeader s d b) d b .landed) d b
    (0, tableWrite s q.entry 4 0 false)

/-- The harbour entry of a launch that a key names: its address. -/
def entryOfKey (s : State) (lid : BitVec 32) (key : Word) : Option Nat :=
  match findPlaced s lid with
  | none => none
  | some p =>
    if bitsOf key 30 16 = 0 && bitsOf key 15 0 < p.record.hcap then some (p.record.hrbase.toNat + 4608 * bitsOf key 15 0) else none

/-- A harbour entry of the waker's launch that can be resent. -/
def resendable (s : State) (lid : BitVec 32) (key : Word) : Option Nat :=
  match entryOfKey s lid key with
  | some entry => if (tableRead s entry 4).1 == 1 && (tableRead s (entry + 72) 4).1 == lid.toNat then some entry else none
  | none => none

/-- What `resendable` reads is asked for. -/
def needEntry (s : State) (lid : BitVec 32) (key : Word) : State :=
  match entryOfKey s lid key with
  | some entry => needLines s (busyLines s entry 96)
  | none => s

/-- The parked capsule that a wake takes, and whether it was folded (R251). -/
def wakeChoice (s : State) (d : Nat) (key : BitVec 32) (pilot : Bool) (lid : BitVec 32) : Option (Nat × Bool) :=
  let fits := fun (folded : Bool) => parkedCapsules s d fun b f k =>
    k == key && f == folded && (pilot || bufLaunch s d b == lid)
  match (if pilot then fits true else []), fits false with
  | (b, _, _) :: _, _ => some (b, true)
  | [], (b, _, _) :: _ => some (b, false)
  | [], [] => none

/-- A wake that comes for a step being folded takes effect when the fold is complete (R320). -/
def wokenFold (x : Slot) : Slot :=
  match x.wait with
  | .folding key order _ => { x with wait := .folding key order true }
  | _ => x

/-- A parked capsule runs its step: from its resume block if it was folded, else from its entry. -/
def wakeCapsule (s : State) (d : Nat) (key : BitVec 32) (pilot : Bool) (lid : BitVec 32) : Nat × State :=
  match wakeChoice s d key pilot lid with
  | some (b, folded) =>
    (0, match bufUse s d b with
      | .running k => s.modSlot d k wokenFold
      | _ => setBufUse (setBufFlag s d b 1 folded) d b .landed)
  | none => (1, s)

end Sys2Proof.Machine
end

