-- ==== Sys2Proof/Machine/Xlate.lean ====
section
/-!
DEFINITION. The cluster memory port (R375–R388, R397): walks and their outcomes, parking and folding on a page fault, fault
records, context descriptors, invalidation, engine bursts held and resumed, and translation by the host.
-/

namespace Sys2Proof.Machine

/-! ## Parking and folding (R320, R385, R446) -/

/-- A slot is parked on a page fault under a key; it keeps its instruction in progress and its latch. The halt of a single step
is pending from then on (R396). -/
def parkFault (s : State) (c k : Nat) (key : BitVec 32) : State :=
  (leaveRotation (endReservation s c k) c k .parked .nothing).modSlot c k fun x =>
    { x with park := .fault key, outward := none, haltPending := x.haltPending || x.stepArmed, stepArmed := false }

/-- The resume block of a folded step written, with its flags (R310, R320). -/
def writeResume (s : State) (c b : Nat) (x : Slot) : State :=
  let regs := (List.range 10).foldl (fun (acc : Nat) i => acc + (vget x.g 0 (i + 1)).toNat * 2 ^ (64 * (i + 1))) x.pc.toNat
  let s := setBufN s c b 320 88 regs
  let s := setBufN s c b 408 8 ((setBits x.pred 0 0 1).toNat + x.srseed.toNat * 2 ^ 16)
  setBufFlag (setBufN s c b 18 1 x.fflags.toNat) c b 1 true

/-- A capsule step begins to be folded: it waits for its commands, and counts as parked from its fault (R320). -/
def beginFold (s : State) (c k : Nat) (key : BitVec 32) : State :=
  let (order, s) := s.fresh
  leaveRotation (endReservation s c k) c k .engineWait (.folding key order false)

/-- A capsule step whose commands have completed is folded, and runs on if a wake has come for it (R320). -/
def foldStep (s : State) (c k b : Nat) (key : BitVec 32) (order : Nat) (woken : Bool) : State :=
  let s := discardTokens s c k
  let s := writeResume s c b (s.slotOf c k)
  let s := parkCapsule (endThread s c k) c b true key order
  placementPass (if woken then setBufUse s c b .landed else s)

/-- THREAD_REPLY (R20): a slot that waits takes what has come; a step that is being folded ends once its commands have. -/
def execThreadReply (core slot : Nat) (s : State) : Result :=
  deviceStep (fun s =>
    let x := s.slotOf core slot
    if !x.waiting then s
    else match x.wait, x.capsule with
    | .folding key order woken, some b => if commandsDone s core slot then foldStep s core slot b key order woken else s
    | _, _ => takeReply s core slot) s

/-- The slots that a failed access of slot `k` parks: the pair's two when both stand at the instruction, or have matched at it and
the trailing one, whose copy is discarded, stands where it may (R444, R446). -/
def parkedWith (s : State) (c k : Nat) : Option (List Nat) :=
  let x := s.slotOf c k
  if x.pair == .alone then some [k]
  else
    let y := s.slotOf c (otherOf k)
    if x.matched then some (if y.status.issues || y.waiting then [k, otherOf k] else [k])
    else if y.pc == x.pc && y.status == .memoryWait then some [k, otherOf k] else none

/-- The source byte of a thread's record (R386). -/
def threadSource (x : Slot) (k : Nat) : Nat := (if x.pair == .alone then k else leadOf k) + (if x.capsule.isSome then 16 else 0)

/-- A thread's failed access is taken: it is parked, or its capsule step folded, under a key; `send` sends the record.
While a pair's threads are apart, nothing happens yet. -/
def failAccess (s : State) (q : XlateReq) (send : BitVec 32 → Slot → State → State) : State :=
  let x := s.slotOf q.core q.slot
  match parkedWith s q.core q.slot, x.capsule with
  | none, _ => s
  | some ks, none =>
    let (key, s) := assignKey s (clusterOf q.core)
    let s := send key x (dropXlate s q.core ks)
    ks.foldl (fun s k => parkFault s q.core k key) s
  | some ks, some _ =>
    let (key, s) := assignKey s (clusterOf q.core)
    beginFold (send key x (dropXlate s q.core ks)) q.core q.slot key

/-- The record of a failed walk, queued at the port (R386). -/
def sendRecord (q : XlateReq) (kind level : Nat) (key : BitVec 32) (x : Slot) (s : State) : State :=
  queueRecord s (clusterOf q.core) q.ctag
    (faultData q.va key q.core (threadSource x q.slot) kind (accessByte q.read q.write q.exec) level q.ctag x.lid x.pc)

/-! ## Walks (R377–R383) -/

/-- A thread still waits for the page of a request. -/
def stillWaits (s : State) (q : XlateReq) : Bool := (s.slotOf q.core q.slot).wait == .translation q.va q.exec

/-- What was waited for at the port is there: a thread's access goes on, its slot issues the instruction that it fetches, and an
engine's burst finds the translation. -/
def translated (s : State) (q : XlateReq) : State :=
  if 8 ≤ q.slot then s else if q.exec then reissue s q.core q.slot else goOn s q.core q.slot

/-- A thread's request leaves its port. -/
def dropRequest (s : State) (cl : Nat) (q : XlateReq) : State :=
  s.modCluster cl fun p => { p with waiting := p.waiting.erase q }

/-- The requests that a port holds; more wait in arrival order at its input (R383). One whose walk has failed is no longer
translated. -/
def heldRequests (s : State) (cl : Nat) : List XlateReq := ((s.clusterAt cl).waiting.filter fun q => q.failed.isNone).take 2560

/-- The context and page of a request, by which requests join a walk (R383). -/
def walkPage (q : XlateReq) : BitVec 4 × Nat := (q.ctag, q.va / 2 ^ 16)

/-- The pages whose walks are in flight: 128 at once, in the order of their first misses (R383). -/
def walksOf (s : State) (cl : Nat) : List (BitVec 4 × Nat) := ((heldRequests s cl).map walkPage).eraseDups.take 128

/-- The failure of a walk is left with the request of an engine, whose burst meets it (R385). -/
def failRequest (s : State) (cl : Nat) (q : XlateReq) (kind level : Nat) : State :=
  s.modCluster cl fun p => { p with waiting := p.waiting.map fun r => if r == q then { q with failed := some (kind, level) } else r }

/-- A walk comes to its end for one of the requests joined to it: it is translated, or fails with its own record. -/
def walkEnds (cl : Nat) (s : State) (q : XlateReq) : State :=
  if q.slot < 8 && !stillWaits s q then dropRequest s cl q
  else match translate s cl q.ctag q.va q.read q.write q.exec with
    | .hit _ _ | .badRange => translated (dropRequest s cl q) q
    | .miss =>
      if ((s.clusterAt cl).contexts.find? q.ctag.toNat).any fun x => x.hostProcess then s
      else match walk s cl q.ctag q.va q.read q.write q.exec with
        | .leaf _ s => translated (dropRequest s cl q) q
        | .snooped s => s
        | .failed kind level s =>
          if 8 ≤ q.slot then failRequest s cl q kind level
          else if recordRoom s cl then failAccess s q (sendRecord q kind level) else s

/-- TLB_WALK_COMPLETE: the walk that request `k` of a port stands for ends, with every request joined to it (R383). -/
def execTlbWalkComplete (cluster k : Nat) (s : State) : Result :=
  .next (match (heldRequests s cluster)[k]? with
    | none => s
    | some q =>
      if (walksOf s cluster).contains (walkPage q) then
        ((heldRequests s cluster).filter fun r => walkPage r == walkPage q).foldl (walkEnds cluster) s
      else s)

/-! ## Fault records (R387) -/

/-- The record written into its queue, the queue's tail, and the message that notifies (R387). -/
def deliverRecord (s : State) (cl : Nat) (ctx : Context) (r : FaultRec) (rest : List FaultRec) : State :=
  let (ends, _, s) := tableRead s (ctx.desc.toNat + 24) 8
  let tail := bytesAt ends 0 4
  let held := (tail + 2 ^ 32 - bytesAt ends 4 4) % 2 ^ 32
  if ctx.fqsize = 0 || held == ctx.fqsize then s
  else
    let s := tableWrite s (ctx.fqbase.toNat + 32 * (tail % ctx.fqsize)) 32 r.data.toNat false
    let s := tableWrite s (ctx.desc.toNat + 24) 4 ((tail + 1) % 2 ^ 32) false
    deviceMessage (s.modCluster cl fun p => { p with records := rest }) ctx.notify 7 (BitVec.ofNat 64 tail)

/-- FAULT_RECORD_DELIVERY: the oldest record of a port, once its context's queue has room. -/
def execFaultRecordDelivery (cluster : Nat) (s : State) : Result :=
  deviceStep (fun s => match (s.clusterAt cluster).records with
    | [] => s
    | r :: rest =>
      match (s.clusterAt cluster).contexts.find? r.ctag.toNat with
      | none => s
      | some ctx => deliverRecord s cluster ctx r rest) s

/-! ## Context descriptors (R375, R376) -/

/-- A descriptor is well formed (R375). -/
def descriptorOk (d : Nat) : Bool :=
  addressField d 0 4096 && bytesAt d 8 4 / 2 ^ 20 % 2 ^ 10 == 0 && decide (bytesAt d 12 4 ≤ 2 ^ 20) && addressField d 16 32
    && decide (bytesAt d 32 2 < 1280) && bytesAt d 34 6 == 0 && (bytesAt d 8 4 / 2 ^ 30 % 2 == 1 || bytesAt d 40 8 == 0)
    && decide (bytesAt d 40 8 < 2 ^ 52) && bytesAt d 48 16 == 0

def parseContext (desc d : Nat) : Context :=
  { desc := BitVec.ofNat 52 desc, root := BitVec.ofNat 52 (bytesAt d 0 8), pasid := BitVec.ofNat 20 (bytesAt d 8 4)
    folded := bytesAt d 8 4 / 2 ^ 30 % 2 == 1, hostProcess := bytesAt d 8 4 / 2 ^ 31 == 1, fqsize := bytesAt d 12 4
    fqbase := BitVec.ofNat 52 (bytesAt d 16 8), notify := bytesAt d 32 2, foldtab := BitVec.ofNat 52 (bytesAt d 40 8) }

def unloadContext (s : State) (cl : Nat) (ctag : BitVec 4) : State :=
  s.modCluster cl fun p => { p with contexts := p.contexts.erase ctag.toNat }

/-- The descriptor at an address put into the entry of a tag; one that is malformed or read poisoned leaves it unloaded. -/
def loadContext (s : State) (cl : Nat) (ctag : BitVec 4) (pa : Nat) : State :=
  let (d, poison, s) := tableRead s pa 64
  if poison || !descriptorOk d then unloadContext s cl ctag
  else s.modCluster cl fun p => { p with contexts := p.contexts.set ctag.toNat (parseContext pa d) }

/-- CTXDESC_LOAD. -/
def execCtxdescLoad (core : Nat) (s : State) : Result :=
  deviceStep (fun s => match takeUnit s core 0x131 with
    | none => s
    | some (v, t) =>
      if v = 0 then s else unitDone (loadContext t (clusterOf core) (s.coreOf core).ctxsel v.toNat) core) s

/-- CTXDESC_UNLOAD. -/
def execCtxdescUnload (core : Nat) (s : State) : Result :=
  .next (match takeUnit s core 0x131 with
    | none => s
    | some (v, t) => if v = 0 then unitDone (unloadContext t (clusterOf core) (s.coreOf core).ctxsel) core else s)

/-! ## Invalidation (R384, R397) -/

/-- A value that tlbinv refuses. -/
def tlbinvIllegal (v : Word) : Bool :=
  let size := bitsOf v 6 5
  bitsOf v 63 57 != 0 || bitsOf v 15 9 != 0 || bitAt v 4 || size == 3
    || (size == 1 && bitsOf v 24 16 != 0) || (size == 2 && bitsOf v 30 16 != 0)

/-- Entries of a tag that an invalidation names: all of them, or those that meet the page. -/
def TlbEntry.named (e : TlbEntry) (host : Bool) (tag va size : Nat) (all : Bool) : Bool :=
  e.hostProcess == host && e.tag == tag
    && (all || rangesMeet e.page (2 ^ pageBits e.size) (va / 2 ^ pageBits size * 2 ^ pageBits size) (2 ^ pageBits size))

def removeTlb (s : State) (cl : Nat) (p : TlbEntry → Bool) : State :=
  s.modCluster cl fun c => { c with tlb := c.tlb.filter fun e => !p e }

/-- An access of a context was translated at a port. -/
def translatedAt (cl : Nat) (ctag : BitVec 4) (f : Flight) : Bool := clusterOf f.core == cl && f.ctag == ctag

/-- A thread of a context at a core has lanes that are translated and not sent (R188). -/
def holdsLanes (ctag : BitVec 4) (x : Slot) : Bool :=
  x.ctag == ctag && x.vec.any fun a => !a.sent && a.away.any fun t => match t.2 with
    | .bank _ _ => false
    | _ => true

/-- No access of a context translated at a port is still to be sent, on its way to its place or waiting there, be its thread alive
or not, and none stands in the port's combining buffer (R384). -/
def drained (s : State) (cl : Nat) (ctag : BitVec 4) : Bool :=
  let mine := translatedAt cl ctag
  !((List.range 16).any fun l => (s.coreOf (clusterCore cl l)).slots.toList.any (holdsLanes ctag)) &&
  (s.clusterAt cl).combine.isEmpty
    && !(s.flights.any fun f => mine f && (match f.target with
        | .home _ _ => true
        | _ => false))
    && !(s.peerReqs.any fun q => mine q.flight) && !(s.queues.any fun q => q.waiters.any mine)
    && !(s.cores.entries.any fun e => e.2.admission.any mine)
    && !(s.watches.any fun w => w.global && clusterOf w.core == cl && (s.slotOf w.core w.slot).ctag == ctag)

/-- An invalidation at one port. -/
def invalidateAt (v : Word) (s : State) (cl : Nat) : State :=
  let ctag := BitVec.ofNat 4 (bitsOf v 3 0)
  let (host, tag) := match (s.clusterAt cl).contexts.find? ctag.toNat with
    | some x => (x.hostProcess, x.tlbTag ctag)
    | none => (false, ctag.toNat)
  writeOutAll (removeTlb s cl fun e => e.named host tag (bitsOf v 56 16 * 2 ^ 16) (bitsOf v 6 5) (bitAt v 7)) cl

/-- TLBINV: the entries go at once; the pilot's syswr retires when the accesses they translated have been performed. -/
def execTlbinv (core : Nat) (s : State) : Result :=
  .next (match takeUnit s core 0x132 with
    | none => s
    | some (v, t) =>
      let ports := if bitAt v 8 then List.range 80 else [clusterOf core]
      let done := ports.foldl (invalidateAt v) t
      if ports.all fun cl => drained done cl (BitVec.ofNat 4 (bitsOf v 3 0)) then unitDone done core
      else ports.foldl (invalidateAt v) s)

/-- Every port has performed what it translated for a PASID. -/
def pasidDrained (s : State) (pasid : BitVec 20) : Bool :=
  (List.range 80).all fun cl => (s.clusterAt cl).contexts.entries.all fun e =>
    !(e.2.hostProcess && e.2.pasid == pasid) || drained s cl (BitVec.ofNat 4 e.1)

/-- ATS_INVALIDATION (R397): as tlbinv at every port for a PASID. It is completed, with this event coming again, when what the
entries translated has been performed; until then it stands in the list. -/
def execAtsInvalidation (pasid : BitVec 20) (va : BitVec 57) (size : BitVec 2) (all : Bool) (s : State) : Result :=
  let q : AtsInvalidation := ⟨pasid, va, size, all⟩
  .next (
    let s := (List.range 80).foldl (fun s cl =>
      writeOutAll (removeTlb s cl fun e => e.named true pasid.toNat va.toNat size.toNat all) cl) s
    if pasidDrained s pasid then { s with atsInvs := s.atsInvs.filter fun r => r != q }
    else if s.atsInvs.contains q then s else { s with atsInvs := s.atsInvs ++ [q] })

/-! ## Engine bursts (R385, R388) -/

/-- The six queues of a core, changed command by command. -/
def mapCmds (f : Cmd → Cmd) (r : Core) : Core :=
  [Engine.tile, .copy, .bank, .stack, .reduction, .collective].foldl (fun r e => r.setQueue e ((r.queue e).map f)) r

/-- The bursts held at a port under a key are resumed. -/
def resumeHeld (key : BitVec 32) (s : State) (cl : Nat) : State :=
  (List.range 16).foldl (fun s l =>
    s.modCore (clusterCore cl l) (mapCmds fun x => { x with held := x.held.filter fun h => h.2 != key })) s

/-- PFWAKE. -/
def execPfwake (core : Nat) (s : State) : Result :=
  .next (match takeUnit s core 0x133 with
    | none => s
    | some (v, s) => unitDone (resumeHeld (v.truncate 32) s (clusterOf core)) core)

/-! ## Translation by the host (R397) -/

/-- A request of a port is of a host-process context with a PASID and for the page of an address. -/
def asksHost (s : State) (cl : Nat) (pasid : BitVec 20) (va : Nat) (q : XlateReq) : Bool :=
  ((s.clusterAt cl).contexts.find? q.ctag.toNat).any (fun x => x.hostProcess && x.pasid == pasid) && q.va / 2 ^ 16 == va / 2 ^ 16

/-- A page request goes to the host. -/
def sendPageReq (q : XlateReq) (key : BitVec 32) (_ : Slot) (s : State) : State :=
  { s with pageReqs := s.pageReqs ++ [{ key := key, core := q.core, slot := q.slot, engine := false, va := q.va }] }

/-- A request that the host's answer does not satisfy: a thread is parked, an engine's burst is held at the port, and the host is
asked for the page (R385, R397). -/
def requestPage (s : State) (q : XlateReq) : State :=
  if q.slot < 8 then (if stillWaits s q then failAccess s q (sendPageReq q) else dropXlate s q.core [q.slot])
  else if s.pageReqs.any fun r => r.engine && r.core == q.core && r.slot == q.slot && r.va / 2 ^ 16 == q.va / 2 ^ 16 then s
  else
    let (key, s) := assignKey s (clusterOf q.core)
    { s with pageReqs := s.pageReqs ++ [{ key := key, core := q.core, slot := q.slot, engine := true, va := q.va }] }

/-- Where an address that the host has translated stands (R271, R397, R399): in HBM if it is in the host's window onto it, else in
the range of host memory. -/
def placeHost (h : Nat) : Nat :=
  if Config.hdmBase ≤ h ∧ h < Config.hdmBase + 2 ^ 41 then h - Config.hdmBase else 2 ^ 51 + h % 2 ^ 51

/-- The host's answer taken at one port. -/
def atsAnswerAt (a : AtsAnswer) (s : State) (cl : Nat) : State :=
  let asked := (s.clusterAt cl).waiting.filter (asksHost s cl a.pasid a.va.toNat)
  if asked.isEmpty then s
  else
    let rights := match a.page with
      | some (_, r) => r
      | none => 0
    let s := match a.page with
      | some (pa, r) => installTlb s cl
          { tag := a.pasid.toNat, hostProcess := true, page := a.va.toNat / 2 ^ 16 * 2 ^ 16, size := 0
            pa := placeHost (pa.toNat / 2 ^ 16 * 2 ^ 16), policy := .homed, r := bitAt r 0, w := bitAt r 1, x := bitAt r 2, d := bitAt r 1 }
      | none => s
    asked.foldl (fun s q =>
      if a.page.isSome && (!q.read || bitAt rights 0) && (!q.write || bitAt rights 1) && (!q.exec || bitAt rights 2) then
        let s := dropXlate s q.core [q.slot]
        if q.slot < 8 && stillWaits s q then translated s q else s
      else requestPage s q) s

/-- ATS_TRANSLATION_RESPONSE: the ports that asked cache the page and resume its requests. -/
def execAtsTranslationResponse (answer : AtsAnswer) (s : State) : Result :=
  .next ((List.range 80).foldl (atsAnswerAt answer) s)

/-- An engine's page request is answered: its bursts are held no longer and ask again, or have no address (R385, R462). -/
def answerEngine (s : State) (q : PageReq) (success : Bool) : State :=
  let s := resumeHeld q.key (dropXlate s q.core [q.slot]) (clusterOf q.core)
  if success then s
  else s.modCore q.core (mapCmds fun x => if cmdRequester x == q.slot then { x with barred := some q.va } else x)

/-- A folded step is woken by the answer to its page request; after a failure the refusal is kept until it runs again. -/
def answerFolded (s : State) (q : PageReq) (success : Bool) : State :=
  match wakeCapsule s q.core q.key true 0 with
  | (0, s) => if success then s else { s with pageReqs := s.pageReqs ++ [{ q with refused := true }] }
  | (_, s) => s

/-- A thread's page request is answered: it issues its instruction again, and after a failure it traps there. -/
def answerThread (s : State) (q : PageReq) (success : Bool) : State :=
  (actsOn s q.core q.slot).foldl (fun s k =>
    if (s.slotOf q.core k).park == .fault q.key then
      makeRunnable (if success then s else s.modSlot q.core k fun x => { x with barred := some q.va }) q.core k
    else s) (answerFolded s q success)

/-- PAGE_GROUP_RESPONSE. -/
def execPageGroupResponse (key : BitVec 32) (success : Bool) (s : State) : Result :=
  .next (match s.pageReqs.find? fun q => q.key == key && !q.refused with
    | none => s
    | some q =>
      let s := { s with pageReqs := s.pageReqs.erase q }
      if q.engine then answerEngine s q success else answerThread s q success)

end Sys2Proof.Machine
end

