-- ==== Sys2Proof/Machine/Reliability.lean ====
section
/-!
DEFINITION. Reliability, containment and repair (R434–R449): halting and killing slots (R252, R442), the comparison of a
pair (R444, R445), the patrol scrubber (R439, R440), fencing a core off, its failure and its return (R447–R449), and the
home map.
-/

namespace Sys2Proof.Machine

/-! ## Withdrawing a wait (R166) -/

/-- A request of slot `k` that a withdrawal takes back: an lres or a wrs. -/
def takenBack (c k : Nat) (f : Flight) : Bool :=
  f.core == c && f.slot == k && f.lane.isNone && (f.kind == .lres || f.kind == .wrs)

/-- Every core that has a record, changed. -/
def mapCores (s : State) (f : Core → Core) : State := { s with cores := ⟨s.cores.entries.map fun e => (e.1, f e.2)⟩ }

/-- A queued lres leaves its queue and a watch is cancelled. -/
def withdrawWait (s : State) (c k : Nat) : State :=
  let keep := fun (l : List Flight) => l.filter fun f => !takenBack c k f
  mapCores { s with flights := keep s.flights, queues := s.queues.map (fun q => { q with waiters := keep q.waiters })
                    watches := s.watches.filter fun w => !(w.core == c && w.slot == k) }
    fun r => { r with admission := keep r.admission }

/-- A slot that waits on an lres or wrs is stopped at once: whatever stands of the instruction is withdrawn, which is issued whole
when the slot goes on (R166). -/
def stopWithdrawn (s : State) (c k : Nat) : State :=
  let s := dropXlate (withdrawWait s c k) c [k]
  let s := { s with landReqs := s.landReqs.filter fun q => !(q.core == c && q.rover == some k) }
  (leaveRotation (endReservation s c k) c k .halted .nothing).modSlot c k fun x =>
    { x with midway := false, stay := false, matched := false, outward := none }

/-! ## halt (R252) -/

/-- A runnable slot stands between two instructions: it holds no part of one. -/
def betweenInstrs (x : Slot) : Bool := x.push.isNone && x.vec.isNone && x.latch.isEmpty && !x.matched && !x.midway

/-- A slot halts at its next instruction boundary, at once, or when its wait has ended. -/
def haltSlot (s : State) (c k : Nat) : State :=
  let x := s.slotOf c k
  let pending := s.modSlot c k fun x => { x with haltPending := true }
  let stopped := fun (s : State) (w : Wait) => leaveRotation (endReservation s c k) c k .halted w
  match x.status with
  | .runnable | .handler => if betweenInstrs x then stopped s .nothing else pending
  | .memoryWait | .engineWait =>
    (match x.wait with
     | .pop p => stopped s (.pop p)
     | .push p => stopped s (.push p)
     | _ => if withdrawable s c k then stopWithdrawn s c k else pending)
  | .empty | .halted | .killed => s
  | _ => pending

/-! ## kill (R252, R442) -/

/-- The slot number of a request whose answer nobody takes. -/
def nobodySlot : Nat := 9

/-- The slot number under which the records, buffers and stores of a docked thread stand. -/
def dockedSlot (handle : BitVec 16) : Nat := 16 + handle.toNat

/-- A request of a killed slot goes on without it. -/
def disown (c k : Nat) (f : Flight) : Flight := if f.core == c && f.slot == k then { f with slot := nobodySlot } else f

/-- The same, of a request to a peer, which is answered to no one. -/
def disownPeer (c k : Nat) (q : PeerReq) : PeerReq :=
  if q.flight.core == c && q.flight.slot == k then { q with flight := { disown c k q.flight with lane := some 0 } } else q

/-- What a slot has sent is performed without it, and its replies are discarded on arrival. -/
def disownRequests (s : State) (c k : Nat) : State :=
  let own := disown c k
  mapCores { s with
    flights := s.flights.map own
    queues := s.queues.map fun q => { q with waiters := q.waiters.map own }
    messages := s.messages.map fun m => if m.core == c && m.slot == k && !m.device then { m with slot := nobodySlot } else m
    spawns := s.spawns.filter fun q => !(q.core == c && q.slot == k)
    peerReqs := s.peerReqs.map (disownPeer c k)
    pageReqs := s.pageReqs.filter fun q => q.engine || !(q.core == c && q.slot == k)
    envCalls := s.envCalls.filter fun q => !(q.core == c && q.slot == k)
    landReqs := s.landReqs.filter fun q => !(q.core == c && q.rover == some k) }
    fun r => { r with admission := r.admission.map own }

/-- The accepted commands of a slot complete without it, with its rings as they stand, and their tokens are discarded. -/
def disownCommands (s : State) (c k : Nat) : State :=
  let rings := (s.slotOf c k).ring
  let (id, s) := s.fresh
  s.modCore c (mapCmds fun x => if x.owner == .slot k then { x with owner := .gone id, rings := rings } else x)

/-- A resend that a killed thread waited for is given up: its entry is held as before (log entry 140). -/
def dropResend (s : State) (x : Slot) : State :=
  match x.resend with
  | some q => tableWrite s q.entry 4 1 false
  | none => s

/-- Slot `k` is killed. Its capsule goes to the harbour with a reason, or is destroyed with its step. -/
def killSlot (reason : Option Nat) (s : State) (c k : Nat) : State :=
  let x := s.slotOf c k
  let s := disownRequests (withdrawWait s c k) c k
  let s := disownCommands (dropXlate (dropResend s x) c [k]) c k
  let s := forgetSlot (abandonRecords s c k) c k
  let s := match x.capsule, reason with
    | some b, some n => toHarbour s c b n
    | some b, none => destroyCapsule s c b
    | none, _ => s
  let s := s.modCore c fun r => { r with traps := r.traps.filter fun t => bitsOf t.d0 10 8 != k }
  let s := s.setSlot c k { Slot.blank with status := .killed, scrub := (s.coreOf c).cycle.toNat + 256 }
  leaveGang s x.lid c

/-- A slot holds a thread. -/
def Slot.occupied (x : Slot) : Bool := x.status != .empty && x.status != .killed

/-- A slot and, in a pair, the other slot of it (R445). -/
def pairSlots (s : State) (c k : Nat) : List Nat := if (s.slotOf c k).pair == .alone then [k] else [leadOf k, leadOf k + 1]

/-- The device kills a slot (R442): event 0x03 and the launch's error bit. -/
def deviceKillSlot (s : State) (c k : Nat) : State :=
  let lid := (s.slotOf c k).lid
  setErr (pushEvent (killSlot none s c k) 3 c k 0 lid 0) lid 3

/-- DEVICE_KILL: an error in the pilot slot halts it. -/
def execDeviceKill (core slot : Nat) (s : State) : Result :=
  deviceStep (fun s =>
    if !(s.slotOf core slot).occupied then s
    else if slot = 7 then pushEvent (stopTrapped s core 7) 3 core 7 0 0 0
    else (pairSlots s core slot).foldl (fun s k => deviceKillSlot s core k) s) s

/-- SLOT_SCRUB_END (R41, R442). -/
def execSlotScrubEnd (core slot : Nat) (s : State) : Result :=
  deviceStep (fun s =>
    let x := s.slotOf core slot
    if x.status == .killed && decide (x.scrub ≤ (s.coreOf core).cycle.toNat) then
      placementPass (s.setSlot core slot Slot.blank)
    else s) s

/-! ## Pairs (R444–R446) -/

/-- The idempotent task record that a pair runs, if it may run again. -/
def retryRecord (s : State) (c k : Nat) : Option Outstanding :=
  let x := s.slotOf c k
  s.outstanding.find? fun o =>
    o.core == c && o.slot == k && x.task != 0 && o.addr == x.task.toNat && o.record.idempotent && decide (o.record.misses < 3)

/-- A mismatch (R445): the pair is killed and its record goes back to the head of its launch's order, or it is reported. -/
def pairMismatch (s : State) (c k : Nat) : State :=
  match retryRecord s c k with
  | none => pairReport s c k
  | some o =>
    let r := { o.record with misses := o.record.misses + 1 }
    let s := { s with outstanding := s.outstanding.erase o }
    let s := s.modCluster (clusterOf c) fun p => { p with bank := r :: p.bank }
    let s := deviceKillSlot (deviceKillSlot s c k) c (k + 1)
    pushEvent s 4 c k 0 o.lid 0

/-- The leading thread of a pair has trapped at the instruction at which the trailing one waits for its value, which does not come:
both have reached the trap (R446). -/
def trapReached (x y : Slot) : Option TrapRec :=
  match x.pairTrap, y.wait with
  | some r, .poll .loadValue => if x.pc == y.pc then some r else none
  | _, _ => none

/-- The cause that a trap record states (R389). -/
def recordCause (r : TrapRec) : Cause := causes.getD (bitsOf r.d0 7 0 - 1) .state

/-- A thread of a pair has its outward entry ready. -/
def comparing (x : Slot) : Bool := x.wait == Wait.compare && x.outward.isSome

/-- A matched entry: both threads issue their instruction again, the leading one performing it. -/
def entryMatched (c : Nat) (s : State) (k : Nat) : State :=
  reissue (s.modSlot c k fun x => { x with matched := true, outward := none }) c k

/-- STORE_COMPARE: both entries are compared, by kind, address, size and data; a thread that traps where the other makes a
request, or raises another trap, has diverged. -/
def execStoreCompare (core pair : Nat) (s : State) : Result :=
  deviceStep (fun s =>
    let k := 2 * pair
    let x := s.slotOf core k
    let y := s.slotOf core (k + 1)
    if x.pair != .leading then s
    else if comparing x && comparing y then
      (if x.outward = y.outward && x.pc == y.pc then entryMatched core (entryMatched core s k) (k + 1)
       else pairMismatch s core k)
    else if (comparing x && y.pairTrap.isSome) || (comparing y && x.pairTrap.isSome) || (x.pairTrap.isSome && y.pairTrap.isSome) then
      pairMismatch s core k
    else match trapReached x y with
      | some r => trapPair s core k (recordCause r) r
      | none => s) s

/-! ## The patrol scrubber (R439, R440) -/

/-- A correction counted against its row or line: the sixteenth in a period is event 0x01. -/
def noteCorrected (s : State) (row core addr : Nat) : State :=
  let n := s.corrected.get 0 row + 1
  let s := { s with corrected := s.corrected.set row n }
  if n = 16 then { pushEvent s 1 core 0 addr 0 0 with scrubDue := s.scrubDue + 1, quietHours := 0 } else s

/-- A corrected error of HBM counts in the lifetime record of its stack (R461). -/
def noteStack (s : State) (pa : Nat) : State := if isHost pa then s else countLife s (0x30 + pa / 2 ^ 37) 1

/-- An uncorrectable error in a home line: a clean line is read again, a dirty one is marked (R439). -/
def spoilLine (s : State) (pa : Nat) : State :=
  match s.homes.find? (pa / 32) with
  | none => s
  | some l =>
    if l.dirty then
      pushEvent { s.widen pa with homes := s.homes.set (pa / 32) { l with poison := true } } 2 (homeCore s pa) 0 (pa / 32 * 32) 0 0
    else (homeLine { s with homes := s.homes.erase (pa / 32) } pa true).2

/-- What the scrubber finds, and what follows. The rows of the scratchpads and the lines have numbers of their own. -/
def scrub (check : ScrubCheck) (s : State) : State :=
  match check with
  | .scratch c off f =>
    if 1280 ≤ c || 2 ^ 21 ≤ off then s
    else (match f with
      | .clean => s
      | .correctable => noteCorrected s (padAddr c off / 32) c 0
      | .uncorrectable => pushEvent (s.mark (padAddr c off) 1) 2 c 0 0 0 0)
  | .homeLine pa f =>
    (match f with
     | .clean => s
     | .correctable =>
       if (s.homes.find? (pa / 32)).isSome then noteCorrected s (2 ^ 60 + pa / 32) (homeCore s pa) (pa / 32 * 32) else s
     | .uncorrectable => spoilLine s pa)
  | .hbmLine pa f =>
    if 2 ^ 41 ≤ pa then s
    else (match f with
      | .clean => s
      | .correctable => noteStack (noteCorrected s (pa / 32) 0xFFFF (pa / 32 * 32)) pa
      | .uncorrectable => pushEvent (s.mark (pa / 32 * 32) 32) 2 0xFFFF 0 (pa / 32 * 32) 0 0)

/-- PATROL_SCRUB: of a scratchpad, in a cycle of its bank that no requester wants. -/
def execPatrolScrub (check : ScrubCheck) (s : State) : Result :=
  .next (match check with
    | .scratch c off _ => if (wantedBanks s c).contains (bankAt off) then s else scrub check s
    | _ => scrub check s)

/-- SCRUB_FORCED_CYCLE: after 4,096 cycles without a free one the scrubber takes a cycle of a bank of a scratchpad (R268, R440). -/
def execScrubForcedCycle (core bank : Nat) (check : ScrubCheck) (s : State) : Result :=
  .next (match check with
    | .scratch c off _ =>
      if c = core && bankAt off == bank && decide (4096 ≤ (s.coreOf core).scrubWait.get 0 bank) then
        scrub check (s.modCore core fun r => { r with scrubWait := r.scrubWait.erase bank })
      else s
    | _ => s)

/-! ## The home map (R273, R448, R449) -/

/-- The home that serves a flight's line is no longer core `c`. -/
def movedAway (s : State) (c : Nat) (f : Flight) : Bool :=
  match f.target with
  | .home pa _ => homeCore s pa != c
  | _ => false

/-- A waiting request joins the buffer of the home that now serves its line. -/
def rehome (s : State) (f : Flight) : State :=
  match f.target with
  | .home pa _ => s.modCore (homeCore s pa) fun r => { r with admission := r.admission ++ [f] }
  | _ => s

/-- Requests that waited at a core for homes that it no longer serves, moved in their order. -/
def rehomeFrom (s : State) (c : Nat) : State :=
  let gone := (s.coreOf c).admission.filter (movedAway s c)
  gone.foldl rehome (s.modCore c fun r => { r with admission := r.admission.filter fun f => !movedAway s c f })

/-- The cycle of a grant in the cycles of another home core. -/
def regrant (s : State) (a b : Nat) (n : Word) : Word :=
  BitVec.ofNat 64 ((s.coreOf b).cycle.toNat - ((s.coreOf a).cycle.toNat - n.toNat))

/-- A queue whose home moved keeps the age of its grant. -/
def moveGrant (old s : State) (q : Queue) : Queue :=
  let a := homeCore old q.granule
  let b := homeCore s q.granule
  if a = b then q else { q with grantedAt := regrant s a b q.grantedAt }

/-- A home map put in place: the lines of the homes that move, and of a core `gone` that the map still names, are written back and
forgotten, or, where they cannot be read, lost; then the requests that waited follow. -/
def moveHomes (s : State) (cl : Nat) (map : Word) (lost : Bool) (gone : Option Nat := none) : State :=
  let old := (s.clusterAt cl).hmap
  let moves := fun (line : Nat) =>
    let (d, j) := homeIndex (line * 32)
    (d == cl && bitsOf old (4 * j + 3) (4 * j) != bitsOf map (4 * j + 3) (4 * j)) || gone.any fun c => homeCore s (line * 32) == c
  let t := if lost then { s with homes := ⟨s.homes.entries.filter fun e => !moves e.1⟩ } else (evictWhere s moves).2
  let t := t.modCluster cl fun p => { p with hmap := map }
  let t := { t with queues := t.queues.map (moveGrant s t) }
  ((List.range 16).map (clusterCore cl)).foldl rehomeFrom t

/-- A dirty line that a test picks, or a pending write of one, cannot go to the array now: a running sequence holds its bank
(R337). -/
def linesBusy (s : State) (p : Nat → Bool) : Bool :=
  (s.homes.entries.any fun e => e.2.dirty && p e.1 && bankBusy s (e.1 * 32))
    || s.bursts.any fun b => bankBusy s (b.block * 256) && (List.range 8).any fun i => p (8 * b.block + i)

/-- A line whose home a core serves. -/
def servedBy (s : State) (c line : Nat) : Bool := homeCore s (line * 32) == c

/-- A home map that names a core which is fenced off or failed (R447). -/
def hmapIllegal (s : State) (cl : Nat) (v : Word) : Bool :=
  (List.range 16).any fun j => !s.inService (clusterCore cl (bitsOf v (4 * j + 3) (4 * j)))

/-- HMAP (R449). A number above 79 names no cluster. -/
def execHmap (core : Nat) (s : State) : Result :=
  .next (match takeUnit s core 0x188 with
    | none => s
    | some (v, t) =>
      let cl := (s.coreOf core).hmsel.toNat
      if hmapIllegal s cl v then unitRefuses t core
      else if linesBusy s fun line => (homeIndex (line * 32)).1 == cl then s
      else unitDone (if cl < 80 then moveHomes t cl v false else t) core)

/-! ## Fencing off and failure (R447, R448) -/

/-- A value of fence that is refused at the pilot of core `c`. -/
def fenceIllegal (s : State) (c : Nat) (v : Word) : Bool :=
  let d := bitsOf v 10 0
  let action := bitsOf v 13 12
  bitsOf v 63 14 != 0 || bitAt v 11 || !(action == 1 || action == 2) || decide (1279 < d) || d == c
    || (action == 2 && ((s.coreOf d).failed || !(s.coreOf d).fenced))
    || (action == 1 && (List.range 16).all fun l =>
        clusterCore (clusterOf d) l == d || !s.inService (clusterCore (clusterOf d) l))

/-- Travellers to a core are refused: the capsules of requests that wait there, and those on their way, go to the harbour from
their senders with reason 0x01. -/
def refuseTravellers (s : State) (c : Nat) : State :=
  let waiting := admittedAt s c
  let coming := s.transits.filter fun t => t.dest == c && t.rover.isNone
  let s := { s with landReqs := s.landReqs.filter (fun r => !(r.admitted && r.dest == c))
                    transits := s.transits.filter fun t => t.dest != c }
  let s := waiting.foldl (fun s r => refuseRequest s r 1) s
  coming.foldl (fun s t => harbourFrom s t.core c t.destBuf 1) s

/-- A rover on its way to a core that goes out of service ends with the threads there. -/
def endRovers (s : State) (c : Nat) : State :=
  (s.transits.filter fun t => t.dest == c).foldl (fun s t =>
    match t.rover with
    | some x => leaveGang (abandonRecords s (transitOwner c t.destBuf).1 t.destBuf) x.lid t.core
    | none => s) s

/-- The requests of the capsule in a buffer are withdrawn. -/
def withdrawRequests (s : State) (c b : Nat) : State :=
  releaseRanks { s with
    landReqs := s.landReqs.filter (fun r => !(r.core == c && r.buf == b && r.rover.isNone && r.inbound.isNone))
    crossings := s.crossings.filter fun q => !(q.core == c && q.buf == b) }

/-- A capsule in a buffer of a core leaves it: to the harbour with reason 0x07, a bank step in progress being completed first, or
destroyed (R448). A buffer granted to a crossing stays so until that arrives, and one from which a crossing was sent until its
landing is known. -/
def clearBuf (failure : Bool) (c : Nat) (s : State) (b : Nat) : State :=
  match bufUse s c b with
  | .free => s
  | .awaited => if s.granted.any fun g => g.core == c && g.buf == b then s else freeBuf s c b
  | u =>
    if s.crossings.any fun q => q.core == c && q.buf == b && (q.stage == .sent || q.stage == .over) then
      (if failure then freeBuf (withdrawRequests s c b) c b else s)
    else
    let s := withdrawRequests s c b
    if failure then destroyCapsule s c b
    else match u with
      | .banking x => toHarbour (if x.started then completeBankStep s c b x else s) c b 7
      | _ => toHarbour s c b 7

/-- The work of a failed core is lost with its state: its commands, its dock and what it held for its slots. -/
def loseCore (s : State) (c : Nat) : State :=
  let docked := ((s.coreOf c).dock ++ (s.coreOf c).spilled)
  let s := s.modCore c fun r =>
    { r with tileQ := [], copyQ := [], bankQ := [], stackQ := [], reductionQ := [], collectiveQ := [], heldTokens := []
             dock := [], spilled := [], traps := [], deferred := [], q1 := [], qi := Vector.replicate 6 [] }
  docked.foldl (fun s d => leaveGang (abandonRecords s c (dockedSlot d.handle)) d.image.lid c) s

/-! ## Uncorrectable errors elsewhere (R439) -/

/-- A word of a landing buffer: of a tile, it is poisoned; in any other part, the capsule is destroyed, with its step
(DESIGN CHOICE, log entry 172). -/
def upsetBuffer (s : State) (c b off : Nat) : State :=
  if 416 ≤ off then
    (if off < 416 + bufTile s c b then markHeader (s.mark (bufAddr c b off) 1) c b else s)
  else match bufUse s c b with
    | .free | .awaited => s
    | .running k => killSlot none s c k
    | _ => destroyCapsule (withdrawRequests s c b) c b

/-- A record in a task queue bank: without its pc or lid it is discarded and counted abandoned, else delivered poisoned. -/
def upsetRecord (s : State) (cl i : Nat) (named : Bool) : State :=
  match (s.clusterAt cl).bank[i]? with
  | none => s
  | some r =>
    let put := fun (l : List TaskRec) => s.modCluster cl fun p => { p with bank := l }
    if named then pushEvent (countAbandoned (put (dropAt (s.clusterAt cl).bank i)) r.lid 1) 2 0xFFFF 0 0 r.lid 0
    else put (putAt (s.clusterAt cl).bank i { r with poison := true })

/-- A dock entry: its thread is killed as its slot would be (R442). -/
def upsetDocked (s : State) (c handle : Nat) : State :=
  match (s.coreOf c).dock.find? fun d => d.handle.toNat == handle with
  | none => s
  | some d =>
    let s := s.modCore c fun r => { r with dock := r.dock.erase d }
    let s := leaveGang (abandonRecords s c (dockedSlot d.handle)) d.image.lid c
    setErr (pushEvent s 3 c d.slot 0 d.image.lid 0) d.image.lid 3

/-- A group step unit's entry: its group becomes unconfigured. -/
def upsetGroup (s : State) (cl n : Nat) : State :=
  match (s.clusterAt cl).groups.find? n with
  | none => s
  | some g =>
    pushEvent (s.modCluster cl fun p => { p with groups := p.groups.set n { g with state := 0, retry := none } }) 2 (statCore cl g) 0 0 0 0

/-- An uncorrectable error, and what follows; the fields of its event are log entry 171's (DESIGN CHOICE). -/
def upset (u : Upset) (s : State) : State :=
  match u with
  | .group cl n => upsetGroup s cl n
  | .record cl i named => upsetRecord s cl i named
  | .buffer c b off => upsetBuffer s c b off
  | .dockEntry c h => upsetDocked s c h
  | .tlb cl i => s.modCluster cl fun p => { p with tlb := dropAt p.tlb i }
  | .icache c line => s.modCore c fun r => { r with icache := ⟨r.icache.entries.filter fun e => e.1 / 8 != line⟩ }
  | .predictor c i => s.modCore c fun r => { r with predictor := r.predictor.erase i }
  | .meshFlit k => match s.flights[k]? with
    | some f => pushEvent { s with flights := putAt s.flights k { f with spoiled := true } } 2 f.core 0 0 f.lid 0
    | none => s

/-- Every slot of threads of a core is killed. -/
def killSlots (failure : Bool) (s : State) (c : Nat) : State :=
  (List.range 7).foldl (fun s k =>
    if (s.slotOf c k).occupied then killSlot (if failure then none else some 7) s c k else s) s

/-- The pilot halts: as its wait allows, or, where the core has failed, at once. -/
def haltPilot (failure : Bool) (s : State) (c : Nat) : State :=
  if !(s.slotOf c 7).occupied then s
  else if failure then stopTrapped (disownRequests (withdrawWait s c 7) c 7) c 7
  else haltSlot s c 7

/-- The map of a cluster with every entry that names a core replaced by the lowest core in service. -/
def replaceCore (s : State) (c : Nat) : Word :=
  let cl := clusterOf c
  let map := (s.clusterAt cl).hmap
  match firstBelow 16 fun l => s.inService (clusterCore cl l) with
  | none => map
  | some l => (List.range 16).foldl (fun (m : Word) j =>
      if clusterCore cl (bitsOf map (4 * j + 3) (4 * j)) = c then setBits m (4 * j + 3) (4 * j) l else m) map

/-- The groups whose statistics a core holds become unconfigured (R412). -/
def loseGroups (s : State) (c : Nat) : State :=
  s.modCluster (clusterOf c) fun p =>
    { p with groups := ⟨p.groups.entries.map fun e =>
        (e.1, if statCore (clusterOf c) e.2 = c then { e.2 with state := 0, retry := none } else e.2)⟩ }

/-- The dirty lines of a core's homes that salvage writes poisoned. -/
def poisonedLines (s : State) (c : Nat) : Nat :=
  (s.homes.entries.filter fun e => servedBy s c e.1 && e.2.dirty && e.2.poison).length

/-- The module leaves every membership (R448, R450). -/
def leaveAll (s : State) : State :=
  s.memberships.entries.foldl (fun s e => dropRank s (BitVec.ofNat 4 e.1) e.2.self.toNat) s

/-- A core goes out of service, in the order of R448: new work, slots, pilot, salvage, homes. -/
def outOfService (failure tagsReadable : Bool) (s : State) (c : Nat) : State :=
  let s := s.modCore c fun r => if failure then { r with failed := true } else { r with fenced := true }
  let s := refuseTravellers (endRovers s c) c
  let s := killSlots failure s c
  let s := (List.range 6).foldl (clearBuf failure c) s
  let s := haltPilot failure (if failure then loseCore s c else s) c
  let n := poisonedLines s c
  let s := if tagsReadable then s else pushEvent s 2 c 0 0 0 0
  let s := moveHomes s (clusterOf c) (replaceCore s c) (!tagsReadable) (some c)
  let s := pushEvent (loseGroups s c) 8 c 0 0 0 n
  let s := if failure then pushEvent s 7 c 0 0 0 0 else s
  if tagsReadable then s else leaveAll s

/-- CORE_FAILED. -/
def execCoreFailed (core : Nat) (tagsReadable : Bool) (s : State) : Result :=
  deviceStep (fun s => if 1280 ≤ core || (s.coreOf core).failed then s else outOfService true tagsReadable s core) s

/-- FENCE_OFF. A core that is fenced off or has failed already stays as it is. -/
def execFenceOff (core : Nat) (s : State) : Result :=
  deviceStep (fun s => match takeUnit s core 0x186 with
    | none => s
    | some (v, t) =>
      if bitsOf v 13 12 = 1 && !linesBusy s (servedBy s (bitsOf v 10 0)) then
        (if fenceIllegal s core v then unitRefuses t core
         else unitDone (if t.inService (bitsOf v 10 0) then outOfService false true t (bitsOf v 10 0) else t) core)
      else s) s

/-! ## Return to service (R449) -/

/-- The bytes of a range forgotten: they read as zero. -/
def Memory.clear (m : Memory) (lo n : Nat) : Memory := ⟨m.cells.filter fun x => !(decide (lo ≤ x.1) && decide (x.1 < lo + n))⟩

/-- A scratchpad zeroed, with its poison cleared. -/
def zeroPad (s : State) (c : Nat) : State :=
  let lo := padAddr c 0
  notePad { s with mem := s.mem.clear lo (2 ^ 21)
                   poison := s.poison.filter fun g => !(decide (lo ≤ g) && decide (g < lo + 2 ^ 21)) } c 0 (2 ^ 21)

/-- Every slot of a core is left empty. -/
def emptySlots (s : State) (c : Nat) : State :=
  (List.range 8).foldl (fun s k =>
    (disownRequests (withdrawWait (forgetSlot s c k) c k) c k).setSlot c k Slot.blank) s

/-- RETURN_TO_SERVICE. -/
def execReturnToService (core : Nat) (s : State) : Result :=
  deviceStep (fun s => match takeUnit s core 0x186 with
    | none => s
    | some (v, t) =>
      let d := bitsOf v 10 0
      if bitsOf v 13 12 = 2 then
        (if fenceIllegal s core v then unitRefuses t core
         else unitDone (placementPass (emptySlots (zeroPad (t.modCore d fun r => { r with fenced := false }) d) d)) core)
      else s) s

end Sys2Proof.Machine
end

