-- ==== Sys2Proof/Machine/Units.lean ====
section
/-!
DEFINITION. Units that the pilot drives through its system registers: write-back and invalidation at the homes (R284), the
stack sequencers (R332, R333, R335), membership tables and their routes (R409–R411, R426).
-/

namespace Sys2Proof.Machine

/-! ## Home write-back-invalidate (R284) -/

/-- A length that wbirun refuses. -/
def wbirunIllegal (v : Word) : Bool := v.toNat % 32 != 0 || !within 32 (2 ^ 41) v.toNat

/-- A line lies in the range of a run. -/
def inRun (lo n line : Nat) : Bool := decide (lo ≤ line * 32) && decide (line * 32 < lo + n)

/-- WBIRUN: every home line of the range is written back if dirty and invalidated. It waits while a sequence holds the bank
of one (R337). -/
def execWbirun (core : Nat) (s : State) : Result :=
  .next (match takeUnit s core 0x101 with
    | none => s
    | some (v, t) =>
      let p := inRun (s.coreOf core).wbiaddr.toNat v.toNat
      if linesBusy s p then s
      else
        let (n, t) := evictWhere t p
        unitDone (t.modCore core fun r => { r with wbistat := BitVec.ofNat 32 (min n (2 ^ 32 - 1)) }) core)

/-! ## Stack sequencers (R332, R333, R335) -/

def sqStack (r : Core) : Nat := bitsOf r.sqsel 9 6
def sqPch (r : Core) : Nat := bitsOf r.sqsel 5 0

/-- The selected pseudo-channel of a core's pilot. -/
def selectedPch (s : State) (core : Nat) : Pch := s.pchOf (sqStack (s.coreOf core)) (sqPch (s.coreOf core))

/-- A window that sqwin refuses. -/
def sqwinIllegal (v : Word) : Bool := decide (bitsOf v 48 32 < bitsOf v 16 0)

/-- A configuration write to a pseudo-channel: to the shadow while it runs a sequence. -/
def configurePch (s : State) (core : Nat) (running idle : Pch → Pch) : State :=
  let p := selectedPch s core
  s.setPch (sqStack (s.coreOf core)) (sqPch (s.coreOf core)) (if p.running.isSome then running p else idle p.applyShadow)

/-- SQWIN. -/
def execSqwin (core : Nat) (s : State) : Result :=
  .next (match takeUnit s core 0x111 with
    | none => s
    | some (v, s) =>
      let lo := BitVec.ofNat 17 (bitsOf v 16 0)
      let hi := BitVec.ofNat 17 (bitsOf v 48 32)
      unitDone (configurePch s core (fun p => { p with shadowWin := some (lo, hi) })
        fun p => { p with rowlo := lo, rowhi := hi }) core)

/-- SQOFF. -/
def execSqoff (core : Nat) (s : State) : Result :=
  .next (match takeUnit s core 0x112 with
    | none => s
    | some (v, s) =>
      let off := BitVec.ofNat 17 (bitsOf v 16 0)
      unitDone (configurePch s core (fun p => { p with shadowOff := some off }) fun p => { p with rowoff := off }) core)

/-- SQREL. -/
def execSqrel (core : Nat) (s : State) : Result :=
  .next (match takeUnit s core 0x114 with
    | none => s
    | some (_, s) => unitDone (releasePch s (sqStack (s.coreOf core)) (sqPch (s.coreOf core))) core)

/-! ## Membership (R409–R411, R426) -/

/-- The context and the rank that mbsel selects. -/
def mbTag (s : State) (core : Nat) : BitVec 4 := BitVec.ofNat 4 (bitsOf (s.coreOf core).mbsel 3 0)
def mbRank (s : State) (core : Nat) : Nat := bitsOf (s.coreOf core).mbsel 31 16

/-- A launch of a context is queued or placed. -/
def contextInUse (s : State) (ctag : BitVec 4) : Bool :=
  s.queued.any (fun q => q.record.ctag == ctag) || s.placed.any fun p => p.record.ctag == ctag

/-- A collective instance of a context is in flight. -/
def instanceInFlight (s : State) (ctag : BitVec 4) : Bool :=
  s.colls.any fun x => x.ctag == ctag && (x.current.own.isSome || !x.current.leaves.isEmpty)

/-- Another valid context holds the same membership identifier. -/
def midTaken (s : State) (ctag : BitVec 4) (mid : Nat) : Bool :=
  s.memberships.entries.any fun e => e.1 != ctag.toNat && e.2.valid && e.2.mid.toNat == mid

/-- A value that mbself refuses. -/
def mbselfIllegal (s : State) (core : Nat) (v : Word) : Bool :=
  let ctag := mbTag s core
  (bitAt v 63 && (bitsOf v 31 16 == 0 || decide (bitsOf v 31 16 ≤ bitsOf v 15 0) || midTaken s ctag (bitsOf v 47 32)))
    || contextInUse s ctag || instanceInFlight s ctag

/-- mbself written: no rank is removed any more. -/
def setMembership (s : State) (core : Nat) (v : Word) : State :=
  let ctag := mbTag s core
  let m : Membership :=
    { s.memberOf ctag with
      valid := bitAt v 63, mid := BitVec.ofNat 16 (bitsOf v 47 32), n := BitVec.ofNat 16 (bitsOf v 31 16)
      self := BitVec.ofNat 16 (bitsOf v 15 0), removed := [] }
  { s with memberships := s.memberships.set ctag.toNat m }

/-- mbself as read. -/
def membershipWord (m : Membership) : Word :=
  BitVec.ofNat 64 (m.self.toNat + m.n.toNat * 2 ^ 16 + m.mid.toNat * 2 ^ 32 + (if m.valid then 2 ^ 63 else 0))

/-- MBSELF: the write of SYSWR, as a step of its own. -/
def execMbself (core : Nat) (value : BitVec 64) (s : State) : Result :=
  .next (if mbselfIllegal s core value then s else setMembership s core value)

/-- A rank beyond the membership has no route. -/
def mbrouteIllegal (s : State) (core : Nat) : Bool := decide ((s.memberOf (mbTag s core)).n.toNat ≤ mbRank s core)

/-- mbroute written: a route set may change at any time, and new requests to the rank wait for those that are out (R411). -/
def setRoute (s : State) (core : Nat) (v : Word) : State :=
  let ctag := mbTag s core
  let s := holdRanks s fun t r => t == ctag && r == mbRank s core
  let m := s.memberOf ctag
  { s with memberships := s.memberships.set ctag.toNat { m with routes := m.routes.set (mbRank s core) (v.truncate 32) } }

/-- mbroute as read: the route set, and the removed bit. -/
def routeWord (m : Membership) (r : Nat) : Word :=
  BitVec.ofNat 64 ((m.routes.get 0 r).toNat + (if m.removed.contains r then 2 ^ 62 else 0))

/-- MBROUTE: the write of SYSWR, as a step of its own. -/
def execMbroute (core : Nat) (value : BitVec 64) (s : State) : Result :=
  .next (if mbrouteIllegal s core then s else setRoute s core value)

/-- A value that memdrop refuses (R413). -/
def memdropIllegal (s : State) (core : Nat) (v : Word) : Bool :=
  let m := s.memberOf (mbTag s core)
  bitsOf v 63 16 != 0 || !m.valid || decide (m.n.toNat ≤ bitsOf v 15 0)

/-- MEMDROP. -/
def execMemdrop (core : Nat) (s : State) : Result :=
  .next (match takeUnit s core 0x179 with
    | none => s
    | some (v, s) => if memdropIllegal s core v then unitRefuses s core
        else unitDone (dropRank s (mbTag s core) (bitsOf v 15 0)) core)

end Sys2Proof.Machine
end

