-- ==== Sys2Proof/Machine/Host.lean ====
section
/-!
DEFINITION. The host attachment (R398–R403): launches submitted through BAR0, the management queue, environment calls of
host processes, and CXL accesses to HBM and to host memory held at a home.
-/

namespace Sys2Proof.Machine

/-! ## BAR0 (R402) -/

/-- The ready flag is set (R402, R455). -/
def isReady (s : State) : Bool := bitAt s.ready 0

/-- An address that lqsub and hlqsub refuse, and a number that lqdel and hlqdel refuse (R359). -/
def lqsubIllegal (v : Word) : Bool := bitsOf v 6 0 != 0 || bitsOf v 63 52 != 0
def lqdelIllegal (v : Word) : Bool := bitsOf v 63 32 != 0

/-- The oldest value written to hlqsub is acted on, unless the step has to wait for its tables. -/
def hostSubmit (s : State) : Result :=
  deviceStep (fun s => match s.hlqReqs with
    | [] => s
    | v :: rest =>
      let s := { s with hlqReqs := rest }
      if lqsubIllegal v then { s with hlqstat := 2 } else let (st, s) := submitQueued s v.toNat; { s with hlqstat := st }) s

/-- HLQSUB: ignored before ready (R455), and with a value that breaks R359. -/
def execHlqsub (value : BitVec 64) (s : State) : Result :=
  if isReady s then hostSubmit { s with hlqReqs := s.hlqReqs ++ [value] } else .next s

/-- HLQDEL. -/
def execHlqdel (value : BitVec 64) (s : State) : Result :=
  .next (
    if !isReady s then s
    else if lqdelIllegal value then { s with hlqstat := 2 }
    else let (st, s) := withdraw s (value.truncate 32); { s with hlqstat := st })

/-- MQPOP: the host's read of it returns the record's doubleword 0; with the queue empty it returns 0, and the latch stays. -/
def execMqpop (s : State) : Result :=
  .next (match s.mgmt with
    | [] => { s with barData := 0 }
    | r :: rest => { s with mgmt := rest, mgmtLatch := r, barData := r.d0 })

/-- MGMT_QUEUE_ENQUEUE: the record that has waited longest enters when a place is free. -/
def execMgmtQueueEnqueue (s : State) : Result :=
  .next (match s.mgmtWaiting with
    | [] => s
    | r :: rest => if s.mgmt.length < 64 then { s with mgmt := s.mgmt ++ [r], mgmtWaiting := rest } else s)

/-! ## Environment calls of host processes (R403) -/

/-- The 64 bytes of a call's record. -/
def callBytes (q : EnvCall) : Nat :=
  q.record.d0.toNat + q.record.d1.toNat * 2 ^ 64 + q.record.d2.toNat * 2 ^ 128 + q.record.d3.toNat * 2 ^ 192
    + (q.pasid.toNat + q.core * 2 ^ 32 + q.slot * 2 ^ 48) * 2 ^ 256

/-- The ring has room for a record. -/
def ringRoom (s : State) : Bool :=
  s.ecsize != 0 && decide ((s.ectail - s.echead).toNat < s.ecsize.toNat)

/-- ENV_CALL_RECORD: the oldest call not yet in the ring is written there, and then ectail moves on. The call of a docked
thread waits until the thread has a slot. -/
def execEnvCallRecord (s : State) : Result :=
  deviceStep (fun s => match s.envCalls.find? fun q => !q.written && decide (q.slot < 8) with
    | none => s
    | some q =>
      if ringRoom s then
        let s := tableWrite s (s.ecbase.toNat + 64 * (s.ectail.toNat % s.ecsize.toNat)) 64 (callBytes q) false
        { s with ectail := s.ectail + 1
                 envCalls := s.envCalls.map fun x => if x = q then { x with written := true } else x }
      else s) s

/-- The core and the slot that a slot word names (R249). -/
def wordCore (w : Word) : Nat := coreAt (bitsOf w 6 0) (bitsOf w 10 7)
def wordSlot (w : Word) : Nat := bitsOf w 13 11

/-- A malformed slot word (R249). -/
def slotWordBad (w : Word) (capAllowed noPilot : Bool) : Bool :=
  bitsOf w 63 15 != 0 || decide (79 < bitsOf w 6 0) || (bitAt w 14 && !(capAllowed && wordSlot w == 0))
    || (noPilot && wordSlot w == 7)

/-- A slot that waits on the answer to its call. -/
def awaitsHost (s : State) (c k : Nat) : Bool := (s.slotOf c k).status == .trapped && (s.slotOf c k).envCall

/-- ECANS: a slot word that names no slot waiting on a call is ignored. g1 takes ecval, and the slot resumes past its call; that the PC moves on once is DEDUCED (log entry 52). -/
def execEcans (value : BitVec 64) (s : State) : Result :=
  .next (
    let c := wordCore value
    let k := wordSlot value
    if !slotWordBad value false false && awaitsHost s c k then
      (actsOn s c k).foldl (fun s j => makeRunnable (returnFromTrap (s.modSlot c j fun x => x.writeG 1 s.ecval) c j true) c j) s
    else s)

/-! ## The register block (R402) -/

/-- What the host's read of a register returns; write-only registers and offsets that are not listed read zero. -/
def barValue (s : State) (offset : Nat) : Word :=
  match offset with
  | 0x0000 => 0x01280A01
  | 0x0008 => s.ready
  | 0x0018 => zeroExt s.hlqstat
  | 0x0108 => s.mgmtLatch.d1
  | 0x0110 => s.mgmtLatch.d2
  | 0x0118 => s.mgmtLatch.d3
  | 0x0200 => s.ecbase
  | 0x0208 => zeroExt s.ecsize
  | 0x0210 => s.ectail
  | 0x0218 => s.echead
  | 0x0220 => s.ecval
  | _ => 0

/-- The host reads the register block. -/
def barRead (offset : Nat) (s : State) : Result :=
  if offset = 0x0100 then execMqpop s else .next { s with barData := barValue s offset }

/-- The host writes the register block; offsets that are not listed, and read-only registers, ignore it. -/
def barWrite (offset : Nat) (v : Word) (s : State) : Result :=
  match offset with
  | 0x0010 => execHlqsub v s
  | 0x0020 => execHlqdel v s
  | 0x0200 => .next { s with ecbase := v &&& ~~~0x3F }
  | 0x0208 => .next { s with ecsize := v.truncate 16 }
  | 0x0218 => .next { s with echead := v }
  | 0x0220 => .next { s with ecval := v }
  | 0x0228 => execEcans v s
  | _ => .next s

/-! ## CXL.mem (R399, R401, R435, R455) -/

/-- A line of HBM that the host reaches. -/
def hostReaches (s : State) (pa : Nat) : Bool := isReady s && decide (pa < 2 ^ 41)

/-- CXL_MEM_READ: the line is read at its home under HOMED; one that the host caches is in the home's snoop filter. Before
ready the host receives poisoned data, of which the bits are open (R455; log entry 7). -/
def execCxlMemRead (pa : BitVec 52) (cached : Bool) (s : State) : Result :=
  .next (
    if !isReady s then
      { s with cxlData := BitVec.ofNat 256 (freeWords s.free 4), cxlPoison := true, free := s.free + 4 }
    else if !hostReaches s pa.toNat || arrayBlocked s .homed pa.toNat then s
    else
      let (l, s) := homeLine s pa.toNat true
      let s := { s with cxlData := l.data, cxlPoison := l.poison }
      if cached then { s with hostLines := insertSorted (pa.toNat / 32) s.hostLines } else s)

/-- The bytes of a line that a write enables. -/
def enabledBytes (old : Nat) (data : BitVec 256) (enable : BitVec 32) : Nat :=
  (List.range 32).foldl (fun (acc : Nat) i =>
    acc + (if bitAt enable i then data.toNat else old) / 2 ^ (8 * i) % 256 * 2 ^ (8 * i)) 0

/-- CXL_MEM_WRITE: one event at the line's home; a write of the whole line clears its poison. -/
def execCxlMemWrite (pa : BitVec 52) (data : BitVec 256) (enable : BitVec 32) (s : State) : Result :=
  .next (
    let a := pa.toNat / 32 * 32
    if !hostReaches s a || arrayBlocked s .homed a then s
    else
      let (l, s) := homeLine s a true
      let l := { data := BitVec.ofNat 256 (enabledBytes l.data.toNat data enable), dirty := true
                 poison := l.poison && enable != BitVec.allOnes 32 : HomeLine }
      let s := { s with homes := s.homes.set (a / 32) l }
      (List.range 4).foldl (fun s i =>
        if bitsOf enable (8 * i + 7) (8 * i) = 0 then s else noteGlobal s (a + 8 * i) 8) s)

/-! ## CXL.cache (R399, R400) -/

/-- HOST_SNOOP: a line of host memory held at its home goes back to the host, which may then write it. -/
def execHostSnoop (pa : BitVec 52) (data : BitVec 256) (write : Bool) (s : State) : Result :=
  .next (
    let a := pa.toNat / 32 * 32
    if !isHost a then s
    else
      let (_, s) := evictLine s (a / 32)
      if write then noteGlobal (s.engineStore a 32 data.toNat false) a 32 else s)

/-- BACK_INVALIDATE_RESPONSE: the host holds the line no longer, and the write that waits is performed at its next try. -/
def execBackInvalidateResponse (pa : BitVec 52) (s : State) : Result :=
  .next { s with hostLines := s.hostLines.filter (fun l => l != pa.toNat / 32)
                 snoops := s.snoops.filter fun l => l != pa.toNat / 32 }

end Sys2Proof.Machine
end

