-- ==== Sys2Proof/Machine/SysReg.lean ====
section
/-!
DEFINITION. The pilot's system registers (R242–R244 and the registers of R284, R332, R335, R359, R376, R390, R394, R407,
R409, R413, R438, R441, R447, R458, R461): reading and writing each by number, the pops of the trap queue and the event
queue, and the loop control.
-/

namespace Sys2Proof.Machine

/-! ## Pops (R390, R441) -/

/-- The oldest trap record popped into the core's latch: its doubleword 0. With the queue empty 0, and the latch stays. -/
def popTrap (s : State) (c : Nat) : Word × State :=
  match (s.coreOf c).traps with
  | [] => (0, s)
  | r :: rest => (r.d0, s.modCore c fun x => { x with traps := rest, trapLatch := r })

/-- TRPOP. -/
def execTrpop (core : Nat) (s : State) : Result := .next (popTrap s core).2

/-- The oldest event popped into the core's event latch. -/
def popEvent (s : State) (c : Nat) : Word × State :=
  match s.events with
  | [] => (0, s)
  | r :: rest => (r.d0, { s with events := rest }.modCore c fun x => { x with eventLatch := r })

/-- EVPOP. -/
def execEvpop (core : Nat) (s : State) : Result := .next (popEvent s core).2

/-! ## Loop control (R458) -/

/-- Every cluster at its nominal voltage and clock. -/
def nominalClocks (s : State) : State :=
  (List.range 80).foldl (fun s cl => s.modCluster cl fun p => { p with mhz := 1250, mv := 400 }) s

/-- loopctl written: disabling the voltage and clock loop returns every cluster to nominal. -/
def setLoops (s : State) (v : Word) : State :=
  let s := { s with loopctl := v.truncate 4 }
  if bitAt v 0 then s else nominalClocks s

/-- LOOPCTL: the write of SYSWR, as a step of its own. -/
def execLoopctl (_core : Nat) (value : BitVec 64) (s : State) : Result := .next (setLoops s value)

/-! ## Reading -/

/-- slotstate (R40). -/
def slotstate (s : State) (c : Nat) : Word :=
  BitVec.ofNat 64 ((List.range 8).foldl (fun acc k => acc + (s.slotOf c k).status.code * 2 ^ (4 * k)) 0)

/-- dockmap (R243). -/
def dockmap (r : Core) : Word := BitVec.ofNat 64 (r.dock.foldl (fun acc d => acc + 2 ^ d.entry) 0)

/-- A launch is queued, placed or in the history (R438). -/
def launchKnown (s : State) (lid : BitVec 32) : Bool :=
  s.queued.any (fun q => q.record.lid == lid) || (findPlaced s lid).isSome || s.history.contains lid.toNat

/-- lerr (R438). -/
def lerr (s : State) (lid : BitVec 32) : Word :=
  if launchKnown s lid then BitVec.ofNat 64 ((s.errWords.get 0 lid.toNat).toNat + 16) else 0

/-- sqwin and sqoff read back the latest value written (R332). -/
def sqwinWord (p : Pch) : Word :=
  let (lo, hi) := p.shadowWin.getD (p.rowlo, p.rowhi)
  BitVec.ofNat 64 (lo.toNat + hi.toNat * 2 ^ 32)
def sqoffWord (p : Pch) : Word := zeroExt (p.shadowOff.getD p.rowoff)

/-- sqstat (R332). -/
def sqstat (p : Pch) : Word :=
  BitVec.ofNat 64 ((if p.running.isSome then 2 else if p.allBank then 1 else 0) + (if p.shadowed then 2 ^ 8 else 0)
    + p.owner.toNat * 2 ^ 16)

/-- clstat (R458). -/
def clstat (p : Cluster) : Word :=
  BitVec.ofNat 64 (p.mhz % 2 ^ 16 + p.mv % 2 ^ 9 * 2 ^ 16 + p.celsius % 2 ^ 8 * 2 ^ 32 + (if p.held then 2 ^ 40 else 0))

/-- A lifetime record: what is committed and what came since, saturated (R461). -/
def lifeval (s : State) (idx : Nat) : Word :=
  BitVec.ofNat 64 (min ((s.life.get 0 idx).toNat + (s.lifeRecent.get 0 idx).toNat) (2 ^ 64 - 1))

/-- A value of a register of a cluster whose number, above 79, names none: the spec states none (log entry 53). -/
def clusterReg (s : State) (cl : Nat) (f : Cluster → Word) : Word × State :=
  if cl < 80 then (f (s.clusterAt cl), s) else s.draw

/-- The registers that a read leaves as they are (`none`: unassigned, or read in `sysRead`). A write-only register reads as
zero (R10). -/
def plainReg (s : State) (c n : Nat) : Option Word :=
  let r := s.coreOf c
  let p := s.clusterAt (clusterOf c)
  match n with
  | 0x000 => some (slotstate s c)
  | 0x001 => some (BitVec.ofNat 64 ((if r.efrz then 1 else 0) + (if r.bhalt then 2 else 0)))
  | 0x002 => some (zeroExt r.spawnctl)
  | 0x003 => some (BitVec.ofNat 64 r.deferred.length)
  | 0x004 => some (zeroExt r.dockspill)
  | 0x005 => some (dockmap r)
  | 0x100 => some (zeroExt r.wbiaddr)
  | 0x101 | 0x114 | 0x120 | 0x122 | 0x132 | 0x133 | 0x179 | 0x186 => some 0
  | 0x102 => some (zeroExt r.wbistat)
  | 0x110 => some (zeroExt r.sqsel)
  | 0x111 => some (sqwinWord (selectedPch s c))
  | 0x112 => some (sqoffWord (selectedPch s c))
  | 0x113 => some (sqstat (selectedPch s c))
  | 0x121 => some (zeroExt r.lqstat)
  | 0x123 => some (zeroExt p.tqbase)
  | 0x124 => some (zeroExt p.tqsize)
  | 0x125 => some (BitVec.ofNat 64 (p.bank.length + p.ring.length * 2 ^ 16))
  | 0x130 => some (zeroExt r.ctxsel)
  | 0x131 => some (zeroExt (((p.contexts.find? r.ctxsel.toNat).map fun x => x.desc).getD 0))
  | 0x141 => some r.trapLatch.d1
  | 0x142 => some r.trapLatch.d2
  | 0x143 => some r.trapLatch.d3
  | 0x150 | 0x151 | 0x152 | 0x153 | 0x154 | 0x155 | 0x156 => some (vget r.fold 0 (n - 0x150))
  | 0x160 | 0x161 | 0x162 | 0x163 | 0x164 | 0x165 | 0x166 | 0x167 | 0x168 | 0x169 | 0x16A | 0x16B | 0x16C | 0x16D
  | 0x16E | 0x16F => some (s.apertures.get 0 (n - 0x160))
  | 0x170 => some (zeroExt r.gsel)
  | 0x171 | 0x172 | 0x173 | 0x174 | 0x175 | 0x176 | 0x177 | 0x178 =>
    some ((p.groups.get Group.blank r.gsel.toNat).gent (n - 0x171))
  | 0x180 => some (zeroExt r.lesel)
  | 0x181 => some (lerr s r.lesel)
  | 0x183 => some r.eventLatch.d1
  | 0x184 => some r.eventLatch.d2
  | 0x185 => some (zeroExt s.evnote)
  | 0x187 => some (zeroExt r.hmsel)
  | 0x190 => some (zeroExt s.loopctl)
  | 0x191 => some (zeroExt s.scrubPeriod)
  | 0x192 => some (zeroExt r.clsel)
  | 0x194 => some (zeroExt r.lifesel)
  | 0x195 => some (lifeval s r.lifesel.toNat)
  | 0x1A0 => some (zeroExt r.mbsel)
  | 0x1A1 => some (membershipWord (s.memberOf (mbTag s c)))
  | 0x1A2 => some (routeWord (s.memberOf (mbTag s c)) (mbRank s c))
  | _ => none

/-- System register `n` read by the pilot of core `c`. -/
def sysRead (s : State) (c n : Nat) : Option (Word × State) :=
  match n with
  | 0x140 => some (popTrap s c)
  | 0x182 => some (popEvent s c)
  | 0x188 => some (clusterReg s (s.coreOf c).hmsel.toNat fun p => p.hmap)
  | 0x193 => some (clusterReg s (s.coreOf c).clsel.toNat clstat)
  | n => (plainReg s c n).map fun v => (v, s)

/-- sysrd (R242). -/
def execSysrd (rd : BitVec 6) (n : BitVec 12) (s : State) : Result :=
  .next (issue (.sysrd rd n) s fun s =>
    match sysRead s s.core n.toNat with
    | none => trapHere s .illegalOperand
    | some (v, t) => writeNext rd v s t)

/-! ## Writing -/

/-- What a write comes to: refused, performed at once, or handed to a unit. -/
inductive SysWrite where
  | illegal
  | now (s : State)
  | unit

/-- A write that is refused on some values. -/
def refusing (bad : Bool) (w : SysWrite) : SysWrite := if bad then .illegal else w

/-- Reserved bits of a register with the fields of a mask ignore the write (R11). -/
def masked (v mask : Word) : Word := v &&& mask

/-- The bits of lerr that a write clears (R438). -/
def clearErr (s : State) (lid : BitVec 32) (v : Word) : State :=
  if launchKnown s lid then
    { s with errWords := s.errWords.set lid.toNat (s.errWords.get 0 lid.toNat &&& ~~~(v.truncate 4)) }
  else s

/-- A write to gent1–gent6, complete when the unit has replied. -/
def writeGent (s : State) (c n : Nat) (v : Word) : SysWrite :=
  let cl := clusterOf c
  let gi := (s.coreOf c).gsel.toNat
  let g := s.groupOf cl gi
  refusing (gentIllegal g n v)
    (.now (answerNone false (s.setGroup cl gi (g.setGent n v))))

/-- System register `n` written by the pilot of core `c`. -/
def sysWrite (s : State) (c n : Nat) (v : Word) : SysWrite :=
  let r := s.coreOf c
  let cl := clusterOf c
  let p := s.clusterAt cl
  let core := fun (f : Core → Core) => SysWrite.now (s.modCore c f)
  match n with
  | 0x001 => core fun r => { r with efrz := bitAt v 0, bhalt := bitAt v 1 }
  | 0x002 => core fun r => { r with spawnctl := v.truncate 7 }
  | 0x004 => refusing (bitsOf v 5 0 != 0 || bitsOf v 63 52 != 0) (core fun r => { r with dockspill := v.truncate 52 })
  | 0x100 => refusing (bitsOf v 4 0 != 0 || bitsOf v 63 52 != 0) (core fun r => { r with wbiaddr := v.truncate 52 })
  | 0x101 => refusing (wbirunIllegal v) .unit
  | 0x110 => core fun r => { r with sqsel := v.truncate 10 }
  | 0x111 => refusing (sqwinIllegal v) .unit
  | 0x112 => .unit
  | 0x114 => refusing (v != 1) .unit
  | 0x120 => refusing (lqsubIllegal v) .unit
  | 0x122 => refusing (lqdelIllegal v) .unit
  | 0x123 => refusing (!p.ring.isEmpty)
      (.now (s.modCluster cl fun p => { p with tqbase := (masked v 0xFFFFFFFFFFFC0).truncate 52, ringHead := 0 }))
  | 0x124 => refusing (!p.ring.isEmpty) (.now (s.modCluster cl fun p => { p with tqsize := v.truncate 24, ringHead := 0 }))
  | 0x130 => core fun r => { r with ctxsel := v.truncate 4 }
  | 0x131 => refusing (bitsOf v 5 0 != 0 || bitsOf v 63 52 != 0) .unit
  | 0x132 => refusing (tlbinvIllegal v) .unit
  | 0x133 => refusing (bitsOf v 63 32 != 0) .unit
  | 0x150 | 0x151 | 0x152 | 0x153 | 0x154 | 0x155 | 0x156 =>
    core fun r => { r with fold := vset r.fold (n - 0x150) (masked v 0x8000FFFF000007FF) }
  | 0x160 | 0x161 | 0x162 | 0x163 | 0x164 | 0x165 | 0x166 | 0x167 | 0x168 | 0x169 | 0x16A | 0x16B | 0x16C | 0x16D
  | 0x16E | 0x16F => .now { s with apertures := s.apertures.set (n - 0x160) (masked v 0x800FFE000000FFFF) }
  | 0x170 => core fun r => { r with gsel := v.truncate 6 }
  | 0x171 => refusing (gentIllegal (p.groups.get Group.blank r.gsel.toNat) 0 v) .unit
  | 0x172 | 0x173 | 0x174 | 0x175 | 0x176 | 0x177 => writeGent s c (n - 0x171) v
  | 0x179 => refusing (memdropIllegal s c v) .unit
  | 0x180 => core fun r => { r with lesel := v.truncate 32 }
  | 0x181 => .now (clearErr s r.lesel v)
  | 0x185 => refusing (decide (1279 < bitsOf v 10 0)) (.now { s with evnote := v.truncate 11 })
  | 0x186 => refusing (fenceIllegal s c v) .unit
  | 0x187 => core fun r => { r with hmsel := v.truncate 7 }
  | 0x188 => refusing (decide (r.hmsel.toNat < 80) && hmapIllegal s r.hmsel.toNat v) .unit
  | 0x190 => .now (setLoops s v)
  | 0x192 => core fun r => { r with clsel := v.truncate 7 }
  | 0x194 => core fun r => { r with lifesel := v.truncate 16 }
  | 0x1A0 => core fun r => { r with mbsel := (masked v 0xFFFF000F).truncate 32 }
  | 0x1A1 => refusing (mbselfIllegal s c v) (.now (setMembership s c v))
  | 0x1A2 => refusing (mbrouteIllegal s c) (.now (setRoute s c v))
  | _ => .illegal

/-- A write handed to its unit: the pilot waits for its reply (R40). -/
def postUnit (s : State) (n : Nat) (v : Word) : State :=
  { awaitReply (endReservation s s.core s.slot) none false with unitReqs := s.unitReqs ++ [⟨s.core, n, v⟩] }

/-- syswr (R242). A register that no write may reach is refused with those that are not assigned. A write that a unit has
answered in the same step leaves the pilot waiting for its reply. -/
def execSyswr (ra : BitVec 6) (n : BitVec 12) (s : State) : Result :=
  .next (issue (.syswr ra n) s fun s =>
    match sysWrite s s.core n.toNat (gval s ra) with
    | .illegal => trapHere s .illegalOperand
    | .unit => postUnit s n.toNat (gval s ra)
    | .now t => if t.me.waiting then t else doneNext t)

end Sys2Proof.Machine
end

