-- ==== Sys2Proof/Machine/System.lean ====
section
/-!
DEFINITION. The system instructions that any thread may issue, and the returns from traps: trap, brk and tret (R238, R239),
segld, ifence and chkerr (R245–R248), park and wake (R250, R251), messages and spawns (R254–R258), barriers (R255), the end
of a thread (R259) and task records (R260–R262).
-/

namespace Sys2Proof.Machine

/-! ## trap, brk, tret (R238, R239) -/

/-- trap: it waits as .rel, and then the thread traps with its code and value. -/
def execTrap (ra : BitVec 6) (imm : BitVec 12) (s : State) : Result :=
  .next (issue (.trap ra imm) s fun s =>
    if !releaseHolds s s.core s.slot then pollFor s .memoryWait .release
    else trapHere s .environmentCall (gval s ra) 0 imm.toNat)

/-- brk with dbgctl.bhalt = 1 retires, and its slot is halted. -/
def breakHalt (s : State) : State :=
  (doneNext (endReservation s s.core s.slot)).modMe fun x =>
    { x with status := .halted, haltPending := false, stepArmed := false }

def execBrk (n : BitVec 6) (s : State) : Result :=
  .next (issue (.brk n) s fun s =>
    if !releaseHolds s s.core s.slot then pollFor s .memoryWait .release
    else if s.myCore.bhalt then breakHalt s
    else trapHere s .breakpoint 0 0 n.toNat)

/-- A field ga that names a slot in 0–6 of the core. -/
def slotFieldBad (v : Word) : Bool := bitsOf v 63 3 != 0 || v == 7

/-- tret: the return from a trap, of both threads of a pair. -/
def execTret (ra : BitVec 6) (sk : BitVec 1) (s : State) : Result :=
  .next (issue (.tret ra sk) s fun s =>
    let v := gval s ra
    let k := v.toNat
    if slotFieldBad v then trapHere s .illegalOperand
    else if (s.slotOf s.core k).status != .trapped then trapHere s .state
    else doneNext ((actsOn s s.core k).foldl (fun s j => returnLater (returnFromTrap s s.core j (sk == 1)) s.core j) s))

/-! ## Segments (R34, R245, R246) -/

/-- A segment image that is malformed: bits 63:57 must be zero. -/
def segImageBad (q : Quad) : Bool := bitsOf q 63 57 != 0

/-- The reserved bit of a segment register reads as zero (R11, R34). -/
def segMask (q : Quad) : Quad := setBits q 121 121 0

/-- A segment register takes an image. In a pair the leading thread hands it on (R444). -/
def loadSegment (n : BitVec 3) (img : Nat) (poison : Bool) (s : State) : State :=
  let q : Quad := BitVec.ofNat 128 img
  if segImageBad q then trapHere s .illegalOperand
  else
    let s := handOn (handOn s ⟨q.extractLsb' 0 64, false, false⟩) ⟨q.extractLsb' 64 64, false, false⟩
    answerNone poison (s.modMe fun x => { x with sg := vset x.sg n.toNat (segMask q) })

/-- The trailing thread takes the image of the leading one. -/
def takeSegment (n : BitVec 3) (s : State) : State :=
  match takeMany 2 s with
  | .go l s =>
    let w := fun i => ((l.map fun e => e.val).getD i 0)
    doneNext (s.modMe fun x => { x with sg := vset x.sg n.toNat (segMask (w 1 ++ w 0)) })
  | .stop s => s

/-- segld: an entry of the launch's segment table. A thread of no launch has a table without entries. -/
def execSegld (n : BitVec 3) (ra : BitVec 6) (s : State) : Result :=
  deviceStep (issue (.segld n ra) · fun s =>
    let v := gval s ra
    match findPlaced s s.me.lid with
    | none => trapHere s .illegalOperand
    | some p =>
      if p.record.segn ≤ v.toNat || bitsOf v 63 16 != 0 then trapHere s .illegalOperand
      else
        let (d, poison, t) := tableRead s (p.record.segtab.toNat + 64 * v.toNat) 64
        let img := entryImage t s.me.ctag d
        if s.me.pair == .trailing && !segImageBad img then takeSegment n s
        else loadSegment n img.toNat poison t) s

/-- segld.img: an image in memory. -/
def execSegldImg (n : BitVec 3) (ra : BitVec 6) (s : State) : Result :=
  .next (issue (.segldImg n ra) s fun s => withBlock s (gval s ra) 16 16 fun v poison s => loadSegment n v poison s)

/-! ## ifence, chkerr (R247, R248) -/

/-- The lines of a context leave a core's instruction cache. -/
def invalidateCode (s : State) (c : Nat) (ctag : BitVec 4) : State :=
  s.modCore c fun r => { r with icache := ⟨r.icache.entries.filter fun e => e.1 / 2 ^ 50 != ctag.toNat⟩ }

def execIfence (s : State) : Result :=
  .next (issue .ifence s fun s => answerNone false (invalidateCode s s.core s.me.ctag))

/-- The bits of cir that a value reported, cleared: the thread's own, and those of its launch (R436). -/
def clearCir (v : Word) (s : State) : State :=
  let lid := s.me.lid.toNat
  let s := s.modMe fun x => { x with pois := x.pois && !bitAt v 0 }
  { s with errWords := s.errWords.set lid (s.errWords.get 0 lid &&& ~~~(BitVec.ofNat 4 (bitsOf v 4 1))) }

def execChkerr (rd : BitVec 6) (c : BitVec 1) (s : State) : Result :=
  .next (issue (.chkerr rd c) s fun s0 =>
    boundaryRead s0
      (fun s =>
        let v := ctxRead s s.core s.slot 12
        writeBoundary rd v false s0 (if c = 1 then clearCir v s else s))
      fun v s => writeNext rd v s (if c = 1 then s.modMe fun x => { x with pois := x.pois && !bitAt v 0 } else s))

/-! ## park and wake (R250, R251) -/

/-- An instruction of a pair that the leading thread makes for both: the trailing thread waits at it for that. -/
def forBoth (own : State → State) (s : State) : State :=
  outward [] s own fun s => leaveRotation s s.core s.slot .memoryWait .compare

/-- An action on the slots of the issuing thread: both of a pair. -/
def onBoth (f : State → Nat → State) (s : State) : State := (actsOn s s.core s.slot).foldl f s

/-- park: a q0 element, or for the pilot a trap record, that is there already lets it retire at once. -/
def execPark (ra : BitVec 6) (s : State) : Result :=
  .next (issue (.park ra) s fun s =>
    let v := gval s ra
    let qwake := bitAt v 32
    if bitsOf v 63 33 != 0 then trapHere s .illegalOperand
    else forBoth (fun s =>
      if (qwake && !s.me.q0.isEmpty) || (s.slot == 7 && !s.myCore.traps.isEmpty) then
        onBoth (fun s j => asSlot s s.core j doneNext) s
      else onBoth (fun s j =>
        (leaveRotation (endReservation s s.core j) s.core j .parked .nothing).modSlot s.core j fun x =>
          { x with park := .key (v.truncate 32) qwake, matched := false }) s) s)

/-- A parked slot matches a wake: the pilot's with any key, a user's with a park of its own launch. -/
def parkMatches (x : Slot) (key : BitVec 32) (pilot : Bool) (lid : BitVec 32) : Bool :=
  x.status == .parked && (match x.park with
    | .key k _ => k == key && (pilot || x.lid == lid)
    | .fault k => k == key && pilot
    | _ => false)

/-- wake of a slot: its status. -/
def wakeSlot (s : State) (d k : Nat) (key : BitVec 32) (pilot : Bool) (lid : BitVec 32) : Nat × State :=
  if parkMatches (s.slotOf d k) key pilot lid then (0, unpark s d k) else (1, s)

/-- The entry that a thread has taken is resent once its core has an outbound buffer. -/
def sendEntry (rd : BitVec 6) (q : Resend) (s : State) : State :=
  match freeFerry s q.core with
  | none => pollFor (endReservation s s.core s.slot) .memoryWait (.ferryRoom q.core)
  | some b =>
    let (st, s) := resendFrom (s.modMe fun x => { x with resend := none }) b q
    answer rd (BitVec.ofNat 64 st) false s

/-- wake of a harbour entry (R325): it is taken and read, and then waits for an outbound buffer. -/
def wakeEntry (rd : BitVec 6) (d : Nat) (key : Word) (s : State) : State :=
  if !releaseHolds s s.core s.slot then pollFor s .memoryWait .release
  else
    let s := needEntry s s.me.lid key
    match resendable s s.me.lid key with
    | none => answer rd 1 false s
    | some entry =>
      let (q, s) := takeEntry s d entry
      sendEntry rd q (s.modMe fun x => { x with resend := some q })

/-- wake of a slot or a parked capsule, or of a harbour entry, at a core in service. -/
def wakeAt (rd : BitVec 6) (d : Nat) (w key : Word) (s : State) : State :=
  let pilot := s.slot == 7
  if bitAt w 14 && bitAt key 31 then wakeEntry rd d key s
  else
    let (st, s) := if bitAt w 14 then wakeCapsule s d (key.truncate 32) pilot s.me.lid
      else wakeSlot s d (wordSlot w) (key.truncate 32) pilot s.me.lid
    answer rd (BitVec.ofNat 64 st) false s

/-- wake once its pair's threads agree. -/
def wakeOp (rd : BitVec 6) (w key : Word) (s : State) : State :=
  let d := (routeCore s s.core s.slot (wordCore w)).1
  match s.me.resend with
  | some q => sendEntry rd q s
  | none => if s.inService d then wakeAt rd d w key s else answer rd 2 false s

def execWake (rd ra rb : BitVec 6) (s : State) : Result :=
  deviceStep (issue (.wake rd ra rb) · fun s =>
    let w := gval s ra
    let key := gval s rb
    if slotWordBad w true false || bitsOf key 63 32 != 0 then trapHere s .illegalOperand
    else outward [w, key] s (wakeOp rd w key) (takeResult rd)) s

/-! ## Messages (R254, R256) -/

/-- send once its pair's threads agree: the element leaves for its target. -/
def sendOp (rd : BitVec 6) (w v : Word) (s : State) : State :=
  if !releaseHolds s s.core s.slot then pollFor s .memoryWait .release
  else
    let m : Message :=
      { core := s.core, slot := s.slot, dest := (routeCore s s.core s.slot (wordCore w)).1, destSlot := wordSlot w
        port1 := bitAt w 14, payload := { val := v }, pilot := s.slot == 7, lid := s.me.lid, waiting := false, device := false }
    { awaitReply (endReservation s s.core s.slot) (some rd) false with messages := s.messages ++ [m] }

def execSend (rd ra rb : BitVec 6) (s : State) : Result :=
  .next (issue (.send rd ra rb) s fun s =>
    let w := gval s ra
    if slotWordBad w true false then trapHere s .illegalOperand
    else outward [w, gval s rb] s (sendOp rd w (gval s rb)) (takeResult rd))

/-- Why a target refuses a message when it arrives (R254), if it does. A killed slot counts as empty (DEDUCED, log entry 146), and a
pilot slot, which runs no launch, is refused to a user thread (DESIGN CHOICE, log entry 159). -/
def refusesMessage (s : State) (m : Message) : Option Nat :=
  if !s.inService m.dest then some 2
  else if m.port1 then
    if m.pilot || (s.coreOf m.dest).slots.toList.any fun x => x.occupied && x.lid == m.lid then none else some 1
  else
    let x := s.slotOf m.dest m.destSlot
    if !x.occupied then some 1
    else if m.pilot || x.lid == m.lid then none else some 1

/-- The element's place: the port, the deferred inbox, or none yet. -/
def placeMessage (s : State) (m : Message) : Option State :=
  let port := if m.port1 then 1 else 0
  let slot := if m.port1 then 0 else m.destSlot
  let x := s.slotOf m.dest slot
  if !m.port1 && (x.status == .trapped || x.status == .halted) then
    if (s.coreOf m.dest).deferred.length < 16 then
      some (s.modCore m.dest fun r => { r with deferred := r.deferred ++ [(slot, m.payload)] })
    else none
  else if !m.port1 && (s.coreOf m.dest).deferred.any fun d => d.1 == slot then none
  else if portDepth port ≤ takenPlaces s m.dest slot port then none
  else some (portArrive s m.dest slot port m.payload)

/-- An earlier message waits at the same port. -/
def behindAnother (s : State) (k : Nat) (m : Message) : Bool :=
  let mine := (messagesWaiting s m.dest m.destSlot (if m.port1 then 1 else 0))
  if m.waiting then (s.messages.take k).any fun n => mine.contains n else !mine.isEmpty

/-- The sender is told; the device awaits no reply. -/
def messageReply (m : Message) (v : Word) (s : State) : State := if m.device then s else postReply s m.core m.slot v

/-- A message that waits and whose target has gone is lost (log entry 55). -/
def arriveMessage (k : Nat) (m : Message) (s : State) : State :=
  let gone := { s with messages := dropAt s.messages k }
  match refusesMessage s m with
  | some v => messageReply m (if m.waiting && v == 1 then 0 else BitVec.ofNat 64 v) gone
  | none =>
    let hold := if m.waiting then s else { gone with messages := gone.messages ++ [{ m with waiting := true }] }
    if behindAnother s k m then hold
    else match placeMessage gone m with
      | some s => messageReply m 0 s
      | none => hold

/-- MESSAGE_ARRIVAL. -/
def execMessageArrival (k : Nat) (s : State) : Result :=
  .next (match s.messages[k]? with
    | some m => arriveMessage k m s
    | none => s)

/-! ## Barriers (R255) -/

/-- bar: the fences, then the arrival. A register that refuses the number of members, which is known only at the release, traps its
thread then (DESIGN CHOICE, log entry 158). -/
def execBar (rd : BitVec 6) (lvl : BitVec 2) (s : State) : Result :=
  .next (issue (.bar rd lvl) s fun s =>
    let level := lvl.toNat
    outward [] s
      (fun s =>
        if !barrierReady s s.core s.slot level then pollFor s .memoryWait (.barrierFence level)
        else
          let s := endReservation s s.core s.slot
          releaseBarrier (leaveRotation s s.core s.slot .memoryWait (.barrier level rd)) s.me.lid level s.core)
      (takeResult rd))

/-! ## spawn (R257, R258) -/

/-- An inline call: the return address is pushed, the register gets 1 and the thread goes on at the child's PC; at a depth
of 8 it gets 2 and nothing is called. -/
def inlineCall (rd : BitVec 6) (pc : Word) (s : State) : State :=
  let x := s.me
  let v : Word := if x.inline.length < 8 then 1 else 2
  let t := handOn s ⟨v, false, false⟩
  if x.inline.length < 8 then writeTo rd v pc s (t.modMe fun y => { y with inline := (x.pc + 4) :: x.inline })
  else writeNext rd v s t

/-- The trailing thread does what the leading one did. -/
def followSpawn (rd : BitVec 6) (pc : Word) (s : State) : State :=
  match takeValue s with
  | .go v s => if v = 1 || v = 2 then inlineCall rd pc s else writeNext rd v s s
  | .stop s => s

/-- spawn once its pair's threads agree. -/
def spawnOp (rd : BitVec 6) (w pc : Word) (s : State) : State :=
  if !releaseHolds s s.core s.slot then pollFor s .memoryWait .release
  else
    let q : SpawnReq :=
      { core := s.core, slot := s.slot, dest := (routeCore s s.core s.slot (coreAt (scopeXmin w) (scopeYmin w))).1, pc := pc
        args := Vector.ofFn fun i => s.me.readG (10 + i.val) }
    { awaitReply (endReservation s s.core s.slot) (some rd) false with spawns := s.spawns ++ [q] }

def execSpawn (rd ra rb : BitVec 6) (s : State) : Result :=
  .next (issue (.spawn rd ra rb) s fun s =>
    let w := gval s ra
    let pc := gval s rb
    if scopeMalformed w || scopeLevel w != 3 || bitsOf pc 1 0 != 0 then trapHere s .illegalOperand
    else outward ([w, pc] ++ (List.range 4).map fun i => s.me.readG (10 + i)) s (spawnOp rd w pc) (followSpawn rd pc))

/-- The slot in which a target core starts the child, if it accepts. -/
def spawnPlace (s : State) (q : SpawnReq) : Option Nat :=
  let x := s.slotOf q.core q.slot
  match findPlaced s x.lid with
  | none => none
  | some p =>
    if p.cores.contains q.dest && s.inService q.dest && (s.coreOf q.dest).resident.any fun e => e.1 == p.record.ctag then
      (openSlots s q.dest).head?
    else none

/-- The child of a thread in slot `k` of a core. -/
def childOf (x : Slot) (q : SpawnReq) (k : Nat) : Slot :=
  { Slot.blank with
    pc := q.pc, g := (List.range 4).foldl (fun g i => vset g (10 + i) (vget q.args 0 i)) Slot.blank.g, lid := x.lid
    ctag := x.ctag, rank := x.rank, fmt := x.fmt, sca := x.sca, scb := x.scb, sg := x.sg
    srseed := x.srseed ^^^ BitVec.ofNat 32 (q.dest * 8 + k) }

/-- The register that a waiting slot's reply goes to. -/
def replyReg (x : Slot) : BitVec 6 :=
  match x.wait with
  | .reply (some rd) _ => rd
  | _ => 0

/-- SPAWN_ARRIVAL: the child starts, or the parent calls it inline; nothing starts where the register refuses the child's slot
word. -/
def execSpawnArrival (k : Nat) (s : State) : Result :=
  .next (match s.spawns[k]? with
    | none => s
    | some q =>
      let x := s.slotOf q.core q.slot
      let s := { s with spawns := dropAt s.spawns k }
      match spawnPlace s q with
      | some j =>
        let v : Word := BitVec.ofNat 64 (q.dest * 2 ^ 16 + j * 2 ^ 8)
        if resultRefused (replyReg x) v then takeTrap s q.core q.slot .illegalOperand 0 0 0
        else postReply (startThread s q.dest j (childOf x q j)) q.core q.slot v
      | none => asSlot s q.core q.slot (inlineCall (replyReg x) q.pc))

/-! ## quit (R259) -/

/-- The end of a thread, once its commands have completed. -/
def quitOp (s : State) : State :=
  if !releaseHolds s s.core s.slot then pollFor s .memoryWait .release
  else if !commandsDone s s.core s.slot then pollFor (endReservation s s.core s.slot) .engineWait .commandsDone
  else placementPass (onBoth (fun s j => endThread s s.core j) s)

/-- quit: a return at an inline depth above 0, else the end of the thread. -/
def execQuit (s : State) : Result :=
  deviceStep (issue .quit · fun s =>
    match s.me.inline with
    | ret :: rest => done (s.modMe fun x => { x with inline := rest }) ret
    | [] => forBoth quitOp s) s

/-! ## Task records (R260–R262, R369–R373) -/

/-- Access to 64 bytes of local space at an address that is a multiple of 64: where they are in the scratchpad. -/
def localBlock (s : State) (a : Word) (r w : Bool) : Cause ⊕ Nat :=
  match slotCheck s s.core s.slot a 64 r w false with
  | .bad c => .inl c
  | .ok .localPad p => if a.toNat % 64 != 0 then .inl .misaligned else .inr p
  | .ok _ _ => .inl .space

/-- The 64 bytes at an offset of a thread's local space: its own core's, or, of a rover that has moved, its origin core's by remote
accesses (R267), which answer poisoned zero from a core that is out of service (R285). -/
def localLoad (s : State) (off : Nat) : Option Bytes × State :=
  let d := padHome s.core s.me
  if d = s.core then let (v, p) := s.load (padAddr d off) 64; (some (v, if p then [0] else []), s)
  else bankTransfer s s.core s.slot d off 64 none

/-- The same, written; the answer says that it was not taken. No write of a record clears poison (R435). -/
def localStore (s : State) (off v : Nat) (poison : Bool) : Option Bool × State :=
  let d := padHome s.core s.me
  if d = s.core then (some false, padRmwStore s d off 64 v poison)
  else
    let (r, s) := bankTransfer s s.core s.slot d off 64 (some fun i m => (v / 2 ^ (8 * i) % 2 ^ (8 * m), poison))
    (r.map fun b => !b.2.isEmpty, s)

/-- A target of tsub that is refused. -/
def tsubTargetBad (v : Word) : Bool :=
  bitsOf v 63 8 != 0 || (!bitAt v 7 && bitsOf v 6 0 != 0) || (bitAt v 7 && decide (79 < bitsOf v 6 0))

/-- tsub once its pair's threads agree. -/
def tsubOp (rd : BitVec 6) (off : Nat) (target : Word) (s : State) : State :=
  if !releaseHolds s s.core s.slot then pollFor s .memoryWait .release
  else match localLoad s off with
  | (none, s) => pollFor (endReservation s s.core s.slot) .memoryWait .window
  | (some d, s) =>
    let s := dropAnswers s s.core s.slot
    let r : TaskRec := { data := BitVec.ofNat 512 d.1, poison := !d.2.isEmpty }
    let cl := if bitAt target 7 then bitsOf target 6 0 else clusterOf s.core
    if !taskOk r || r.lid != s.me.lid then answer rd 3 false s
    else let (st, s) := submitTask s cl r; answer rd (BitVec.ofNat 64 st) false s

/-- tsub. The fault of ga goes before that of gb (DEDUCED, log entry 129). -/
def execTsub (rd ra rb : BitVec 6) (s : State) : Result :=
  deviceStep (issue (.tsub rd ra rb) · fun s =>
    let a := gval s ra
    let target := gval s rb
    match localBlock s a true false with
      | .inl c => trapHere s c a
      | .inr off =>
        if tsubTargetBad target then trapHere s .illegalOperand
        else outward [a, target] s (tsubOp rd off target) (takeResult rd)) s

/-- The record that tget has taken goes to its place; a record read back poisoned poisons its receiver. -/
def placeTask (rd : BitVec 6) (off : Nat) (r : TaskRec) (s : State) : State :=
  match localStore s off r.data.toNat r.poison with
  | (none, s) => pollFor (endReservation s s.core s.slot) .memoryWait .window
  | (some lost, s) => answer rd 0 (r.poison || lost) (dropAnswers s s.core s.slot)

/-- The record that the tget in progress has taken, where the accesses that place it have been answered. -/
def takenTask (s : State) (a : Word) : Option TaskRec :=
  if s.peerData.any fun d => d.core == s.core && d.slot == s.slot then
    (s.outstanding.reverse.find? fun o => o.core == s.core && o.slot == s.slot && o.addr == a.toNat).map Outstanding.record
  else none

/-- tget: the oldest record of the thread's launch, if there is one. -/
def tgetOp (rd : BitVec 6) (a : Word) (off : Nat) (s : State) : State :=
  let lid := s.me.lid
  match takenTask s a, takeTask s (clusterOf s.core) fun r => r.lid == lid with
  | some r, _ => placeTask rd off r s
  | none, none => answer rd 1 false s
  | none, some (r, s) => placeTask rd off r { s with outstanding := s.outstanding ++ [⟨s.core, s.slot, a.toNat, lid, r⟩] }

def execTget (rd ra : BitVec 6) (s : State) : Result :=
  .next (issue (.tget rd ra) s fun s =>
    let a := gval s ra
    match localBlock s a false true with
    | .inl c => trapHere s c a
    | .inr off => outward [a] s (tgetOp rd a off) (takeResult rd))

/-- An effective address resolves through a local segment to an offset. -/
def resolvesTo (s : State) (a : Word) (off : Nat) : Bool :=
  let q := vget s.me.sg 0 (bitsOf a 63 61)
  bitAt q 127 && segSpace q == .localPad && decide (bitsOf a 60 0 ≤ bitsOf q 120 64)
    && bitsOf q 56 0 + bitsOf a 60 0 + slotRebase s s.core s.slot == off

/-- The address of tdone names an outstanding record of the thread. -/
def namesRecord (s : State) (a : Word) (o : Outstanding) : Bool :=
  o.core == s.core && o.slot == s.slot
    && (o.addr == a.toNat || (s.me.task != 0 && o.addr == s.me.task.toNat && resolvesTo s a o.addr))

/-- tdone once its pair's threads agree. -/
def tdoneOp (rd : BitVec 6) (a : Word) (s : State) : State :=
  if !releaseHolds s s.core s.slot then pollFor s .memoryWait .release
  else match s.outstanding.find? (namesRecord s a) with
    | some o => answer rd 0 false { s with outstanding := s.outstanding.erase o }
    | none => answer rd 1 false s

def execTdone (rd ra : BitVec 6) (s : State) : Result :=
  .next (issue (.tdone rd ra) s fun s => outward [gval s ra] s (tdoneOp rd (gval s ra)) (takeResult rd))

end Sys2Proof.Machine
end

