-- ==== Sys2Proof/Machine/Debug.lean ====
section
/-!
DEFINITION. The pilot's hold on the slots: reading and writing the registers of a stopped slot (R240, R241), and kill,
halt and cont (R252, R253).
-/

namespace Sys2Proof.Machine

/-! ## xrd and xwr (R240, R241) -/

/-- A selector that names a register. -/
def selectorOk (sel : Nat) : Bool :=
  decide (sel < 0x28) || within 0x30 0x41 sel || within 0x50 0x7F sel || within 0x80 0x83 sel || within 0x200 0x47F sel

/-- A word given to xrd or xwr that names no register. -/
def selectorBad (v : Word) : Bool := bitsOf v 63 11 != 0 || !selectorOk v.toNat

/-- The slot is trapped, halted or parked. -/
def Slot.stopped (x : Slot) : Bool := x.status == .trapped || x.status == .halted || x.status == .parked

/-- A doubleword of a quadword, and one replaced. -/
def quadHalf (q : Quad) (h : Nat) : Word := q.extractLsb' (64 * h) 64
def setHalf (q : Quad) (h : Nat) (v : Word) : Quad := setBits q (64 * h + 63) (64 * h) v.toNat

/-- The register of slot `k` that a selector names, as the pilot reads it. -/
def peek (s : State) (c k sel : Nat) : Word :=
  let x := s.slotOf c k
  if sel < 0x20 then (if sel = 0 then 0 else vget x.g 0 sel)
  else if sel < 0x28 then vget x.winG 0 (sel - 0x20)
  else if sel < 0x40 then ctxRead s c k (sel - 0x30)
  else if sel = 0x40 then x.pc
  else if sel = 0x41 then BitVec.ofNat 64 (x.latch.length % 32 + (if x.push.isSome then 32 else 0))
  else if sel < 0x60 then ((x.latch[sel - 0x50]?).map fun e => e.val).getD 0
  else if sel < 0x70 then quadHalf (segMask (vget x.sg 0 ((sel - 0x60) / 2))) (sel % 2)
  else if sel < 0x80 then quadHalf (vget x.ring 0 ((sel - 0x70) / 2)) (sel % 2)
  else if sel < 0x200 then vget x.m 0 (sel - 0x80)
  else if sel < 0x400 then vecWord (vget x.v 0 ((sel - 0x200) / 32)) (sel % 32)
  else vecWord (vget x.winV 0 ((sel - 0x400) / 32)) (sel % 32)

/-- xrd: in a pair the leading slot names the leading thread (R446). An illegal selector faults before a target that has not
stopped (DEDUCED, log entry 150). -/
def execXrd (rd ra rb : BitVec 6) (s : State) : Result :=
  .next (issue (.xrd rd ra rb) s fun s =>
    let k := gval s ra
    let sel := gval s rb
    if slotFieldBad k || selectorBad sel then trapHere s .illegalOperand
    else if !(s.slotOf s.core k.toNat).stopped then trapHere s .state
    else writeNext rd (peek s s.core k.toNat sel.toNat) s s)

/-- A register that no xwr may write: a read-only context register. -/
def selectorReadOnly (sel : Nat) : Bool := within 0x30 0x3F sel && isReadOnly (BitVec.ofNat 6 (48 + (sel - 0x30)))

/-- A value that a register refuses. -/
def pokeRefuses (sel : Nat) (v : Word) : Bool :=
  (within 0x30 0x3F sel && ctxRefuses (sel - 0x30) v) || (sel == 0x40 && bitsOf v 1 0 != 0) || (sel == 0x41 && v != 0)
    || (within 0x60 0x6F sel && sel % 2 == 0 && bitsOf v 63 57 != 0)

/-- A latch element replaced; beyond the count nothing is. -/
def setLatch (l : List Elem) (i : Nat) (v : Word) : List Elem := l.mapIdx fun j e => if j = i then { e with val := v } else e

/-- The register that a selector names, written. -/
def Slot.poke (x : Slot) (sel : Nat) (v : Word) : Slot :=
  if sel < 0x20 then (if sel = 0 then x else { x with g := vset x.g sel v })
  else if sel < 0x28 then { x with winG := vset x.winG (sel - 0x20) v }
  else if sel < 0x40 then x.ctxWrite (sel - 0x30) v
  else if sel = 0x40 then { x with pc := v }
  else if sel = 0x41 then { x with latch := [], push := none }
  else if sel < 0x60 then { x with latch := setLatch x.latch (sel - 0x50) v }
  else if sel < 0x70 then
    let n := (sel - 0x60) / 2
    { x with sg := vset x.sg n (segMask (setHalf (vget x.sg 0 n) (sel % 2) v)) }
  else if sel < 0x80 then
    let n := (sel - 0x70) / 2
    { x with ring := vset x.ring n (ringMask (setHalf (vget x.ring 0 n) (sel % 2) v)) }
  else if sel < 0x200 then { x with m := vset x.m (sel - 0x80) v }
  else if sel < 0x400 then
    let n := (sel - 0x200) / 32
    { x with v := vset x.v n (setVecWord (vget x.v 0 n) (sel % 32) v) }
  else
    let n := (sel - 0x400) / 32
    { x with winV := vset x.winV n (setVecWord (vget x.winV 0 n) (sel % 32) v) }

/-- A slot whose latch is emptied waits no more at a port: its instruction pops and pushes anew. -/
def leavePorts (s : State) (c k : Nat) : State :=
  (dropWaits s c k).modSlot c k fun x => { x with wait := match x.wait with
    | .pop _ | .push _ => .nothing
    | w => w }

/-- One slot written. -/
def pokeSlot (sel : Nat) (v : Word) (s : State) (c k : Nat) : State :=
  (if sel = 0x41 then leavePorts s c k else s).modSlot c k fun x => x.poke sel v

/-- xwr once its value is known: a ring in use stalls the writer (R36); in a pair the leading slot names both threads
(R446). -/
def pokeOp (k sel : Nat) (v : Word) (s0 s : State) : State :=
  if pokeRefuses sel v then trapHere s0 .illegalOperand
  else if within 0x70 0x7F sel && ringBusy s s.core k ((sel - 0x70) / 2) then
    pollFor (endReservation s s.core s.slot) .engineWait (.ringFree k ((sel - 0x70) / 2))
  else doneNext ((actsOn s s.core k).foldl (fun s j => pokeSlot sel v s s.core j) s)

/-- xwr. A slot that has not stopped faults before a value that the register refuses (DESIGN CHOICE, log entry 160). -/
def execXwr (gv ra rb : BitVec 6) (s : State) : Result :=
  .next (issue (.xwr gv ra rb) s fun s =>
    let k := gval s ra
    let sel := gval s rb
    if slotFieldBad k || selectorBad sel || selectorReadOnly sel.toNat then trapHere s .illegalOperand
    else if !(s.slotOf s.core k.toNat).stopped then trapHere s .state
    else read1 gv s fun v t => pokeOp k.toNat sel.toNat v s t)

/-! ## kill and halt (R252) -/

/-- An action of the pilot on the slot that a slot word names: `gd` is 1 where the target is not in a state for it. -/
def slotAction (i : Instr) (rd ra : BitVec 6) (able : State → Nat → Nat → Bool) (act : State → Nat → Nat → State) (s : State) : Result :=
  deviceStep (issue i · fun s =>
    let w := gval s ra
    if slotWordBad w false true then trapHere s .illegalOperand
    else
      let c := wordCore w
      let k := wordSlot w
      if able s c k then answer rd 0 false (act s c k) else answer rd 1 false s) s

/-- The rover that has left a slot and is in transit (R281). -/
def roverFrom (s : State) (c k : Nat) : Bool := s.transits.any fun t => t.rover.isSome && t.core == c && t.buf == k

/-- A rover changed that has left a slot and is in transit. -/
def modTransit (s : State) (c k : Nat) (f : Slot → Slot) : State :=
  { s with transits := s.transits.map fun t => if t.core == c && t.buf == k then { t with rover := t.rover.map f } else t }

/-- A halt of a slot whose rover is in transit acts on the rover after it lands (R281). -/
def haltInTransit (s : State) (c k : Nat) : State := modTransit s c k fun x => { x with haltPending := true }

/-- kill: both slots of a pair are killed (R445). -/
def execKill (rd ra : BitVec 6) (s : State) : Result :=
  slotAction (.kill rd ra) rd ra (fun s c k => (s.slotOf c k).occupied)
    (fun s c k => (pairSlots s c k).foldl (fun s j => killSlot (some 9) s c j) s) s

/-- halt: both slots of a pair (DEDUCED, log entry 56). -/
def execHalt (rd ra : BitVec 6) (s : State) : Result :=
  slotAction (.halt rd ra) rd ra (fun s c k => (s.slotOf c k).occupied || roverFrom s c k)
    (fun s c k => if (s.slotOf c k).occupied then (pairSlots s c k).foldl (fun s j => haltSlot s c j) s else haltInTransit s c k) s

/-! ## cont (R253) -/

/-- A halted slot goes on: with what it waited for at a port, or with its next instruction. -/
def contSlot (step : Bool) (s : State) (c k : Nat) : State :=
  if (s.slotOf c k).status != .halted then s
  else
    let s := (deliverDeferred s c k).modSlot c k fun x => { x with stepArmed := step }
    match (s.slotOf c k).wait with
    | .pop p | .push p => s.modSlot c k fun x => { x with status := if p < 8 then .memoryWait else .engineWait }
    | _ => s.modSlot c k Slot.resumed'

def execCont (rd ra : BitVec 6) (st : BitVec 1) (s : State) : Result :=
  slotAction (.cont rd ra st) rd ra (fun s c k => (s.slotOf c k).status == .halted)
    (fun s c k => (actsOn s c k).foldl (fun s j => contSlot (st == 1) s c j) s) s

end Sys2Proof.Machine
end

