-- ==== Sys2Proof/Machine/Dock.lean ====
section
/-!
DEFINITION. The dock (R263, R264, R392, R393): the image of a slot taken with its engine work, spilled when the dock is
full, and restored. That a slot of a pair docks alone is DEDUCED (log entry 57).
-/

namespace Sys2Proof.Machine

/-! ## Numbers -/

def dockSize : Nat := 32
/-- Bytes, and free words, of a spill slot. -/
def spillBytes : Nat := 81920
def spillWords : Nat := 10240

/-- The entry of a handle in a core's dock or spill area. -/
def dockEntry (r : Core) (h : BitVec 16) : Option DockEntry := (r.dock ++ r.spilled).find? fun d => d.handle == h

/-- The spill slot of a handle. -/
def spillSlot (r : Core) (h : BitVec 16) : Nat := r.dockspill.toNat + h.toNat * spillBytes

/-- Entry numbers not occupied. Which of them a save takes is open (log entry 58). -/
def freeEntries (r : Core) : List Nat := (List.range dockSize).filter fun e => !(r.dock.any fun d => d.entry == e)

/-! ## The wait of a slot that docks (R166, R193, R392) -/

/-- The slot stops at its next instruction boundary, at once if it stands at one. One that is halted already stays as it
is. -/
def startDocking (s : State) (c k : Nat) : State :=
  let x := s.slotOf c k
  if x.status == .halted && !x.docking then s
  else
    let s := s.modSlot c k fun x => { x with docking := true }
    if withdrawable s c k then stopWithdrawn s c k
    else if x.status.issues && betweenInstrs x then leaveRotation (endReservation s c k) c k .halted x.wait else s

/-- The wait and the state with which a slot is saved: an instruction that has not retired is issued again, one that waits at a port
from its latch (R193), and a wait for a token, a row, a barrier or a comparison goes on. -/
def Slot.saved (x : Slot) : Slot :=
  let x := { x with dockFor := none }
  let fresh := { x with status := .runnable, wait := .nothing, reply := none, docking := false }
  match x.status with
  | .halted =>
    if x.docking then fresh
    else { x with wait := (match x.wait with
             | .pop _ | .push _ => .nothing
             | w => w) }
  | .trapped => { x with docking := false }
  | .parked =>
    (match x.park with
     | .fault _ => { fresh with park := .free }
     | _ => { x with docking := false })
  | .placed => { x with docking := false }
  | _ =>
    match x.wait with
    | .token _ | .row _ | .barrier _ _ | .compare | .pairTrap => { x with docking := false }
    | _ => fresh

/-! ## The work of a slot that docks (R392) -/

/-- A copy saved to be pushed again from its start. -/
def Cmd.anew (x : Cmd) : Cmd := { x with started := false, done := [], count := 0, moved := 0, poison := false, held := [] }

def ownedBy (k : Nat) (x : Cmd) : Bool := x.owner == .slot k

/-- The copies of a list that dock.out withdraws, of those of slot `k`: each that has started and not moved everything, and each
behind it that has moved everything but wrote a byte that the replay is to write again (R207, R392). -/
def withdrawn (s : State) (c k : Nat) : List Cmd → List Cmd → List Cmd
  | _, [] => []
  | back, x :: rest =>
    if ownedBy k x && x.started && (!copyOver s c x || back.any fun y => (writesLeft s c y.anew).meets (writesLeft s c x.anew)) then
      x :: withdrawn s c k (back ++ [x]) rest
    else withdrawn s c k back rest

/-- The copies that dock.out withdraws from a core. -/
def withdrawnAt (s : State) (c k : Nat) : List Cmd := withdrawn s c k [] (s.coreOf c).copyQ

/-- The replay bits of the stages of withdrawn ring fills. -/
def markReplays (s : State) (c k : Nat) (again : List Cmd) : State :=
  (again.filter fun x => cmdDone x.word == 1).foldl (fun s x =>
    s.modSlot c k fun y =>
      { y with ring := vset y.ring (cmdRing x.word) (setReplay (vget y.ring 0 (cmdRing x.word)) x.stage true) }) s

/-- The granted rows, counted from the first of them. -/
def savedRows (r : Core) (g : Grant) : Table Lane × List Nat :=
  let first := 16 * g.unit
  let mine := fun n => decide (first ≤ n) && decide (n < first + g.rows)
  (⟨(r.acc.entries.filter fun e => mine (e.1 / 128)).map fun e => (e.1 - first * 128, e.2)⟩,
   (r.accPoison.filter mine).map fun n => n - first)

/-- The dock entry of slot `k`, with the copies `again` to be pushed from their start. -/
def makeEntry (r : Core) (x : Slot) (k entry : Nat) (h : BitVec 16) (again : List Cmd) : DockEntry :=
  let rows := match x.grant with
    | some g => savedRows r g
    | none => ({}, [])
  { handle := h, entry := entry, image := x.saved, slot := k, spill := 0
    deferred := (r.deferred.filter fun d => d.1 == k).map (·.2), acc := rows.1, accPoison := rows.2
    copies := (r.copyQ.filter (ownedBy k)).map fun x => if again.any fun y => y.ident == x.ident then x.anew else x,
    tile := r.tileQ.filter (ownedBy k)
    tokens := r.heldTokens.filter fun t => t.owner == .slot k, trap := r.traps.find? fun t => bitsOf t.d0 10 8 == k }

/-- A command that goes on without its slot: its token is held with the entry. -/
def dockCmd (k : Nat) (h : BitVec 16) (x : Cmd) : Cmd := if ownedBy k x then { x with owner := .docked h } else x

/-- What an entry takes of slot `k` is no longer at its core. -/
def takeFromCore (k : Nat) (d : DockEntry) (r : Core) : Core :=
  let r := [Engine.bank, .stack, .reduction, .collective].foldl (fun r e =>
    r.setQueue e ((r.queue e).map (dockCmd k d.handle))) r
  { r with
    deferred := r.deferred.filter (fun e => e.1 != k), copyQ := r.copyQ.filter (fun x => !ownedBy k x)
    tileQ := r.tileQ.filter (fun x => !ownedBy k x), heldTokens := r.heldTokens.filter (fun t => t.owner != .slot k)
    traps := r.traps.filter fun t => bitsOf t.d0 10 8 != k }

/-- What is noted of a thread under one core and slot stands under another, its call and its landing buffer included. -/
def renumber (s : State) (a b : Nat × Nat) : State :=
  let call := fun (q : EnvCall) => if q.core == a.1 && q.slot == a.2 then { q with core := b.1, slot := b.2 } else q
  let use := fun (u : BufUse) => if u == BufUse.running a.2 then BufUse.running b.2 else u
  let s := renameOwner s a b
  { s with envCalls := s.envCalls.map call }.modCore a.1 fun r => { r with bufs := r.bufs.map use }

/-- The su.run commands of a docked thread end as by su.abort (R339, R392): one that runs at a column-cycle boundary, one that is
queued before it has done anything. -/
def abortDocked (s : State) (c : Nat) (h : BitVec 16) : State :=
  ((s.coreOf c).stackQ.filter fun x => x.owner == .docked h && cmdCode x.word == 0x53).foldl (fun s x =>
    if x.started then abortSequence s (suStack x.word) (suPch x.word) else completeCmd s c .stack x 8 0 false 0) s

/-- The earliest-saved entry goes to its spill slot, whose bytes are then open (log entry 7). -/
def spillEarliest (s : State) (c : Nat) : State :=
  match (s.coreOf c).dock with
  | [] => s
  | d :: rest =>
    let s' := s.modCore c fun r => { r with dock := rest, spilled := r.spilled ++ [{ d with spill := s.free }] }
    tableWrite { s' with free := s.free + spillWords } (spillSlot (s.coreOf c) d.handle) spillBytes
      (freeWords s.free spillWords) false

/-- The image of the thread in slot `j` of core `d` taken into the dock of core `c`, whose dock.out names slot `k`. What it has pushed
to ports of its own is in them. -/
def saveSlot (s : State) (c k d j : Nat) (h : BitVec 16) : State :=
  let again := withdrawnAt s d j
  let s := markReplays (withdrawWait (dropXlate (endReservation s d j) d [j]) d j) d j again
  let s := landPushes (dropWaits s d j) d fun a => a.slot == j && !(decide (1 ≤ a.port) && decide (a.port < 8))
  let s := if dockSize ≤ (s.coreOf c).dock.length then spillEarliest s c else s
  let (n, s) := s.draw
  let free := freeEntries (s.coreOf c)
  let e := { makeEntry (s.coreOf d) (s.slotOf d j) j (free.getD (n.toNat % free.length) 0) h again with slot := k }
  let s := (s.modCore d (takeFromCore j e)).modCore c fun r => { r with dock := r.dock ++ [e] }
  let s := renumber s (d, j) (c, dockedSlot h)
  placementPass ((abortDocked s c h).setSlot d j Slot.blank)

/-! ## dock.out -/

/-- The operands of dock.out and dock.in that are refused. -/
def dockFieldsBad (s : State) (ra rb : BitVec 6) : Bool := slotFieldBad (gval s ra) || bitsOf (gval s rb) 63 16 != 0

/-- The thread at a place is saved once it has stopped and its copies have ended or are held; until then the pilot waits. -/
def dockFrom (rd : BitVec 6) (k : Nat) (h : BitVec 16) (place : Option (Nat × Nat)) (s : State) : State :=
  let c := s.core
  let wait := fun (s : State) => pollFor (endReservation s c s.slot) .memoryWait (.dockable k h.toNat)
  match place with
  | none => wait s
  | some (d, j) =>
    if !(s.slotOf d j).occupied then answer rd 1 false s
    else
      let s := startDocking s d j
      if dockReady s c k then answer rd 0 false (saveSlot s c k d j h) else wait s

/-- A dock.out of a slot whose rover is in transit acts on the rover after it lands (R281). -/
def dockInTransit (s : State) (c k : Nat) : State :=
  modTransit s c k fun x => { x with docking := true, dockFor := some (x.dockFor.getD (c, k)) }

/-- dock.out. A killed slot that is being scrubbed counts as empty (DEDUCED, log entry 147). Of several statuses that hold, the
slot's goes before the handle's and the handle's before the dock's (DESIGN CHOICE, log entry 161). -/
def execDockOut (rd ra rb : BitVec 6) (s : State) : Result :=
  deviceStep (issue (.dockOut rd ra rb) · fun s =>
    let c := s.core
    let k := (gval s ra).toNat
    let h : BitVec 16 := (gval s rb).truncate 16
    let place := dockPlace s c k
    if dockFieldsBad s ra rb then trapHere s .illegalOperand
    else if place == some (c, k) && !(s.slotOf c k).occupied && !roverFrom s c k then answer rd 1 false s
    else if (dockEntry (s.coreOf c) h).isSome then answer rd 2 false s
    else if dockSize ≤ (s.coreOf c).dock.length && s.myCore.dockspill == 0 then answer rd 3 false s
    else if place == some (c, k) && !(s.slotOf c k).occupied then dockFrom rd k h none (dockInTransit s c k)
    else dockFrom rd k h place s) s

/-! ## dock.in (R264, R393) -/

/-- Registers that the spec does not state, of a slot whose spill slot another agent wrote. Which part of the image that is, is
a DESIGN CHOICE (log entry 149). -/
def Slot.scrambled (x : Slot) (n : Nat) : Slot :=
  let word := fun (i : Nat) => Config.freeWord (n + i)
  let vec := fun (i : Nat) => BitVec.ofNat 2048 (freeWords (n + i) 32)
  { x with g := Vector.ofFn fun i => word i.val, winG := Vector.ofFn fun i => word (32 + i.val)
           m := Vector.ofFn fun i => word (40 + i.val), pc := word 44, hlink := word 45, pred := (word 46).truncate 16
           hbase := word 47, fflags := (word 48).truncate 7, srseed := (word 49).truncate 32
           sca := (word 50).truncate 21, scb := (word 51).truncate 21
           v := Vector.ofFn fun i => vec (64 + 32 * i.val), winV := Vector.ofFn fun i => vec (576 + 32 * i.val) }

/-- The restored image of a spilled entry: `none` where the spill slot reads back poisoned. Bytes that another agent wrote
restore registers that are not stated (log entry 7). -/
def readBack (s : State) (c : Nat) (d : DockEntry) : Option DockEntry × State :=
  if (s.coreOf c).spilled.contains d then
    let (v, poison, s) := tableRead s (spillSlot (s.coreOf c) d.handle) spillBytes
    if poison then (none, s)
    else if v = freeWords d.spill spillWords then (some d, s)
    else (some { d with image := d.image.scrambled s.free }, { s with free := s.free + 704 })
  else (some d, s)

/-- The entry is freed. -/
def freeEntry (s : State) (c : Nat) (h : BitVec 16) : State :=
  s.modCore c fun r => { r with dock := r.dock.filter (fun d => d.handle != h), spilled := r.spilled.filter fun d => d.handle != h }

/-- A thread that cannot be restored ends; a capsule whose step it ran is destroyed (log entry 59). -/
def loseDocked (s : State) (c : Nat) (d : DockEntry) : State :=
  let s := abandonRecords (freeEntry s c d.handle) c (dockedSlot d.handle)
  let s := match d.image.capsule with
    | some b => destroyCapsule s c b
    | none => s
  leaveGang s d.image.lid c

/-- The units of the image's grant, and where they go: `none` while no run of them is free. -/
def newGrant (s : State) (c : Nat) (x : Slot) : Option (Option Grant) :=
  match x.grant with
  | none => some none
  | some g => (firstBelow 8 fun u => runFree s c u (g.rows / 16)).map fun u => some { g with unit := u }

/-- The accumulators and marks of an entry put into the rows of a grant. -/
def restoreRows (d : DockEntry) (g : Grant) (r : Core) : Core :=
  let first := 16 * g.unit
  let mine := fun n => decide (first ≤ n) && decide (n < first + g.rows)
  { r with acc := d.acc.entries.foldl (fun t e => t.set (e.1 + first * 128) e.2)
             ⟨r.acc.entries.filter fun e => !mine (e.1 / 128)⟩
           accPoison := markPoison (r.accPoison.filter fun n => !mine n) (d.accPoison.map fun n => n + first) }

/-- A trap's record names the slot that the thread stands in now. -/
def recordFor (k : Nat) (t : TrapRec) : TrapRec := { t with d0 := setBits t.d0 10 8 k }

/-- A token held with the entry is delivered. -/
def giveToken (c k : Nat) (s : State) (t : HeldToken) : State :=
  if t.port = 9 then postToken s c k t.elem.val
  else if t.port = 8 then pushPending s c k t.elem.val
  else pushToken s c k t.port t.elem.val

/-- The restored slot: trapped, halted and parked threads stay so, and others issue from the next wheel boundary on. -/
def restoredSlot (r : Core) (x : Slot) (g : Option Grant) : Slot :=
  let x := { x with grant := g, firstIssue := true, last := r.cycle, boundary := nextBoundary r.cycle }
  if x.stopped then x else { x with status := .placed, wait := if x.inHandler then .nothing else x.wait }

/-- The commands saved in an entry, as slot `k` pushes them. -/
def restoredCmds (k : Nat) (g : Option Grant) (l : List Cmd) : List Cmd := l.map fun x => { x with owner := .slot k, grant := g }

/-- A thread restored into slot `k`. Its deferred elements join the inbox whatever that holds (DEDUCED, log entry 148). -/
def restoreSlot (s : State) (c k : Nat) (d : DockEntry) (g : Option Grant) : State :=
  let s := renumber ((freeEntry s c d.handle).setSlot c k (restoredSlot (s.coreOf c) d.image g)) (c, dockedSlot d.handle) (c, k)
  let mine := fun (x : Cmd) => if x.owner == .docked d.handle then { x with owner := .slot k } else x
  let s := s.modCore c fun r =>
    let r := [Engine.bank, .stack, .reduction, .collective].foldl (fun r e => r.setQueue e ((r.queue e).map mine)) r
    let r := match g with
      | some g => restoreRows d g r
      | none => r
    { r with copyQ := r.copyQ ++ restoredCmds k g d.copies, tileQ := r.tileQ ++ restoredCmds k g d.tile
             deferred := r.deferred ++ d.deferred.map fun e => (k, e) }
  let s := d.tokens.foldl (giveToken c k) s
  let s := if d.image.status == .trapped || d.image.status == .halted then s else deliverDeferred s c k
  match d.trap with
  | some t => trapEnqueue s c (recordFor k t)
  | none => s

/-- dock.in. A handle that no entry holds answers before a slot that is not empty (DESIGN CHOICE, log entry 161). -/
def execDockIn (rd ra rb : BitVec 6) (s : State) : Result :=
  deviceStep (issue (.dockIn rd ra rb) · fun s =>
    let c := s.core
    let k := (gval s ra).toNat
    if dockFieldsBad s ra rb then trapHere s .illegalOperand
    else match dockEntry (s.coreOf c) ((gval s rb).truncate 16) with
      | none => answer rd 1 false s
      | some d =>
        if (s.slotOf c k).status != .empty then answer rd 2 false s
        else match readBack s c d with
          | (none, s) => answer rd 3 false (loseDocked s c d)
          | (some d, s) =>
            match newGrant s c d.image with
            | none => pollFor (endReservation s c s.slot) .memoryWait (.units ((d.image.grant.map fun g => g.rows / 16).getD 0))
            | some g => answer rd 0 false (restoreSlot s c k d g)) s

end Sys2Proof.Machine
end

