-- ==== Sys2Proof/Machine/Bringup.lean ====
section
/-!
DEFINITION. Bring-up and the ready register (R451–R455), the SPDM responder (R456), the control loops (R457–R460), and the
lifetime records (R461).
-/

namespace Sys2Proof.Machine

/-! ## Firmware images (R453) -/

/-- Bytes lo to lo + n − 1 of a list as a little-endian number. -/
def listN (l : List (BitVec 8)) (lo n : Nat) : Nat := ((l.drop lo).take n).foldr (fun b acc => b.toNat + 256 * acc) 0

/-- Bytes lo to lo + n − 1 of a list. -/
def part (l : List (BitVec 8)) (lo n : Nat) : List (BitVec 8) := (l.drop lo).take n

/-- A firmware slot holds a valid image, where `least` is the minimum security version. -/
def imageValid (least : Nat) (image : List (BitVec 8)) : Bool :=
  let n := listN image 8 8
  listN image 0 4 == 0x46574843
    && bytesNum (sha512 (part image 80 32)) == Config.fusedKeyDigest.toNat
    && ed25519Verifies (part image 80 32) (part image 112 64) (image.take 112)
    && decide (176 + n ≤ image.length) && sha512 (part image 176 n) == part image 16 64
    && decide (least ≤ listN image 4 4)

/-- The fused minimum security version, as running firmware has raised it (R453). -/
def leastSecurity (s : State) : Nat := max Config.fusedSecurityVersion.toNat s.raisedSecurity.toNat

/-- The running firmware raises it. -/
def raiseSecurity (v : BitVec 32) (s : State) : State :=
  if isReady s then { s with raisedSecurity := BitVec.ofNat 32 (max s.raisedSecurity.toNat v.toNat) } else s

/-- The slot whose image is used: 0 before 1. -/
def firmwareSlot (s : State) : Option Nat := [0, 1].find? fun i => imageValid (leastSecurity s) (Config.flashImage i)

/-! ## Bring-up (R452, R454) -/

/-- The ready register's fields other than ready (R451). -/
def readyWord (fail stage : Nat) (degraded : Bool) (slot : Nat) : Word :=
  BitVec.ofNat 64 ((if fail = 0 then 0 else 2) + slot * 4 + (if degraded then 8 else 0) + stage * 2 ^ 16 + fail * 2 ^ 24)

/-- Bring-up stops: the module stays so until the next reset. -/
def stopBringUp (fail stage : Nat) (degraded : Bool) (slot : Nat) (s : State) : State :=
  countLife { s with ready := readyWord fail stage degraded slot, bringing := none } 2 1

/-- Every cluster at the lowest voltage that passes its monitors, within the bounds of R457 (log entry 12). -/
def calibrate (s : State) : State :=
  (List.range 80).foldl (fun s cl =>
    let (v, s) := s.draw
    s.modCluster cl fun p => { p with mv := 360 + v.toNat % 121 }) s

/-- A Phoup lane fails: its port runs on two lanes. -/
def degradePort (s : State) (p : Nat) : State := { s with ports := s.ports.set p { s.portOf p with lanes := 2 } }

/-- A stack-unit bank fails (R449). -/
def failBank (s : State) (b : Nat × Nat × Nat) : State :=
  let p := s.pchOf b.1 b.2.1
  s.setPch b.1 b.2.1 { p with failedBanks := setBits p.failedBanks b.2.2 b.2.2 1 }

/-- What a report names that exists. -/
def reportCores (r : BringUpReport) : List Nat := (r.failedCores.filter fun c => decide (c < 1280)).dedup
def reportPorts (r : BringUpReport) : List Nat := (r.degradedPorts.filter fun p => decide (p < 32)).dedup
def reportBanks (r : BringUpReport) : List (Nat × Nat × Nat) :=
  r.failedBanks.filter fun b => decide (b.1 < 16) && decide (b.2.1 < 64) && decide (b.2.2 < 16)

/-- An address of the host's own memory, which no reset of the module touches. -/
def hostOwn (a : Nat) : Bool := isHost a && decide (a < 2 ^ 52)

/-- The state that a reset leaves (R454): the host's own memory, the records and the minimum version in flash go on, and what the
model itself counts. -/
def afterReset (s : State) : State :=
  { State.reset with
    mem := ⟨s.mem.cells.filter fun x => hostOwn x.1⟩, poison := s.poison.filter hostOwn
    entryMarks := s.entryMarks.filter hostOwn, images := ⟨s.images.entries.filter fun e => hostOwn e.1⟩
    life := s.life, lifeRecent := s.lifeRecent, lifeDue := s.lifeDue - s.clock, raisedSecurity := s.raisedSecurity
    agenda := s.agenda, free := s.free, ident := s.ident }

/-- A stage begins: its number stands in the ready register. -/
def beginStage (stage : Nat) (degraded : Bool) (slot : Nat) (s : State) : State :=
  { s with ready := readyWord 0 stage degraded slot }

/-- Stage 6: cores and stack-unit banks that fail their tests. -/
def selfTest (r : BringUpReport) (slot : Nat) (s : State) : State :=
  let s := (reportBanks r).foldl failBank ((reportCores r).foldl (outOfService true true) s)
  let degraded := !((reportPorts r).isEmpty && (reportCores r).isEmpty && (reportBanks r).isEmpty)
  if (List.range 80).any (clusterGone s) then stopBringUp 3 6 degraded slot s
  else { beginStage 7 degraded slot s with booting := true, bringing := none }

/-- What the stage at hand finds, and the next stage begins (R452). The events of ports come once the event queue exists. -/
def endStage (r : BringUpReport) (s : State) : State :=
  let slot := bitsOf s.ready 2 2
  let ports := reportPorts r
  match bitsOf s.ready 23 16 with
  | 1 => beginStage 2 false 0 s
  | 2 => match firmwareSlot s with
    | none => stopBringUp 1 2 false 0 s
    | some slot => beginStage 3 false slot s
  | 3 => beginStage 4 false slot s
  | 4 =>
    if r.stackFails then stopBringUp 2 4 false slot s
    else if r.dieLinksFail then stopBringUp 4 4 false slot s
    else beginStage 5 (!ports.isEmpty) slot (ports.foldl degradePort (calibrate s))
  | 5 => beginStage 6 (!ports.isEmpty) slot (ports.foldl (fun s p => pushEvent s 9 0xFFFF p 0 0 0) s)
  | 6 => selfTest r slot s
  | _ => s

/-- A stage of bring-up runs. -/
def bringUpStep (s : State) : Result :=
  deviceStep (fun s => match s.bringing with
    | some r => endStage r s
    | none => s) s

/-- MODULE_RESET: bring-up begins, with what its stages will find (R452). -/
def execModuleReset (report : BringUpReport) (s : State) : Result :=
  .next (beginStage 1 false 0 { countLife (afterReset s) 1 1 with bringing := some report })

/-- READY (R455). -/
def execReady (s : State) : Result :=
  .next (if s.booting then { s with ready := setBits s.ready 0 0 1, booting := false } else s)

/-! ## SPDM (R456; log entry 10) -/

/-- The measurement block of an index: none for one that R456 does not list. -/
def measurement (s : State) (index : Nat) : List (BitVec 8) :=
  let slot := bitsOf s.ready 2 2
  let image := Config.flashImage slot
  match index with
  | 1 => numBytes 64 Config.romDigest.toNat
  | 2 => part image 16 64 ++ part image 4 4 ++ [BitVec.ofNat 8 slot]
  | 3 => numBytes 64 Config.fuseDigest.toNat
  | 4 => sha512 (numBytes 4 (bitsOf s.ready 31 1))
  | _ => []

/-- The secret keys: the identity key's, and the alias key's, which changes with the image that runs. -/
def identityKey : List (BitVec 8) := numBytes 32 Config.identitySecret.toNat
def aliasKey (s : State) : List (BitVec 8) := numBytes 32 (Config.aliasSecret Config.identitySecret (measurement s 2)).toNat

/-- The certificate chain, which holds both public keys. -/
def certificateChain (s : State) : List (BitVec 8) :=
  Config.certificatePart 0 ++ edPublic identityKey ++ Config.certificatePart 1 ++ edPublic (aliasKey s) ++ Config.certificatePart 2

/-- A request and its answer join the transcript. -/
def spdm (code : Nat) (request answer : List (BitVec 8)) (s : State) : State :=
  let seen := s.session.transcript ++ BitVec.ofNat 8 code :: request
  { s with session := { s.session with transcript := seen ++ answer ++ Config.spdmAnswer code (seen ++ answer) } }

/-- GET_VERSION begins a conversation. -/
def execGetVersion (s : State) : Result := .next (spdm 0x84 [] [] { s with session := {} })

def execGetCapabilities (s : State) : Result := .next (spdm 0xE1 [] [] s)

/-- Ed25519 among the asymmetric algorithms offered, and SHA-512 among the hashes: the bits are SPDM's (PRESUMED, log entry 10). -/
def offersBoth (algorithms : BitVec 64) : Bool := bitAt algorithms 10 && bitAt algorithms 34

/-- NEGOTIATE_ALGORITHMS: bits 31:0 are the asymmetric algorithms that the requester offers, bits 63:32 the hashes. The two that there
are, are chosen, or none. -/
def execNegotiateAlgorithms (algorithms : BitVec 64) (s : State) : Result :=
  let chosen := if offersBoth algorithms then 2 ^ 10 + 2 ^ 34 else 0
  .next (spdm 0xE3 (numBytes 8 algorithms.toNat) (numBytes 8 chosen)
    { s with session := { s.session with negotiated := offersBoth algorithms } })

/-- GET_DIGESTS: the digest of the certificate chain. -/
def execGetDigests (s : State) : Result := .next (spdm 0x81 [] (sha512 (certificateChain s)) s)

/-- GET_CERTIFICATE: a part of the chain. -/
def execGetCertificate (offset length : Nat) (s : State) : Result :=
  .next (spdm 0x82 (numBytes 2 offset ++ numBytes 2 length) (part (certificateChain s) offset length) s)

/-- What the alias key signs: what has passed and the request at hand; nothing before the algorithms are agreed on. -/
def signedAnswer (s : State) (request : List (BitVec 8)) : List (BitVec 8) :=
  if s.session.negotiated then ed25519Sign (aliasKey s) (s.session.transcript ++ request) else []

/-- CHALLENGE: the answer is signed with the alias key. -/
def execChallenge (nonce : BitVec 256) (s : State) : Result :=
  .next (
    let request := numBytes 32 nonce.toNat
    spdm 0x83 request (signedAnswer s request) s)

def execGetMeasurements (index : BitVec 8) (s : State) : Result := .next (spdm 0xE0 [index] (measurement s index.toNat) s)

/-- KEY_EXCHANGE starts a secured session. -/
def execKeyExchange (exchange : BitVec 256) (s : State) : Result :=
  .next (
    let request := numBytes 32 exchange.toNat
    let t := spdm 0xE4 request (signedAnswer s request) s
    { t with session := { t.session with keyed := s.session.negotiated, finished := false } })

/-- FINISH completes the session that KEY_EXCHANGE started; whether its verify data hold is open (log entry 10). -/
def execFinish (verify : BitVec 512) (s : State) : Result :=
  .next (
    let t := spdm 0xE5 (numBytes 64 verify.toNat) [] { s with free := s.free + 1 }
    { t with session := { t.session with finished := s.session.keyed && Config.freeBit s.free } })

/-! ## Control loops (R457–R460) -/

/-- DROOP_STRETCH: it changes the length of a cycle and no value. -/
def execDroopStretch (_cluster : Nat) (s : State) : Result := .next s

/-- VOLTAGE_CLOCK_CHANGE, within the bounds of the loop; `gated` is in tenths of a nanosecond. -/
def execVoltageClockChange (cluster mhz mv gated : Nat) (s : State) : Result :=
  .next (
    if bitAt s.loopctl 0 && decide (cluster < 80) && within 625 1250 mhz && within 360 480 mv && decide (gated ≤ 1024) then
      s.modCluster cluster fun p => { p with mhz := mhz, mv := mv }
    else s)

/-- LINK_EQUALISATION: a port whose margin cannot be restored goes down. -/
def execLinkEqualisation (port : Nat) (restored : Bool) (s : State) : Result :=
  .next (if bitAt s.loopctl 1 && !restored && decide (port < 32) then linkDown s port else s)

/-- SCRUB_RATE_ADJUST: the period halves once for each event 0x01, and doubles after 7 days without one. A disabled loop keeps
it. -/
def execScrubRateAdjust (quiet : Bool) (s : State) : Result :=
  .next (
    let p := s.scrubPeriod.toNat
    let set := fun (s : State) (n : Nat) => if bitAt s.loopctl 2 then { s with scrubPeriod := BitVec.ofNat 32 n } else s
    if quiet then (if 168 ≤ s.quietHours then set { s with quietHours := 0 } (min 86400 (2 * p)) else s)
    else if 0 < s.scrubDue then set { s with scrubDue := s.scrubDue - 1 } (max 3600 (p / 2))
    else s)

/-- The clusters held (R457). -/
def heldCount (s : State) : Nat := ((List.range 80).filter fun cl => (s.clusterAt cl).held).length

/-- CLUSTER_HOLD: a cluster's temperature, which above 95 °C holds the cluster, if fewer than 8 are held; when it has fallen back, the
end of a hold is counted from there. -/
def execClusterHold (cluster temperature : Nat) (s : State) : Result :=
  .next (
    if 80 ≤ cluster then s
    else
      let hot := bitAt s.loopctl 3 && decide (95 < temperature) && ((s.clusterAt cluster).held || decide (heldCount s < 8))
      s.modCluster cluster fun p =>
        { p with celsius := temperature, held := p.held || hot
                 cooledAt := if 95 < temperature || !p.held then none else some (p.cooledAt.getD s.clock) })

/-- HOLD_END: from the first temperature of at most 95 °C the hold lasts 2^20 cycles; a placement pass follows its end. -/
def execHoldEnd (cluster temperature : Nat) (s : State) : Result :=
  deviceStep (fun s =>
    let p := s.clusterAt cluster
    if 80 ≤ cluster then s
    else if 95 < temperature || !p.held then
      s.modCluster cluster fun p => { p with celsius := temperature, cooledAt := none }
    else match p.cooledAt with
      | none => s.modCluster cluster fun p => { p with celsius := temperature, cooledAt := some s.clock }
      | some t =>
        if t + 2 ^ 20 ≤ s.clock && bitAt s.loopctl 3 then
          placementPass (s.modCluster cluster fun p => { p with celsius := temperature, cooledAt := none, held := false })
        else s.modCluster cluster fun p => { p with celsius := temperature }) s

/-- HBM_RECALIBRATION: it delays the pseudo-channel and changes no value. -/
def execHbmRecalibration (_stack _pch : Nat) (s : State) : Result := .next s

/-! ## Lifetime records (R461) -/

/-- Ten minutes, in cycles at 1.25 GHz (log entry 165). -/
def commitPeriod : Nat := 750000000000

/-- The counts since the latest commit go to flash. -/
def commitLife (s : State) : State :=
  { s with life := s.lifeRecent.entries.foldl (fun t e => t.set e.1 (lifeval s e.1)) s.life, lifeRecent := {}
           lifeDue := s.clock + commitPeriod }

/-- LIFETIME_COMMIT. -/
def execLifetimeCommit (s : State) : Result := .next (commitLife s)

/-- ABRUPT_LOSS_OF_POWER: of the host's memory and of what is in flash alone anything stays; a commit that was due has been made. -/
def execAbruptLossOfPower (s : State) : Result :=
  .next { afterReset (if s.lifeDue ≤ s.clock then commitLife s else s) with lifeRecent := {}, lifeDue := commitPeriod }

/-- An orderly power-down: the counts are committed first. -/
def powerDown (s : State) : State := afterReset (commitLife s)

/-- The records that a peak of the hour counts in. -/
def countPeak (s : State) : HourPeak → State
  | .cluster c t mv =>
    if 80 ≤ c then s
    else countLife (countLife s (0x100 + 16 * c + min 15 (t / 8)) 1) (0x600 + 16 * c + min 15 ((mv - 360) / 8)) 1
  | .stack k t => if 16 ≤ k then s else countLife s (0xB00 + 16 * k + min 15 (t / 8)) 1

/-- A scrub period has passed: the counts of corrections begin anew (R440). -/
def endScrubPeriod (s : State) : State :=
  if s.scrubPeriod.toNat ≤ s.scrubHours * 3600 then { s with scrubHours := 0, corrected := {} } else s

/-- POWERED_HOURS. An hour's end is also the end of ten minutes: its counts are committed. -/
def execPoweredHours (peaks : List HourPeak) (s : State) : Result :=
  .next (commitLife (endScrubPeriod (peaks.foldl countPeak
    (countLife { s with quietHours := s.quietHours + 1, scrubHours := s.scrubHours + 1 } 0 1))))

end Sys2Proof.Machine
end

