-- ==== Sys2Proof/Machine/Cycle.lean ====
section
/-!
DEFINITION. A core cycle (R12–R17, R33): the wheel, lending, and who issues.
-/

namespace Sys2Proof.Machine

/-- The cycles from cycle `n` to the next position of slot `k` after it. -/
def ownIn (k n : Nat) : Nat := (k + 7 - n % 8) % 8 + 1

/-- The cycles since the latest issue of a slot. -/
def sinceIssue (x : Slot) (n : Word) : Nat := (n - x.last).toNat

/-- Slot `k` may borrow the position of cycle `n` (R15). A vector access goes on in its own positions (R188). -/
def mayBorrow (r : Core) (n : Word) (k : Nat) : Bool :=
  let x := vget r.slots Slot.blank k
  x.status.issues && k != n.toNat % 8 && !x.firstIssue && x.vec.isNone && decide (4 ≤ sinceIssue x n)
    && decide (4 ≤ ownIn k n.toNat)

/-- The borrower: the slot that has waited longest, the lowest among equals (R15). -/
def borrower (r : Core) (n : Word) : Option Nat :=
  (List.range 8).foldl (fun (best : Option Nat) k =>
    if mayBorrow r n k then
      match best with
      | none => some k
      | some b =>
        if sinceIssue (vget r.slots Slot.blank b) n < sinceIssue (vget r.slots Slot.blank k) n then some k else best
    else best) none

/-- The slot that issues in cycle `n`: the position's own, or the borrower (R14, R15). -/
def issuer (r : Core) (n : Word) : Option Nat :=
  if (vget r.slots Slot.blank (n.toNat % 8)).status.issues then some (n.toNat % 8) else borrower r n

/-- The core's next cycle begins: pushes that retired with the last one are in their ports, requests that its banks refused have
waited one more (R269), and slots whose boundary has come, or to which a tret that has retired returned, are runnable. -/
def beginCycle (s : State) (c : Nat) : State :=
  let n := (s.coreOf c).cycle + 1
  let s := landPushes s c fun a => decide (a.due < n.toNat)
  let s := (ageRequests s c).modCore c fun r => { r with cycle := n, slots := r.slots.map (activateBy n.toNat) }
  (List.range 8).foldl (fun s k => returnDue s c k) { s with clock := max s.clock n.toNat }

/-- CORE_CYCLE: the issue that it comes to is the next step. -/
def execCoreCycle (core : Nat) (s : State) : Result :=
  .next (
    if 1280 ≤ core then s
    else
      let s := beginCycle s core
      let n := (s.coreOf core).cycle
      match issuer (s.coreOf core) n with
      | none => s
      | some k =>
        { s.modSlot core k fun x => { x with last := n, firstIssue := false } with core := core, slot := k, issuing := true })

end Sys2Proof.Machine
end

