-- ==== Sys2Proof/Machine/Dispatch.lean ====
section
/-!
DEFINITION. The dispatch: one arm for each constructor of the instruction set, each one call of its meaning.
-/

namespace Sys2Proof.Machine

def exec (i : Instr) (s : State) : Host.Outcome State Fault Refusal :=
  match i with
  | .trap ra imm => Sys2Proof.Machine.execTrap ra imm s
  | .tret ra sh => Sys2Proof.Machine.execTret ra sh s
  | .park ra => Sys2Proof.Machine.execPark ra s
  | .xrd rd ra rb => Sys2Proof.Machine.execXrd rd ra rb s
  | .xwr gv ra rb => Sys2Proof.Machine.execXwr gv ra rb s
  | .sysrd rd n => Sys2Proof.Machine.execSysrd rd n s
  | .syswr ra n => Sys2Proof.Machine.execSyswr ra n s
  | .segld sh ra => Sys2Proof.Machine.execSegld sh ra s
  | .segldImg sh ra => Sys2Proof.Machine.execSegldImg sh ra s
  | .ifence => Sys2Proof.Machine.execIfence s
  | .chkerr rd c => Sys2Proof.Machine.execChkerr rd c s
  | .quit => Sys2Proof.Machine.execQuit s
  | .send rd ra rb => Sys2Proof.Machine.execSend rd ra rb s
  | .bar rd lvl => Sys2Proof.Machine.execBar rd lvl s
  | .dockIn rd ra rb => Sys2Proof.Machine.execDockIn rd ra rb s
  | .dockOut rd ra rb => Sys2Proof.Machine.execDockOut rd ra rb s
  | .spawn rd ra rb => Sys2Proof.Machine.execSpawn rd ra rb s
  | .tsub rd ra rb => Sys2Proof.Machine.execTsub rd ra rb s
  | .tget rd ra => Sys2Proof.Machine.execTget rd ra s
  | .tdone rd ra => Sys2Proof.Machine.execTdone rd ra s
  | .brk n => Sys2Proof.Machine.execBrk n s
  | .kill rd ra => Sys2Proof.Machine.execKill rd ra s
  | .wake rd ra rb => Sys2Proof.Machine.execWake rd ra rb s
  | .halt rd ra => Sys2Proof.Machine.execHalt rd ra s
  | .cont rd ra sh => Sys2Proof.Machine.execCont rd ra sh s
  | .add rd ra rb => Sys2Proof.Machine.execAdd rd ra rb s
  | .sub rd ra rb => Sys2Proof.Machine.execSub rd ra rb s
  | .mul rd ra rb => Sys2Proof.Machine.execMul rd ra rb s
  | .mulh rd ra rb => Sys2Proof.Machine.execMulh rd ra rb s
  | .mulhu rd ra rb => Sys2Proof.Machine.execMulhu rd ra rb s
  | .div rd ra rb => Sys2Proof.Machine.execDiv rd ra rb s
  | .divu rd ra rb => Sys2Proof.Machine.execDivu rd ra rb s
  | .rem rd ra rb => Sys2Proof.Machine.execRem rd ra rb s
  | .remu rd ra rb => Sys2Proof.Machine.execRemu rd ra rb s
  | .and rd ra rb => Sys2Proof.Machine.execAnd rd ra rb s
  | .or rd ra rb => Sys2Proof.Machine.execOr rd ra rb s
  | .xor rd ra rb => Sys2Proof.Machine.execXor rd ra rb s
  | .andn rd ra rb => Sys2Proof.Machine.execAndn rd ra rb s
  | .sll rd ra rb => Sys2Proof.Machine.execSll rd ra rb s
  | .srl rd ra rb => Sys2Proof.Machine.execSrl rd ra rb s
  | .sra rd ra rb => Sys2Proof.Machine.execSra rd ra rb s
  | .min rd ra rb => Sys2Proof.Machine.execMin rd ra rb s
  | .max rd ra rb => Sys2Proof.Machine.execMax rd ra rb s
  | .minu rd ra rb => Sys2Proof.Machine.execMinu rd ra rb s
  | .maxu rd ra rb => Sys2Proof.Machine.execMaxu rd ra rb s
  | .clz rd ra => Sys2Proof.Machine.execClz rd ra s
  | .ctz rd ra => Sys2Proof.Machine.execCtz rd ra s
  | .popc rd ra => Sys2Proof.Machine.execPopc rd ra s
  | .sext rd ra w => Sys2Proof.Machine.execSext rd ra w s
  | .zext rd ra w => Sys2Proof.Machine.execZext rd ra w s
  | .rotl rd ra rb => Sys2Proof.Machine.execRotl rd ra rb s
  | .rotr rd ra rb => Sys2Proof.Machine.execRotr rd ra rb s
  | .sel rd ra rb k => Sys2Proof.Machine.execSel rd ra rb k s
  | .cmp pd ra rb c => Sys2Proof.Machine.execCmp pd ra rb c s
  | .pl rd ra rb o => Sys2Proof.Machine.execPl rd ra rb o s
  | .jalr rd ra => Sys2Proof.Machine.execJalr rd ra s
  | .addi rd ra imm => Sys2Proof.Machine.execAddi rd ra imm s
  | .andi rd ra imm => Sys2Proof.Machine.execAndi rd ra imm s
  | .ori rd ra imm => Sys2Proof.Machine.execOri rd ra imm s
  | .xori rd ra imm => Sys2Proof.Machine.execXori rd ra imm s
  | .slli rd ra sh => Sys2Proof.Machine.execSlli rd ra sh s
  | .srli rd ra sh => Sys2Proof.Machine.execSrli rd ra sh s
  | .srai rd ra sh => Sys2Proof.Machine.execSrai rd ra sh s
  | .cmpi c pd ra imm => Sys2Proof.Machine.execCmpi c pd ra imm s
  | .ldB rd ra imm => Sys2Proof.Machine.execLdB rd ra imm s
  | .ldBu rd ra imm => Sys2Proof.Machine.execLdBu rd ra imm s
  | .ldH rd ra imm => Sys2Proof.Machine.execLdH rd ra imm s
  | .ldHu rd ra imm => Sys2Proof.Machine.execLdHu rd ra imm s
  | .ldW rd ra imm => Sys2Proof.Machine.execLdW rd ra imm s
  | .ldWu rd ra imm => Sys2Proof.Machine.execLdWu rd ra imm s
  | .ldD rd ra imm => Sys2Proof.Machine.execLdD rd ra imm s
  | .stB ra rb imm => Sys2Proof.Machine.execStB ra rb imm s
  | .stH ra rb imm => Sys2Proof.Machine.execStH ra rb imm s
  | .stW ra rb imm => Sys2Proof.Machine.execStW ra rb imm s
  | .stD ra rb imm => Sys2Proof.Machine.execStD ra rb imm s
  | .lres rd ra w o => Sys2Proof.Machine.execLres rd ra w o s
  | .sres rd ra rb w o => Sys2Proof.Machine.execSres rd ra rb w o s
  | .amo rd ra rb f o => Sys2Proof.Machine.execAmo rd ra rb f o s
  | .cas rd ra rb w o => Sys2Proof.Machine.execCas rd ra rb w o s
  | .wrs rd ra rb => Sys2Proof.Machine.execWrs rd ra rb s
  | .fence ra => Sys2Proof.Machine.execFence ra s
  | .fenceB ra => Sys2Proof.Machine.execFenceB ra s
  | .fenceA ra => Sys2Proof.Machine.execFenceA ra s
  | .beq ra rb o => Sys2Proof.Machine.execBeq ra rb o s
  | .bne ra rb o => Sys2Proof.Machine.execBne ra rb o s
  | .blt ra rb o => Sys2Proof.Machine.execBlt ra rb o s
  | .bge ra rb o => Sys2Proof.Machine.execBge ra rb o s
  | .bltu ra rb o => Sys2Proof.Machine.execBltu ra rb o s
  | .bgeu ra rb o => Sys2Proof.Machine.execBgeu ra rb o s
  | .bt k o => Sys2Proof.Machine.execBt k o s
  | .bf k o => Sys2Proof.Machine.execBf k o s
  | .jmp o => Sys2Proof.Machine.execJmp o s
  | .jal rd o => Sys2Proof.Machine.execJal rd o s
  | .lui rd imm => Sys2Proof.Machine.execLui rd imm s
  | .lpc rd imm => Sys2Proof.Machine.execLpc rd imm s
  | .vadd vd va vb msk gs ty => Sys2Proof.Machine.execVadd vd va vb msk gs ty s
  | .vsub vd va vb msk gs ty => Sys2Proof.Machine.execVsub vd va vb msk gs ty s
  | .vmul vd va vb msk gs ty => Sys2Proof.Machine.execVmul vd va vb msk gs ty s
  | .vdiv vd va vb msk gs ty => Sys2Proof.Machine.execVdiv vd va vb msk gs ty s
  | .vfma vd va vb msk gs ty => Sys2Proof.Machine.execVfma vd va vb msk gs ty s
  | .vfms vd va vb msk gs ty => Sys2Proof.Machine.execVfms vd va vb msk gs ty s
  | .vmin vd va vb msk gs ty => Sys2Proof.Machine.execVmin vd va vb msk gs ty s
  | .vmax vd va vb msk gs ty => Sys2Proof.Machine.execVmax vd va vb msk gs ty s
  | .vabs vd va msk ty => Sys2Proof.Machine.execVabs vd va msk ty s
  | .vneg vd va msk ty => Sys2Proof.Machine.execVneg vd va msk ty s
  | .vsqrt vd va msk ty => Sys2Proof.Machine.execVsqrt vd va msk ty s
  | .vexp2 vd va msk ty => Sys2Proof.Machine.execVexp2 vd va msk ty s
  | .vand vd va vb msk gs ty => Sys2Proof.Machine.execVand vd va vb msk gs ty s
  | .vor vd va vb msk gs ty => Sys2Proof.Machine.execVor vd va vb msk gs ty s
  | .vxor vd va vb msk gs ty => Sys2Proof.Machine.execVxor vd va vb msk gs ty s
  | .vshl vd va vb msk gs ty => Sys2Proof.Machine.execVshl vd va vb msk gs ty s
  | .vshr vd va vb msk gs ty => Sys2Proof.Machine.execVshr vd va vb msk gs ty s
  | .vsra vd va vb msk gs ty => Sys2Proof.Machine.execVsra vd va vb msk gs ty s
  | .vcvt vd va msk sh c ty => Sys2Proof.Machine.execVcvt vd va msk sh c ty s
  | .vcmp k va vb msk c ty => Sys2Proof.Machine.execVcmp k va vb msk c ty s
  | .vm vd va vb o => Sys2Proof.Machine.execVm vd va vb o s
  | .vperm vd va vb msk ty => Sys2Proof.Machine.execVperm vd va vb msk ty s
  | .vbcast vd msk gs ty => Sys2Proof.Machine.execVbcast vd msk gs ty s
  | .vslide vd va msk gs ty => Sys2Proof.Machine.execVslide vd va msk gs ty s
  | .vextr va msk gs ty => Sys2Proof.Machine.execVextr va msk gs ty s
  | .vins vd msk gs ty => Sys2Proof.Machine.execVins vd msk gs ty s
  | .vredsum vd va msk gs ty => Sys2Proof.Machine.execVredsum vd va msk gs ty s
  | .vredmax vd va msk gs ty => Sys2Proof.Machine.execVredmax vd va msk gs ty s
  | .vredmin vd va msk gs ty => Sys2Proof.Machine.execVredmin vd va msk gs ty s
  | .viota vd msk ty => Sys2Proof.Machine.execViota vd msk ty s
  | .vmcnt va gs => Sys2Proof.Machine.execVmcnt va gs s
  | .vfirst va gs => Sys2Proof.Machine.execVfirst va gs s
  | .vld vd msk gs ty => Sys2Proof.Machine.execVld vd msk gs ty s
  | .vst vd msk gs ty => Sys2Proof.Machine.execVst vd msk gs ty s
  | .vlds vd msk gs ty => Sys2Proof.Machine.execVlds vd msk gs ty s
  | .vsts vd msk gs ty => Sys2Proof.Machine.execVsts vd msk gs ty s
  | .vgath vd va msk gs ty => Sys2Proof.Machine.execVgath vd va msk gs ty s
  | .vscat vd va msk gs ty => Sys2Proof.Machine.execVscat vd va msk gs ty s
  | .qtry rd n k => Sys2Proof.Machine.execQtry rd n k s
  | .qoffer n ra k => Sys2Proof.Machine.execQoffer n ra k s
  | .qcnt rd n => Sys2Proof.Machine.execQcnt rd n s
  | .vqpop vd k n => Sys2Proof.Machine.execVqpop vd k n s
  | .vqpush va k n => Sys2Proof.Machine.execVqpush va k n s
  | .mset vd gs => Sys2Proof.Machine.execMset vd gs s
  | .mget va gs => Sys2Proof.Machine.execMget va gs s
  | .vpack vd va vb ty => Sys2Proof.Machine.execVpack vd va vb ty s
  | .vunpk vd va h ty => Sys2Proof.Machine.execVunpk vd va h ty s
  | .mshape rd ra => Sys2Proof.Machine.execMshape rd ra s
  | .enq ra => Sys2Proof.Machine.execEnq ra s
  | .enqw ra rd => Sys2Proof.Machine.execEnqw ra rd s
  | .drain => Sys2Proof.Machine.execDrain s
  | .cnew rd ra c => Sys2Proof.Machine.execCnew rd ra c s
  | .cfwd => Sys2Proof.Machine.execCfwd s
  | .cins rd ra rb => Sys2Proof.Machine.execCins rd ra rb s
  | .cdel rd ra => Sys2Proof.Machine.execCdel rd ra s
  | .crep rd ra rb => Sys2Proof.Machine.execCrep rd ra rb s
  | .cpark ra => Sys2Proof.Machine.execCpark ra s
  | .gacc rd ra rb => Sys2Proof.Machine.execGacc rd ra rb s
  | .gstat rd ra rb => Sys2Proof.Machine.execGstat rd ra rb s
  | .gclose rd ra => Sys2Proof.Machine.execGclose rd ra s
  | .gflip rd ra => Sys2Proof.Machine.execGflip rd ra s
  | .gjoin rd ra rb => Sys2Proof.Machine.execGjoin rd ra rb s
  | .ringrd rd n h => Sys2Proof.Machine.execRingrd rd n h s
  | .teMma core => Sys2Proof.Machine.execTeMma core s
  | .teZacc core => Sys2Proof.Machine.execTeZacc core s
  | .ceCpy core chunk => Sys2Proof.Machine.execCeCpy core chunk s
  | .ceStr core row chunk => Sys2Proof.Machine.execCeStr core row chunk s
  | .ceGth core => Sys2Proof.Machine.execCeGth core s
  | .ceSct core => Sys2Proof.Machine.execCeSct core s
  | .ceFill core chunk => Sys2Proof.Machine.execCeFill core chunk s
  | .ceRld core => Sys2Proof.Machine.execCeRld core s
  | .ceRst core => Sys2Proof.Machine.execCeRst core s
  | .buAdd core k bank => Sys2Proof.Machine.execBuAdd core k bank s
  | .buMul core k bank => Sys2Proof.Machine.execBuMul core k bank s
  | .buScl core k bank => Sys2Proof.Machine.execBuScl core k bank s
  | .buMax core k bank => Sys2Proof.Machine.execBuMax core k bank s
  | .buMin core k bank => Sys2Proof.Machine.execBuMin core k bank s
  | .buOes core k => Sys2Proof.Machine.execBuOes core k s
  | .buNsm core k => Sys2Proof.Machine.execBuNsm core k s
  | .buWel core k => Sys2Proof.Machine.execBuWel core k s
  | .buHist core k => Sys2Proof.Machine.execBuHist core k s
  | .buFill core k bank => Sys2Proof.Machine.execBuFill core k bank s
  | .buTopk core k => Sys2Proof.Machine.execBuTopk core k s
  | .buCas core k => Sys2Proof.Machine.execBuCas core k s
  | .buFop core k bank => Sys2Proof.Machine.execBuFop core k bank s
  | .suModeEnter core k => Sys2Proof.Machine.execSuModeEnter core k s
  | .suModeLeave core k => Sys2Proof.Machine.execSuModeLeave core k s
  | .suProg core k => Sys2Proof.Machine.execSuProg core k s
  | .suBcast core k => Sys2Proof.Machine.execSuBcast core k s
  | .suRun core k => Sys2Proof.Machine.execSuRun core k s
  | .suRead core k => Sys2Proof.Machine.execSuRead core k s
  | .suAbort core k => Sys2Proof.Machine.execSuAbort core k s
  | .breSum core k => Sys2Proof.Machine.execBreSum core k s
  | .cleMs core k => Sys2Proof.Machine.execCleMs core k s
  | .cleBc core k => Sys2Proof.Machine.execCleBc core k s
  | .cleMsk core k => Sys2Proof.Machine.execCleMsk core k s
  | .placedSlotActivate core slot => Sys2Proof.Machine.execPlacedSlotActivate core slot s
  | .threadReply core slot => Sys2Proof.Machine.execThreadReply core slot s
  | .heldTokenPush core slot port => Sys2Proof.Machine.execHeldTokenPush core slot port s
  | .completionHandlerEntry core slot => Sys2Proof.Machine.execCompletionHandlerEntry core slot s
  | .homeAccess k => Sys2Proof.Machine.execHomeAccess k s
  | .reservationTimeout granule => Sys2Proof.Machine.execReservationTimeout granule s
  | .wrsTimeout core slot => Sys2Proof.Machine.execWrsTimeout core slot s
  | .homeAdmission home => Sys2Proof.Machine.execHomeAdmission home s
  | .remoteAccess k => Sys2Proof.Machine.execRemoteAccess k s
  | .combineWriteOut cluster block => Sys2Proof.Machine.execCombineWriteOut cluster block s
  | .combineTimeout cluster block => Sys2Proof.Machine.execCombineTimeout cluster block s
  | .hbmBurstMergeClose block => Sys2Proof.Machine.execHbmBurstMergeClose block s
  | .bankRequesterAged k => Sys2Proof.Machine.execBankRequesterAged k s
  | .tlbWalkComplete cluster k => Sys2Proof.Machine.execTlbWalkComplete cluster k s
  | .faultRecordDelivery cluster => Sys2Proof.Machine.execFaultRecordDelivery cluster s
  | .launchClassRise lid => Sys2Proof.Machine.execLaunchClassRise lid s
  | .taskDispatch cluster => Sys2Proof.Machine.execTaskDispatch cluster s
  | .spillRefill cluster => Sys2Proof.Machine.execSpillRefill cluster s
  | .launchComplete lid => Sys2Proof.Machine.execLaunchComplete lid s
  | .messageArrival k => Sys2Proof.Machine.execMessageArrival k s
  | .spawnArrival k => Sys2Proof.Machine.execSpawnArrival k s
  | .landingRequest k => Sys2Proof.Machine.execLandingRequest k s
  | .landingGrant core => Sys2Proof.Machine.execLandingGrant core s
  | .capsuleLanded k => Sys2Proof.Machine.execCapsuleLanded k s
  | .capsuleStepStart core buf => Sys2Proof.Machine.execCapsuleStepStart core buf s
  | .bankStep core buf => Sys2Proof.Machine.execBankStep core buf s
  | .landingRequestTimeout k => Sys2Proof.Machine.execLandingRequestTimeout k s
  | .bufferNeeded core => Sys2Proof.Machine.execBufferNeeded core s
  | .harbourTaskRetry k => Sys2Proof.Machine.execHarbourTaskRetry k s
  | .crossingLanding arrival => Sys2Proof.Machine.execCrossingLanding arrival s
  | .roverLanding k => Sys2Proof.Machine.execRoverLanding k s
  | .applyTaskRetry cluster group => Sys2Proof.Machine.execApplyTaskRetry cluster group s
  | .clePartialArrival arrival => Sys2Proof.Machine.execClePartialArrival arrival s
  | .storeCompare core pair => Sys2Proof.Machine.execStoreCompare core pair s
  | .deviceKill core slot => Sys2Proof.Machine.execDeviceKill core slot s
  | .slotScrubEnd core slot => Sys2Proof.Machine.execSlotScrubEnd core slot s
  | .patrolScrub check => Sys2Proof.Machine.execPatrolScrub check s
  | .scrubForcedCycle core bank check => Sys2Proof.Machine.execScrubForcedCycle core bank check s
  | .coreFailed core tagsReadable => Sys2Proof.Machine.execCoreFailed core tagsReadable s
  | .fenceOff core => Sys2Proof.Machine.execFenceOff core s
  | .returnToService core => Sys2Proof.Machine.execReturnToService core s
  | .hmap core => Sys2Proof.Machine.execHmap core s
  | .wbirun core => Sys2Proof.Machine.execWbirun core s
  | .lqsub core => Sys2Proof.Machine.execLqsub core s
  | .lqdel core => Sys2Proof.Machine.execLqdel core s
  | .ctxdescLoad core => Sys2Proof.Machine.execCtxdescLoad core s
  | .ctxdescUnload core => Sys2Proof.Machine.execCtxdescUnload core s
  | .tlbinv core => Sys2Proof.Machine.execTlbinv core s
  | .pfwake core => Sys2Proof.Machine.execPfwake core s
  | .sqwin core => Sys2Proof.Machine.execSqwin core s
  | .sqoff core => Sys2Proof.Machine.execSqoff core s
  | .sqrel core => Sys2Proof.Machine.execSqrel core s
  | .mbself core value => Sys2Proof.Machine.execMbself core value s
  | .mbroute core value => Sys2Proof.Machine.execMbroute core value s
  | .memdrop core => Sys2Proof.Machine.execMemdrop core s
  | .gent0Configure core => Sys2Proof.Machine.execGent0Configure core s
  | .gent0Unconfigure core => Sys2Proof.Machine.execGent0Unconfigure core s
  | .trpop core => Sys2Proof.Machine.execTrpop core s
  | .evpop core => Sys2Proof.Machine.execEvpop core s
  | .loopctl core value => Sys2Proof.Machine.execLoopctl core value s
  | .hlqsub value => Sys2Proof.Machine.execHlqsub value s
  | .hlqdel value => Sys2Proof.Machine.execHlqdel value s
  | .mqpop => Sys2Proof.Machine.execMqpop s
  | .mgmtQueueEnqueue => Sys2Proof.Machine.execMgmtQueueEnqueue s
  | .envCallRecord => Sys2Proof.Machine.execEnvCallRecord s
  | .ecans value => Sys2Proof.Machine.execEcans value s
  | .cxlMemRead pa cached => Sys2Proof.Machine.execCxlMemRead pa cached s
  | .cxlMemWrite pa data enable => Sys2Proof.Machine.execCxlMemWrite pa data enable s
  | .hostSnoop pa data write => Sys2Proof.Machine.execHostSnoop pa data write s
  | .backInvalidateResponse pa => Sys2Proof.Machine.execBackInvalidateResponse pa s
  | .pageGroupResponse key success => Sys2Proof.Machine.execPageGroupResponse key success s
  | .atsInvalidation pasid va size all => Sys2Proof.Machine.execAtsInvalidation pasid va size all s
  | .phoupFlitReceived port flit => Sys2Proof.Machine.execPhoupFlitReceived port flit s
  | .linkAckTimeout port => Sys2Proof.Machine.execLinkAckTimeout port s
  | .linkRetrained port => Sys2Proof.Machine.execLinkRetrained port s
  | .peerResponseTimeout k => Sys2Proof.Machine.execPeerResponseTimeout k s
  | .moduleReset report => Sys2Proof.Machine.execModuleReset report s
  | .ready => Sys2Proof.Machine.execReady s
  | .getVersion => Sys2Proof.Machine.execGetVersion s
  | .getCapabilities => Sys2Proof.Machine.execGetCapabilities s
  | .negotiateAlgorithms algorithms => Sys2Proof.Machine.execNegotiateAlgorithms algorithms s
  | .getDigests => Sys2Proof.Machine.execGetDigests s
  | .getCertificate offset length => Sys2Proof.Machine.execGetCertificate offset length s
  | .challenge nonce => Sys2Proof.Machine.execChallenge nonce s
  | .getMeasurements index => Sys2Proof.Machine.execGetMeasurements index s
  | .keyExchange exchange => Sys2Proof.Machine.execKeyExchange exchange s
  | .finish verify => Sys2Proof.Machine.execFinish verify s
  | .droopStretch cluster => Sys2Proof.Machine.execDroopStretch cluster s
  | .voltageClockChange cluster mhz mv gated => Sys2Proof.Machine.execVoltageClockChange cluster mhz mv gated s
  | .linkEqualisation port restored => Sys2Proof.Machine.execLinkEqualisation port restored s
  | .scrubRateAdjust quiet => Sys2Proof.Machine.execScrubRateAdjust quiet s
  | .clusterHold cluster temperature => Sys2Proof.Machine.execClusterHold cluster temperature s
  | .holdEnd cluster temperature => Sys2Proof.Machine.execHoldEnd cluster temperature s
  | .hbmRecalibration stack pch => Sys2Proof.Machine.execHbmRecalibration stack pch s
  | .lifetimeCommit => Sys2Proof.Machine.execLifetimeCommit s
  | .illegalInstruction word => Sys2Proof.Machine.execIllegalInstruction word s
  | .fetchFault cause => Sys2Proof.Machine.execFetchFault cause s
  | .atsTranslationResponse answer => Sys2Proof.Machine.execAtsTranslationResponse answer s
  | .refresh stack pch => Sys2Proof.Machine.execRefresh stack pch s
  | .coreCycle core => Sys2Proof.Machine.execCoreCycle core s
  | .abruptLossOfPower => Sys2Proof.Machine.execAbruptLossOfPower s
  | .poweredHours peaks => Sys2Proof.Machine.execPoweredHours peaks s

end Sys2Proof.Machine
end

