-- ==== Sys2Proof/Machine/Schedule.lean ====
section
/-!
DEFINITION. What happens next when no input is at hand (log entry 4): bring-up, then the first thing inside the module that
is due and changes its state, else a core cycle. It is one of the orders that the spec allows; any other order, and every
input from outside, comes through the agenda.
-/

namespace Sys2Proof.Machine

/-- The state that a step leads to. -/
def resultState (r : Result) (s : State) : State :=
  match r with
  | .next t => t
  | _ => s

/-- A thing that may happen. -/
abbrev Duty := State → Result

/-- For each number below `n`. -/
def each (n : Nat) (f : Nat → List Duty) : List Duty := (List.range n).flatMap f

/-- Only where a condition holds. -/
def ifDue (b : Bool) (l : List Duty) : List Duty := if b then l else []

/-! ## A core -/

def slotDuties (s : State) (c k : Nat) : List Duty :=
  let x := s.slotOf c k
  ifDue x.waiting [execThreadReply c k, execWrsTimeout c k] ++ ifDue (x.status == .placed) [execPlacedSlotActivate c k]
    ++ ifDue (x.status == .killed) [execSlotScrubEnd c k]

/-- The next burst of a copy that is neither done nor held: its row and place. -/
def nextBurst (x : Cmd) : Nat × Nat := ((allBursts x).find? fun b => burstDue x b.1 b.2).getD (0, 0)

/-- The next part of a copy. -/
def copyDuty (c : Nat) (x : Cmd) : List Duty :=
  match cmdCode x.word with
  | 0x20 => [execCeCpy c (nextBurst x).2]
  | 0x21 => [execCeStr c (nextBurst x).1 (nextBurst x).2]
  | 0x22 => [execCeGth c]
  | 0x23 => [execCeSct c]
  | 0x24 => [execCeFill c (nextBurst x).2]
  | 0x25 => [execCeRld c]
  | 0x26 => [execCeRst c]
  | _ => []

def bankDuties (r : Core) (c : Nat) : List Duty :=
  each r.bankQ.length fun k =>
    [execBuOes c k, execBuNsm c k, execBuWel c k, execBuHist c k, execBuTopk c k, execBuCas c k]
      ++ each 32 fun b => [execBuAdd c k b, execBuMul c k b, execBuScl c k b, execBuMax c k b, execBuMin c k b
                           , execBuFill c k b, execBuFop c k b]

def stackDuties (r : Core) (c : Nat) : List Duty :=
  each r.stackQ.length fun k =>
    [execSuAbort c k, execSuModeEnter c k, execSuModeLeave c k, execSuProg c k, execSuBcast c k, execSuRun c k, execSuRead c k]

def engineDuties (r : Core) (c : Nat) : List Duty :=
  ifDue (!r.tileQ.isEmpty) [execTeMma c, execTeZacc c] ++ r.copyQ.flatMap (copyDuty c) ++ bankDuties r c ++ stackDuties r c
    ++ each r.reductionQ.length (fun k => [execBreSum c k])
    ++ each r.collectiveQ.length fun k => [execCleMs c k, execCleBc c k, execCleMsk c k]

/-- A token held for a slot's port. -/
def tokenDuty (c : Nat) (t : HeldToken) : List Duty :=
  match t.owner with
  | .slot k => [execHeldTokenPush c k t.port]
  | _ => []

def bufDuties (r : Core) (c : Nat) : List Duty :=
  ifDue (r.bufs.toList.any fun u => u != BufUse.free)
    (each 6 (fun b => [execBankStep c b, execCapsuleStepStart c b]) ++ [execBufferNeeded c])

def coreDuties (s : State) (c : Nat) : List Duty :=
  let r := s.coreOf c
  each 8 (slotDuties s c) ++ each 3 (fun p => ifDue ((vget r.slots Slot.blank (2 * p)).pair == .leading) [execStoreCompare c p])
    ++ r.heldTokens.flatMap (tokenDuty c) ++ engineDuties r c ++ ifDue (!r.admission.isEmpty) [execHomeAdmission c]
    ++ [execLandingGrant c] ++ bufDuties r c

/-! ## A cluster -/

/-- Some thread of a cluster polls, as one whose fence waits for the combining buffer. -/
def clusterPolls (s : State) (cl : Nat) : Bool :=
  (List.range 16).any fun l => (s.coreOf (clusterCore cl l)).slots.toList.any fun x =>
    match x.wait with
    | .poll _ => true
    | _ => false

def combineDuties (s : State) (cl : Nat) (e : CombineEntry) : List Duty :=
  execCombineTimeout cl e.block :: ifDue (e.bytes.length == 256 || clusterPolls s cl) [execCombineWriteOut cl e.block]

def clusterDuties (s : State) (cl : Nat) : List Duty :=
  let p := s.clusterAt cl
  each p.waiting.length (fun k => [execTlbWalkComplete cl k]) ++ ifDue (!p.records.isEmpty) [execFaultRecordDelivery cl]
    ++ p.combine.flatMap (combineDuties s cl) ++ ifDue (!p.ring.isEmpty) [execSpillRefill cl]
    ++ ifDue (!p.bank.isEmpty) [execTaskDispatch cl] ++ p.groups.entries.map fun e => execApplyTaskRetry cl e.1

/-! ## The module -/

/-- A system-register write that waits for its unit. -/
def unitDuty (q : UnitReq) : List Duty :=
  match q.reg with
  | 0x101 => [execWbirun q.core]
  | 0x111 => [execSqwin q.core]
  | 0x112 => [execSqoff q.core]
  | 0x114 => [execSqrel q.core]
  | 0x120 => [execLqsub q.core]
  | 0x122 => [execLqdel q.core]
  | 0x131 => [execCtxdescLoad q.core, execCtxdescUnload q.core]
  | 0x132 => [execTlbinv q.core]
  | 0x133 => [execPfwake q.core]
  | 0x171 => [execGent0Configure q.core, execGent0Unconfigure q.core]
  | 0x179 => [execMemdrop q.core]
  | 0x186 => [execFenceOff q.core, execReturnToService q.core]
  | 0x188 => [execHmap q.core]
  | _ => []

/-- The requesters of banks, flights and others, that may age (R269). -/
def agingCount (s : State) : Nat := s.flights.length + (s.cores.entries.flatMap fun e => agersOf e.1 e.2).length

/-- Requests on their way. -/
def requestDuties (s : State) : List Duty :=
  each s.flights.length (fun k => [execHomeAccess k, execRemoteAccess k])
    ++ each s.peerCalls.length (fun k => [execHomeAccess (s.flights.length + k)])
    ++ each (agingCount s) (fun k => [execBankRequesterAged k])
    ++ s.queues.map (fun q => execReservationTimeout q.granule) ++ s.bursts.map (fun b => execHbmBurstMergeClose b.block)
    ++ each s.messages.length (fun k => [execMessageArrival k]) ++ each s.spawns.length (fun k => [execSpawnArrival k])
    ++ s.unitReqs.flatMap unitDuty ++ each s.landReqs.length (fun k => [execLandingRequest k])
    ++ each (s.landReqs.length + s.crossings.length) (fun k => [execLandingRequestTimeout k])
    ++ each s.transits.length (fun k => [execCapsuleLanded k, execRoverLanding k])
    ++ each s.taskRetries.length (fun k => [execHarbourTaskRetry k])
    ++ each s.peerReqs.length (fun k => [execPeerResponseTimeout k])
    ++ s.atsInvs.map fun q => execAtsInvalidation q.pasid q.va q.size q.all

def moduleDuties (s : State) : List Duty :=
  requestDuties s ++ s.queued.map (fun q => execLaunchClassRise q.record.lid)
    ++ s.placed.map (fun p => execLaunchComplete p.record.lid) ++ ifDue (!s.mgmtWaiting.isEmpty) [execMgmtQueueEnqueue]
    ++ ifDue (!s.envCalls.isEmpty) [execEnvCallRecord] ++ s.ports.entries.map (fun e => execLinkAckTimeout e.1)
    ++ ifDue (!s.hlqReqs.isEmpty) [hostSubmit] ++ ifDue (decide (0 < s.scrubDue)) [execScrubRateAdjust false] ++ ifDue (decide (168 ≤ s.quietHours)) [execScrubRateAdjust true]

/-- Everything inside the module that may happen. -/
def duties (s : State) : List Duty :=
  moduleDuties s ++ s.clusters.entries.flatMap (fun e => clusterDuties s e.1)
    ++ s.cores.entries.flatMap (fun e => coreDuties s e.1) ++ [forgetTables]

/-- What a duty leads to, if it changes more than the count of free values. -/
def tryDuty (s : State) (d : Duty) : Option State :=
  let t := resultState (d s) s
  if { t with free := s.free } = s then none else some t

/-- The next core cycle, of one core after another. -/
def cycleTurn (s : State) : State :=
  { resultState (execCoreCycle s.turn s) s with turn := (s.turn + 1) % 1280 }

/-- The bring-up of a module that finds nothing amiss. -/
def plainReport : BringUpReport :=
  { stackFails := false, dieLinksFail := false, failedCores := [], degradedPorts := [], failedBanks := [] }

/-- What happens without an input. -/
def defaultStep (s : State) : Result :=
  if !isReady s then
    (if s.booting then execReady s
     else if s.bringing.isSome then bringUpStep s
     else if bitAt s.ready 1 then .fault .bringUpStopped
     else execModuleReset plainReport s)
  else match (duties s).findSome? (tryDuty s) with
    | some t => .next t
    | none => .next (cycleTurn s)

end Sys2Proof.Machine
end

