-- ==== Sys2Proof/Machine/Step.lean ====
section
/-!
DEFINITION. One step of the module: the issue that is due, else the next input of the agenda, else what happens by itself
(log entry 4). And the state in which the next step fetches a given word (log entry 3).
-/

namespace Sys2Proof.Machine

/-- An instruction that only the issuing slot's turn brings: a word, or what a fetch comes to. -/
def ownTurn (i : Instr) : Bool :=
  match i with
  | .illegalInstruction _ | .fetchFault _ => true
  | i => i.isWord

/-- The turn of the issuing slot. -/
def issueStep (s : State) : Host.Outcome State Fault Refusal :=
  match takeTurn s with
  | .run i t => exec i t
  | .ended t => .next t

/-- A line that its home drops (R275, R282), unless its array is in use (R338). -/
def dropLine (line : Nat) (s : State) : State := if bankBusy s (line * 32) then s else (evictLine s line).2

/-- What an input does. -/
def inputStep (i : Input) (s : State) : Host.Outcome State Fault Refusal :=
  match i with
  | .event i => if ownTurn i then .next s else exec i s
  | .barRead offset => barRead offset s
  | .barWrite offset value => barWrite offset value s
  | .evictLine line => .next (dropLine line s)
  | .ferryFail transit => .next (ferryFails transit s)
  | .upset u => .next (askHost s (upset u s))
  | .raiseSecurity v => .next (raiseSecurity v s)
  | .powerDown => .next (powerDown s)
  | .placeImage record sections => .next { s with images := s.images.set record sections }

/-- The instruction in progress of a slot that goes on without an issue, if it is still out of rotation for what has come (R20). -/
def goingStep (c k : Nat) (s : State) : Host.Outcome State Fault Refusal :=
  if (s.slotOf c k).waiting then
    match runOfWord (s.slotOf c k).word (takeUp s c k) with
    | .run i t => exec i t
    | .ended t => .next t
  else .next s

/-- One step. -/
def step (s : State) : Host.Outcome State Fault Refusal :=
  if s.issuing then issueStep { s with issuing := false }
  else match s.going, s.agenda with
    | (c, k) :: rest, _ => goingStep c k { s with going := rest }
    | [], i :: rest => inputStep i { s with agenda := rest }
    | [], [] => defaultStep s

/-! ## The fetch of a given word -/

/-- A segment over all of global memory from address 0, with the execute right. -/
def codeSegment : Quad := BitVec.ofNat 128 (2 ^ 127 + 2 ^ 126 + (2 ^ 57 - 1) * 2 ^ 64)

/-- The page of 64 KiB at virtual address 0, mapped to physical address 0 for execution. -/
def codePage : TlbEntry :=
  { tag := 0, hostProcess := false, page := 0, size := 0, pa := 0, policy := .homed, r := false, w := false, x := true
    d := false }

/-- A context entry for tag 0 without tables. -/
def codeContext : Context :=
  { desc := 0, root := 0, pasid := 0, folded := false, hostProcess := false, fqsize := 0, fqbase := 0, notify := 0
    foldtab := 0 }

/-- The thread that fetches: a pilot at PC 0. -/
def codeThread : Slot := { Slot.blank with status := .runnable, sg := vset Slot.blank.sg 0 codeSegment }

/-- `s` with the word stored where the next step fetches: at physical address 0, as the pilot of core 0 issues (log entry
3). Nothing that stands between the array and the core holds an older word, and no sequence holds the bank. -/
def State.withFetchWord (s : State) (nbits w : Nat) : State :=
  let s := { s with
    mem := s.mem.writeN 0 4 (w % 2 ^ nbits), homes := s.homes.erase 0, bursts := s.bursts.filter (fun b => b.block != 0)
    apertures := {}, wants := [], going := [], ready := setBits s.ready 0 0 1, core := 0, slot := 7, issuing := true }
  let s := s.setPch 0 0 { s.pchOf 0 0 with running := none }
  let s := s.modCluster 0 fun p => { p with contexts := p.contexts.set 0 codeContext, tlb := codePage :: p.tlb }
  (s.modCore 0 fun r => { r with icache := {} }).setSlot 0 7 codeThread

end Sys2Proof.Machine
end

