-- ==== Sys2Proof/Laws/PerInstr.lean ====
section
/-!
SUPPORT. Statements made of every instruction, one lemma for each constructor: the word of an instruction that the encoding
admits decodes to that instruction.
-/

namespace Sys2Proof.Laws

/-! ## Fields of words built by appending -/

/-- A field above the last part of a word is a field of the rest. -/
theorem field_above {a b n : Nat} (x : BitVec a) (y : BitVec b) (lo : Nat) (h : b ≤ lo) :
    (x ++ y).extractLsb' lo n = x.extractLsb' (lo - b) n := by
  ext i hi
  have : ¬ lo + i < b := by omega
  simp [BitVec.getLsbD_append, BitVec.getElem_extractLsb', this, show lo + i - b = lo - b + i by omega]

/-- The last part of a word is its lowest field. -/
theorem field_last {a b : Nat} (x : BitVec a) (y : BitVec b) : (x ++ y).extractLsb' 0 b = y := by
  ext i hi
  simp [BitVec.getLsbD_append, BitVec.getElem_extractLsb', hi]

/-- A word is its upper part and its lower part. -/
theorem parts_append {a b : Nat} (m : BitVec (a + b)) : m.extractLsb' b a ++ m.extractLsb' 0 b = m := by
  ext i hi
  simp only [BitVec.getElem_append, BitVec.getElem_extractLsb']
  split
  · rw [BitVec.getLsbD_eq_getElem (by omega)]; simp
  · simp only [show b + (i - b) = i by omega]; exact BitVec.getLsbD_eq_getElem hi

/-- A masked word, part by part. -/
theorem masked_append {a b : Nat} {x : BitVec a} {y : BitVec b} {m : BitVec (a + b)}
    {p : BitVec a} {q : BitVec b} (h : x &&& m.extractLsb' b a = p) (g : y &&& m.extractLsb' 0 b = q) :
    (x ++ y) &&& m = p ++ q := by
  rw [← parts_append m, BitVec.and_append, h, g]

/-- A word whose opcode, fixed bits and fields are those of `i` decodes to `i`. -/
theorem decode_of {w m p : BitVec 32} {op : BitVec 8} {i j : Instr} (ho : field 24 8 w = op) (h0 : op ≠ 0#8 ∧ op ≠ 0xFF#8)
    (hd : decodeAt op.toNat w = accept (fixedBits m p w) j) (hf : w &&& m = p) (hj : j = i) (hi : i.encodable = true) :
    decodeWord w = .instr i := by
  subst hj
  have a : ¬ w = 0#32 := by rintro rfl; exact h0.1 (ho ▸ by decide)
  have b : ¬ w = 0xFFFFFFFF#32 := by rintro rfl; exact h0.2 (ho ▸ by decide)
  simp [decodeWord, a, b, decodeOpcode, ho, hd, accept, fixedBits, hf, (Bool.and_eq_true_iff.mp hi).2]

/-! ## The forms of the encoding tables -/

/-- Decoding one of the forms of an opcode that has several: as `decode_of`, where the choice is made by the fixed bits. -/
theorem form_segld (c : BitVec 12) (f : BitVec 3 → BitVec 6 → Instr)
    (hd : ∀ w : BitVec 32, w &&& 0xFFE00FFF#32 = 0x40#11 ++ 0#3 ++ 0#6 ++ c →
      decodeAt 8 w = accept (fixedBits 0xFFE00FFF#32 (0x40#11 ++ 0#3 ++ 0#6 ++ c) w) (f (field 18 3 w) (field 12 6 w)))
    (a : BitVec 3) (b : BitVec 6) (hi : (f a b).encodable = true) :
    decodeWord (0x40#11 ++ a ++ b ++ c) = .instr (f a b) := by
  have e : (0x40#11 ++ a ++ b ++ c) &&& 0xFFE00FFF#32 = 0x40#11 ++ 0#3 ++ 0#6 ++ c := by
    refine masked_append (masked_append (masked_append (by decide) BitVec.and_zero) BitVec.and_zero) BitVec.and_allOnes
  refine decode_of (w := 0x40#11 ++ a ++ b ++ c) (op := 8#8) ?_ (by decide) (hd _ e) e ?_ hi
  · repeat refine (field_above _ _ _ (by decide)).trans ?_
    rfl
  · refine congr (congrArg f ?_) ?_ <;>
      (repeat refine (field_above _ _ _ (by decide)).trans ?_) <;> exact field_last _ _

theorem form_fence (c : BitVec 12) (f : BitVec 6 → Instr)
    (hd : ∀ w : BitVec 32, w &&& 0xFFFC0FFF#32 = 0x1640#14 ++ 0#6 ++ c →
      decodeAt 0x59 w = accept (fixedBits 0xFFFC0FFF#32 (0x1640#14 ++ 0#6 ++ c) w) (f (field 12 6 w)))
    (a : BitVec 6) (hi : (f a).encodable = true) : decodeWord (0x1640#14 ++ a ++ c) = .instr (f a) := by
  have e : (0x1640#14 ++ a ++ c) &&& 0xFFFC0FFF#32 = 0x1640#14 ++ 0#6 ++ c := by
    refine masked_append (masked_append (by decide) BitVec.and_zero) BitVec.and_allOnes
  refine decode_of (w := 0x1640#14 ++ a ++ c) (op := 0x59#8) ?_ (by decide) (hd _ e) e ?_ hi
  · repeat refine (field_above _ _ _ (by decide)).trans ?_
    rfl
  · exact congrArg f ((field_above _ _ _ (by decide)).trans (field_last _ _))

/-- The first of the tested forms. -/
theorem tested {m p w : BitVec 32} {x y : Decoded} (h : w &&& m = p) : (if fixedBits m p w then x else y) = x := by
  simp [fixedBits, h]

/-- Not the tested form. -/
theorem untested {m p q w : BitVec 32} {x y : Decoded} (h : w &&& m = p) (n : p ≠ q) :
    (if fixedBits m q w then x else y) = y := by
  simp [fixedBits, h, n]

theorem form_trap (f : BitVec 6 → BitVec 12 → Instr) (lead : BitVec 14)
    (hd : ∀ w, decodeAt (lead.extractLsb' 6 8).toNat w = accept (fixedBits 0xFFFC0000#32 (lead ++ 0x0#6 ++ 0x0#12) w)
      (f (field 12 6 w) (field 0 12 w)))
    (h0 : lead.extractLsb' 6 8 ≠ 0#8 ∧ lead.extractLsb' 6 8 ≠ 0xFF#8) (a : BitVec 6) (b : BitVec 12)
    (hi : (f a b).encodable = true) :
    decodeWord (lead ++ a ++ b) = .instr (f a b) := by
  refine decode_of (w := lead ++ a ++ b) (m := 0xFFFC0000#32) (p := lead ++ 0x0#6 ++ 0x0#12) ?_ h0 (hd _) ?_ ?_ hi
  · repeat refine (field_above _ _ _ (by decide)).trans ?_
    rfl
  · repeat refine masked_append ?_ (by first | exact BitVec.and_zero | decide)
    exact BitVec.and_allOnes
  · refine congr (congrArg f ?_) ?_ <;>
      (repeat refine (field_above _ _ _ (by decide)).trans ?_) <;> exact field_last _ _

theorem form_tret (f : BitVec 6 → BitVec 1 → Instr) (lead : BitVec 14)
    (hd : ∀ w, decodeAt (lead.extractLsb' 6 8).toNat w = accept (fixedBits 0xFFFC0FFE#32 (lead ++ 0x0#6 ++ 0x0#11 ++ 0x0#1) w)
      (f (field 12 6 w) (field 0 1 w)))
    (h0 : lead.extractLsb' 6 8 ≠ 0#8 ∧ lead.extractLsb' 6 8 ≠ 0xFF#8) (a : BitVec 6) (b : BitVec 1)
    (hi : (f a b).encodable = true) :
    decodeWord (lead ++ a ++ 0x0#11 ++ b) = .instr (f a b) := by
  refine decode_of (w := lead ++ a ++ 0x0#11 ++ b) (m := 0xFFFC0FFE#32) (p := lead ++ 0x0#6 ++ 0x0#11 ++ 0x0#1) ?_ h0 (hd _) ?_ ?_ hi
  · repeat refine (field_above _ _ _ (by decide)).trans ?_
    rfl
  · repeat refine masked_append ?_ (by first | exact BitVec.and_zero | decide)
    exact BitVec.and_allOnes
  · refine congr (congrArg f ?_) ?_ <;>
      (repeat refine (field_above _ _ _ (by decide)).trans ?_) <;> exact field_last _ _

theorem form_park (f : BitVec 6 → Instr) (lead : BitVec 14)
    (hd : ∀ w, decodeAt (lead.extractLsb' 6 8).toNat w = accept (fixedBits 0xFFFC0FFF#32 (lead ++ 0x0#6 ++ 0x0#12) w)
      (f (field 12 6 w)))
    (h0 : lead.extractLsb' 6 8 ≠ 0#8 ∧ lead.extractLsb' 6 8 ≠ 0xFF#8) (a : BitVec 6)
    (hi : (f a).encodable = true) :
    decodeWord (lead ++ a ++ 0x0#12) = .instr (f a) := by
  refine decode_of (w := lead ++ a ++ 0x0#12) (m := 0xFFFC0FFF#32) (p := lead ++ 0x0#6 ++ 0x0#12) ?_ h0 (hd _) ?_ ?_ hi
  · repeat refine (field_above _ _ _ (by decide)).trans ?_
    rfl
  · repeat refine masked_append ?_ (by first | exact BitVec.and_zero | decide)
    exact BitVec.and_allOnes
  · refine congrArg f ?_
    repeat refine (field_above _ _ _ (by decide)).trans ?_
    exact field_last _ _

theorem form_xrd (f : BitVec 6 → BitVec 6 → BitVec 6 → Instr) (lead : BitVec 8)
    (hd : ∀ w, decodeAt (lead.extractLsb' 0 8).toNat w = accept (fixedBits 0xFF00003F#32 (lead ++ 0x0#6 ++ 0x0#6 ++ 0x0#6 ++ 0x0#6) w)
      (f (field 18 6 w) (field 12 6 w) (field 6 6 w)))
    (h0 : lead.extractLsb' 0 8 ≠ 0#8 ∧ lead.extractLsb' 0 8 ≠ 0xFF#8) (a : BitVec 6) (b : BitVec 6) (c : BitVec 6)
    (hi : (f a b c).encodable = true) :
    decodeWord (lead ++ a ++ b ++ c ++ 0x0#6) = .instr (f a b c) := by
  refine decode_of (w := lead ++ a ++ b ++ c ++ 0x0#6) (m := 0xFF00003F#32) (p := lead ++ 0x0#6 ++ 0x0#6 ++ 0x0#6 ++ 0x0#6) ?_ h0 (hd _) ?_ ?_ hi
  · repeat refine (field_above _ _ _ (by decide)).trans ?_
    rfl
  · repeat refine masked_append ?_ (by first | exact BitVec.and_zero | decide)
    exact BitVec.and_allOnes
  · refine congr (congr (congrArg f ?_) ?_) ?_ <;>
      (repeat refine (field_above _ _ _ (by decide)).trans ?_) <;> exact field_last _ _

theorem form_sysrd (f : BitVec 6 → BitVec 12 → Instr) (lead : BitVec 8)
    (hd : ∀ w, decodeAt (lead.extractLsb' 0 8).toNat w = accept (fixedBits 0xFF03F000#32 (lead ++ 0x0#6 ++ 0x0#6 ++ 0x0#12) w)
      (f (field 18 6 w) (field 0 12 w)))
    (h0 : lead.extractLsb' 0 8 ≠ 0#8 ∧ lead.extractLsb' 0 8 ≠ 0xFF#8) (a : BitVec 6) (b : BitVec 12)
    (hi : (f a b).encodable = true) :
    decodeWord (lead ++ a ++ 0x0#6 ++ b) = .instr (f a b) := by
  refine decode_of (w := lead ++ a ++ 0x0#6 ++ b) (m := 0xFF03F000#32) (p := lead ++ 0x0#6 ++ 0x0#6 ++ 0x0#12) ?_ h0 (hd _) ?_ ?_ hi
  · repeat refine (field_above _ _ _ (by decide)).trans ?_
    rfl
  · repeat refine masked_append ?_ (by first | exact BitVec.and_zero | decide)
    exact BitVec.and_allOnes
  · refine congr (congrArg f ?_) ?_ <;>
      (repeat refine (field_above _ _ _ (by decide)).trans ?_) <;> exact field_last _ _

theorem form_chkerr (f : BitVec 6 → BitVec 1 → Instr) (lead : BitVec 8)
    (hd : ∀ w, decodeAt (lead.extractLsb' 0 8).toNat w = accept (fixedBits 0xFF03FFFE#32 (lead ++ 0x0#6 ++ 0x0#17 ++ 0x0#1) w)
      (f (field 18 6 w) (field 0 1 w)))
    (h0 : lead.extractLsb' 0 8 ≠ 0#8 ∧ lead.extractLsb' 0 8 ≠ 0xFF#8) (a : BitVec 6) (b : BitVec 1)
    (hi : (f a b).encodable = true) :
    decodeWord (lead ++ a ++ 0x0#17 ++ b) = .instr (f a b) := by
  refine decode_of (w := lead ++ a ++ 0x0#17 ++ b) (m := 0xFF03FFFE#32) (p := lead ++ 0x0#6 ++ 0x0#17 ++ 0x0#1) ?_ h0 (hd _) ?_ ?_ hi
  · repeat refine (field_above _ _ _ (by decide)).trans ?_
    rfl
  · repeat refine masked_append ?_ (by first | exact BitVec.and_zero | decide)
    exact BitVec.and_allOnes
  · refine congr (congrArg f ?_) ?_ <;>
      (repeat refine (field_above _ _ _ (by decide)).trans ?_) <;> exact field_last _ _

theorem form_bar (f : BitVec 6 → BitVec 2 → Instr) (lead : BitVec 8)
    (hd : ∀ w, decodeAt (lead.extractLsb' 0 8).toNat w = accept (fixedBits 0xFF03FFFC#32 (lead ++ 0x0#6 ++ 0x0#16 ++ 0x0#2) w)
      (f (field 18 6 w) (field 0 2 w)))
    (h0 : lead.extractLsb' 0 8 ≠ 0#8 ∧ lead.extractLsb' 0 8 ≠ 0xFF#8) (a : BitVec 6) (b : BitVec 2)
    (hi : (f a b).encodable = true) :
    decodeWord (lead ++ a ++ 0x0#16 ++ b) = .instr (f a b) := by
  refine decode_of (w := lead ++ a ++ 0x0#16 ++ b) (m := 0xFF03FFFC#32) (p := lead ++ 0x0#6 ++ 0x0#16 ++ 0x0#2) ?_ h0 (hd _) ?_ ?_ hi
  · repeat refine (field_above _ _ _ (by decide)).trans ?_
    rfl
  · repeat refine masked_append ?_ (by first | exact BitVec.and_zero | decide)
    exact BitVec.and_allOnes
  · refine congr (congrArg f ?_) ?_ <;>
      (repeat refine (field_above _ _ _ (by decide)).trans ?_) <;> exact field_last _ _

theorem form_tget (f : BitVec 6 → BitVec 6 → Instr) (lead : BitVec 8)
    (hd : ∀ w, decodeAt (lead.extractLsb' 0 8).toNat w = accept (fixedBits 0xFF000FFF#32 (lead ++ 0x0#6 ++ 0x0#6 ++ 0x0#12) w)
      (f (field 18 6 w) (field 12 6 w)))
    (h0 : lead.extractLsb' 0 8 ≠ 0#8 ∧ lead.extractLsb' 0 8 ≠ 0xFF#8) (a : BitVec 6) (b : BitVec 6)
    (hi : (f a b).encodable = true) :
    decodeWord (lead ++ a ++ b ++ 0x0#12) = .instr (f a b) := by
  refine decode_of (w := lead ++ a ++ b ++ 0x0#12) (m := 0xFF000FFF#32) (p := lead ++ 0x0#6 ++ 0x0#6 ++ 0x0#12) ?_ h0 (hd _) ?_ ?_ hi
  · repeat refine (field_above _ _ _ (by decide)).trans ?_
    rfl
  · repeat refine masked_append ?_ (by first | exact BitVec.and_zero | decide)
    exact BitVec.and_allOnes
  · refine congr (congrArg f ?_) ?_ <;>
      (repeat refine (field_above _ _ _ (by decide)).trans ?_) <;> exact field_last _ _

theorem form_brk (f : BitVec 6 → Instr) (lead : BitVec 26)
    (hd : ∀ w, decodeAt (lead.extractLsb' 18 8).toNat w = accept (fixedBits 0xFFFFFFC0#32 (lead ++ 0x0#6) w)
      (f (field 0 6 w)))
    (h0 : lead.extractLsb' 18 8 ≠ 0#8 ∧ lead.extractLsb' 18 8 ≠ 0xFF#8) (a : BitVec 6)
    (hi : (f a).encodable = true) :
    decodeWord (lead ++ a) = .instr (f a) := by
  refine decode_of (w := lead ++ a) (m := 0xFFFFFFC0#32) (p := lead ++ 0x0#6) ?_ h0 (hd _) ?_ ?_ hi
  · repeat refine (field_above _ _ _ (by decide)).trans ?_
    rfl
  · repeat refine masked_append ?_ (by first | exact BitVec.and_zero | decide)
    exact BitVec.and_allOnes
  · exact congrArg f (field_last _ _)

theorem form_cont (f : BitVec 6 → BitVec 6 → BitVec 1 → Instr) (lead : BitVec 8)
    (hd : ∀ w, decodeAt (lead.extractLsb' 0 8).toNat w = accept (fixedBits 0xFF000FFE#32 (lead ++ 0x0#6 ++ 0x0#6 ++ 0x0#11 ++ 0x0#1) w)
      (f (field 18 6 w) (field 12 6 w) (field 0 1 w)))
    (h0 : lead.extractLsb' 0 8 ≠ 0#8 ∧ lead.extractLsb' 0 8 ≠ 0xFF#8) (a : BitVec 6) (b : BitVec 6) (c : BitVec 1)
    (hi : (f a b c).encodable = true) :
    decodeWord (lead ++ a ++ b ++ 0x0#11 ++ c) = .instr (f a b c) := by
  refine decode_of (w := lead ++ a ++ b ++ 0x0#11 ++ c) (m := 0xFF000FFE#32) (p := lead ++ 0x0#6 ++ 0x0#6 ++ 0x0#11 ++ 0x0#1) ?_ h0 (hd _) ?_ ?_ hi
  · repeat refine (field_above _ _ _ (by decide)).trans ?_
    rfl
  · repeat refine masked_append ?_ (by first | exact BitVec.and_zero | decide)
    exact BitVec.and_allOnes
  · refine congr (congr (congrArg f ?_) ?_) ?_ <;>
      (repeat refine (field_above _ _ _ (by decide)).trans ?_) <;> exact field_last _ _

theorem form_sext (f : BitVec 6 → BitVec 6 → BitVec 2 → Instr) (lead : BitVec 8)
    (hd : ∀ w, decodeAt (lead.extractLsb' 0 8).toNat w = accept (fixedBits 0xFF000FFC#32 (lead ++ 0x0#6 ++ 0x0#6 ++ 0x0#10 ++ 0x0#2) w)
      (f (field 18 6 w) (field 12 6 w) (field 0 2 w)))
    (h0 : lead.extractLsb' 0 8 ≠ 0#8 ∧ lead.extractLsb' 0 8 ≠ 0xFF#8) (a : BitVec 6) (b : BitVec 6) (c : BitVec 2)
    (hi : (f a b c).encodable = true) :
    decodeWord (lead ++ a ++ b ++ 0x0#10 ++ c) = .instr (f a b c) := by
  refine decode_of (w := lead ++ a ++ b ++ 0x0#10 ++ c) (m := 0xFF000FFC#32) (p := lead ++ 0x0#6 ++ 0x0#6 ++ 0x0#10 ++ 0x0#2) ?_ h0 (hd _) ?_ ?_ hi
  · repeat refine (field_above _ _ _ (by decide)).trans ?_
    rfl
  · repeat refine masked_append ?_ (by first | exact BitVec.and_zero | decide)
    exact BitVec.and_allOnes
  · refine congr (congr (congrArg f ?_) ?_) ?_ <;>
      (repeat refine (field_above _ _ _ (by decide)).trans ?_) <;> exact field_last _ _

theorem form_sel (f : BitVec 6 → BitVec 6 → BitVec 6 → BitVec 4 → Instr) (lead : BitVec 8)
    (hd : ∀ w, decodeAt (lead.extractLsb' 0 8).toNat w = accept (fixedBits 0xFF000030#32 (lead ++ 0x0#6 ++ 0x0#6 ++ 0x0#6 ++ 0x0#2 ++ 0x0#4) w)
      (f (field 18 6 w) (field 12 6 w) (field 6 6 w) (field 0 4 w)))
    (h0 : lead.extractLsb' 0 8 ≠ 0#8 ∧ lead.extractLsb' 0 8 ≠ 0xFF#8) (a : BitVec 6) (b : BitVec 6) (c : BitVec 6) (d : BitVec 4)
    (hi : (f a b c d).encodable = true) :
    decodeWord (lead ++ a ++ b ++ c ++ 0x0#2 ++ d) = .instr (f a b c d) := by
  refine decode_of (w := lead ++ a ++ b ++ c ++ 0x0#2 ++ d) (m := 0xFF000030#32) (p := lead ++ 0x0#6 ++ 0x0#6 ++ 0x0#6 ++ 0x0#2 ++ 0x0#4) ?_ h0 (hd _) ?_ ?_ hi
  · repeat refine (field_above _ _ _ (by decide)).trans ?_
    rfl
  · repeat refine masked_append ?_ (by first | exact BitVec.and_zero | decide)
    exact BitVec.and_allOnes
  · refine congr (congr (congr (congrArg f ?_) ?_) ?_) ?_ <;>
      (repeat refine (field_above _ _ _ (by decide)).trans ?_) <;> exact field_last _ _

theorem form_cmp (f : BitVec 4 → BitVec 6 → BitVec 6 → BitVec 3 → Instr) (lead : BitVec 10)
    (hd : ∀ w, decodeAt (lead.extractLsb' 2 8).toNat w = accept (fixedBits 0xFFC00038#32 (lead ++ 0x0#4 ++ 0x0#6 ++ 0x0#6 ++ 0x0#3 ++ 0x0#3) w)
      (f (field 18 4 w) (field 12 6 w) (field 6 6 w) (field 0 3 w)))
    (h0 : lead.extractLsb' 2 8 ≠ 0#8 ∧ lead.extractLsb' 2 8 ≠ 0xFF#8) (a : BitVec 4) (b : BitVec 6) (c : BitVec 6) (d : BitVec 3)
    (hi : (f a b c d).encodable = true) :
    decodeWord (lead ++ a ++ b ++ c ++ 0x0#3 ++ d) = .instr (f a b c d) := by
  refine decode_of (w := lead ++ a ++ b ++ c ++ 0x0#3 ++ d) (m := 0xFFC00038#32) (p := lead ++ 0x0#4 ++ 0x0#6 ++ 0x0#6 ++ 0x0#3 ++ 0x0#3) ?_ h0 (hd _) ?_ ?_ hi
  · repeat refine (field_above _ _ _ (by decide)).trans ?_
    rfl
  · repeat refine masked_append ?_ (by first | exact BitVec.and_zero | decide)
    exact BitVec.and_allOnes
  · refine congr (congr (congr (congrArg f ?_) ?_) ?_) ?_ <;>
      (repeat refine (field_above _ _ _ (by decide)).trans ?_) <;> exact field_last _ _

theorem form_pl (f : BitVec 4 → BitVec 4 → BitVec 4 → BitVec 2 → Instr) (lead : BitVec 10)
    (hd : ∀ w, decodeAt (lead.extractLsb' 2 8).toNat w = accept (fixedBits 0xFFC30C3C#32 (lead ++ 0x0#4 ++ 0x0#2 ++ 0x0#4 ++ 0x0#2 ++ 0x0#4 ++ 0x0#4 ++ 0x0#2) w)
      (f (field 18 4 w) (field 12 4 w) (field 6 4 w) (field 0 2 w)))
    (h0 : lead.extractLsb' 2 8 ≠ 0#8 ∧ lead.extractLsb' 2 8 ≠ 0xFF#8) (a : BitVec 4) (b : BitVec 4) (c : BitVec 4) (d : BitVec 2)
    (hi : (f a b c d).encodable = true) :
    decodeWord (lead ++ a ++ 0x0#2 ++ b ++ 0x0#2 ++ c ++ 0x0#4 ++ d) = .instr (f a b c d) := by
  refine decode_of (w := lead ++ a ++ 0x0#2 ++ b ++ 0x0#2 ++ c ++ 0x0#4 ++ d) (m := 0xFFC30C3C#32) (p := lead ++ 0x0#4 ++ 0x0#2 ++ 0x0#4 ++ 0x0#2 ++ 0x0#4 ++ 0x0#4 ++ 0x0#2) ?_ h0 (hd _) ?_ ?_ hi
  · repeat refine (field_above _ _ _ (by decide)).trans ?_
    rfl
  · repeat refine masked_append ?_ (by first | exact BitVec.and_zero | decide)
    exact BitVec.and_allOnes
  · refine congr (congr (congr (congrArg f ?_) ?_) ?_) ?_ <;>
      (repeat refine (field_above _ _ _ (by decide)).trans ?_) <;> exact field_last _ _

theorem form_addi (f : BitVec 6 → BitVec 6 → BitVec 12 → Instr) (lead : BitVec 8)
    (hd : ∀ w, decodeAt (lead.extractLsb' 0 8).toNat w = accept (fixedBits 0xFF000000#32 (lead ++ 0x0#6 ++ 0x0#6 ++ 0x0#12) w)
      (f (field 18 6 w) (field 12 6 w) (field 0 12 w)))
    (h0 : lead.extractLsb' 0 8 ≠ 0#8 ∧ lead.extractLsb' 0 8 ≠ 0xFF#8) (a : BitVec 6) (b : BitVec 6) (c : BitVec 12)
    (hi : (f a b c).encodable = true) :
    decodeWord (lead ++ a ++ b ++ c) = .instr (f a b c) := by
  refine decode_of (w := lead ++ a ++ b ++ c) (m := 0xFF000000#32) (p := lead ++ 0x0#6 ++ 0x0#6 ++ 0x0#12) ?_ h0 (hd _) ?_ ?_ hi
  · repeat refine (field_above _ _ _ (by decide)).trans ?_
    rfl
  · repeat refine masked_append ?_ (by first | exact BitVec.and_zero | decide)
    exact BitVec.and_allOnes
  · refine congr (congr (congrArg f ?_) ?_) ?_ <;>
      (repeat refine (field_above _ _ _ (by decide)).trans ?_) <;> exact field_last _ _

theorem form_slli (f : BitVec 6 → BitVec 6 → BitVec 6 → Instr) (lead : BitVec 8)
    (hd : ∀ w, decodeAt (lead.extractLsb' 0 8).toNat w = accept (fixedBits 0xFF000FC0#32 (lead ++ 0x0#6 ++ 0x0#6 ++ 0x0#6 ++ 0x0#6) w)
      (f (field 18 6 w) (field 12 6 w) (field 0 6 w)))
    (h0 : lead.extractLsb' 0 8 ≠ 0#8 ∧ lead.extractLsb' 0 8 ≠ 0xFF#8) (a : BitVec 6) (b : BitVec 6) (c : BitVec 6)
    (hi : (f a b c).encodable = true) :
    decodeWord (lead ++ a ++ b ++ 0x0#6 ++ c) = .instr (f a b c) := by
  refine decode_of (w := lead ++ a ++ b ++ 0x0#6 ++ c) (m := 0xFF000FC0#32) (p := lead ++ 0x0#6 ++ 0x0#6 ++ 0x0#6 ++ 0x0#6) ?_ h0 (hd _) ?_ ?_ hi
  · repeat refine (field_above _ _ _ (by decide)).trans ?_
    rfl
  · repeat refine masked_append ?_ (by first | exact BitVec.and_zero | decide)
    exact BitVec.and_allOnes
  · refine congr (congr (congrArg f ?_) ?_) ?_ <;>
      (repeat refine (field_above _ _ _ (by decide)).trans ?_) <;> exact field_last _ _

theorem form_cmpi (f : BitVec 2 → BitVec 4 → BitVec 6 → BitVec 12 → Instr) (lead : BitVec 8)
    (hd : ∀ w, decodeAt (lead.extractLsb' 0 8).toNat w = accept (fixedBits 0xFF000000#32 (lead ++ 0x0#2 ++ 0x0#4 ++ 0x0#6 ++ 0x0#12) w)
      (f (field 22 2 w) (field 18 4 w) (field 12 6 w) (field 0 12 w)))
    (h0 : lead.extractLsb' 0 8 ≠ 0#8 ∧ lead.extractLsb' 0 8 ≠ 0xFF#8) (a : BitVec 2) (b : BitVec 4) (c : BitVec 6) (d : BitVec 12)
    (hi : (f a b c d).encodable = true) :
    decodeWord (lead ++ a ++ b ++ c ++ d) = .instr (f a b c d) := by
  refine decode_of (w := lead ++ a ++ b ++ c ++ d) (m := 0xFF000000#32) (p := lead ++ 0x0#2 ++ 0x0#4 ++ 0x0#6 ++ 0x0#12) ?_ h0 (hd _) ?_ ?_ hi
  · repeat refine (field_above _ _ _ (by decide)).trans ?_
    rfl
  · repeat refine masked_append ?_ (by first | exact BitVec.and_zero | decide)
    exact BitVec.and_allOnes
  · refine congr (congr (congr (congrArg f ?_) ?_) ?_) ?_ <;>
      (repeat refine (field_above _ _ _ (by decide)).trans ?_) <;> exact field_last _ _

theorem form_lres (f : BitVec 6 → BitVec 6 → BitVec 1 → BitVec 2 → Instr) (lead : BitVec 8)
    (hd : ∀ w, decodeAt (lead.extractLsb' 0 8).toNat w = accept (fixedBits 0xFF000FF8#32 (lead ++ 0x0#6 ++ 0x0#6 ++ 0x0#9 ++ 0x0#1 ++ 0x0#2) w)
      (f (field 18 6 w) (field 12 6 w) (field 2 1 w) (field 0 2 w)))
    (h0 : lead.extractLsb' 0 8 ≠ 0#8 ∧ lead.extractLsb' 0 8 ≠ 0xFF#8) (a : BitVec 6) (b : BitVec 6) (c : BitVec 1) (d : BitVec 2)
    (hi : (f a b c d).encodable = true) :
    decodeWord (lead ++ a ++ b ++ 0x0#9 ++ c ++ d) = .instr (f a b c d) := by
  refine decode_of (w := lead ++ a ++ b ++ 0x0#9 ++ c ++ d) (m := 0xFF000FF8#32) (p := lead ++ 0x0#6 ++ 0x0#6 ++ 0x0#9 ++ 0x0#1 ++ 0x0#2) ?_ h0 (hd _) ?_ ?_ hi
  · repeat refine (field_above _ _ _ (by decide)).trans ?_
    rfl
  · repeat refine masked_append ?_ (by first | exact BitVec.and_zero | decide)
    exact BitVec.and_allOnes
  · refine congr (congr (congr (congrArg f ?_) ?_) ?_) ?_ <;>
      (repeat refine (field_above _ _ _ (by decide)).trans ?_) <;> exact field_last _ _

theorem form_sres (f : BitVec 6 → BitVec 6 → BitVec 6 → BitVec 1 → BitVec 2 → Instr) (lead : BitVec 8)
    (hd : ∀ w, decodeAt (lead.extractLsb' 0 8).toNat w = accept (fixedBits 0xFF000038#32 (lead ++ 0x0#6 ++ 0x0#6 ++ 0x0#6 ++ 0x0#3 ++ 0x0#1 ++ 0x0#2) w)
      (f (field 18 6 w) (field 12 6 w) (field 6 6 w) (field 2 1 w) (field 0 2 w)))
    (h0 : lead.extractLsb' 0 8 ≠ 0#8 ∧ lead.extractLsb' 0 8 ≠ 0xFF#8) (a : BitVec 6) (b : BitVec 6) (c : BitVec 6) (d : BitVec 1) (e : BitVec 2)
    (hi : (f a b c d e).encodable = true) :
    decodeWord (lead ++ a ++ b ++ c ++ 0x0#3 ++ d ++ e) = .instr (f a b c d e) := by
  refine decode_of (w := lead ++ a ++ b ++ c ++ 0x0#3 ++ d ++ e) (m := 0xFF000038#32) (p := lead ++ 0x0#6 ++ 0x0#6 ++ 0x0#6 ++ 0x0#3 ++ 0x0#1 ++ 0x0#2) ?_ h0 (hd _) ?_ ?_ hi
  · repeat refine (field_above _ _ _ (by decide)).trans ?_
    rfl
  · repeat refine masked_append ?_ (by first | exact BitVec.and_zero | decide)
    exact BitVec.and_allOnes
  · refine congr (congr (congr (congr (congrArg f ?_) ?_) ?_) ?_) ?_ <;>
      (repeat refine (field_above _ _ _ (by decide)).trans ?_) <;> exact field_last _ _

theorem form_amo (f : BitVec 6 → BitVec 6 → BitVec 6 → BitVec 4 → BitVec 2 → Instr) (lead : BitVec 8)
    (hd : ∀ w, decodeAt (lead.extractLsb' 0 8).toNat w = accept (fixedBits 0xFF000000#32 (lead ++ 0x0#6 ++ 0x0#6 ++ 0x0#6 ++ 0x0#4 ++ 0x0#2) w)
      (f (field 18 6 w) (field 12 6 w) (field 6 6 w) (field 2 4 w) (field 0 2 w)))
    (h0 : lead.extractLsb' 0 8 ≠ 0#8 ∧ lead.extractLsb' 0 8 ≠ 0xFF#8) (a : BitVec 6) (b : BitVec 6) (c : BitVec 6) (d : BitVec 4) (e : BitVec 2)
    (hi : (f a b c d e).encodable = true) :
    decodeWord (lead ++ a ++ b ++ c ++ d ++ e) = .instr (f a b c d e) := by
  refine decode_of (w := lead ++ a ++ b ++ c ++ d ++ e) (m := 0xFF000000#32) (p := lead ++ 0x0#6 ++ 0x0#6 ++ 0x0#6 ++ 0x0#4 ++ 0x0#2) ?_ h0 (hd _) ?_ ?_ hi
  · repeat refine (field_above _ _ _ (by decide)).trans ?_
    rfl
  · repeat refine masked_append ?_ (by first | exact BitVec.and_zero | decide)
    exact BitVec.and_allOnes
  · refine congr (congr (congr (congr (congrArg f ?_) ?_) ?_) ?_) ?_ <;>
      (repeat refine (field_above _ _ _ (by decide)).trans ?_) <;> exact field_last _ _

theorem form_bt (f : BitVec 4 → BitVec 12 → Instr) (lead : BitVec 10)
    (hd : ∀ w, decodeAt (lead.extractLsb' 2 8).toNat w = accept (fixedBits 0xFFC3F000#32 (lead ++ 0x0#4 ++ 0x0#6 ++ 0x0#12) w)
      (f (field 18 4 w) (field 0 12 w)))
    (h0 : lead.extractLsb' 2 8 ≠ 0#8 ∧ lead.extractLsb' 2 8 ≠ 0xFF#8) (a : BitVec 4) (b : BitVec 12)
    (hi : (f a b).encodable = true) :
    decodeWord (lead ++ a ++ 0x0#6 ++ b) = .instr (f a b) := by
  refine decode_of (w := lead ++ a ++ 0x0#6 ++ b) (m := 0xFFC3F000#32) (p := lead ++ 0x0#4 ++ 0x0#6 ++ 0x0#12) ?_ h0 (hd _) ?_ ?_ hi
  · repeat refine (field_above _ _ _ (by decide)).trans ?_
    rfl
  · repeat refine masked_append ?_ (by first | exact BitVec.and_zero | decide)
    exact BitVec.and_allOnes
  · refine congr (congrArg f ?_) ?_ <;>
      (repeat refine (field_above _ _ _ (by decide)).trans ?_) <;> exact field_last _ _

theorem form_jmp (f : BitVec 18 → Instr) (lead : BitVec 14)
    (hd : ∀ w, decodeAt (lead.extractLsb' 6 8).toNat w = accept (fixedBits 0xFFFC0000#32 (lead ++ 0x0#18) w)
      (f (field 0 18 w)))
    (h0 : lead.extractLsb' 6 8 ≠ 0#8 ∧ lead.extractLsb' 6 8 ≠ 0xFF#8) (a : BitVec 18)
    (hi : (f a).encodable = true) :
    decodeWord (lead ++ a) = .instr (f a) := by
  refine decode_of (w := lead ++ a) (m := 0xFFFC0000#32) (p := lead ++ 0x0#18) ?_ h0 (hd _) ?_ ?_ hi
  · repeat refine (field_above _ _ _ (by decide)).trans ?_
    rfl
  · repeat refine masked_append ?_ (by first | exact BitVec.and_zero | decide)
    exact BitVec.and_allOnes
  · exact congrArg f (field_last _ _)

theorem form_jal (f : BitVec 6 → BitVec 18 → Instr) (lead : BitVec 8)
    (hd : ∀ w, decodeAt (lead.extractLsb' 0 8).toNat w = accept (fixedBits 0xFF000000#32 (lead ++ 0x0#6 ++ 0x0#18) w)
      (f (field 18 6 w) (field 0 18 w)))
    (h0 : lead.extractLsb' 0 8 ≠ 0#8 ∧ lead.extractLsb' 0 8 ≠ 0xFF#8) (a : BitVec 6) (b : BitVec 18)
    (hi : (f a b).encodable = true) :
    decodeWord (lead ++ a ++ b) = .instr (f a b) := by
  refine decode_of (w := lead ++ a ++ b) (m := 0xFF000000#32) (p := lead ++ 0x0#6 ++ 0x0#18) ?_ h0 (hd _) ?_ ?_ hi
  · repeat refine (field_above _ _ _ (by decide)).trans ?_
    rfl
  · repeat refine masked_append ?_ (by first | exact BitVec.and_zero | decide)
    exact BitVec.and_allOnes
  · refine congr (congrArg f ?_) ?_ <;>
      (repeat refine (field_above _ _ _ (by decide)).trans ?_) <;> exact field_last _ _

theorem form_vadd (f : BitVec 4 → BitVec 4 → BitVec 4 → BitVec 3 → BitVec 6 → BitVec 3 → Instr) (lead : BitVec 8)
    (hd : ∀ w, decodeAt (lead.extractLsb' 0 8).toNat w = accept (fixedBits 0xFF000000#32 (lead ++ 0x0#4 ++ 0x0#4 ++ 0x0#4 ++ 0x0#3 ++ 0x0#6 ++ 0x0#3) w)
      (f (field 20 4 w) (field 16 4 w) (field 12 4 w) (field 9 3 w) (field 3 6 w) (field 0 3 w)))
    (h0 : lead.extractLsb' 0 8 ≠ 0#8 ∧ lead.extractLsb' 0 8 ≠ 0xFF#8) (a : BitVec 4) (b : BitVec 4) (c : BitVec 4) (d : BitVec 3) (e : BitVec 6) (g : BitVec 3)
    (hi : (f a b c d e g).encodable = true) :
    decodeWord (lead ++ a ++ b ++ c ++ d ++ e ++ g) = .instr (f a b c d e g) := by
  refine decode_of (w := lead ++ a ++ b ++ c ++ d ++ e ++ g) (m := 0xFF000000#32) (p := lead ++ 0x0#4 ++ 0x0#4 ++ 0x0#4 ++ 0x0#3 ++ 0x0#6 ++ 0x0#3) ?_ h0 (hd _) ?_ ?_ hi
  · repeat refine (field_above _ _ _ (by decide)).trans ?_
    rfl
  · repeat refine masked_append ?_ (by first | exact BitVec.and_zero | decide)
    exact BitVec.and_allOnes
  · refine congr (congr (congr (congr (congr (congrArg f ?_) ?_) ?_) ?_) ?_) ?_ <;>
      (repeat refine (field_above _ _ _ (by decide)).trans ?_) <;> exact field_last _ _

theorem form_vabs (f : BitVec 4 → BitVec 4 → BitVec 3 → BitVec 3 → Instr) (lead : BitVec 8)
    (hd : ∀ w, decodeAt (lead.extractLsb' 0 8).toNat w = accept (fixedBits 0xFF00F1F8#32 (lead ++ 0x0#4 ++ 0x0#4 ++ 0x0#4 ++ 0x0#3 ++ 0x0#6 ++ 0x0#3) w)
      (f (field 20 4 w) (field 16 4 w) (field 9 3 w) (field 0 3 w)))
    (h0 : lead.extractLsb' 0 8 ≠ 0#8 ∧ lead.extractLsb' 0 8 ≠ 0xFF#8) (a : BitVec 4) (b : BitVec 4) (c : BitVec 3) (d : BitVec 3)
    (hi : (f a b c d).encodable = true) :
    decodeWord (lead ++ a ++ b ++ 0x0#4 ++ c ++ 0x0#6 ++ d) = .instr (f a b c d) := by
  refine decode_of (w := lead ++ a ++ b ++ 0x0#4 ++ c ++ 0x0#6 ++ d) (m := 0xFF00F1F8#32) (p := lead ++ 0x0#4 ++ 0x0#4 ++ 0x0#4 ++ 0x0#3 ++ 0x0#6 ++ 0x0#3) ?_ h0 (hd _) ?_ ?_ hi
  · repeat refine (field_above _ _ _ (by decide)).trans ?_
    rfl
  · repeat refine masked_append ?_ (by first | exact BitVec.and_zero | decide)
    exact BitVec.and_allOnes
  · refine congr (congr (congr (congrArg f ?_) ?_) ?_) ?_ <;>
      (repeat refine (field_above _ _ _ (by decide)).trans ?_) <;> exact field_last _ _

theorem form_vcvt (f : BitVec 4 → BitVec 4 → BitVec 3 → BitVec 1 → BitVec 3 → BitVec 3 → Instr) (lead : BitVec 8)
    (hd : ∀ w, decodeAt (lead.extractLsb' 0 8).toNat w = accept (fixedBits 0xFF00F180#32 (lead ++ 0x0#4 ++ 0x0#4 ++ 0x0#4 ++ 0x0#3 ++ 0x0#2 ++ 0x0#1 ++ 0x0#3 ++ 0x0#3) w)
      (f (field 20 4 w) (field 16 4 w) (field 9 3 w) (field 6 1 w) (field 3 3 w) (field 0 3 w)))
    (h0 : lead.extractLsb' 0 8 ≠ 0#8 ∧ lead.extractLsb' 0 8 ≠ 0xFF#8) (a : BitVec 4) (b : BitVec 4) (c : BitVec 3) (d : BitVec 1) (e : BitVec 3) (g : BitVec 3)
    (hi : (f a b c d e g).encodable = true) :
    decodeWord (lead ++ a ++ b ++ 0x0#4 ++ c ++ 0x0#2 ++ d ++ e ++ g) = .instr (f a b c d e g) := by
  refine decode_of (w := lead ++ a ++ b ++ 0x0#4 ++ c ++ 0x0#2 ++ d ++ e ++ g) (m := 0xFF00F180#32) (p := lead ++ 0x0#4 ++ 0x0#4 ++ 0x0#4 ++ 0x0#3 ++ 0x0#2 ++ 0x0#1 ++ 0x0#3 ++ 0x0#3) ?_ h0 (hd _) ?_ ?_ hi
  · repeat refine (field_above _ _ _ (by decide)).trans ?_
    rfl
  · repeat refine masked_append ?_ (by first | exact BitVec.and_zero | decide)
    exact BitVec.and_allOnes
  · refine congr (congr (congr (congr (congr (congrArg f ?_) ?_) ?_) ?_) ?_) ?_ <;>
      (repeat refine (field_above _ _ _ (by decide)).trans ?_) <;> exact field_last _ _

theorem form_vcmp (f : BitVec 2 → BitVec 4 → BitVec 4 → BitVec 3 → BitVec 3 → BitVec 3 → Instr) (lead : BitVec 10)
    (hd : ∀ w, decodeAt (lead.extractLsb' 2 8).toNat w = accept (fixedBits 0xFFC001C0#32 (lead ++ 0x0#2 ++ 0x0#4 ++ 0x0#4 ++ 0x0#3 ++ 0x0#3 ++ 0x0#3 ++ 0x0#3) w)
      (f (field 20 2 w) (field 16 4 w) (field 12 4 w) (field 9 3 w) (field 3 3 w) (field 0 3 w)))
    (h0 : lead.extractLsb' 2 8 ≠ 0#8 ∧ lead.extractLsb' 2 8 ≠ 0xFF#8) (a : BitVec 2) (b : BitVec 4) (c : BitVec 4) (d : BitVec 3) (e : BitVec 3) (g : BitVec 3)
    (hi : (f a b c d e g).encodable = true) :
    decodeWord (lead ++ a ++ b ++ c ++ d ++ 0x0#3 ++ e ++ g) = .instr (f a b c d e g) := by
  refine decode_of (w := lead ++ a ++ b ++ c ++ d ++ 0x0#3 ++ e ++ g) (m := 0xFFC001C0#32) (p := lead ++ 0x0#2 ++ 0x0#4 ++ 0x0#4 ++ 0x0#3 ++ 0x0#3 ++ 0x0#3 ++ 0x0#3) ?_ h0 (hd _) ?_ ?_ hi
  · repeat refine (field_above _ _ _ (by decide)).trans ?_
    rfl
  · repeat refine masked_append ?_ (by first | exact BitVec.and_zero | decide)
    exact BitVec.and_allOnes
  · refine congr (congr (congr (congr (congr (congrArg f ?_) ?_) ?_) ?_) ?_) ?_ <;>
      (repeat refine (field_above _ _ _ (by decide)).trans ?_) <;> exact field_last _ _

theorem form_vm (f : BitVec 2 → BitVec 2 → BitVec 2 → BitVec 2 → Instr) (lead : BitVec 10)
    (hd : ∀ w, decodeAt (lead.extractLsb' 2 8).toNat w = accept (fixedBits 0xFFCCCFE7#32 (lead ++ 0x0#2 ++ 0x0#2 ++ 0x0#2 ++ 0x0#2 ++ 0x0#2 ++ 0x0#7 ++ 0x0#2 ++ 0x0#3) w)
      (f (field 20 2 w) (field 16 2 w) (field 12 2 w) (field 3 2 w)))
    (h0 : lead.extractLsb' 2 8 ≠ 0#8 ∧ lead.extractLsb' 2 8 ≠ 0xFF#8) (a : BitVec 2) (b : BitVec 2) (c : BitVec 2) (d : BitVec 2)
    (hi : (f a b c d).encodable = true) :
    decodeWord (lead ++ a ++ 0x0#2 ++ b ++ 0x0#2 ++ c ++ 0x0#7 ++ d ++ 0x0#3) = .instr (f a b c d) := by
  refine decode_of (w := lead ++ a ++ 0x0#2 ++ b ++ 0x0#2 ++ c ++ 0x0#7 ++ d ++ 0x0#3) (m := 0xFFCCCFE7#32) (p := lead ++ 0x0#2 ++ 0x0#2 ++ 0x0#2 ++ 0x0#2 ++ 0x0#2 ++ 0x0#7 ++ 0x0#2 ++ 0x0#3) ?_ h0 (hd _) ?_ ?_ hi
  · repeat refine (field_above _ _ _ (by decide)).trans ?_
    rfl
  · repeat refine masked_append ?_ (by first | exact BitVec.and_zero | decide)
    exact BitVec.and_allOnes
  · refine congr (congr (congr (congrArg f ?_) ?_) ?_) ?_ <;>
      (repeat refine (field_above _ _ _ (by decide)).trans ?_) <;> exact field_last _ _

theorem form_vperm (f : BitVec 4 → BitVec 4 → BitVec 4 → BitVec 3 → BitVec 3 → Instr) (lead : BitVec 8)
    (hd : ∀ w, decodeAt (lead.extractLsb' 0 8).toNat w = accept (fixedBits 0xFF0001F8#32 (lead ++ 0x0#4 ++ 0x0#4 ++ 0x0#4 ++ 0x0#3 ++ 0x0#6 ++ 0x0#3) w)
      (f (field 20 4 w) (field 16 4 w) (field 12 4 w) (field 9 3 w) (field 0 3 w)))
    (h0 : lead.extractLsb' 0 8 ≠ 0#8 ∧ lead.extractLsb' 0 8 ≠ 0xFF#8) (a : BitVec 4) (b : BitVec 4) (c : BitVec 4) (d : BitVec 3) (e : BitVec 3)
    (hi : (f a b c d e).encodable = true) :
    decodeWord (lead ++ a ++ b ++ c ++ d ++ 0x0#6 ++ e) = .instr (f a b c d e) := by
  refine decode_of (w := lead ++ a ++ b ++ c ++ d ++ 0x0#6 ++ e) (m := 0xFF0001F8#32) (p := lead ++ 0x0#4 ++ 0x0#4 ++ 0x0#4 ++ 0x0#3 ++ 0x0#6 ++ 0x0#3) ?_ h0 (hd _) ?_ ?_ hi
  · repeat refine (field_above _ _ _ (by decide)).trans ?_
    rfl
  · repeat refine masked_append ?_ (by first | exact BitVec.and_zero | decide)
    exact BitVec.and_allOnes
  · refine congr (congr (congr (congr (congrArg f ?_) ?_) ?_) ?_) ?_ <;>
      (repeat refine (field_above _ _ _ (by decide)).trans ?_) <;> exact field_last _ _

theorem form_vbcast (f : BitVec 4 → BitVec 3 → BitVec 6 → BitVec 3 → Instr) (lead : BitVec 8)
    (hd : ∀ w, decodeAt (lead.extractLsb' 0 8).toNat w = accept (fixedBits 0xFF0FF000#32 (lead ++ 0x0#4 ++ 0x0#8 ++ 0x0#3 ++ 0x0#6 ++ 0x0#3) w)
      (f (field 20 4 w) (field 9 3 w) (field 3 6 w) (field 0 3 w)))
    (h0 : lead.extractLsb' 0 8 ≠ 0#8 ∧ lead.extractLsb' 0 8 ≠ 0xFF#8) (a : BitVec 4) (b : BitVec 3) (c : BitVec 6) (d : BitVec 3)
    (hi : (f a b c d).encodable = true) :
    decodeWord (lead ++ a ++ 0x0#8 ++ b ++ c ++ d) = .instr (f a b c d) := by
  refine decode_of (w := lead ++ a ++ 0x0#8 ++ b ++ c ++ d) (m := 0xFF0FF000#32) (p := lead ++ 0x0#4 ++ 0x0#8 ++ 0x0#3 ++ 0x0#6 ++ 0x0#3) ?_ h0 (hd _) ?_ ?_ hi
  · repeat refine (field_above _ _ _ (by decide)).trans ?_
    rfl
  · repeat refine masked_append ?_ (by first | exact BitVec.and_zero | decide)
    exact BitVec.and_allOnes
  · refine congr (congr (congr (congrArg f ?_) ?_) ?_) ?_ <;>
      (repeat refine (field_above _ _ _ (by decide)).trans ?_) <;> exact field_last _ _

theorem form_vslide (f : BitVec 4 → BitVec 4 → BitVec 3 → BitVec 6 → BitVec 3 → Instr) (lead : BitVec 8)
    (hd : ∀ w, decodeAt (lead.extractLsb' 0 8).toNat w = accept (fixedBits 0xFF00F000#32 (lead ++ 0x0#4 ++ 0x0#4 ++ 0x0#4 ++ 0x0#3 ++ 0x0#6 ++ 0x0#3) w)
      (f (field 20 4 w) (field 16 4 w) (field 9 3 w) (field 3 6 w) (field 0 3 w)))
    (h0 : lead.extractLsb' 0 8 ≠ 0#8 ∧ lead.extractLsb' 0 8 ≠ 0xFF#8) (a : BitVec 4) (b : BitVec 4) (c : BitVec 3) (d : BitVec 6) (e : BitVec 3)
    (hi : (f a b c d e).encodable = true) :
    decodeWord (lead ++ a ++ b ++ 0x0#4 ++ c ++ d ++ e) = .instr (f a b c d e) := by
  refine decode_of (w := lead ++ a ++ b ++ 0x0#4 ++ c ++ d ++ e) (m := 0xFF00F000#32) (p := lead ++ 0x0#4 ++ 0x0#4 ++ 0x0#4 ++ 0x0#3 ++ 0x0#6 ++ 0x0#3) ?_ h0 (hd _) ?_ ?_ hi
  · repeat refine (field_above _ _ _ (by decide)).trans ?_
    rfl
  · repeat refine masked_append ?_ (by first | exact BitVec.and_zero | decide)
    exact BitVec.and_allOnes
  · refine congr (congr (congr (congr (congrArg f ?_) ?_) ?_) ?_) ?_ <;>
      (repeat refine (field_above _ _ _ (by decide)).trans ?_) <;> exact field_last _ _

theorem form_vextr (f : BitVec 4 → BitVec 3 → BitVec 6 → BitVec 3 → Instr) (lead : BitVec 12)
    (hd : ∀ w, decodeAt (lead.extractLsb' 4 8).toNat w = accept (fixedBits 0xFFF0F000#32 (lead ++ 0x0#4 ++ 0x0#4 ++ 0x0#3 ++ 0x0#6 ++ 0x0#3) w)
      (f (field 16 4 w) (field 9 3 w) (field 3 6 w) (field 0 3 w)))
    (h0 : lead.extractLsb' 4 8 ≠ 0#8 ∧ lead.extractLsb' 4 8 ≠ 0xFF#8) (a : BitVec 4) (b : BitVec 3) (c : BitVec 6) (d : BitVec 3)
    (hi : (f a b c d).encodable = true) :
    decodeWord (lead ++ a ++ 0x0#4 ++ b ++ c ++ d) = .instr (f a b c d) := by
  refine decode_of (w := lead ++ a ++ 0x0#4 ++ b ++ c ++ d) (m := 0xFFF0F000#32) (p := lead ++ 0x0#4 ++ 0x0#4 ++ 0x0#3 ++ 0x0#6 ++ 0x0#3) ?_ h0 (hd _) ?_ ?_ hi
  · repeat refine (field_above _ _ _ (by decide)).trans ?_
    rfl
  · repeat refine masked_append ?_ (by first | exact BitVec.and_zero | decide)
    exact BitVec.and_allOnes
  · refine congr (congr (congr (congrArg f ?_) ?_) ?_) ?_ <;>
      (repeat refine (field_above _ _ _ (by decide)).trans ?_) <;> exact field_last _ _

theorem form_viota (f : BitVec 4 → BitVec 3 → BitVec 3 → Instr) (lead : BitVec 8)
    (hd : ∀ w, decodeAt (lead.extractLsb' 0 8).toNat w = accept (fixedBits 0xFF0FF1F8#32 (lead ++ 0x0#4 ++ 0x0#8 ++ 0x0#3 ++ 0x0#6 ++ 0x0#3) w)
      (f (field 20 4 w) (field 9 3 w) (field 0 3 w)))
    (h0 : lead.extractLsb' 0 8 ≠ 0#8 ∧ lead.extractLsb' 0 8 ≠ 0xFF#8) (a : BitVec 4) (b : BitVec 3) (c : BitVec 3)
    (hi : (f a b c).encodable = true) :
    decodeWord (lead ++ a ++ 0x0#8 ++ b ++ 0x0#6 ++ c) = .instr (f a b c) := by
  refine decode_of (w := lead ++ a ++ 0x0#8 ++ b ++ 0x0#6 ++ c) (m := 0xFF0FF1F8#32) (p := lead ++ 0x0#4 ++ 0x0#8 ++ 0x0#3 ++ 0x0#6 ++ 0x0#3) ?_ h0 (hd _) ?_ ?_ hi
  · repeat refine (field_above _ _ _ (by decide)).trans ?_
    rfl
  · repeat refine masked_append ?_ (by first | exact BitVec.and_zero | decide)
    exact BitVec.and_allOnes
  · refine congr (congr (congrArg f ?_) ?_) ?_ <;>
      (repeat refine (field_above _ _ _ (by decide)).trans ?_) <;> exact field_last _ _

theorem form_vmcnt (f : BitVec 2 → BitVec 6 → Instr) (lead : BitVec 14)
    (hd : ∀ w, decodeAt (lead.extractLsb' 6 8).toNat w = accept (fixedBits 0xFFFCFE07#32 (lead ++ 0x0#2 ++ 0x0#7 ++ 0x0#6 ++ 0x0#3) w)
      (f (field 16 2 w) (field 3 6 w)))
    (h0 : lead.extractLsb' 6 8 ≠ 0#8 ∧ lead.extractLsb' 6 8 ≠ 0xFF#8) (a : BitVec 2) (b : BitVec 6)
    (hi : (f a b).encodable = true) :
    decodeWord (lead ++ a ++ 0x0#7 ++ b ++ 0x0#3) = .instr (f a b) := by
  refine decode_of (w := lead ++ a ++ 0x0#7 ++ b ++ 0x0#3) (m := 0xFFFCFE07#32) (p := lead ++ 0x0#2 ++ 0x0#7 ++ 0x0#6 ++ 0x0#3) ?_ h0 (hd _) ?_ ?_ hi
  · repeat refine (field_above _ _ _ (by decide)).trans ?_
    rfl
  · repeat refine masked_append ?_ (by first | exact BitVec.and_zero | decide)
    exact BitVec.and_allOnes
  · refine congr (congrArg f ?_) ?_ <;>
      (repeat refine (field_above _ _ _ (by decide)).trans ?_) <;> exact field_last _ _

theorem form_qtry (f : BitVec 6 → BitVec 4 → BitVec 4 → Instr) (lead : BitVec 8)
    (hd : ∀ w, decodeAt (lead.extractLsb' 0 8).toNat w = accept (fixedBits 0xFF030FF0#32 (lead ++ 0x0#6 ++ 0x0#2 ++ 0x0#4 ++ 0x0#8 ++ 0x0#4) w)
      (f (field 18 6 w) (field 12 4 w) (field 0 4 w)))
    (h0 : lead.extractLsb' 0 8 ≠ 0#8 ∧ lead.extractLsb' 0 8 ≠ 0xFF#8) (a : BitVec 6) (b : BitVec 4) (c : BitVec 4)
    (hi : (f a b c).encodable = true) :
    decodeWord (lead ++ a ++ 0x0#2 ++ b ++ 0x0#8 ++ c) = .instr (f a b c) := by
  refine decode_of (w := lead ++ a ++ 0x0#2 ++ b ++ 0x0#8 ++ c) (m := 0xFF030FF0#32) (p := lead ++ 0x0#6 ++ 0x0#2 ++ 0x0#4 ++ 0x0#8 ++ 0x0#4) ?_ h0 (hd _) ?_ ?_ hi
  · repeat refine (field_above _ _ _ (by decide)).trans ?_
    rfl
  · repeat refine masked_append ?_ (by first | exact BitVec.and_zero | decide)
    exact BitVec.and_allOnes
  · refine congr (congr (congrArg f ?_) ?_) ?_ <;>
      (repeat refine (field_above _ _ _ (by decide)).trans ?_) <;> exact field_last _ _

theorem form_qoffer (f : BitVec 4 → BitVec 6 → BitVec 4 → Instr) (lead : BitVec 10)
    (hd : ∀ w, decodeAt (lead.extractLsb' 2 8).toNat w = accept (fixedBits 0xFFC00FF0#32 (lead ++ 0x0#4 ++ 0x0#6 ++ 0x0#8 ++ 0x0#4) w)
      (f (field 18 4 w) (field 12 6 w) (field 0 4 w)))
    (h0 : lead.extractLsb' 2 8 ≠ 0#8 ∧ lead.extractLsb' 2 8 ≠ 0xFF#8) (a : BitVec 4) (b : BitVec 6) (c : BitVec 4)
    (hi : (f a b c).encodable = true) :
    decodeWord (lead ++ a ++ b ++ 0x0#8 ++ c) = .instr (f a b c) := by
  refine decode_of (w := lead ++ a ++ b ++ 0x0#8 ++ c) (m := 0xFFC00FF0#32) (p := lead ++ 0x0#4 ++ 0x0#6 ++ 0x0#8 ++ 0x0#4) ?_ h0 (hd _) ?_ ?_ hi
  · repeat refine (field_above _ _ _ (by decide)).trans ?_
    rfl
  · repeat refine masked_append ?_ (by first | exact BitVec.and_zero | decide)
    exact BitVec.and_allOnes
  · refine congr (congr (congrArg f ?_) ?_) ?_ <;>
      (repeat refine (field_above _ _ _ (by decide)).trans ?_) <;> exact field_last _ _

theorem form_qcnt (f : BitVec 6 → BitVec 4 → Instr) (lead : BitVec 8)
    (hd : ∀ w, decodeAt (lead.extractLsb' 0 8).toNat w = accept (fixedBits 0xFF030FFF#32 (lead ++ 0x0#6 ++ 0x0#2 ++ 0x0#4 ++ 0x0#12) w)
      (f (field 18 6 w) (field 12 4 w)))
    (h0 : lead.extractLsb' 0 8 ≠ 0#8 ∧ lead.extractLsb' 0 8 ≠ 0xFF#8) (a : BitVec 6) (b : BitVec 4)
    (hi : (f a b).encodable = true) :
    decodeWord (lead ++ a ++ 0x0#2 ++ b ++ 0x0#12) = .instr (f a b) := by
  refine decode_of (w := lead ++ a ++ 0x0#2 ++ b ++ 0x0#12) (m := 0xFF030FFF#32) (p := lead ++ 0x0#6 ++ 0x0#2 ++ 0x0#4 ++ 0x0#12) ?_ h0 (hd _) ?_ ?_ hi
  · repeat refine (field_above _ _ _ (by decide)).trans ?_
    rfl
  · repeat refine masked_append ?_ (by first | exact BitVec.and_zero | decide)
    exact BitVec.and_allOnes
  · refine congr (congrArg f ?_) ?_ <;>
      (repeat refine (field_above _ _ _ (by decide)).trans ?_) <;> exact field_last _ _

theorem form_vqpop (f : BitVec 4 → BitVec 4 → BitVec 4 → Instr) (lead : BitVec 8)
    (hd : ∀ w, decodeAt (lead.extractLsb' 0 8).toNat w = accept (fixedBits 0xFF0F0F87#32 (lead ++ 0x0#4 ++ 0x0#4 ++ 0x0#4 ++ 0x2#5 ++ 0x0#4 ++ 0x0#3) w)
      (f (field 20 4 w) (field 12 4 w) (field 3 4 w)))
    (h0 : lead.extractLsb' 0 8 ≠ 0#8 ∧ lead.extractLsb' 0 8 ≠ 0xFF#8) (a : BitVec 4) (b : BitVec 4) (c : BitVec 4)
    (hi : (f a b c).encodable = true) :
    decodeWord (lead ++ a ++ 0x0#4 ++ b ++ 0x2#5 ++ c ++ 0x0#3) = .instr (f a b c) := by
  refine decode_of (w := lead ++ a ++ 0x0#4 ++ b ++ 0x2#5 ++ c ++ 0x0#3) (m := 0xFF0F0F87#32) (p := lead ++ 0x0#4 ++ 0x0#4 ++ 0x0#4 ++ 0x2#5 ++ 0x0#4 ++ 0x0#3) ?_ h0 (hd _) ?_ ?_ hi
  · repeat refine (field_above _ _ _ (by decide)).trans ?_
    rfl
  · repeat refine masked_append ?_ (by first | exact BitVec.and_zero | decide)
    exact BitVec.and_allOnes
  · refine congr (congr (congrArg f ?_) ?_) ?_ <;>
      (repeat refine (field_above _ _ _ (by decide)).trans ?_) <;> exact field_last _ _

theorem form_vqpush (f : BitVec 4 → BitVec 4 → BitVec 4 → Instr) (lead : BitVec 12)
    (hd : ∀ w, decodeAt (lead.extractLsb' 4 8).toNat w = accept (fixedBits 0xFFF00F87#32 (lead ++ 0x0#4 ++ 0x0#4 ++ 0x2#5 ++ 0x0#4 ++ 0x0#3) w)
      (f (field 16 4 w) (field 12 4 w) (field 3 4 w)))
    (h0 : lead.extractLsb' 4 8 ≠ 0#8 ∧ lead.extractLsb' 4 8 ≠ 0xFF#8) (a : BitVec 4) (b : BitVec 4) (c : BitVec 4)
    (hi : (f a b c).encodable = true) :
    decodeWord (lead ++ a ++ b ++ 0x2#5 ++ c ++ 0x0#3) = .instr (f a b c) := by
  refine decode_of (w := lead ++ a ++ b ++ 0x2#5 ++ c ++ 0x0#3) (m := 0xFFF00F87#32) (p := lead ++ 0x0#4 ++ 0x0#4 ++ 0x2#5 ++ 0x0#4 ++ 0x0#3) ?_ h0 (hd _) ?_ ?_ hi
  · repeat refine (field_above _ _ _ (by decide)).trans ?_
    rfl
  · repeat refine masked_append ?_ (by first | exact BitVec.and_zero | decide)
    exact BitVec.and_allOnes
  · refine congr (congr (congrArg f ?_) ?_) ?_ <;>
      (repeat refine (field_above _ _ _ (by decide)).trans ?_) <;> exact field_last _ _

theorem form_mset (f : BitVec 2 → BitVec 6 → Instr) (lead : BitVec 10)
    (hd : ∀ w, decodeAt (lead.extractLsb' 2 8).toNat w = accept (fixedBits 0xFFCFFE07#32 (lead ++ 0x0#2 ++ 0x0#11 ++ 0x0#6 ++ 0x0#3) w)
      (f (field 20 2 w) (field 3 6 w)))
    (h0 : lead.extractLsb' 2 8 ≠ 0#8 ∧ lead.extractLsb' 2 8 ≠ 0xFF#8) (a : BitVec 2) (b : BitVec 6)
    (hi : (f a b).encodable = true) :
    decodeWord (lead ++ a ++ 0x0#11 ++ b ++ 0x0#3) = .instr (f a b) := by
  refine decode_of (w := lead ++ a ++ 0x0#11 ++ b ++ 0x0#3) (m := 0xFFCFFE07#32) (p := lead ++ 0x0#2 ++ 0x0#11 ++ 0x0#6 ++ 0x0#3) ?_ h0 (hd _) ?_ ?_ hi
  · repeat refine (field_above _ _ _ (by decide)).trans ?_
    rfl
  · repeat refine masked_append ?_ (by first | exact BitVec.and_zero | decide)
    exact BitVec.and_allOnes
  · refine congr (congrArg f ?_) ?_ <;>
      (repeat refine (field_above _ _ _ (by decide)).trans ?_) <;> exact field_last _ _

theorem form_vpack (f : BitVec 4 → BitVec 4 → BitVec 4 → BitVec 3 → Instr) (lead : BitVec 8)
    (hd : ∀ w, decodeAt (lead.extractLsb' 0 8).toNat w = accept (fixedBits 0xFF000FF8#32 (lead ++ 0x0#4 ++ 0x0#4 ++ 0x0#4 ++ 0x0#9 ++ 0x0#3) w)
      (f (field 20 4 w) (field 16 4 w) (field 12 4 w) (field 0 3 w)))
    (h0 : lead.extractLsb' 0 8 ≠ 0#8 ∧ lead.extractLsb' 0 8 ≠ 0xFF#8) (a : BitVec 4) (b : BitVec 4) (c : BitVec 4) (d : BitVec 3)
    (hi : (f a b c d).encodable = true) :
    decodeWord (lead ++ a ++ b ++ c ++ 0x0#9 ++ d) = .instr (f a b c d) := by
  refine decode_of (w := lead ++ a ++ b ++ c ++ 0x0#9 ++ d) (m := 0xFF000FF8#32) (p := lead ++ 0x0#4 ++ 0x0#4 ++ 0x0#4 ++ 0x0#9 ++ 0x0#3) ?_ h0 (hd _) ?_ ?_ hi
  · repeat refine (field_above _ _ _ (by decide)).trans ?_
    rfl
  · repeat refine masked_append ?_ (by first | exact BitVec.and_zero | decide)
    exact BitVec.and_allOnes
  · refine congr (congr (congr (congrArg f ?_) ?_) ?_) ?_ <;>
      (repeat refine (field_above _ _ _ (by decide)).trans ?_) <;> exact field_last _ _

theorem form_vunpk (f : BitVec 4 → BitVec 4 → BitVec 2 → BitVec 3 → Instr) (lead : BitVec 8)
    (hd : ∀ w, decodeAt (lead.extractLsb' 0 8).toNat w = accept (fixedBits 0xFF00CFF8#32 (lead ++ 0x0#4 ++ 0x0#4 ++ 0x0#2 ++ 0x0#2 ++ 0x0#9 ++ 0x0#3) w)
      (f (field 20 4 w) (field 16 4 w) (field 12 2 w) (field 0 3 w)))
    (h0 : lead.extractLsb' 0 8 ≠ 0#8 ∧ lead.extractLsb' 0 8 ≠ 0xFF#8) (a : BitVec 4) (b : BitVec 4) (c : BitVec 2) (d : BitVec 3)
    (hi : (f a b c d).encodable = true) :
    decodeWord (lead ++ a ++ b ++ 0x0#2 ++ c ++ 0x0#9 ++ d) = .instr (f a b c d) := by
  refine decode_of (w := lead ++ a ++ b ++ 0x0#2 ++ c ++ 0x0#9 ++ d) (m := 0xFF00CFF8#32) (p := lead ++ 0x0#4 ++ 0x0#4 ++ 0x0#2 ++ 0x0#2 ++ 0x0#9 ++ 0x0#3) ?_ h0 (hd _) ?_ ?_ hi
  · repeat refine (field_above _ _ _ (by decide)).trans ?_
    rfl
  · repeat refine masked_append ?_ (by first | exact BitVec.and_zero | decide)
    exact BitVec.and_allOnes
  · refine congr (congr (congr (congrArg f ?_) ?_) ?_) ?_ <;>
      (repeat refine (field_above _ _ _ (by decide)).trans ?_) <;> exact field_last _ _

theorem form_enq (f : BitVec 6 → Instr) (lead : BitVec 8)
    (hd : ∀ w, decodeAt (lead.extractLsb' 0 8).toNat w = accept (fixedBits 0xFF03FFFF#32 (lead ++ 0x0#6 ++ 0x0#18) w)
      (f (field 18 6 w)))
    (h0 : lead.extractLsb' 0 8 ≠ 0#8 ∧ lead.extractLsb' 0 8 ≠ 0xFF#8) (a : BitVec 6)
    (hi : (f a).encodable = true) :
    decodeWord (lead ++ a ++ 0x0#18) = .instr (f a) := by
  refine decode_of (w := lead ++ a ++ 0x0#18) (m := 0xFF03FFFF#32) (p := lead ++ 0x0#6 ++ 0x0#18) ?_ h0 (hd _) ?_ ?_ hi
  · repeat refine (field_above _ _ _ (by decide)).trans ?_
    rfl
  · repeat refine masked_append ?_ (by first | exact BitVec.and_zero | decide)
    exact BitVec.and_allOnes
  · refine congrArg f ?_
    repeat refine (field_above _ _ _ (by decide)).trans ?_
    exact field_last _ _

theorem form_ringrd (f : BitVec 6 → BitVec 3 → BitVec 1 → Instr) (lead : BitVec 8)
    (hd : ∀ w, decodeAt (lead.extractLsb' 0 8).toNat w = accept (fixedBits 0xFF038FFE#32 (lead ++ 0x0#6 ++ 0x0#3 ++ 0x0#3 ++ 0x0#11 ++ 0x0#1) w)
      (f (field 18 6 w) (field 12 3 w) (field 0 1 w)))
    (h0 : lead.extractLsb' 0 8 ≠ 0#8 ∧ lead.extractLsb' 0 8 ≠ 0xFF#8) (a : BitVec 6) (b : BitVec 3) (c : BitVec 1)
    (hi : (f a b c).encodable = true) :
    decodeWord (lead ++ a ++ 0x0#3 ++ b ++ 0x0#11 ++ c) = .instr (f a b c) := by
  refine decode_of (w := lead ++ a ++ 0x0#3 ++ b ++ 0x0#11 ++ c) (m := 0xFF038FFE#32) (p := lead ++ 0x0#6 ++ 0x0#3 ++ 0x0#3 ++ 0x0#11 ++ 0x0#1) ?_ h0 (hd _) ?_ ?_ hi
  · repeat refine (field_above _ _ _ (by decide)).trans ?_
    rfl
  · repeat refine masked_append ?_ (by first | exact BitVec.and_zero | decide)
    exact BitVec.and_allOnes
  · refine congr (congr (congrArg f ?_) ?_) ?_ <;>
      (repeat refine (field_above _ _ _ (by decide)).trans ?_) <;> exact field_last _ _

/-- The word of an instruction that the encoding admits decodes to it. -/
def RoundTrip.Statement (i : Instr) : Prop := i.encodable = true → decodeWord (encodeWord i) = .instr i

theorem RoundTrip.trap (ra : BitVec 6) (imm : BitVec 12) : Statement (.trap ra imm) :=
  form_trap .trap 0x40#14 (fun _ => by rfl) (by decide) ra imm
theorem RoundTrip.tret (ra : BitVec 6) (s : BitVec 1) : Statement (.tret ra s) := form_tret .tret 0x80#14 (fun _ => by rfl) (by decide) ra s
theorem RoundTrip.park (ra : BitVec 6) : Statement (.park ra) := form_park .park 0xC0#14 (fun _ => by rfl) (by decide) ra
theorem RoundTrip.xrd (rd : BitVec 6) (ra : BitVec 6) (rb : BitVec 6) : Statement (.xrd rd ra rb) := form_xrd .xrd 0x4#8 (fun _ => by rfl) (by decide) rd ra rb
theorem RoundTrip.xwr (gv : BitVec 6) (ra : BitVec 6) (rb : BitVec 6) : Statement (.xwr gv ra rb) := form_xrd .xwr 0x5#8 (fun _ => by rfl) (by decide) gv ra rb
theorem RoundTrip.sysrd (rd : BitVec 6) (n : BitVec 12) : Statement (.sysrd rd n) := form_sysrd .sysrd 0x6#8 (fun _ => by rfl) (by decide) rd n
theorem RoundTrip.syswr (ra : BitVec 6) (n : BitVec 12) : Statement (.syswr ra n) :=
  form_trap .syswr 0x1C0#14 (fun _ => by rfl) (by decide) ra n
theorem RoundTrip.segld (s : BitVec 3) (ra : BitVec 6) : Statement (.segld s ra) := form_segld 0#12 .segld (fun _ h => tested h) s ra
theorem RoundTrip.segldImg (s : BitVec 3) (ra : BitVec 6) : Statement (.segldImg s ra) :=
  form_segld 1#12 .segldImg (fun _ h => untested h (by decide)) s ra
theorem RoundTrip.ifence : Statement (.ifence) := fun _ => by decide
theorem RoundTrip.chkerr (rd : BitVec 6) (c : BitVec 1) : Statement (.chkerr rd c) :=
  form_chkerr .chkerr 0xA#8 (fun _ => by rfl) (by decide) rd c
theorem RoundTrip.quit : Statement (.quit) := fun _ => by decide
theorem RoundTrip.send (rd : BitVec 6) (ra : BitVec 6) (rb : BitVec 6) : Statement (.send rd ra rb) := form_xrd .send 0xC#8 (fun _ => by rfl) (by decide) rd ra rb
theorem RoundTrip.bar (rd : BitVec 6) (lvl : BitVec 2) : Statement (.bar rd lvl) := form_bar .bar 0xD#8 (fun _ => by rfl) (by decide) rd lvl
theorem RoundTrip.dockIn (rd : BitVec 6) (ra : BitVec 6) (rb : BitVec 6) : Statement (.dockIn rd ra rb) :=
  form_xrd .dockIn 0xE#8 (fun _ => by rfl) (by decide) rd ra rb
theorem RoundTrip.dockOut (rd : BitVec 6) (ra : BitVec 6) (rb : BitVec 6) : Statement (.dockOut rd ra rb) :=
  form_xrd .dockOut 0xF#8 (fun _ => by rfl) (by decide) rd ra rb
theorem RoundTrip.spawn (rd : BitVec 6) (ra : BitVec 6) (rb : BitVec 6) : Statement (.spawn rd ra rb) :=
  form_xrd .spawn 0x10#8 (fun _ => by rfl) (by decide) rd ra rb
theorem RoundTrip.tsub (rd : BitVec 6) (ra : BitVec 6) (rb : BitVec 6) : Statement (.tsub rd ra rb) :=
  form_xrd .tsub 0x11#8 (fun _ => by rfl) (by decide) rd ra rb
theorem RoundTrip.tget (rd : BitVec 6) (ra : BitVec 6) : Statement (.tget rd ra) := form_tget .tget 0x12#8 (fun _ => by rfl) (by decide) rd ra
theorem RoundTrip.tdone (rd : BitVec 6) (ra : BitVec 6) : Statement (.tdone rd ra) := form_tget .tdone 0x13#8 (fun _ => by rfl) (by decide) rd ra
theorem RoundTrip.brk (n : BitVec 6) : Statement (.brk n) := form_brk .brk 0x500000#26 (fun _ => by rfl) (by decide) n
theorem RoundTrip.kill (rd : BitVec 6) (ra : BitVec 6) : Statement (.kill rd ra) := form_tget .kill 0x15#8 (fun _ => by rfl) (by decide) rd ra
theorem RoundTrip.wake (rd : BitVec 6) (ra : BitVec 6) (rb : BitVec 6) : Statement (.wake rd ra rb) :=
  form_xrd .wake 0x16#8 (fun _ => by rfl) (by decide) rd ra rb
theorem RoundTrip.halt (rd : BitVec 6) (ra : BitVec 6) : Statement (.halt rd ra) := form_tget .halt 0x17#8 (fun _ => by rfl) (by decide) rd ra
theorem RoundTrip.cont (rd : BitVec 6) (ra : BitVec 6) (s : BitVec 1) : Statement (.cont rd ra s) :=
  form_cont .cont 0x18#8 (fun _ => by rfl) (by decide) rd ra s
theorem RoundTrip.add (rd : BitVec 6) (ra : BitVec 6) (rb : BitVec 6) : Statement (.add rd ra rb) := form_xrd .add 0x20#8 (fun _ => by rfl) (by decide) rd ra rb
theorem RoundTrip.sub (rd : BitVec 6) (ra : BitVec 6) (rb : BitVec 6) : Statement (.sub rd ra rb) := form_xrd .sub 0x21#8 (fun _ => by rfl) (by decide) rd ra rb
theorem RoundTrip.mul (rd : BitVec 6) (ra : BitVec 6) (rb : BitVec 6) : Statement (.mul rd ra rb) := form_xrd .mul 0x22#8 (fun _ => by rfl) (by decide) rd ra rb
theorem RoundTrip.mulh (rd : BitVec 6) (ra : BitVec 6) (rb : BitVec 6) : Statement (.mulh rd ra rb) :=
  form_xrd .mulh 0x23#8 (fun _ => by rfl) (by decide) rd ra rb
theorem RoundTrip.mulhu (rd : BitVec 6) (ra : BitVec 6) (rb : BitVec 6) : Statement (.mulhu rd ra rb) :=
  form_xrd .mulhu 0x24#8 (fun _ => by rfl) (by decide) rd ra rb
theorem RoundTrip.div (rd : BitVec 6) (ra : BitVec 6) (rb : BitVec 6) : Statement (.div rd ra rb) := form_xrd .div 0x25#8 (fun _ => by rfl) (by decide) rd ra rb
theorem RoundTrip.divu (rd : BitVec 6) (ra : BitVec 6) (rb : BitVec 6) : Statement (.divu rd ra rb) :=
  form_xrd .divu 0x26#8 (fun _ => by rfl) (by decide) rd ra rb
theorem RoundTrip.rem (rd : BitVec 6) (ra : BitVec 6) (rb : BitVec 6) : Statement (.rem rd ra rb) := form_xrd .rem 0x27#8 (fun _ => by rfl) (by decide) rd ra rb
theorem RoundTrip.remu (rd : BitVec 6) (ra : BitVec 6) (rb : BitVec 6) : Statement (.remu rd ra rb) :=
  form_xrd .remu 0x28#8 (fun _ => by rfl) (by decide) rd ra rb
theorem RoundTrip.and (rd : BitVec 6) (ra : BitVec 6) (rb : BitVec 6) : Statement (.and rd ra rb) := form_xrd .and 0x29#8 (fun _ => by rfl) (by decide) rd ra rb
theorem RoundTrip.or (rd : BitVec 6) (ra : BitVec 6) (rb : BitVec 6) : Statement (.or rd ra rb) := form_xrd .or 0x2A#8 (fun _ => by rfl) (by decide) rd ra rb
theorem RoundTrip.xor (rd : BitVec 6) (ra : BitVec 6) (rb : BitVec 6) : Statement (.xor rd ra rb) := form_xrd .xor 0x2B#8 (fun _ => by rfl) (by decide) rd ra rb
theorem RoundTrip.andn (rd : BitVec 6) (ra : BitVec 6) (rb : BitVec 6) : Statement (.andn rd ra rb) :=
  form_xrd .andn 0x2C#8 (fun _ => by rfl) (by decide) rd ra rb
theorem RoundTrip.sll (rd : BitVec 6) (ra : BitVec 6) (rb : BitVec 6) : Statement (.sll rd ra rb) := form_xrd .sll 0x2D#8 (fun _ => by rfl) (by decide) rd ra rb
theorem RoundTrip.srl (rd : BitVec 6) (ra : BitVec 6) (rb : BitVec 6) : Statement (.srl rd ra rb) := form_xrd .srl 0x2E#8 (fun _ => by rfl) (by decide) rd ra rb
theorem RoundTrip.sra (rd : BitVec 6) (ra : BitVec 6) (rb : BitVec 6) : Statement (.sra rd ra rb) := form_xrd .sra 0x2F#8 (fun _ => by rfl) (by decide) rd ra rb
theorem RoundTrip.min (rd : BitVec 6) (ra : BitVec 6) (rb : BitVec 6) : Statement (.min rd ra rb) := form_xrd .min 0x30#8 (fun _ => by rfl) (by decide) rd ra rb
theorem RoundTrip.max (rd : BitVec 6) (ra : BitVec 6) (rb : BitVec 6) : Statement (.max rd ra rb) := form_xrd .max 0x31#8 (fun _ => by rfl) (by decide) rd ra rb
theorem RoundTrip.minu (rd : BitVec 6) (ra : BitVec 6) (rb : BitVec 6) : Statement (.minu rd ra rb) :=
  form_xrd .minu 0x32#8 (fun _ => by rfl) (by decide) rd ra rb
theorem RoundTrip.maxu (rd : BitVec 6) (ra : BitVec 6) (rb : BitVec 6) : Statement (.maxu rd ra rb) :=
  form_xrd .maxu 0x33#8 (fun _ => by rfl) (by decide) rd ra rb
theorem RoundTrip.clz (rd : BitVec 6) (ra : BitVec 6) : Statement (.clz rd ra) := form_tget .clz 0x34#8 (fun _ => by rfl) (by decide) rd ra
theorem RoundTrip.ctz (rd : BitVec 6) (ra : BitVec 6) : Statement (.ctz rd ra) := form_tget .ctz 0x35#8 (fun _ => by rfl) (by decide) rd ra
theorem RoundTrip.popc (rd : BitVec 6) (ra : BitVec 6) : Statement (.popc rd ra) := form_tget .popc 0x36#8 (fun _ => by rfl) (by decide) rd ra
theorem RoundTrip.sext (rd : BitVec 6) (ra : BitVec 6) (w : BitVec 2) : Statement (.sext rd ra w) :=
  form_sext .sext 0x37#8 (fun _ => by rfl) (by decide) rd ra w
theorem RoundTrip.zext (rd : BitVec 6) (ra : BitVec 6) (w : BitVec 2) : Statement (.zext rd ra w) :=
  form_sext .zext 0x38#8 (fun _ => by rfl) (by decide) rd ra w
theorem RoundTrip.rotl (rd : BitVec 6) (ra : BitVec 6) (rb : BitVec 6) : Statement (.rotl rd ra rb) :=
  form_xrd .rotl 0x39#8 (fun _ => by rfl) (by decide) rd ra rb
theorem RoundTrip.rotr (rd : BitVec 6) (ra : BitVec 6) (rb : BitVec 6) : Statement (.rotr rd ra rb) :=
  form_xrd .rotr 0x3A#8 (fun _ => by rfl) (by decide) rd ra rb
theorem RoundTrip.sel (rd : BitVec 6) (ra : BitVec 6) (rb : BitVec 6) (k : BitVec 4) : Statement (.sel rd ra rb k) :=
  form_sel .sel 0x3B#8 (fun _ => by rfl) (by decide) rd ra rb k
theorem RoundTrip.cmp (pd : BitVec 4) (ra : BitVec 6) (rb : BitVec 6) (c : BitVec 3) : Statement (.cmp pd ra rb c) :=
  form_cmp .cmp 0xF0#10 (fun _ => by rfl) (by decide) pd ra rb c
theorem RoundTrip.pl (rd : BitVec 4) (ra : BitVec 4) (rb : BitVec 4) (o : BitVec 2) : Statement (.pl rd ra rb o) :=
  form_pl .pl 0xF4#10 (fun _ => by rfl) (by decide) rd ra rb o
theorem RoundTrip.jalr (rd : BitVec 6) (ra : BitVec 6) : Statement (.jalr rd ra) := form_tget .jalr 0x3E#8 (fun _ => by rfl) (by decide) rd ra
theorem RoundTrip.addi (rd : BitVec 6) (ra : BitVec 6) (imm : BitVec 12) : Statement (.addi rd ra imm) :=
  form_addi .addi 0x40#8 (fun _ => by rfl) (by decide) rd ra imm
theorem RoundTrip.andi (rd : BitVec 6) (ra : BitVec 6) (imm : BitVec 12) : Statement (.andi rd ra imm) :=
  form_addi .andi 0x41#8 (fun _ => by rfl) (by decide) rd ra imm
theorem RoundTrip.ori (rd : BitVec 6) (ra : BitVec 6) (imm : BitVec 12) : Statement (.ori rd ra imm) :=
  form_addi .ori 0x42#8 (fun _ => by rfl) (by decide) rd ra imm
theorem RoundTrip.xori (rd : BitVec 6) (ra : BitVec 6) (imm : BitVec 12) : Statement (.xori rd ra imm) :=
  form_addi .xori 0x43#8 (fun _ => by rfl) (by decide) rd ra imm
theorem RoundTrip.slli (rd : BitVec 6) (ra : BitVec 6) (s : BitVec 6) : Statement (.slli rd ra s) :=
  form_slli .slli 0x44#8 (fun _ => by rfl) (by decide) rd ra s
theorem RoundTrip.srli (rd : BitVec 6) (ra : BitVec 6) (s : BitVec 6) : Statement (.srli rd ra s) :=
  form_slli .srli 0x45#8 (fun _ => by rfl) (by decide) rd ra s
theorem RoundTrip.srai (rd : BitVec 6) (ra : BitVec 6) (s : BitVec 6) : Statement (.srai rd ra s) :=
  form_slli .srai 0x46#8 (fun _ => by rfl) (by decide) rd ra s
theorem RoundTrip.cmpi (c : BitVec 2) (pd : BitVec 4) (ra : BitVec 6) (imm : BitVec 12) : Statement (.cmpi c pd ra imm) :=
  form_cmpi .cmpi 0x47#8 (fun _ => by rfl) (by decide) c pd ra imm
theorem RoundTrip.ldB (rd : BitVec 6) (ra : BitVec 6) (imm : BitVec 12) : Statement (.ldB rd ra imm) :=
  form_addi .ldB 0x48#8 (fun _ => by rfl) (by decide) rd ra imm
theorem RoundTrip.ldBu (rd : BitVec 6) (ra : BitVec 6) (imm : BitVec 12) : Statement (.ldBu rd ra imm) :=
  form_addi .ldBu 0x49#8 (fun _ => by rfl) (by decide) rd ra imm
theorem RoundTrip.ldH (rd : BitVec 6) (ra : BitVec 6) (imm : BitVec 12) : Statement (.ldH rd ra imm) :=
  form_addi .ldH 0x4A#8 (fun _ => by rfl) (by decide) rd ra imm
theorem RoundTrip.ldHu (rd : BitVec 6) (ra : BitVec 6) (imm : BitVec 12) : Statement (.ldHu rd ra imm) :=
  form_addi .ldHu 0x4B#8 (fun _ => by rfl) (by decide) rd ra imm
theorem RoundTrip.ldW (rd : BitVec 6) (ra : BitVec 6) (imm : BitVec 12) : Statement (.ldW rd ra imm) :=
  form_addi .ldW 0x4C#8 (fun _ => by rfl) (by decide) rd ra imm
theorem RoundTrip.ldWu (rd : BitVec 6) (ra : BitVec 6) (imm : BitVec 12) : Statement (.ldWu rd ra imm) :=
  form_addi .ldWu 0x4D#8 (fun _ => by rfl) (by decide) rd ra imm
theorem RoundTrip.ldD (rd : BitVec 6) (ra : BitVec 6) (imm : BitVec 12) : Statement (.ldD rd ra imm) :=
  form_addi .ldD 0x4E#8 (fun _ => by rfl) (by decide) rd ra imm
theorem RoundTrip.stB (ra : BitVec 6) (rb : BitVec 6) (imm : BitVec 12) : Statement (.stB ra rb imm) :=
  form_addi .stB 0x50#8 (fun _ => by rfl) (by decide) ra rb imm
theorem RoundTrip.stH (ra : BitVec 6) (rb : BitVec 6) (imm : BitVec 12) : Statement (.stH ra rb imm) :=
  form_addi .stH 0x51#8 (fun _ => by rfl) (by decide) ra rb imm
theorem RoundTrip.stW (ra : BitVec 6) (rb : BitVec 6) (imm : BitVec 12) : Statement (.stW ra rb imm) :=
  form_addi .stW 0x52#8 (fun _ => by rfl) (by decide) ra rb imm
theorem RoundTrip.stD (ra : BitVec 6) (rb : BitVec 6) (imm : BitVec 12) : Statement (.stD ra rb imm) :=
  form_addi .stD 0x53#8 (fun _ => by rfl) (by decide) ra rb imm
theorem RoundTrip.lres (rd : BitVec 6) (ra : BitVec 6) (w : BitVec 1) (o : BitVec 2) : Statement (.lres rd ra w o) :=
  form_lres .lres 0x54#8 (fun _ => by rfl) (by decide) rd ra w o
theorem RoundTrip.sres (rd : BitVec 6) (ra : BitVec 6) (rb : BitVec 6) (w : BitVec 1) (o : BitVec 2) : Statement (.sres rd ra rb w o) :=
  form_sres .sres 0x55#8 (fun _ => by rfl) (by decide) rd ra rb w o
theorem RoundTrip.amo (rd : BitVec 6) (ra : BitVec 6) (rb : BitVec 6) (f : BitVec 4) (o : BitVec 2) : Statement (.amo rd ra rb f o) :=
  form_amo .amo 0x56#8 (fun _ => by rfl) (by decide) rd ra rb f o
theorem RoundTrip.cas (rd : BitVec 6) (ra : BitVec 6) (rb : BitVec 6) (w : BitVec 1) (o : BitVec 2) : Statement (.cas rd ra rb w o) :=
  form_sres .cas 0x57#8 (fun _ => by rfl) (by decide) rd ra rb w o
theorem RoundTrip.wrs (rd : BitVec 6) (ra : BitVec 6) (rb : BitVec 6) : Statement (.wrs rd ra rb) := form_xrd .wrs 0x58#8 (fun _ => by rfl) (by decide) rd ra rb
theorem RoundTrip.fence (ra : BitVec 6) : Statement (.fence ra) := form_fence 0#12 .fence (fun _ h => tested h) ra
theorem RoundTrip.fenceB (ra : BitVec 6) : Statement (.fenceB ra) :=
  form_fence 1#12 .fenceB (fun _ h => (untested h (by decide)).trans (tested h)) ra
theorem RoundTrip.fenceA (ra : BitVec 6) : Statement (.fenceA ra) :=
  form_fence 2#12 .fenceA (fun _ h => (untested h (by decide)).trans (untested h (by decide))) ra
theorem RoundTrip.beq (ra : BitVec 6) (rb : BitVec 6) (o : BitVec 12) : Statement (.beq ra rb o) := form_addi .beq 0x60#8 (fun _ => by rfl) (by decide) ra rb o
theorem RoundTrip.bne (ra : BitVec 6) (rb : BitVec 6) (o : BitVec 12) : Statement (.bne ra rb o) := form_addi .bne 0x61#8 (fun _ => by rfl) (by decide) ra rb o
theorem RoundTrip.blt (ra : BitVec 6) (rb : BitVec 6) (o : BitVec 12) : Statement (.blt ra rb o) := form_addi .blt 0x62#8 (fun _ => by rfl) (by decide) ra rb o
theorem RoundTrip.bge (ra : BitVec 6) (rb : BitVec 6) (o : BitVec 12) : Statement (.bge ra rb o) := form_addi .bge 0x63#8 (fun _ => by rfl) (by decide) ra rb o
theorem RoundTrip.bltu (ra : BitVec 6) (rb : BitVec 6) (o : BitVec 12) : Statement (.bltu ra rb o) :=
  form_addi .bltu 0x64#8 (fun _ => by rfl) (by decide) ra rb o
theorem RoundTrip.bgeu (ra : BitVec 6) (rb : BitVec 6) (o : BitVec 12) : Statement (.bgeu ra rb o) :=
  form_addi .bgeu 0x65#8 (fun _ => by rfl) (by decide) ra rb o
theorem RoundTrip.bt (k : BitVec 4) (o : BitVec 12) : Statement (.bt k o) := form_bt .bt 0x198#10 (fun _ => by rfl) (by decide) k o
theorem RoundTrip.bf (k : BitVec 4) (o : BitVec 12) : Statement (.bf k o) := form_bt .bf 0x19C#10 (fun _ => by rfl) (by decide) k o
theorem RoundTrip.jmp (o : BitVec 18) : Statement (.jmp o) := form_jmp .jmp 0x1A00#14 (fun _ => by rfl) (by decide) o
theorem RoundTrip.jal (rd : BitVec 6) (o : BitVec 18) : Statement (.jal rd o) := form_jal .jal 0x69#8 (fun _ => by rfl) (by decide) rd o
theorem RoundTrip.lui (rd : BitVec 6) (imm : BitVec 18) : Statement (.lui rd imm) := form_jal .lui 0x6A#8 (fun _ => by rfl) (by decide) rd imm
theorem RoundTrip.lpc (rd : BitVec 6) (imm : BitVec 18) : Statement (.lpc rd imm) := form_jal .lpc 0x6B#8 (fun _ => by rfl) (by decide) rd imm
theorem RoundTrip.vadd (vd : BitVec 4) (va : BitVec 4) (vb : BitVec 4) (msk : BitVec 3) (gs : BitVec 6) (ty : BitVec 3) : Statement (.vadd vd va vb msk gs ty) :=
  form_vadd .vadd 0x80#8 (fun _ => by rfl) (by decide) vd va vb msk gs ty
theorem RoundTrip.vsub (vd : BitVec 4) (va : BitVec 4) (vb : BitVec 4) (msk : BitVec 3) (gs : BitVec 6) (ty : BitVec 3) : Statement (.vsub vd va vb msk gs ty) :=
  form_vadd .vsub 0x81#8 (fun _ => by rfl) (by decide) vd va vb msk gs ty
theorem RoundTrip.vmul (vd : BitVec 4) (va : BitVec 4) (vb : BitVec 4) (msk : BitVec 3) (gs : BitVec 6) (ty : BitVec 3) : Statement (.vmul vd va vb msk gs ty) :=
  form_vadd .vmul 0x82#8 (fun _ => by rfl) (by decide) vd va vb msk gs ty
theorem RoundTrip.vdiv (vd : BitVec 4) (va : BitVec 4) (vb : BitVec 4) (msk : BitVec 3) (gs : BitVec 6) (ty : BitVec 3) : Statement (.vdiv vd va vb msk gs ty) :=
  form_vadd .vdiv 0x83#8 (fun _ => by rfl) (by decide) vd va vb msk gs ty
theorem RoundTrip.vfma (vd : BitVec 4) (va : BitVec 4) (vb : BitVec 4) (msk : BitVec 3) (gs : BitVec 6) (ty : BitVec 3) : Statement (.vfma vd va vb msk gs ty) :=
  form_vadd .vfma 0x84#8 (fun _ => by rfl) (by decide) vd va vb msk gs ty
theorem RoundTrip.vfms (vd : BitVec 4) (va : BitVec 4) (vb : BitVec 4) (msk : BitVec 3) (gs : BitVec 6) (ty : BitVec 3) : Statement (.vfms vd va vb msk gs ty) :=
  form_vadd .vfms 0x85#8 (fun _ => by rfl) (by decide) vd va vb msk gs ty
theorem RoundTrip.vmin (vd : BitVec 4) (va : BitVec 4) (vb : BitVec 4) (msk : BitVec 3) (gs : BitVec 6) (ty : BitVec 3) : Statement (.vmin vd va vb msk gs ty) :=
  form_vadd .vmin 0x86#8 (fun _ => by rfl) (by decide) vd va vb msk gs ty
theorem RoundTrip.vmax (vd : BitVec 4) (va : BitVec 4) (vb : BitVec 4) (msk : BitVec 3) (gs : BitVec 6) (ty : BitVec 3) : Statement (.vmax vd va vb msk gs ty) :=
  form_vadd .vmax 0x87#8 (fun _ => by rfl) (by decide) vd va vb msk gs ty
theorem RoundTrip.vabs (vd : BitVec 4) (va : BitVec 4) (msk : BitVec 3) (ty : BitVec 3) : Statement (.vabs vd va msk ty) :=
  form_vabs .vabs 0x88#8 (fun _ => by rfl) (by decide) vd va msk ty
theorem RoundTrip.vneg (vd : BitVec 4) (va : BitVec 4) (msk : BitVec 3) (ty : BitVec 3) : Statement (.vneg vd va msk ty) :=
  form_vabs .vneg 0x89#8 (fun _ => by rfl) (by decide) vd va msk ty
theorem RoundTrip.vsqrt (vd : BitVec 4) (va : BitVec 4) (msk : BitVec 3) (ty : BitVec 3) : Statement (.vsqrt vd va msk ty) :=
  form_vabs .vsqrt 0x8A#8 (fun _ => by rfl) (by decide) vd va msk ty
theorem RoundTrip.vexp2 (vd : BitVec 4) (va : BitVec 4) (msk : BitVec 3) (ty : BitVec 3) : Statement (.vexp2 vd va msk ty) :=
  form_vabs .vexp2 0x8B#8 (fun _ => by rfl) (by decide) vd va msk ty
theorem RoundTrip.vand (vd : BitVec 4) (va : BitVec 4) (vb : BitVec 4) (msk : BitVec 3) (gs : BitVec 6) (ty : BitVec 3) : Statement (.vand vd va vb msk gs ty) :=
  form_vadd .vand 0x8C#8 (fun _ => by rfl) (by decide) vd va vb msk gs ty
theorem RoundTrip.vor (vd : BitVec 4) (va : BitVec 4) (vb : BitVec 4) (msk : BitVec 3) (gs : BitVec 6) (ty : BitVec 3) : Statement (.vor vd va vb msk gs ty) :=
  form_vadd .vor 0x8D#8 (fun _ => by rfl) (by decide) vd va vb msk gs ty
theorem RoundTrip.vxor (vd : BitVec 4) (va : BitVec 4) (vb : BitVec 4) (msk : BitVec 3) (gs : BitVec 6) (ty : BitVec 3) : Statement (.vxor vd va vb msk gs ty) :=
  form_vadd .vxor 0x8E#8 (fun _ => by rfl) (by decide) vd va vb msk gs ty
theorem RoundTrip.vshl (vd : BitVec 4) (va : BitVec 4) (vb : BitVec 4) (msk : BitVec 3) (gs : BitVec 6) (ty : BitVec 3) : Statement (.vshl vd va vb msk gs ty) :=
  form_vadd .vshl 0x8F#8 (fun _ => by rfl) (by decide) vd va vb msk gs ty
theorem RoundTrip.vshr (vd : BitVec 4) (va : BitVec 4) (vb : BitVec 4) (msk : BitVec 3) (gs : BitVec 6) (ty : BitVec 3) : Statement (.vshr vd va vb msk gs ty) :=
  form_vadd .vshr 0x90#8 (fun _ => by rfl) (by decide) vd va vb msk gs ty
theorem RoundTrip.vsra (vd : BitVec 4) (va : BitVec 4) (vb : BitVec 4) (msk : BitVec 3) (gs : BitVec 6) (ty : BitVec 3) : Statement (.vsra vd va vb msk gs ty) :=
  form_vadd .vsra 0x91#8 (fun _ => by rfl) (by decide) vd va vb msk gs ty
theorem RoundTrip.vcvt (vd : BitVec 4) (va : BitVec 4) (msk : BitVec 3) (s : BitVec 1) (c : BitVec 3) (ty : BitVec 3) : Statement (.vcvt vd va msk s c ty) :=
  form_vcvt .vcvt 0x92#8 (fun _ => by rfl) (by decide) vd va msk s c ty
theorem RoundTrip.vcmp (k : BitVec 2) (va : BitVec 4) (vb : BitVec 4) (msk : BitVec 3) (c : BitVec 3) (ty : BitVec 3) : Statement (.vcmp k va vb msk c ty) :=
  form_vcmp .vcmp 0x24C#10 (fun _ => by rfl) (by decide) k va vb msk c ty
theorem RoundTrip.vm (vd : BitVec 2) (va : BitVec 2) (vb : BitVec 2) (o : BitVec 2) : Statement (.vm vd va vb o) :=
  form_vm .vm 0x250#10 (fun _ => by rfl) (by decide) vd va vb o
theorem RoundTrip.vperm (vd : BitVec 4) (va : BitVec 4) (vb : BitVec 4) (msk : BitVec 3) (ty : BitVec 3) : Statement (.vperm vd va vb msk ty) :=
  form_vperm .vperm 0x95#8 (fun _ => by rfl) (by decide) vd va vb msk ty
theorem RoundTrip.vbcast (vd : BitVec 4) (msk : BitVec 3) (gs : BitVec 6) (ty : BitVec 3) : Statement (.vbcast vd msk gs ty) :=
  form_vbcast .vbcast 0x96#8 (fun _ => by rfl) (by decide) vd msk gs ty
theorem RoundTrip.vslide (vd : BitVec 4) (va : BitVec 4) (msk : BitVec 3) (gs : BitVec 6) (ty : BitVec 3) : Statement (.vslide vd va msk gs ty) :=
  form_vslide .vslide 0x97#8 (fun _ => by rfl) (by decide) vd va msk gs ty
theorem RoundTrip.vextr (va : BitVec 4) (msk : BitVec 3) (gs : BitVec 6) (ty : BitVec 3) : Statement (.vextr va msk gs ty) :=
  form_vextr .vextr 0x980#12 (fun _ => by rfl) (by decide) va msk gs ty
theorem RoundTrip.vins (vd : BitVec 4) (msk : BitVec 3) (gs : BitVec 6) (ty : BitVec 3) : Statement (.vins vd msk gs ty) :=
  form_vbcast .vins 0x99#8 (fun _ => by rfl) (by decide) vd msk gs ty
theorem RoundTrip.vredsum (vd : BitVec 4) (va : BitVec 4) (msk : BitVec 3) (gs : BitVec 6) (ty : BitVec 3) : Statement (.vredsum vd va msk gs ty) :=
  form_vslide .vredsum 0x9A#8 (fun _ => by rfl) (by decide) vd va msk gs ty
theorem RoundTrip.vredmax (vd : BitVec 4) (va : BitVec 4) (msk : BitVec 3) (gs : BitVec 6) (ty : BitVec 3) : Statement (.vredmax vd va msk gs ty) :=
  form_vslide .vredmax 0x9B#8 (fun _ => by rfl) (by decide) vd va msk gs ty
theorem RoundTrip.vredmin (vd : BitVec 4) (va : BitVec 4) (msk : BitVec 3) (gs : BitVec 6) (ty : BitVec 3) : Statement (.vredmin vd va msk gs ty) :=
  form_vslide .vredmin 0x9C#8 (fun _ => by rfl) (by decide) vd va msk gs ty
theorem RoundTrip.viota (vd : BitVec 4) (msk : BitVec 3) (ty : BitVec 3) : Statement (.viota vd msk ty) :=
  form_viota .viota 0x9D#8 (fun _ => by rfl) (by decide) vd msk ty
theorem RoundTrip.vmcnt (va : BitVec 2) (gs : BitVec 6) : Statement (.vmcnt va gs) :=
  form_vmcnt .vmcnt 0x2780#14 (fun _ => by rfl) (by decide) va gs
theorem RoundTrip.vfirst (va : BitVec 2) (gs : BitVec 6) : Statement (.vfirst va gs) :=
  form_vmcnt .vfirst 0x27C0#14 (fun _ => by rfl) (by decide) va gs
theorem RoundTrip.vld (vd : BitVec 4) (msk : BitVec 3) (gs : BitVec 6) (ty : BitVec 3) : Statement (.vld vd msk gs ty) :=
  form_vbcast .vld 0xA0#8 (fun _ => by rfl) (by decide) vd msk gs ty
theorem RoundTrip.vst (vd : BitVec 4) (msk : BitVec 3) (gs : BitVec 6) (ty : BitVec 3) : Statement (.vst vd msk gs ty) :=
  form_vbcast .vst 0xA1#8 (fun _ => by rfl) (by decide) vd msk gs ty
theorem RoundTrip.vlds (vd : BitVec 4) (msk : BitVec 3) (gs : BitVec 6) (ty : BitVec 3) : Statement (.vlds vd msk gs ty) :=
  form_vbcast .vlds 0xA2#8 (fun _ => by rfl) (by decide) vd msk gs ty
theorem RoundTrip.vsts (vd : BitVec 4) (msk : BitVec 3) (gs : BitVec 6) (ty : BitVec 3) : Statement (.vsts vd msk gs ty) :=
  form_vbcast .vsts 0xA3#8 (fun _ => by rfl) (by decide) vd msk gs ty
theorem RoundTrip.vgath (vd : BitVec 4) (va : BitVec 4) (msk : BitVec 3) (gs : BitVec 6) (ty : BitVec 3) : Statement (.vgath vd va msk gs ty) :=
  form_vslide .vgath 0xA4#8 (fun _ => by rfl) (by decide) vd va msk gs ty
theorem RoundTrip.vscat (vd : BitVec 4) (va : BitVec 4) (msk : BitVec 3) (gs : BitVec 6) (ty : BitVec 3) : Statement (.vscat vd va msk gs ty) :=
  form_vslide .vscat 0xA5#8 (fun _ => by rfl) (by decide) vd va msk gs ty
theorem RoundTrip.qtry (rd : BitVec 6) (n : BitVec 4) (k : BitVec 4) : Statement (.qtry rd n k) := form_qtry .qtry 0xA6#8 (fun _ => by rfl) (by decide) rd n k
theorem RoundTrip.qoffer (n : BitVec 4) (ra : BitVec 6) (k : BitVec 4) : Statement (.qoffer n ra k) :=
  form_qoffer .qoffer 0x29C#10 (fun _ => by rfl) (by decide) n ra k
theorem RoundTrip.qcnt (rd : BitVec 6) (n : BitVec 4) : Statement (.qcnt rd n) := form_qcnt .qcnt 0xA8#8 (fun _ => by rfl) (by decide) rd n
theorem RoundTrip.vqpop (vd : BitVec 4) (k : BitVec 4) (n : BitVec 4) : Statement (.vqpop vd k n) :=
  form_vqpop .vqpop 0xA9#8 (fun _ => by rfl) (by decide) vd k n
theorem RoundTrip.vqpush (va : BitVec 4) (k : BitVec 4) (n : BitVec 4) : Statement (.vqpush va k n) :=
  form_vqpush .vqpush 0xAA0#12 (fun _ => by rfl) (by decide) va k n
theorem RoundTrip.mset (vd : BitVec 2) (gs : BitVec 6) : Statement (.mset vd gs) :=
  form_mset .mset 0x2AC#10 (fun _ => by rfl) (by decide) vd gs
theorem RoundTrip.mget (va : BitVec 2) (gs : BitVec 6) : Statement (.mget va gs) :=
  form_vmcnt .mget 0x2B00#14 (fun _ => by rfl) (by decide) va gs
theorem RoundTrip.vpack (vd : BitVec 4) (va : BitVec 4) (vb : BitVec 4) (ty : BitVec 3) : Statement (.vpack vd va vb ty) :=
  form_vpack .vpack 0xAD#8 (fun _ => by rfl) (by decide) vd va vb ty
theorem RoundTrip.vunpk (vd : BitVec 4) (va : BitVec 4) (h : BitVec 2) (ty : BitVec 3) : Statement (.vunpk vd va h ty) :=
  form_vunpk .vunpk 0xAE#8 (fun _ => by rfl) (by decide) vd va h ty
theorem RoundTrip.mshape (rd : BitVec 6) (ra : BitVec 6) : Statement (.mshape rd ra) :=
  form_tget .mshape 0xC0#8 (fun _ => by rfl) (by decide) rd ra
theorem RoundTrip.enq (ra : BitVec 6) : Statement (.enq ra) := form_enq .enq 0xC1#8 (fun _ => by rfl) (by decide) ra
theorem RoundTrip.enqw (ra : BitVec 6) (rd : BitVec 6) : Statement (.enqw ra rd) := form_tget .enqw 0xC2#8 (fun _ => by rfl) (by decide) ra rd
theorem RoundTrip.drain : Statement (.drain) := fun _ => by decide
theorem RoundTrip.cnew (rd : BitVec 6) (ra : BitVec 6) (c : BitVec 12) : Statement (.cnew rd ra c) :=
  form_addi .cnew 0xC4#8 (fun _ => by rfl) (by decide) rd ra c
theorem RoundTrip.cfwd : Statement (.cfwd) := fun _ => by decide
theorem RoundTrip.cins (rd : BitVec 6) (ra : BitVec 6) (rb : BitVec 6) : Statement (.cins rd ra rb) :=
  form_xrd .cins 0xC6#8 (fun _ => by rfl) (by decide) rd ra rb
theorem RoundTrip.cdel (rd : BitVec 6) (ra : BitVec 6) : Statement (.cdel rd ra) := form_tget .cdel 0xC7#8 (fun _ => by rfl) (by decide) rd ra
theorem RoundTrip.crep (rd : BitVec 6) (ra : BitVec 6) (rb : BitVec 6) : Statement (.crep rd ra rb) :=
  form_xrd .crep 0xC8#8 (fun _ => by rfl) (by decide) rd ra rb
theorem RoundTrip.cpark (ra : BitVec 6) : Statement (.cpark ra) := form_park .cpark 0x3240#14 (fun _ => by rfl) (by decide) ra
theorem RoundTrip.gacc (rd : BitVec 6) (ra : BitVec 6) (rb : BitVec 6) : Statement (.gacc rd ra rb) :=
  form_xrd .gacc 0xCA#8 (fun _ => by rfl) (by decide) rd ra rb
theorem RoundTrip.gstat (rd : BitVec 6) (ra : BitVec 6) (rb : BitVec 6) : Statement (.gstat rd ra rb) :=
  form_xrd .gstat 0xCB#8 (fun _ => by rfl) (by decide) rd ra rb
theorem RoundTrip.gclose (rd : BitVec 6) (ra : BitVec 6) : Statement (.gclose rd ra) :=
  form_tget .gclose 0xCC#8 (fun _ => by rfl) (by decide) rd ra
theorem RoundTrip.gflip (rd : BitVec 6) (ra : BitVec 6) : Statement (.gflip rd ra) := form_tget .gflip 0xCD#8 (fun _ => by rfl) (by decide) rd ra
theorem RoundTrip.gjoin (rd : BitVec 6) (ra : BitVec 6) (rb : BitVec 6) : Statement (.gjoin rd ra rb) :=
  form_xrd .gjoin 0xCE#8 (fun _ => by rfl) (by decide) rd ra rb
theorem RoundTrip.ringrd (rd : BitVec 6) (n : BitVec 3) (h : BitVec 1) : Statement (.ringrd rd n h) :=
  form_ringrd .ringrd 0xCF#8 (fun _ => by rfl) (by decide) rd n h
theorem RoundTrip.teMma (core : Nat) : Statement (.teMma core) := nofun
theorem RoundTrip.teZacc (core : Nat) : Statement (.teZacc core) := nofun
theorem RoundTrip.ceCpy (core chunk : Nat) : Statement (.ceCpy core chunk) := nofun
theorem RoundTrip.ceStr (core row chunk : Nat) : Statement (.ceStr core row chunk) := nofun
theorem RoundTrip.ceGth (core : Nat) : Statement (.ceGth core) := nofun
theorem RoundTrip.ceSct (core : Nat) : Statement (.ceSct core) := nofun
theorem RoundTrip.ceFill (core chunk : Nat) : Statement (.ceFill core chunk) := nofun
theorem RoundTrip.ceRld (core : Nat) : Statement (.ceRld core) := nofun
theorem RoundTrip.ceRst (core : Nat) : Statement (.ceRst core) := nofun
theorem RoundTrip.buAdd (core k bank : Nat) : Statement (.buAdd core k bank) := nofun
theorem RoundTrip.buMul (core k bank : Nat) : Statement (.buMul core k bank) := nofun
theorem RoundTrip.buScl (core k bank : Nat) : Statement (.buScl core k bank) := nofun
theorem RoundTrip.buMax (core k bank : Nat) : Statement (.buMax core k bank) := nofun
theorem RoundTrip.buMin (core k bank : Nat) : Statement (.buMin core k bank) := nofun
theorem RoundTrip.buOes (core k : Nat) : Statement (.buOes core k) := nofun
theorem RoundTrip.buNsm (core k : Nat) : Statement (.buNsm core k) := nofun
theorem RoundTrip.buWel (core k : Nat) : Statement (.buWel core k) := nofun
theorem RoundTrip.buHist (core k : Nat) : Statement (.buHist core k) := nofun
theorem RoundTrip.buFill (core k bank : Nat) : Statement (.buFill core k bank) := nofun
theorem RoundTrip.buTopk (core k : Nat) : Statement (.buTopk core k) := nofun
theorem RoundTrip.buCas (core k : Nat) : Statement (.buCas core k) := nofun
theorem RoundTrip.buFop (core k bank : Nat) : Statement (.buFop core k bank) := nofun
theorem RoundTrip.suModeEnter (core k : Nat) : Statement (.suModeEnter core k) := nofun
theorem RoundTrip.suModeLeave (core k : Nat) : Statement (.suModeLeave core k) := nofun
theorem RoundTrip.suProg (core k : Nat) : Statement (.suProg core k) := nofun
theorem RoundTrip.suBcast (core k : Nat) : Statement (.suBcast core k) := nofun
theorem RoundTrip.suRun (core k : Nat) : Statement (.suRun core k) := nofun
theorem RoundTrip.suRead (core k : Nat) : Statement (.suRead core k) := nofun
theorem RoundTrip.suAbort (core k : Nat) : Statement (.suAbort core k) := nofun
theorem RoundTrip.breSum (core k : Nat) : Statement (.breSum core k) := nofun
theorem RoundTrip.cleMs (core k : Nat) : Statement (.cleMs core k) := nofun
theorem RoundTrip.cleBc (core k : Nat) : Statement (.cleBc core k) := nofun
theorem RoundTrip.cleMsk (core k : Nat) : Statement (.cleMsk core k) := nofun
theorem RoundTrip.placedSlotActivate (core slot : Nat) : Statement (.placedSlotActivate core slot) := nofun
theorem RoundTrip.threadReply (core slot : Nat) : Statement (.threadReply core slot) := nofun
theorem RoundTrip.heldTokenPush (core slot port : Nat) : Statement (.heldTokenPush core slot port) := nofun
theorem RoundTrip.completionHandlerEntry (core slot : Nat) : Statement (.completionHandlerEntry core slot) := nofun
theorem RoundTrip.homeAccess (k : Nat) : Statement (.homeAccess k) := nofun
theorem RoundTrip.reservationTimeout (granule : Nat) : Statement (.reservationTimeout granule) := nofun
theorem RoundTrip.wrsTimeout (core slot : Nat) : Statement (.wrsTimeout core slot) := nofun
theorem RoundTrip.homeAdmission (home : Nat) : Statement (.homeAdmission home) := nofun
theorem RoundTrip.remoteAccess (k : Nat) : Statement (.remoteAccess k) := nofun
theorem RoundTrip.combineWriteOut (cluster block : Nat) : Statement (.combineWriteOut cluster block) := nofun
theorem RoundTrip.combineTimeout (cluster block : Nat) : Statement (.combineTimeout cluster block) := nofun
theorem RoundTrip.hbmBurstMergeClose (block : Nat) : Statement (.hbmBurstMergeClose block) := nofun
theorem RoundTrip.bankRequesterAged (k : Nat) : Statement (.bankRequesterAged k) := nofun
theorem RoundTrip.tlbWalkComplete (cluster k : Nat) : Statement (.tlbWalkComplete cluster k) := nofun
theorem RoundTrip.faultRecordDelivery (cluster : Nat) : Statement (.faultRecordDelivery cluster) := nofun
theorem RoundTrip.launchClassRise (lid : BitVec 32) : Statement (.launchClassRise lid) := nofun
theorem RoundTrip.taskDispatch (cluster : Nat) : Statement (.taskDispatch cluster) := nofun
theorem RoundTrip.spillRefill (cluster : Nat) : Statement (.spillRefill cluster) := nofun
theorem RoundTrip.launchComplete (lid : BitVec 32) : Statement (.launchComplete lid) := nofun
theorem RoundTrip.messageArrival (k : Nat) : Statement (.messageArrival k) := nofun
theorem RoundTrip.spawnArrival (k : Nat) : Statement (.spawnArrival k) := nofun
theorem RoundTrip.landingRequest (k : Nat) : Statement (.landingRequest k) := nofun
theorem RoundTrip.landingGrant (core : Nat) : Statement (.landingGrant core) := nofun
theorem RoundTrip.capsuleLanded (k : Nat) : Statement (.capsuleLanded k) := nofun
theorem RoundTrip.capsuleStepStart (core buf : Nat) : Statement (.capsuleStepStart core buf) := nofun
theorem RoundTrip.bankStep (core buf : Nat) : Statement (.bankStep core buf) := nofun
theorem RoundTrip.landingRequestTimeout (k : Nat) : Statement (.landingRequestTimeout k) := nofun
theorem RoundTrip.bufferNeeded (core : Nat) : Statement (.bufferNeeded core) := nofun
theorem RoundTrip.harbourTaskRetry (k : Nat) : Statement (.harbourTaskRetry k) := nofun
theorem RoundTrip.crossingLanding (arrival : CapsuleArrival) : Statement (.crossingLanding arrival) := nofun
theorem RoundTrip.roverLanding (k : Nat) : Statement (.roverLanding k) := nofun
theorem RoundTrip.applyTaskRetry (cluster group : Nat) : Statement (.applyTaskRetry cluster group) := nofun
theorem RoundTrip.clePartialArrival (arrival : LeafArrival) : Statement (.clePartialArrival arrival) := nofun
theorem RoundTrip.storeCompare (core pair : Nat) : Statement (.storeCompare core pair) := nofun
theorem RoundTrip.deviceKill (core slot : Nat) : Statement (.deviceKill core slot) := nofun
theorem RoundTrip.slotScrubEnd (core slot : Nat) : Statement (.slotScrubEnd core slot) := nofun
theorem RoundTrip.patrolScrub (check : ScrubCheck) : Statement (.patrolScrub check) := nofun
theorem RoundTrip.scrubForcedCycle (core bank : Nat) (check : ScrubCheck) : Statement (.scrubForcedCycle core bank check) := nofun
theorem RoundTrip.coreFailed (core : Nat) (tagsReadable : Bool) : Statement (.coreFailed core tagsReadable) := nofun
theorem RoundTrip.fenceOff (core : Nat) : Statement (.fenceOff core) := nofun
theorem RoundTrip.returnToService (core : Nat) : Statement (.returnToService core) := nofun
theorem RoundTrip.hmap (core : Nat) : Statement (.hmap core) := nofun
theorem RoundTrip.wbirun (core : Nat) : Statement (.wbirun core) := nofun
theorem RoundTrip.lqsub (core : Nat) : Statement (.lqsub core) := nofun
theorem RoundTrip.lqdel (core : Nat) : Statement (.lqdel core) := nofun
theorem RoundTrip.ctxdescLoad (core : Nat) : Statement (.ctxdescLoad core) := nofun
theorem RoundTrip.ctxdescUnload (core : Nat) : Statement (.ctxdescUnload core) := nofun
theorem RoundTrip.tlbinv (core : Nat) : Statement (.tlbinv core) := nofun
theorem RoundTrip.pfwake (core : Nat) : Statement (.pfwake core) := nofun
theorem RoundTrip.sqwin (core : Nat) : Statement (.sqwin core) := nofun
theorem RoundTrip.sqoff (core : Nat) : Statement (.sqoff core) := nofun
theorem RoundTrip.sqrel (core : Nat) : Statement (.sqrel core) := nofun
theorem RoundTrip.mbself (core : Nat) (value : BitVec 64) : Statement (.mbself core value) := nofun
theorem RoundTrip.mbroute (core : Nat) (value : BitVec 64) : Statement (.mbroute core value) := nofun
theorem RoundTrip.memdrop (core : Nat) : Statement (.memdrop core) := nofun
theorem RoundTrip.gent0Configure (core : Nat) : Statement (.gent0Configure core) := nofun
theorem RoundTrip.gent0Unconfigure (core : Nat) : Statement (.gent0Unconfigure core) := nofun
theorem RoundTrip.trpop (core : Nat) : Statement (.trpop core) := nofun
theorem RoundTrip.evpop (core : Nat) : Statement (.evpop core) := nofun
theorem RoundTrip.loopctl (core : Nat) (value : BitVec 64) : Statement (.loopctl core value) := nofun
theorem RoundTrip.hlqsub (value : BitVec 64) : Statement (.hlqsub value) := nofun
theorem RoundTrip.hlqdel (value : BitVec 64) : Statement (.hlqdel value) := nofun
theorem RoundTrip.mqpop : Statement (.mqpop) := nofun
theorem RoundTrip.mgmtQueueEnqueue : Statement (.mgmtQueueEnqueue) := nofun
theorem RoundTrip.envCallRecord : Statement (.envCallRecord) := nofun
theorem RoundTrip.ecans (value : BitVec 64) : Statement (.ecans value) := nofun
theorem RoundTrip.cxlMemRead (pa : BitVec 52) (cached : Bool) : Statement (.cxlMemRead pa cached) := nofun
theorem RoundTrip.cxlMemWrite (pa : BitVec 52) (data : BitVec 256) (enable : BitVec 32) : Statement (.cxlMemWrite pa data enable) := nofun
theorem RoundTrip.hostSnoop (pa : BitVec 52) (data : BitVec 256) (write : Bool) : Statement (.hostSnoop pa data write) := nofun
theorem RoundTrip.backInvalidateResponse (pa : BitVec 52) : Statement (.backInvalidateResponse pa) := nofun
theorem RoundTrip.pageGroupResponse (key : BitVec 32) (success : Bool) : Statement (.pageGroupResponse key success) := nofun
theorem RoundTrip.atsInvalidation (pasid : BitVec 20) (va : BitVec 57) (size : BitVec 2) (all : Bool) : Statement (.atsInvalidation pasid va size all) := nofun
theorem RoundTrip.phoupFlitReceived (port : Nat) (flit : Flit) : Statement (.phoupFlitReceived port flit) := nofun
theorem RoundTrip.linkAckTimeout (port : Nat) : Statement (.linkAckTimeout port) := nofun
theorem RoundTrip.linkRetrained (port : Nat) : Statement (.linkRetrained port) := nofun
theorem RoundTrip.peerResponseTimeout (k : Nat) : Statement (.peerResponseTimeout k) := nofun
theorem RoundTrip.moduleReset (report : BringUpReport) : Statement (.moduleReset report) := nofun
theorem RoundTrip.ready : Statement (.ready) := nofun
theorem RoundTrip.getVersion : Statement (.getVersion) := nofun
theorem RoundTrip.getCapabilities : Statement (.getCapabilities) := nofun
theorem RoundTrip.negotiateAlgorithms (algorithms : BitVec 64) : Statement (.negotiateAlgorithms algorithms) := nofun
theorem RoundTrip.getDigests : Statement (.getDigests) := nofun
theorem RoundTrip.getCertificate (offset length : Nat) : Statement (.getCertificate offset length) := nofun
theorem RoundTrip.challenge (nonce : BitVec 256) : Statement (.challenge nonce) := nofun
theorem RoundTrip.getMeasurements (index : BitVec 8) : Statement (.getMeasurements index) := nofun
theorem RoundTrip.keyExchange (exchange : BitVec 256) : Statement (.keyExchange exchange) := nofun
theorem RoundTrip.finish (verify : BitVec 512) : Statement (.finish verify) := nofun
theorem RoundTrip.droopStretch (cluster : Nat) : Statement (.droopStretch cluster) := nofun
theorem RoundTrip.voltageClockChange (cluster mhz mv gated : Nat) : Statement (.voltageClockChange cluster mhz mv gated) := nofun
theorem RoundTrip.linkEqualisation (port : Nat) (restored : Bool) : Statement (.linkEqualisation port restored) := nofun
theorem RoundTrip.scrubRateAdjust (quiet : Bool) : Statement (.scrubRateAdjust quiet) := nofun
theorem RoundTrip.clusterHold (cluster temperature : Nat) : Statement (.clusterHold cluster temperature) := nofun
theorem RoundTrip.holdEnd (cluster temperature : Nat) : Statement (.holdEnd cluster temperature) := nofun
theorem RoundTrip.hbmRecalibration (stack pch : Nat) : Statement (.hbmRecalibration stack pch) := nofun
theorem RoundTrip.lifetimeCommit : Statement (.lifetimeCommit) := nofun
theorem RoundTrip.illegalInstruction (word : BitVec 32) : Statement (.illegalInstruction word) := nofun
theorem RoundTrip.fetchFault (cause : BitVec 8) : Statement (.fetchFault cause) := nofun
theorem RoundTrip.atsTranslationResponse (answer : AtsAnswer) : Statement (.atsTranslationResponse answer) := nofun
theorem RoundTrip.refresh (stack pch : Nat) : Statement (.refresh stack pch) := nofun
theorem RoundTrip.coreCycle (core : Nat) : Statement (.coreCycle core) := nofun
theorem RoundTrip.abruptLossOfPower : Statement (.abruptLossOfPower) := nofun
theorem RoundTrip.poweredHours (peaks : List HourPeak) : Statement (.poweredHours peaks) := nofun

end Sys2Proof.Laws
end

