-- ==== Sys2Proof/Safety.lean ====
section
/-!
DEFINITION. What a safe run is, and the words that claims about the machine are stated in: a slot that stands at an
instruction boundary, an instruction that runs there, and what it leaves.
-/

namespace Sys2Proof.Machine

/-- A step has gone on. -/
def goesOn (r : Host.Outcome State Fault Refusal) : Bool :=
  match r with
  | .next _ => true
  | _ => false

/-- A state of a safe run: its memory is canonical, and bring-up has not stopped. -/
def State.safe (s : State) : Bool := s.mem.wf && !(bitAt s.ready 1)

/-! ## A thread at an instruction boundary -/

/-- A slot in rotation with nothing of an instruction in progress, in no pair, and asked by nobody to stop. -/
def Slot.steady (x : Slot) : Bool :=
  x.status == (if x.inHandler then .handler else .runnable) && x.wait == .nothing && x.reply == none && x.latch == []
    && x.push == none && x.vec == none && x.pair == .alone && !x.matched && x.outward == none && !x.stay && x.barred == none
    && !x.docking && !x.haltPending && !x.stepArmed && !x.resumed && !x.midway && x.gacc == none && x.returnAt == none

/-- A slot with the word of an instruction noted for a trap's record (R389), and one at another PC. -/
def Slot.noting (x : Slot) (i : Instr) : Slot := { x with word := encodeWord i }
def Slot.movedTo (x : Slot) (pc : Word) : Slot := { x with pc := pc }

/-- The state in which the effect of an issued instruction begins: its word is noted. -/
def State.noted (i : Instr) (s : State) : State := clearResume (s.modMe fun x => x.noting i)

/-- The issuing slot is steady and may run `i`: none of the checks of R105, R106, R197, R235 and R236 fails. No line of a
table is asked for: between steps none is (HostAttachment). -/
def State.runs (i : Instr) (s : State) : Bool := decide (s.slot < 8) && s.me.steady && (precheck i s).isNone && s.wants.isEmpty

/-- The issuing slot has become `x` and has retired `i` to `pc`; nothing else of the module has changed. -/
def State.retiredTo (s : State) (i : Instr) (x : Slot) (pc : Word) : State := s.setMe ((x.noting i).movedTo pc)

/-- The same, to the next word. -/
def State.retired (s : State) (i : Instr) (x : Slot) : State := s.retiredTo i x (s.me.pc + 4)

end Sys2Proof.Machine
end

