-- ==== Sys2Proof/Certificates/Slice0/Obligations.lean ====
section
/-!
DEFINITION. The statements about the machine, for the provers. Each says which rules of the spec it formalises; a clause that
rests on a choice of the model says so and names the log entry.
-/

namespace Sys2Proof.Claims
end Sys2Proof.Claims

open Sys2Proof Sys2Proof.Machine Sys2Proof.Claims

/-! ## Scalar instructions -/

/-- The two-operand instructions of R129 with the function that each computes, written over exact numbers: SInt is
`BitVec.toInt`, UInt is `BitVec.toNat`, and `ofNat 64` and `ofInt 64` wrap modulo 2^64. -/
def Sys2Proof.Claims.twoOperand (rd ra rb : BitVec 6) : List (Instr × (Word → Word → Word)) :=
  [(.add rd ra rb, fun a b => .ofNat 64 (a.toNat + b.toNat)),
   (.sub rd ra rb, fun a b => .ofInt 64 (a.toInt - b.toInt)),
   (.mul rd ra rb, fun a b => .ofNat 64 (a.toNat * b.toNat)),
   (.mulh rd ra rb, fun a b => .ofInt 64 (a.toInt * b.toInt / 2 ^ 64)),
   (.mulhu rd ra rb, fun a b => .ofNat 64 (a.toNat * b.toNat / 2 ^ 64)),
   (.div rd ra rb, fun a b => if b = 0 then .ofNat 64 (2 ^ 64 - 1) else .ofInt 64 (a.toInt.tdiv b.toInt)),
   (.divu rd ra rb, fun a b => if b = 0 then .ofNat 64 (2 ^ 64 - 1) else .ofNat 64 (a.toNat / b.toNat)),
   (.rem rd ra rb, fun a b => if b = 0 then a else .ofInt 64 (a.toInt.tmod b.toInt)),
   (.remu rd ra rb, fun a b => if b = 0 then a else .ofNat 64 (a.toNat % b.toNat)),
   (.and rd ra rb, fun a b => a &&& b),
   (.or rd ra rb, fun a b => a ||| b),
   (.xor rd ra rb, fun a b => a ^^^ b),
   (.andn rd ra rb, fun a b => a &&& ~~~b),
   (.sll rd ra rb, fun a b => .ofNat 64 (a.toNat * 2 ^ (b.toNat % 64))),
   (.srl rd ra rb, fun a b => .ofNat 64 (a.toNat / 2 ^ (b.toNat % 64))),
   (.sra rd ra rb, fun a b => .ofInt 64 (a.toInt / 2 ^ (b.toNat % 64))),
   (.min rd ra rb, fun a b => if a.toInt ≤ b.toInt then a else b),
   (.max rd ra rb, fun a b => if b.toInt ≤ a.toInt then a else b),
   (.minu rd ra rb, fun a b => if a.toNat ≤ b.toNat then a else b),
   (.maxu rd ra rb, fun a b => if b.toNat ≤ a.toNat then a else b),
   (.rotl rd ra rb, fun a b => (a <<< (b.toNat % 64)) ||| (a >>> (64 - b.toNat % 64))),
   (.rotr rd ra rb, fun a b => (a >>> (b.toNat % 64)) ||| (a <<< (64 - b.toNat % 64)))]

/-- R129: the words of the two-operand instructions, in the order of their table: the opcode, rd, ra, rb and aux = 0. A nonzero
aux is a reserved field. -/
def Sys2Proof.Claims.TwoOperandWords : Prop :=
  ∀ rd ra rb : BitVec 6, ∀ p ∈ (twoOperand rd ra rb).zip (((List.range' 0x20 20) ++ [0x39, 0x3A]).map (BitVec.ofNat 8)),
    (∀ w : BitVec 32, decodeWord w = .instr p.1.1 ↔ w = p.2 ++ rd ++ ra ++ rb ++ 0#6) ∧
    ∀ aux : BitVec 6, aux ≠ 0 → decodeWord (p.2 ++ rd ++ ra ++ rb ++ aux) = .rejected .reservedField

/-- R129, R130: a two-operand instruction whose checks pass and whose sources, of whatever form, can be read completes: it
writes f(a, b) to its destination, of whatever form, and retires to the next word. `readFrom` reads the sources in field
order and leaves `t`; `writeNext` delivers the result from there. What the two do for each operand form is the subject of
SourceForms and DestinationForms. -/
def Sys2Proof.Claims.TwoOperandValues : Prop :=
  ∀ (rd ra rb : BitVec 6) (i : Instr) (f : Word → Word → Word) (s t : State) (a b : Word),
    (i, f) ∈ twoOperand rd ra rb → precheck i (s.noted i) = none → readFrom [ra, rb] 0 (s.noted i) = .go [a, b] t →
    exec i s = .next (writeNext rd (f a b) (s.noted i) t)

/-- The one-operand instructions of R132, R134 and R135 with the function that each computes. -/
def Sys2Proof.Claims.oneOperand (rd ra : BitVec 6) (imm : BitVec 12) (c : BitVec 6) : List (Instr × (Word → Word)) :=
  [(.sext rd ra 0, fun a => .ofInt 64 (a.setWidth 8).toInt),
   (.sext rd ra 1, fun a => .ofInt 64 (a.setWidth 16).toInt),
   (.sext rd ra 2, fun a => .ofInt 64 (a.setWidth 32).toInt),
   (.zext rd ra 0, fun a => .ofNat 64 (a.toNat % 2 ^ 8)),
   (.zext rd ra 1, fun a => .ofNat 64 (a.toNat % 2 ^ 16)),
   (.zext rd ra 2, fun a => .ofNat 64 (a.toNat % 2 ^ 32)),
   (.addi rd ra imm, fun a => .ofInt 64 (a.toInt + imm.toInt)),
   (.andi rd ra imm, fun a => a &&& .ofInt 64 imm.toInt),
   (.ori rd ra imm, fun a => a ||| .ofInt 64 imm.toInt),
   (.xori rd ra imm, fun a => a ^^^ .ofInt 64 imm.toInt),
   (.slli rd ra c, fun a => .ofNat 64 (a.toNat * 2 ^ c.toNat)),
   (.srli rd ra c, fun a => .ofNat 64 (a.toNat / 2 ^ c.toNat)),
   (.srai rd ra c, fun a => .ofInt 64 (a.toInt / 2 ^ c.toNat))]

/-- R132, R134, R135: a one-operand instruction whose checks pass and whose source can be read completes with its result. -/
def Sys2Proof.Claims.OneOperandResults : Prop :=
  ∀ (rd ra : BitVec 6) (imm : BitVec 12) (c : BitVec 6) (i : Instr) (f : Word → Word) (s t : State) (a : Word),
    (i, f) ∈ oneOperand rd ra imm c → precheck i (s.noted i) = none → readFrom [ra] 0 (s.noted i) = .go [a] t →
    exec i s = .next (writeNext rd (f a) (s.noted i) t)

/-- R131: clz counts the zero bits above the highest set bit, ctz those below the lowest, popc the set bits; clz and ctz of 0
are 64. Each completes, writing the count. -/
def Sys2Proof.Claims.BitCounts : Prop :=
  ∀ (rd ra : BitVec 6) (s : State) (t : State) (a : Word),
    (precheck (.clz rd ra) (s.noted (.clz rd ra)) = none → readFrom [ra] 0 (s.noted (.clz rd ra)) = .go [a] t →
      ∃ n, n ≤ 64 ∧ (∀ k, k < 64 → 64 ≤ k + n → a.getLsbD k = false) ∧ (n < 64 → a.getLsbD (63 - n) = true) ∧
        exec (.clz rd ra) s = .next (writeNext rd (.ofNat 64 n) (s.noted (.clz rd ra)) t)) ∧
    (precheck (.ctz rd ra) (s.noted (.ctz rd ra)) = none → readFrom [ra] 0 (s.noted (.ctz rd ra)) = .go [a] t →
      ∃ n, n ≤ 64 ∧ (∀ k, k < n → a.getLsbD k = false) ∧ (n < 64 → a.getLsbD n = true) ∧
        exec (.ctz rd ra) s = .next (writeNext rd (.ofNat 64 n) (s.noted (.ctz rd ra)) t)) ∧
    (precheck (.popc rd ra) (s.noted (.popc rd ra)) = none → readFrom [ra] 0 (s.noted (.popc rd ra)) = .go [a] t →
      exec (.popc rd ra) s =
        .next (writeNext rd (.ofNat 64 (∑ k ∈ Finset.range 64, (a.getLsbD k).toNat)) (s.noted (.popc rd ra)) t))

/-- R131, R132, R134–R136: the words of the one-operand instructions and of lui and lpc, with every field that must be zero; the
width code 0b11 of sext and zext is reserved. -/
def Sys2Proof.Claims.OneOperandWords : Prop :=
  ∀ (w : BitVec 32) (rd ra : BitVec 6) (imm : BitVec 12) (wide : BitVec 18) (c : BitVec 6) (n : BitVec 2),
    (∀ p ∈ [(Instr.clz rd ra, 0x34#8), (.ctz rd ra, 0x35#8), (.popc rd ra, 0x36#8)],
      decodeWord w = .instr p.1 ↔ w = p.2 ++ rd ++ ra ++ 0#12) ∧
    (∀ p ∈ [(Instr.sext rd ra n, 0x37#8), (.zext rd ra n, 0x38#8)],
      decodeWord w = .instr p.1 ↔ n ≠ 3 ∧ w = p.2 ++ rd ++ ra ++ 0#10 ++ n) ∧
    (∀ p ∈ [(Instr.addi rd ra imm, 0x40#8), (.andi rd ra imm, 0x41#8), (.ori rd ra imm, 0x42#8), (.xori rd ra imm, 0x43#8)],
      decodeWord w = .instr p.1 ↔ w = p.2 ++ rd ++ ra ++ imm) ∧
    (∀ p ∈ [(Instr.slli rd ra c, 0x44#8), (.srli rd ra c, 0x45#8), (.srai rd ra c, 0x46#8)],
      (decodeWord w = .instr p.1 ↔ w = p.2 ++ rd ++ ra ++ 0#6 ++ c) ∧
      ∀ h : BitVec 6, h ≠ 0 → decodeWord (p.2 ++ rd ++ ra ++ h ++ c) = .rejected .reservedField) ∧
    (∀ p ∈ [(Instr.lui rd wide, 0x6A#8), (.lpc rd wide, 0x6B#8)], decodeWord w = .instr p.1 ↔ w = p.2 ++ rd ++ wide)

/-- R136: lui writes SignExtend(imm18) << 12, and lpc the address of the lpc plus that. -/
def Sys2Proof.Claims.UpperImmediates : Prop :=
  ∀ (rd : BitVec 6) (imm : BitVec 18) (s : State),
    (precheck (.lui rd imm) (s.noted (.lui rd imm)) = none →
      exec (.lui rd imm) s =
        .next (writeNext rd (.ofInt 64 (imm.toInt * 2 ^ 12)) (s.noted (.lui rd imm)) (s.noted (.lui rd imm)))) ∧
    (precheck (.lpc rd imm) (s.noted (.lpc rd imm)) = none →
      exec (.lpc rd imm) s =
        .next (writeNext rd ((s.noted (.lpc rd imm)).me.pc + .ofInt 64 (imm.toInt * 2 ^ 12)) (s.noted (.lpc rd imm))
          (s.noted (.lpc rd imm))))

/-- Cond of R137, by the code of cmp. -/
def Sys2Proof.Claims.holds (cc : Nat) (a b : Word) : Prop :=
  match cc with
  | 0 => a = b
  | 1 => a ≠ b
  | 2 => a.toInt < b.toInt
  | 3 => b.toInt ≤ a.toInt
  | 4 => a.toNat < b.toNat
  | _ => b.toNat ≤ a.toNat

/-- R133, R137–R139: sel, cmp, cmpi and pl complete; sel reads both sources whatever p[K] holds; the condition or the
operation goes to p[pd], and a write to p0 is ignored. -/
def Sys2Proof.Claims.SelectsAndCompares : Prop :=
  (∀ (rd ra rb : BitVec 6) (k : BitVec 4) (s t : State) (a b : Word),
    precheck (.sel rd ra rb k) (s.noted (.sel rd ra rb k)) = none →
    readFrom [ra, rb] 0 (s.noted (.sel rd ra rb k)) = .go [a, b] t →
    exec (.sel rd ra rb k) s =
      .next (writeNext rd (if (s.noted (.sel rd ra rb k)).me.predicate k.toNat then a else b) (s.noted (.sel rd ra rb k)) t)) ∧
  (∀ (pd : BitVec 4) (ra rb : BitVec 6) (cc : BitVec 3) (s t : State) (a b : Word) (v : Bool),
    precheck (.cmp pd ra rb cc) (s.noted (.cmp pd ra rb cc)) = none →
    readFrom [ra, rb] 0 (s.noted (.cmp pd ra rb cc)) = .go [a, b] t → (v = true ↔ holds cc.toNat a b) →
    exec (.cmp pd ra rb cc) s = .next (doneNext (t.modMe fun x => x.writePred pd.toNat v))) ∧
  (∀ (pd : BitVec 4) (ra : BitVec 6) (cc : BitVec 2) (imm : BitVec 12) (s t : State) (a : Word) (v : Bool),
    precheck (.cmpi cc pd ra imm) (s.noted (.cmpi cc pd ra imm)) = none →
    readFrom [ra] 0 (s.noted (.cmpi cc pd ra imm)) = .go [a] t →
    (v = true ↔ holds ([0, 1, 2, 4].getD cc.toNat 0) a (.ofInt 64 imm.toInt)) →
    exec (.cmpi cc pd ra imm) s = .next (doneNext (t.modMe fun x => x.writePred pd.toNat v))) ∧
  (∀ (pd pa pb : BitVec 4) (o : BitVec 2) (s : State) (v : Bool),
    precheck (.pl pd pa pb o) (s.noted (.pl pd pa pb o)) = none →
    (let p := (s.noted (.pl pd pa pb o)).me.predicate pa.toNat
     let q := (s.noted (.pl pd pa pb o)).me.predicate pb.toNat
     v = [p && q, p || q, p ^^ q, p && !q].getD o.toNat false) →
    exec (.pl pd pa pb o) s = .next (doneNext ((s.noted (.pl pd pa pb o)).modMe fun x => x.writePred pd.toNat v)))

/-- R103, R125, R133, R137–R139: the words of sel, cmp, cmpi and pl; the codes 0b110 and 0b111 of cmp are reserved. -/
def Sys2Proof.Claims.SelectWords : Prop :=
  ∀ (w : BitVec 32) (rd ra rb : BitVec 6) (k pd pa pb : BitVec 4) (cc : BitVec 3) (c o : BitVec 2) (imm : BitVec 12),
    (decodeWord w = .instr (.sel rd ra rb k) ↔ w = 0x3B#8 ++ rd ++ ra ++ rb ++ 0#2 ++ k) ∧
    (decodeWord w = .instr (.cmp pd ra rb cc) ↔ cc.toNat < 6 ∧ w = 0x3C#8 ++ 0#2 ++ pd ++ ra ++ rb ++ 0#3 ++ cc) ∧
    (decodeWord w = .instr (.cmpi c pd ra imm) ↔ w = 0x47#8 ++ c ++ pd ++ ra ++ imm) ∧
    (decodeWord w = .instr (.pl pd pa pb o) ↔ w = 0x3D#8 ++ 0#2 ++ pd ++ 0#2 ++ pa ++ 0#2 ++ pb ++ 0#4 ++ o)

/-- The compare-branches with the code of each condition. -/
def Sys2Proof.Claims.compareBranches (ra rb : BitVec 6) (off : BitVec 12) : List (Instr × Nat) :=
  [(.beq ra rb off, 0), (.bne ra rb off, 1), (.blt ra rb off, 2), (.bge ra rb off, 3), (.bltu ra rb off, 4), (.bgeu ra rb off, 5)]

/-- R140: a compare-branch whose sources can be read completes: to PC + 4 × SignExtend(off12) when its condition holds, else
to the next word. -/
def Sys2Proof.Claims.CompareBranches : Prop :=
  ∀ (ra rb : BitVec 6) (off : BitVec 12) (i : Instr) (cc : Nat) (s t : State) (a b : Word),
    (i, cc) ∈ compareBranches ra rb off → precheck i (s.noted i) = none → readFrom [ra, rb] 0 (s.noted i) = .go [a, b] t →
    (holds cc a b → exec i s = .next (done t (t.me.pc + .ofInt 64 (4 * off.toInt)))) ∧
    (¬ holds cc a b → exec i s = .next (done t (t.me.pc + 4)))

/-- R141, R142: bt branches when p[K] = 1 and bf when p[K] = 0, and jmp always; else the next word follows. A steady slot
changes by its PC alone. `bt p0` always branches and `bf p0` never, because p0 reads 1 (R21). -/
def Sys2Proof.Claims.PredicateBranchesAndJump : Prop :=
  (∀ (k : BitVec 4) (off : BitVec 12) (s : State), s.runs (.bt k off) = true →
    exec (.bt k off) s = .next (s.retiredTo (.bt k off) s.me
      (if s.me.predicate k.toNat then s.me.pc + .ofInt 64 (4 * off.toInt) else s.me.pc + 4))) ∧
  (∀ (k : BitVec 4) (off : BitVec 12) (s : State), s.runs (.bf k off) = true →
    exec (.bf k off) s = .next (s.retiredTo (.bf k off) s.me
      (if s.me.predicate k.toNat then s.me.pc + 4 else s.me.pc + .ofInt 64 (4 * off.toInt)))) ∧
  (∀ (off : BitVec 18) (s : State), s.runs (.jmp off) = true →
    exec (.jmp off) s = .next (s.retiredTo (.jmp off) s.me (s.me.pc + .ofInt 64 (4 * off.toInt)))) ∧
  (∀ x : Slot, x.predicate 0 = true)

/-- R142, R143: jal and jalr write PC + 4 to rd (nothing to g0) and go on at their target; `ra` of jalr is read first, so
that `jalr g31, g31` jumps to the old g31. A misaligned target of jalr traps with cause misaligned, and neither the link nor
the PC is written. -/
def Sys2Proof.Claims.JumpAndLink : Prop :=
  (∀ (rd : BitVec 6) (off : BitVec 18) (s : State), s.runs (.jal rd off) = true →
    exec (.jal rd off) s = .next (s.retiredTo (.jal rd off) (s.me.writeG rd.toNat (s.me.pc + 4))
      (s.me.pc + .ofInt 64 (4 * off.toInt)))) ∧
  (∀ (rd ra : BitVec 6) (s : State), s.runs (.jalr rd ra) = true → (s.me.readG ra.toNat).toNat % 4 = 0 →
    exec (.jalr rd ra) s = .next (s.retiredTo (.jalr rd ra) (s.me.writeG rd.toNat (s.me.pc + 4)) (s.me.readG ra.toNat))) ∧
  (∀ (rd ra : BitVec 6) (s : State), s.runs (.jalr rd ra) = true → (s.me.readG ra.toNat).toNat % 4 ≠ 0 →
    exec (.jalr rd ra) s = .next (trapHere (s.noted (.jalr rd ra)) .misaligned (s.me.readG ra.toNat)))

/-- R125, R140–R143: the words of the branches and jumps, the displacement in the low 12 or 18 bits. -/
def Sys2Proof.Claims.BranchWords : Prop :=
  ∀ (w : BitVec 32) (rd ra rb : BitVec 6) (k : BitVec 4) (off : BitVec 12) (wide : BitVec 18),
    (∀ p ∈ (compareBranches ra rb off).zip [0x60#8, 0x61#8, 0x62#8, 0x63#8, 0x64#8, 0x65#8],
      decodeWord w = .instr p.1.1 ↔ w = p.2 ++ ra ++ rb ++ off) ∧
    (decodeWord w = .instr (.bt k off) ↔ w = 0x66#8 ++ 0#2 ++ k ++ 0#6 ++ off) ∧
    (decodeWord w = .instr (.bf k off) ↔ w = 0x67#8 ++ 0#2 ++ k ++ 0#6 ++ off) ∧
    (decodeWord w = .instr (.jmp wide) ↔ w = 0x68#8 ++ 0#6 ++ wide) ∧
    (decodeWord w = .instr (.jal rd wide) ↔ w = 0x69#8 ++ rd ++ wide) ∧
    (decodeWord w = .instr (.jalr rd ra) ↔ w = 0x3E#8 ++ rd ++ ra ++ 0#12)

/-! ## Operand forms, destinations, frames -/

/-- R22, R100, R124, R191: what a source field reads in a thread of no pair, for each operand form. A general register: its
value, without effect (g0 reads zero). A context register: its value, without effect. A q port that holds an element: the
oldest one, which leaves the port and is kept in the operand latch (a deferred message element may take the freed place of q0,
R256). An empty port: the thread joins the port's waiters and leaves rotation, out for memory at q0–q7 and for an engine at
q8–q15, its PC unmoved. An element popped by an earlier issue of the instruction is read from the latch again. -/
def Sys2Proof.Claims.SourceForms : Prop :=
  ∀ (f : BitVec 6) (cur : Nat) (s : State), s.slot < 8 → s.me.pair = .alone →
    (f.toNat < 32 → readField f cur s = .go (s.me.readG f.toNat, cur) s) ∧ s.me.readG 0 = 0 ∧
    (48 ≤ f.toNat → readField f cur s = .go (ctxRead s s.core s.slot (f.toNat - 48), cur) s) ∧
    (32 ≤ f.toNat → f.toNat < 48 → ∀ h : cur < s.me.latch.length, readField f cur s = .go (s.me.latch[cur].val, cur + 1) s) ∧
    (32 ≤ f.toNat → f.toNat < 48 → s.me.latch.length ≤ cur →
      (∀ e rest, portGet s s.core s.slot (f.toNat - 32) = e :: rest →
        ((s.coreOf s.core).deferred.any fun d => d.1 == s.slot) = false →
        ∃ t, readField f cur s = .go (e.val, cur + 1) t ∧ portGet t s.core s.slot (f.toNat - 32) = rest ∧
          t.me.latch = s.me.latch ++ [e]) ∧
      (portGet s s.core s.slot (f.toNat - 32) = [] → s.me.reservation = .free →
        readField f cur s = .stop (leaveRotation
          (s.modCore s.core fun r => { r with poppers := r.poppers ++ [(f.toNat - 32, s.slot)] }) s.core s.slot
          (if f.toNat - 32 < 8 then .memoryWait else .engineWait) (.pop (f.toNat - 32)))))

/-- R21, R31, R100, R124, R192, R199: where a result goes from a steady slot `x`, for each operand form, the instruction then
retiring to the next word. A general register takes it, and a write to g0 is ignored. A context register takes it, reserved
bits ignored; a reserved code for frm or fmt traps as an illegal operand in the state before any effect. For a port with a free
place the element is on its way until the end of the third cycle after that of the issue, or of this one where the instruction was
completed by a later reply (R12, R13, R190), and with the core's next cycle it stands at the port's tail if nobody waits to pop. With no free place the slot joins the port's pushers and
leaves rotation with the push pending. -/
def Sys2Proof.Claims.DestinationForms : Prop :=
  ∀ (f : BitVec 6) (v : Word) (s before : State) (x : Slot), s.slot < 8 → x.steady = true →
    (f.toNat < 32 → writeNext f v before (s.setMe x) = s.setMe ((x.writeG f.toNat v).movedTo (x.pc + 4))) ∧
    x.writeG 0 v = x ∧
    (48 ≤ f.toNat → ctxRefuses (f.toNat - 48) v = false →
      writeNext f v before (s.setMe x) = s.setMe ((x.ctxWrite (f.toNat - 48) v).movedTo (x.pc + 4))) ∧
    (48 ≤ f.toNat → ctxRefuses (f.toNat - 48) v = true → writeNext f v before (s.setMe x) = trapHere before .illegalOperand) ∧
    (32 ≤ f.toNat → f.toNat < 48 → freePlaces (s.setMe x) s.core s.slot (f.toNat - 32) ≠ 0 →
      writeNext f v before (s.setMe x) = doneNext ((s.setMe x).modCore s.core fun r =>
        { r with arriving := r.arriving ++ [⟨max r.cycle.toNat (x.last.toNat + 3), s.slot, f.toNat - 32, ⟨v, false, false⟩⟩] })) ∧
    (∀ (c : Nat) (a : Arriving), c < 1280 → a.slot < 8 → a.port < 16 → (s.coreOf c).arriving = [a] → (s.coreOf c).poppers = [] →
      (∀ k, k < 8 → (s.slotOf c k).returnAt = none) →
      a.due < ((s.coreOf c).cycle + 1).toNat → ∃ t, exec (.coreCycle c) s = .next t ∧ (t.coreOf c).arriving = [] ∧
        portGet t c a.slot a.port = portGet s c a.slot a.port ++ [a.elem]) ∧
    (32 ≤ f.toNat → f.toNat < 48 → freePlaces (s.setMe x) s.core s.slot (f.toNat - 32) = 0 → x.reservation = .free →
      ∃ t, writeNext f v before (s.setMe x) = t ∧ t.me.push = some ⟨f.toNat - 32, ⟨v, false, false⟩, x.pc + 4⟩ ∧
        t.me.pc = x.pc ∧ t.me.wait = .push (f.toNat - 32) ∧
        t.me.status = (if f.toNat - 32 < 8 then .memoryWait else .engineWait) ∧
        (t.coreOf s.core).pushers = (s.coreOf s.core).pushers ++ [(f.toNat - 32, s.slot)])

/-- R11, R27–R33, R199, R201: a writable context register reads back what was written to it, in the bits it has; bit 0 of pred,
which stands for p0, reads 1. -/
def Obligations.ContextRegisters : Prop :=
  ∀ (s : State) (v : Word) (n w : Nat), s.slot < 8 →
    (n, w) ∈ [(5, 64), (6, 11), (7, 21), (8, 21), (9, 3), (10, 7), (11, 32)] →
    ctxRead (s.setMe (s.me.ctxWrite n v)) s.core s.slot n = .ofNat 64 (v.toNat % 2 ^ w) ∧
    ctxRead (s.setMe (s.me.ctxWrite 14 v)) s.core s.slot 14 = .ofNat 64 (v.toNat % 2 ^ 16 ||| 1) ∧
    ∀ m, isReadOnly (BitVec.ofNat 6 (48 + m)) = true → m < 16 → s.me.ctxWrite m v = s.me

/-- What an instruction that touches only its slot's registers leaves alone: all of memory and its poison, every other slot,
and what the issuing slot `x` holds apart from its general registers, vector registers, masks, predicates, flags, seed, PC
and noted word. -/
def Sys2Proof.Claims.OnlyRegisters (s t : State) : Prop :=
  (∀ a, t.mem.read a = s.mem.read a) ∧ t.poison = s.poison ∧ t.homes = s.homes ∧
  (∀ c k, ¬ (c = s.core ∧ k = s.slot) → t.slotOf c k = s.slotOf c k) ∧
  t.me = { s.me with g := t.me.g, winG := t.me.winG, v := t.me.v, winV := t.me.winV, m := t.me.m, pred := t.me.pred
                     fflags := t.me.fflags, srseed := t.me.srseed, pc := t.me.pc, word := t.me.word }

/-- The scalar instructions whose only destination is a register named by `rd`, in their register forms. -/
def Sys2Proof.Claims.registerResult (rd ra rb : BitVec 6) (imm : BitVec 12) (wide : BitVec 18) (c : BitVec 6) (w : BitVec 2)
    (k : BitVec 4) : List Instr :=
  (twoOperand rd ra rb).map (·.1) ++
  [.clz rd ra, .ctz rd ra, .popc rd ra, .sext rd ra w, .zext rd ra w, .sel rd ra rb k, .addi rd ra imm, .andi rd ra imm,
   .ori rd ra imm, .xori rd ra imm, .slli rd ra c, .srli rd ra c, .srai rd ra c, .lui rd wide, .lpc rd wide]

/-- FRAME of the scalar instructions of R129–R136 with general registers (R21, R126, R127): one completes, every register but
`rd` keeps its value, g0 included; no flag, predicate, special register, accumulator or exception register changes, no other
slot, and no byte of memory; the PC moves on by 4. -/
def Sys2Proof.Claims.RegisterFrame : Prop :=
  ∀ (rd ra rb : BitVec 6) (imm : BitVec 12) (wide : BitVec 18) (c : BitVec 6) (w : BitVec 2) (k : BitVec 4) (i : Instr)
    (s : State), i ∈ registerResult rd ra rb imm wide c w k → s.runs i = true → rd.toNat < 32 → ra.toNat < 32 → rb.toNat < 32 →
    ∃ t, exec i s = .next t ∧ OnlyRegisters s t ∧ (∀ n, n < 32 → n ≠ rd.toNat → t.me.readG n = s.me.readG n) ∧
      t.me.readG 0 = 0 ∧ t.me.v = s.me.v ∧ t.me.winV = s.me.winV ∧ t.me.m = s.me.m ∧ t.me.pred = s.me.pred ∧
      t.me.fflags = s.me.fflags ∧ t.me.srseed = s.me.srseed ∧ t.me.pc = s.me.pc + 4

/-- FRAME of the instructions that write a predicate or only the PC (R137–R142), with general registers: no general register,
vector register, mask or flag changes, no other slot, no byte of memory; and no predicate but `pd` of cmp, cmpi and pl. -/
def Sys2Proof.Claims.PredicateFrame : Prop :=
  ∀ (pd pa pb : BitVec 4) (ra rb : BitVec 6) (cc : BitVec 3) (ci o : BitVec 2) (imm : BitVec 12) (wide : BitVec 18) (i : Instr)
    (s : State), ra.toNat < 32 → rb.toNat < 32 → s.runs i = true →
    i ∈ [.cmp pd ra rb cc, .cmpi ci pd ra imm, .pl pd pa pb o, .bt pd imm, .bf pd imm, .jmp wide]
      ++ (compareBranches ra rb imm).map (·.1) →
    ∃ t, exec i s = .next t ∧ OnlyRegisters s t ∧ t.me.g = s.me.g ∧ t.me.winG = s.me.winG ∧ t.me.v = s.me.v ∧
      t.me.winV = s.me.winV ∧ t.me.m = s.me.m ∧ t.me.fflags = s.me.fflags ∧ t.me.srseed = s.me.srseed ∧
      (∀ n, n ≠ pd.toNat → t.me.predicate n = s.me.predicate n) ∧
      (i ∈ [.bt pd imm, .bf pd imm, .jmp wide] ++ (compareBranches ra rb imm).map (·.1) → t.me.pred = s.me.pred)

/-! ## Loads, stores, reservations and atomics -/

/-- Access(a, n, right) of R108 and R265 succeeds in the issuing thread's own scratchpad: the segment that a<63:61> selects is
valid, has the rights asked for, reaches far enough, and is local; the address is aligned; `off` is the offset, with the rebase
of a folded slot (R395), and lies inside the 2 MiB. The thread is not a rover away from its origin core (R267). -/
def Sys2Proof.Claims.LocalAt (s : State) (a : Word) (n off : Nat) (r w : Bool) : Prop :=
  let q := vget s.me.sg 0 (bitsOf a 63 61)
  let p := bitsOf q 56 0 + bitsOf a 60 0
  bitAt q 127 = true ∧ (r = true → bitAt q 124 = true) ∧ (w = true → bitAt q 125 = true) ∧
    bitsOf a 60 0 + n - 1 ≤ bitsOf q 120 64 ∧ p % n = 0 ∧ bitsOf q 123 122 = 1 ∧ off = p + slotRebase s s.core s.slot ∧
    off + n ≤ 2 ^ 21 ∧ padHome s.core s.me = s.core

/-- The loads of R146 with their width in bytes and the number that the bytes, as a natural number, stand for. -/
def Sys2Proof.Claims.loads (rd ra : BitVec 6) (imm : BitVec 12) : List (Instr × Nat × (Nat → Int)) :=
  [(.ldB rd ra imm, 1, fun v => (BitVec.ofNat 8 v).toInt), (.ldBu rd ra imm, 1, fun v => v),
   (.ldH rd ra imm, 2, fun v => (BitVec.ofNat 16 v).toInt), (.ldHu rd ra imm, 2, fun v => v),
   (.ldW rd ra imm, 4, fun v => (BitVec.ofNat 32 v).toInt), (.ldWu rd ra imm, 4, fun v => v), (.ldD rd ra imm, 8, fun v => v)]

/-- The stores of R147 with their width in bytes. -/
def Sys2Proof.Claims.stores (ra rb : BitVec 6) (imm : BitVec 12) : List (Instr × Nat) :=
  [(.stB ra rb imm, 1), (.stH ra rb imm, 2), (.stW ra rb imm, 4), (.stD ra rb imm, 8)]

/-- Poison read from memory sets cir.pois and the launch's error bit, and nothing traps (R151). -/
def Sys2Proof.Claims.afterRead (s : State) (poison : Bool) : State := if poison then consumePoison s s.core s.slot else s

/-- R145, R146, R149, R151: a load from the local scratchpad completes: its effective address is ra + SignExtend(imm12), the
bytes there, little-endian (R8), are extended and delivered to rd of whatever form, and poison is consumed. Nothing is stored;
`bankTurnAt` notes that the thread's turn has taken the banks in this cycle (R269). -/
def Obligations.LocalLoads : Prop :=
  ∀ (rd ra : BitVec 6) (imm : BitVec 12) (i : Instr) (n off : Nat) (ext : Nat → Int) (s : State),
    (i, n, ext) ∈ loads rd ra imm → s.runs i = true →
    LocalAt s (s.me.readG ra.toNat + .ofInt 64 imm.toInt) n off true false →
    exec i s = .next (writeNext rd (.ofInt 64 (ext (s.mem.readN (padAddr s.core off) n))) (s.noted i)
      (afterRead (bankTurnAt (s.noted i) s.core off n) (poisonedIn s.poison (padAddr s.core off) n)))

/-- R145, R147: a store to the local scratchpad of a thread in no pair completes: the low n bytes of rb, read in whatever form,
are stored at the effective address (`t` is the state after rb is read), and the instruction retires. `padStore` is the store
into a scratchpad; what it does is the next statement's. -/
def Sys2Proof.Claims.LocalStores : Prop :=
  ∀ (ra rb : BitVec 6) (imm : BitVec 12) (i : Instr) (n off : Nat) (s t : State) (v : Word),
    (i, n) ∈ stores ra rb imm → precheck i (s.noted i) = none → readFrom [rb] 0 (s.noted i) = .go [v] t → t.me.pair = .alone →
    LocalAt t ((s.noted i).me.readG ra.toNat + .ofInt 64 imm.toInt) n off false true →
    exec i s = .next (doneNext (padStore (bankTurnAt t t.core off n) t.core off n v.toNat))

/-- FRAME of a store into a scratchpad (R147, R148, R157, R158, R165): the n bytes at the address hold the low bytes of the
value, little-endian, every other byte of memory reads as before, and no poison mark changes (R435). No register, predicate,
flag, mask, context register or PC of any slot changes; what changes of a slot is at most its local reservation on the
granules written, and the reply to a wrs that watched them. -/
def Sys2Proof.Claims.PadStoreFrame : Prop :=
  ∀ (u : State) (c off n v : Nat),
    (∀ a, (padStore u c off n v).mem.read a =
      if padAddr c off ≤ a ∧ a < padAddr c off + n then .ofNat 8 (v / 2 ^ (8 * (a - padAddr c off))) else u.mem.read a) ∧
    (padStore u c off n v).poison = u.poison ∧ (padStore u c off n v).homes = u.homes ∧
    ∀ d k, ∃ r y, (padStore u c off n v).slotOf d k = { u.slotOf d k with reservation := r, reply := y } ∧
      (r = (u.slotOf d k).reservation ∨ r = .free) ∧ (y = (u.slotOf d k).reply ∨ y.isSome = true)

/-- R108, R145–R148, R265: where a load or store does not perform. Of a thread in no pair: an invalid segment, a missing right
or an offset past the limit is a segment fault, before alignment is looked at; a misaligned address is a misaligned fault; past
the end of the local 2 MiB is a segment fault. Each is raised before any byte is read or written. -/
def Obligations.AccessFaults : Prop :=
  ∀ (rd ra rb : BitVec 6) (imm : BitVec 12) (i : Instr) (n : Nat) (s : State), s.runs i = true → rb.toNat < 32 →
    ((∃ ext, (i, n, ext) ∈ loads rd ra imm) ∨ (i, n) ∈ stores ra rb imm) →
    let a := s.me.readG ra.toNat + .ofInt 64 imm.toInt
    let q := vget s.me.sg 0 (bitsOf a 63 61)
    let p := bitsOf q 56 0 + bitsOf a 60 0
    let right := bitAt q (if (i, n) ∈ stores ra rb imm then 125 else 124)
    ((bitAt q 127 = false ∨ right = false ∨ bitsOf q 120 64 < bitsOf a 60 0 + n - 1) →
      exec i s = .next (trapHere (s.noted i) .segment a)) ∧
    (bitAt q 127 = true → right = true → bitsOf a 60 0 + n - 1 ≤ bitsOf q 120 64 →
      (p % n ≠ 0 → exec i s = .next (trapHere (s.noted i) .misaligned a)) ∧
      (p % n = 0 → bitsOf q 123 122 = 1 → 2 ^ 21 < p + slotRebase s s.core s.slot + n →
        exec i s = .next (trapHere (s.noted i) .segment a)))

/-- Access(a, n, right) succeeds in a global segment whose page is translated to `pa` with policy `pol`, which no aperture
claims (R108, R274, R377–R380, R407). -/
def Sys2Proof.Claims.GlobalAt (s : State) (a : Word) (n pa : Nat) (pol : Policy) (r w : Bool) : Prop :=
  let q := vget s.me.sg 0 (bitsOf a 63 61)
  let p := bitsOf q 56 0 + bitsOf a 60 0
  bitAt q 127 = true ∧ (r = true → bitAt q 124 = true) ∧ (w = true → bitAt q 125 = true) ∧
    bitsOf a 60 0 + n - 1 ≤ bitsOf q 120 64 ∧ p % n = 0 ∧ bitsOf q 123 122 = 0 ∧ p < 2 ^ 57 ∧
    translateSlot s s.core s.slot p r w false = .hit pa pol ∧ apertureOf s pa = none

/-- R13, R16, R20, R149, R274: a global load or store of a thread that is no rover leaves as a request: the thread goes out of
rotation in memory wait, its PC unmoved, the request with the physical address, the width and the data is under way to the
home, and nothing is read or written yet. -/
def Sys2Proof.Claims.GlobalAccessLeaves : Prop :=
  ∀ (rd ra rb : BitVec 6) (imm : BitVec 12) (i : Instr) (n pa : Nat) (pol : Policy) (s : State),
    s.runs i = true → s.me.origin = none → rb.toNat < 32 →
    (∀ ext, (i, n, ext) ∈ loads rd ra imm →
      GlobalAt s (s.me.readG ra.toNat + .ofInt 64 imm.toInt) n pa pol true false →
      ∃ t f, exec i s = .next t ∧ t.flights = s.flights ++ [f] ∧ f.core = s.core ∧ f.slot = s.slot ∧ f.target = .home pa pol ∧
        f.n = n ∧ f.lane = none ∧ (∃ b, f.kind = .load b) ∧ t.mem = s.mem ∧ t.homes = s.homes ∧ t.me.g = s.me.g ∧
        t.me.pc = s.me.pc ∧ t.me.status = .memoryWait ∧ t.me.wait = .reply (some rd) false) ∧
    ((i, n) ∈ stores ra rb imm → GlobalAt s (s.me.readG ra.toNat + .ofInt 64 imm.toInt) n pa pol false true →
      ∃ t f, exec i s = .next t ∧ t.flights = s.flights ++ [f] ∧ f.core = s.core ∧ f.slot = s.slot ∧ f.target = .home pa pol ∧
        f.n = n ∧ f.lane = none ∧ f.kind = .store ∧ f.data = s.me.readG rb.toNat ∧ t.mem = s.mem ∧ t.homes = s.homes ∧
        t.me.g = s.me.g ∧ t.me.pc = s.me.pc ∧ t.me.status = .memoryWait ∧ t.me.wait = .reply none false)

/-- R149, R274, R275, R20: a request of a thread that is no rover at its home, under HOMED, where the line is held. A load
sends the line's bytes back with its poison and changes no memory; a store puts its bytes into the line, which becomes dirty,
touches no other line, and sends its reply. The request is then gone. A load's reply completes the load: its value goes to rd,
and the instruction retires. -/
def Sys2Proof.Claims.HomeAccessAndReply : Prop :=
  (∀ (k : Nat) (s : State) (f : Flight) (pa : Nat) (l : HomeLine) (rd : Option (BitVec 6)) (q : Bool),
    s.flights[k]? = some f → f.target = .home pa .homed → f.lane = none → inLaneOrder s k f = true →
    s.homes.find? (pa / 32) = some l → pa % 32 + f.n ≤ 32 → f.slot < 8 → (s.slotOf f.core f.slot).origin = none →
    (s.slotOf f.core f.slot).wait = .reply rd q → s.hostLines = [] → s.queues = [] → s.watches = [] → s.entryMarks = [] →
    f.spoiled = false →
    (∀ b, f.kind = .load b → exec (.homeAccess k) s =
      .next ({ s with flights := s.flights.eraseIdx k }.setSlot f.core f.slot
        { s.slotOf f.core f.slot with
          reply := some ⟨extendN b f.n (.ofNat 64 (l.data.toNat / 2 ^ (8 * (pa % 32)) % 2 ^ (8 * f.n))), l.poison⟩ })) ∧
    (f.kind = .store → ∃ t, exec (.homeAccess k) s = .next t ∧ t.flights = s.flights.eraseIdx k ∧ t.mem = s.mem ∧
      (∃ m, t.homes.find? (pa / 32) = some m ∧ m.dirty = true ∧ m.poison = l.poison ∧
        ∀ b, b < 32 → m.data.extractLsb' (8 * b) 8 =
          if pa % 32 ≤ b ∧ b < pa % 32 + f.n then f.data.extractLsb' (8 * (b - pa % 32)) 8 else l.data.extractLsb' (8 * b) 8) ∧
      (∀ j, j ≠ pa / 32 → t.homes.find? j = s.homes.find? j) ∧ (t.slotOf f.core f.slot).reply = some ⟨0, false⟩)) ∧
  (∀ (c k : Nat) (s : State) (rd : BitVec 6) (v : Word), k < 8 → c = s.core → k = s.slot → rd.toNat < 32 →
    s.me.status = .memoryWait → s.me.wait = .reply (some rd) false → s.me.reply = some ⟨v, false⟩ → s.me.pair = .alone →
    s.me.haltPending = false → s.me.stepArmed = false → s.me.docking = false → s.wants = [] →
    ∃ t, exec (.threadReply c k) s = .next t ∧ t.mem = s.mem ∧ t.me.readG rd.toNat = (if rd = 0 then 0 else v) ∧
      (∀ n, n < 32 → n ≠ rd.toNat → t.me.readG n = s.me.readG n) ∧ t.me.pc = s.me.pc + 4 ∧
      t.me.status = if s.me.handler = .outside then .runnable else .handler)

/-- F of R160, by op code, on the numbers that the eight bytes hold. -/
def Sys2Proof.Claims.atomic (op : Nat) (old b : Word) : Word :=
  match op with
  | 0 => old + b
  | 1 => old &&& b
  | 2 => old ||| b
  | 3 => old ^^^ b
  | 4 => if b.toInt ≤ old.toInt then old else b
  | 5 => if old.toInt ≤ b.toInt then old else b
  | 6 => if b.toNat ≤ old.toNat then old else b
  | 7 => if old.toNat ≤ b.toNat then old else b
  | _ => b

/-- R109, R151, R154, R156–R158, R160–R163: lres, sres, amo and cas on the local scratchpad complete, of a steady thread that holds
no global reservation, whose data (and, of cas, expected value) is in a general register; the destination is of any form, and with an
order suffix no COMBINE store of the thread is pending. lres returns the n bytes zero-extended and holds the granule; sres stores and
returns 0 if the slot holds the granule, and else returns 1 and writes nothing, and ends the reservation either way; amo and cas
return the old bytes and store F, or the new value if the old ones were expected; an amo or cas of that granule ends the
slot's reservation. Poison read is consumed, and what is made of it keeps its mark. -/
def Obligations.LocalAtomics : Prop :=
  ∀ (rd ra rb : BitVec 6) (w : BitVec 1) (op : BitVec 4) (o : BitVec 2) (off : Nat) (s : State), rb.toNat < 32 →
    op.toNat ≤ 8 → (o = 0 ∨ releaseHolds s s.core s.slot = true) → (∀ g, s.me.reservation ≠ .global g) →
    let n := if w = 0 then 8 else 4
    let a := s.me.readG ra.toNat
    let b := s.me.readG rb.toNat
    let old := fun m => s.mem.readN (padAddr s.core off) m
    let bad := fun m => poisonedIn s.poison (padAddr s.core off) m
    let held := fun (i : Instr) (m : Nat) (r : Reservation) =>
      let u := bankTurnAt (s.noted i) s.core off m
      u.setMe { u.me with reservation := r }
    let ended := if s.me.reservation = .localPad (off / 8 * 8) then .free else s.me.reservation
    let put := fun (i : Instr) (m : Nat) (v : Word) =>
      .next (writeNext rd (.ofNat 64 (old m)) (s.noted i) (afterRead (padRmwStore (held i m ended) s.core off m v.toNat (bad m)) (bad m)))
    (s.runs (.lres rd ra w o) = true → LocalAt s a n off true true → exec (.lres rd ra w o) s =
      .next (writeNext rd (.ofNat 64 (old n)) (s.noted (.lres rd ra w o))
        (afterRead (held (.lres rd ra w o) n (.localPad (off / 8 * 8))) (bad n)))) ∧
    (s.runs (.sres rd ra rb w o) = true → LocalAt s a n off false true →
      (s.me.reservation = .localPad (off / 8 * 8) → exec (.sres rd ra rb w o) s =
        .next (writeNext rd 0 (s.noted (.sres rd ra rb w o)) (padStore (held (.sres rd ra rb w o) n .free) s.core off n b.toNat))) ∧
      (s.me.reservation ≠ .localPad (off / 8 * 8) → exec (.sres rd ra rb w o) s =
        .next (writeNext rd 1 (s.noted (.sres rd ra rb w o)) (held (.sres rd ra rb w o) n .free)))) ∧
    (s.runs (.amo rd ra rb op o) = true → LocalAt s a 8 off true true → ctxRefuses (rd.toNat - 48) (.ofNat 64 (old 8)) = false → exec (.amo rd ra rb op o) s =
      put (.amo rd ra rb op o) 8 (atomic op.toNat (.ofNat 64 (old 8)) b)) ∧
    (s.runs (.cas rd ra rb w o) = true → rd.toNat < 32 → LocalAt s a n off true true →
      (old n = (s.me.readG rd.toNat).toNat % 2 ^ (8 * n) → exec (.cas rd ra rb w o) s =
        put (.cas rd ra rb w o) n (.ofNat 64 (b.toNat % 2 ^ (8 * n)))) ∧
      (old n ≠ (s.me.readG rd.toNat).toNat % 2 ^ (8 * n) → exec (.cas rd ra rb w o) s =
        .next (writeNext rd (.ofNat 64 (old n)) (s.noted (.cas rd ra rb w o))
          (afterRead (held (.cas rd ra rb w o) n ended) (bad n)))))

/-! ## Homes, queues, watches, other cores' banks, fences -/

/-- R153–R158, R164, R165, R278: a home's queues. With general hypotheses (the request is whole, in lane order, the host holds
no line, the home's line is held and good): an lres to a granule without a queue is granted at once, its slot holds the
granule, and its reply is the n bytes at the home. 1,024 cycles of the home core after a grant the granule passes on: with no
waiter the queue goes, and the holder holds nothing. A watch of a scratchpad granule that is 65,536 cycles old ends with the
granule's value; a younger one stays. The oldest lres that waits for admission is granted when its granule has no queue and the
home holds fewer than 64. -/
def Sys2Proof.Claims.HomeQueues : Prop :=
  (∀ (k : Nat) (s : State) (f : Flight) (pa : Nat) (l : HomeLine) (rd : Option (BitVec 6)) (q : Bool),
    s.flights[k]? = some f → f.target = .home pa .homed → f.kind = .lres → f.lane = none → inLaneOrder s k f = true →
    s.homes.find? (pa / 32) = some l → pa % 32 + f.n ≤ 32 → f.slot < 8 → (s.slotOf f.core f.slot).origin = none →
    (s.slotOf f.core f.slot).reservation = .free → (s.slotOf f.core f.slot).wait = .reply rd q → s.hostLines = [] →
    s.queues = [] → (s.coreOf (homeCore s pa)).admission = [] → s.entryMarks = [] → f.spoiled = false →
    ∃ t, exec (.homeAccess k) s = .next t ∧ t.flights = s.flights.eraseIdx k ∧ t.mem = s.mem ∧ t.homes = s.homes ∧
      t.queues = [⟨pa / 8 * 8, some (f.core, f.slot), (s.coreOf (homeCore s (pa / 8 * 8))).cycle, []⟩] ∧
      (t.slotOf f.core f.slot).reservation = .global (pa / 8 * 8) ∧
      (t.slotOf f.core f.slot).reply =
        some ⟨.ofNat 64 (l.data.toNat / 2 ^ (8 * (pa % 32)) % 2 ^ (8 * f.n)), l.poison⟩) ∧
  (∀ (s : State) (q : Queue) (c k : Nat), k < 8 → s.queues = [q] → q.holder = some (c, k) → q.waiters = [] →
    (s.slotOf c k).reservation = .global q.granule →
    (q.grantedAt.toNat + 1024 ≤ (s.coreOf (homeCore s q.granule)).cycle.toNat →
      exec (.reservationTimeout q.granule) s =
        .next { s.setSlot c k { s.slotOf c k with reservation := .free } with queues := [] }) ∧
    ((s.coreOf (homeCore s q.granule)).cycle.toNat < q.grantedAt.toNat + 1024 →
      exec (.reservationTimeout q.granule) s = .next s)) ∧
  (∀ (s : State) (c k p g : Nat) (rd : Option (BitVec 6)) (q : Bool) (since : Word), k < 8 →
    s.watches = [⟨c, k, false, p, g, since⟩] → (s.slotOf c k).wait = .reply rd q →
    (∀ e ∈ s.cores.entries, e.2.admission = []) →
    ((s.slotOf c k).last.toNat + 65536 ≤ (s.coreOf c).cycle.toNat →
      exec (.wrsTimeout c k) s = .next ({ s with watches := [] }.setSlot c k
        { s.slotOf c k with reply := some ⟨.ofNat 64 (s.mem.readN (padAddr p g) 8), poisonedIn s.poison (padAddr p g) 8⟩ })) ∧
    ((s.coreOf c).cycle.toNat < (s.slotOf c k).last.toNat + 65536 → exec (.wrsTimeout c k) s = .next s)) ∧
  (∀ (s : State) (h pa : Nat) (f : Flight) (rest : List Flight) (l : HomeLine) (rd : Option (BitVec 6)) (q : Bool),
    (s.coreOf h).admission = f :: rest → f.target = .home pa .homed → f.kind = .lres → f.lane = none → f.slot < 8 →
    s.homes.find? (pa / 32) = some l → (s.slotOf f.core f.slot).reservation = .free →
    (s.slotOf f.core f.slot).wait = .reply rd q → (s.queues.any fun q => q.granule == pa / 8 * 8) = false →
    (s.queues.filter fun q => homeCore s q.granule == h).length < 64 →
    ∃ t, exec (.homeAdmission h) s = .next t ∧ (t.coreOf h).admission = rest ∧ t.mem = s.mem ∧
      (t.slotOf f.core f.slot).reservation = .global (pa / 8 * 8) ∧
      (t.slotOf f.core f.slot).reply.map (·.val) =
        some (.ofNat 64 (l.data.toNat / 2 ^ (8 * (pa % 32)) % 2 ^ (8 * f.n))) ∧ t.queues.length = s.queues.length + 1)

/-- R269, R270, R285: a request at another core's bank, where no aged requester wants that bank. A load brings the bytes back and
changes no memory; a store stores its n bytes there and nowhere else; a core out of service performs nothing and answers poisoned
zero. One that is not aged waits where another is. A requester refused 16 times becomes aged, and one refused less often does
not. -/
def Sys2Proof.Claims.RemoteBanks : Prop :=
  (∀ (k : Nat) (s : State) (f : Flight) (core off : Nat) (rd : Option (BitVec 6)) (q : Bool),
    s.flights[k]? = some f → f.target = .bank core off → f.lane = none → inLaneOrder s k f = true → f.slot < 8 →
    agedAt s core (off / 32 % 32) = [] → (s.slotOf f.core f.slot).wait = .reply rd q → f.spoiled = false →
    (s.inService core = true → ∀ b, f.kind = .load b → exec (.remoteAccess k) s =
      .next ({ s with flights := s.flights.eraseIdx k }.setSlot f.core f.slot { s.slotOf f.core f.slot with
        reply := some ⟨extendN b f.n (.ofNat 64 (s.mem.readN (padAddr core off) f.n)),
          poisonedIn s.poison (padAddr core off) f.n⟩ })) ∧
    (s.inService core = true → f.kind = .store → ∃ t, exec (.remoteAccess k) s = .next t ∧
      t.flights = s.flights.eraseIdx k ∧ (t.slotOf f.core f.slot).reply = some ⟨0, false⟩ ∧
      ∀ a, t.mem.read a = if padAddr core off ≤ a ∧ a < padAddr core off + f.n
        then .ofNat 8 (f.data.toNat / 2 ^ (8 * (a - padAddr core off))) else s.mem.read a) ∧
    (s.inService core = false → exec (.remoteAccess k) s =
      .next ({ s with flights := s.flights.eraseIdx k }.setSlot f.core f.slot
        { s.slotOf f.core f.slot with reply := some ⟨0, true⟩ }))) ∧
  (∀ (k : Nat) (s : State) (f : Flight) (core off : Nat), s.flights[k]? = some f → f.target = .bank core off → f.aged = false →
    agedAt s core (off / 32 % 32) ≠ [] → exec (.remoteAccess k) s = .next s) ∧
  (∀ (k : Nat) (s : State) (f : Flight), s.flights[k]? = some f →
    (16 ≤ f.refused → f.aged = false →
      exec (.bankRequesterAged k) s = .next { s with flights := s.flights.set k { f with aged := true } }) ∧
    (f.refused < 16 → exec (.bankRequesterAged k) s = .next s))

/-- R150, R277: the port's buffers. A combining entry whose lines are held at their homes is written out whole: its bytes stand
in those lines and no other byte of them changes, the entry is gone, and the array is not touched; 256 cycles after its first
store the timeout does the same. A pending burst 8 cycles old is written into the array: the latest byte of each address, no
other, and the burst is gone. -/
def Obligations.PortBuffers : Prop :=
  (∀ (s : State) (cl : Nat) (e : CombineEntry), (s.clusterAt cl).combine = [e] → e.poison = [] → e.cured = [] → bankBusy s (e.block * 256) = false →
    s.hostLines = [] → s.queues = [] → s.watches = [] → s.bursts = [] →
    (∀ x ∈ e.bytes, ∃ l, s.homes.find? (x.1 / 32) = some l) →
    (∃ t, exec (.combineWriteOut cl e.block) s = .next t ∧ (t.clusterAt cl).combine = [] ∧ t.mem = s.mem ∧ t.bursts = [] ∧
      t.cores = s.cores ∧ ∀ j l, s.homes.find? j = some l → ∃ m, t.homes.find? j = some m ∧ m.poison = l.poison ∧
        ∀ b, b < 32 → m.data.extractLsb' (8 * b) 8 =
          (tableFind (32 * j + b) e.bytes.reverse).getD (l.data.extractLsb' (8 * b) 8)) ∧
    (e.opened + 256 ≤ s.clock → exec (.combineTimeout cl e.block) s = exec (.combineWriteOut cl e.block) s) ∧
    (s.clock < e.opened + 256 → exec (.combineTimeout cl e.block) s = .next s)) ∧
  (∀ (s : State) (b : Burst), s.bursts = [b] → bankBusy s (b.block * 256) = false → b.opened + 8 ≤ s.clock →
    ∃ t, exec (.hbmBurstMergeClose b.block) s = .next t ∧ t.bursts = [] ∧ t.cores = s.cores ∧ t.homes = s.homes ∧
      ∀ a, t.mem.read a = (tableFind a b.bytes.reverse).getD (s.mem.read a))

/-- A scope word is malformed (R5–R7). -/
def Sys2Proof.Claims.Malformed (w : Word) : Prop :=
  2 ^ 24 ≤ w.toNat ∨
    (bitsOf w 23 22 = 1 ∧ (bitsOf w 17 11 < bitsOf w 6 0 ∨ bitsOf w 21 18 < bitsOf w 10 7 ∨ 79 < bitsOf w 17 11)) ∨
    (bitsOf w 23 22 = 3 ∧ 79 < bitsOf w 6 0)

/-- R6, R7, R167–R170: the fences. A malformed scope word is an illegal operand. fence completes where no combining entry of the
cluster's port holds a store of the thread, fence.b where its core's bank queue holds no command of the slot to a core in the
scope, fence.a where neither a combining entry nor a pending burst nor a home line that awaits its write-back holds a store of
it; such a fence changes nothing but the PC. A plain fence at module scope with such a store pending leaves rotation in memory wait. -/
def Sys2Proof.Claims.Fences : Prop :=
  ∀ (ra : BitVec 6) (s : State),
    let w := s.me.readG ra.toNat
    let combining := (s.clusterAt (clusterOf s.core)).combine.any fun e => e.owners.contains (s.core, s.slot)
    (s.runs (.fence ra) = true → (Malformed w → exec (.fence ra) s = .next (trapHere (s.noted (.fence ra)) .illegalOperand)) ∧
      (¬ Malformed w → combining = false → exec (.fence ra) s = .next (s.retired (.fence ra) s.me)) ∧
      (¬ Malformed w → combining = true → bitsOf w 23 22 = 0 ∨ bitsOf w 23 22 = 2 → exec (.fence ra) s =
        .next (s.setMe { s.me.noting (.fence ra) with status := .memoryWait, wait := .poll (.fence w), reply := none }))) ∧
    (s.runs (.fenceB ra) = true →
      (Malformed w → exec (.fenceB ra) s = .next (trapHere (s.noted (.fenceB ra)) .illegalOperand)) ∧
      (¬ Malformed w → (∀ x ∈ (s.coreOf s.core).bankQ, x.owner = .slot s.slot →
          inScope (scopeCores (s.noted (.fenceB ra)) s.core s.slot w) (runOf x).core = false) →
        exec (.fenceB ra) s = .next (s.retired (.fenceB ra) s.me))) ∧
    (s.runs (.fenceA ra) = true →
      (Malformed w → exec (.fenceA ra) s = .next (trapHere (s.noted (.fenceA ra)) .illegalOperand)) ∧
      (¬ Malformed w → combining = false → (∀ b ∈ s.bursts, (s.core, s.slot) ∉ b.owners) →
        (∀ e ∈ s.homes.entries, (s.core, s.slot) ∉ e.2.owners) →
        exec (.fenceA ra) s = .next (s.retired (.fenceA ra) s.me)))

/-- The issuing slot is out of rotation and a reply has come, which goes to `rd` if there is one. -/
def Sys2Proof.Claims.answered (s : State) (rd : Option (BitVec 6)) (v : Word) : State :=
  s.setMe { s.me with status := .memoryWait, wait := .reply rd false, reply := some ⟨v, false⟩ }

/-- R164, R247, R248, R436: wrs on a local granule that holds another value completes with that value; ifence invalidates the
lines of the thread's context in its core's instruction cache, and no other, and waits for its reply; chkerr reads cir, pois in
bit 0 and the launch's error word above it, and chkerr.clr clears exactly what it reported. -/
def Sys2Proof.Claims.WatchAndCaches : Prop :=
  (∀ (rd ra rb : BitVec 6) (off : Nat) (s : State), s.runs (.wrs rd ra rb) = true → rd.toNat < 32 → rb.toNat < 32 →
    s.me.reservation = .free → LocalAt s (s.me.readG ra.toNat) 8 off true false → (s.me.readG ra.toNat).toNat % 8 = 0 →
    poisonedIn s.poison (padAddr s.core off) 8 = false →
    BitVec.ofNat 64 (s.mem.readN (padAddr s.core off) 8) ≠ s.me.readG rb.toNat →
    exec (.wrs rd ra rb) s =
      .next ((bankTurnAt s s.core off 8).retired (.wrs rd ra rb) (s.me.writeG rd.toNat (.ofNat 64 (s.mem.readN (padAddr s.core off) 8))))) ∧
  (∀ s : State, s.runs .ifence = true → s.me.reservation = .free →
    ∃ t, exec .ifence s = .next t ∧ t = answered ((s.setMe (s.me.noting .ifence)).modCore s.core fun r =>
        { r with icache := (t.coreOf s.core).icache }) none 0 ∧
      (∀ pa, pa < 2 ^ 52 → (t.coreOf s.core).icache.find? (icacheKey s.me.ctag pa) = none) ∧
      ∀ tag pa, pa < 2 ^ 52 → tag ≠ s.me.ctag →
        (t.coreOf s.core).icache.find? (icacheKey tag pa) = (s.coreOf s.core).icache.find? (icacheKey tag pa)) ∧
  (∀ (rd : BitVec 6) (s : State), rd.toNat < 32 →
    let e := s.errWords.get 0 s.me.lid.toNat
    let v : Word := .ofNat 64 ((if s.me.pois then 1 else 0) + 2 * e.toNat)
    (s.runs (.chkerr rd 0) = true → exec (.chkerr rd 0) s = .next (s.retired (.chkerr rd 0) (s.me.writeG rd.toNat v))) ∧
    (s.runs (.chkerr rd 1) = true → exec (.chkerr rd 1) s =
      .next ({ s with errWords := s.errWords.set s.me.lid.toNat 0 }.retired (.chkerr rd 1)
        ({ s.me with pois := false }.writeG rd.toNat v))))

/-! ## Encodings, a step, fetching, exceptions, the wheel, reset -/

/-- R96–R103: words written out field by field from the encoding tables decode to the instruction they stand for, one of each
form; the all-zeros and all-ones words, an unassigned opcode and a reserved field are rejected by name (R104). -/
def Obligations.DecodeWords : Prop :=
  decodeWord (0x20#8 ++ 1#6 ++ 2#6 ++ 3#6 ++ 0#6) = .instr (.add 1 2 3) ∧
  decodeWord (0x47#8 ++ 2#2 ++ 5#4 ++ 33#6 ++ 0xFFF#12) = .instr (.cmpi 2 5 33 0xFFF) ∧
  decodeWord (0x4C#8 ++ 7#6 ++ 8#6 ++ 0x804#12) = .instr (.ldW 7 8 0x804) ∧
  decodeWord (0x50#8 ++ 9#6 ++ 32#6 ++ 0x010#12) = .instr (.stB 9 32 0x010) ∧
  decodeWord (0x62#8 ++ 4#6 ++ 5#6 ++ 0xFFE#12) = .instr (.blt 4 5 0xFFE) ∧
  decodeWord (0x69#8 ++ 31#6 ++ 0x20001#18) = .instr (.jal 31 0x20001) ∧
  decodeWord (0x6A#8 ++ 6#6 ++ 0x12345#18) = .instr (.lui 6 0x12345) ∧
  decodeWord (0x56#8 ++ 1#6 ++ 2#6 ++ 3#6 ++ 8#4 ++ 3#2) = .instr (.amo 1 2 3 8 3) ∧
  decodeWord (0x59#8 ++ 0#6 ++ 3#6 ++ 0#6 ++ 2#6) = .instr (.fenceA 3) ∧
  decodeWord (0x01#8 ++ 0#6 ++ 4#6 ++ 0xABC#12) = .instr (.trap 4 0xABC) ∧
  decodeWord (0x80#8 ++ 1#4 ++ 2#4 ++ 3#4 ++ 5#3 ++ 0#6 ++ 2#3) = .instr (.vadd 1 2 3 5 0 2) ∧
  decodeWord (0xA0#8 ++ 15#4 ++ 0#4 ++ 0#4 ++ 0#3 ++ 30#6 ++ 0#3) = .instr (.vld 15 0 30 0) ∧
  decodeWord (0xC2#8 ++ 28#6 ++ 5#6 ++ 0#12) = .instr (.enqw 28 5) ∧
  decodeWord (0xCF#8 ++ 5#6 ++ 0#3 ++ 7#3 ++ 0#11 ++ 1#1) = .instr (.ringrd 5 7 1) ∧
  decodeWord 0 = .rejected .blankWord ∧ decodeWord 0xFFFFFFFF#32 = .rejected .blankWord ∧
  decodeWord 0xFE000000#32 = .rejected .unassignedOpcode ∧
  decodeWord (0x20#8 ++ 1#6 ++ 2#6 ++ 3#6 ++ 1#6) = .rejected .reservedField

/-- R96–R104: DECODE AND ENCODE AGREE: every instruction that the encoding has, whatever its operands, is what the decoder
reads from its word. -/
def Obligations.RoundTripAll : Prop := ∀ i : Instr, Sys2Proof.Laws.RoundTrip.Statement i

/-- R96–R104, the other direction: a word that decodes is the one word of the instruction it decodes to, so no two words mean
one instruction, and no field of a decoded word is ignored. -/
def Obligations.DecodeIsInjective : Prop :=
  ∀ (w : BitVec 32) (i : Instr), decodeWord w = .instr i → i.encodable = true ∧ encodeWord i = w

/-- The fetch of the issuing slot's PC succeeds: a valid global segment with the execute right, aligned, whose page translates
to `pa` with policy `pol` (R108, R127, R266). -/
def Sys2Proof.Claims.CodeAt (s : State) (pa : Nat) (pol : Policy) : Prop :=
  let q := vget s.me.sg 0 (bitsOf s.me.pc 63 61)
  let p := bitsOf q 56 0 + bitsOf s.me.pc 60 0
  bitAt q 127 = true ∧ bitAt q 126 = true ∧ bitsOf s.me.pc 60 0 + 3 ≤ bitsOf q 120 64 ∧ p % 4 = 0 ∧ bitsOf q 123 122 = 0 ∧
    p < 2 ^ 57 ∧ translateSlot s s.core s.slot p false false true = .hit pa pol

/-- The issuing slot has no push pending, no completion handler to enter and no instruction in progress (R192, R195, R210). -/
def Sys2Proof.Claims.FetchesNext (s : State) : Prop :=
  s.me.push = none ∧ s.me.pending = [] ∧ s.me.vec = none ∧ s.me.matched = false

/-- R104, R106, R127: A STEP RUNS THE DECODED INSTRUCTION. Where the issue of a slot is due and its fetch succeeds, the step is
`exec` of the instruction that the word fetched decodes to, in the state that the fetch leaves; a word that is no instruction
traps, its record carrying the word; a fetch that has to wait takes the slot out of rotation. A fetch that fails its segment check traps with the failing PC as the address, and no
word. Where no issue is due and no instruction in progress goes on, the step is `exec` of the next event of the agenda (log
entry 4). -/
def Obligations.StepRunsDecoded : Prop :=
  (∀ (s : State) (pa : Nat) (pol : Policy), s.issuing = true → FetchesNext s → CodeAt s pa pol →
    let f := fetchWord { s with issuing := false } s.core s.slot pol pa
    (∀ w i, f.1 = some w → decodeWord w = .instr i → step s = exec i f.2) ∧
    (∀ w r, f.1 = some w → decodeWord w = .rejected r →
      step s = .next (trapHere (f.2.modMe fun x => { x with word := w }) .illegalInstruction)) ∧
    (f.1 = none → step s = .next (leaveRotation f.2 f.2.core f.2.slot .memoryWait (.poll .fetch)))) ∧
  (∀ s : State, s.issuing = true → FetchesNext s →
    let q := vget s.me.sg 0 (bitsOf s.me.pc 63 61)
    (bitAt q 127 = false ∨ bitAt q 126 = false ∨ bitsOf q 120 64 < bitsOf s.me.pc 60 0 + 3) →
    step s = .next (trapHere ({ s with issuing := false }.modMe fun x => { x with word := 0 }) .segment s.me.pc)) ∧
  (∀ (s : State) (i : Instr) (rest : List Input), s.issuing = false → s.going = [] → s.agenda = .event i :: rest →
    i.isWord = false → (∀ w, i ≠ .illegalInstruction w) → (∀ c, i ≠ .fetchFault c) →
    step s = exec i { s with agenda := rest })

/-- R8, R96, R247, R275: the word fetched where the instruction cache holds none, no home holds the line and nothing waits at the
ports is the four bytes at the address, little-endian; the fetch changes no byte of memory. -/
def Sys2Proof.Claims.FetchReadsMemory : Prop :=
  ∀ (s : State) (c k pa : Nat) (pol : Policy), pa % 4 = 0 → s.bursts = [] → s.homes.entries = [] →
    s.apertures.entries = [] → (s.coreOf c).icache.entries = [] → (s.clusterAt (clusterOf c)).combine = [] →
    bankBusy s (pa / 32 * 32) = false →
    (fetchWord s c k pol pa).1 = some (.ofNat 32 (s.mem.readN pa 4)) ∧ (fetchWord s c k pol pa).2.mem = s.mem ∧
      ∀ j, (fetchWord s c k pol pa).2.slotOf c j = s.slotOf c j

/-- The cause codes of R389. -/
def Sys2Proof.Claims.causes : List (Cause × Nat) :=
  [(.illegalInstruction, 1), (.illegalOperand, 2), (.privilege, 3), (.state, 4), (.segment, 5), (.misaligned, 6), (.space, 7),
   (.addressRange, 8), (.policy, 9), (.environmentCall, 10), (.breakpoint, 11)]

/-- R106, R158, R237, R389–R391: TAKING AN EXCEPTION, for a slot of no pair that holds no reservation, of a context that is no
host process. A slot other than the pilot leaves rotation trapped, its registers and PC as they are, and its record joins the
core's trap queue: the cause, the slot, the lane and the code in doubleword 0, then the PC, the word and the address. A pilot
parked by park becomes runnable, its PC past the park (log entry 54). The pilot itself halts, and its record joins the management queue if that has room. -/
def Sys2Proof.Claims.TakingATrap : Prop :=
  ∀ (s : State) (c k lane code n : Nat) (cause : Cause) (addr : Word), k < 8 → (cause, n) ∈ causes →
    (s.slotOf c k).pair = .alone → (s.slotOf c k).reservation = .free → hostContext s c k = none →
    let x := s.slotOf c k
    let r : TrapRec := ⟨.ofNat 64 (n + k * 2 ^ 8 + lane * 2 ^ 11 + code * 2 ^ 32), x.pc, x.word.setWidth 64, addr⟩
    (k ≠ 7 → (s.slotOf c 7).status ≠ .parked → takeTrap s c k cause lane code addr =
      (s.setSlot c k { x with
        status := .trapped, wait := .nothing, reply := none, barred := none, midway := false, gacc := none }).modCore c
        fun y => { y with traps := y.traps ++ [r] }) ∧
    (k ≠ 7 → (s.slotOf c 7).status = .parked → (∃ key w, (s.slotOf c 7).park = .key key w) → (s.slotOf c 7).pair = .alone →
      (s.slotOf c 7).docking = false → (s.slotOf c 7).haltPending = false → (s.slotOf c 7).stepArmed = false →
      ∃ t, takeTrap s c k cause lane code addr = t ∧ (t.slotOf c k).status = .trapped ∧ (t.slotOf c k).pc = x.pc ∧
        (t.coreOf c).traps = (s.coreOf c).traps ++ [r] ∧ (t.slotOf c 7).status.issues = true ∧
        (t.slotOf c 7).pc = (s.slotOf c 7).pc + 4) ∧
    (k = 7 → s.mgmt.length < 64 → s.mgmtWaiting = [] → takeTrap s c k cause lane code addr =
      { s.setSlot c k { x with
          status := .halted, wait := .nothing, reply := none, barred := none, midway := false, gacc := none } with mgmt := s.mgmt ++ [r] })

/-- The instructions that only the pilot may issue (R236). -/
def Sys2Proof.Claims.pilots (rd ra rb : BitVec 6) (n : BitVec 12) (sg : BitVec 3) (b : BitVec 1) : List Instr :=
  [.tret ra b, .xrd rd ra rb, .xwr rd ra rb, .sysrd rd n, .syswr ra n, .segldImg sg ra, .dockIn rd ra rb, .dockOut rd ra rb,
   .kill rd ra, .halt rd ra, .cont rd ra b]

/-- R104–R106, R235, R236: the checks before any effect. An instruction word that fails one traps with its cause, whatever its
operands hold and before any port is popped. Of the checks: a pilot-only instruction outside slot 7 is a privilege fault; a
write to a read-only context register and a q port or context register in a field for general registers are illegal operands;
drain outside a handler, cfwd, cpark and the rewrites cins, cdel and crep outside a capsule step, park, quit, spawn and bar in a
handler, park, quit and bar in a capsule step, and bar of no gang thread are state faults. -/
def Sys2Proof.Claims.ChecksTrap : Prop :=
  (∀ (i : Instr) (s : State) (c : Cause), i.isWord = true → s.wants = [] → precheck i (s.noted i) = some c →
    exec i s = .next (trapHere (s.noted i) c)) ∧
  ∀ (s : State) (rd ra rb : BitVec 6) (n : BitVec 12) (sg : BitVec 3) (b : BitVec 1) (lvl : BitVec 2),
    (∀ i ∈ pilots rd ra rb n sg b, s.slot ≠ 7 → precheck i s = some .privilege) ∧
    (rd.toNat ∈ [48, 49, 50, 51, 52, 60, 61, 63] → precheck (.add rd ra rb) s = some .illegalOperand) ∧
    (32 ≤ ra.toNat → ∀ i ∈ [Instr.ldD rd ra n, .stD ra rb n, .fence ra, .jalr rd ra, .amo rd ra rb 0 0, .tdone rd ra, .enq ra],
      precheck i s = some .illegalOperand) ∧
    (s.me.origin = none → (s.me.handler = .outside → precheck .drain s = some .state) ∧
      (rd.toNat < 32 → ra.toNat < 32 → rb.toNat < 32 →
        (s.me.capsule = none → ∀ i ∈ [Instr.cfwd, .cins rd ra rb, .cdel rd ra, .crep rd ra rb, .cpark ra], precheck i s = some .state) ∧
        (s.me.handler ≠ .outside → ∀ i ∈ [Instr.park ra, .quit, .spawn rd ra rb, .bar rd lvl], precheck i s = some .state) ∧
        (s.me.capsule.isSome = true → ∀ i ∈ [Instr.park ra, .quit, .bar rd lvl], precheck i s = some .state) ∧
        (s.me.gang = false → precheck (.bar rd lvl) s = some .state)))

/-- R104, R106, R127, R389: ILLEGAL_INSTRUCTION and FETCH_FAULT take the trap of the word or the fetch that they stand for. -/
def Sys2Proof.Claims.FetchTraps : Prop :=
  (∀ (w : BitVec 32) (r : Reject) (s : State), decodeWord w = .rejected r → exec (.illegalInstruction w) s =
    .next (trapHere (s.modMe fun x => { x with word := w }) .illegalInstruction)) ∧
  (∀ s : State, bitAt (vget s.me.sg 0 (bitsOf s.me.pc 63 61)) 127 = false → exec (.fetchFault 5) s =
    .next (trapHere (s.modMe fun x => { x with word := 0 }) .segment s.me.pc))

/-- R238, R239: trap and brk, with no COMBINE store of the thread pending, take their exceptions, with the code and the value;
brk under dbgctl.bhalt retires and halts its slot instead. tret leaves a trapped slot of no pair, with no deferred element, at the
instruction that trapped or, with s = 1, past it with its latch empty, and the pilot goes on to its next word; the slot is
runnable from the cycle after that in which the tret retires, four after that of its issue, and not before. -/
def Obligations.TrapAndReturn : Prop :=
  (∀ (ra : BitVec 6) (imm : BitVec 12) (n : BitVec 6) (s : State), releaseHolds s s.core s.slot = true →
    (s.runs (.trap ra imm) = true → exec (.trap ra imm) s =
      .next (trapHere (s.noted (.trap ra imm)) .environmentCall (s.me.readG ra.toNat) 0 imm.toNat)) ∧
    (s.runs (.brk n) = true → (s.coreOf s.core).bhalt = false → exec (.brk n) s =
      .next (trapHere (s.noted (.brk n)) .breakpoint 0 0 n.toNat)) ∧
    (s.runs (.brk n) = true → (s.coreOf s.core).bhalt = true → s.me.reservation = .free → exec (.brk n) s =
      .next (s.retired (.brk n) { s.me with status := .halted }))) ∧
  (∀ (ra : BitVec 6) (sh : BitVec 1) (s : State) (k : Nat), s.runs (.tret ra sh) = true → k < 7 → s.slot = 7 →
    s.me.readG ra.toNat = .ofNat 64 k → (s.slotOf s.core k).status = .trapped → (s.slotOf s.core k).pair = .alone →
    (s.coreOf s.core).deferred = [] → s.envCalls = [] →
    ∃ t, exec (.tret ra sh) s = .next t ∧ t.me.pc = s.me.pc + 4 ∧ t.me.g = s.me.g ∧ t.mem = s.mem ∧
      (t.slotOf s.core k).status = .trapped ∧ (t.slotOf s.core k).returnAt = some ((s.coreOf s.core).cycle + 4) ∧
      (t.slotOf s.core k).g = (s.slotOf s.core k).g ∧
      (sh = 0 → (t.slotOf s.core k).pc = (s.slotOf s.core k).pc ∧ (t.slotOf s.core k).latch = (s.slotOf s.core k).latch) ∧
      (sh = 1 → (t.slotOf s.core k).pc = (s.slotOf s.core k).pc + 4 ∧ (t.slotOf s.core k).latch = [])) ∧
  (∀ (c k : Nat) (s : State) (at_ : Word), c < 1280 → k < 8 → (s.slotOf c k).status = .trapped → (s.slotOf c k).returnAt = some at_ →
    (s.coreOf c).deferred = [] → (s.coreOf c).arriving = [] →
    ∃ t, exec (.coreCycle c) s = .next t ∧ (t.slotOf c k).pc = (s.slotOf c k).pc ∧ (t.slotOf c k).g = (s.slotOf c k).g ∧
      (((s.coreOf c).cycle + 1).toNat < at_.toNat → (t.slotOf c k).status = .trapped) ∧
      (at_.toNat ≤ ((s.coreOf c).cycle + 1).toNat → (s.slotOf c k).docking = false → (t.slotOf c k).returnAt = none ∧
        (t.slotOf c k).status = if (s.slotOf c k).haltPending then .halted
          else if (s.slotOf c k).handler = .outside then .runnable else .handler))

/-- Slot `k` of core `c` may take the vacant position of cycle `n` (R15): it issues, it is past its first issue, and it is at
least 4 cycles from its latest issue and from its own next position. That a vector access in progress does not borrow is R188's.
`s` is the state before the cycle, `t` the one in which slots whose boundary came are active. -/
def Sys2Proof.Claims.MayBorrow (s t : State) (c : Nat) (n : Word) (k : Nat) : Prop :=
  k < 8 ∧ (t.slotOf c k).status.issues = true ∧ k ≠ n.toNat % 8 ∧ (s.slotOf c k).firstIssue = false ∧
    (s.slotOf c k).vec = none ∧ 4 ≤ (n - (s.slotOf c k).last).toNat ∧ 4 ≤ (k + 7 - n.toNat % 8) % 8 + 1

/-- R12, R14–R17, R33: a core cycle in which no push lands (OperandForms has those) and no deferred element waits. The cycle
counter advances by 1. No byte of memory, no home line and no cluster's state changes; of a slot of the core, no register, port,
latch or PC, but at most whether it is in rotation and what it waits for, and when it issued last; nothing of another core's
slots; of every core only its cycle, its slots and how long requesters of its banks have been refused. The slot of
the position issues if it is runnable. A vacant position goes to a slot that may borrow it and has waited longest, the lowest
number among equals; where none may, nobody issues. A placed slot whose boundary has come becomes runnable. -/
def Obligations.WheelAndLending : Prop :=
  (∀ (c : Nat) (s : State), c < 1280 → (∀ a ∈ (s.coreOf c).arriving, ((s.coreOf c).cycle + 1).toNat ≤ a.due) →
    (s.coreOf c).deferred = [] →
    let n := (s.coreOf c).cycle + 1
    ∃ t, exec (.coreCycle c) s = .next t ∧ (t.coreOf c).cycle = n ∧ t.mem = s.mem ∧ t.poison = s.poison ∧
      t.homes = s.homes ∧ t.clusters = s.clusters ∧
      (∀ k, let y := t.slotOf c k
        y = { s.slotOf c k with
              status := y.status, wait := y.wait, reply := y.reply, park := y.park, haltPending := y.haltPending
              returnAt := y.returnAt, last := y.last, firstIssue := y.firstIssue }) ∧
      (∀ d k, d ≠ c → t.slotOf d k = s.slotOf d k) ∧
      (∀ d, let r := t.coreOf d
        r = { s.coreOf d with
              cycle := r.cycle, slots := r.slots, tileQ := r.tileQ, copyQ := r.copyQ, bankQ := r.bankQ, bufs := r.bufs
              bankTurns := r.bankTurns, scrubWait := r.scrubWait } ∧
          (d ≠ c → r.cycle = (s.coreOf d).cycle) ∧
          ∀ e, (r.queue e).map (fun x => { x with refused := 0 }) = ((s.coreOf d).queue e).map fun x => { x with refused := 0 }) ∧
      ((t.slotOf c (n.toNat % 8)).status.issues = true → t.issuing = true ∧ t.core = c ∧ t.slot = n.toNat % 8) ∧
      ((t.slotOf c (n.toNat % 8)).status.issues = false →
        ((∀ k, ¬ MayBorrow s t c n k) → t.issuing = s.issuing ∧ t.core = s.core ∧ t.slot = s.slot) ∧
        (∀ k, MayBorrow s t c n k → t.issuing = true ∧ t.core = c ∧ MayBorrow s t c n t.slot ∧
          (t.slot = k ∨ (n - (s.slotOf c k).last).toNat < (n - (s.slotOf c t.slot).last).toNat ∨
            ((n - (s.slotOf c k).last).toNat = (n - (s.slotOf c t.slot).last).toNat ∧ t.slot < k))))) ∧
  (∀ (c k : Nat) (s : State), k < 8 → (s.slotOf c k).status = .placed → (s.slotOf c k).wait = .nothing →
    (s.slotOf c k).haltPending = false → (s.slotOf c k).handler = .outside →
    ((s.slotOf c k).boundary.toNat ≤ (s.coreOf c).cycle.toNat + 1 → exec (.placedSlotActivate c k) s =
      .next (s.setSlot c k { s.slotOf c k with status := .runnable })) ∧
    ((s.coreOf c).cycle.toNat + 1 < (s.slotOf c k).boundary.toNat → exec (.placedSlotActivate c k) s =
      .next (s.setSlot c k (s.slotOf c k))))

/-- R21, R40, R243, R332, R390, R402, R447, R454, R457, R458: what reset leaves, as far as the spec states it: slots empty, their
registers as at a thread's start, memory zero, and the registers of the units at their reset values. That the registers of a
slot without a thread stand as at a thread's start is the model's choice (log entry 1). -/
def Obligations.ResetState : Prop :=
  (∀ c k, let x := State.reset.slotOf c k
    x.status = .empty ∧ (∀ n, x.readG n = 0) ∧ (∀ n, x.predicate n = (n == 0)) ∧ x.q0 = [] ∧ x.fflags = 0 ∧
      ∀ n, bitAt (vget x.sg 0 n) 127 = false) ∧
  (∀ c, slotstate State.reset c = 0 ∧ (State.reset.coreOf c).cycle = 0 ∧ (State.reset.coreOf c).spawnctl = 0x7F ∧
    (State.reset.coreOf c).bhalt = false ∧ (State.reset.coreOf c).traps = [] ∧ (State.reset.coreOf c).fenced = false) ∧
  (∀ cl, (State.reset.clusterAt cl).hmap = 0xFEDCBA9876543210 ∧ (State.reset.clusterAt cl).tlb = [] ∧
    (State.reset.clusterAt cl).mhz = 1250 ∧ (State.reset.clusterAt cl).mv = 400) ∧
  (∀ a b, (State.reset.pchOf a b).rowlo = 0 ∧ (State.reset.pchOf a b).rowhi = 0x1FFFF ∧ (State.reset.pchOf a b).rowoff = 0 ∧
    (State.reset.pchOf a b).allBank = false) ∧
  State.reset.loopctl = 0xF ∧ State.reset.scrubPeriod = 28800 ∧ State.reset.ready = 0 ∧ State.reset.nextLid = 1 ∧
  (∀ a, State.reset.mem.read a = 0) ∧ State.reset.safe = true

/-! ## System instructions -/

/-- The instruction has gone out of rotation and its reply has come: `v` for the register `rd`. Its registers and PC are as they
were; the reply is taken as HomeAccessAndReply says. -/
def Sys2Proof.Claims.Answers (s t : State) (rd : Option (BitVec 6)) (v : Word) : Prop :=
  t.core = s.core ∧ t.slot = s.slot ∧ t.me.status = .memoryWait ∧ t.me.wait = .reply rd false ∧ t.me.reply = some ⟨v, false⟩ ∧
    t.me.g = s.me.g ∧ t.me.pc = s.me.pc

/-- Nothing keeps the device from its tables: no line of one is asked for, the host holds none, no bank is held by a sequence
that is not at a yield point, and none stands at a peer, which would have to answer first (R337, R399, R407). -/
def Sys2Proof.Claims.TablesOpen (s : State) : Prop :=
  s.wants = [] ∧ s.hostLines = [] ∧ ∀ pa, bankBusy s pa = false ∧ apertureOf s pa = none

/-- Registers that sysrd reads without effect, with what they hold (R10, R40, R243, R253, R284, R332, R359, R376, R390, R438,
R441, R458, R461); a write-only register reads as zero. -/
def Sys2Proof.Claims.readings (s : State) : List (Nat × Word) :=
  let r := s.coreOf s.core
  let p := s.clusterAt (clusterOf s.core)
  [(0x000, .ofNat 64 (∑ k ∈ Finset.range 8, (s.slotOf s.core k).status.code * 2 ^ (4 * k))),
   (0x001, .ofNat 64 ((if r.efrz then 1 else 0) + 2 * (if r.bhalt then 1 else 0))), (0x002, r.spawnctl.setWidth 64),
   (0x003, .ofNat 64 r.deferred.length), (0x004, r.dockspill.setWidth 64), (0x100, r.wbiaddr.setWidth 64), (0x101, 0),
   (0x102, r.wbistat.setWidth 64), (0x110, r.sqsel.setWidth 64), (0x120, 0), (0x121, r.lqstat.setWidth 64),
   (0x123, p.tqbase.setWidth 64), (0x124, p.tqsize.setWidth 64), (0x125, .ofNat 64 (p.bank.length + 2 ^ 16 * p.ring.length)),
   (0x130, r.ctxsel.setWidth 64), (0x132, 0), (0x141, r.trapLatch.d1), (0x142, r.trapLatch.d2), (0x143, r.trapLatch.d3),
   (0x150, vget r.fold 0 0), (0x156, vget r.fold 0 6), (0x160, s.apertures.get 0 0), (0x16F, s.apertures.get 0 15),
   (0x170, r.gsel.setWidth 64), (0x180, r.lesel.setWidth 64), (0x183, r.eventLatch.d1), (0x184, r.eventLatch.d2),
   (0x185, s.evnote.setWidth 64), (0x190, s.loopctl.setWidth 64), (0x191, s.scrubPeriod.setWidth 64),
   (0x194, r.lifesel.setWidth 64), (0x1A0, r.mbsel.setWidth 64)]

/-- Registers of a core that syswr writes at once, with what the value becomes; reserved bits ignore the write (R11). -/
def Sys2Proof.Claims.coreWrites (v : Word) : List (Nat × (Core → Core)) :=
  [(0x001, fun r => { r with efrz := bitAt v 0, bhalt := bitAt v 1 }), (0x002, fun r => { r with spawnctl := v.setWidth 7 }),
   (0x110, fun r => { r with sqsel := v.setWidth 10 }), (0x130, fun r => { r with ctxsel := v.setWidth 4 }),
   (0x170, fun r => { r with gsel := v.setWidth 6 }), (0x180, fun r => { r with lesel := v.setWidth 32 }),
   (0x187, fun r => { r with hmsel := v.setWidth 7 }), (0x192, fun r => { r with clsel := v.setWidth 7 }),
   (0x194, fun r => { r with lifesel := v.setWidth 16 })]

/-- R10, R11, R40, R242–R244, R359, R390, R441: sysrd completes with what the register holds; trap (0x140) and event (0x182)
pop the oldest record into the core's latch, or read 0 where there is none; a number assigned to no register is an illegal
operand. syswr completes having written the register; a write for the dispatcher waits for its unit. -/
def Sys2Proof.Claims.SystemRegisters : Prop :=
  ∀ (rd ra : BitVec 6) (n : BitVec 12) (s : State),
    let u := s.noted (.sysrd rd n)
    let w := s.noted (.syswr ra n)
    let v := s.me.readG ra.toNat
    (s.runs (.sysrd rd n) = true →
      (∀ x, (n.toNat, x) ∈ readings s → exec (.sysrd rd n) s = .next (writeNext rd x u u)) ∧
      (n = 0x140 → ((s.coreOf s.core).traps = [] → exec (.sysrd rd n) s = .next (writeNext rd 0 u u)) ∧
        ∀ r rest, (s.coreOf s.core).traps = r :: rest → exec (.sysrd rd n) s =
          .next (writeNext rd r.d0 u (u.modCore s.core fun x => { x with traps := rest, trapLatch := r }))) ∧
      (n = 0x182 → (s.events = [] → exec (.sysrd rd n) s = .next (writeNext rd 0 u u)) ∧
        ∀ r rest, s.events = r :: rest → exec (.sysrd rd n) s =
          .next (writeNext rd r.d0 u ({ u with events := rest }.modCore s.core fun x => { x with eventLatch := r }))) ∧
      (n.toNat ∈ [0x006, 0x0FF, 0x103, 0x126, 0x157, 0x17A, 0x189, 0x196, 0x1A3, 0xFFF] →
        exec (.sysrd rd n) s = .next (trapHere u .illegalOperand))) ∧
    (s.runs (.syswr ra n) = true →
      (∀ f, (n.toNat, f) ∈ coreWrites v → exec (.syswr ra n) s = .next ((s.modCore s.core f).retired (.syswr ra n) s.me)) ∧
      (n = 0x120 → lqsubIllegal v = false → s.me.reservation = .free → exec (.syswr ra n) s = .next
        { s.setMe { s.me.noting (.syswr ra n) with status := .memoryWait, wait := .reply none false } with
          unitReqs := s.unitReqs ++ [⟨s.core, 0x120, v⟩] }) ∧
      (n.toNat ∈ [0x000, 0x003, 0x005, 0x102, 0x140, 0x191, 0x193, 0xFFF] →
        exec (.syswr ra n) s = .next (trapHere w .illegalOperand)))

/-- R34, R108, R246, R268: segld.img loads a segment register from 16 bytes of the thread's own scratchpad, and segld from an
entry of its launch's segment table; the reserved bit 121 reads as zero, bits 63:57 nonzero are an illegal operand, and so is
an index at or beyond segn. The thread waits for the reply. -/
def Sys2Proof.Claims.SegmentLoads : Prop :=
  (∀ (n : BitVec 3) (ra : BitVec 6) (off : Nat) (s : State), s.runs (.segldImg n ra) = true → s.me.reservation = .free →
    (let a := s.me.readG ra.toNat
     let q := vget s.me.sg 0 (bitsOf a 63 61)
     let p := bitsOf q 56 0 + bitsOf a 60 0
     bitAt q 127 = true ∧ bitAt q 124 = true ∧ bitsOf a 60 0 + 15 ≤ bitsOf q 120 64 ∧ a.toNat % 16 = 0 ∧ bitsOf q 123 122 = 1 ∧
       off = p + slotRebase s s.core s.slot ∧ off + 16 ≤ 2 ^ 21 ∧ padHome s.core s.me = s.core) →
    poisonedIn s.poison (padAddr s.core off) 16 = false →
    let img : Quad := .ofNat 128 (s.mem.readN (padAddr s.core off) 16)
    let u := dropAnswers (bankTurnAt (s.noted (.segldImg n ra)) s.core off 16) s.core s.slot
    (bitsOf img 63 57 = 0 → exec (.segldImg n ra) s = .next (answered
      (u.setMe { u.me with sg := vset s.me.sg n.toNat (setBits img 121 121 0) }) none 0)) ∧
    (bitsOf img 63 57 ≠ 0 → exec (.segldImg n ra) s = .next (trapHere u .illegalOperand))) ∧
  (∀ (n : BitVec 3) (ra : BitVec 6) (s : State) (p : Placed), s.runs (.segld n ra) = true → s.me.reservation = .free →
    findPlaced s s.me.lid = some p →
    let u := s.noted (.segld n ra)
    let i := (s.me.readG ra.toNat).toNat
    let d := tableRead u (p.record.segtab.toNat + 64 * i) 64
    let img := entryImage d.2.2 s.me.ctag d.1
    (p.record.segn ≤ i → exec (.segld n ra) s = .next (trapHere u .illegalOperand)) ∧
    (i < p.record.segn → i < 2 ^ 16 → bitsOf img 63 57 = 0 → d.2.1 = false → d.2.2 = u → exec (.segld n ra) s = .next (answered
      (s.setMe { s.me.noting (.segld n ra) with sg := vset s.me.sg n.toNat (setBits img 121 121 0) }) none 0))) ∧
  ∀ (s : State) (ctag : BitVec 4) (d : Nat), bitAt (BitVec.ofNat 64 (bytesAt d 32 8)) 63 = false →
    entryImage s ctag d = .ofNat 128 (d % 2 ^ 128)

/-- Registers of a stopped slot by their selectors (R240). -/
def Sys2Proof.Claims.views (x : Slot) : List (Nat × Word) :=
  ((List.range 32).map fun n => (n, if n = 0 then 0 else vget x.g 0 n)) ++ ((List.range 8).map fun n => (0x20 + n, vget x.winG 0 n))
    ++ [(0x40, x.pc)] ++ ((List.range 4).map fun n => (0x80 + n, vget x.m 0 n))
    ++ ((List.range 8).map fun n => (0x70 + 2 * n, (vget x.ring 0 n).extractLsb' 0 64))
    ++ ((List.range 8).map fun n => (0x71 + 2 * n, (vget x.ring 0 n).extractLsb' 64 64))
    ++ ((List.range 16).map fun n => (0x200 + 32 * n, (vget x.v 0 n).extractLsb' 0 64))

/-- R240, R241: the pilot reads and writes the registers of a trapped, halted or parked slot. xrd completes with the register's
value. xwr to a general, window, mask or vector register or an aligned PC completes and the register then reads as the value
written, no other slot changes and no byte of memory; a misaligned PC is an illegal operand. A slot in another state is a state
fault. -/
def Sys2Proof.Claims.StoppedSlotRegisters : Prop :=
  ∀ (rd ra rb gv : BitVec 6) (s : State) (k sel : Nat), s.slot = 7 → k < 7 → s.me.readG ra.toNat = .ofNat 64 k →
    s.me.readG rb.toNat = .ofNat 64 sel →
    (s.runs (.xrd rd ra rb) = true → ∀ v, (sel, v) ∈ views (s.slotOf s.core k) →
      ((s.slotOf s.core k).stopped = true →
        exec (.xrd rd ra rb) s = .next (writeNext rd v (s.noted (.xrd rd ra rb)) (s.noted (.xrd rd ra rb)))) ∧
      ((s.slotOf s.core k).stopped = false → exec (.xrd rd ra rb) s = .next (trapHere (s.noted (.xrd rd ra rb)) .state))) ∧
    (s.runs (.xwr gv ra rb) = true → gv.toNat < 32 → (s.slotOf s.core k).stopped = true →
      (s.slotOf s.core k).pair = .alone →
      let v := s.me.readG gv.toNat
      ((sel ∈ List.range' 1 0x27 ∨ sel ∈ List.range' 0x80 4 ∨ sel ∈ List.range' 0x200 0x280 ∨ (sel = 0x40 ∧ v.toNat % 4 = 0)) →
        ∃ t, exec (.xwr gv ra rb) s = .next t ∧ peek t s.core k sel = v ∧ t.mem = s.mem ∧ t.me.g = s.me.g ∧
          t.me.pc = s.me.pc + 4 ∧ (t.slotOf s.core k).status = (s.slotOf s.core k).status ∧
          ∀ c j, (c = s.core → j ≠ k ∧ j ≠ 7) → t.slotOf c j = s.slotOf c j) ∧
      (sel = 0x40 → v.toNat % 4 ≠ 0 → exec (.xwr gv ra rb) s = .next (trapHere (s.noted (.xwr gv ra rb)) .illegalOperand)))

/-- R249–R251: park with no element to wake it (in the pilot, with no trap record) parks the slot under its key, its PC unmoved, and
with one it retires at once (reserved bits of the operand are an illegal operand). wake makes a slot of the thread's own launch that
is parked under the key runnable past its park and answers 0; it answers 1, and changes no other slot, where the slot is not so
parked. wake of a capsule parked under the key in a buffer of its core answers 0 too, and 1 where no buffer holds one. That a parked
slot's PC stays at its park and moves past it with the wake is the model's choice (log entry 54). -/
def Sys2Proof.Claims.ParkAndWake : Prop :=
  (∀ (ra : BitVec 6) (s : State), s.runs (.park ra) = true → s.me.reservation = .free → s.slot ≠ 7 →
    let v := s.me.readG ra.toNat
    (2 ^ 33 ≤ v.toNat → exec (.park ra) s = .next (trapHere (s.noted (.park ra)) .illegalOperand)) ∧
    (v.toNat < 2 ^ 33 → (bitAt v 32 = true → s.me.q0 = []) → exec (.park ra) s = .next (s.setMe { s.me.noting (.park ra) with
      status := .parked, wait := .nothing, reply := none, park := .key (v.setWidth 32) (bitAt v 32), matched := false })) ∧
    (v.toNat < 2 ^ 33 → bitAt v 32 = true → s.me.q0 ≠ [] → exec (.park ra) s = .next (s.retired (.park ra) s.me))) ∧
  (∀ (ra : BitVec 6) (s : State), s.runs (.park ra) = true → s.me.reservation = .free → s.slot = 7 →
    let v := s.me.readG ra.toNat
    v.toNat < 2 ^ 33 → (bitAt v 32 = true → s.me.q0 = []) →
    (s.myCore.traps = [] → exec (.park ra) s = .next (s.setMe { s.me.noting (.park ra) with
      status := .parked, wait := .nothing, reply := none, park := .key (v.setWidth 32) (bitAt v 32), matched := false })) ∧
    (s.myCore.traps ≠ [] → exec (.park ra) s = .next (s.retired (.park ra) s.me))) ∧
  (∀ (rd ra rb : BitVec 6) (s : State) (c : Nat) (key : BitVec 32), s.runs (.wake rd ra rb) = true →
    s.me.reservation = .free → s.me.resend = none → s.inService c = true → foldReg s s.core s.slot = none →
    s.me.readG ra.toNat = .ofNat 64 (c % 80 + c / 80 * 2 ^ 7 + 2 ^ 14) → s.me.readG rb.toNat = key.setWidth 64 → key.toNat < 2 ^ 31 →
    (∀ (b order : Nat) (folded : Bool), b < 4 → bufUse s c b = .parked folded key order → (∀ d, d < 4 → d ≠ b → parkedUse s c d = none) →
      (s.slot = 7 ∨ (folded = false ∧ bufLaunch s c b = s.me.lid)) → ∃ t, exec (.wake rd ra rb) s = .next t ∧
        Answers s t (some rd) 0 ∧ bufUse t c b = .landed ∧ bufFlag t c b 1 = folded) ∧
    ((∀ d, d < 4 → parkedUse s c d = none) → ∃ t, exec (.wake rd ra rb) s = .next t ∧ Answers s t (some rd) 1 ∧
      (t.coreOf c).bufs = (s.coreOf c).bufs ∧ t.mem = s.mem)) ∧
  (∀ (rd ra rb : BitVec 6) (s : State) (c k : Nat) (key : BitVec 32) (q : Bool), s.runs (.wake rd ra rb) = true →
    s.me.reservation = .free → s.me.resend = none → k < 8 → s.inService c = true → foldReg s s.core s.slot = none →
    s.me.readG ra.toNat = .ofNat 64 (c % 80 + c / 80 * 2 ^ 7 + k * 2 ^ 11) → s.me.readG rb.toNat = key.setWidth 64 →
    let x := s.slotOf c k
    (x.status = .parked → x.park = .key key q → x.lid = s.me.lid → x.pair = .alone → x.docking = false → x.haltPending = false →
      x.stepArmed = false →
      ∃ t, exec (.wake rd ra rb) s = .next t ∧ Answers s t (some rd) 0 ∧ t.mem = s.mem ∧
        (t.slotOf c k).status = (if x.handler = .outside then .runnable else .handler) ∧ (t.slotOf c k).pc = x.pc + 4 ∧
        (t.slotOf c k).g = x.g) ∧
    (x.status ≠ .parked → ∃ t, exec (.wake rd ra rb) s = .next t ∧ Answers s t (some rd) 1 ∧
      ∀ d j, ¬ (d = s.core ∧ j = s.slot) → t.slotOf d j = s.slotOf d j))

/-- R249, R254, R256: send of a well-formed destination word hands its element to the network and waits for the reply, and of a
malformed one is an illegal operand; it waits while a COMBINE store is pending. At its target the element enters q0 of the slot behind
what is there, and the sender is answered 0; it is refused with 1 where the slot is empty (and, by the model's choice of log entry
146, killed), or runs another launch and the sender is no pilot, with 2 where the core is out of service; it waits in the inbox of a
trapped or halted slot. -/
def Sys2Proof.Claims.Messages : Prop :=
  (∀ (rd ra rb : BitVec 6) (s : State), s.runs (.send rd ra rb) = true → s.me.reservation = .free →
    let w := s.me.readG ra.toNat
    ((2 ^ 15 ≤ w.toNat ∨ 79 < bitsOf w 6 0 ∨ (bitAt w 14 = true ∧ bitsOf w 13 11 ≠ 0)) →
      exec (.send rd ra rb) s = .next (trapHere (s.noted (.send rd ra rb)) .illegalOperand)) ∧
    (releaseHolds s s.core s.slot = false → w.toNat < 2 ^ 15 → bitsOf w 6 0 ≤ 79 → (bitAt w 14 = true → bitsOf w 13 11 = 0) →
      exec (.send rd ra rb) s = .next (s.setMe { s.me.noting (.send rd ra rb) with
        status := .memoryWait, wait := .poll .release, reply := none })) ∧
    (releaseHolds s s.core s.slot = true → foldReg s s.core s.slot = none → w.toNat < 2 ^ 15 → bitsOf w 6 0 ≤ 79 →
      (bitAt w 14 = true → bitsOf w 13 11 = 0) → ∃ t m, exec (.send rd ra rb) s = .next t ∧ t.messages = s.messages ++ [m] ∧ m.core = s.core ∧ m.slot = s.slot ∧
      m.dest = coreAt (bitsOf w 6 0) (bitsOf w 10 7) ∧ m.destSlot = bitsOf w 13 11 ∧ m.port1 = bitAt w 14 ∧
      m.payload.val = s.me.readG rb.toNat ∧ m.lid = s.me.lid ∧ m.waiting = false ∧ t.me.wait = .reply (some rd) false ∧
      t.me.status = .memoryWait ∧ t.me.pc = s.me.pc ∧ t.mem = s.mem)) ∧
  (∀ (k : Nat) (s : State) (m : Message) (rd : Option (BitVec 6)) (q : Bool), s.messages = [m] → k = 0 → m.waiting = false →
    m.device = false → m.destSlot < 8 → m.slot < 8 → m.payload.poison = false → m.payload.token = false →
    ¬ (m.core = m.dest ∧ m.slot = m.destSlot) → (s.slotOf m.core m.slot).wait = .reply rd q →
    let x := s.slotOf m.dest m.destSlot
    let told := fun (t : State) (v : Word) => t.messages = [] ∧ t.mem = s.mem ∧ (t.slotOf m.core m.slot).reply = some ⟨v, false⟩
    (s.inService m.dest = false → ∃ t, exec (.messageArrival k) s = .next t ∧ told t 2) ∧
    (s.inService m.dest = true → m.port1 = false → (x.status = .empty ∨ x.status = .killed) →
      ∃ t, exec (.messageArrival k) s = .next t ∧ told t 1) ∧
    (s.inService m.dest = true → m.port1 = false → x.status ≠ .empty → x.status ≠ .killed → x.lid ≠ m.lid → m.pilot = false →
      ∃ t, exec (.messageArrival k) s = .next t ∧ told t 1) ∧
    (s.inService m.dest = true → m.port1 = false → (x.lid = m.lid ∨ m.pilot = true) →
      (x.status = .trapped ∨ x.status = .halted) → (s.coreOf m.dest).deferred.length < 16 →
      ∃ t, exec (.messageArrival k) s = .next t ∧ told t 0 ∧ (t.slotOf m.dest m.destSlot).q0 = x.q0 ∧
        (t.coreOf m.dest).deferred = (s.coreOf m.dest).deferred ++ [(m.destSlot, m.payload)]) ∧
    (s.inService m.dest = true → m.port1 = false → (x.lid = m.lid ∨ m.pilot = true) → x.status = .runnable → x.park = .free →
      (s.coreOf m.dest).deferred = [] → (s.coreOf m.dest).pushers = [] → (s.coreOf m.dest).poppers = [] →
      (s.coreOf m.dest).arriving = [] → x.q0.length < 16 →
      ∃ t, exec (.messageArrival k) s = .next t ∧ told t 0 ∧ (t.slotOf m.dest m.destSlot).q0 = x.q0 ++ [m.payload]))

/-- R255: bar. An arriving member of a gang leaves rotation with its arrival noted; when every member of the unit of its level
(its core, its cluster's cores of the launch, the band) has arrived, each of them is answered the number of members, and where
one is still missing nobody is. -/
def Sys2Proof.Claims.Barriers : Prop :=
  ∀ (rd : BitVec 6) (lvl : BitVec 2) (s : State) (p : Placed), s.runs (.bar rd lvl) = true → s.me.reservation = .free →
    barrierReady s s.core s.slot lvl.toNat = true → findPlaced s s.me.lid = some p →
    let u := s.setMe { s.me.noting (.bar rd lvl) with status := .memoryWait, wait := .barrier lvl.toNat rd }
    let cores := p.cores.filter fun c =>
      if lvl = 0 then c == s.core else if lvl = 1 then clusterOf c == clusterOf s.core else true
    let members := cores.flatMap fun c => coreMembers u s.me.lid c
    let arrived := fun (x : Slot) => x.reply = none ∧ ∃ r, x.wait = .barrier lvl.toNat r
    ((∃ x ∈ members, ¬ arrived x) → exec (.bar rd lvl) s = .next u) ∧
    ((∀ x ∈ members, arrived x) → members ≠ [] → ∃ t, exec (.bar rd lvl) s = .next t ∧ t.mem = s.mem ∧
      ∀ c ∈ cores, ∀ k, k < 8 → gangMember s.me.lid (u.slotOf c k) = true → arrived (u.slotOf c k) →
        (t.slotOf c k).reply = some ⟨.ofNat 64 members.length, false⟩ ∧ (t.slotOf c k).wait = (u.slotOf c k).wait)

/-- R257, R258: spawn, with no COMBINE store pending, sends its request with g10–g13 and waits; a scope word that is malformed
or names no single core is an illegal operand. Accepted, the child starts in the lowest open slot of the target core with its
PC, arguments, launch and segments, placed, and the parent is answered the child's slot. Not accepted (its launch is not placed,
or not on that core, which may be out of service, lack the program or have no empty open slot), the parent calls it inline: its
register gets 1, the return address is kept, and it goes on at the child's PC; at an inline depth of 8 its register gets 2 and
nothing is called. -/
def Obligations.Spawning : Prop :=
  (∀ (rd ra rb : BitVec 6) (s : State), s.runs (.spawn rd ra rb) = true → s.me.reservation = .free →
    let w := s.me.readG ra.toNat
    let pc := s.me.readG rb.toNat
    ((Malformed w ∨ bitsOf w 23 22 ≠ 3 ∨ pc.toNat % 4 ≠ 0) →
      exec (.spawn rd ra rb) s = .next (trapHere (s.noted (.spawn rd ra rb)) .illegalOperand)) ∧
    (¬ Malformed w → bitsOf w 23 22 = 3 → pc.toNat % 4 = 0 → releaseHolds s s.core s.slot = true →
      foldReg s s.core s.slot = none → ∃ t q, exec (.spawn rd ra rb) s = .next t ∧ t.spawns = s.spawns ++ [q] ∧
        q.core = s.core ∧ q.slot = s.slot ∧ q.dest = coreAt (bitsOf w 6 0) (bitsOf w 10 7) ∧ q.pc = pc ∧
        (∀ i, i < 4 → vget q.args 0 i = s.me.readG (10 + i)) ∧ t.me.wait = .reply (some rd) false ∧ t.me.pc = s.me.pc)) ∧
  (∀ (s : State) (q : SpawnReq) (x : Slot) (rd : BitVec 6), s.spawns = [q] → q.slot < 8 → x = s.slotOf q.core q.slot →
    x.wait = .reply (some rd) false → rd.toNat < 32 → x.pair = .alone → x.handler = .outside →
    (∀ j p, findPlaced s x.lid = some p → q.dest ∈ p.cores → s.inService q.dest = true →
      (∃ e ∈ (s.coreOf q.dest).resident, e.1 = p.record.ctag) → j < 7 → ¬ (q.dest = q.core ∧ j = q.slot) →
      (s.slotOf q.dest j).status = .empty → bitAt (s.coreOf q.dest).spawnctl j = true →
      (∀ i, i < j → (s.slotOf q.dest i).status ≠ .empty ∨ bitAt (s.coreOf q.dest).spawnctl i = false) →
      ∃ t, exec (.spawnArrival 0) s = .next t ∧ t.spawns = [] ∧ t.mem = s.mem ∧
        (t.slotOf q.core q.slot).reply = some ⟨.ofNat 64 (q.dest * 2 ^ 16 + j * 2 ^ 8), false⟩ ∧
        (let y := t.slotOf q.dest j
         y.status = .placed ∧ y.pc = q.pc ∧ y.lid = x.lid ∧ y.sg = x.sg ∧ y.gang = false ∧
           ∀ i, i < 4 → y.readG (10 + i) = vget q.args 0 i)) ∧
    ((∀ p, findPlaced s x.lid = some p → q.dest ∉ p.cores ∨ s.inService q.dest = false ∨
        (∀ e ∈ (s.coreOf q.dest).resident, e.1 ≠ p.record.ctag) ∨
        (∀ j, j < 7 → (s.slotOf q.dest j).status ≠ .empty ∨ bitAt (s.coreOf q.dest).spawnctl j = false)) →
      x.haltPending = false → x.stepArmed = false → x.docking = false →
      ∃ t, exec (.spawnArrival 0) s = .next t ∧ t.spawns = [] ∧ t.mem = s.mem ∧
        (let y := t.slotOf q.core q.slot
         let shallow := decide (x.inline.length < 8)
         y.status = .runnable ∧ y.pc = (if shallow then q.pc else x.pc + 4) ∧
           y.inline = (if shallow then (x.pc + 4) :: x.inline else x.inline) ∧
           y.readG rd.toNat = (if rd = 0 then 0 else if shallow then 1 else 2) ∧
           ∀ n, n < 32 → n ≠ rd.toNat → y.readG n = x.readG n)))

/-- R259: quit at an inline depth above 0 returns to the call; else, with no COMBINE store pending and no command of the slot
incomplete, the thread ends and its slot is empty (no launch is queued that would take it). -/
def Sys2Proof.Claims.Quitting : Prop :=
  (∀ (s : State) (ret : Word) (rest : List Word), s.runs .quit = true → s.me.inline = ret :: rest →
    exec .quit s = .next (s.retiredTo .quit { s.me with inline := rest } ret)) ∧
  (∀ s : State, s.runs .quit = true → s.me.inline = [] → releaseHolds s s.core s.slot = true →
    (∀ x ∈ (s.coreOf s.core).commands, x.owner ≠ .slot s.slot) → s.queued = [] → (∀ g, s.me.reservation ≠ .global g) →
    ∃ t, exec .quit s = .next t ∧ t.me = Slot.blank ∧ (∀ a, t.mem.read a = s.mem.read a))

/-- A 64-byte block of the issuing thread's own scratchpad, whose address is a multiple of 64 (R108, R260, R261). -/
def Sys2Proof.Claims.BlockAt (s : State) (a : Word) (off : Nat) (r w : Bool) : Prop :=
  let q := vget s.me.sg 0 (bitsOf a 63 61)
  let p := bitsOf q 56 0 + bitsOf a 60 0
  bitAt q 127 = true ∧ (r = true → bitAt q 124 = true) ∧ (w = true → bitAt q 125 = true) ∧ bitsOf a 60 0 + 63 ≤ bitsOf q 120 64 ∧
    a.toNat % 64 = 0 ∧ bitsOf q 123 122 = 1 ∧ off = p + slotRebase s s.core s.slot ∧ off + 64 ≤ 2 ^ 21 ∧ s.me.origin = none

/-- R260–R262, R370, R372: task records. tsub of a well-formed record of the thread's own launch to its own cluster enters the
bank behind the others and answers 0; a malformed one answers 3 and enters nothing. tget takes the oldest record of the
thread's launch out of the bank, stores its 64 bytes at the address, and notes it as outstanding; it answers 1 where there is
none. tdone with the address of an outstanding record ends it and answers 0, and answers 1 otherwise. -/
def Obligations.TaskRecords : Prop :=
  (∀ (rd ra rb : BitVec 6) (off : Nat) (s : State), s.runs (.tsub rd ra rb) = true → s.me.reservation = .free →
    releaseHolds s s.core s.slot = true → BlockAt s (s.me.readG ra.toNat) off true false → s.me.readG rb.toNat = 0 →
    let r : TaskRec := { data := .ofNat 512 (s.mem.readN (padAddr s.core off) 64), poison := poisonedIn s.poison (padAddr s.core off) 64 }
    let cl := clusterOf s.core
    (taskOk r = true → bytesAt r.data.toNat 8 4 = s.me.lid.toNat → placedInBand s s.me.lid cl = true → s.inService s.core = true →
      (s.clusterAt cl).bank.length < 2048 → (s.clusterAt cl).ring = [] → ∃ t, exec (.tsub rd ra rb) s = .next t ∧
        Answers s t (some rd) 0 ∧ (t.clusterAt cl).bank = (s.clusterAt cl).bank ++ [r] ∧ t.mem = s.mem) ∧
    (taskOk r = false → ∃ t, exec (.tsub rd ra rb) s = .next t ∧ Answers s t (some rd) 3 ∧ t.clusters = s.clusters)) ∧
  (∀ (rd ra : BitVec 6) (off : Nat) (s : State) (before after : List TaskRec) (r : TaskRec), s.runs (.tget rd ra) = true →
    s.me.reservation = .free → BlockAt s (s.me.readG ra.toNat) off false true → r.apply = none → r.poison = false →
    (∀ d ∈ s.peerData, ¬ (d.core = s.core ∧ d.slot = s.slot)) →
    (∀ x ∈ before, x.lid ≠ s.me.lid) →
    ((s.clusterAt (clusterOf s.core)).bank = before ++ r :: after → r.lid = s.me.lid → ∃ t, exec (.tget rd ra) s = .next t ∧
      Answers s t (some rd) 0 ∧ (t.clusterAt (clusterOf s.core)).bank = before ++ after ∧
      t.outstanding = s.outstanding ++ [⟨s.core, s.slot, (s.me.readG ra.toNat).toNat, s.me.lid, r⟩] ∧
      ∀ a, t.mem.read a = if padAddr s.core off ≤ a ∧ a < padAddr s.core off + 64
        then .ofNat 8 (r.data.toNat / 2 ^ (8 * (a - padAddr s.core off))) else s.mem.read a) ∧
    ((s.clusterAt (clusterOf s.core)).bank = before → ∃ t, exec (.tget rd ra) s = .next t ∧ Answers s t (some rd) 1 ∧
      t.mem = s.mem ∧ t.clusters = s.clusters)) ∧
  (∀ (rd ra : BitVec 6) (s : State) (o : Outstanding) (rest : List Outstanding), s.runs (.tdone rd ra) = true →
    s.me.reservation = .free → releaseHolds s s.core s.slot = true → o.core = s.core → o.slot = s.slot →
    (o.addr = (s.me.readG ra.toNat).toNat → s.outstanding = o :: rest → ∃ t, exec (.tdone rd ra) s = .next t ∧
      Answers s t (some rd) 0 ∧ t.outstanding = rest ∧ t.mem = s.mem) ∧
    (s.outstanding = [] → ∃ t, exec (.tdone rd ra) s = .next t ∧ Answers s t (some rd) 1 ∧ t.mem = s.mem))

/-- R249, R252, R253: the pilot's hold on a user slot of no pair, by slot word. kill of an occupied slot without capsule empties
it of everything, killed and scrubbed for 256 cycles; halt of a slot between two instructions halts it where it stands; cont of
a halted slot resumes it, armed for one step with s = 1. Each answers 0, and 1 where the slot's state does not allow it. -/
def Sys2Proof.Claims.KillHaltCont : Prop :=
  ∀ (rd ra : BitVec 6) (st : BitVec 1) (s : State) (c k : Nat), s.slot = 7 → s.me.reservation = .free → c < 1280 → k < 7 →
    s.me.readG ra.toNat = .ofNat 64 (c % 80 + c / 80 * 2 ^ 7 + k * 2 ^ 11) →
    let x := s.slotOf c k
    x.pair = .alone → x.reservation = .free →
    (s.runs (.kill rd ra) = true →
      (x.occupied = true → x.capsule = none → x.resend = none → ∃ t, exec (.kill rd ra) s = .next t ∧ Answers s t (some rd) 0 ∧
        t.slotOf c k = { Slot.blank with status := .killed, scrub := (s.coreOf c).cycle.toNat + 256 } ∧
        ∀ a, t.mem.read a = s.mem.read a) ∧
      (x.occupied = false → ∃ t, exec (.kill rd ra) s = .next t ∧ Answers s t (some rd) 1 ∧ t.slotOf c k = x)) ∧
    (s.runs (.halt rd ra) = true →
      (x.status = .runnable ∨ x.status = .handler → betweenInstrs x = true → ∃ t, exec (.halt rd ra) s = .next t ∧
        Answers s t (some rd) 0 ∧ t.slotOf c k = { x with status := .halted, wait := .nothing, reply := none } ∧ t.mem = s.mem) ∧
      (x.occupied = false → roverFrom s c k = false → ∃ t, exec (.halt rd ra) s = .next t ∧ Answers s t (some rd) 1 ∧ t.slotOf c k = x)) ∧
    (s.runs (.cont rd ra st) = true →
      (x.status = .halted → x.wait = .nothing → (s.coreOf c).deferred = [] → ∃ t, exec (.cont rd ra st) s = .next t ∧
        Answers s t (some rd) 0 ∧ t.mem = s.mem ∧ t.slotOf c k = { x with
          status := (if x.handler = .outside then .runnable else .handler), reply := none, returnAt := none, stepArmed := st == 1 }) ∧
      (x.status ≠ .halted → ∃ t, exec (.cont rd ra st) s = .next t ∧ Answers s t (some rd) 1 ∧ t.slotOf c k = x))

/-- R263, R264, R392, R393: the dock. dock.out of a parked slot without engine work, with nothing on its way to a port, takes its image under a handle that no entry
has, and its slot is empty (no launch is queued); dock.in of an entry that is not spilled and holds no grant, command, token or
trap restores the image into an empty slot, to issue from the next wheel boundary on, and frees the entry. A second use of a
handle answers 2, an unknown handle 1. -/
def Obligations.Docking : Prop :=
  ∀ (rd ra rb : BitVec 6) (s : State) (k : Nat) (h : BitVec 16), s.slot = 7 → k < 7 → s.me.reservation = .free →
    s.me.readG ra.toNat = .ofNat 64 k → s.me.readG rb.toNat = h.setWidth 64 → s.queued = [] →
    dockPlace s s.core k = some (s.core, k) →
    let x := s.slotOf s.core k
    let r := s.coreOf s.core
    (s.runs (.dockOut rd ra rb) = true → x.occupied = true →
      (dockEntry r h = none → r.dock.length < 32 → x.status = .parked → (∃ key q, x.park = .key key q) → r.tileQ = [] →
        r.copyQ = [] → r.bankQ = [] → r.stackQ = [] → r.heldTokens = [] → r.arriving = [] → x.reservation = .free →
        ∃ t d, exec (.dockOut rd ra rb) s = .next t ∧ Answers s t (some rd) 0 ∧ t.slotOf s.core k = Slot.blank ∧
          (t.coreOf s.core).dock = r.dock ++ [d] ∧ d.handle = h ∧ d.slot = k ∧ d.image.g = x.g ∧ d.image.v = x.v ∧ d.image.pc = x.pc ∧
          d.image.status = .parked ∧ d.image.q0 = x.q0 ∧ ∀ a, t.mem.read a = s.mem.read a) ∧
      (dockEntry r h ≠ none → ∃ t, exec (.dockOut rd ra rb) s = .next t ∧ Answers s t (some rd) 2 ∧ t.slotOf s.core k = x)) ∧
    (s.runs (.dockIn rd ra rb) = true →
      (∀ d, dockEntry r h = some d → r.spilled = [] → x.status = .empty → d.image.status = .runnable → d.image.grant = none →
        d.image.handler = .outside → d.copies = [] → d.tile = [] → d.tokens = [] → d.deferred = [] → d.trap = none →
        (∀ e ∈ r.deferred, e.1 ≠ k) →
        ∃ t, exec (.dockIn rd ra rb) s = .next t ∧ Answers s t (some rd) 0 ∧
          (t.coreOf s.core).dock = r.dock.filter (fun e => e.handle != h) ∧ (t.slotOf s.core k).g = d.image.g ∧
          (t.slotOf s.core k).v = d.image.v ∧ (t.slotOf s.core k).pc = d.image.pc ∧ (t.slotOf s.core k).status = .placed ∧
          (t.slotOf s.core k).boundary = .ofNat 64 ((r.cycle.toNat / 8 + 1) * 8) ∧ t.mem = s.mem) ∧
      (dockEntry r h = none → ∃ t, exec (.dockIn rd ra rb) s = .next t ∧ Answers s t (some rd) 1 ∧ t.slotOf s.core k = x))

/-! ## Vector instructions -/

/-- A lane's mask bit: every lane for the code 0b000, else the bit of m0–m3 (R99, R172). -/
def Sys2Proof.Claims.active (x : Slot) (msk : BitVec 3) (j : Nat) : Bool := msk == 0 || bitAt (vget x.m 0 (msk.toNat - 4)) j

/-- Vector register `vd` with the active lanes given by `f`, the others kept (R172). -/
def Sys2Proof.Claims.written (x : Slot) (vd : BitVec 4) (msk : BitVec 3) (f : Nat → Lane) : Slot :=
  x.writeV vd.toNat (ofLanes fun j => if active x msk j then f j else lane (x.readV vd.toNat) j)

/-- The width of an integer type code (R99, R171). -/
def Sys2Proof.Claims.intWidth (ty : BitVec 3) : Nat := if ty = 3 then 32 else if ty = 4 then 16 else 8

/-- The arithmetic instructions of R176 on integer elements: what each computes from va, the second operand and vd. -/
def Sys2Proof.Claims.intOps (vd va vb : BitVec 4) (msk : BitVec 3) (gs : BitVec 6) (ty : BitVec 3) :
    List (Instr × (∀ w, BitVec w → BitVec w → BitVec w → BitVec w)) :=
  [(.vadd vd va vb msk gs ty, fun _ a b _ => a + b), (.vsub vd va vb msk gs ty, fun _ a b _ => a - b),
   (.vmul vd va vb msk gs ty, fun _ a b _ => a * b),
   (.vdiv vd va vb msk gs ty, fun w a b _ => .ofInt w (if b = 0 then -1 else a.toInt.tdiv b.toInt)),
   (.vfma vd va vb msk gs ty, fun _ a b d => a * b + d), (.vfms vd va vb msk gs ty, fun _ a b d => d - a * b),
   (.vmin vd va vb msk gs ty, fun _ a b _ => if a.toInt ≤ b.toInt then a else b),
   (.vmax vd va vb msk gs ty, fun _ a b _ => if a.toInt ≤ b.toInt then b else a),
   (.vabs vd va msk ty, fun w a _ _ => .ofInt w (a.toInt.natAbs : Int)), (.vneg vd va msk ty, fun _ a _ _ => -a),
   (.vand vd va vb msk gs ty, fun _ a b _ => a &&& b), (.vor vd va vb msk gs ty, fun _ a b _ => a ||| b),
   (.vxor vd va vb msk gs ty, fun _ a b _ => a ^^^ b), (.vshl vd va vb msk gs ty, fun w a b _ => a <<< (b.toNat % w)),
   (.vshr vd va vb msk gs ty, fun w a b _ => a >>> (b.toNat % w)),
   (.vsra vd va vb msk gs ty, fun w a b _ => a.sshiftRight (b.toNat % w))]

/-- R171–R177: integer lane arithmetic. Each active lane of vd takes the result at the element width, sign-extended to the lane;
the second operand is vb's lane, or with gs ≠ 0 the scalar; the other lanes, every other register and the flags keep their
values, no byte of memory changes, and the instruction retires to the next word. -/
def Obligations.IntegerLanes : Prop :=
  ∀ (vd va vb : BitVec 4) (msk : BitVec 3) (gs : BitVec 6) (ty : BitVec 3) (i : Instr)
    (f : ∀ w, BitVec w → BitVec w → BitVec w → BitVec w) (s : State), (i, f) ∈ intOps vd va vb msk gs ty →
    ty.toNat ∈ [3, 4, 5] → gs.toNat < 32 → s.runs i = true →
    let w := intWidth ty
    let b := fun j => if gs = 0 then (lane (s.me.readV vb.toNat) j).setWidth w else (s.me.readG gs.toNat).setWidth w
    exec i s = .next (s.retired i (written s.me vd msk fun j =>
      (f w ((lane (s.me.readV va.toNat) j).setWidth w) (b j) ((lane (s.me.readV vd.toNat) j).setWidth w)).signExtend 32))

/-- The value of a finite number. -/
def Sys2Proof.Claims.value : Val → ℚ
  | .fin neg num den => (if neg then -1 else 1) * (num / den)
  | _ => 0

/-- R57, R58: operations are exact before the one rounding. On finite operands, sum, difference, product, quotient by a number
that is not zero, and fused multiply-add are the exact rational results, and raise no flag; a sum of zero is −0 in RDN or of two
addends that are −0, and else +0; ∞ − ∞ and 0 × ∞ are NaN and raise
nv; a finite number not zero divided by zero is an infinity and raises dz. -/
def Sys2Proof.Claims.ExactArithmetic : Prop :=
  ∀ (m : Mode) (n1 n2 n3 : Bool) (a1 a2 a3 b1 b2 b3 : Nat), b1 ≠ 0 → b2 ≠ 0 → b3 ≠ 0 →
    let x := Val.fin n1 a1 b1
    let y := Val.fin n2 a2 b2
    let z := Val.fin n3 a3 b3
    (value (addVal m x y).1 = value x + value y ∧ (addVal m x y).2 = 0) ∧
    (value x + value y = 0 → (addVal m x y).1 = .fin (decide (m = .rdn) || (n1 && n2)) 0 1) ∧
    (value (subVal m x y).1 = value x - value y ∧ (subVal m x y).2 = 0) ∧
    (value (mulVal x y).1 = value x * value y ∧ (mulVal x y).2 = 0) ∧
    (a2 ≠ 0 → value (divVal x y).1 = value x / value y ∧ (divVal x y).2 = 0) ∧
    (value (fmaVal m x y z).1 = value x * value y + value z ∧ (fmaVal m x y z).2 = 0) ∧
    (a1 ≠ 0 → divVal x (.fin n2 0 b2) = (.inf (n1 != n2), flagDz)) ∧
    addVal m (.inf n1) (.inf (!n1)) = (.nan false, flagNv) ∧ mulVal (.fin n1 0 b1) (.inf n2) = (.nan false, flagNv)

/-- R42, R43, R51, R52: rounding keeps what a format can hold. In every mode, for FP32, FP16 and BF16, the finite value of a code
rounds to that code and raises no flag; an infinity rounds to its code, and a NaN to the produced NaN. -/
def Sys2Proof.Claims.RoundingKeepsCodes : Prop :=
  ∀ f ∈ [fp32, fp16, bf16], ∀ (m : Mode) (rnd c : Nat), c < 2 ^ f.width →
    ((decodeFp f c).isNan = false → roundTo f m false rnd (decodeFp f c) = (c, 0)) ∧
    ((decodeFp f c).isNan = true → roundTo f m false rnd (decodeFp f c) = (f.nanCode, 0))

/-- The floating-point type of a type code (R99). -/
def Sys2Proof.Claims.fmtOf (ty : BitVec 3) : Fmt := if ty = 0 then fp32 else if ty = 1 then fp16 else bf16

/-- The arithmetic instructions of R176 on floating-point codes that round, with the exact results that they round once. -/
def Sys2Proof.Claims.roundOps (vd va vb : BitVec 4) (msk : BitVec 3) (gs : BitVec 6) (ty : BitVec 3) :
    List (Instr × (Mode → Val → Val → Val → Val × BitVec 7)) :=
  [(.vadd vd va vb msk gs ty, fun m a b _ => addVal m a b), (.vsub vd va vb msk gs ty, fun m a b _ => addVal m a b.neg),
   (.vmul vd va vb msk gs ty, fun _ a b _ => mulVal a b), (.vdiv vd va vb msk gs ty, fun _ a b _ => divVal a b),
   (.vfma vd va vb msk gs ty, fun m a b d => fmaVal m a b d), (.vfms vd va vb msk gs ty, fun m a b d => fmaVal m a.neg b d),
   (.vsqrt vd va msk ty, fun _ a _ _ => sqrtVal a), (.vexp2 vd va msk ty, fun _ a _ _ => exp2Val a)]

/-- Those that do not round: the code and the flags (R58, R176). -/
def Sys2Proof.Claims.codeOps (vd va vb : BitVec 4) (msk : BitVec 3) (gs : BitVec 6) (ty : BitVec 3) :
    List (Instr × (Fmt → Nat → Nat → Nat × BitVec 7)) :=
  let nan := fun (f : Fmt) (a b : Nat) (r : Nat) =>
    if (decodeFp f a).isNan || (decodeFp f b).isNan then
      (f.nanCode, if (decodeFp f a).sNan || (decodeFp f b).sNan then flagNv else 0) else (r, (0 : BitVec 7))
  [(.vmin vd va vb msk gs ty, fun f a b => nan f a b (if orderKey f a < orderKey f b then a else b)),
   (.vmax vd va vb msk gs ty, fun f a b => nan f a b (if orderKey f a < orderKey f b then b else a)),
   (.vabs vd va msk ty, fun f a _ => (a % f.signBit, 0)),
   (.vneg vd va msk ty, fun f a _ => ((a + f.signBit) % 2 ^ f.width, 0))]

/-- `F` is `old` with the flags of the active lanes ORed in (R32, R173). -/
def Sys2Proof.Claims.FlagsOf (x : Slot) (msk : BitVec 3) (fl : Nat → BitVec 7) (F : BitVec 7) : Prop :=
  ∀ n, n < 7 → F.getLsbD n = (x.fflags.getLsbD n || (List.range 64).any fun j => active x msk j && (fl j).getLsbD n)

/-- R171–R176, R51–R58: floating-point lane arithmetic outside SR mode. Each active lane takes the code of its exact result
rounded once in the mode of frm, zero above the element; fflags receives the OR of the flags of the active lanes; the others
lanes, registers and memory keep their values. In SR mode a narrow type draws once for each active lane, in increasing lane
order, and the seed stands where the last draw left it. -/
def Sys2Proof.Claims.FloatLanes : Prop :=
  ∀ (vd va vb : BitVec 4) (msk : BitVec 3) (gs : BitVec 6) (ty : BitVec 3) (i : Instr) (s : State),
    ty.toNat < 3 → gs.toNat < 32 → s.runs i = true →
    let f := fmtOf ty
    let code := fun (v : Vec) j => (lane v j).toNat % 2 ^ f.width
    let a := code (s.me.readV va.toNat)
    let b := fun j => if gs = 0 then code (s.me.readV vb.toNat) j else (s.me.readG gs.toNat).toNat % 2 ^ f.width
    let d := code (s.me.readV vd.toNat)
    let mode := modeOf s.me.frm
    (∀ g, (i, g) ∈ roundOps vd va vb msk gs ty → mode ≠ .sr →
      let exact := fun j => g mode (decodeFp f (a j)) (decodeFp f (b j)) (decodeFp f (d j))
      let r := fun j => roundTo f mode false 0 (exact j).1
      ∃ F, FlagsOf s.me msk (fun j => (r j).2 ||| (exact j).2) F ∧
        exec i s = .next (s.retired i { written s.me vd msk fun j => .ofNat 32 (r j).1 with fflags := F })) ∧
    (∀ g, (i, g) ∈ codeOps vd va vb msk gs ty → ∃ F, FlagsOf s.me msk (fun j => (g f (a j) (b j)).2) F ∧
      exec i s = .next (s.retired i { written s.me vd msk fun j => .ofNat 32 (g f (a j) (b j)).1 with fflags := F })) ∧
    (∀ g, (i, g) ∈ roundOps vd va vb msk gs ty → mode = .sr → ty ≠ 0 →
      let draws := fun (n : Nat) => Nat.repeat lfsrStep n s.me.srseed
      let before := fun j => ((List.range j).filter (active s.me msk)).length
      let exact := fun j => g .sr (decodeFp f (a j)) (decodeFp f (b j)) (decodeFp f (d j))
      let r := fun j => roundTo f .sr false (draws (before j + 1)).toNat (exact j).1
      ∃ F, FlagsOf s.me msk (fun j => (r j).2 ||| (exact j).2) F ∧
        exec i s = .next (s.retired i { written s.me vd msk fun j => .ofNat 32 (r j).1 with
          fflags := F, srseed := draws (before 64) }))

/-- R53, R178: vcvt, outside SR mode. From an integer to a narrower one the element wraps, or with .sat is clamped and raises
sat; from an integer to a float it is rounded once, without saturating; from a float to an integer it is rounded and clamped, a
NaN giving 0 with nv; a copy of the same float type turns a signalling NaN into the produced one and raises nv. From a float to
another float type it is rounded once, a signalling NaN raising nv, and with .sat a number too great for a destination other than
FP32 saturates: between FP16 and BF16, neither of which is the narrower, that is the model's reading of R178 (log entry 21). -/
def Sys2Proof.Claims.Conversions : Prop :=
  ∀ (vd va : BitVec 4) (msk : BitVec 3) (sat : BitVec 1) (st ty : BitVec 3) (s : State),
    s.runs (.vcvt vd va msk sat st ty) = true → st.toNat < 6 → ty.toNat < 6 →
    let i : Instr := .vcvt vd va msk sat st ty
    let mode := modeOf s.me.frm
    let src := fun j => lane (s.me.readV va.toNat) j
    (3 ≤ st.toNat → 3 ≤ ty.toNat →
      let v := fun j => ((src j).setWidth (intWidth st)).toInt
      let hi : Int := 2 ^ (intWidth ty - 1) - 1
      let cut := fun j => if sat = 1 ∧ intWidth ty < intWidth st then max (-hi - 1) (min hi (v j)) else v j
      ∃ F, FlagsOf s.me msk (fun j => if cut j = v j then 0 else flagSat) F ∧ exec i s = .next (s.retired i
        { written s.me vd msk fun j => (BitVec.ofInt (intWidth ty) (cut j)).signExtend 32 with fflags := F })) ∧
    (3 ≤ st.toNat → ty.toNat < 3 → mode ≠ .sr →
      let v := fun j => ((src j).setWidth (intWidth st)).toInt
      let r := fun j => roundTo (fmtOf ty) mode false 0 (.fin (decide (v j < 0)) (v j).natAbs 1)
      ∃ F, FlagsOf s.me msk (fun j => (r j).2) F ∧ exec i s = .next (s.retired i
        { written s.me vd msk fun j => .ofNat 32 (r j).1 with fflags := F })) ∧
    (st.toNat < 3 → 3 ≤ ty.toNat →
      let x := fun j => decodeFp (fmtOf st) ((src j).toNat % 2 ^ (fmtOf st).width)
      ∃ (F : BitVec 7) (r : Nat → Nat × BitVec 7), FlagsOf s.me msk (fun j => (r j).2) F ∧ exec i s = .next (s.retired i
          { written s.me vd msk fun j => (BitVec.ofNat (intWidth ty) (r j).1).signExtend 32 with fflags := F }) ∧
        ∀ j, r j = toIntW (intWidth ty) mode.noSr (x j) ∧ (∀ q, x j = .nan q → r j = (0, flagNv))) ∧
    (st.toNat < 3 → ty = st →
      let a := fun j => (src j).toNat % 2 ^ (fmtOf st).width
      let quiet := fun j => !(decodeFp (fmtOf st) (a j)).sNan
      ∃ F, FlagsOf s.me msk (fun j => if quiet j then 0 else flagNv) F ∧
        (mode ≠ .sr ∨ ty = 0 → exec i s = .next (s.retired i { written s.me vd msk fun j =>
          .ofNat 32 (if quiet j then a j else (fmtOf st).nanCode) with fflags := F }))) ∧
    (st.toNat < 3 → ty.toNat < 3 → ty ≠ st → mode ≠ .sr →
      let x := fun j => decodeFp (fmtOf st) ((src j).toNat % 2 ^ (fmtOf st).width)
      let r := fun j => roundTo (fmtOf ty) mode (sat == 1 && ty != 0) 0 (x j)
      ∃ F, FlagsOf s.me msk (fun j => (r j).2 ||| if (x j).sNan then flagNv else 0) F ∧ exec i s = .next (s.retired i
        { written s.me vd msk fun j => .ofNat 32 (r j).1 with fflags := F }))

/-- An ordered condition of vcmp on two numbers (R103, R181). -/
def Sys2Proof.Claims.ordered (cc : Nat) (a b : Int) : Bool :=
  match cc with
  | 0 => decide (a = b)
  | 1 => decide (a ≠ b)
  | 2 => decide (a < b)
  | 3 => decide (a ≤ b)
  | 4 => decide (b < a)
  | _ => decide (b ≤ a)

/-- R172, R181, R182: masks. vcmp writes the bits of the active lanes of its mask, on integers the signed comparison, and keeps
the others; vm, mset, mget, vmcnt and vfirst. -/
def Sys2Proof.Claims.Masks : Prop :=
  (∀ (k : BitVec 2) (va vb : BitVec 4) (msk cc ty : BitVec 3) (s : State), s.runs (.vcmp k va vb msk cc ty) = true →
    ty.toNat ∈ [3, 4, 5] →
    ∃ M, exec (.vcmp k va vb msk cc ty) s = .next (s.retired (.vcmp k va vb msk cc ty) { s.me with m := vset s.me.m k.toNat M }) ∧
      ∀ j, j < 64 → bitAt M j = if active s.me msk j then
        ordered cc.toNat ((lane (s.me.readV va.toNat) j).setWidth (intWidth ty)).toInt
          ((lane (s.me.readV vb.toNat) j).setWidth (intWidth ty)).toInt else bitAt (vget s.me.m 0 k.toNat) j) ∧
  (∀ (md ma mb op : BitVec 2) (s : State), s.runs (.vm md ma mb op) = true →
    let a := vget s.me.m 0 ma.toNat
    let b := vget s.me.m 0 mb.toNat
    exec (.vm md ma mb op) s = .next (s.retired (.vm md ma mb op)
      { s.me with m := vset s.me.m md.toNat ([a &&& b, a ||| b, a ^^^ b, a &&& ~~~b].getD op.toNat 0) })) ∧
  (∀ (ma : BitVec 2) (gs : BitVec 6) (s t : State) (v : Word),
    let m := fun (i : Instr) => vget (s.noted i).me.m 0 ma.toNat
    (precheck (.mset ma gs) (s.noted (.mset ma gs)) = none → readFrom [gs] 0 (s.noted (.mset ma gs)) = .go [v] t →
      exec (.mset ma gs) s = .next (doneNext (t.modMe fun x => { x with m := vset x.m ma.toNat v }))) ∧
    (precheck (.mget ma gs) (s.noted (.mget ma gs)) = none →
      exec (.mget ma gs) s = .next (writeNext gs (m (.mget ma gs)) (s.noted (.mget ma gs)) (s.noted (.mget ma gs)))) ∧
    (precheck (.vmcnt ma gs) (s.noted (.vmcnt ma gs)) = none → exec (.vmcnt ma gs) s = .next (writeNext gs
      (.ofNat 64 (∑ k ∈ Finset.range 64, ((m (.vmcnt ma gs)).getLsbD k).toNat)) (s.noted (.vmcnt ma gs)) (s.noted (.vmcnt ma gs)))) ∧
    (precheck (.vfirst ma gs) (s.noted (.vfirst ma gs)) = none → ∃ n, n ≤ 64 ∧
      (∀ k, k < n → (m (.vfirst ma gs)).getLsbD k = false) ∧ (n < 64 → (m (.vfirst ma gs)).getLsbD n = true) ∧
      exec (.vfirst ma gs) s = .next (writeNext gs (.ofNat 64 n) (s.noted (.vfirst ma gs)) (s.noted (.vfirst ma gs)))))

/-- The width of an element type (R171). -/
def Sys2Proof.Claims.elemWidth (ty : BitVec 3) : Nat := if ty.toNat < 3 then (fmtOf ty).width else intWidth ty

/-- Element bits in a lane: sign-extended for an integer type, zero-extended for a float (R171). -/
def Sys2Proof.Claims.toLane (ty : BitVec 3) (x : Word) : Lane :=
  if 3 ≤ ty.toNat then (x.setWidth (elemWidth ty)).signExtend 32 else (x.setWidth (elemWidth ty)).setWidth 32

/-- R174, R179, R180, R183, R184: the moves between lanes, of a type code that is no reserved one. vperm takes the lane that the
index names; vbcast the scalar's element; vslide the lane t places above, or zero past the ends; viota of an integer type the
lane's number; vpack puts the elements of va and then of vb densely; vunpk spreads them; vins writes the lowest active lane and
vextr reads it, 0 with an empty mask. -/
def Sys2Proof.Claims.LaneMoves : Prop :=
  ∀ (vd va vb : BitVec 4) (msk ty : BitVec 3) (gs : BitVec 6) (h : BitVec 2) (s : State), ty.toNat < 6 → gs.toNat < 32 →
    let v := lane (s.me.readV va.toNat)
    let w := lane (s.me.readV vb.toNat)
    let g := s.me.readG gs.toNat
    (s.runs (.vperm vd va vb msk ty) = true → exec (.vperm vd va vb msk ty) s =
      .next (s.retired (.vperm vd va vb msk ty) (written s.me vd msk fun j => v ((w j).toNat % 64)))) ∧
    (s.runs (.vbcast vd msk gs ty) = true → exec (.vbcast vd msk gs ty) s =
      .next (s.retired (.vbcast vd msk gs ty) (written s.me vd msk fun _ => toLane ty g))) ∧
    (s.runs (.vslide vd va msk gs ty) = true → exec (.vslide vd va msk gs ty) s =
      .next (s.retired (.vslide vd va msk gs ty) (written s.me vd msk fun j =>
        if 0 ≤ (j : Int) + g.toInt ∧ (j : Int) + g.toInt ≤ 63 then v ((j : Int) + g.toInt).toNat else 0))) ∧
    (s.runs (.viota vd msk ty) = true → 3 ≤ ty.toNat → exec (.viota vd msk ty) s =
      .next (s.retired (.viota vd msk ty) (written s.me vd msk fun j => .ofNat 32 j))) ∧
    (s.runs (.vpack vd va vb ty) = true → elemWidth ty = 16 → exec (.vpack vd va vb ty) s =
      .next (s.retired (.vpack vd va vb ty) (written s.me vd 0 fun j =>
        let x := if j < 32 then v else w
        (x (2 * (j % 32) + 1)).setWidth 16 ++ (x (2 * (j % 32))).setWidth 16))) ∧
    (s.runs (.vpack vd va vb ty) = true → elemWidth ty = 8 → exec (.vpack vd va vb ty) s =
      .next (s.retired (.vpack vd va vb ty) (written s.me vd 0 fun j =>
        let x := fun n => ((if j < 16 then v else w) (4 * (j % 16) + n)).setWidth 8
        if j < 32 then x 3 ++ x 2 ++ x 1 ++ x 0 else 0))) ∧
    (s.runs (.vunpk vd va h ty) = true → elemWidth ty < 32 → (elemWidth ty = 16 → h.toNat < 2) → exec (.vunpk vd va h ty) s =
      .next (s.retired (.vunpk vd va h ty) (written s.me vd 0 fun j =>
        toLane ty ((s.me.readV va.toNat).extractLsb' (elemWidth ty * (64 * h.toNat + j)) 64)))) ∧
    (s.runs (.vins vd msk gs ty) = true →
      (∀ n, n < 64 → active s.me msk n = true → (∀ j, j < n → active s.me msk j = false) → exec (.vins vd msk gs ty) s =
        .next (s.retired (.vins vd msk gs ty) (s.me.writeV vd.toNat (ofLanes fun j =>
          if j = n then toLane ty g else lane (s.me.readV vd.toNat) j)))) ∧
      ((∀ j, j < 64 → active s.me msk j = false) → exec (.vins vd msk gs ty) s = .next (s.retired (.vins vd msk gs ty) s.me))) ∧
    (s.runs (.vextr va msk gs ty) = true →
      (∀ n, n < 64 → active s.me msk n = true → (∀ j, j < n → active s.me msk j = false) → exec (.vextr va msk gs ty) s =
        .next (s.retired (.vextr va msk gs ty) (s.me.writeG gs.toNat (if 3 ≤ ty.toNat
          then ((v n).setWidth (elemWidth ty)).signExtend 64 else ((v n).setWidth (elemWidth ty)).setWidth 64)))) ∧
      ((∀ j, j < 64 → active s.me msk j = false) →
        exec (.vextr va msk gs ty) s = .next (s.retired (.vextr va msk gs ty) (s.me.writeG gs.toNat 0))))

/-- 2^n leaves from the i-th on combined in the binary tree of R63, with the flags of its steps. -/
def Sys2Proof.Claims.tree (op : Nat → Nat → Nat × BitVec 7) (leaf : Nat → Nat) : Nat → Nat → Nat × BitVec 7
  | 0, i => (leaf i, 0)
  | n + 1, i =>
    let a := tree op leaf n i
    let b := tree op leaf n (i + 2 ^ n)
    ((op a.1 b.1).1, (op a.1 b.1).2 ||| a.2 ||| b.2)

/-- The float reductions of R185: what an inactive lane contributes, and a step of the tree, a sum rounded in the mode of frm, SR
taken as RNE (R51, R63). -/
def Sys2Proof.Claims.floatReductions (vd va : BitVec 4) (msk : BitVec 3) (gs : BitVec 6) (ty : BitVec 3) (mode : Mode) :
    List (Instr × Nat × (Nat → Nat → Nat × BitVec 7)) :=
  let f := fmtOf ty
  let m := if mode = .sr then .rne else mode
  let pick := fun (least : Bool) (a b : Nat) =>
    if (decodeFp f a).isNan || (decodeFp f b).isNan then
      (f.nanCode, if (decodeFp f a).sNan || (decodeFp f b).sNan then flagNv else 0)
    else (if decide (orderKey f a < orderKey f b) = least then a else b, (0 : BitVec 7))
  [(.vredsum vd va msk gs ty, f.signBit, fun a b =>
      let e := addVal m (decodeFp f a) (decodeFp f b)
      ((roundTo f m false 0 e.1).1, (roundTo f m false 0 e.1).2 ||| e.2)),
   (.vredmax vd va msk gs ty, f.signBit + f.infCode, pick false), (.vredmin vd va msk gs ty, f.infCode, pick true)]

/-- R51, R58, R63, R185: reductions complete, with no scalar or one in a general register. On integers, lane 0 of vd takes the sum of
the active lanes and of the scalar if there is one, modulo the element width, or their maximum or minimum, an inactive lane counting
as the identity; lanes 1–63 and the flags keep their values. On floats lane 0 takes the code of the tree over the 64 lanes, with the
scalar as one further step, and fflags the flags of its steps; lanes 1–63 keep their values. -/
def Obligations.Reductions : Prop :=
  ∀ (vd va : BitVec 4) (msk : BitVec 3) (gs : BitVec 6) (ty : BitVec 3) (s : State), ty.toNat < 6 → gs.toNat < 32 →
    let w := intWidth ty
    let v := fun j => ((lane (s.me.readV va.toNat) j).setWidth w).toInt
    let scalar := ((s.me.readG gs.toNat).setWidth w).toInt
    let zeroth := fun (x : Lane) => s.me.writeV vd.toNat (ofLanes fun j => if j = 0 then x else lane (s.me.readV vd.toNat) j)
    let low : Int := -(2 ^ (w - 1))
    let high : Int := 2 ^ (w - 1) - 1
    let with_ := fun (op : Int → Int → Int) (x : Int) => if gs = 0 then x else op x scalar
    (3 ≤ ty.toNat →
      (s.runs (.vredsum vd va msk gs ty) = true → exec (.vredsum vd va msk gs ty) s = .next (s.retired (.vredsum vd va msk gs ty)
        (zeroth ((BitVec.ofInt w (with_ (· + ·) (∑ j ∈ Finset.range 64, if active s.me msk j then v j else 0))).signExtend 32)))) ∧
      (s.runs (.vredmax vd va msk gs ty) = true → exec (.vredmax vd va msk gs ty) s = .next (s.retired (.vredmax vd va msk gs ty)
        (zeroth ((BitVec.ofInt w (with_ max ((List.range 64).foldl
          (fun acc j => max acc (if active s.me msk j then v j else low)) low))).signExtend 32)))) ∧
      (s.runs (.vredmin vd va msk gs ty) = true → exec (.vredmin vd va msk gs ty) s = .next (s.retired (.vredmin vd va msk gs ty)
        (zeroth ((BitVec.ofInt w (with_ min ((List.range 64).foldl
          (fun acc j => min acc (if active s.me msk j then v j else high)) high))).signExtend 32))))) ∧
    (ty.toNat < 3 → ∀ i absent op, (i, absent, op) ∈ floatReductions vd va msk gs ty (modeOf s.me.frm) → s.runs i = true →
      let code := fun (x : Lane) => x.toNat % 2 ^ (fmtOf ty).width
      let all := tree op (fun j => if active s.me msk j then code (lane (s.me.readV va.toNat) j) else absent) 6 0
      let last := op all.1 ((s.me.readG gs.toNat).toNat % 2 ^ (fmtOf ty).width)
      let r := if gs = 0 then all else (last.1, last.2 ||| all.2)
      exec i s = .next (s.retired i { zeroth (.ofNat 32 r.1) with fflags := s.me.fflags ||| r.2 }))

/-- The vector memory instructions of R186 with the address of lane j, loads first. -/
def Sys2Proof.Claims.vectorLoads (vd va : BitVec 4) (msk : BitVec 3) (gs : BitVec 6) (ty : BitVec 3) (x : Slot) :
    List (Instr × (Nat → Word)) :=
  let base := x.readG gs.toNat
  let stride := x.readG ((gs.toNat + 1) % 32)
  [(.vld vd msk gs ty, fun j => base + .ofNat 64 (elemWidth ty / 8 * j)),
   (.vlds vd msk gs ty, fun j => base + .ofInt 64 (stride.toInt * j)),
   (.vgath vd va msk gs ty, fun j => base + .ofInt 64 (lane (x.readV va.toNat) j).toInt)]

def Sys2Proof.Claims.vectorStores (vd va : BitVec 4) (msk : BitVec 3) (gs : BitVec 6) (ty : BitVec 3) (x : Slot) :
    List (Instr × (Nat → Word)) :=
  let base := x.readG gs.toNat
  let stride := x.readG ((gs.toNat + 1) % 32)
  [(.vst vd msk gs ty, fun j => base + .ofNat 64 (elemWidth ty / 8 * j)),
   (.vsts vd msk gs ty, fun j => base + .ofInt 64 (stride.toInt * j)),
   (.vscat vd va msk gs ty, fun j => base + .ofInt 64 (lane (x.readV va.toNat) j).toInt)]

/-- R186–R189: a vector access whose active lanes all lie in the thread's own scratchpad, with at most one row in each of the 32
banks (R268), completes in one pass. A load of good data writes each active lane by its type and nothing else; a store writes
the low bytes of the elements, lane after lane in increasing order, and changes no register. `turns` notes the banks that the
thread's turn has taken in this cycle (R269). -/
def Sys2Proof.Claims.LocalVectorAccesses : Prop :=
  ∀ (vd va : BitVec 4) (msk : BitVec 3) (gs : BitVec 6) (ty : BitVec 3) (i : Instr) (addr : Nat → Word) (off : Nat → Nat)
    (s : State), ty.toNat < 6 → s.runs i = true →
    let n := elemWidth ty / 8
    (∀ j k, j < 64 → k < 64 → active s.me msk j = true → active s.me msk k = true →
      off j / 32 % 32 = off k / 32 % 32 → off j / 32 = off k / 32) →
    ((i, addr) ∈ vectorLoads vd va msk gs ty s.me →
      (∀ j, j < 64 → active s.me msk j = true → LocalAt s (addr j) n (off j) true false ∧
        poisonedIn s.poison (padAddr s.core (off j)) n = false) →
      ∃ turns : BitVec 32, exec i s = .next ((s.modCore s.core fun r => { r with bankTurns := turns }).retired i
          (written s.me vd msk fun j => toLane ty (.ofNat 64 (s.mem.readN (padAddr s.core (off j)) n)))) ∧
        ∀ b, b < 32 → bitAt turns b = (bitAt s.myCore.bankTurns b ||
          (List.range 64).any fun j => active s.me msk j && off j / 32 % 32 == b)) ∧
    ((i, addr) ∈ vectorStores vd va msk gs ty s.me →
      (∀ j, j < 64 → active s.me msk j = true → LocalAt s (addr j) n (off j) false true) →
      ∃ t, exec i s = .next t ∧ t.me.g = s.me.g ∧ t.me.v = s.me.v ∧ t.me.winV = s.me.winV ∧ t.me.pc = s.me.pc + 4 ∧
        ∀ a, t.mem.read a = (((List.range 64).filter (active s.me msk)).foldl (fun (m : Memory) j =>
          m.writeN (padAddr s.core (off j)) n ((lane (s.me.readV vd.toNat) j).toNat % 2 ^ (8 * n))) s.mem).read a)

/-- R190–R195: the port instructions, of a thread in no pair. qtry pops the oldest element into gd and sets p K, or clears p K;
qoffer pushes into a port with a free place and sets p K, or clears p K; qcnt counts elements and free places; vqpop and vqpush
of k elements through a port that has them, or room for them, move them in order. What is pushed is under way until the end of the
third cycle after that of the issue (R12, R190). -/
def Sys2Proof.Claims.PortInstructions : Prop :=
  ∀ (rd ra : BitVec 6) (n k : BitVec 4) (vd : BitVec 4) (s : State), rd.toNat < 32 → ra.toNat < 32 →
    let q := portGet s s.core s.slot n.toNat
    let room := freePlaces s s.core s.slot n.toNat
    (s.runs (.qtry rd n k) = true →
      (q = [] → exec (.qtry rd n k) s = .next (s.retired (.qtry rd n k) (s.me.writePred k.toNat false))) ∧
      (∀ e rest, q = e :: rest → (s.coreOf s.core).deferred = [] → ∃ t, exec (.qtry rd n k) s = .next t ∧
        portGet t s.core s.slot n.toNat = rest ∧ t.me.readG rd.toNat = (if rd = 0 then 0 else e.val) ∧
        (t.me.predicate k.toNat = true) ∧ t.me.pc = s.me.pc + 4 ∧ t.mem = s.mem)) ∧
    (s.runs (.qoffer n ra k) = true →
      (room = 0 → exec (.qoffer n ra k) s = .next (s.retired (.qoffer n ra k) (s.me.writePred k.toNat false))) ∧
      (room ≠ 0 → ∃ t, exec (.qoffer n ra k) s = .next t ∧ (t.coreOf s.core).arriving = (s.coreOf s.core).arriving ++
          [⟨max (s.coreOf s.core).cycle.toNat (s.me.last.toNat + 3), s.slot, n.toNat, ⟨s.me.readG ra.toNat, false, false⟩⟩] ∧
        portGet t s.core s.slot n.toNat = q ∧ t.me.predicate k.toNat = true ∧
        t.me.g = s.me.g ∧ t.me.pc = s.me.pc + 4 ∧ t.mem = s.mem)) ∧
    (s.runs (.qcnt rd n) = true →
      exec (.qcnt rd n) s = .next (s.retired (.qcnt rd n) (s.me.writeG rd.toNat (.ofNat 64 (q.length + 256 * room))))) ∧
    (s.runs (.vqpop vd k n) = true → k.toNat + 1 ≤ q.length → (s.coreOf s.core).deferred = [] →
      ∃ t, exec (.vqpop vd k n) s = .next t ∧ portGet t s.core s.slot n.toNat = q.drop (k.toNat + 1) ∧
        (∀ e, e ≤ k.toNat → vecWord (t.me.readV vd.toNat) e = (q.getD e ⟨0, false, false⟩).val) ∧
        (∀ j, 2 * (k.toNat + 1) ≤ j → j < 64 → lane (t.me.readV vd.toNat) j = lane (s.me.readV vd.toNat) j) ∧
        t.me.g = s.me.g ∧ t.me.pc = s.me.pc + 4 ∧ t.mem = s.mem) ∧
    (s.runs (.vqpush vd k n) = true → k.toNat + 1 ≤ room → (∀ w ∈ (s.coreOf s.core).pushers, w.2 ≠ s.slot) →
      ∃ t, exec (.vqpush vd k n) s = .next t ∧ portGet t s.core s.slot n.toNat = q ∧ (t.coreOf s.core).arriving =
          (s.coreOf s.core).arriving ++ (List.range (k.toNat + 1)).map (fun e =>
            ⟨max (s.coreOf s.core).cycle.toNat (s.me.last.toNat + 3), s.slot, n.toNat, ⟨vecWord (s.me.readV vd.toNat) e, false, false⟩⟩) ∧
        t.me.g = s.me.g ∧ t.me.v = s.me.v ∧ t.me.pc = s.me.pc + 4 ∧ t.mem = s.mem)

/-! ## Engines -/

/-- The command word in four registers (R110). -/
def Sys2Proof.Claims.fourRegisters (s : State) (ra : BitVec 6) : BitVec 256 :=
  s.me.readG (ra.toNat + 3) ++ s.me.readG (ra.toNat + 2) ++ s.me.readG (ra.toNat + 1) ++ s.me.readG ra.toNat

/-- A token (R113): its value, whether it is poisoned, its flags, its status and the tag of its command. -/
def Sys2Proof.Claims.token (w : BitVec 256) (status : Nat) (flags : BitVec 7) (poison : Bool) (value : Nat) : Word :=
  .ofNat 64 (min value (2 ^ 32 - 1) + (if poison then 2 ^ 32 else 0) + flags.toNat * 2 ^ 33 + status * 2 ^ 40 + bitsOf w 239 224 * 2 ^ 48)

/-- No token is held, no slot waits at a port of the core and no element is on its way to one. -/
def Sys2Proof.Claims.QuietPorts (s : State) (c : Nat) : Prop :=
  (s.coreOf c).heldTokens = [] ∧ (s.coreOf c).pushers = [] ∧ (s.coreOf c).poppers = [] ∧ (s.coreOf c).arriving = []

/-- R110, R114–R117, R204, R205, R211: the command port. enq with the thread's COMBINE stores written out and room in its
class's queue, for which no earlier one waits, completes. If the checks of R116 give 0, the command joins the queue with its word and the thread's segments,
formats, grant and rings; if they give a status, nothing is accepted and a token with it is pushed to q8 + port at once. enqw
of an accepted word waits for the token, and a refused one writes the token to its register. A code of no engine has status 1.
ringrd completes with the doubleword of the descriptor. -/
def Sys2Proof.Claims.CommandPort : Prop :=
  (∀ (ra rd : BitVec 6) (s : State) (e : Engine) (w : BitVec 256), w = fourRegisters s ra → engineOf (cmdCode w) = some e →
    ((s.coreOf s.core).queue e).length < 16 → (s.coreOf s.core).cmdWaiters = [] → (cmdCode w = 0x25 → ringBusy s s.core s.slot (cmdRing w) = false) →
    s.me.reservation = .free →
    let accepted := fun (t : State) (r : Option (BitVec 6)) => ∃ x : Cmd,
      (t.coreOf s.core).queue e = (s.coreOf s.core).queue e ++ [x] ∧ x.word = w ∧ x.owner = .slot s.slot ∧ x.lid = s.me.lid ∧
      x.ctag = s.me.ctag ∧ x.sg = s.me.sg ∧ x.fmt = s.me.fmt ∧ x.grant = s.me.grant ∧ x.rings = s.me.ring ∧ x.rd = r ∧
      x.started = false ∧ x.done = [] ∧ x.held = [] ∧ t.mem = s.mem ∧ t.me.g = s.me.g
    (s.runs (.enq ra) = true → releaseHolds (s.noted (.enq ra)) s.core s.slot = true →
      (commandStatus (s.noted (.enq ra)) s.core s.slot false w = 0 →
        ∃ t, exec (.enq ra) s = .next t ∧ accepted t none ∧ t.me.pc = s.me.pc + 4) ∧
      ∀ n, commandStatus (s.noted (.enq ra)) s.core s.slot false w = n → n ≠ 0 → exec (.enq ra) s =
        .next (doneNext (pushToken (s.noted (.enq ra)) s.core s.slot (bitsOf w 247 245) (token w n 0 false 0)))) ∧
    (s.runs (.enqw ra rd) = true → releaseHolds (s.noted (.enqw ra rd)) s.core s.slot = true →
      (commandStatus (s.noted (.enqw ra rd)) s.core s.slot true w = 0 →
        ∃ t, exec (.enqw ra rd) s = .next t ∧ accepted t (some rd) ∧ t.me.pc = s.me.pc ∧ t.me.status = .engineWait ∧
          t.me.wait = .token rd) ∧
      ∀ n, commandStatus (s.noted (.enqw ra rd)) s.core s.slot true w = n → n ≠ 0 → exec (.enqw ra rd) s =
        .next (writeNext rd (token w n 0 false 0) (s.noted (.enqw ra rd)) (s.noted (.enqw ra rd))))) ∧
  (∀ (ra : BitVec 6) (s : State) (w : BitVec 256), w = fourRegisters s ra → s.runs (.enq ra) = true →
    releaseHolds (s.noted (.enq ra)) s.core s.slot = true →
    (∀ r ∈ [(0x10, 0x11), (0x20, 0x26), (0x30, 0x3C), (0x50, 0x55), (0x60, 0x60), (0x70, 0x72)],
      ¬ (r.1 ≤ cmdCode w ∧ cmdCode w ≤ r.2)) →
    exec (.enq ra) s = .next (doneNext (pushToken (s.noted (.enq ra)) s.core s.slot (bitsOf w 247 245) (token w 1 0 false 0)))) ∧
  (∀ (rd : BitVec 6) (n : BitVec 3) (h : BitVec 1) (s : State), s.runs (.ringrd rd n h) = true →
    exec (.ringrd rd n h) s = .next (writeNext rd ((vget s.me.ring 0 n.toNat).extractLsb' (64 * h.toNat) 64)
      (s.noted (.ringrd rd n h)) (s.noted (.ringrd rd n h))))

/-- R112, R113, R117, R206, R210: a slot's command that completes leaves its queue and, in its place for it, its token: q8 + port
for done 0, the pending list for done 2, the register's thread for enqw. A token held for want of a place takes it when one is
free, and none before. A runnable thread in no handler takes its oldest pending entry at its next issue: it goes on at hbase,
its PC kept in hlink and the token in g24, whose flags it receives. -/
def Sys2Proof.Claims.Tokens : Prop :=
  (∀ (s : State) (c k : Nat) (e : Engine) (x : Cmd) (status value : Nat) (flags : BitVec 7) (poison : Bool), k < 8 →
    x.owner = .slot k → QuietPorts s c → (s.slotOf c k).pair = .alone →
    let t := completeCmd s c e x status flags poison value
    let v := token x.word status flags poison value
    (t.coreOf c).queue e = ((s.coreOf c).queue e).filter (fun y => y.ident != x.ident) ∧ t.mem = s.mem ∧ t.poison = s.poison ∧
    (x.rd = none → bitsOf x.word 244 243 = 0 → (portGet s c k (bitsOf x.word 247 245 + 8)).length < 16 →
      portGet t c k (bitsOf x.word 247 245 + 8) = portGet s c k (bitsOf x.word 247 245 + 8) ++ [⟨v, false, true⟩]) ∧
    (x.rd = none → bitsOf x.word 244 243 = 2 → (s.slotOf c k).pending.length < 16 →
      (t.slotOf c k).pending = (s.slotOf c k).pending ++ [v]) ∧
    (∀ r, x.rd = some r → (s.slotOf c k).wait = .token r → (t.slotOf c k).reply = some ⟨v, false⟩)) ∧
  (∀ (s : State) (c k port : Nat) (e : Elem), k < 8 → (s.coreOf c).heldTokens = [⟨.slot k, port, e⟩] →
    (s.coreOf c).pushers = [] → (s.coreOf c).poppers = [] → (s.coreOf c).arriving = [] →
    (port < 8 → (portGet s c k (port + 8)).length < 16 → ∃ t, exec (.heldTokenPush c k port) s = .next t ∧ t.mem = s.mem ∧
      (t.coreOf c).heldTokens = [] ∧ portGet t c k (port + 8) = portGet s c k (port + 8) ++ [e]) ∧
    (port < 8 → 16 ≤ (portGet s c k (port + 8)).length → exec (.heldTokenPush c k port) s = .next s) ∧
    (port = 8 → (s.slotOf c k).pending.length < 16 → ∃ t, exec (.heldTokenPush c k port) s = .next t ∧ t.mem = s.mem ∧
      (t.coreOf c).heldTokens = [] ∧ (t.slotOf c k).pending = (s.slotOf c k).pending ++ [e.val])) ∧
  (∀ (s : State) (c k : Nat) (v : Word) (rest : List Word), k < 8 →
    let x := s.slotOf c k
    x.pending = v :: rest → x.push = none → x.latch = [] → x.vec = none → x.midway = false → bitAt v 32 = false →
    (x.status = .runnable → x.handler = .outside → exec (.completionHandlerEntry c k) s = .next (s.setSlot c k
      { x with pending := rest, hlink := x.pc, pc := x.hbase, winG := vset x.winG 0 v, handler := .completion, status := .handler,
               fflags := x.fflags ||| .ofNat 7 (bitsOf v 39 33) })) ∧
    (x.handler ≠ .outside → exec (.completionHandlerEntry c k) s = .next s))

/-- Units u .. u + n − 1 of 16 accumulator rows exist and no other slot's grant holds one of them (R202). -/
def Sys2Proof.Claims.UnitsFree (s : State) (u n : Nat) : Prop :=
  u + n ≤ 8 ∧ ∀ k g, k < 8 → k ≠ s.slot → (s.slotOf s.core k).grant = some g → ∀ i, i < n → ¬ (g.unit ≤ u + i ∧ u + i < g.unit + g.rows / 16)

/-- What one te.mma stage of BF16 operands reads of a row: element `t` of the row or column `i` at `base`. -/
def Sys2Proof.Claims.bf16At (s : State) (c base i t : Nat) : Val :=
  decodeFp bf16 (s.mem.readN (padAddr c (base + 256 * i)) 256 / 2 ^ (16 * t) % 2 ^ 16)

/-- R46–R51, R56, R60–R62, R115, R116, R202, R203, R208, R209, R216–R218: the tile engine (that code 0x10 is te.mma and 0x11 te.zacc,
as R115 has them and R216 and R217 have not, is log entry 133's). mshape with no tile command outstanding ends the thread's grant and gives
it the lowest run of units that holds the rows asked for, its columns rounded up to 16, or, for 0 rows, nothing; a shape beyond
128 is an illegal operand. te.zacc clears the granted accumulators and no other. te.mma runs a stage when both its rings hold
one and no aged requester wants a bank, empties it in both and moves their heads on; after the last stage the thread enters its drain handler for each granted row
in turn, and after the last row the command completes. A stage leaves in each granted accumulator what `stageAcc` gives; for a group of finite BF16
values that is acc + RoundF32 of the exact sum of the products, rounded. drain in a drain handler writes the row at g25, each
accumulator converted to the format of fmt in the mode of frm (SR drawing once for each column, and never for FP32), and goes back to
wait at its te.mma, or traps where the row is misaligned or runs past the scratchpad; in a completion handler it returns to hlink. -/
def Obligations.TileEngine : Prop :=
  (∀ (rd ra : BitVec 6) (s : State), s.runs (.mshape rd ra) = true → ra.toNat < 32 → rd.toNat < 32 →
    let v := s.me.readG ra.toNat
    let m := bitsOf v 7 0
    let n := bitsOf v 15 8
    let i : Instr := .mshape rd ra
    ((128 < m ∨ n = 0 ∨ 128 < n ∨ bitsOf v 63 16 ≠ 0) → exec i s = .next (trapHere (s.noted i) .illegalOperand)) ∧
    (m ≤ 128 → n ≠ 0 → n ≤ 128 → bitsOf v 63 16 = 0 → (∀ x ∈ (s.coreOf s.core).tileQ, x.owner ≠ .slot s.slot) →
      (m = 0 → exec i s = .next (s.retired i ({ s.me with grant := none }.writeG rd.toNat 0))) ∧
      (∀ u, m ≠ 0 → UnitsFree s u ((m + 15) / 16) → (∀ w, w < u → ¬ UnitsFree s w ((m + 15) / 16)) →
        let rows := 16 * ((m + 15) / 16)
        let cols := 16 * ((n + 15) / 16)
        exec i s = .next (s.retired i ({ s.me with grant := some ⟨u, rows, cols⟩ }.writeG rd.toNat
          (.ofNat 64 (rows + cols * 2 ^ 8 + 16 * u * 2 ^ 16)))))) ) ∧
  (∀ (s : State) (c k : Nat) (x : Cmd) (rest : List Cmd) (g : Grant), (s.coreOf c).tileQ = x :: rest → frozen s c x = false →
    x.grant = some g → x.owner = .slot k → k < 8 → (s.slotOf c k).pair = .alone → g.cols ≤ 128 →
    (cmdCode x.word = 0x11 → ∃ u, exec (.teZacc c) s = .next (completeCmd u c .tile x 0 0 false 0) ∧
      u = s.modCore c (fun r => { r with acc := (u.coreOf c).acc, accPoison := (u.coreOf c).accPoison }) ∧
      ∀ i j, j < 128 → (u.coreOf c).acc.get 0 (i * 128 + j) =
        if 16 * g.unit ≤ i ∧ i < 16 * g.unit + g.rows ∧ j < g.cols then 0 else (s.coreOf c).acc.get 0 (i * 128 + j)) ∧
    (cmdCode x.word = 0x10 →
      let slab := if bitsOf x.fmt 3 0 = 10 then 120 else 128
      let a := bitsOf x.word 191 189
      let b := bitsOf x.word 188 186
      let qa := vget (s.slotOf c k).ring 0 a
      let qb := vget (s.slotOf c k).ring 0 b
      let last := (bitsOf x.word 223 208 + slab - 1) / slab ≤ x.stage
      (¬ last → ringFull qa (ringHead qa) = false ∨ ringFull qb (ringHead qb) = false → exec (.teMma c) s = .next s) ∧
      (¬ last → a ≠ b → (∀ n, agedAt s c n = []) → ringFull qa (ringHead qa) = true → ringFull qb (ringHead qb) = true → ∃ t, exec (.teMma c) s = .next t ∧
        t.mem = s.mem ∧ (t.coreOf c).tileQ.map (·.stage) =
          (s.coreOf c).tileQ.map (fun y => if y.ident = x.ident then y.stage + 1 else y.stage) ∧
        (∀ q, q = a ∨ q = b → let old := vget (s.slotOf c k).ring 0 q
          ringFull (vget (t.slotOf c k).ring 0 q) (ringHead old) = false ∧
            ringHead (vget (t.slotOf c k).ring 0 q) = (ringHead old + 1) % ringCount old) ∧
        ∀ i j, j < 128 → ¬ (16 * g.unit ≤ i ∧ i < 16 * g.unit + g.rows ∧ j < g.cols) →
          (t.coreOf c).acc.get 0 (i * 128 + j) = (s.coreOf c).acc.get 0 (i * 128 + j)) ∧
      (¬ last → a ≠ b → (∀ n, agedAt s c n = []) → ringFull qa (ringHead qa) = true → ringFull qb (ringHead qb) = true →
        let base := fun q => ringBase q + x.rebase + ringHead q * ringStage q
        let st : Stage := ⟨base qa, base qb, bitsOf x.fmt 3 0, bitsOf x.fmt 7 4, x.stage * slab, bitsOf x.word 223 208⟩
        ∃ t, exec (.teMma c) s = .next t ∧ ∀ i j, i < g.rows → j < g.cols →
          (let n := (16 * g.unit + i) * 128 + j
           (t.coreOf c).acc.get 0 n = .ofNat 32 (stageAcc s c x st i j ((s.coreOf c).acc.get 0 n).toNat).1)) ∧
      (last → (s.slotOf c k).status = .engineWait → (s.slotOf c k).handler = .outside → (∃ r, (s.slotOf c k).wait = .row r ∨ (s.slotOf c k).wait = .token r) →
        (s.slotOf c k).docking = false → (s.slotOf c k).haltPending = false → (s.slotOf c k).stepArmed = false →
        (x.count < g.rows → ∃ t, exec (.teMma c) s = .next t ∧ t.mem = s.mem ∧ (let y := t.slotOf c k
          y.handler = .drain x.count ∧ y.status = .handler ∧ y.pc = x.pc + 8 ∧ y.readG 24 = .ofNat 64 x.count ∧
            y.readG 25 = .ofNat 64 (bitsOf x.word 175 155 + x.count * bitsOf x.word 143 128) ∧
            ∀ j, j < g.cols → lane (y.readV (14 + j / 64)) (j % 64) =
              (s.coreOf c).acc.get 0 ((16 * g.unit + x.count) * 128 + j))) ∧
        (g.rows ≤ x.count → exec (.teMma c) s =
          .next (completeCmd s c .tile x (if x.poison then 6 else 0) x.flags x.poison g.rows))))) ∧
  (∀ (s : State) (c : Nat) (x : Cmd) (st : Stage) (i j old : Nat), st.fa = 0 → st.fb = 0 → st.first = 0 → 0 < st.k → st.k ≤ 32 →
    let a := bf16At s c st.baseA i
    let b := bf16At s c st.baseB j
    (∀ t, t < st.k → (a t).isNan = false ∧ (b t).isNan = false ∧ (∀ n, a t ≠ .inf n ∧ b t ≠ .inf n)) →
    ∃ sign num den, den ≠ 0 ∧ value (.fin sign num den) = ∑ t ∈ Finset.range st.k, value (a t) * value (b t) ∧
      (stageAcc s c x st i j old).1 = (add32 old (roundTo fp32 .rne false 0 (.fin sign num den)).1).1) ∧
  (∀ s : State, s.runs .drain = true →
    (s.me.handler = .completion → exec .drain s =
      .next (s.retiredTo .drain { s.me with handler := .outside, status := .runnable } s.me.hlink)) ∧
    (∀ i x g, s.me.handler = .drain i → (s.coreOf s.core).tileQ.find? (fun x => x.owner == .slot s.slot) = some x →
      x.grant = some g → g.cols ≤ 128 → bitsOf s.me.fmt 9 8 ≠ 3 →
      let f := if bitsOf s.me.fmt 9 8 = 0 then fp32 else if bitsOf s.me.fmt 9 8 = 1 then bf16 else fp16
      let e := f.width / 8
      let p := bitsOf (s.me.readG 25) 20 0 + slotRebase s s.core s.slot
      let mode := modeOf s.me.frm
      let m := if f = fp32 ∧ mode = .sr then .rne else mode
      let r := fun j => roundTo f m (bitAt s.me.fmt 10) (if m = .sr then (Nat.repeat lfsrStep (j + 1) s.me.srseed).toNat else 0)
        (dec32 (lane (s.me.readV (14 + j / 64)) (j % 64)).toNat)
      (p % e ≠ 0 → exec .drain s = .next (trapHere (s.noted .drain) .misaligned (.ofNat 64 p))) ∧
      (p % e = 0 → 2 ^ 21 < p + e * g.cols → exec .drain s = .next (trapHere (s.noted .drain) .segment (.ofNat 64 p))) ∧
      (p % e = 0 → p + e * g.cols ≤ 2 ^ 21 →
        ∃ t, exec .drain s = .next t ∧ t.me.handler = .outside ∧ t.me.status = .engineWait ∧ t.me.pc = x.pc ∧
          (∃ r, t.me.wait = .row r) ∧
          (∀ j, j < g.cols → t.mem.readN (padAddr s.core (p + e * j)) e = (r j).1) ∧
          ∀ a, (a < padAddr s.core p ∨ padAddr s.core p + e * g.cols ≤ a) → t.mem.read a = s.mem.read a)))

/-- The head of a core's copy queue, the only command of its code there, which may run: its engine is not frozen, a fill's stage
is empty, and no aged requester wants a bank (R207, R214, R244, R269). No other command of the queue is over. -/
def Sys2Proof.Claims.CopyHead (s : State) (c code : Nat) (x : Cmd) (rest : List Cmd) : Prop :=
  (s.coreOf c).copyQ = x :: rest ∧ cmdCode x.word = code ∧ frozen s c x = false ∧ mayStart s c x = true ∧ x.held = [] ∧
    x.status = 0 ∧ (∀ b, agedAt s c b = []) ∧
    ∀ y ∈ rest, y.ident ≠ x.ident ∧ cmdCode y.word ≠ code ∧ y.status ≠ 5 ∧ partsDone y = false

/-- An engine's access to a virtual address goes to `pa`: its page is translated, its bank is free, no aperture claims it (R276,
R337, R383, R407). -/
def Sys2Proof.Claims.EngineAt (s : State) (c : Nat) (x : Cmd) (va pa : Nat) (pol : Policy) (r w : Bool) : Prop :=
  x.barred ≠ some va ∧ translate s (clusterOf c) x.ctag va r w false = .hit pa pol ∧ bankBusy s pa = false ∧ apertureOf s pa = none

/-- No home holds a line, nothing waits at the ports, and nobody watches or reserves: memory is the array itself. -/
def Sys2Proof.Claims.Settled (s : State) : Prop :=
  s.homes.entries = [] ∧ s.bursts = [] ∧ s.hostLines = [] ∧ s.queues = [] ∧ s.watches = [] ∧ s.peerReqs = []

/-- `n` bytes of `s` at `src` stand at `dst` in `t`, and every other byte is as before. -/
def Sys2Proof.Claims.Moved (s t : State) (src dst n : Nat) : Prop :=
  ∀ a, t.mem.read a = if dst ≤ a ∧ a < dst + n then s.mem.read (src + (a - dst)) else s.mem.read a

/-- `n` bytes of `s` at `src` stand in the combining buffer of a port in `t`, as those of `dst`. -/
def Sys2Proof.Claims.Combined (s t : State) (cl src dst n : Nat) : Prop :=
  ∀ i, i < n → ∃ e, combineEntry t cl dst = some e ∧ tableFind (dst + i) e.bytes = some (s.mem.read (src + i))

/-- R207, R214, R215, R275, R276: a burst of ce.cpy or ce.str that is due, where memory is settled: its bytes are moved from global
memory into the scratchpad, or out of it, and no other byte changes; under COMBINE those that go out stand in the port's combining
buffer instead. It counts as done, and with the last one the command leaves its queue; a ring fill then leaves its stage full and
its ring's tail one on. ce.fill writes the pattern of its stride field by the distance from its start. -/
def Sys2Proof.Claims.CopyBursts : Prop :=
  (∀ (s : State) (c row chunk code : Nat) (i : Instr) (x : Cmd) (rest : List Cmd) (p pa : Nat) (pol : Policy),
    (code, i) ∈ [(0x20, Instr.ceCpy c chunk), (0x21, .ceStr c row chunk)] → (code = 0x20 → row = 0) →
    CopyHead s c code x rest → Settled s → burstDue x row chunk = true → rowAddress x row = some p →
    let a := max p ((p / 256 + chunk) * 256)
    let n := min (p + bitsOf x.word 223 192) ((p / 256 + chunk + 1) * 256) - a
    let pad := padAddr c (ceScratch x.word (ceBase x.word x.rings x.stage) row + x.rebase + (a - p))
    let out := bitAt x.word 0
    EngineAt s c x a pa pol (!out) out → pa + n ≤ 2 ^ 52 → (pol = .combine → combineEntry s (clusterOf c) pa = none) →
    ∃ t, exec i s = .next t ∧
      (if out = false then Moved s t pa pad n else if pol = .combine then t.mem = s.mem ∧ Combined s t (clusterOf c) pad pa n
       else Moved s t pad pa n) ∧
      (x.done.length + 1 < (allBursts x).length → ∃ y, (t.coreOf c).copyQ = y :: rest ∧ y.moved = x.moved + n ∧
        y.done = x.done ++ [row * 2 ^ 14 + chunk] ∧ y.word = x.word ∧ y.ident = x.ident) ∧
      (x.done.length + 1 = (allBursts x).length → (t.coreOf c).copyQ = rest ∧
        ∀ k, bitsOf x.word 244 243 = 1 → x.owner = .slot k → k < 8 → x.stage < 16 →
          let r := bitsOf x.word 242 240
          let q := vget (s.slotOf c k).ring 0 r
          ringFull (vget (t.slotOf c k).ring 0 r) x.stage = true ∧
            ringTail (vget (t.slotOf c k).ring 0 r) = (x.stage + 1) % ringCount q)) ∧
  (∀ (s : State) (c chunk : Nat) (x : Cmd) (rest : List Cmd) (p pa : Nat) (pol : Policy),
    CopyHead s c 0x24 x rest → Settled s → burstDue x 0 chunk = true → rowAddress x 0 = some p →
    let a := max p ((p / 256 + chunk) * 256)
    let n := min (p + bitsOf x.word 223 192) ((p / 256 + chunk + 1) * 256) - a
    let out := bitAt x.word 0
    let there := if out then pa else padAddr c a
    (out = true → EngineAt s c x a pa pol false true ∧ pa + n ≤ 2 ^ 52 ∧ pol ≠ .combine) →
    ∃ t, exec (.ceFill c chunk) s = .next t ∧ (∀ b, t.mem.read b = if there ≤ b ∧ b < there + n then
        .ofNat 8 (bitsOf x.word 63 32 / 2 ^ (8 * ((a - p + (b - there)) % 4))) else s.mem.read b) ∧
      (x.done.length + 1 = (allBursts x).length → (t.coreOf c).copyQ = rest))

/-- R207, R212–R214, R462: ce.gth and ce.sct move one element at a time between the scratchpad and the address that the index word
chooses, and an address outside the segments ends the command with status 5. ce.rld loads a ring descriptor from 16 bytes of the
scratchpad, its reserved bits zero, and completes, or leaves it and completes with status 3, its token placed as for done 0 (R116)
and with the value 0 of a refusal (log entry 128), where the image is malformed; ce.rst stores the descriptor there and completes. -/
def Sys2Proof.Claims.CopyElements : Prop :=
  (∀ (s : State) (c code : Nat) (i : Instr) (x : Cmd) (rest : List Cmd), (code, i) ∈ [(0x22, Instr.ceGth c), (0x23, .ceSct c)] →
    CopyHead s c code x rest → Settled s → x.count < ceCount x.word → cmdDone x.word ≠ 1 → bitAt x.word 0 = (code == 0x23) →
    let n := bitsOf x.word 223 192
    let index := s.mem.readN (padAddr c (bitsOf x.word 84 64 + x.rebase + 4 * x.count)) 4
    let va := .ofNat 64 (bitsOf x.word 191 128) + .ofNat 64 (index * n)
    let pad := padAddr c (ceScratch x.word (ceBase x.word x.rings x.stage) x.count + x.rebase)
    let out := code == 0x23
    (rangeOf x.sg va n (!out) out = none → exec i s =
      .next (completeCmd s c .copy x 5 0 x.poison x.moved)) ∧
    (∀ p pa pol, rangeOf x.sg va n (!out) out = some p → 0 < n → p % 256 + n ≤ 256 → EngineAt s c x p pa pol (!out) out →
      pa + n ≤ 2 ^ 52 → pol ≠ .combine → ∃ t, exec i s = .next t ∧ (if out then Moved s t pad pa n else Moved s t pa pad n) ∧
        (x.count + 1 < ceCount x.word → ∃ y, (t.coreOf c).copyQ = y :: rest ∧ y.count = x.count + 1 ∧ y.moved = x.moved + n) ∧
        (x.count + 1 = ceCount x.word → (t.coreOf c).copyQ = rest))) ∧
  (∀ (s : State) (c k : Nat) (x : Cmd) (rest : List Cmd), x.owner = .slot k → k < 8 → s.watches = [] → s.peerReqs = [] →
    x.count = 0 → cmdDone x.word ≠ 1 →
    let off := bitsOf x.word 116 96 + x.rebase
    let r := bitsOf x.word 242 240
    (CopyHead s c 0x25 x rest → poisonedIn s.poison (padAddr c off) 16 = false →
      let q : Quad := .ofNat 128 (s.mem.readN (padAddr c off) 16)
      let reads : Quad := .ofNat 128 (bitsOf q 127 96 * 2 ^ 96 + bitsOf q 75 72 * 2 ^ 72 + bitsOf q 67 64 * 2 ^ 64 +
        bitsOf q 55 40 * 2 ^ 40 + bitsOf q 20 0)
      (ringMalformed reads x.rebase = false → exec (.ceRld c) s = .next (completeCmd
        (s.modSlot c k fun y => { y with ring := vset y.ring r reads }) c .copy x 0 0 false 16)) ∧
      (ringMalformed reads x.rebase = true → exec (.ceRld c) s =
        .next (completeCmd s c .copy { x with word := setBits x.word 244 243 0 } 3 0 false 0))) ∧
    (CopyHead s c 0x26 x rest → ∃ t, exec (.ceRst c) s = .next t ∧ (t.coreOf c).copyQ = rest ∧
      ∀ a, t.mem.read a = if padAddr c off ≤ a ∧ a < padAddr c off + 16
        then .ofNat 8 ((vget (s.slotOf c k).ring 0 r).toNat / 2 ^ (8 * (a - padAddr c off))) else s.mem.read a))

/-- The new word of an element-wise command (R220) from the old one and the operands: bu.add, bu.mul, bu.scl (times a power of two,
whose exponent is cut far beyond any result), bu.max, bu.min, bu.fill, bu.cas, and bu.fop with the operations of R160 at 32
bits. -/
def Sys2Proof.Claims.newWord (code fop w opa opb : Nat) : Nat :=
  match code with
  | 0x30 => (f32 .rne (addVal .rne (dec32 w) (dec32 opa))).1
  | 0x31 => (f32 .rne (mulVal (dec32 w) (dec32 opa))).1
  | 0x32 => (f32 .rne (mulVal (dec32 w) (dyadic false 1 (max (-1000) (min 1000 (BitVec.ofNat 32 opa).toInt))))).1
  | 0x33 => (max32 w opa).1
  | 0x34 => (min32 w opa).1
  | 0x39 => opa
  | 0x3B => if w = opa then opb else w
  | _ => amoResult 4 (.ofNat 4 fop) w opa

/-- The words of a run, and the words that a step may write. -/
def Sys2Proof.Claims.wordOf (s : State) (r : Run) (e : Nat) : Nat := s.mem.readN (padAddr r.core (r.addr + 4 * e)) 4
def Sys2Proof.Claims.stateOf (s : State) (r : Run) (off : Nat) : Nat := s.mem.readN (padAddr r.core (r.aux + off)) 4
def Sys2Proof.Claims.Elsewhere (s t : State) (places : List Nat) : Prop :=
  ∀ a, (∀ p ∈ places, a < p ∨ p + 4 ≤ a) → t.mem.read a = s.mem.read a

/-- A bank command has done one more element, or, with the last one of its run, has left its queue. -/
def Sys2Proof.Claims.ElementDone (s t : State) (c : Nat) (x : Cmd) (last : Prop) : Prop :=
  (last → (t.coreOf c).bankQ = (s.coreOf c).bankQ.filter fun y => y.ident != x.ident) ∧
  (¬ last → (t.coreOf c).bankQ.map (·.count) = (s.coreOf c).bankQ.map fun y => if y.ident = x.ident then y.count + 1 else y.count)

/-- Command `k` of a core's bank queue, of a code, may take its next step at a bank: no aged requester goes first there, no other
run stands where it has to go, and no earlier command of its core has words left there (R207, R269, R298). Its target is in
service, and nobody watches. -/
def Sys2Proof.Claims.BankTurn (s : State) (c k code bank : Nat) (x : Cmd) (r : Run) : Prop :=
  bankCmd s c k code = some (x, r) ∧ cmdTurn s c k x bank = true ∧ (s.coreOf r.core).failed = false ∧ s.watches = []

/-- R109, R160, R207, R220, R223: a bank's step of an element-wise command whose turn it is: its next element at the bank has its new
value, no other byte of memory changes, and the element counts as done; with the last element of the run the command completes, its
value the element count, or, for bu.cas and bu.fop, the old word of element 0. -/
def Sys2Proof.Claims.BankElements : Prop :=
  ∀ (s : State) (c k bank code e : Nat) (i : Instr) (x : Cmd) (r : Run),
    ((code, i) ∈ [(0x30, Instr.buAdd c k bank), (0x31, .buMul c k bank), (0x32, .buScl c k bank), (0x33, .buMax c k bank),
      (0x34, .buMin c k bank), (0x39, .buFill c k bank), (0x3C, .buFop c k bank)] ∨
      (code = 0x3B ∧ i = .buCas c k ∧ bank = r.addr / 32 % 32)) →
    BankTurn s c k code bank x r → r.nextAt x.progress bank = some e →
    ∃ t, exec i s = .next t ∧ wordOf t r e = newWord code r.fop (wordOf s r e) r.opa r.opb ∧
      Elsewhere s t [padAddr r.core (r.addr + 4 * e)] ∧
      (x.done.length + 1 ≠ r.count → (t.coreOf c).bankQ.map (·.done) =
        (s.coreOf c).bankQ.map fun y => if y.ident = x.ident then y.done ++ [bank] else y.done) ∧
      (x.done.length + 1 = r.count → ∃ u f p v, t = completeCmd u c .bank x (if p then 6 else 0) f p v ∧
        (code ≠ 0x3B → code ≠ 0x3C → v = r.count) ∧ (code = 0x3B ∨ code = 0x3C → e = 0 → v = wordOf s r 0))

/-- R64, R207, R221, R222, R299: one element of a stateful bank command, or one step of bu.topk, whose turn it is. bu.oes scales the
word and updates the running maximum and sum; bu.nsm turns it into exp(x − m) / s; bu.wel updates the element's mean and M2 with
the new count, which its first element writes, and completes with the flag SAT where the count is at its maximum; bu.hist counts
the word's bin; bu.topk finds, of a row, its K largest words, the lower column first among equals, and then writes the row's bits
word by word, keeping the other rows' bits. Nothing else of memory changes. -/
def Sys2Proof.Claims.BankState : Prop :=
  (∀ (s : State) (c k : Nat) (x : Cmd) (r : Run), BankTurn s c k 0x35 (r.bank x.count) x r →
    (r.addr + 4 * x.count + 4 ≤ r.aux ∨ r.aux + 8 ≤ r.addr + 4 * x.count) →
    let y := (mul32 r.opa (wordOf s r x.count)).1
    let m := (max32 (stateOf s r 0) y).1
    ∃ t, exec (.buOes c k) s = .next t ∧ wordOf t r x.count = y ∧ stateOf t r 0 = m ∧
      stateOf t r 4 = (add32 (mul32 (stateOf s r 4) (exp32 (sub32 (stateOf s r 0) m).1).1).1 (exp32 (sub32 y m).1).1).1 ∧
      Elsewhere s t [padAddr r.core (r.addr + 4 * x.count), padAddr r.core r.aux, padAddr r.core (r.aux + 4)] ∧
      ElementDone s t c x (x.count + 1 = r.count)) ∧
  (∀ (s : State) (c k : Nat) (x : Cmd) (r : Run), BankTurn s c k 0x36 (r.bank x.count) x r →
    let m := if x.started then x.kept % 2 ^ 32 else stateOf s r 0
    let sum := if x.started then x.kept / 2 ^ 32 % 2 ^ 32 else stateOf s r 4
    ∃ t, exec (.buNsm c k) s = .next t ∧ wordOf t r x.count = (div32 (exp32 (sub32 (wordOf s r x.count) m).1).1 sum).1 ∧
      Elsewhere s t [padAddr r.core (r.addr + 4 * x.count)] ∧ ElementDone s t c x (x.count + 1 = r.count)) ∧
  (∀ (s : State) (c k : Nat) (x : Cmd) (r : Run), BankTurn s c k 0x37 (r.bank x.count) x r → x.kept < 2 ^ 32 →
    (x.started = false → stateOf s r 0 = 2 ^ 32 - 1 → ∃ p, exec (.buWel c k) s =
      .next (completeCmd s c .bank x (if p then 6 else 0) flagSat p (2 ^ 32 - 1))) ∧
    ((x.started = false → stateOf s r 0 ≠ 2 ^ 32 - 1) →
      let n := if x.started then x.kept else stateOf s r 0 + 1
      let w := welford n (stateOf s r (4 + 8 * x.count)) (stateOf s r (8 + 8 * x.count)) (wordOf s r x.count)
      ∃ t, exec (.buWel c k) s = .next t ∧ stateOf t r 0 = (if x.count = 0 then n else stateOf s r 0) ∧
        stateOf t r (4 + 8 * x.count) = w.1 ∧ stateOf t r (8 + 8 * x.count) = w.2.1 ∧
        Elsewhere s t [padAddr r.core r.aux, padAddr r.core (r.aux + (4 + 8 * x.count)), padAddr r.core (r.aux + (8 + 8 * x.count))] ∧
        ElementDone s t c x (x.count + 1 = r.count))) ∧
  (∀ (s : State) (c k : Nat) (x : Cmd) (r : Run), BankTurn s c k 0x38 (r.bank x.count) x r →
    (∀ b, histBin r (wordOf s r x.count) = some b → ∃ t, exec (.buHist c k) s = .next t ∧ b < 256 ∧
      stateOf t r (4 * b) = min (stateOf s r (4 * b) + 1) (2 ^ 32 - 1) ∧ Elsewhere s t [padAddr r.core (r.aux + 4 * b)] ∧
      ElementDone s t c x (x.count + 1 = r.count)) ∧
    (histBin r (wordOf s r x.count) = none → ∃ t, exec (.buHist c k) s = .next t ∧ Elsewhere s t [] ∧
      ElementDone s t c x (x.count + 1 = r.count))) ∧
  (∀ (s : State) (c k : Nat) (x : Cmd) (r : Run), BankTurn s c k 0x3A (r.bank (x.count * r.opa)) x r →
    let key := fun (j : Nat) => let w := wordOf s r (x.count * r.opa + j)
      if w < 2 ^ 31 then w + 2 ^ 31 else 2 ^ 32 - 1 - w
    let lo := x.count * r.opa
    let hi := if (x.count + 1) * r.opa = r.count then (r.count + 31) / 32 * 32 else (x.count + 1) * r.opa
    let w := lo / 32 + x.moved
    (x.kept = 0 → r.opb ≤ r.opa → ∃ (t : State) (p : Bool) (chosen : Nat), exec (.buTopk c k) s = .next t ∧ t.mem = s.mem ∧
      (t.coreOf c).bankQ.map (·.kept) = ((s.coreOf c).bankQ.map fun y =>
        if y.ident = x.ident then chosen * 4 + (if p then 2 else 0) + 1 else y.kept) ∧
      chosen < 2 ^ r.opa ∧ ((Finset.range r.opa).filter fun j => chosen.testBit j).card = r.opb ∧
      ∀ i j, i < r.opa → j < r.opa → chosen.testBit i = true → chosen.testBit j = false → key j < key i ∨ (key j = key i ∧ i < j)) ∧
    (x.kept ≠ 0 → ∃ t, exec (.buTopk c k) s = .next t ∧
      (∀ b, b < 32 → stateOf t r (4 * w) / 2 ^ b % 2 = if lo ≤ 32 * w + b ∧ 32 * w + b < hi
        then x.kept / 4 / 2 ^ (32 * w + b - lo) % 2 else stateOf s r (4 * w) / 2 ^ b % 2) ∧
      Elsewhere s t [padAddr r.core (r.aux + 4 * w)] ∧
      (32 * (w + 1) < hi → (t.coreOf c).bankQ.map (·.moved) =
        (s.coreOf c).bankQ.map fun y => if y.ident = x.ident then x.moved + 1 else y.moved) ∧
      (hi ≤ 32 * (w + 1) → ElementDone s t c x (r.count ≤ hi))))

/-- A stack command refused by its sequencer completes with a status and nothing else, its token pushed to q8 + port (R116, R336;
where its token goes is log entry 34's). -/
def Sys2Proof.Claims.refused (s : State) (c : Nat) (e : Engine) (x : Cmd) (status : Nat) : State :=
  completeCmd s c e { x with word := setBits x.word 244 243 0 } status 0 false 0

/-- A transfer that has begun. -/
def Sys2Proof.Claims.begun (s : State) (c : Nat) (x : Cmd) : State := modCmd s c .stack x.ident fun y => { y with started := true }

/-- Where memory was settled, `n` words of 4 bytes stand at a physical address under a policy: in the array, with every other byte
as before, or, under HOMED, in lines of their homes (R275). -/
def Sys2Proof.Claims.Written (s t : State) (pol : Policy) (pa n : Nat) (word : Nat → Nat) : Prop :=
  (pol = .stream ∨ pol = .direct → (∀ i, i < n → t.mem.readN (pa + 4 * i) 4 = word i) ∧
    ∀ a, (a < pa ∨ pa + 4 * n ≤ a) → t.mem.read a = s.mem.read a) ∧
  (pol = .homed → t.mem = s.mem ∧ ∀ i, i < n → ∃ l, t.homes.find? (pa / 32 + i / 8) = some l ∧ l.dirty = true ∧
    l.data.toNat / 2 ^ (32 * (i % 8)) % 2 ^ 32 = word i)

/-- R327, R329, R333–R337, R339: the commands of a pseudo-channel's sequencer that no earlier one of the core precedes, on a
pseudo-channel that another launch owns (status 7), and on one that is free or the launch's own. Entering takes it into all-bank
mode with its units zero; leaving zeroes them and is refused while a sequence runs; a good program enters the store, and a bad one
is refused with 2; su.bcast fills the broadcast registers of the banks of its mask, one bank at a step; su.run starts at a program
of the start table with latch and accumulators zero, and is refused without all-bank mode; su.read writes the accumulators of its
banks out, one bank at a step, to the array or, under HOMED, into lines of their homes, where log entry 134 has the results of
units stand (R276 does not name them); `bankDone` counts the bank, and after the
last completes the command with 256 bytes for each. su.abort ends the sequence, whose su.run completes with 8. -/
def Sys2Proof.Claims.StackCommands : Prop :=
  ∀ (s : State) (c k : Nat) (x : Cmd),
    let p := s.pchOf (bitsOf x.word 223 220) (bitsOf x.word 219 214)
    let put := fun (q : Pch) => s.setPch (bitsOf x.word 223 220) (bitsOf x.word 219 214) q
    let others := p.allBank = true ∧ p.owner ≠ x.lid
    let mine := p.allBank = true ∧ p.owner = x.lid
    let ends := fun (u : State) (status : Nat) (bad : Bool) (value : Nat) => Host.Outcome.next (completeCmd u c .stack x status 0 bad value)
    (stackCmd s c k 0x50 = some x → bitAt x.word 0 = true →
      (others → exec (.suModeEnter c k) s = .next (refused s c .stack x 7)) ∧
      (mine → exec (.suModeEnter c k) s = ends s 0 false 0) ∧
      (p.allBank = false → s.bursts = [] → exec (.suModeEnter c k) s =
        ends (put { p with allBank := true, owner := x.lid, units := {} }) 0 false 0)) ∧
    (stackCmd s c k 0x50 = some x → bitAt x.word 0 = false →
      (others ∨ p.running.isSome = true → exec (.suModeLeave c k) s = .next (refused s c .stack x 7)) ∧
      (mine → p.running = none → exec (.suModeLeave c k) s =
        ends (put { p with allBank := false, owner := 0, units := {} }) 0 false 0)) ∧
    (stackCmd s c k 0x51 = some x → (others → exec (.suProg c k) s = .next (refused s c .stack x 7)) ∧
      (¬ others → ∀ va v u, rangeCheck x.sg (cmdAddr x.word) (8 * suLen x.word) true false = some va →
        readRange s c x va (8 * suLen x.word) = .ok (v, []) u → u.pchs = s.pchs → p.running = none →
        p.shadowed = false → p.shadowStore.entries = [] →
        let image := (List.range (suLen x.word)).map fun i => BitVec.ofNat 64 (v / 2 ^ (64 * i))
        (imageOk image = true → imageInWindow p.rowlo p.rowhi p.rowoff image = true → ∃ q, exec (.suProg c k) s =
            ends (u.setPch (bitsOf x.word 223 220) (bitsOf x.word 219 214) q) 0 false (suLen x.word) ∧
          (∀ i, i < suLen x.word → q.store.get 0 (suStart x.word + i) = .ofNat 64 (v / 2 ^ (64 * i))) ∧
          (∀ i, (i < suStart x.word ∨ suStart x.word + suLen x.word ≤ i) → q.store.get 0 i = p.store.get 0 i ∧
            (i ∈ q.starts ↔ i ∈ p.starts)) ∧ suStart x.word ∈ q.starts ∧
          ∀ i, suStart x.word < i → i < suStart x.word + suLen x.word → i ∉ q.starts) ∧
        (imageOk image = false → exec (.suProg c k) s = .next (refused u c .stack x 2)))) ∧
    (stackCmd s c k 0x52 = some x →
      (x.started = false → others ∨ p.allBank = false → exec (.suBcast c k) s = .next (refused s c .stack x 7)) ∧
      (x.started = true ∨ (mine ∧ p.running = none) → ∀ b va v marks u, (banksOf (suMask x.word))[x.count]? = some b →
        rangeCheck x.sg (cmdAddr x.word + .ofNat 64 (256 * b)) 256 true false = some va →
        readRange (begun s c x) c x va 256 = .ok (v, marks) u → u.pchs = s.pchs → ∃ q, exec (.suBcast c k) s =
          .next (bankDone (u.setPch (bitsOf x.word 223 220) (bitsOf x.word 219 214) q) c x (!marks.isEmpty)) ∧
          (∀ i, i < 8 → vget (q.unit b).bv 0 i = .ofNat 256 (v / 2 ^ (256 * i))) ∧ (q.unit b).acc = (p.unit b).acc ∧
          ∀ d, d ≠ b → q.unit d = p.unit d)) ∧
    (stackCmd s c k 0x53 = some x → p.running = none →
      (others ∨ p.allBank = false → exec (.suRun c k) s = .next (refused s c .stack x 7)) ∧
      (mine → p.shadowStore.entries = [] → p.shadowed = false →
        (suStart x.word ∉ p.starts → exec (.suRun c k) s = .next (refused s c .stack x 2)) ∧
        (suStart x.word ∈ p.starts → imageInWindow p.rowlo p.rowhi p.rowoff (programAt p (suStart x.word)) = true →
          ∃ t q, exec (.suRun c k) s = .next t ∧ t.mem = s.mem ∧
            (t.pchOf (bitsOf x.word 223 220) (bitsOf x.word 219 214)).running = some q ∧ q.core = c ∧ q.ident = x.ident ∧
            q.banks = suMask x.word ∧ q.at_ = suStart x.word + 1 ∧ q.cycles = 0 ∧
            ∀ b, b < 16 → bitAt (suMask x.word) b = true →
              let n := (t.pchOf (bitsOf x.word 223 220) (bitsOf x.word 219 214)).unit b
              n.fl = 0 ∧ n.acc = Vector.replicate 64 0 ∧ n.bv = (p.unit b).bv))) ∧
    (stackCmd s c k 0x54 = some x →
      (x.started = false → others ∨ p.allBank = false ∨ p.running.isSome = true →
        exec (.suRead c k) s = .next (refused s c .stack x 7)) ∧
      (x.started = true ∨ (mine ∧ p.running = none) → ∀ b va pa pol, (banksOf (suMask x.word))[x.count]? = some b → Settled s →
        rangeCheck x.sg (cmdAddr x.word + .ofNat 64 (256 * b)) 256 false true = some va → va % 256 = 0 →
        EngineAt s c x va pa pol false true → pa % 32 = 0 → ∃ t, exec (.suRead c k) s = .next t ∧
          (x.count + 1 = (banksOf (suMask x.word)).length →
            (t.coreOf c).stackQ = (s.coreOf c).stackQ.filter (fun y => y.ident != x.ident)) ∧
          Written s t pol pa 64 fun i => (vget (p.unit b).acc 0 i).toNat)) ∧
    (stackCmd s c k 0x55 = some x → (others → exec (.suAbort c k) s = .next (refused s c .stack x 7)) ∧
      (¬ others → p.running = none → exec (.suAbort c k) s = ends s 0 false 0) ∧
      (¬ others → ∀ q y, p.running = some q → findCmd s q.core .stack q.ident = some y → exec (.suAbort c k) s =
        ends (completeCmd (put { p.clearUnits q.banks with running := none }) q.core .stack y 8 q.flags q.poison q.cycles) 0 false 1))

/-- R329, R337: the next word of a running sequence, where the host holds no line and at a yield point no request waits: each of its banks executes it, the sequence moves
on by a word and its column cycles (one, and 16 for each change of row), and with the last word su.run completes. A word that
fetches and multiplies on one bank loads its latch from the column and adds each product of latch and broadcast lanes, rounded
once, to the accumulators. A refresh that falls due while a sequence runs waits for its yield point. -/
def Sys2Proof.Claims.StackSequences : Prop :=
  (∀ (s : State) (c k : Nat) (x : Cmd) (q : Sequence), stackCmd s c k 0x53 = some x →
    let p := s.pchOf (suStack x.word) (suPch x.word)
    let w := p.store.get 0 q.at_
    p.running = some q → q.core = c → q.ident = x.ident → s.hostLines = [] → (q.atYield = true → requestsWait s x q = false) →
    let did := (banksOf q.banks).foldl (fun acc b => bankWord x w b acc) (s, q.flags, q.poison)
    let cost := wordCost q.openRow w
    (bitAt w 63 = false → bitAt w 62 = false → ∃ v, exec (.suRun c k) s = .next v ∧ v.mem = did.1.mem ∧
      (v.pchOf (suStack x.word) (suPch x.word)).units = (did.1.pchOf (suStack x.word) (suPch x.word)).units ∧
      (v.pchOf (suStack x.word) (suPch x.word)).running = some { q with
        at_ := q.at_ + 1, openRow := cost.2, atYield := false, cycles := q.cycles + cost.1, flags := did.2.1, poison := did.2.2 }) ∧
    (bitAt w 63 = true → Settled s → ∃ v, exec (.suRun c k) s = .next v ∧
      (v.pchOf (suStack x.word) (suPch x.word)).running = none ∧
      (v.coreOf c).stackQ = (s.coreOf c).stackQ.filter (fun y => y.ident != x.ident) ∧ v.mem = did.1.mem)) ∧
  (∀ (s : State) (x : Cmd) (w : Word) (b : Nat) (f : BitVec 7) (bad : Bool), bitsOf w 26 25 = 0 → bitAt w 61 = true → bitsOf w 38 36 = 1 →
    bitsOf w 32 27 % 16 = 0 →
    let p := s.pchOf (suStack x.word) (suPch x.word)
    let col := s.mem.readN (columnAddr (suStack x.word) (suPch x.word) b ((bitsOf w 60 44 + p.rowoff.toNat) % 2 ^ 17) (bitsOf w 43 39)) 32
    let v := ((bankWord x w b (s, f, bad)).1.pchOf (suStack x.word) (suPch x.word)).unit b
    let a := bitsOf w 32 27
    v.fl = .ofNat 256 col ∧ (bankWord x w b (s, f, bad)).1.mem = s.mem ∧
      ∀ i, i < 64 → vget v.acc 0 i = if a ≤ i ∧ i < a + 16 then .ofNat 32 (f32 .rne (fmaVal .rne
        (decodeFp fp16 (col / 2 ^ (16 * (i - a)) % 2 ^ 16))
        (decodeFp fp16 ((vget (p.unit b).bv 0 (bitsOf w 35 33)).toNat / 2 ^ (16 * (i - a)) % 2 ^ 16))
        (dec32 (vget (p.unit b).acc 0 i).toNat))).1 else vget (p.unit b).acc 0 i) ∧
  (∀ (s : State) (a b : Nat), a < 16 → b < 64 → (s.pchOf a b).running.isSome = true →
    exec (.refresh a b) s = .next (s.setPch a b { s.pchOf a b with refreshDue := true }))

/-- R65, R207, R225, R340–R342, R346: bre.sum, the oldest for its stack. It starts by reading its block: malformed it is refused with
2, and with every address checked it is under way. Each step sums eight elements of the operands in the order of R65 and stores
them at dst: in the array or, under HOMED, in lines of their homes, which is the choice of log entry 134 (R276 does not name the
results of units). At the end, results that stand in the port's combining buffer are written out first, and the command waits while
some are there; then the flag's value is stored at its place as a plain store, and the command completes with its operand count. -/
def Obligations.BufferSums : Prop :=
  ∀ (s : State) (c k : Nat) (x : Cmd), (s.coreOf c).reductionQ[k]? = some x → frozen s c x = false → x.held = [] →
    (∀ e ∈ s.cores.entries, ∀ y ∈ e.2.reductionQ, suStack y.word = suStack x.word → x.ident ≤ y.ident) →
    let ops := bitsOf x.word 219 216
    (x.started = false → ∀ va block marks u, rangeCheck x.sg (cmdAddr x.word) 128 true false = some va →
      readRange s c x va 128 = .ok (block, marks) u →
      (blockOk block ops = false → exec (.breSum c k) s = .next (refused u c .reduction x 2)) ∧
      (blockOk block ops = true → bitsOf (blockWord block 9) 2 0 = 0 → ∀ v, rangesOk c x (blockRanges block ops) u = .ok true v →
        ∃ t, exec (.breSum c k) s = .next t ∧ t.mem = v.mem ∧ (t.coreOf c).reductionQ.map (·.kept) =
          (v.coreOf c).reductionQ.map fun y => if y.ident = x.ident then block else y.kept)) ∧
    (x.started = true → x.count < blockElems x.kept → ∀ l u va pa pol,
      operandLines c x x.kept x.count (List.range ops) s = .ok l u →
      rangeCheck x.sg (blockWord x.kept 8 + .ofNat 64 (4 * x.count)) 32 false true = some va → va % 256 + 32 ≤ 256 → Settled s →
      EngineAt s c x va pa pol false true → pa % 32 = 0 → ∃ t, exec (.breSum c k) s = .next t ∧
        Written s t pol pa 8 (fun j => (sumEight (l.map fun a => a.1 / 2 ^ (32 * j) % 2 ^ 32)).1) ∧
        (t.coreOf c).reductionQ.map (·.count) =
          (s.coreOf c).reductionQ.map fun y => if y.ident = x.ident then y.count + 8 else y.count) ∧
    (x.started = true → blockElems x.kept ≤ x.count →
      let out := writeOutAll s (clusterOf c)
      let u := noteWait s c x none
      let flag := (blockWord x.kept 10).toNat
      (combinesDst s c x = true → combinesDst out c x = true → (out.clusterAt (clusterOf c)).combine ≠ [] →
        exec (.breSum c k) s = .next out) ∧
      ∀ va pa pol, (combinesDst s c x = true → (s.clusterAt (clusterOf c)).combine = []) →
        rangeCheck x.sg (blockWord x.kept 9) 8 false true = some va → EngineAt s c x va pa pol false true → s.hostLines = [] →
        exec (.breSum c k) s = .next (completeCmd
          (if pol = .combine then combineStore u (clusterOf c) pa 8 flag none
            else noteGlobal (homeStore u pol pa 8 flag none) pa 8 (pol == .direct))
          c .reduction x (if x.poison then 6 else 0) x.flags x.poison ops))

/-- R67, R226, R410, R422–R427: the collective commands. A leaf of another member that arrives is kept with its identifier's
instance. A command of a module that is no member, or for an identifier without a mask unless it is cle.msk, is refused with 4. Once
every member has pushed or left, members that pushed different commands get 2; else cle.ms writes its merged chunks and cle.bc the
lowest present rank's, each poisoned word of a chunk poisoned, chunk by chunk, and completes after the last; cle.msk completes with
a new mask: the bitmap pushed, within the membership. Where a command that got 2 puts its token is log entry 163's, and that the
tokens carry no flags is log entry 166's choice. -/
def Obligations.Collectives : Prop :=
  (∀ (s : State) (a : LeafArrival), let m := s.memberOf a.ctag
    (m.valid = true → a.rank ∉ m.removed → a.rank ≠ m.self.toNat → a.code ≠ 0x72 → findColl s a.ctag a.coll = none →
      exec (.clePartialArrival a) s = .next { s with colls := s.colls ++ [{ Coll.new a.ctag a.coll with
        heard := ({} : Table Nat).set a.rank (a.turn + 1), current := { leaves := [a] } }] }) ∧
    (m.valid = false ∨ (a.rank ∈ m.removed ∧ a.code ≠ 0x72) → exec (.clePartialArrival a) s = .next s)) ∧
  ∀ (s : State) (c k code : Nat) (i : Instr) (x : Cmd),
    (code, i) ∈ [(0x70, Instr.cleMs c k), (0x71, .cleBc c k), (0x72, .cleMsk c k)] → cleCmd s c k code = some x →
    (x.started = false → (isMember s x.ctag = false ∨ (code ≠ 0x72 ∧ findColl s x.ctag (cleColl x.word) = none)) →
      exec i s = .next (refused s c .collective x 4)) ∧
    (x.started = true → isMember s x.ctag = true → ∀ n, findColl s x.ctag (cleColl x.word) = some n → instanceReady s n = true →
      let ranks := instanceRanks s n
      let chunks := bitsOf x.word 223 192 / 16
      (instanceMixed s n x = true → exec i s = .next (completeCmd (endInstance s n) c .collective x 2 0 x.poison 0)) ∧
      (instanceMixed s n x = false → code ≠ 0x72 →
        let chunk := fun j => if code = 0x70 then mergeChunk s n ranks j else bcChunk n ranks j
        let value := if code = 0x70 then (ranks.filter fun r => (List.range chunks).any fun j => (goodChunk n r j).isSome).length
          else (lowestPresent n ranks).getD 0xFFFFFFFF
        (chunks ≤ x.count → exec i s = .next (completeCmd (endInstance s n) c .collective x
          (if x.status = 5 then 5 else if x.poison then 6 else 0) 0 x.poison value)) ∧
        (x.count < chunks → ∀ va lost u, rangeCheck x.sg (cleDst x.word) (cleBytes x.word) false true = some va →
          writeRange recordStore s c x (va + 144 * x.count) 144 (chunk x.count).1
            (fun off m => (pieceWords off m).any (chunk x.count).2.contains) = .ok lost u →
          ∃ t, exec i s = .next t ∧ t.mem = u.mem ∧ (t.coreOf c).collectiveQ.map (·.count) =
            (u.coreOf c).collectiveQ.map fun y => if y.ident = x.ident then y.count + 1 else y.count)) ∧
      (instanceMixed s n x = false → code = 0x72 → isOutside s n = false → ∀ b, (∀ a ∈ n.current.leaves, a.code = 0x72 ∧ a.bitmap = b) →
        n.current.leaves ≠ [] → (∀ a ∈ n.current.leaves, a.rank ∈ ranks) →
        ∃ t m, exec i s = .next t ∧ (findColl t x.ctag (cleColl x.word)).map (·.mask) = some (some m) ∧
          m = b.filter (fun r => decide (r < (s.memberOf x.ctag).n.toNat)) ∧
          (t.coreOf c).collectiveQ = (s.coreOf c).collectiveQ.filter (fun y => y.ident != x.ident)))

/-! ## Groups and capsules -/

/-- Access(a, n, right) on a block of the issuing thread's own scratchpad succeeds, its entry asking for a multiple of `align`
(R108). -/
def Sys2Proof.Claims.LocalBlock (s : State) (a : Word) (n align off : Nat) (r w : Bool) : Prop :=
  let q := vget s.me.sg 0 (bitsOf a 63 61)
  let p := bitsOf q 56 0 + bitsOf a 60 0
  bitAt q 127 = true ∧ (r = true → bitAt q 124 = true) ∧ (w = true → bitAt q 125 = true) ∧
    bitsOf a 60 0 + n - 1 ≤ bitsOf q 120 64 ∧ a.toNat % align = 0 ∧ (n ∈ [1, 2, 4, 8] → p % n = 0) ∧ bitsOf q 123 122 = 1 ∧
    off = p + slotRebase s s.core s.slot ∧ off + n ≤ 2 ^ 21 ∧ s.me.origin = none

/-- A word of a group's statistics buffer (R415): word 0 is the count, then mean and M2 of each element. -/
def Sys2Proof.Claims.statAt (t : State) (cl : Nat) (g : Group) (one : Bool) (off : Nat) : Nat :=
  t.mem.readN (padAddr (clusterCore cl g.core.toNat) ((if one then g.buf1 else g.buf0).toNat * 32 + off)) 4

/-- The bytes outside one of a group's buffers are as before. -/
def Sys2Proof.Claims.OutsideBuffer (s t : State) (cl : Nat) (g : Group) (one : Bool) : Prop :=
  let b := padAddr (clusterCore cl g.core.toNat) ((if one then g.buf1 else g.buf0).toNat * 32)
  ∀ a, (a < b ∨ b + (4 + 8 * g.e.toNat) ≤ a) → t.mem.read a = s.mem.read a

/-- R64, R232, R416, R417: gacc with its words in the thread's scratchpad. A bad group word is an illegal operand; a group not
configured for the thread's context answers 3, whatever the address of the words is (the order is log entry 108's); a tag outside the window counts as stale and answers 1; poisoned words answer 4 and
are dropped; else the buffer's count goes up by one and every element takes its Welford update, nothing else of memory changes, and
the answer is 0 for the current buffer and 2 for the next; a current buffer that reaches nmax closes the group, once the journal's
lines are the device's. -/
def Sys2Proof.Claims.Contributions : Prop :=
  ∀ (rd ra rb : BitVec 6) (s : State) (off : Nat), s.runs (.gacc rd ra rb) = true → s.me.reservation = .free →
    let w := s.me.readG ra.toNat
    let cl := bitsOf w 12 6
    let gi := bitsOf w 5 0
    let g := s.groupOf cl gi
    let tag := bitsOf w 63 32
    let first := (if g.state = 1 then g.s.toNat else g.s.toNat + 1) - g.w.toNat
    let i : Instr := .gacc rd ra rb
    (bitsOf w 31 13 ≠ 0 ∨ 79 < cl → exec i s = .next (trapHere (s.noted i) .illegalOperand)) ∧
    (bitsOf w 31 13 = 0 → cl ≤ 79 → (g.state = 0 ∨ g.ctag ≠ s.me.ctag) → ∃ t, exec i s = .next t ∧ Answers s t (some rd) 3 ∧
      t.mem = s.mem ∧ t.clusters = s.clusters) ∧
    (bitsOf w 31 13 = 0 → cl ≤ 79 → g.state ≠ 0 → g.ctag = s.me.ctag →
      LocalBlock s (s.me.readG rb.toNat) (4 * g.e.toNat) 4 off true false →
      let bad := poisonedIn s.poison (padAddr s.core off) (4 * g.e.toNat)
      let b := if g.state = 1 then g.v else !g.v
      let n := statAt s cl g b 0
      (tag < first ∨ g.s.toNat < tag → ∃ t, exec i s = .next t ∧ Answers s t (some rd) 1 ∧ t.mem = s.mem ∧
        t.groupOf cl gi = { g with stale := .ofNat 32 (min (g.stale.toNat + 1) (2 ^ 32 - 1)) }) ∧
      (first ≤ tag → tag ≤ g.s.toNat →
        (bad = true → ∃ t, exec i s = .next t ∧ Answers s t (some rd) 4 ∧ t.me.pois = true ∧ t.mem = s.mem) ∧
        (bad = false → s.watches = [] → g.e ≠ 0 → n < 2 ^ 32 - 1 →
          ((g.state ≠ 1 ∨ (n + 1 < g.nmin.toNat ∧ n + 1 < g.nmax.toNat)) → ∃ t, exec i s = .next t ∧
            Answers s t (some rd) (if g.state = 1 then 0 else 2) ∧ statAt t cl g b 0 = n + 1 ∧ OutsideBuffer s t cl g b ∧
            (t.groupOf cl gi).state = g.state ∧ (t.groupOf cl gi).s = g.s ∧
            ∀ e u, e < g.e.toNat → u = welford (n + 1) (statAt s cl g b (4 + 8 * e)) (statAt s cl g b (8 + 8 * e))
                (s.mem.readN (padAddr s.core (off + 4 * e)) 4) →
              statAt t cl g b (4 + 8 * e) = u.1 ∧ statAt t cl g b (8 + 8 * e) = u.2.1) ∧
          (g.state = 1 → g.nmax.toNat ≤ n + 1 → TablesOpen s → ∃ t, exec i s = .next t ∧ Answers s t (some rd) 0 ∧
            (t.groupOf cl gi).state = 2))))

/-- R233, R234, R417–R421, R429: gstat answers the word chosen, and 0 for a group not configured for the thread's context; gclose,
gflip and gjoin answer 3 there, gjoin whatever its entry's address is (log entry 108). gclose closes an open group with a count (0), else answers 1 or 2. gflip of an applying group clears
its current buffer and reopens it on the other at the next step (0), where the new count reaches no close; else 1; it waits as .rel,
which is how R432's order is kept. gjoin of an entry
for the open group's step clears both buffers and moves it on a step with the entry's figure (0); a malformed entry answers 2. -/
def Sys2Proof.Claims.GroupSteps : Prop :=
  ∀ (rd ra rb : BitVec 6) (s : State) (off : Nat), s.me.reservation = .free →
    let w := s.me.readG ra.toNat
    let cl := bitsOf w 12 6
    let gi := bitsOf w 5 0
    let g := s.groupOf cl gi
    let mine := g.state ≠ 0 ∧ g.ctag = s.me.ctag
    let n := statAt s cl g g.v 0
    let answers := fun (i : Instr) (v : Word) => ∃ t, exec i s = .next t ∧ Answers s t (some rd) v ∧ t.mem = s.mem ∧ t.clusters = s.clusters
    bitsOf w 63 13 = 0 → cl ≤ 79 →
    (s.runs (.gstat rd ra rb) = true → ∀ k, s.me.readG rb.toNat = .ofNat 64 k → k ≤ 4 →
      (¬ mine → answers (.gstat rd ra rb) 0) ∧
      (mine → poisonedIn s.poison (padAddr (clusterCore cl g.core.toNat) ((if g.v then g.buf1 else g.buf0).toNat * 32)) 4 = false →
        answers (.gstat rd ra rb) (.ofNat 64 (([g.state.toNat + (if g.v then 4 else 0) + g.s.toNat * 2 ^ 32,
          n + g.stale.toNat * 2 ^ 32, g.snr.toNat, g.t.toNat + g.w.toNat * 2 ^ 32, g.nmin.toNat + g.nmax.toNat * 2 ^ 32]).getD k 0)))) ∧
    (s.runs (.gclose rd ra) = true →
      (¬ mine → answers (.gclose rd ra) 3) ∧ (mine → g.state ≠ 1 → answers (.gclose rd ra) 1) ∧
      (mine → g.state = 1 → n = 0 → answers (.gclose rd ra) 2) ∧
      (mine → g.state = 1 → n ≠ 0 → TablesOpen s → ∃ t, exec (.gclose rd ra) s = .next t ∧ Answers s t (some rd) 0 ∧ (t.groupOf cl gi).state = 2)) ∧
    (s.runs (.gflip rd ra) = true → releaseHolds (s.noted (.gflip rd ra)) s.core s.slot = false →
      exec (.gflip rd ra) s = .next (pollFor (s.noted (.gflip rd ra)) .memoryWait .release)) ∧
    (s.runs (.gflip rd ra) = true → releaseHolds (s.noted (.gflip rd ra)) s.core s.slot = true →
      (¬ mine → answers (.gflip rd ra) 3) ∧ (mine → g.state ≠ 3 → answers (.gflip rd ra) 1) ∧
      (mine → g.state = 3 → s.watches = [] → (g.buf0.toNat * 32 + (4 + 8 * g.e.toNat) ≤ g.buf1.toNat * 32 ∨
          g.buf1.toNat * 32 + (4 + 8 * g.e.toNat) ≤ g.buf0.toNat * 32) →
        statAt s cl g (!g.v) 0 < g.nmin.toNat → statAt s cl g (!g.v) 0 < g.nmax.toNat →
        ∃ t, exec (.gflip rd ra) s = .next t ∧ Answers s t (some rd) 0 ∧ OutsideBuffer s t cl g g.v ∧
          (∀ k, k ≤ 2 * g.e.toNat → statAt t cl g g.v (4 * k) = 0) ∧
          (let h := t.groupOf cl gi
           h.state = 1 ∧ h.v = (!g.v) ∧ h.s = g.s + 1 ∧ h.w = g.w ∧ h.e = g.e))) ∧
    (s.runs (.gjoin rd ra rb) = true →
      (¬ mine → answers (.gjoin rd ra rb) 3) ∧
      (mine → LocalBlock s (s.me.readG rb.toNat) 64 64 off true false → poisonedIn s.poison (padAddr s.core off) 64 = false →
        let d := s.mem.readN (padAddr s.core off) 64
        (g.state ≠ 1 → answers (.gjoin rd ra rb) 1) ∧
        (g.state = 1 → entryBad d g = true → answers (.gjoin rd ra rb) 2) ∧
        (g.state = 1 → entryBad d g = false → bytesAt d 0 4 ≠ g.s.toNat → answers (.gjoin rd ra rb) 1) ∧
        (g.state = 1 → entryBad d g = false → bytesAt d 0 4 = g.s.toNat → ∃ t, exec (.gjoin rd ra rb) s = .next t ∧
          Answers s t (some rd) 0 ∧ t.groupOf cl gi = { g with v := !g.v, s := g.s + 1, snr := .ofNat 32 (bytesAt d 8 4) } ∧
          ∀ one k, k ≤ 2 * g.e.toNat → statAt t cl g one (4 * k) = 0)))

/-- R242, R413, R414, R418: a configuring write to gent0 that its unit takes opens the group at the step and buffer written, its
buffers zero, its figure NaN and its counts 0, and a value that breaks R414 traps the pilot; a write of 0 unconfigures a group. An
apply task that was refused is submitted again 1,024 cycles later, and not before. -/
def Sys2Proof.Claims.GroupConfiguration : Prop :=
  (∀ (core : Nat) (s u : State) (v : Word), takeUnit s core 0x171 = some (v, u) →
    let cl := clusterOf core
    let gi := (s.coreOf core).gsel.toNat
    let g := { s.groupOf cl gi with s := .ofNat 32 (bitsOf v 63 32), w := .ofNat 16 (bitsOf v 31 16), ctag := .ofNat 4 (bitsOf v 15 12),
                                    core := .ofNat 4 (bitsOf v 11 8), v := bitAt v 2 }
    (bitsOf v 1 0 = 1 → (s.groupOf cl gi).state = 0 → configureOk g = true → ∃ t, exec (.gent0Configure core) s = .next t ∧
      t.groupOf cl gi = { g with state := 1, stale := 0, jcount := 0, snr := 0x7FC00000, retry := none, config := g.config + 1 } ∧
      ∀ one k, k ≤ 2 * g.e.toNat → statAt t cl g one (4 * k) = 0) ∧
    (bitsOf v 1 0 = 1 → ((s.groupOf cl gi).state ≠ 0 ∨ configureOk g = false) →
      exec (.gent0Configure core) s = .next (takeTrap u core 7 .illegalOperand 0 0 0)) ∧
    (v = 0 → ∃ t, exec (.gent0Unconfigure core) s = .next t ∧ (t.groupOf cl gi).state = 0 ∧ t.mem = s.mem)) ∧
  (∀ (cl gi : Nat) (s : State) (r : TaskRec), TablesOpen s → (s.groupOf cl gi).retry = some r → (s.groupOf cl gi).state = 2 →
    ((s.groupOf cl gi).retryAt + 1024 ≤ s.clock → ∃ t, exec (.applyTaskRetry cl gi) s = .next t ∧
      (t.groupOf cl gi).state = 2 ∧ (t.groupOf cl gi).retryAt = s.clock ∧
      (placedInBand s r.lid cl = true → clusterGone s cl = false → (s.clusterAt cl).bank.length < 2048 →
        (s.clusterAt cl).ring = [] → (t.groupOf cl gi).retry = none ∧ (t.clusterAt cl).bank = (s.clusterAt cl).bank ++ [r]) ∧
      (clusterGone s cl = true → (t.groupOf cl gi).retry = some r)) ∧
    (s.clock < (s.groupOf cl gi).retryAt + 1024 → exec (.applyTaskRetry cl gi) s = .next s))

/-- The bytes of a landing image in a buffer. -/
def Sys2Proof.Claims.imageOf (s : State) (c b : Nat) : Nat := s.mem.readN (bufAddr c b 0) 4512

/-- R227, R228, R230, R231, R306–R309: the capsule instructions. cnew, its checks made and its waits over, makes a capsule in a free
outbound buffer: its number with the core in the header, the class's manifest, and the tile's bytes; and answers that number. cfwd at
the last step ends the thread and frees the buffer. cpark ends the thread with its step undone and parks the capsule under the key;
a key with bit 31 is an illegal operand. cins, cdel and crep rewrite the future steps and answer 0; a place beyond them answers 2, a
malformed step 3, a manifest of 16 steps 1. -/
def Obligations.CapsuleInstructions : Prop :=
  (∀ (rd ra : BitVec 6) (c : BitVec 12) (s : State) (p : Placed) (off b : Nat),
    let i : Instr := .cnew rd ra c
    let d := classEntry (s.noted i) p.record c.toNat
    let entry := d.1
    let n := d.2
    let tile := bytesAt entry 0 2
    s.runs i = true → s.me.reservation = .free → findPlaced s s.me.lid = some p →
    (p.record.classes ≤ c.toNat → exec i s = .next (trapHere (s.noted i) .illegalOperand)) ∧
    (c.toNat < p.record.classes → LocalBlock s (s.me.readG ra.toNat) tile 1 off true false → (s.me.readG ra.toNat).toNat % 4 = 0 →
      releaseHolds n s.core s.slot = true → fenceBankHolds n s.core s.slot 0x800000 = true → freeFerry n s.core = some b →
      resultRefused rd (capsuleIdent n) = false →
      let number := (n.coreOf s.core).capsules
      let made := makeCapsule (n.modCore s.core fun r => { r with capsules := number + 1 }) b c.toNat entry (padAddr s.core off) number
      let t := postReply (leaveRotation (endReservation (sendCapsule (setBufUse made s.core b .landed) s.core b)
          s.core s.slot) s.core s.slot .engineWait (.reply (some rd) false)) s.core s.slot
          (.ofNat 64 (number.toNat + s.core * 2 ^ 32))
      exec i s = .next (askHost s t) ∧ (TablesOpen s → exec i s = .next t))) ∧
  (∀ (s : State) (b cls entry pad : Nat) (number : BitVec 32), s.core < 2 ^ 16 → cls < 256 → bytesAt entry 2 1 ≤ 16 →
    bytesAt entry 0 2 ≤ 4096 → pad + 4096 ≤ 2 ^ 53 → b < 6 →
    let t := makeCapsule s b cls entry pad number
    bufN t s.core b 0 8 = number.toNat + s.core * 2 ^ 32 ∧ bufN t s.core b 8 4 = s.me.lid.toNat ∧
      bufN t s.core b 416 (bytesAt entry 0 2) = s.mem.readN pad (bytesAt entry 0 2) ∧
      manifest t s.core b = (List.range (bytesAt entry 2 1)).map fun i => stepAt entry (64 + 16 * i)) ∧
  (∀ (s : State) (b : Nat), s.me.capsule = some b → b < 6 → s.queued = [] → (∀ g, s.me.reservation ≠ .global g) →
    s.me.pending = [] → s.me.qe = Vector.replicate 8 [] → (s.coreOf s.core).heldTokens = [] →
    (s.runs .cfwd = true → releaseHolds (s.noted .cfwd) s.core s.slot = true → commandsDone (s.noted .cfwd) s.core s.slot = true →
      (manifest s s.core b).length = 1 → ∃ t, exec .cfwd s = .next t ∧ t.me = Slot.blank ∧ bufUse t s.core b = .free ∧
        imageOf t s.core b = 0) ∧
    ∀ ra : BitVec 6, s.runs (.cpark ra) = true → ra.toNat < 32 →
      let key := s.me.readG ra.toNat
      (bitAt key 31 = true → exec (.cpark ra) s = .next (trapHere (s.noted (.cpark ra)) .illegalOperand)) ∧
      (bitAt key 31 = false → releaseHolds (s.noted (.cpark ra)) s.core s.slot = true →
        commandsDone (s.noted (.cpark ra)) s.core s.slot = true → ∃ t n, exec (.cpark ra) s = .next t ∧ t.me = Slot.blank ∧
          bufUse t s.core b = .parked false (key.setWidth 32) n ∧ manifest t s.core b = manifest s s.core b)) ∧
  (∀ (rd ra rb : BitVec 6) (s : State) (b off : Nat), s.me.capsule = some b → b < 6 →
    let p := (s.me.readG ra.toNat).toNat
    let d := s.mem.readN (padAddr s.core off) 16
    let step := stepAt d 0
    let steps := manifest s s.core b
    let future := steps.length - 1
    let read := fun (i : Instr) => dropAnswers (bankTurnAt (s.noted i) s.core off 16) s.core s.slot
    let gives := fun (i : Instr) (v : Word) => exec i s = .next (writeNext rd v (read i) (read i))
    let rewrites := fun (i : Instr) (l : List Step) => ∃ t, exec i s = .next (writeNext rd 0 t t) ∧ manifest t s.core b = l ∧
      ∀ c k, t.slotOf c k = (s.noted i).slotOf c k
    (LocalBlock s (s.me.readG rb.toNat) 16 16 off true false → poisonedIn s.poison (padAddr s.core off) 16 = false →
      (s.runs (.cins rd ra rb) = true → (future < p → gives (.cins rd ra rb) 2) ∧
        (p ≤ future → step.malformed (bufTile s s.core b) = true → gives (.cins rd ra rb) 3) ∧
        (p ≤ future → step.malformed (bufTile s s.core b) = false → (16 ≤ steps.length → gives (.cins rd ra rb) 1) ∧
          (steps.length < 16 → rewrites (.cins rd ra rb) (steps.insertIdx (p + 1) step)))) ∧
      (s.runs (.crep rd ra rb) = true → (future ≤ p → gives (.crep rd ra rb) 2) ∧
        (p < future → step.malformed (bufTile s s.core b) = true → gives (.crep rd ra rb) 3) ∧
        (p < future → step.malformed (bufTile s s.core b) = false → rewrites (.crep rd ra rb) (steps.set (p + 1) step)))) ∧
    (s.runs (.cdel rd ra) = true → (future ≤ p →
        exec (.cdel rd ra) s = .next (writeNext rd 2 (s.noted (.cdel rd ra)) (s.noted (.cdel rd ra)))) ∧
      (p < future → rewrites (.cdel rd ra) (steps.eraseIdx (p + 1)))))

/-- R37, R281, R311–R315, R320–R322: travel. A landing request that arrives is admitted where none else waits, and turned away to
the harbour (reason 1) where the core is out of service. The oldest admitted request gets a free landing buffer: its image leaves for
it whole, and the sender's buffer is free; landed, it stands there. 8,192 cycles after admission the request is withdrawn (reason 3).
While no buffer is free and a request has waited 1,024 cycles, a parked capsule gives up its buffer. A rover whose buffer is granted
leaves with its PC, registers, predicates, segments, tags, task and poison bit, its slot empty; one that gets none goes on from where
it is; one that lands takes the lowest empty slot. Where a table's
lines have to be asked for, the step waits (`askHost`). -/
def Sys2Proof.Claims.Landings : Prop :=
  (∀ (s : State) (r : LandReq), s.wants = [] → s.landReqs = [r] → r.rover = none → r.inbound = none →
    let gone := { s with landReqs := [] }
    (∀ t, unsentCrossing s r = some t → exec (.landingRequest 0) s = .next
      (if peerHeld s (bufCtag s r.core r.buf) (bitsOf t.d0 15 0) then s else askHost s (startCrossing gone r.core r.buf t))) ∧
    (unsentCrossing s r = none → r.admitted = false →
      (s.inService r.dest = true → exec (.landingRequest 0) s = .next
        { s with landReqs := [{ r with admitted := true, since := (s.coreOf r.dest).cycle }] }) ∧
      (s.inService r.dest = false → exec (.landingRequest 0) s = .next (askHost s (toHarbour gone r.core r.buf 1)))) ∧
    (r.admitted = true → s.crossings = [] →
      (freeLanding s r.dest = none → exec (.landingGrant r.dest) s = .next s) ∧
      ∀ b, freeLanding s r.dest = some b → ∃ u, exec (.landingGrant r.dest) s = .next u ∧ u.landReqs = [] ∧
        u.transits = s.transits ++ [⟨r.core, r.buf, r.dest, b, none, false⟩] ∧
        (r.buf < 6 → ¬ (r.core = r.dest ∧ r.buf = b) → bufUse u r.dest b = .awaited ∧ bufUse u r.core r.buf = .free ∧
          imageOf u r.dest b = imageOf s r.core r.buf)) ∧
    (r.admitted = true → r.since.toNat + 8192 ≤ (s.coreOf r.dest).cycle.toNat → exec (.landingRequestTimeout 0) s =
      .next (askHost s (toHarbour gone r.core r.buf 3))) ∧
    (r.admitted = true → (s.coreOf r.dest).cycle.toNat < r.since.toNat + 8192 → exec (.landingRequestTimeout 0) s = .next s) ∧
    (r.admitted = true → freeLanding s r.dest = none → ∀ b folded key n, b < 4 → bufUse s r.dest b = .parked folded key n →
      (∀ d, d < 4 → d ≠ b → parkedUse s r.dest d = none) →
      (r.since.toNat + 1024 ≤ (s.coreOf r.dest).cycle.toNat → exec (.bufferNeeded r.dest) s =
        .next (askHost s (grantBuffer (toHarbour s r.dest b (if folded then 4 else 5)) r.dest))) ∧
      ((s.coreOf r.dest).cycle.toNat < r.since.toNat + 1024 → exec (.bufferNeeded r.dest) s = .next s))) ∧
  (∀ (s : State) (r : LandReq) (k : Nat), s.wants = [] → s.queued = [] → s.landReqs = [r] → r.rover = some k → k < 8 →
    let x := s.slotOf r.core k
    (x.wait ≠ .landing → ∃ u, exec (.landingRequest 0) s = .next u ∧ u.landReqs = [] ∧ u.slotOf r.core k = x) ∧
    (x.wait = .landing → (s.inService r.dest = false ∨ freeLanding s r.dest = none) → exec (.landingRequest 0) s =
      .next (goOn ({ s with landReqs := [] }.modSlot r.core k fun y => { y with stay := true }) r.core k)) ∧
    (x.wait = .landing → s.inService r.dest = true → ∀ b, freeLanding s r.dest = some b → ∃ u y,
      exec (.landingRequest 0) s = .next u ∧ u.transits = s.transits ++ [⟨r.core, k, r.dest, b, some y, false⟩] ∧
      u.slotOf r.core k = Slot.blank ∧ u.mem = s.mem ∧ y.pc = x.pc ∧ y.pred = x.pred ∧ y.sg = x.sg ∧ y.ctag = x.ctag ∧ y.lid = x.lid ∧
      y.g = x.g ∧ y.task = x.task ∧ y.pois = x.pois)) ∧
  (∀ (s : State) (t : Transit), s.transits = [t] →
    (t.rover = none → exec (.capsuleLanded 0) s = .next (setBufUse { s with transits := [] } t.dest t.destBuf .landed)) ∧
    (∀ x j, t.rover = some x → j < 7 → (s.slotOf t.dest j).status = .empty → (∀ i, i < j → (s.slotOf t.dest i).status ≠ .empty) →
      let n := (s.coreOf t.dest).cycle
      ∃ u, exec (.roverLanding 0) s = .next u ∧ u.transits = [] ∧ u.mem = s.mem ∧ bufUse u t.dest t.destBuf = .free ∧
        u.slotOf t.dest j = { x with status := .placed, boundary := .ofNat 64 ((n.toNat / 8 + 1) * 8), firstIssue := true, last := n
                                     stay := true }) ∧
    (∀ x, t.rover = some x → (∀ i, i < 7 → (s.slotOf t.dest i).status ≠ .empty) →
      exec (.roverLanding 0) s = .next { s with transits := [{ t with arrived := true }] }))

/-- R310, R315–R318, R320, R323, R448: a landed thread step starts in the lowest open empty slot, at its entry with its parameter, the
capsule's number and the steps after it, or, folded, at its resume block's PC with its registers. A landed bank step performs its
command element by element; of a fill, each writes its one word, and after the last the capsule goes on. A harbour task that was
refused is submitted again 1,024 cycles later. A capsule from another module lands in the buffer granted to it, under the receiving
launch's number, and its sender is told; the grant is found by core and context (log entry 137), and where no launch may receive it
any more the buffer frees and the sender is not told (log entry 167's choice). A poisoned header or a failed core destroys it, and a
fenced core sends it to the harbour (reason 7). Where a table's lines have to be asked for, the step waits (`askHost`). -/
def Sys2Proof.Claims.CapsuleSteps : Prop :=
  (∀ (s : State) (c b k : Nat) (t : Step) (steps : List Step) (r : Launch) (more : List Nat), b < 4 → bufUse s c b = .landed →
    manifest s c b = t :: steps → s.wants = [] →
    (launchRecord s (bufLaunch s c b) = some r → s.inService c = true → bitsOf t.d0 63 62 = 1 →
      (openSlots s c = k :: more → (needSegments s r).wants = [] → ∃ u, exec (.capsuleStepStart c b) s = .next u ∧ u.mem = s.mem ∧
        bufUse u c b = .running k ∧ (let y := u.slotOf c k
          y.status = .placed ∧ y.capsule = some b ∧ y.lid = r.lid ∧ y.rank = 0xFFFF ∧
          (bufFlag s c b 1 = false → y.pc = t.d1 ∧ vget y.g 0 1 = .ofNat 64 (bitsOf t.d0 31 0) ∧
            vget y.g 0 2 = .ofNat 64 (bufN s c b 0 8) ∧ vget y.g 0 3 = .ofNat 64 (bufSteps s c b - 1)) ∧
          (bufFlag s c b 1 = true → y.pc = .ofNat 64 (bufN s c b 320 8) ∧
            ∀ i, i < 10 → vget y.g 0 (i + 1) = .ofNat 64 (bufN s c b (320 + 8 * (i + 1)) 8)))) ∧
      (openSlots s c = [] → exec (.capsuleStepStart c b) s = .next s)) ∧
    (bitsOf t.d0 63 62 = 2 →
      let n := needFold s c (bufCtag s c b) t
      let run := stepRun n c b t
      run.addr + 4 * run.count ≤ 2 ^ 21 → exec (.bankStep c b) s =
        .next (askHost s (bankStepOn (setBufUse n c b (.banking { run := run })) c b { run := run })))) ∧
  (∀ (s : State) (c b : Nat) (x : BankRun), bufUse s c b = .banking x → b < 6 → s.watches = [] → s.wants = [] →
    (ableElements s c b x = [] → exec (.bankStep c b) s = .next s) ∧
    (ableElements s c b x ≠ [] → x.run.code = 0x39 → ∃ e y u, e ∈ ableElements s c b x ∧ y.run = x.run ∧ y.next = x.next + 1 ∧
      y.done = x.done ++ [x.run.bank e] ∧ bufUse u c b = .banking y ∧ u.wants = [] ∧
      (let p := padAddr x.run.core (x.run.addr + 4 * e)
       u.mem.readN p 4 = x.run.opa % 2 ^ 32 ∧ ∀ a, (a < p ∨ p + 4 ≤ a) → u.mem.read a = s.mem.read a) ∧
      exec (.bankStep c b) s = .next (askHost s (if x.next + 1 = x.run.count then finishBankStep u c b y else u)))) ∧
  (∀ (s : State) (r : TaskRetry), s.taskRetries = [r] → s.wants = [] →
    (r.since + 1024 ≤ s.clock → exec (.harbourTaskRetry 0) s =
      .next (askHost s (submitHarbour { s with taskRetries := [] } r.core r.record))) ∧
    (s.clock < r.since + 1024 → exec (.harbourTaskRetry 0) s = .next s)) ∧
  (∀ (s : State) (a : CapsuleArrival), s.wants = [] →
    ((contextOfMid s a.mid).bind (grantedTo s a.core) = none → exec (.crossingLanding a) s = .next s) ∧
    (∀ g, (contextOfMid s a.mid).bind (grantedTo s a.core) = some g → receivingLaunch s a = none →
      exec (.crossingLanding a) s = .next (freeBuf { s with granted := s.granted.erase g } a.core g.buf)) ∧
    (∀ r g, (contextOfMid s a.mid).bind (grantedTo s a.core) = some g → receivingLaunch s a = some r →
      let u := landImage (answerInbound { s with granted := s.granted.erase g } g.inbound 0) a.core g.buf r a
      let lost := a.partPoisoned = true ∨ tileOk (bufTile u a.core g.buf) = false ∨ (s.coreOf a.core).failed = true
      bufN u a.core g.buf 8 4 = r.lid.toNat ∧
      (lost → exec (.crossingLanding a) s = .next (askHost s (destroyCapsule u a.core g.buf))) ∧
      (¬ lost → (s.coreOf a.core).fenced = true → exec (.crossingLanding a) s = .next (askHost s (toHarbour u a.core g.buf 7))) ∧
      (¬ lost → (s.coreOf a.core).fenced = false → exec (.crossingLanding a) s =
        .next (askHost s (sendCapsule (setBufUse u a.core g.buf .landed) a.core g.buf)))))

/-! ## Scheduler and translation -/

/-- R242, R359–R363, R402: launches are submitted by the pilot and by the host, once the device is ready, with one rule: a malformed
record has status 2, a poisoned one 4, one whose band lies outside the grid 3, a full class queue 1, and a good record is queued behind the others with the next launch number, its error word
zero; a withdrawal takes a queued launch out (5) or finds none (6). A refused value has status 2 at the host, whose values are acted on
in the order written. A launch queued 2^22
cycles rises one class, and none before. -/
def Obligations.LaunchQueues : Prop :=
  (∀ (s u : State) (core : Nat) (v : Word),
    (takeUnit s core 0x120 = some (v, u) → exec (.lqsub core) s = .next (askHost s (unitDone
      ((submitQueued u v.toNat).2.modCore core fun r => { r with lqstat := (submitQueued u v.toNat).1 }) core))) ∧
    (takeUnit s core 0x122 = some (v, u) →
      ((∃ q ∈ u.queued, q.record.lid = v.setWidth 32) → exec (.lqdel core) s = .next (unitDone
        ({ u with queued := u.queued.filter (fun q => q.record.lid != v.setWidth 32), errWords := u.errWords.erase (v.setWidth 32).toNat }.modCore
          core fun r => { r with lqstat := 5 }) core)) ∧
      ((∀ q ∈ u.queued, q.record.lid ≠ v.setWidth 32) → exec (.lqdel core) s =
        .next (unitDone (u.modCore core fun r => { r with lqstat := 6 }) core)))) ∧
  (∀ (s : State) (v : Word), s.wants = [] →
    (bitAt s.ready 0 = false → exec (.hlqsub v) s = .next s ∧ exec (.hlqdel v) s = .next s) ∧
    (bitAt s.ready 0 = true →
      (∀ w rest, s.hlqReqs ++ [v] = w :: rest → let n := { s with hlqReqs := rest }
        (bitsOf w 6 0 ≠ 0 ∨ bitsOf w 63 52 ≠ 0 → exec (.hlqsub v) s = .next { n with hlqstat := 2 }) ∧
        (bitsOf w 6 0 = 0 → bitsOf w 63 52 = 0 → exec (.hlqsub v) s = .next (askHost { s with hlqReqs := s.hlqReqs ++ [v] }
          { (submitQueued n w.toNat).2 with hlqstat := (submitQueued n w.toNat).1 }))) ∧
      (bitsOf v 63 32 ≠ 0 → exec (.hlqdel v) s = .next { s with hlqstat := 2 }) ∧
      (bitsOf v 63 32 = 0 → (∀ q ∈ s.queued, q.record.lid ≠ v.setWidth 32) → exec (.hlqdel v) s = .next { s with hlqstat := 6 }) ∧
      (bitsOf v 63 32 = 0 → (∃ q ∈ s.queued, q.record.lid = v.setWidth 32) → exec (.hlqdel v) s = .next { s with
        hlqstat := 5, queued := s.queued.filter (fun q => q.record.lid != v.setWidth 32), errWords := s.errWords.erase (v.setWidth 32).toNat }))) ∧
  (∀ (s u : State) (pa d : Nat), tableRead s pa 128 = (d, true, u) → (parseLaunch d).classes = 0 → submitLaunch s pa = (4, 0, u)) ∧
  (∀ (s u : State) (pa d : Nat), tableRead s pa 128 = (d, false, u) → (parseLaunch d).classes = 0 →
    let r := { parseLaunch d with sections := s.images.get [] pa }
    let mine := u.queued.filter fun q => q.cls == r.cls
    (launchOk d r = false → submitLaunch s pa = (2, 0, u)) ∧
    (launchOk d r = true → r.fixed = true → bandInGrid r r.origin = false → submitLaunch s pa = (3, 0, u)) ∧
    (launchOk d r = true → (r.fixed = true → bandInGrid r r.origin = true) →
      (256 ≤ mine.length → submitLaunch s pa = (1, 0, u)) ∧
      (mine.length < 256 → ∃ t n, submitLaunch s pa = (0, u.nextLid, t) ∧ t.queued = u.queued ++ [⟨{ r with lid := u.nextLid }, r.cls, 0, n⟩] ∧
        t.nextLid = (if u.nextLid + 1 = 0 then 1 else u.nextLid + 1) ∧ t.errWords.get 0 u.nextLid.toNat = 0))) ∧
  (∀ (s : State) (q : Queued), s.queued = [q] → q.cls < 3 →
    (q.since + 2 ^ 22 ≤ s.clock → exec (.launchClassRise q.record.lid) s =
      .next { s with queued := [{ q with cls := q.cls + 1, since := s.clock }] }) ∧
    (s.clock < q.since + 2 ^ 22 → exec (.launchClassRise q.record.lid) s = .next s))

/-- R337, R367–R374, R399: where its tables are the device's, the launch whose turn it is has its oldest dispatchable record taken and a thread started at the record's entry, in its
first open place: its arguments in g1–g4, its rank 0xFFFF, the record's 64 bytes in the slot's task window, the record outstanding.
The spill engine refills a bank below 512 from its ring, and no other. A launch whose last work is done, with no COMBINE store of its
clusters left, completes: it is no longer placed, it joins the history, and its completion block is written. -/
def Obligations.DispatchAndCompletion : Prop :=
  (∀ (s : State) (cl : Nat), TablesOpen s → (dispatchChoice s cl = none → exec (.taskDispatch cl) s = .next s) ∧
    ∀ p c k r u, dispatchChoice s cl = some p → taskPlace s cl p = some (c, k) → takeTask s cl (dispatchable p) = some (r, u) → k < 7 →
      p.record.pair = false → r.poison = false → s.watches = [] → ∃ t, exec (.taskDispatch cl) s = .next t ∧
        (t.clusterAt cl).bank = (s.clusterAt cl).bank.erase r ∧
        t.outstanding = s.outstanding ++ [⟨c, k, 0x1FFE00 + 64 * k, r.lid, r⟩] ∧
        t.mem.readN (padAddr c (0x1FFE00 + 64 * k)) 64 = r.data.toNat ∧
        (let y := t.slotOf c k
         y.status = .placed ∧ y.pc = .ofNat 64 (bytesAt r.data.toNat 0 8) ∧ y.lid = p.record.lid ∧ y.rank = 0xFFFF ∧
           y.task = .ofNat 64 (0x1FFE00 + 64 * k) ∧ y.gang = false ∧ y.tasked = true ∧
           ∀ i, i < 4 → vget y.g 0 (i + 1) = .ofNat 64 (bytesAt r.data.toNat (32 + 8 * i) 8))) ∧
  (∀ (s : State) (cl : Nat), TablesOpen s → (512 ≤ (s.clusterAt cl).bank.length ∨ (s.clusterAt cl).ring = [] → exec (.spillRefill cl) s = .next s) ∧
    ∀ r d u, (s.clusterAt cl).bank.length < 512 → (s.clusterAt cl).ring = [r] →
      tableRead s ((s.clusterAt cl).tqbase.toNat + 64 * ((s.clusterAt cl).ringHead % (s.clusterAt cl).tqsize.toNat)) 64 = (d, false, u) →
      ∃ t, exec (.spillRefill cl) s = .next t ∧ t.mem = u.mem ∧ (t.clusterAt cl).ring = [] ∧
        (t.clusterAt cl).bank = (u.clusterAt cl).bank ++ [{ r with data := .ofNat 512 d, poison := false }]) ∧
  (∀ (s : State) (p : Placed), TablesOpen s → findPlaced s p.record.lid = some p →
    (launchDone s p = false → exec (.launchComplete p.record.lid) s = .next s) ∧
    (launchDone s p = true → combineBlocks s p = [] → s.queued = [] → s.history.length < 256 → s.pchs.entries = [] → Settled s →
      ∃ t, exec (.launchComplete p.record.lid) s = .next t ∧ t.placed = s.placed.filter (fun q => q.record.lid != p.record.lid) ∧
        t.history = s.history ++ [p.record.lid.toNat] ∧
        (p.record.cblk ≠ 0 → p.record.cblk.toNat % 16 = 0 → isPopulated p.record.cblk.toNat = true → isPopulated (p.record.cblk.toNat + 8) = true →
          apertureOf s p.record.cblk.toNat = none → apertureOf s (p.record.cblk.toNat + 8) = none →
          (homeLoad t .homed p.record.cblk.toNat 8).1 = p.record.cval.toNat ∧
          (homeLoad t .homed (p.record.cblk.toNat + 8) 8).1 = p.abandoned.toNat)))

/-- R20, R377–R387: a waiting request of a thread is answered when its page is translated, by the TLB or by a walk: its access goes on
at once, the slot staying out of rotation, and a fetch lets it issue. Where the walk fails, the thread is parked under the next key of its port and a record joins the port's
records. A walk that reaches a good leaf of a 64 KiB page whose flags need no update gives its frame and policy; an entry with V = 0
fails as kind 1, and one without the right as kind 2. A record is delivered to its context's queue where that has room, and its
notice sent. -/
def Obligations.TranslationAndFaults : Prop :=
  (∀ (s : State) (cl : Nat) (q : XlateReq), (s.clusterAt cl).waiting = [q] → q.slot < 8 →
    clusterOf q.core = cl → q.failed = none → (s.slotOf q.core q.slot).wait = .translation q.va q.exec →
    (s.slotOf q.core q.slot).docking = false →
    (∀ pa pol, translate s cl q.ctag q.va q.read q.write q.exec = .hit pa pol → ∃ t, exec (.tlbWalkComplete cl 0) s = .next t ∧
      t.mem = s.mem ∧ (t.clusterAt cl).waiting = [] ∧ (t.slotOf q.core q.slot).pc = (s.slotOf q.core q.slot).pc ∧
      (q.exec = true → (t.slotOf q.core q.slot).status.issues = true) ∧
      (q.exec = false → t.going = s.going ++ [(q.core, q.slot)] ∧ t.slotOf q.core q.slot = s.slotOf q.core q.slot)) ∧
    (translate s cl q.ctag q.va q.read q.write q.exec = .miss → ∀ x, (s.clusterAt cl).contexts.find? q.ctag.toNat = some x →
      x.hostProcess = false →
      (∀ e u, walk s cl q.ctag q.va q.read q.write q.exec = .leaf e u → exec (.tlbWalkComplete cl 0) s =
        .next (if q.exec then reissue (dropRequest u cl q) q.core q.slot else goOn (dropRequest u cl q) q.core q.slot)) ∧
      (∀ kind level, walk s cl q.ctag q.va q.read q.write q.exec = .failed kind level s → (s.clusterAt cl).records.length < 256 →
        (s.slotOf q.core q.slot).pair = .alone → (s.slotOf q.core q.slot).capsule = none → (s.slotOf q.core q.slot).reservation = .free →
        let key : BitVec 32 := .ofNat 32 (cl * 2 ^ 24 + (s.clusterAt cl).faults.toNat)
        ∃ t d, exec (.tlbWalkComplete cl 0) s = .next t ∧ t.mem = s.mem ∧ (t.slotOf q.core q.slot).status = .parked ∧
          (t.slotOf q.core q.slot).park = .fault key ∧ (t.slotOf q.core q.slot).pc = (s.slotOf q.core q.slot).pc ∧
          (t.clusterAt cl).waiting = [] ∧ (t.clusterAt cl).faults = (s.clusterAt cl).faults + 1 ∧
          (t.clusterAt cl).records = (s.clusterAt cl).records ++ [⟨q.ctag, d⟩] ∧
          bitsOf d 63 0 = q.va % 2 ^ 64 ∧ (q.va < 2 ^ 64 → bitsOf d 95 64 = key.toNat)))) ∧
  (∀ (s : State) (ctx : Context) (cl : Nat) (ctag : BitVec 4) (va table : Nat) (r w x : Bool) (l : HomeLine),
    let at_ := table + 8 * (va / 2 ^ 16 % 2 ^ 9)
    let e : Word := .ofNat 64 (l.data.toNat / 2 ^ (8 * (at_ % 32)))
    apertureOf s at_ = none → s.homes.find? (at_ / 32) = some l → l.poison = false →
    (bitAt e 0 = false → walkFrom ctx cl ctag va r w x [3] table s = .failed 1 3 s) ∧
    (bitAt e 0 = true → bitAt e 1 = true → bitsOf e 63 52 = 0 → bitsOf e 11 9 = 0 → bitsOf e 51 12 % 16 = 0 →
      ((r = true ∧ bitAt e 2 = false) ∨ (w = true ∧ bitAt e 3 = false) ∨ (x = true ∧ bitAt e 4 = false) →
        walkFrom ctx cl ctag va r w x [3] table s = .failed 2 3 s) ∧
      ((r = true → bitAt e 2 = true) → (w = true → bitAt e 3 = true ∧ bitAt e 6 = true) → (x = true → bitAt e 4 = true) →
        bitAt e 5 = true → ∃ n, walkFrom ctx cl ctag va r w x [3] table s = .leaf n s ∧ n.page = va / 2 ^ 16 * 2 ^ 16 ∧
          n.pa = bitsOf e 51 12 * 2 ^ 12 ∧ n.size = 0 ∧ n.policy = policyOf (bitsOf e 8 7) ∧ n.r = bitAt e 2 ∧ n.w = bitAt e 3 ∧
          n.x = bitAt e 4))) ∧
  (∀ (s u : State) (cl ends : Nat) (r : FaultRec) (rest : List FaultRec) (ctx : Context), TablesOpen s → (s.clusterAt cl).records = r :: rest →
    (s.clusterAt cl).contexts.find? r.ctag.toNat = some ctx → tableRead s (ctx.desc.toNat + 24) 8 = (ends, false, u) →
    let tail := bytesAt ends 0 4
    let held := (tail + 2 ^ 32 - bytesAt ends 4 4) % 2 ^ 32
    (ctx.fqsize = 0 ∨ held = ctx.fqsize → exec (.faultRecordDelivery cl) s = .next u) ∧
    (ctx.fqsize ≠ 0 → held ≠ ctx.fqsize → ∃ t, exec (.faultRecordDelivery cl) s = .next t ∧ (t.clusterAt cl).records = rest ∧
      (let w := tableWrite (tableWrite u (ctx.fqbase.toNat + 32 * (tail % ctx.fqsize)) 32 r.data.toNat false)
        (ctx.desc.toNat + 24) 4 ((tail + 1) % 2 ^ 32) false
       t.mem = w.mem ∧ t.homes = w.homes) ∧
      ∃ m, t.messages = u.messages ++ [m] ∧ m.dest = ctx.notify ∧ m.destSlot = 7 ∧ m.payload.val = .ofNat 64 tail))

/-- R242, R375, R376, R384, R388, R397: contexts and invalidation. A good descriptor loads its context's entry and a bad one leaves it
unloaded, and a write of 0 unloads it. tlbinv at its own port, once the accesses translated there for the context have been performed, takes out the entries it names and
no other; the host's invalidation takes a PASID's out at every port, and is complete when what they translated has been performed. pfwake lets the bursts held under its key go on. The host's
answer to a page request wakes the parked thread, which after a failure finds no address there; its answer to a translation request is
cached by the port that asked, and the thread's access or fetch goes on; where in the machine's address space the host's addresses stand is log entry
2's. -/
def Obligations.ContextsAndInvalidation : Prop :=
  (∀ (s u : State) (core : Nat) (v : Word), takeUnit s core 0x131 = some (v, u) →
    let cl := clusterOf core
    let tag := (s.coreOf core).ctxsel.toNat
    (v = 0 → ∃ t, exec (.ctxdescUnload core) s = .next t ∧ (t.clusterAt cl).contexts.find? tag = none ∧ t.mem = s.mem) ∧
    (v ≠ 0 → TablesOpen s → ∀ d bad w, tableRead u v.toNat 64 = (d, bad, w) → ∃ t, exec (.ctxdescLoad core) s = .next t ∧ t.mem = w.mem ∧
      (t.clusterAt cl).contexts.find? tag = if bad = false ∧ descriptorOk d = true then some (parseContext v.toNat d) else none)) ∧
  (∀ (desc d : Nat), let x := parseContext desc d
    x.root = .ofNat 52 (bytesAt d 0 8) ∧ x.pasid = .ofNat 20 (bytesAt d 8 4) ∧ x.fqsize = bytesAt d 12 4 ∧
      x.fqbase = .ofNat 52 (bytesAt d 16 8) ∧ x.notify = bytesAt d 32 2 ∧ x.foldtab = .ofNat 52 (bytesAt d 40 8)) ∧
  (∀ (s u : State) (core : Nat) (v : Word) (x : Context), takeUnit s core 0x132 = some (v, u) → bitAt v 8 = false →
    drained u (clusterOf core) (.ofNat 4 (bitsOf v 3 0)) = true →
    (u.clusterAt (clusterOf core)).contexts.find? (bitsOf v 3 0) = some x →
    let tag := if x.hostProcess then x.pasid.toNat else bitsOf v 3 0
    let gone := fun e : TlbEntry => e.named x.hostProcess tag (bitsOf v 56 16 * 2 ^ 16) (bitsOf v 6 5) (bitAt v 7)
    exec (.tlbinv core) s =
      .next (unitDone (u.modCluster (clusterOf core) fun p => { p with tlb := p.tlb.filter fun e => !(gone e) }) core)) ∧
  (∀ (s : State) (pasid : BitVec 20) (va : BitVec 57) (size : BitVec 2) (all : Bool), (∀ cl, (s.clusterAt cl).combine = []) →
    ∃ t, exec (.atsInvalidation pasid va size all) s = .next t ∧ t.mem = s.mem ∧ ∀ cl, cl < 80 →
      (t.clusterAt cl).tlb = (s.clusterAt cl).tlb.filter (fun e => !e.named true pasid.toNat va.toNat size.toNat all) ∧
      ((⟨pasid, va, size, all⟩ : AtsInvalidation) ∈ t.atsInvs ↔ pasidDrained s pasid = false)) ∧
  (∀ (s u : State) (core : Nat) (v : Word), takeUnit s core 0x133 = some (v, u) → core < 1280 → ∃ t, exec (.pfwake core) s = .next t ∧
    t.mem = s.mem ∧ ∀ e, (t.coreOf core).queue e = ((u.coreOf core).queue e).map fun x =>
      { x with held := x.held.filter fun h => h.2 != v.setWidth 32 }) ∧
  (∀ (s : State) (q : PageReq) (ok : Bool), s.pageReqs = [q] → q.engine = false → q.refused = false → q.slot < 8 →
    (∀ b, parkedUse s q.core b = none) →
    (let x := s.slotOf q.core q.slot
     x.pair = .alone ∧ x.park = .fault q.key ∧ x.docking = false ∧ x.haltPending = false) →
    ∃ t, exec (.pageGroupResponse q.key ok) s = .next t ∧ t.pageReqs = [] ∧ (t.slotOf q.core q.slot).status.issues = true ∧
      (t.slotOf q.core q.slot).park = .free ∧ (t.slotOf q.core q.slot).pc = (s.slotOf q.core q.slot).pc ∧
      (t.slotOf q.core q.slot).barred = if ok then (s.slotOf q.core q.slot).barred else some q.va) ∧
  (∀ (s : State) (a : AtsAnswer) (cl : Nat) (q : XlateReq) (x : Context) (pa : BitVec 52) (r : BitVec 3), cl < 80 →
    (s.clusterAt cl).waiting = [q] → (∀ d, d ≠ cl → (s.clusterAt d).waiting = []) → clusterOf q.core = cl → q.slot < 8 →
    (s.clusterAt cl).contexts.find? q.ctag.toNat = some x → x.hostProcess = true → x.pasid = a.pasid →
    q.va / 2 ^ 16 = a.va.toNat / 2 ^ 16 → a.page = some (pa, r) → (q.read = true → bitAt r 0 = true) →
    (q.write = true → bitAt r 1 = true) → (q.exec = true → bitAt r 2 = true) →
    (s.slotOf q.core q.slot).wait = .translation q.va q.exec →
    (s.slotOf q.core q.slot).docking = false → ∃ t, exec (.atsTranslationResponse a) s = .next t ∧ t.mem = s.mem ∧
      (t.clusterAt cl).waiting = [] ∧ (q.exec = true → (t.slotOf q.core q.slot).status.issues = true) ∧
      (q.exec = false → t.going = s.going ++ [(q.core, q.slot)]) ∧
      ∃ e ∈ (t.clusterAt cl).tlb, e.hostProcess = true ∧ e.tag = a.pasid.toNat ∧ e.page = a.va.toNat / 2 ^ 16 * 2 ^ 16 ∧
        e.pa = placeHost (pa.toNat / 2 ^ 16 * 2 ^ 16) ∧ e.r = bitAt r 0 ∧ e.w = bitAt r 1 ∧ e.x = bitAt r 2)

/-! ## Reliability -/

/-- R41, R439–R442, R444, R445: a pair's threads with equal outward entries both go on, the leading one to perform it, and with
unequal ones, and no record that may run again, both are parked and the launch's error bit is set. The device kills a slot that holds
a thread, empties it for a scrub of 256 cycles, and sets the launch's error bit; a pilot halts. The scrubbed slot is then empty, and not
before. The scrubber leaves clean data alone; an uncorrectable error marks its line poisoned and is reported, one of an HBM line with
core 0xFFFF (log entry 117). A scratchpad is scrubbed in a cycle of its bank that no requester wants, or, after 4,096 cycles without
one, in a forced cycle. -/
def Obligations.PairsKillsAndScrubs : Prop :=
  (∀ (s : State) (c p : Nat), p < 4 → s.wants = [] →
    let x := s.slotOf c (2 * p)
    let y := s.slotOf c (2 * p + 1)
    x.pair = .leading → x.wait = .compare → y.wait = .compare → x.outward.isSome = true → y.outward.isSome = true →
    (x.outward = y.outward → x.pc = y.pc → x.docking = false → y.docking = false → ∃ t, exec (.storeCompare c p) s = .next t ∧
      t.mem = s.mem ∧ ∀ k z, (k = 2 * p ∧ z = x) ∨ (k = 2 * p + 1 ∧ z = y) → (t.slotOf c k).matched = true ∧
        (t.slotOf c k).outward = none ∧ (t.slotOf c k).status.issues = true ∧ (t.slotOf c k).pc = z.pc) ∧
    (x.outward ≠ y.outward → s.outstanding = [] → ∃ t, exec (.storeCompare c p) s = .next t ∧
      (t.slotOf c (2 * p)).status = .parked ∧ (t.slotOf c (2 * p)).park = .pair ∧ (t.slotOf c (2 * p + 1)).status = .parked ∧
      (t.slotOf c (2 * p + 1)).park = .pair ∧ bitAt (t.errWords.get 0 x.lid.toNat) 2 = true)) ∧
  (∀ (s : State) (c k : Nat), k < 8 → s.wants = [] →
    let x := s.slotOf c k
    (x.occupied = false → exec (.deviceKill c k) s = .next s) ∧
    (x.occupied = true → k ≠ 7 → x.pair = .alone → x.capsule = none → x.reservation = .free → x.resend = none →
      ∃ t, exec (.deviceKill c k) s = .next t ∧
        t.slotOf c k = { Slot.blank with status := .killed, scrub := (s.coreOf c).cycle.toNat + 256 } ∧
        bitAt (t.errWords.get 0 x.lid.toNat) 3 = true ∧ t.mem = s.mem) ∧
    (x.occupied = true → k = 7 → x.reservation = .free → ∃ t, exec (.deviceKill c k) s = .next t ∧ (t.slotOf c 7).status = .halted ∧
      t.mem = s.mem) ∧
    (x.status = .killed → x.scrub ≤ (s.coreOf c).cycle.toNat → s.queued = [] →
      exec (.slotScrubEnd c k) s = .next (s.setSlot c k Slot.blank)) ∧
    ((x.status ≠ .killed ∨ (s.coreOf c).cycle.toNat < x.scrub) → exec (.slotScrubEnd c k) s = .next s)) ∧
  (∀ (s : State) (c off pa bank : Nat),
    (∀ check ∈ [ScrubCheck.scratch c off .clean, .homeLine pa .clean, .hbmLine pa .clean], exec (.patrolScrub check) s = .next s) ∧
    (pa < 2 ^ 41 → exec (.patrolScrub (.hbmLine pa .uncorrectable)) s =
      .next (pushEvent (s.mark (pa / 32 * 32) 32) 2 0xFFFF 0 (pa / 32 * 32) 0 0)) ∧
    (c < 1280 → off < 2 ^ 21 →
      let spoilt := fun u : State => Host.Outcome.next (pushEvent (u.mark (padAddr c off) 1) 2 c 0 0 0 0)
      let passed := (s.coreOf c).scrubWait.get 0 bank
      (off / 32 % 32 ∉ wantedBanks s c → exec (.patrolScrub (.scratch c off .uncorrectable)) s = spoilt s) ∧
      (off / 32 % 32 ∈ wantedBanks s c → exec (.patrolScrub (.scratch c off .uncorrectable)) s = .next s) ∧
      (off / 32 % 32 = bank → 4096 ≤ passed → exec (.scrubForcedCycle c bank (.scratch c off .uncorrectable)) s =
        spoilt (s.modCore c fun r => { r with scrubWait := r.scrubWait.erase bank })) ∧
      ((off / 32 % 32 ≠ bank ∨ passed < 4096) → exec (.scrubForcedCycle c bank (.scratch c off .uncorrectable)) s = .next s)))

/-- R242, R273, R447–R449: where its tables are the device's, a core that fails, or that the pilot fences off, is out of service, and every thread in its slots 0–6 is
ended; a value that R447 refuses when the unit takes it traps the pilot, for it is tested again there (log entry 95). Return to service takes the fence away, with the scratchpad zero and every slot
empty. A home map replaces the cluster's, and no home that moved keeps a line. -/
def Obligations.ServiceAndHomes : Prop :=
  (∀ (s : State) (c : Nat) (tags : Bool), TablesOpen s →
    ((1280 ≤ c ∨ (s.coreOf c).failed = true) → exec (.coreFailed c tags) s = .next s) ∧
    (c < 1280 → (s.coreOf c).failed = false → (s.coreOf c).pushers = [] → (s.coreOf c).poppers = [] →
      ∃ t, exec (.coreFailed c tags) s = .next t ∧ (t.coreOf c).failed = true ∧
      t.inService c = false ∧ ∀ k, k < 7 → (t.slotOf c k).occupied = false)) ∧
  (∀ (s u : State) (core : Nat) (v : Word), takeUnit s core 0x186 = some (v, u) → TablesOpen s →
    let d := bitsOf v 10 0
    (bitsOf v 13 12 = 1 → linesBusy s (servedBy s d) = false →
      (fenceIllegal s core v = true → exec (.fenceOff core) s = .next (takeTrap u core 7 .illegalOperand 0 0 0)) ∧
      (fenceIllegal s core v = false → s.inService d = true → (s.coreOf d).pushers = [] → (s.coreOf d).poppers = [] →
        ∃ t, exec (.fenceOff core) s = .next t ∧ (t.coreOf d).fenced = true ∧
        t.inService d = false ∧ ∀ k, k < 7 → (t.slotOf d k).occupied = false)) ∧
    (bitsOf v 13 12 = 2 →
      (fenceIllegal s core v = true → exec (.returnToService core) s = .next (takeTrap u core 7 .illegalOperand 0 0 0)) ∧
      (fenceIllegal s core v = false → s.queued = [] → s.queues = [] → ∃ t, exec (.returnToService core) s = .next t ∧
        (t.coreOf d).fenced = false ∧ (∀ k, k < 8 → (t.slotOf d k).status = .empty) ∧
        (∀ a, t.mem.read a = if padAddr d 0 ≤ a ∧ a < padAddr d 0 + 2 ^ 21 then 0 else s.mem.read a)))) ∧
  (∀ (s u : State) (core : Nat) (v : Word), takeUnit s core 0x188 = some (v, u) →
    let cl := (s.coreOf core).hmsel.toNat
    (hmapIllegal s cl v = true → exec (.hmap core) s = .next (takeTrap u core 7 .illegalOperand 0 0 0)) ∧
    (hmapIllegal s cl v = false → cl < 80 → linesBusy s (fun line => (homeIndex (line * 32)).1 == cl) = false →
      ∃ t, exec (.hmap core) s = .next t ∧ (t.clusterAt cl).hmap = v ∧ ∀ line, (homeIndex (line * 32)).1 = cl →
        (let j := (homeIndex (line * 32)).2
         bitsOf (s.clusterAt cl).hmap (4 * j + 3) (4 * j) ≠ bitsOf v (4 * j + 3) (4 * j)) → t.homes.find? line = none))

/-! ## Units of the pilot, the host, the links -/

/-- R242, R284, R332–R335, R390, R409–R411, R426, R441, R458: what the units do with the pilot's writes and reads. wbirun writes back
and forgets every home line of its range, with the count of dirty ones in wbistat; sqwin and sqoff set the row window and offset, or,
while a sequence runs, their shadow; sqrel takes a pseudo-channel out of all-bank mode; mbself and mbroute set a context's membership
and routes, values refused changing nothing; memdrop takes a rank out of the membership, and a value that is illegal when the unit
takes it traps the pilot (log entry 95); trpop and evpop pop the oldest record into the
latch; loopctl with bit 0 clear returns every cluster to nominal. -/
def Obligations.PilotUnits : Prop :=
  (∀ (s u : State) (core line : Nat) (v : Word) (l : HomeLine), takeUnit s core 0x101 = some (v, u) →
    let lo := (s.coreOf core).wbiaddr.toNat
    s.homes.entries = [(line, l)] → bankBusy s (line * 32) = false → s.bursts = [] → ∃ t, exec (.wbirun core) s = .next t ∧
      (lo ≤ line * 32 → line * 32 < lo + v.toNat → t.homes.entries = [] ∧
        (t.coreOf core).wbistat = (if l.dirty then 1 else 0) ∧ ∀ a, t.mem.read a = if l.dirty = true ∧ line * 32 ≤ a ∧ a < line * 32 + 32
          then l.data.extractLsb' (8 * (a - line * 32)) 8 else s.mem.read a) ∧
      ((line * 32 < lo ∨ lo + v.toNat ≤ line * 32) → t.homes = s.homes ∧ (t.coreOf core).wbistat = 0 ∧ t.mem = s.mem)) ∧
  (∀ (s u : State) (core : Nat) (v : Word),
    let a := bitsOf (s.coreOf core).sqsel 9 6
    let b := bitsOf (s.coreOf core).sqsel 5 0
    let p := s.pchOf a b
    (takeUnit s core 0x111 = some (v, u) →
      (p.running.isSome = true → exec (.sqwin core) s = .next (unitDone
        (u.setPch a b { p with shadowWin := some (.ofNat 17 (bitsOf v 16 0), .ofNat 17 (bitsOf v 48 32)) }) core)) ∧
      (p.running = none → p.shadowed = false → p.shadowStore = {} → exec (.sqwin core) s = .next (unitDone
        (u.setPch a b { p with rowlo := .ofNat 17 (bitsOf v 16 0), rowhi := .ofNat 17 (bitsOf v 48 32) }) core))) ∧
    (takeUnit s core 0x112 = some (v, u) →
      (p.running.isSome = true → exec (.sqoff core) s = .next (unitDone
        (u.setPch a b { p with shadowOff := some (.ofNat 17 (bitsOf v 16 0)) }) core)) ∧
      (p.running = none → p.shadowed = false → p.shadowStore = {} → exec (.sqoff core) s = .next (unitDone
        (u.setPch a b { p with rowoff := .ofNat 17 (bitsOf v 16 0) }) core))) ∧
    (takeUnit s core 0x114 = some (v, u) → ∃ t, exec (.sqrel core) s = .next t ∧ (t.pchOf a b).allBank = false ∧
      (t.pchOf a b).running = none ∧ t.mem = s.mem)) ∧
  (∀ (s : State) (core : Nat) (v : Word),
    let tag : BitVec 4 := .ofNat 4 (bitsOf (s.coreOf core).mbsel 3 0)
    let rank := bitsOf (s.coreOf core).mbsel 31 16
    (mbselfIllegal s core v = true → exec (.mbself core v) s = .next s) ∧
    (mbselfIllegal s core v = false → ∃ t, exec (.mbself core v) s = .next t ∧ t.memberOf tag = { s.memberOf tag with
      valid := bitAt v 63, mid := .ofNat 16 (bitsOf v 47 32), n := .ofNat 16 (bitsOf v 31 16), self := .ofNat 16 (bitsOf v 15 0), removed := [] }) ∧
    ((s.memberOf tag).n.toNat ≤ rank → exec (.mbroute core v) s = .next s) ∧
    (rank < (s.memberOf tag).n.toNat → ∃ t, exec (.mbroute core v) s = .next t ∧ (t.memberOf tag).routes.get 0 rank = v.setWidth 32) ∧
    ∀ u, takeUnit s core 0x179 = some (v, u) →
      (memdropIllegal s core v = true → exec (.memdrop core) s = .next (takeTrap u core 7 .illegalOperand 0 0 0)) ∧
      (memdropIllegal s core v = false → ∃ t, exec (.memdrop core) s = .next t ∧ bitsOf v 15 0 ∈ (t.memberOf tag).removed)) ∧
  (∀ (s : State) (core : Nat), ((s.coreOf core).traps = [] → exec (.trpop core) s = .next s) ∧
    (∀ r rest, (s.coreOf core).traps = r :: rest → exec (.trpop core) s =
      .next (s.modCore core fun x => { x with traps := rest, trapLatch := r })) ∧
    (s.events = [] → exec (.evpop core) s = .next s) ∧
    (∀ r rest, s.events = r :: rest → exec (.evpop core) s =
      .next ({ s with events := rest }.modCore core fun x => { x with eventLatch := r }))) ∧
  (∀ (s : State) (core : Nat) (v : Word), ∃ t, exec (.loopctl core v) s = .next t ∧ t.loopctl = v.setWidth 4 ∧ t.mem = s.mem ∧
    ∀ cl, cl < 80 → (t.clusterAt cl).mhz = (if bitAt v 0 then (s.clusterAt cl).mhz else 1250) ∧
      (t.clusterAt cl).mv = if bitAt v 0 then (s.clusterAt cl).mv else 400)

/-- R399–R403, R455: the host. The oldest management record goes to the latch, and a waiting one takes a free place. The oldest call of
a host process is written to the ring where it has room, and the host's answer sets g1 and resumes the slot past its call,
the PC moving on by 4 once (log entry 52). A CXL.mem write merges its enabled bytes into the home's line, and a read brings the line and,
if the host will cache it, enters the snoop filter; before ready a write is discarded and a read brings poisoned data. A
host-memory line held at a home goes back on a snoop. A back-invalidate answer ends the host's hold. No step leaves a line of a table
asked for: what the device cannot reach it asks for within one step, and tries again. -/
def Obligations.HostAttachment : Prop :=
  (∀ (s : State) (r : TrapRec) (rest : List TrapRec), (s.mgmt = [] → exec .mqpop s = .next { s with barData := 0 }) ∧
    (s.mgmt = r :: rest → exec .mqpop s = .next { s with mgmt := rest, mgmtLatch := r, barData := r.d0 }) ∧
    (s.mgmtWaiting = r :: rest → s.mgmt.length < 64 → exec .mgmtQueueEnqueue s =
      .next { s with mgmt := s.mgmt ++ [r], mgmtWaiting := rest }) ∧
    (s.mgmtWaiting = r :: rest → 64 ≤ s.mgmt.length → exec .mgmtQueueEnqueue s = .next s)) ∧
  (∀ (s : State) (q : EnvCall), TablesOpen s → s.envCalls = [q] → q.written = false → q.slot < 8 → s.ecsize ≠ 0 →
    ((s.ectail - s.echead).toNat < s.ecsize.toNat → ∃ t, exec .envCallRecord s = .next t ∧ t.ectail = s.ectail + 1 ∧
      t.envCalls = [{ q with written := true }] ∧ (Settled s → s.apertures.entries = [] → s.ecbase.toNat % 64 = 0 →
        isPopulated (s.ecbase.toNat + 64 * (s.ectail.toNat % s.ecsize.toNat)) = true →
        (homeLoad t .homed (s.ecbase.toNat + 64 * (s.ectail.toNat % s.ecsize.toNat)) 8).1 = q.record.d0.toNat)) ∧
    (s.ecsize.toNat ≤ (s.ectail - s.echead).toNat → exec .envCallRecord s = .next s)) ∧
  (∀ (s : State) (c k : Nat), c < 1280 → k < 7 →
    let v : Word := .ofNat 64 (c % 80 + c / 80 * 2 ^ 7 + k * 2 ^ 11)
    let x := s.slotOf c k
    (x.status = .trapped → x.envCall = true → x.pair = .alone → x.handler = .outside → x.docking = false → x.haltPending = false →
      (s.coreOf c).deferred = [] → ∃ t, exec (.ecans v) s = .next t ∧ t.mem = s.mem ∧ (let y := t.slotOf c k
        y.status = .runnable ∧ y.pc = x.pc + 4 ∧ y.readG 1 = s.ecval ∧ y.envCall = false ∧ ∀ n, n < 32 → n ≠ 1 → y.readG n = x.readG n)) ∧
    (x.envCall = false → exec (.ecans v) s = .next s)) ∧
  (∀ (s : State) (v : Word),
    (slotWordBad v false false = true → exec (.ecans v) s = .next s) ∧
    barWrite 0x0200 v s = .next { s with ecbase := v &&& ~~~0x3F } ∧ barWrite 0x0208 v s = .next { s with ecsize := v.setWidth 16 } ∧
    barWrite 0x0218 v s = .next { s with echead := v } ∧ barWrite 0x0220 v s = .next { s with ecval := v } ∧
    barRead 0x0008 s = .next { s with barData := s.ready } ∧ barRead 0x0210 s = .next { s with barData := s.ectail }) ∧
  (∀ (s : State) (pa : BitVec 52) (cached : Bool) (data : BitVec 256) (enable : BitVec 32),
    (bitAt s.ready 0 = false → ∃ t, exec (.cxlMemRead pa cached) s = .next t ∧ t.cxlPoison = true ∧ t.mem = s.mem ∧
      t.homes = s.homes ∧ t.hostLines = s.hostLines) ∧
    (bitAt s.ready 0 = true → 2 ^ 41 ≤ pa.toNat → exec (.cxlMemRead pa cached) s = .next s) ∧
    (bitAt s.ready 0 = false → exec (.cxlMemWrite pa data enable) s = .next s) ∧
    (∀ l, bitAt s.ready 0 = true → pa.toNat < 2 ^ 41 → s.homes.find? (pa.toNat / 32) = some l →
      exec (.cxlMemRead pa cached) s = .next { s with
        cxlData := l.data, cxlPoison := l.poison
        hostLines := if cached then insertSorted (pa.toNat / 32) s.hostLines else s.hostLines } ∧
      (s.queues = [] → s.watches = [] → ∃ t m, exec (.cxlMemWrite pa data enable) s = .next t ∧ t.mem = s.mem ∧
        t.homes.find? (pa.toNat / 32) = some m ∧ m.dirty = true ∧ m.poison = (l.poison && enable != BitVec.allOnes 32) ∧
        ∀ i, i < 32 → m.data.extractLsb' (8 * i) 8 = if bitAt enable i then data.extractLsb' (8 * i) 8 else l.data.extractLsb' (8 * i) 8))) ∧
  (∀ (s : State) (pa : BitVec 52) (data : BitVec 256), isHost (pa.toNat / 32 * 32) = true → s.queues = [] → s.watches = [] →
    (s.homes.find? (pa.toNat / 32) = none → exec (.hostSnoop pa data false) s = .next s) ∧
    ∃ t, exec (.hostSnoop pa data true) s = .next t ∧ t.homes.find? (pa.toNat / 32) = none ∧
      ∀ i, i < 32 → t.mem.read (pa.toNat / 32 * 32 + i) = data.extractLsb' (8 * i) 8) ∧
  (∀ (s : State) (pa : BitVec 52), exec (.backInvalidateResponse pa) s = .next { s with
    hostLines := s.hostLines.filter (fun l => l != pa.toNat / 32), snoops := s.snoops.filter (fun l => l != pa.toNat / 32) }) ∧
  (∀ s t : State, s.wants = [] → step s = .next t → t.wants = [])

/-- R404, R405, R411, R457: the links. A port that is up takes a good flit with the next number, and answers any other with a replay
request for that number; a port that is down takes nothing. A port without an ack for 65,536 cycles goes down, and so does one whose
margin is not restored while its loop is on; a port that trains again carries traffic with empty buffers. A peer request of a thread
unanswered for 2^20 cycles completes with poisoned zero. -/
def Obligations.PhoupLinks : Prop :=
  (∀ (s : State) (p : Nat) (f : Flit), let o := s.portOf p
    ((o.up = false ∨ 32 ≤ p) → exec (.phoupFlitReceived p f) s = .next s) ∧
    (o.up = true → p < 32 → (f.crcGood = false ∨ f.seq ≠ o.rx + 1 ∨ f.type = 0 ∨ 6 < f.type.toNat) → ∃ t g, exec (.phoupFlitReceived p f) s = .next t ∧
      t = sendFlit s p g ∧ g.body = .replay (o.rx + 1) ∧ g.type = 6) ∧
    (o.up = true → p < 32 → f.crcGood = true → f.seq = o.rx + 1 → 1 ≤ f.type.toNat → f.type.toNat ≤ 6 → f.body = .control →
      o.replay = [] → exec (.phoupFlitReceived p f) s =
        .next { s with ports := s.ports.set p { o with rx := f.seq, owed := o.owed + 1, credits := o.credits + f.credit.toNat } })) ∧
  (∀ (s : State) (p : Nat), let o := s.portOf p
    (o.up = true → o.replay ≠ [] → o.lastAck + 65536 ≤ s.clock → exec (.linkAckTimeout p) s = .next (linkDown s p)) ∧
    (o.up = true → s.clock < o.lastAck + 65536 → exec (.linkAckTimeout p) s = .next s) ∧
    (o.up = true → s.memberships.entries = [] → ((linkDown s p).portOf p).up = false) ∧
    (p < 32 → (bitAt s.loopctl 1 = true → exec (.linkEqualisation p false) s = .next (linkDown s p)) ∧
      exec (.linkEqualisation p true) s = .next s) ∧
    (o.up = false → p < 32 → ∃ t, exec (.linkRetrained p) s = .next t ∧ (t.portOf p).up = true ∧ (t.portOf p).replay = [] ∧
      (t.portOf p).lanes = o.lanes ∧ t.mem = s.mem)) ∧
  (∀ (s : State) (q : PeerReq) (b : Bool) (rd : Option (BitVec 6)) (z : Bool), s.peerReqs = [q] → s.heldRanks = [] → q.flight.slot < 8 →
    q.flight.kind = .load b → q.flight.lane = none → (s.slotOf q.flight.core q.flight.slot).wait = .reply rd z →
    (q.since.toNat + 2 ^ 20 ≤ (s.coreOf q.flight.core).cycle.toNat → exec (.peerResponseTimeout 0) s =
      .next ({ s with peerReqs := [] }.setSlot q.flight.core q.flight.slot
        { s.slotOf q.flight.core q.flight.slot with reply := some ⟨0, true⟩ })) ∧
    ((s.coreOf q.flight.core).cycle.toNat < q.since.toNat + 2 ^ 20 → exec (.peerResponseTimeout 0) s = .next s))

/-- SPDM request i, with its code and the bytes of the request that join the transcript (R456; how they are laid out is log entry
10's). -/
def Sys2Proof.Claims.spdmRequest (i : Instr) (code : Nat) (bytes : List (BitVec 8)) : Prop :=
  let le := fun (n v : Nat) => (List.range n).map fun i => BitVec.ofNat 8 (v / 256 ^ i)
  (i = .getCapabilities ∧ code = 0xE1 ∧ bytes = []) ∨
  (∃ alg, i = .negotiateAlgorithms alg ∧ code = 0xE3 ∧ bytes = le 8 alg.toNat) ∨
  (i = .getDigests ∧ code = 0x81 ∧ bytes = []) ∨
  (∃ off len, i = .getCertificate off len ∧ code = 0x82 ∧ bytes = le 2 off ++ le 2 len) ∨
  (∃ nonce, i = .challenge nonce ∧ code = 0x83 ∧ bytes = le 32 nonce.toNat) ∨
  (∃ index, i = .getMeasurements index ∧ code = 0xE0 ∧ bytes = [index]) ∨
  (∃ exchange, i = .keyExchange exchange ∧ code = 0xE4 ∧ bytes = le 32 exchange.toNat) ∨
  (∃ verify, i = .finish verify ∧ code = 0xE5 ∧ bytes = le 64 verify.toNat)

/-- R337, R452–R461: the life of the module. A reset clears memory but for the host's own and begins bring-up at stage 1; each stage is
a step, its number in the ready register: without a valid image bring-up stops with cause 1 in stage 2, a failing stack or die link
stops it in stage 4, and with an image and no failure it reaches stage 7; ready is then set, and only then. Every SPDM request joins the
conversation's transcript, which GET_VERSION begins anew, and changes nothing else of memory or slots; that the algorithms are agreed on
only where both are offered is R456's, the bits log entry 10's. The loops move a cluster's point within its bounds, halve the scrub
period once for each event and double it after a week without one, hold a cluster above 95 °C and let it go 2^20 cycles after it has
cooled; a stretch and a recalibration change no value. Lifetime counts go to flash at a commit, at an orderly power-down and with each
powered hour (log entry 165), and those since are lost with the power. The scrub period is counted in powered hours, at whose end the
counts of corrections begin anew, which is the choice of log entry 92. -/
def Obligations.ModuleLife : Prop :=
  (∀ (s : State) (r : BringUpReport), ∃ t, exec (.moduleReset r) s = .next t ∧ bitsOf t.ready 15 0 = 0 ∧ bitsOf t.ready 63 16 = 1 ∧
    t.bringing = some r ∧ t.booting = false ∧ (∀ c k, t.slotOf c k = State.reset.slotOf c k) ∧
    ∀ a, t.mem.read a = if 2 ^ 51 ≤ a ∧ a < 2 ^ 52 then s.mem.read a else 0) ∧
  (∀ (s : State) (r : BringUpReport), s.bringing = some r → s.booting = false → bitAt s.ready 0 = false → s.issuing = false →
    s.going = [] → s.agenda = [] → s.wants = [] → ∃ t, step s = .next t ∧ bitAt t.ready 0 = false ∧ t.mem = s.mem ∧
      (let stage := bitsOf s.ready 23 16
       let at_ := bitsOf t.ready 23 16
       let stops := fun (cause : Nat) => at_ = stage ∧ bitAt t.ready 1 = true ∧ bitsOf t.ready 31 24 = cause ∧ t.bringing = none
       let goes := at_ = stage + 1 ∧ bitAt t.ready 1 = false ∧ bitsOf t.ready 31 24 = 0
       (stage ∈ [1, 3, 5] → goes ∧ t.bringing = some r) ∧
       (stage = 2 → (firmwareSlot s = none → stops 1) ∧
         ∀ n, firmwareSlot s = some n → goes ∧ t.bringing = some r ∧ bitsOf t.ready 2 2 = n) ∧
       (stage = 4 → (r.stackFails = true → stops 2) ∧ (r.stackFails = false → r.dieLinksFail = true → stops 4) ∧
         (r.stackFails = false → r.dieLinksFail = false → goes ∧ t.bringing = some r)) ∧
       (stage = 6 → r.failedCores = [] → r.failedBanks = [] → (∀ cl, cl < 80 → clusterGone s cl = false) →
         goes ∧ t.booting = true ∧ t.bringing = none))) ∧
  (∀ s : State, (s.booting = true → ∃ t, exec .ready s = .next t ∧ bitAt t.ready 0 = true ∧ bitsOf t.ready 63 1 = bitsOf s.ready 63 1) ∧
    (s.booting = false → exec .ready s = .next s)) ∧
  (∀ (s : State) (i : Instr) (code : Nat) (bytes : List (BitVec 8)),
    (spdmRequest i code bytes → ∃ t rest, exec i s = .next t ∧
      t.session.transcript = s.session.transcript ++ .ofNat 8 code :: bytes ++ rest ∧ t.mem = s.mem ∧ t.cores = s.cores ∧
      t.ready = s.ready) ∧
    (∃ t rest, exec .getVersion s = .next t ∧ t.session.transcript = 0x84 :: rest ∧ t.mem = s.mem ∧ t.cores = s.cores) ∧
    ∀ alg, ∃ t, exec (.negotiateAlgorithms alg) s = .next t ∧ t.session.negotiated = (bitAt alg 10 && bitAt alg 34)) ∧
  (∀ (s : State) (a b mhz mv gated : Nat), exec (.droopStretch a) s = .next s ∧ exec (.hbmRecalibration a b) s = .next s ∧
    (bitAt s.loopctl 0 = true → a < 80 → 625 ≤ mhz → mhz ≤ 1250 → 360 ≤ mv → mv ≤ 480 → gated ≤ 1024 →
      exec (.voltageClockChange a mhz mv gated) s = .next (s.modCluster a fun p => { p with mhz := mhz, mv := mv })) ∧
    ((bitAt s.loopctl 0 = false ∨ mhz < 625 ∨ 1250 < mhz ∨ mv < 360 ∨ 480 < mv) →
      exec (.voltageClockChange a mhz mv gated) s = .next s)) ∧
  (∀ s : State, (bitAt s.loopctl 2 = true → 0 < s.scrubDue → exec (.scrubRateAdjust false) s = .next
      { s with scrubDue := s.scrubDue - 1, scrubPeriod := .ofNat 32 (max 3600 (s.scrubPeriod.toNat / 2)) }) ∧
    (bitAt s.loopctl 2 = true → 168 ≤ s.quietHours → exec (.scrubRateAdjust true) s = .next
      { s with quietHours := 0, scrubPeriod := .ofNat 32 (min 86400 (2 * s.scrubPeriod.toNat)) }) ∧
    (s.scrubDue = 0 → exec (.scrubRateAdjust false) s = .next s) ∧ (s.quietHours < 168 → exec (.scrubRateAdjust true) s = .next s)) ∧
  (∀ (s : State) (cl temp : Nat), cl < 80 → bitAt s.loopctl 3 = true →
    let held := ((List.range 80).filter fun c => (s.clusterAt c).held).length
    (95 < temp → held < 8 → ∃ t, exec (.clusterHold cl temp) s = .next t ∧ (t.clusterAt cl).held = true ∧ t.mem = s.mem) ∧
    (temp ≤ 95 → ∃ t, exec (.clusterHold cl temp) s = .next t ∧ (t.clusterAt cl).held = (s.clusterAt cl).held ∧ t.mem = s.mem ∧
      ((s.clusterAt cl).held = true → (t.clusterAt cl).cooledAt = some ((s.clusterAt cl).cooledAt.getD s.clock))) ∧
    (8 ≤ held → (s.clusterAt cl).held = false → ∃ t, exec (.clusterHold cl temp) s = .next t ∧ (t.clusterAt cl).held = false) ∧
    (temp ≤ 95 → s.wants = [] → (s.clusterAt cl).held = true → ∀ n, (s.clusterAt cl).cooledAt = some n →
      (n + 2 ^ 20 ≤ s.clock → s.queued = [] → ∃ t, exec (.holdEnd cl temp) s = .next t ∧ (t.clusterAt cl).held = false ∧ t.mem = s.mem) ∧
      (s.clock < n + 2 ^ 20 → ∃ t, exec (.holdEnd cl temp) s = .next t ∧ (t.clusterAt cl).held = true ∧ t.mem = s.mem))) ∧
  (∀ s : State, let saved := fun (t : State) => ∀ n v, s.lifeRecent.find? n = some v →
      t.life.get 0 n = .ofNat 64 (min ((s.life.get 0 n).toNat + v.toNat) (2 ^ 64 - 1))
    (∃ t, exec .lifetimeCommit s = .next t ∧ t.lifeRecent = {} ∧ t.mem = s.mem ∧ saved t) ∧
    (∃ t, exec .abruptLossOfPower s = .next t ∧ t.lifeRecent = {} ∧ t.ready = State.reset.ready ∧
      (s.clock < s.lifeDue → t.life = s.life) ∧ (s.lifeDue ≤ s.clock → saved t) ∧
      ∀ a, t.mem.read a = if 2 ^ 51 ≤ a ∧ a < 2 ^ 52 then s.mem.read a else 0) ∧
    saved (powerDown s) ∧
    ∃ t, exec (.poweredHours []) s = .next t ∧ t.quietHours = s.quietHours + 1 ∧ t.mem = s.mem ∧ t.lifeRecent = {} ∧
      t.life.get 0 0 = .ofNat 64 (min ((s.life.get 0 0).toNat + (s.lifeRecent.get 0 0).toNat + 1) (2 ^ 64 - 1)) ∧
      (s.scrubPeriod.toNat ≤ (s.scrubHours + 1) * 3600 → t.corrected = {} ∧ t.scrubHours = 0) ∧
      ((s.scrubHours + 1) * 3600 < s.scrubPeriod.toNat → t.corrected = s.corrected ∧ t.scrubHours = s.scrubHours + 1))

/-! ## Completion -/

/-- `i` issues at `s` and retires to the next word at `t`: `rd`, if it is a general register, holds `v`, and the thread stays in
rotation. -/
def Sys2Proof.Claims.Retires (i : Instr) (s : State) (rd : BitVec 6) (v : Word) : Prop :=
  ∃ t, exec i s = .next t ∧ t.me.pc = s.me.pc + 4 ∧ t.me.status = s.me.status ∧ t.me.readG rd.toNat = (if rd = 0 then 0 else v) ∧
    ∀ n, n < 32 → n ≠ rd.toNat → t.me.readG n = s.me.readG n

/-- R154, R156, R160–R163: lres, sres, amo and cas in the thread's own scratchpad retire, each with its value. -/
def Sys2Proof.Claims.AtomicsComplete : Prop :=
  ∀ (rd ra rb : BitVec 6) (w : BitVec 1) (op : BitVec 4) (o : BitVec 2) (off : Nat) (s : State), rd.toNat < 32 → rb.toNat < 32 →
    op.toNat ≤ 8 → (o = 0 ∨ releaseHolds s s.core s.slot = true) → (∀ g, s.me.reservation ≠ .global g) →
    let n := if w = 0 then 8 else 4
    let a := s.me.readG ra.toNat
    let old := fun (m : Nat) => BitVec.ofNat 64 (s.mem.readN (padAddr s.core off) m)
    (s.runs (.lres rd ra w o) = true → LocalAt s a n off true true → Retires (.lres rd ra w o) s rd (old n)) ∧
    (s.runs (.sres rd ra rb w o) = true → LocalAt s a n off false true →
      Retires (.sres rd ra rb w o) s rd (if s.me.reservation = .localPad (off / 8 * 8) then 0 else 1)) ∧
    (s.runs (.amo rd ra rb op o) = true → LocalAt s a 8 off true true → Retires (.amo rd ra rb op o) s rd (old 8)) ∧
    (s.runs (.cas rd ra rb w o) = true → LocalAt s a n off true true → Retires (.cas rd ra rb w o) s rd (old n))

/-- R249, R254: send, its message's arrival and its reply: the sender retires with 0, and the element stands in the target's q0. -/
def Sys2Proof.Claims.SendCompletes : Prop :=
  ∀ (rd ra rb : BitVec 6) (s : State), s.runs (.send rd ra rb) = true → rd.toNat < 32 → s.me.reservation = .free →
    releaseHolds s s.core s.slot = true → foldReg s s.core s.slot = none → s.messages = [] →
    let w := s.me.readG ra.toNat
    let c := coreAt (bitsOf w 6 0) (bitsOf w 10 7)
    let k := bitsOf w 13 11
    let x := s.slotOf c k
    w.toNat < 2 ^ 14 → bitsOf w 6 0 ≤ 79 → s.inService c = true → ¬ (c = s.core ∧ k = s.slot) → x.lid = s.me.lid →
    x.status = .runnable → x.park = .free → (s.coreOf c).deferred = [] → (s.coreOf c).pushers = [] → (s.coreOf c).poppers = [] →
    (s.coreOf c).arriving = [] → x.q0.length < 16 →
    ∃ t u v, exec (.send rd ra rb) s = .next t ∧ exec (.messageArrival 0) t = .next u ∧
      exec (.threadReply s.core s.slot) u = .next v ∧ v.messages = [] ∧ v.mem = s.mem ∧ v.me.pc = s.me.pc + 4 ∧
      v.me.status = s.me.status ∧ v.me.readG rd.toNat = 0 ∧
      (v.slotOf c k).q0 = x.q0 ++ [⟨s.me.readG rb.toNat, false, false⟩]

/-- R255: the last member's bar and its reply: it retires with the number of members. -/
def Sys2Proof.Claims.BarCompletes : Prop :=
  ∀ (rd : BitVec 6) (lvl : BitVec 2) (s : State) (p : Placed), s.runs (.bar rd lvl) = true → rd.toNat < 32 →
    s.me.reservation = .free → barrierReady s s.core s.slot lvl.toNat = true → findPlaced s s.me.lid = some p → s.core ∈ p.cores →
    s.me.gang = true →
    let cores := p.cores.filter fun c =>
      if lvl = 0 then c == s.core else if lvl = 1 then clusterOf c == clusterOf s.core else true
    let u := s.setMe { s.me.noting (.bar rd lvl) with status := .memoryWait, wait := .barrier lvl.toNat rd }
    let members := cores.flatMap fun c => coreMembers u s.me.lid c
    (∀ x ∈ members, x.reply = none ∧ ∃ r, x.wait = .barrier lvl.toNat r) →
    ∃ t v, exec (.bar rd lvl) s = .next t ∧ exec (.threadReply s.core s.slot) t = .next v ∧ v.mem = s.mem ∧
      v.me.pc = s.me.pc + 4 ∧ v.me.status = s.me.status ∧ v.me.readG rd.toNat = (if rd = 0 then 0 else .ofNat 64 members.length)

/-- R63, R185: the reductions retire, on every type, and write no register but lane 0 of vd. -/
def Sys2Proof.Claims.ReductionsComplete : Prop :=
  ∀ (vd va : BitVec 4) (msk : BitVec 3) (gs : BitVec 6) (ty : BitVec 3) (i : Instr) (s : State), gs.toNat < 32 →
    i ∈ [Instr.vredsum vd va msk gs ty, .vredmax vd va msk gs ty, .vredmin vd va msk gs ty] → s.runs i = true →
    ∃ t, exec i s = .next t ∧ t.me.pc = s.me.pc + 4 ∧ t.me.status = s.me.status ∧ t.me.g = s.me.g ∧ t.mem = s.mem ∧
      (∀ j, 1 ≤ j → j < 64 → lane (t.me.readV vd.toNat) j = lane (s.me.readV vd.toNat) j) ∧
      ∀ v, v < 16 → v ≠ vd.toNat → t.me.readV v = s.me.readV v

/-- R202, R208, R209, R115, R116, R216, R217: the tile engine's forms. mshape of a good shape, with no tile command of the slot
outstanding, retires with the word of what it has been granted; drain returns from either handler; te.zacc, and te.mma after its last
row, complete and leave the queue; te.mma before its last stage runs the stage that both its rings hold. -/
def Sys2Proof.Claims.TileFormsComplete : Prop :=
  (∀ (rd ra : BitVec 6) (s : State), s.runs (.mshape rd ra) = true → rd.toNat < 32 →
    let v := s.me.readG ra.toNat
    bitsOf v 7 0 ≤ 128 → bitsOf v 15 8 ≠ 0 → bitsOf v 15 8 ≤ 128 → bitsOf v 63 16 = 0 →
    (∀ x ∈ (s.coreOf s.core).tileQ, x.owner ≠ .slot s.slot) → ∃ w, Retires (.mshape rd ra) s rd w) ∧
  (∀ s : State, s.runs .drain = true → (s.me.handler = .completion → ∃ t, exec .drain s = .next t ∧ t.me.handler = .outside ∧
      t.me.status = .runnable ∧ t.me.pc = s.me.hlink) ∧
    (∀ i x g, s.me.handler = .drain i → (s.coreOf s.core).tileQ.find? (fun x => x.owner == .slot s.slot) = some x →
      x.grant = some g → g.cols ≤ 128 → bitsOf s.me.fmt 9 8 ≠ 3 →
      let p := bitsOf (s.me.readG 25) 20 0 + slotRebase s s.core s.slot
      p % 4 = 0 → p + 4 * g.cols ≤ 2 ^ 21 → ∃ t, exec .drain s = .next t ∧ t.me.handler = .outside ∧ t.me.pc = x.pc)) ∧
  (∀ (s : State) (c k : Nat) (x : Cmd) (rest : List Cmd) (g : Grant), (s.coreOf c).tileQ = x :: rest → (∀ y ∈ rest, y.ident ≠ x.ident) →
    frozen s c x = false → x.grant = some g → x.owner = .slot k → k < 8 → (s.slotOf c k).pair = .alone →
    let slab := if bitsOf x.fmt 3 0 = 10 then 120 else 128
    let stages := (bitsOf x.word 223 208 + slab - 1) / slab
    (cmdCode x.word = 0x11 → ∃ t, exec (.teZacc c) s = .next t ∧ (t.coreOf c).tileQ = rest) ∧
    (cmdCode x.word = 0x10 → stages ≤ x.stage → g.rows ≤ x.count → (s.slotOf c k).status = .engineWait →
      (s.slotOf c k).handler = .outside → (∃ r, (s.slotOf c k).wait = .row r ∨ (s.slotOf c k).wait = .token r) →
      ∃ t, exec (.teMma c) s = .next t ∧ (t.coreOf c).tileQ = rest) ∧
    (cmdCode x.word = 0x10 → x.stage < stages → (∀ n, agedAt s c n = []) →
      (∀ q ∈ [bitsOf x.word 191 189, bitsOf x.word 188 186],
        ringFull (vget (s.slotOf c k).ring 0 q) (ringHead (vget (s.slotOf c k).ring 0 q)) = true) →
      ∃ t y, exec (.teMma c) s = .next t ∧ (t.coreOf c).tileQ = y :: rest ∧ y.stage = x.stage + 1))

/-- R115, R116, R154, R156, R160–R163, R185, R202, R209, R216, R217, R249, R254, R255: forms that complete, for every state and operands
that meet the conditions named: lres, sres, amo and cas with each suffix, send with its message's arrival, bar, vredsum, vredmax and
vredmin on every type, mshape, drain in both its handlers, te.zacc and te.mma (whose codes are log entry 133's). -/
def Obligations.Completions : Prop :=
  AtomicsComplete ∧ SendCompletes ∧ BarCompletes ∧ ReductionsComplete ∧ TileFormsComplete

/-! ## Claims of one subject together -/

/-- R129, R130: a two-operand instruction whose checks pass and whose sources, of whatever form, can be read completes: it
writes f(a, b) to its destination, of whatever form, and retires to the next word. `readFrom` reads the sources in field
order and leaves `t`; `writeNext` delivers the result from there. What the two do for each operand form is the subject of
SourceForms and DestinationForms.
R129: the words of the two-operand instructions, in the order of their table: the opcode, rd, ra, rb and aux = 0. A nonzero
aux is a reserved field. -/
def Obligations.TwoOperandResults : Prop :=
  Sys2Proof.Claims.TwoOperandValues ∧ Sys2Proof.Claims.TwoOperandWords

/-- R133, R137–R139: sel, cmp, cmpi and pl complete; sel reads both sources whatever p[K] holds; the condition or the
operation goes to p[pd], and a write to p0 is ignored.
R103, R125, R133, R137–R139: the words of sel, cmp, cmpi and pl; the codes 0b110 and 0b111 of cmp are reserved. -/
def Obligations.SelectAndPredicates : Prop :=
  Sys2Proof.Claims.SelectsAndCompares ∧ Sys2Proof.Claims.SelectWords

/-- R132, R134, R135: a one-operand instruction whose checks pass and whose source can be read completes with its result.
R131: clz counts the zero bits above the highest set bit, ctz those below the lowest, popc the set bits; clz and ctz of 0
are 64. Each completes, writing the count.
R136: lui writes SignExtend(imm18) << 12, and lpc the address of the lpc plus that.
R131, R132, R134–R136: the words of the one-operand instructions and of lui and lpc, with every field that must be zero; the
width code 0b11 of sext and zext is reserved. -/
def Obligations.OneOperandAndCounts : Prop :=
  Sys2Proof.Claims.OneOperandResults ∧ Sys2Proof.Claims.BitCounts ∧ Sys2Proof.Claims.UpperImmediates ∧ Sys2Proof.Claims.OneOperandWords

/-- R140: a compare-branch whose sources can be read completes: to PC + 4 × SignExtend(off12) when its condition holds, else
to the next word.
R141, R142: bt branches when p[K] = 1 and bf when p[K] = 0, and jmp always; else the next word follows. A steady slot
changes by its PC alone. `bt p0` always branches and `bf p0` never, because p0 reads 1 (R21).
R142, R143: jal and jalr write PC + 4 to rd (nothing to g0) and go on at their target; `ra` of jalr is read first, so
that `jalr g31, g31` jumps to the old g31. A misaligned target of jalr traps with cause misaligned, and neither the link nor
the PC is written.
R125, R140–R143: the words of the branches and jumps, the displacement in the low 12 or 18 bits. -/
def Obligations.BranchesAndJumps : Prop :=
  Sys2Proof.Claims.CompareBranches ∧ Sys2Proof.Claims.PredicateBranchesAndJump ∧ Sys2Proof.Claims.JumpAndLink ∧ Sys2Proof.Claims.BranchWords

/-- R22, R100, R124, R191: what a source field reads in a thread of no pair, for each operand form. A general register: its
value, without effect (g0 reads zero). A context register: its value, without effect. A q port that holds an element: the
oldest one, which leaves the port and is kept in the operand latch (a deferred message element may take the freed place of q0,
R256). An empty port: the thread joins the port's waiters and leaves rotation, out for memory at q0–q7 and for an engine at
q8–q15, its PC unmoved. An element popped by an earlier issue of the instruction is read from the latch again.
R21, R31, R100, R124, R192, R199: where a result goes from a steady slot `x`, for each operand form, the instruction then
retiring to the next word. A general register takes it, and a write to g0 is ignored. A context register takes it, reserved
bits ignored; a reserved code for frm or fmt traps as an illegal operand in the state before any effect. For a port with a free
place the element is on its way until the end of the third cycle after that of the issue, or of this one where the instruction was
completed by a later reply (R12, R13, R190), and with the core's next cycle it stands at the port's tail if nobody waits to pop. With no free place the slot joins the port's pushers and
leaves rotation with the push pending. -/
def Obligations.OperandForms : Prop :=
  Sys2Proof.Claims.SourceForms ∧ Sys2Proof.Claims.DestinationForms

/-- FRAME of the scalar instructions of R129–R136 with general registers (R21, R126, R127): one completes, every register but
`rd` keeps its value, g0 included; no flag, predicate, special register, accumulator or exception register changes, no other
slot, and no byte of memory; the PC moves on by 4.
FRAME of the instructions that write a predicate or only the PC (R137–R142), with general registers: no general register,
vector register, mask or flag changes, no other slot, no byte of memory; and no predicate but `pd` of cmp, cmpi and pl. -/
def Obligations.ScalarFrames : Prop :=
  Sys2Proof.Claims.RegisterFrame ∧ Sys2Proof.Claims.PredicateFrame

/-- R145, R147: a store to the local scratchpad of a thread in no pair completes: the low n bytes of rb, read in whatever form,
are stored at the effective address (`t` is the state after rb is read), and the instruction retires. `padStore` is the store
into a scratchpad; what it does is the next statement's.
FRAME of a store into a scratchpad (R147, R148, R157, R158, R165): the n bytes at the address hold the low bytes of the
value, little-endian, every other byte of memory reads as before, and no poison mark changes (R435). No register, predicate,
flag, mask, context register or PC of any slot changes; what changes of a slot is at most its local reservation on the
granules written, and the reply to a wrs that watched them. -/
def Obligations.StoresToTheScratchpad : Prop :=
  Sys2Proof.Claims.LocalStores ∧ Sys2Proof.Claims.PadStoreFrame

/-- R13, R16, R20, R149, R274: a global load or store of a thread that is no rover leaves as a request: the thread goes out of
rotation in memory wait, its PC unmoved, the request with the physical address, the width and the data is under way to the
home, and nothing is read or written yet.
R149, R274, R275, R20: a request of a thread that is no rover at its home, under HOMED, where the line is held. A load
sends the line's bytes back with its poison and changes no memory; a store puts its bytes into the line, which becomes dirty,
touches no other line, and sends its reply. The request is then gone. A load's reply completes the load: its value goes to rd,
and the instruction retires. -/
def Obligations.GlobalAccesses : Prop :=
  Sys2Proof.Claims.GlobalAccessLeaves ∧ Sys2Proof.Claims.HomeAccessAndReply

/-- R153–R158, R164, R165, R278: a home's queues. With general hypotheses (the request is whole, in lane order, the host holds
no line, the home's line is held and good): an lres to a granule without a queue is granted at once, its slot holds the
granule, and its reply is the n bytes at the home. 1,024 cycles of the home core after a grant the granule passes on: with no
waiter the queue goes, and the holder holds nothing. A watch of a scratchpad granule that is 65,536 cycles old ends with the
granule's value; a younger one stays. The oldest lres that waits for admission is granted when its granule has no queue and the
home holds fewer than 64.
R269, R270, R285: a request at another core's bank, where no aged requester wants that bank. A load brings the bytes back and
changes no memory; a store stores its n bytes there and nowhere else; a core out of service performs nothing and answers poisoned
zero. One that is not aged waits where another is. A requester refused 16 times becomes aged, and one refused less often does
not. -/
def Obligations.HomesAndRemoteBanks : Prop :=
  Sys2Proof.Claims.HomeQueues ∧ Sys2Proof.Claims.RemoteBanks

/-- R6, R7, R167–R170: the fences. A malformed scope word is an illegal operand. fence completes where no combining entry of the
cluster's port holds a store of the thread, fence.b where its core's bank queue holds no command of the slot to a core in the
scope, fence.a where neither a combining entry nor a pending burst nor a home line that awaits its write-back holds a store of
it; such a fence changes nothing but the PC. A plain fence at module scope with such a store pending leaves rotation in memory wait.
R164, R247, R248, R436: wrs on a local granule that holds another value completes with that value; ifence invalidates the
lines of the thread's context in its core's instruction cache, and no other, and waits for its reply; chkerr reads cir, pois in
bit 0 and the launch's error word above it, and chkerr.clr clears exactly what it reported. -/
def Obligations.FencesAndWatches : Prop :=
  Sys2Proof.Claims.Fences ∧ Sys2Proof.Claims.WatchAndCaches

/-- R8, R96, R247, R275: the word fetched where the instruction cache holds none, no home holds the line and nothing waits at the
ports is the four bytes at the address, little-endian; the fetch changes no byte of memory.
R104, R106, R127, R389: ILLEGAL_INSTRUCTION and FETCH_FAULT take the trap of the word or the fetch that they stand for. -/
def Obligations.Fetching : Prop :=
  Sys2Proof.Claims.FetchReadsMemory ∧ Sys2Proof.Claims.FetchTraps

/-- R106, R158, R237, R389–R391: TAKING AN EXCEPTION, for a slot of no pair that holds no reservation, of a context that is no
host process. A slot other than the pilot leaves rotation trapped, its registers and PC as they are, and its record joins the
core's trap queue: the cause, the slot, the lane and the code in doubleword 0, then the PC, the word and the address. A pilot
parked by park becomes runnable, its PC past the park (log entry 54). The pilot itself halts, and its record joins the management queue if that has room.
R104–R106, R235, R236: the checks before any effect. An instruction word that fails one traps with its cause, whatever its
operands hold and before any port is popped. Of the checks: a pilot-only instruction outside slot 7 is a privilege fault; a
write to a read-only context register and a q port or context register in a field for general registers are illegal operands;
drain outside a handler, cfwd, cpark and the rewrites cins, cdel and crep outside a capsule step, park, quit, spawn and bar in a
handler, park, quit and bar in a capsule step, and bar of no gang thread are state faults. -/
def Obligations.Exceptions : Prop :=
  Sys2Proof.Claims.TakingATrap ∧ Sys2Proof.Claims.ChecksTrap

/-- R10, R11, R40, R242–R244, R359, R390, R441: sysrd completes with what the register holds; trap (0x140) and event (0x182)
pop the oldest record into the core's latch, or read 0 where there is none; a number assigned to no register is an illegal
operand. syswr completes having written the register; a write for the dispatcher waits for its unit.
R34, R108, R246, R268: segld.img loads a segment register from 16 bytes of the thread's own scratchpad, and segld from an
entry of its launch's segment table; the reserved bit 121 reads as zero, bits 63:57 nonzero are an illegal operand, and so is
an index at or beyond segn. The thread waits for the reply. -/
def Obligations.SystemAndSegmentRegisters : Prop :=
  Sys2Proof.Claims.SystemRegisters ∧ Sys2Proof.Claims.SegmentLoads

/-- R240, R241: the pilot reads and writes the registers of a trapped, halted or parked slot. xrd completes with the register's
value. xwr to a general, window, mask or vector register or an aligned PC completes and the register then reads as the value
written, no other slot changes and no byte of memory; a misaligned PC is an illegal operand. A slot in another state is a state
fault.
R249, R252, R253: the pilot's hold on a user slot of no pair, by slot word. kill of an occupied slot without capsule empties
it of everything, killed and scrubbed for 256 cycles; halt of a slot between two instructions halts it where it stands; cont of
a halted slot resumes it, armed for one step with s = 1. Each answers 0, and 1 where the slot's state does not allow it. -/
def Obligations.DebuggingSlots : Prop :=
  Sys2Proof.Claims.StoppedSlotRegisters ∧ Sys2Proof.Claims.KillHaltCont

/-- R249–R251: park with no element to wake it (in the pilot, with no trap record) parks the slot under its key, its PC unmoved, and
with one it retires at once (reserved bits of the operand are an illegal operand). wake makes a slot of the thread's own launch that
is parked under the key runnable past its park and answers 0; it answers 1, and changes no other slot, where the slot is not so
parked. wake of a capsule parked under the key in a buffer of its core answers 0 too, and 1 where no buffer holds one. That a parked
slot's PC stays at its park and moves past it with the wake is the model's choice (log entry 54).
R259: quit at an inline depth above 0 returns to the call; else, with no COMBINE store pending and no command of the slot
incomplete, the thread ends and its slot is empty (no launch is queued that would take it). -/
def Obligations.ParkingAndQuitting : Prop :=
  Sys2Proof.Claims.ParkAndWake ∧ Sys2Proof.Claims.Quitting

/-- R249, R254, R256: send of a well-formed destination word hands its element to the network and waits for the reply, and of a
malformed one is an illegal operand; it waits while a COMBINE store is pending. At its target the element enters q0 of the slot behind
what is there, and the sender is answered 0; it is refused with 1 where the slot is empty (and, by the model's choice of log entry
146, killed), or runs another launch and the sender is no pilot, with 2 where the core is out of service; it waits in the inbox of a
trapped or halted slot.
R255: bar. An arriving member of a gang leaves rotation with its arrival noted; when every member of the unit of its level
(its core, its cluster's cores of the launch, the band) has arrived, each of them is answered the number of members, and where
one is still missing nobody is. -/
def Obligations.MessagesAndBarriers : Prop :=
  Sys2Proof.Claims.Messages ∧ Sys2Proof.Claims.Barriers

/-- R57, R58: operations are exact before the one rounding. On finite operands, sum, difference, product, quotient by a number
that is not zero, and fused multiply-add are the exact rational results, and raise no flag; a sum of zero is −0 in RDN or of two
addends that are −0, and else +0; ∞ − ∞ and 0 × ∞ are NaN and raise
nv; a finite number not zero divided by zero is an infinity and raises dz.
R42, R43, R51, R52: rounding keeps what a format can hold. In every mode, for FP32, FP16 and BF16, the finite value of a code
rounds to that code and raises no flag; an infinity rounds to its code, and a NaN to the produced NaN. -/
def Obligations.FloatAddMulExact : Prop :=
  Sys2Proof.Claims.ExactArithmetic ∧ Sys2Proof.Claims.RoundingKeepsCodes

/-- R171–R176, R51–R58: floating-point lane arithmetic outside SR mode. Each active lane takes the code of its exact result
rounded once in the mode of frm, zero above the element; fflags receives the OR of the flags of the active lanes; the others
lanes, registers and memory keep their values. In SR mode a narrow type draws once for each active lane, in increasing lane
order, and the seed stands where the last draw left it.
R53, R178: vcvt, outside SR mode. From an integer to a narrower one the element wraps, or with .sat is clamped and raises
sat; from an integer to a float it is rounded once, without saturating; from a float to an integer it is rounded and clamped, a
NaN giving 0 with nv; a copy of the same float type turns a signalling NaN into the produced one and raises nv. From a float to
another float type it is rounded once, a signalling NaN raising nv, and with .sat a number too great for a destination other than
FP32 saturates: between FP16 and BF16, neither of which is the narrower, that is the model's reading of R178 (log entry 21). -/
def Obligations.FloatLanesAndConversions : Prop :=
  Sys2Proof.Claims.FloatLanes ∧ Sys2Proof.Claims.Conversions

/-- R172, R181, R182: masks. vcmp writes the bits of the active lanes of its mask, on integers the signed comparison, and keeps
the others; vm, mset, mget, vmcnt and vfirst.
R174, R179, R180, R183, R184: the moves between lanes, of a type code that is no reserved one. vperm takes the lane that the
index names; vbcast the scalar's element; vslide the lane t places above, or zero past the ends; viota of an integer type the
lane's number; vpack puts the elements of va and then of vb densely; vunpk spreads them; vins writes the lowest active lane and
vextr reads it, 0 with an empty mask. -/
def Obligations.MasksAndMoves : Prop :=
  Sys2Proof.Claims.Masks ∧ Sys2Proof.Claims.LaneMoves

/-- R186–R189: a vector access whose active lanes all lie in the thread's own scratchpad, with at most one row in each of the 32
banks (R268), completes in one pass. A load of good data writes each active lane by its type and nothing else; a store writes
the low bytes of the elements, lane after lane in increasing order, and changes no register. `turns` notes the banks that the
thread's turn has taken in this cycle (R269).
R190–R195: the port instructions, of a thread in no pair. qtry pops the oldest element into gd and sets p K, or clears p K;
qoffer pushes into a port with a free place and sets p K, or clears p K; qcnt counts elements and free places; vqpop and vqpush
of k elements through a port that has them, or room for them, move them in order. What is pushed is under way until the end of the
third cycle after that of the issue (R12, R190). -/
def Obligations.VectorMemoryAndPorts : Prop :=
  Sys2Proof.Claims.LocalVectorAccesses ∧ Sys2Proof.Claims.PortInstructions

/-- R110, R114–R117, R204, R205, R211: the command port. enq with the thread's COMBINE stores written out and room in its
class's queue, for which no earlier one waits, completes. If the checks of R116 give 0, the command joins the queue with its word and the thread's segments,
formats, grant and rings; if they give a status, nothing is accepted and a token with it is pushed to q8 + port at once. enqw
of an accepted word waits for the token, and a refused one writes the token to its register. A code of no engine has status 1.
ringrd completes with the doubleword of the descriptor.
R112, R113, R117, R206, R210: a slot's command that completes leaves its queue and, in its place for it, its token: q8 + port
for done 0, the pending list for done 2, the register's thread for enqw. A token held for want of a place takes it when one is
free, and none before. A runnable thread in no handler takes its oldest pending entry at its next issue: it goes on at hbase,
its PC kept in hlink and the token in g24, whose flags it receives. -/
def Obligations.CommandsAndTokens : Prop :=
  Sys2Proof.Claims.CommandPort ∧ Sys2Proof.Claims.Tokens

/-- R207, R214, R215, R275, R276: a burst of ce.cpy or ce.str that is due, where memory is settled: its bytes are moved from global
memory into the scratchpad, or out of it, and no other byte changes; under COMBINE those that go out stand in the port's combining
buffer instead. It counts as done, and with the last one the command leaves its queue; a ring fill then leaves its stage full and
its ring's tail one on. ce.fill writes the pattern of its stride field by the distance from its start.
R207, R212–R214, R462: ce.gth and ce.sct move one element at a time between the scratchpad and the address that the index word
chooses, and an address outside the segments ends the command with status 5. ce.rld loads a ring descriptor from 16 bytes of the
scratchpad, its reserved bits zero, and completes, or leaves it and completes with status 3, its token placed as for done 0 (R116)
and with the value 0 of a refusal (log entry 128), where the image is malformed; ce.rst stores the descriptor there and completes. -/
def Obligations.CopyEngine : Prop :=
  Sys2Proof.Claims.CopyBursts ∧ Sys2Proof.Claims.CopyElements

/-- R109, R160, R207, R220, R223: a bank's step of an element-wise command whose turn it is: its next element at the bank has its new
value, no other byte of memory changes, and the element counts as done; with the last element of the run the command completes, its
value the element count, or, for bu.cas and bu.fop, the old word of element 0.
R64, R207, R221, R222, R299: one element of a stateful bank command, or one step of bu.topk, whose turn it is. bu.oes scales the
word and updates the running maximum and sum; bu.nsm turns it into exp(x − m) / s; bu.wel updates the element's mean and M2 with
the new count, which its first element writes, and completes with the flag SAT where the count is at its maximum; bu.hist counts
the word's bin; bu.topk finds, of a row, its K largest words, the lower column first among equals, and then writes the row's bits
word by word, keeping the other rows' bits. Nothing else of memory changes. -/
def Obligations.BankUnits : Prop :=
  Sys2Proof.Claims.BankElements ∧ Sys2Proof.Claims.BankState

/-- R327, R329, R333–R337, R339: the commands of a pseudo-channel's sequencer that no earlier one of the core precedes, on a
pseudo-channel that another launch owns (status 7), and on one that is free or the launch's own. Entering takes it into all-bank
mode with its units zero; leaving zeroes them and is refused while a sequence runs; a good program enters the store, and a bad one
is refused with 2; su.bcast fills the broadcast registers of the banks of its mask, one bank at a step; su.run starts at a program
of the start table with latch and accumulators zero, and is refused without all-bank mode; su.read writes the accumulators of its
banks out, one bank at a step, to the array or, under HOMED, into lines of their homes, where log entry 134 has the results of
units stand (R276 does not name them); `bankDone` counts the bank, and after the
last completes the command with 256 bytes for each. su.abort ends the sequence, whose su.run completes with 8.
R329, R337: the next word of a running sequence, where the host holds no line and at a yield point no request waits: each of its banks executes it, the sequence moves
on by a word and its column cycles (one, and 16 for each change of row), and with the last word su.run completes. A word that
fetches and multiplies on one bank loads its latch from the column and adds each product of latch and broadcast lanes, rounded
once, to the accumulators. A refresh that falls due while a sequence runs waits for its yield point. -/
def Obligations.StackUnits : Prop :=
  Sys2Proof.Claims.StackCommands ∧ Sys2Proof.Claims.StackSequences

/-- R64, R232, R416, R417: gacc with its words in the thread's scratchpad. A bad group word is an illegal operand; a group not
configured for the thread's context answers 3, whatever the address of the words is (the order is log entry 108's); a tag outside the window counts as stale and answers 1; poisoned words answer 4 and
are dropped; else the buffer's count goes up by one and every element takes its Welford update, nothing else of memory changes, and
the answer is 0 for the current buffer and 2 for the next; a current buffer that reaches nmax closes the group, once the journal's
lines are the device's.
R233, R234, R417–R421, R429: gstat answers the word chosen, and 0 for a group not configured for the thread's context; gclose,
gflip and gjoin answer 3 there, gjoin whatever its entry's address is (log entry 108). gclose closes an open group with a count (0), else answers 1 or 2. gflip of an applying group clears
its current buffer and reopens it on the other at the next step (0), where the new count reaches no close; else 1; it waits as .rel,
which is how R432's order is kept. gjoin of an entry
for the open group's step clears both buffers and moves it on a step with the entry's figure (0); a malformed entry answers 2.
R242, R413, R414, R418: a configuring write to gent0 that its unit takes opens the group at the step and buffer written, its
buffers zero, its figure NaN and its counts 0, and a value that breaks R414 traps the pilot; a write of 0 unconfigures a group. An
apply task that was refused is submitted again 1,024 cycles later, and not before. -/
def Obligations.Groups : Prop :=
  Sys2Proof.Claims.Contributions ∧ Sys2Proof.Claims.GroupSteps ∧ Sys2Proof.Claims.GroupConfiguration

/-- R37, R281, R311–R315, R320–R322: travel. A landing request that arrives is admitted where none else waits, and turned away to
the harbour (reason 1) where the core is out of service. The oldest admitted request gets a free landing buffer: its image leaves for
it whole, and the sender's buffer is free; landed, it stands there. 8,192 cycles after admission the request is withdrawn (reason 3).
While no buffer is free and a request has waited 1,024 cycles, a parked capsule gives up its buffer. A rover whose buffer is granted
leaves with its PC, registers, predicates, segments, tags, task and poison bit, its slot empty; one that gets none goes on from where
it is; one that lands takes the lowest empty slot. Where a table's
lines have to be asked for, the step waits (`askHost`).
R310, R315–R318, R320, R323, R448: a landed thread step starts in the lowest open empty slot, at its entry with its parameter, the
capsule's number and the steps after it, or, folded, at its resume block's PC with its registers. A landed bank step performs its
command element by element; of a fill, each writes its one word, and after the last the capsule goes on. A harbour task that was
refused is submitted again 1,024 cycles later. A capsule from another module lands in the buffer granted to it, under the receiving
launch's number, and its sender is told; the grant is found by core and context (log entry 137), and where no launch may receive it
any more the buffer frees and the sender is not told (log entry 167's choice). A poisoned header or a failed core destroys it, and a
fenced core sends it to the harbour (reason 7). Where a table's lines have to be asked for, the step waits (`askHost`). -/
def Obligations.CapsulesOnTheWay : Prop :=
  Sys2Proof.Claims.Landings ∧ Sys2Proof.Claims.CapsuleSteps

/-! ## An invariant -/

/-- R8, R265: bytes of memory have one value each. In this model (its Memory is kept in one form): memory in canonical form stays so
at every step. That equal memories are equal data rests on it. -/
def Obligations.MemoryStaysCanonical : Prop :=
  ∀ s t : State, s.mem.wf = true → step s = .next t → t.mem.wf = true

/-- R454: right after reset every byte of memory reads as zero, and memory has that form (the form is the model's choice). -/
def Obligations.ResetMemoryCanonical : Prop := State.reset.mem.wf = true ∧ ∀ a, State.reset.mem.read a = 0
end

