-- ==== Sys2Proof/Laws/State.lean ====
section
/-!
SUPPORT. What the updates of the state leave alone, field by field, and what is read back after a write: tables, vectors by
number, cores, slots.
-/

namespace Sys2Proof.Machine

/-! ## Tables and vectors -/

/-- A row of a lower key stays in front; else the new row is the first. -/
theorem tablePut_cons {α : Type} (k : Nat) (v : α) (e : Nat × α) (l : List (Nat × α)) :
    tablePut k v (e :: l) = if e.1 < k then e :: tablePut k v l else (k, v) :: if e.1 = k then l else e :: l := by
  by_cases h : e.1 < k <;> simp [tablePut, tableAfter, h]

theorem tableFind_cons {α : Type} (j : Nat) (e : Nat × α) (l : List (Nat × α)) :
    tableFind j (e :: l) = if e.1 = j then some e.2 else tableFind j l := by
  by_cases h : e.1 = j <;> simp [tableFind, h]

theorem tableFind_put {α : Type} (k j : Nat) (v : α) (l : List (Nat × α)) :
    tableFind j (tablePut k v l) = if k = j then some v else tableFind j l := by
  induction l with
  | nil => exact tableFind_cons j (k, v) []
  | cons e rest ih =>
    rcases Nat.lt_trichotomy e.1 k with h | h | h
    · rw [tablePut_cons, if_pos h, tableFind_cons, tableFind_cons, ih]
      by_cases hj : e.1 = j
      · rw [if_pos hj, if_neg (by omega), if_pos hj]
      · rw [if_neg hj, if_neg hj]
    · rw [tablePut_cons, if_neg (by omega), if_pos h, tableFind_cons, tableFind_cons, h]
      by_cases hj : k = j <;> simp [hj]
    · rw [tablePut_cons, if_neg (by omega), if_neg (by omega), tableFind_cons]

theorem tableFind_erase {α : Type} (k j : Nat) (l : List (Nat × α)) :
    tableFind j (tableErase k l) = if k = j then none else tableFind j l := by
  unfold tableFind tableErase
  rw [List.find?_filter]
  by_cases hj : k = j
  · rw [if_pos hj, List.find?_eq_none.2 (by simp +contextual [hj])]; rfl
  · rw [if_neg hj]
    exact congrArg (fun f => Option.map Prod.snd (l.find? f)) (funext fun e => by
      by_cases h : e.1 = j <;> simp [h, Ne.symm hj])

theorem tablePut_put {α : Type} (k : Nat) (v w : α) (l : List (Nat × α)) :
    tablePut k w (tablePut k v l) = tablePut k w l := by
  induction l with
  | nil => simp [tablePut, tableAfter]
  | cons e rest ih =>
    by_cases h : e.1 < k
    · rw [tablePut_cons, if_pos h, tablePut_cons, if_pos h, ih, tablePut_cons, if_pos h]
    · rw [tablePut_cons, if_neg h, tablePut_cons, tablePut_cons, if_neg h]; simp

@[simp] theorem Table.get_set {α : Type} (t : Table α) (d v : α) (k j : Nat) :
    (t.set k v).get d j = if k = j then v else t.get d j := by
  unfold Table.get Table.set
  rw [tableFind_put]
  split <;> rfl

@[simp] theorem Table.find_set {α : Type} (t : Table α) (v : α) (k j : Nat) :
    (t.set k v).find? j = if k = j then some v else t.find? j := tableFind_put k j v t.entries

@[simp] theorem Table.find_erase {α : Type} (t : Table α) (k j : Nat) :
    (t.erase k).find? j = if k = j then none else t.find? j := tableFind_erase k j t.entries

@[simp] theorem Table.set_set {α : Type} (t : Table α) (v w : α) (k : Nat) : (t.set k v).set k w = t.set k w := by
  simp [Table.set, tablePut_put]

theorem vget_vset {α : Type} {n : Nat} (v : Vector α n) (d x : α) (j k : Nat) :
    vget (vset v j x) d k = if j = k ∧ j < n then x else vget v d k := by
  simp only [vget, vset, List.getD_eq_getElem?_getD, Vector.getElem?_toList, Vector.getElem?_setIfInBounds]
  split
  · next h =>
    subst h
    split
    · next h => simp [h]
    · next h => simp [h]
  · next h => simp [h]

@[simp] theorem vget_vset_self {α : Type} {n : Nat} (v : Vector α n) (d x : α) (k : Nat) (h : k < n) :
    vget (vset v k x) d k = x := by simp [vget_vset, h]

theorem vget_vset_other {α : Type} {n : Nat} (v : Vector α n) (d x : α) (j k : Nat) (h : j ≠ k) :
    vget (vset v j x) d k = vget v d k := by simp [vget_vset, h]

@[simp] theorem vset_vset {α : Type} {n : Nat} (v : Vector α n) (k : Nat) (x y : α) :
    vset (vset v k x) k y = vset v k y := by
  ext i hi
  simp only [vset, Vector.getElem_setIfInBounds]
  split <;> rfl

/-! ## Fields of the state after an update of one part -/

@[simp] theorem State.setCore_mem (s : State) (c : Nat) (k : Core) : (s.setCore c k).mem = s.mem := rfl
@[simp] theorem State.setCore_poison (s : State) (c : Nat) (k : Core) : (s.setCore c k).poison = s.poison := rfl
@[simp] theorem State.setCore_entryMarks (s : State) (c : Nat) (k : Core) : (s.setCore c k).entryMarks = s.entryMarks := rfl
@[simp] theorem State.setCore_clusters (s : State) (c : Nat) (k : Core) : (s.setCore c k).clusters = s.clusters := rfl
@[simp] theorem State.setCore_pchs (s : State) (c : Nat) (k : Core) : (s.setCore c k).pchs = s.pchs := rfl
@[simp] theorem State.setCore_homes (s : State) (c : Nat) (k : Core) : (s.setCore c k).homes = s.homes := rfl
@[simp] theorem State.setCore_nextLid (s : State) (c : Nat) (k : Core) : (s.setCore c k).nextLid = s.nextLid := rfl
@[simp] theorem State.setCore_queued (s : State) (c : Nat) (k : Core) : (s.setCore c k).queued = s.queued := rfl
@[simp] theorem State.setCore_placed (s : State) (c : Nat) (k : Core) : (s.setCore c k).placed = s.placed := rfl
@[simp] theorem State.setCore_ready (s : State) (c : Nat) (k : Core) : (s.setCore c k).ready = s.ready := rfl
@[simp] theorem State.setCore_bursts (s : State) (c : Nat) (k : Core) : (s.setCore c k).bursts = s.bursts := rfl
@[simp] theorem State.setCore_queues (s : State) (c : Nat) (k : Core) : (s.setCore c k).queues = s.queues := rfl
@[simp] theorem State.setCore_watches (s : State) (c : Nat) (k : Core) : (s.setCore c k).watches = s.watches := rfl
@[simp] theorem State.setCore_flights (s : State) (c : Nat) (k : Core) : (s.setCore c k).flights = s.flights := rfl
@[simp] theorem State.setCore_messages (s : State) (c : Nat) (k : Core) : (s.setCore c k).messages = s.messages := rfl
@[simp] theorem State.setCore_spawns (s : State) (c : Nat) (k : Core) : (s.setCore c k).spawns = s.spawns := rfl
@[simp] theorem State.setCore_unitReqs (s : State) (c : Nat) (k : Core) : (s.setCore c k).unitReqs = s.unitReqs := rfl
@[simp] theorem State.setCore_evnote (s : State) (c : Nat) (k : Core) : (s.setCore c k).evnote = s.evnote := rfl
@[simp] theorem State.setCore_landReqs (s : State) (c : Nat) (k : Core) : (s.setCore c k).landReqs = s.landReqs := rfl
@[simp] theorem State.setCore_transits (s : State) (c : Nat) (k : Core) : (s.setCore c k).transits = s.transits := rfl
@[simp] theorem State.setCore_crossings (s : State) (c : Nat) (k : Core) : (s.setCore c k).crossings = s.crossings := rfl
@[simp] theorem State.setCore_granted (s : State) (c : Nat) (k : Core) : (s.setCore c k).granted = s.granted := rfl
@[simp] theorem State.setCore_images (s : State) (c : Nat) (k : Core) : (s.setCore c k).images = s.images := rfl
@[simp] theorem State.setCore_errWords (s : State) (c : Nat) (k : Core) : (s.setCore c k).errWords = s.errWords := rfl
@[simp] theorem State.setCore_history (s : State) (c : Nat) (k : Core) : (s.setCore c k).history = s.history := rfl
@[simp] theorem State.setCore_outstanding (s : State) (c : Nat) (k : Core) : (s.setCore c k).outstanding = s.outstanding := rfl
@[simp] theorem State.setCore_taskRetries (s : State) (c : Nat) (k : Core) : (s.setCore c k).taskRetries = s.taskRetries := rfl
@[simp] theorem State.setCore_colls (s : State) (c : Nat) (k : Core) : (s.setCore c k).colls = s.colls := rfl
@[simp] theorem State.setCore_memberships (s : State) (c : Nat) (k : Core) : (s.setCore c k).memberships = s.memberships := rfl
@[simp] theorem State.setCore_apertures (s : State) (c : Nat) (k : Core) : (s.setCore c k).apertures = s.apertures := rfl
@[simp] theorem State.setCore_ports (s : State) (c : Nat) (k : Core) : (s.setCore c k).ports = s.ports := rfl
@[simp] theorem State.setCore_peerReqs (s : State) (c : Nat) (k : Core) : (s.setCore c k).peerReqs = s.peerReqs := rfl
@[simp] theorem State.setCore_peerData (s : State) (c : Nat) (k : Core) : (s.setCore c k).peerData = s.peerData := rfl
@[simp] theorem State.setCore_peerCalls (s : State) (c : Nat) (k : Core) : (s.setCore c k).peerCalls = s.peerCalls := rfl
@[simp] theorem State.setCore_heldRanks (s : State) (c : Nat) (k : Core) : (s.setCore c k).heldRanks = s.heldRanks := rfl
@[simp] theorem State.setCore_events (s : State) (c : Nat) (k : Core) : (s.setCore c k).events = s.events := rfl
@[simp] theorem State.setCore_eventsLost (s : State) (c : Nat) (k : Core) : (s.setCore c k).eventsLost = s.eventsLost := rfl
@[simp] theorem State.setCore_mgmt (s : State) (c : Nat) (k : Core) : (s.setCore c k).mgmt = s.mgmt := rfl
@[simp] theorem State.setCore_mgmtWaiting (s : State) (c : Nat) (k : Core) : (s.setCore c k).mgmtWaiting = s.mgmtWaiting := rfl
@[simp] theorem State.setCore_mgmtLatch (s : State) (c : Nat) (k : Core) : (s.setCore c k).mgmtLatch = s.mgmtLatch := rfl
@[simp] theorem State.setCore_hlqstat (s : State) (c : Nat) (k : Core) : (s.setCore c k).hlqstat = s.hlqstat := rfl
@[simp] theorem State.setCore_hlqReqs (s : State) (c : Nat) (k : Core) : (s.setCore c k).hlqReqs = s.hlqReqs := rfl
@[simp] theorem State.setCore_ecbase (s : State) (c : Nat) (k : Core) : (s.setCore c k).ecbase = s.ecbase := rfl
@[simp] theorem State.setCore_ecsize (s : State) (c : Nat) (k : Core) : (s.setCore c k).ecsize = s.ecsize := rfl
@[simp] theorem State.setCore_ectail (s : State) (c : Nat) (k : Core) : (s.setCore c k).ectail = s.ectail := rfl
@[simp] theorem State.setCore_echead (s : State) (c : Nat) (k : Core) : (s.setCore c k).echead = s.echead := rfl
@[simp] theorem State.setCore_ecval (s : State) (c : Nat) (k : Core) : (s.setCore c k).ecval = s.ecval := rfl
@[simp] theorem State.setCore_envCalls (s : State) (c : Nat) (k : Core) : (s.setCore c k).envCalls = s.envCalls := rfl
@[simp] theorem State.setCore_pageReqs (s : State) (c : Nat) (k : Core) : (s.setCore c k).pageReqs = s.pageReqs := rfl
@[simp] theorem State.setCore_atsInvs (s : State) (c : Nat) (k : Core) : (s.setCore c k).atsInvs = s.atsInvs := rfl
@[simp] theorem State.setCore_barData (s : State) (c : Nat) (k : Core) : (s.setCore c k).barData = s.barData := rfl
@[simp] theorem State.setCore_cxlData (s : State) (c : Nat) (k : Core) : (s.setCore c k).cxlData = s.cxlData := rfl
@[simp] theorem State.setCore_cxlPoison (s : State) (c : Nat) (k : Core) : (s.setCore c k).cxlPoison = s.cxlPoison := rfl
@[simp] theorem State.setCore_hostLines (s : State) (c : Nat) (k : Core) : (s.setCore c k).hostLines = s.hostLines := rfl
@[simp] theorem State.setCore_snoops (s : State) (c : Nat) (k : Core) : (s.setCore c k).snoops = s.snoops := rfl
@[simp] theorem State.setCore_loopctl (s : State) (c : Nat) (k : Core) : (s.setCore c k).loopctl = s.loopctl := rfl
@[simp] theorem State.setCore_scrubPeriod (s : State) (c : Nat) (k : Core) : (s.setCore c k).scrubPeriod = s.scrubPeriod := rfl
@[simp] theorem State.setCore_scrubDue (s : State) (c : Nat) (k : Core) : (s.setCore c k).scrubDue = s.scrubDue := rfl
@[simp] theorem State.setCore_quietHours (s : State) (c : Nat) (k : Core) : (s.setCore c k).quietHours = s.quietHours := rfl
@[simp] theorem State.setCore_scrubHours (s : State) (c : Nat) (k : Core) : (s.setCore c k).scrubHours = s.scrubHours := rfl
@[simp] theorem State.setCore_corrected (s : State) (c : Nat) (k : Core) : (s.setCore c k).corrected = s.corrected := rfl
@[simp] theorem State.setCore_life (s : State) (c : Nat) (k : Core) : (s.setCore c k).life = s.life := rfl
@[simp] theorem State.setCore_lifeRecent (s : State) (c : Nat) (k : Core) : (s.setCore c k).lifeRecent = s.lifeRecent := rfl
@[simp] theorem State.setCore_lifeDue (s : State) (c : Nat) (k : Core) : (s.setCore c k).lifeDue = s.lifeDue := rfl
@[simp] theorem State.setCore_raisedSecurity (s : State) (c : Nat) (k : Core) : (s.setCore c k).raisedSecurity = s.raisedSecurity := rfl
@[simp] theorem State.setCore_session (s : State) (c : Nat) (k : Core) : (s.setCore c k).session = s.session := rfl
@[simp] theorem State.setCore_bringing (s : State) (c : Nat) (k : Core) : (s.setCore c k).bringing = s.bringing := rfl
@[simp] theorem State.setCore_booting (s : State) (c : Nat) (k : Core) : (s.setCore c k).booting = s.booting := rfl
@[simp] theorem State.setCore_core (s : State) (c : Nat) (k : Core) : (s.setCore c k).core = s.core := rfl
@[simp] theorem State.setCore_slot (s : State) (c : Nat) (k : Core) : (s.setCore c k).slot = s.slot := rfl
@[simp] theorem State.setCore_issuing (s : State) (c : Nat) (k : Core) : (s.setCore c k).issuing = s.issuing := rfl
@[simp] theorem State.setCore_going (s : State) (c : Nat) (k : Core) : (s.setCore c k).going = s.going := rfl
@[simp] theorem State.setCore_agenda (s : State) (c : Nat) (k : Core) : (s.setCore c k).agenda = s.agenda := rfl
@[simp] theorem State.setCore_turn (s : State) (c : Nat) (k : Core) : (s.setCore c k).turn = s.turn := rfl
@[simp] theorem State.setCore_clock (s : State) (c : Nat) (k : Core) : (s.setCore c k).clock = s.clock := rfl
@[simp] theorem State.setCore_wants (s : State) (c : Nat) (k : Core) : (s.setCore c k).wants = s.wants := rfl
@[simp] theorem State.setCore_free (s : State) (c : Nat) (k : Core) : (s.setCore c k).free = s.free := rfl
@[simp] theorem State.setCore_ident (s : State) (c : Nat) (k : Core) : (s.setCore c k).ident = s.ident := rfl

@[simp] theorem State.modCore_mem (s : State) (c : Nat) (f : Core → Core) : (s.modCore c f).mem = s.mem := rfl
@[simp] theorem State.modCore_poison (s : State) (c : Nat) (f : Core → Core) : (s.modCore c f).poison = s.poison := rfl
@[simp] theorem State.modCore_entryMarks (s : State) (c : Nat) (f : Core → Core) : (s.modCore c f).entryMarks = s.entryMarks := rfl
@[simp] theorem State.modCore_clusters (s : State) (c : Nat) (f : Core → Core) : (s.modCore c f).clusters = s.clusters := rfl
@[simp] theorem State.modCore_pchs (s : State) (c : Nat) (f : Core → Core) : (s.modCore c f).pchs = s.pchs := rfl
@[simp] theorem State.modCore_homes (s : State) (c : Nat) (f : Core → Core) : (s.modCore c f).homes = s.homes := rfl
@[simp] theorem State.modCore_nextLid (s : State) (c : Nat) (f : Core → Core) : (s.modCore c f).nextLid = s.nextLid := rfl
@[simp] theorem State.modCore_queued (s : State) (c : Nat) (f : Core → Core) : (s.modCore c f).queued = s.queued := rfl
@[simp] theorem State.modCore_placed (s : State) (c : Nat) (f : Core → Core) : (s.modCore c f).placed = s.placed := rfl
@[simp] theorem State.modCore_ready (s : State) (c : Nat) (f : Core → Core) : (s.modCore c f).ready = s.ready := rfl
@[simp] theorem State.modCore_bursts (s : State) (c : Nat) (f : Core → Core) : (s.modCore c f).bursts = s.bursts := rfl
@[simp] theorem State.modCore_queues (s : State) (c : Nat) (f : Core → Core) : (s.modCore c f).queues = s.queues := rfl
@[simp] theorem State.modCore_watches (s : State) (c : Nat) (f : Core → Core) : (s.modCore c f).watches = s.watches := rfl
@[simp] theorem State.modCore_flights (s : State) (c : Nat) (f : Core → Core) : (s.modCore c f).flights = s.flights := rfl
@[simp] theorem State.modCore_messages (s : State) (c : Nat) (f : Core → Core) : (s.modCore c f).messages = s.messages := rfl
@[simp] theorem State.modCore_spawns (s : State) (c : Nat) (f : Core → Core) : (s.modCore c f).spawns = s.spawns := rfl
@[simp] theorem State.modCore_unitReqs (s : State) (c : Nat) (f : Core → Core) : (s.modCore c f).unitReqs = s.unitReqs := rfl
@[simp] theorem State.modCore_evnote (s : State) (c : Nat) (f : Core → Core) : (s.modCore c f).evnote = s.evnote := rfl
@[simp] theorem State.modCore_landReqs (s : State) (c : Nat) (f : Core → Core) : (s.modCore c f).landReqs = s.landReqs := rfl
@[simp] theorem State.modCore_transits (s : State) (c : Nat) (f : Core → Core) : (s.modCore c f).transits = s.transits := rfl
@[simp] theorem State.modCore_crossings (s : State) (c : Nat) (f : Core → Core) : (s.modCore c f).crossings = s.crossings := rfl
@[simp] theorem State.modCore_granted (s : State) (c : Nat) (f : Core → Core) : (s.modCore c f).granted = s.granted := rfl
@[simp] theorem State.modCore_images (s : State) (c : Nat) (f : Core → Core) : (s.modCore c f).images = s.images := rfl
@[simp] theorem State.modCore_errWords (s : State) (c : Nat) (f : Core → Core) : (s.modCore c f).errWords = s.errWords := rfl
@[simp] theorem State.modCore_history (s : State) (c : Nat) (f : Core → Core) : (s.modCore c f).history = s.history := rfl
@[simp] theorem State.modCore_outstanding (s : State) (c : Nat) (f : Core → Core) : (s.modCore c f).outstanding = s.outstanding := rfl
@[simp] theorem State.modCore_taskRetries (s : State) (c : Nat) (f : Core → Core) : (s.modCore c f).taskRetries = s.taskRetries := rfl
@[simp] theorem State.modCore_colls (s : State) (c : Nat) (f : Core → Core) : (s.modCore c f).colls = s.colls := rfl
@[simp] theorem State.modCore_memberships (s : State) (c : Nat) (f : Core → Core) : (s.modCore c f).memberships = s.memberships := rfl
@[simp] theorem State.modCore_apertures (s : State) (c : Nat) (f : Core → Core) : (s.modCore c f).apertures = s.apertures := rfl
@[simp] theorem State.modCore_ports (s : State) (c : Nat) (f : Core → Core) : (s.modCore c f).ports = s.ports := rfl
@[simp] theorem State.modCore_peerReqs (s : State) (c : Nat) (f : Core → Core) : (s.modCore c f).peerReqs = s.peerReqs := rfl
@[simp] theorem State.modCore_peerData (s : State) (c : Nat) (f : Core → Core) : (s.modCore c f).peerData = s.peerData := rfl
@[simp] theorem State.modCore_peerCalls (s : State) (c : Nat) (f : Core → Core) : (s.modCore c f).peerCalls = s.peerCalls := rfl
@[simp] theorem State.modCore_heldRanks (s : State) (c : Nat) (f : Core → Core) : (s.modCore c f).heldRanks = s.heldRanks := rfl
@[simp] theorem State.modCore_events (s : State) (c : Nat) (f : Core → Core) : (s.modCore c f).events = s.events := rfl
@[simp] theorem State.modCore_eventsLost (s : State) (c : Nat) (f : Core → Core) : (s.modCore c f).eventsLost = s.eventsLost := rfl
@[simp] theorem State.modCore_mgmt (s : State) (c : Nat) (f : Core → Core) : (s.modCore c f).mgmt = s.mgmt := rfl
@[simp] theorem State.modCore_mgmtWaiting (s : State) (c : Nat) (f : Core → Core) : (s.modCore c f).mgmtWaiting = s.mgmtWaiting := rfl
@[simp] theorem State.modCore_mgmtLatch (s : State) (c : Nat) (f : Core → Core) : (s.modCore c f).mgmtLatch = s.mgmtLatch := rfl
@[simp] theorem State.modCore_hlqstat (s : State) (c : Nat) (f : Core → Core) : (s.modCore c f).hlqstat = s.hlqstat := rfl
@[simp] theorem State.modCore_hlqReqs (s : State) (c : Nat) (f : Core → Core) : (s.modCore c f).hlqReqs = s.hlqReqs := rfl
@[simp] theorem State.modCore_ecbase (s : State) (c : Nat) (f : Core → Core) : (s.modCore c f).ecbase = s.ecbase := rfl
@[simp] theorem State.modCore_ecsize (s : State) (c : Nat) (f : Core → Core) : (s.modCore c f).ecsize = s.ecsize := rfl
@[simp] theorem State.modCore_ectail (s : State) (c : Nat) (f : Core → Core) : (s.modCore c f).ectail = s.ectail := rfl
@[simp] theorem State.modCore_echead (s : State) (c : Nat) (f : Core → Core) : (s.modCore c f).echead = s.echead := rfl
@[simp] theorem State.modCore_ecval (s : State) (c : Nat) (f : Core → Core) : (s.modCore c f).ecval = s.ecval := rfl
@[simp] theorem State.modCore_envCalls (s : State) (c : Nat) (f : Core → Core) : (s.modCore c f).envCalls = s.envCalls := rfl
@[simp] theorem State.modCore_pageReqs (s : State) (c : Nat) (f : Core → Core) : (s.modCore c f).pageReqs = s.pageReqs := rfl
@[simp] theorem State.modCore_atsInvs (s : State) (c : Nat) (f : Core → Core) : (s.modCore c f).atsInvs = s.atsInvs := rfl
@[simp] theorem State.modCore_barData (s : State) (c : Nat) (f : Core → Core) : (s.modCore c f).barData = s.barData := rfl
@[simp] theorem State.modCore_cxlData (s : State) (c : Nat) (f : Core → Core) : (s.modCore c f).cxlData = s.cxlData := rfl
@[simp] theorem State.modCore_cxlPoison (s : State) (c : Nat) (f : Core → Core) : (s.modCore c f).cxlPoison = s.cxlPoison := rfl
@[simp] theorem State.modCore_hostLines (s : State) (c : Nat) (f : Core → Core) : (s.modCore c f).hostLines = s.hostLines := rfl
@[simp] theorem State.modCore_snoops (s : State) (c : Nat) (f : Core → Core) : (s.modCore c f).snoops = s.snoops := rfl
@[simp] theorem State.modCore_loopctl (s : State) (c : Nat) (f : Core → Core) : (s.modCore c f).loopctl = s.loopctl := rfl
@[simp] theorem State.modCore_scrubPeriod (s : State) (c : Nat) (f : Core → Core) : (s.modCore c f).scrubPeriod = s.scrubPeriod := rfl
@[simp] theorem State.modCore_scrubDue (s : State) (c : Nat) (f : Core → Core) : (s.modCore c f).scrubDue = s.scrubDue := rfl
@[simp] theorem State.modCore_quietHours (s : State) (c : Nat) (f : Core → Core) : (s.modCore c f).quietHours = s.quietHours := rfl
@[simp] theorem State.modCore_scrubHours (s : State) (c : Nat) (f : Core → Core) : (s.modCore c f).scrubHours = s.scrubHours := rfl
@[simp] theorem State.modCore_corrected (s : State) (c : Nat) (f : Core → Core) : (s.modCore c f).corrected = s.corrected := rfl
@[simp] theorem State.modCore_life (s : State) (c : Nat) (f : Core → Core) : (s.modCore c f).life = s.life := rfl
@[simp] theorem State.modCore_lifeRecent (s : State) (c : Nat) (f : Core → Core) : (s.modCore c f).lifeRecent = s.lifeRecent := rfl
@[simp] theorem State.modCore_lifeDue (s : State) (c : Nat) (f : Core → Core) : (s.modCore c f).lifeDue = s.lifeDue := rfl
@[simp] theorem State.modCore_raisedSecurity (s : State) (c : Nat) (f : Core → Core) : (s.modCore c f).raisedSecurity = s.raisedSecurity := rfl
@[simp] theorem State.modCore_session (s : State) (c : Nat) (f : Core → Core) : (s.modCore c f).session = s.session := rfl
@[simp] theorem State.modCore_bringing (s : State) (c : Nat) (f : Core → Core) : (s.modCore c f).bringing = s.bringing := rfl
@[simp] theorem State.modCore_booting (s : State) (c : Nat) (f : Core → Core) : (s.modCore c f).booting = s.booting := rfl
@[simp] theorem State.modCore_core (s : State) (c : Nat) (f : Core → Core) : (s.modCore c f).core = s.core := rfl
@[simp] theorem State.modCore_slot (s : State) (c : Nat) (f : Core → Core) : (s.modCore c f).slot = s.slot := rfl
@[simp] theorem State.modCore_issuing (s : State) (c : Nat) (f : Core → Core) : (s.modCore c f).issuing = s.issuing := rfl
@[simp] theorem State.modCore_going (s : State) (c : Nat) (f : Core → Core) : (s.modCore c f).going = s.going := rfl
@[simp] theorem State.modCore_agenda (s : State) (c : Nat) (f : Core → Core) : (s.modCore c f).agenda = s.agenda := rfl
@[simp] theorem State.modCore_turn (s : State) (c : Nat) (f : Core → Core) : (s.modCore c f).turn = s.turn := rfl
@[simp] theorem State.modCore_clock (s : State) (c : Nat) (f : Core → Core) : (s.modCore c f).clock = s.clock := rfl
@[simp] theorem State.modCore_wants (s : State) (c : Nat) (f : Core → Core) : (s.modCore c f).wants = s.wants := rfl
@[simp] theorem State.modCore_free (s : State) (c : Nat) (f : Core → Core) : (s.modCore c f).free = s.free := rfl
@[simp] theorem State.modCore_ident (s : State) (c : Nat) (f : Core → Core) : (s.modCore c f).ident = s.ident := rfl

@[simp] theorem State.setCluster_mem (s : State) (c : Nat) (k : Cluster) : (s.setCluster c k).mem = s.mem := rfl
@[simp] theorem State.setCluster_poison (s : State) (c : Nat) (k : Cluster) : (s.setCluster c k).poison = s.poison := rfl
@[simp] theorem State.setCluster_entryMarks (s : State) (c : Nat) (k : Cluster) : (s.setCluster c k).entryMarks = s.entryMarks := rfl
@[simp] theorem State.setCluster_cores (s : State) (c : Nat) (k : Cluster) : (s.setCluster c k).cores = s.cores := rfl
@[simp] theorem State.setCluster_pchs (s : State) (c : Nat) (k : Cluster) : (s.setCluster c k).pchs = s.pchs := rfl
@[simp] theorem State.setCluster_homes (s : State) (c : Nat) (k : Cluster) : (s.setCluster c k).homes = s.homes := rfl
@[simp] theorem State.setCluster_nextLid (s : State) (c : Nat) (k : Cluster) : (s.setCluster c k).nextLid = s.nextLid := rfl
@[simp] theorem State.setCluster_queued (s : State) (c : Nat) (k : Cluster) : (s.setCluster c k).queued = s.queued := rfl
@[simp] theorem State.setCluster_placed (s : State) (c : Nat) (k : Cluster) : (s.setCluster c k).placed = s.placed := rfl
@[simp] theorem State.setCluster_ready (s : State) (c : Nat) (k : Cluster) : (s.setCluster c k).ready = s.ready := rfl
@[simp] theorem State.setCluster_bursts (s : State) (c : Nat) (k : Cluster) : (s.setCluster c k).bursts = s.bursts := rfl
@[simp] theorem State.setCluster_queues (s : State) (c : Nat) (k : Cluster) : (s.setCluster c k).queues = s.queues := rfl
@[simp] theorem State.setCluster_watches (s : State) (c : Nat) (k : Cluster) : (s.setCluster c k).watches = s.watches := rfl
@[simp] theorem State.setCluster_flights (s : State) (c : Nat) (k : Cluster) : (s.setCluster c k).flights = s.flights := rfl
@[simp] theorem State.setCluster_messages (s : State) (c : Nat) (k : Cluster) : (s.setCluster c k).messages = s.messages := rfl
@[simp] theorem State.setCluster_spawns (s : State) (c : Nat) (k : Cluster) : (s.setCluster c k).spawns = s.spawns := rfl
@[simp] theorem State.setCluster_unitReqs (s : State) (c : Nat) (k : Cluster) : (s.setCluster c k).unitReqs = s.unitReqs := rfl
@[simp] theorem State.setCluster_evnote (s : State) (c : Nat) (k : Cluster) : (s.setCluster c k).evnote = s.evnote := rfl
@[simp] theorem State.setCluster_landReqs (s : State) (c : Nat) (k : Cluster) : (s.setCluster c k).landReqs = s.landReqs := rfl
@[simp] theorem State.setCluster_transits (s : State) (c : Nat) (k : Cluster) : (s.setCluster c k).transits = s.transits := rfl
@[simp] theorem State.setCluster_crossings (s : State) (c : Nat) (k : Cluster) : (s.setCluster c k).crossings = s.crossings := rfl
@[simp] theorem State.setCluster_granted (s : State) (c : Nat) (k : Cluster) : (s.setCluster c k).granted = s.granted := rfl
@[simp] theorem State.setCluster_images (s : State) (c : Nat) (k : Cluster) : (s.setCluster c k).images = s.images := rfl
@[simp] theorem State.setCluster_errWords (s : State) (c : Nat) (k : Cluster) : (s.setCluster c k).errWords = s.errWords := rfl
@[simp] theorem State.setCluster_history (s : State) (c : Nat) (k : Cluster) : (s.setCluster c k).history = s.history := rfl
@[simp] theorem State.setCluster_outstanding (s : State) (c : Nat) (k : Cluster) : (s.setCluster c k).outstanding = s.outstanding := rfl
@[simp] theorem State.setCluster_taskRetries (s : State) (c : Nat) (k : Cluster) : (s.setCluster c k).taskRetries = s.taskRetries := rfl
@[simp] theorem State.setCluster_colls (s : State) (c : Nat) (k : Cluster) : (s.setCluster c k).colls = s.colls := rfl
@[simp] theorem State.setCluster_memberships (s : State) (c : Nat) (k : Cluster) : (s.setCluster c k).memberships = s.memberships := rfl
@[simp] theorem State.setCluster_apertures (s : State) (c : Nat) (k : Cluster) : (s.setCluster c k).apertures = s.apertures := rfl
@[simp] theorem State.setCluster_ports (s : State) (c : Nat) (k : Cluster) : (s.setCluster c k).ports = s.ports := rfl
@[simp] theorem State.setCluster_peerReqs (s : State) (c : Nat) (k : Cluster) : (s.setCluster c k).peerReqs = s.peerReqs := rfl
@[simp] theorem State.setCluster_peerData (s : State) (c : Nat) (k : Cluster) : (s.setCluster c k).peerData = s.peerData := rfl
@[simp] theorem State.setCluster_peerCalls (s : State) (c : Nat) (k : Cluster) : (s.setCluster c k).peerCalls = s.peerCalls := rfl
@[simp] theorem State.setCluster_heldRanks (s : State) (c : Nat) (k : Cluster) : (s.setCluster c k).heldRanks = s.heldRanks := rfl
@[simp] theorem State.setCluster_events (s : State) (c : Nat) (k : Cluster) : (s.setCluster c k).events = s.events := rfl
@[simp] theorem State.setCluster_eventsLost (s : State) (c : Nat) (k : Cluster) : (s.setCluster c k).eventsLost = s.eventsLost := rfl
@[simp] theorem State.setCluster_mgmt (s : State) (c : Nat) (k : Cluster) : (s.setCluster c k).mgmt = s.mgmt := rfl
@[simp] theorem State.setCluster_mgmtWaiting (s : State) (c : Nat) (k : Cluster) : (s.setCluster c k).mgmtWaiting = s.mgmtWaiting := rfl
@[simp] theorem State.setCluster_mgmtLatch (s : State) (c : Nat) (k : Cluster) : (s.setCluster c k).mgmtLatch = s.mgmtLatch := rfl
@[simp] theorem State.setCluster_hlqstat (s : State) (c : Nat) (k : Cluster) : (s.setCluster c k).hlqstat = s.hlqstat := rfl
@[simp] theorem State.setCluster_hlqReqs (s : State) (c : Nat) (k : Cluster) : (s.setCluster c k).hlqReqs = s.hlqReqs := rfl
@[simp] theorem State.setCluster_ecbase (s : State) (c : Nat) (k : Cluster) : (s.setCluster c k).ecbase = s.ecbase := rfl
@[simp] theorem State.setCluster_ecsize (s : State) (c : Nat) (k : Cluster) : (s.setCluster c k).ecsize = s.ecsize := rfl
@[simp] theorem State.setCluster_ectail (s : State) (c : Nat) (k : Cluster) : (s.setCluster c k).ectail = s.ectail := rfl
@[simp] theorem State.setCluster_echead (s : State) (c : Nat) (k : Cluster) : (s.setCluster c k).echead = s.echead := rfl
@[simp] theorem State.setCluster_ecval (s : State) (c : Nat) (k : Cluster) : (s.setCluster c k).ecval = s.ecval := rfl
@[simp] theorem State.setCluster_envCalls (s : State) (c : Nat) (k : Cluster) : (s.setCluster c k).envCalls = s.envCalls := rfl
@[simp] theorem State.setCluster_pageReqs (s : State) (c : Nat) (k : Cluster) : (s.setCluster c k).pageReqs = s.pageReqs := rfl
@[simp] theorem State.setCluster_atsInvs (s : State) (c : Nat) (k : Cluster) : (s.setCluster c k).atsInvs = s.atsInvs := rfl
@[simp] theorem State.setCluster_barData (s : State) (c : Nat) (k : Cluster) : (s.setCluster c k).barData = s.barData := rfl
@[simp] theorem State.setCluster_cxlData (s : State) (c : Nat) (k : Cluster) : (s.setCluster c k).cxlData = s.cxlData := rfl
@[simp] theorem State.setCluster_cxlPoison (s : State) (c : Nat) (k : Cluster) : (s.setCluster c k).cxlPoison = s.cxlPoison := rfl
@[simp] theorem State.setCluster_hostLines (s : State) (c : Nat) (k : Cluster) : (s.setCluster c k).hostLines = s.hostLines := rfl
@[simp] theorem State.setCluster_snoops (s : State) (c : Nat) (k : Cluster) : (s.setCluster c k).snoops = s.snoops := rfl
@[simp] theorem State.setCluster_loopctl (s : State) (c : Nat) (k : Cluster) : (s.setCluster c k).loopctl = s.loopctl := rfl
@[simp] theorem State.setCluster_scrubPeriod (s : State) (c : Nat) (k : Cluster) : (s.setCluster c k).scrubPeriod = s.scrubPeriod := rfl
@[simp] theorem State.setCluster_scrubDue (s : State) (c : Nat) (k : Cluster) : (s.setCluster c k).scrubDue = s.scrubDue := rfl
@[simp] theorem State.setCluster_quietHours (s : State) (c : Nat) (k : Cluster) : (s.setCluster c k).quietHours = s.quietHours := rfl
@[simp] theorem State.setCluster_scrubHours (s : State) (c : Nat) (k : Cluster) : (s.setCluster c k).scrubHours = s.scrubHours := rfl
@[simp] theorem State.setCluster_corrected (s : State) (c : Nat) (k : Cluster) : (s.setCluster c k).corrected = s.corrected := rfl
@[simp] theorem State.setCluster_life (s : State) (c : Nat) (k : Cluster) : (s.setCluster c k).life = s.life := rfl
@[simp] theorem State.setCluster_lifeRecent (s : State) (c : Nat) (k : Cluster) : (s.setCluster c k).lifeRecent = s.lifeRecent := rfl
@[simp] theorem State.setCluster_lifeDue (s : State) (c : Nat) (k : Cluster) : (s.setCluster c k).lifeDue = s.lifeDue := rfl
@[simp] theorem State.setCluster_raisedSecurity (s : State) (c : Nat) (k : Cluster) : (s.setCluster c k).raisedSecurity = s.raisedSecurity := rfl
@[simp] theorem State.setCluster_session (s : State) (c : Nat) (k : Cluster) : (s.setCluster c k).session = s.session := rfl
@[simp] theorem State.setCluster_bringing (s : State) (c : Nat) (k : Cluster) : (s.setCluster c k).bringing = s.bringing := rfl
@[simp] theorem State.setCluster_booting (s : State) (c : Nat) (k : Cluster) : (s.setCluster c k).booting = s.booting := rfl
@[simp] theorem State.setCluster_core (s : State) (c : Nat) (k : Cluster) : (s.setCluster c k).core = s.core := rfl
@[simp] theorem State.setCluster_slot (s : State) (c : Nat) (k : Cluster) : (s.setCluster c k).slot = s.slot := rfl
@[simp] theorem State.setCluster_issuing (s : State) (c : Nat) (k : Cluster) : (s.setCluster c k).issuing = s.issuing := rfl
@[simp] theorem State.setCluster_going (s : State) (c : Nat) (k : Cluster) : (s.setCluster c k).going = s.going := rfl
@[simp] theorem State.setCluster_agenda (s : State) (c : Nat) (k : Cluster) : (s.setCluster c k).agenda = s.agenda := rfl
@[simp] theorem State.setCluster_turn (s : State) (c : Nat) (k : Cluster) : (s.setCluster c k).turn = s.turn := rfl
@[simp] theorem State.setCluster_clock (s : State) (c : Nat) (k : Cluster) : (s.setCluster c k).clock = s.clock := rfl
@[simp] theorem State.setCluster_wants (s : State) (c : Nat) (k : Cluster) : (s.setCluster c k).wants = s.wants := rfl
@[simp] theorem State.setCluster_free (s : State) (c : Nat) (k : Cluster) : (s.setCluster c k).free = s.free := rfl
@[simp] theorem State.setCluster_ident (s : State) (c : Nat) (k : Cluster) : (s.setCluster c k).ident = s.ident := rfl

@[simp] theorem State.modCluster_mem (s : State) (c : Nat) (f : Cluster → Cluster) : (s.modCluster c f).mem = s.mem := rfl
@[simp] theorem State.modCluster_poison (s : State) (c : Nat) (f : Cluster → Cluster) : (s.modCluster c f).poison = s.poison := rfl
@[simp] theorem State.modCluster_entryMarks (s : State) (c : Nat) (f : Cluster → Cluster) : (s.modCluster c f).entryMarks = s.entryMarks := rfl
@[simp] theorem State.modCluster_cores (s : State) (c : Nat) (f : Cluster → Cluster) : (s.modCluster c f).cores = s.cores := rfl
@[simp] theorem State.modCluster_pchs (s : State) (c : Nat) (f : Cluster → Cluster) : (s.modCluster c f).pchs = s.pchs := rfl
@[simp] theorem State.modCluster_homes (s : State) (c : Nat) (f : Cluster → Cluster) : (s.modCluster c f).homes = s.homes := rfl
@[simp] theorem State.modCluster_nextLid (s : State) (c : Nat) (f : Cluster → Cluster) : (s.modCluster c f).nextLid = s.nextLid := rfl
@[simp] theorem State.modCluster_queued (s : State) (c : Nat) (f : Cluster → Cluster) : (s.modCluster c f).queued = s.queued := rfl
@[simp] theorem State.modCluster_placed (s : State) (c : Nat) (f : Cluster → Cluster) : (s.modCluster c f).placed = s.placed := rfl
@[simp] theorem State.modCluster_ready (s : State) (c : Nat) (f : Cluster → Cluster) : (s.modCluster c f).ready = s.ready := rfl
@[simp] theorem State.modCluster_bursts (s : State) (c : Nat) (f : Cluster → Cluster) : (s.modCluster c f).bursts = s.bursts := rfl
@[simp] theorem State.modCluster_queues (s : State) (c : Nat) (f : Cluster → Cluster) : (s.modCluster c f).queues = s.queues := rfl
@[simp] theorem State.modCluster_watches (s : State) (c : Nat) (f : Cluster → Cluster) : (s.modCluster c f).watches = s.watches := rfl
@[simp] theorem State.modCluster_flights (s : State) (c : Nat) (f : Cluster → Cluster) : (s.modCluster c f).flights = s.flights := rfl
@[simp] theorem State.modCluster_messages (s : State) (c : Nat) (f : Cluster → Cluster) : (s.modCluster c f).messages = s.messages := rfl
@[simp] theorem State.modCluster_spawns (s : State) (c : Nat) (f : Cluster → Cluster) : (s.modCluster c f).spawns = s.spawns := rfl
@[simp] theorem State.modCluster_unitReqs (s : State) (c : Nat) (f : Cluster → Cluster) : (s.modCluster c f).unitReqs = s.unitReqs := rfl
@[simp] theorem State.modCluster_evnote (s : State) (c : Nat) (f : Cluster → Cluster) : (s.modCluster c f).evnote = s.evnote := rfl
@[simp] theorem State.modCluster_landReqs (s : State) (c : Nat) (f : Cluster → Cluster) : (s.modCluster c f).landReqs = s.landReqs := rfl
@[simp] theorem State.modCluster_transits (s : State) (c : Nat) (f : Cluster → Cluster) : (s.modCluster c f).transits = s.transits := rfl
@[simp] theorem State.modCluster_crossings (s : State) (c : Nat) (f : Cluster → Cluster) : (s.modCluster c f).crossings = s.crossings := rfl
@[simp] theorem State.modCluster_granted (s : State) (c : Nat) (f : Cluster → Cluster) : (s.modCluster c f).granted = s.granted := rfl
@[simp] theorem State.modCluster_images (s : State) (c : Nat) (f : Cluster → Cluster) : (s.modCluster c f).images = s.images := rfl
@[simp] theorem State.modCluster_errWords (s : State) (c : Nat) (f : Cluster → Cluster) : (s.modCluster c f).errWords = s.errWords := rfl
@[simp] theorem State.modCluster_history (s : State) (c : Nat) (f : Cluster → Cluster) : (s.modCluster c f).history = s.history := rfl
@[simp] theorem State.modCluster_outstanding (s : State) (c : Nat) (f : Cluster → Cluster) : (s.modCluster c f).outstanding = s.outstanding := rfl
@[simp] theorem State.modCluster_taskRetries (s : State) (c : Nat) (f : Cluster → Cluster) : (s.modCluster c f).taskRetries = s.taskRetries := rfl
@[simp] theorem State.modCluster_colls (s : State) (c : Nat) (f : Cluster → Cluster) : (s.modCluster c f).colls = s.colls := rfl
@[simp] theorem State.modCluster_memberships (s : State) (c : Nat) (f : Cluster → Cluster) : (s.modCluster c f).memberships = s.memberships := rfl
@[simp] theorem State.modCluster_apertures (s : State) (c : Nat) (f : Cluster → Cluster) : (s.modCluster c f).apertures = s.apertures := rfl
@[simp] theorem State.modCluster_ports (s : State) (c : Nat) (f : Cluster → Cluster) : (s.modCluster c f).ports = s.ports := rfl
@[simp] theorem State.modCluster_peerReqs (s : State) (c : Nat) (f : Cluster → Cluster) : (s.modCluster c f).peerReqs = s.peerReqs := rfl
@[simp] theorem State.modCluster_peerData (s : State) (c : Nat) (f : Cluster → Cluster) : (s.modCluster c f).peerData = s.peerData := rfl
@[simp] theorem State.modCluster_peerCalls (s : State) (c : Nat) (f : Cluster → Cluster) : (s.modCluster c f).peerCalls = s.peerCalls := rfl
@[simp] theorem State.modCluster_heldRanks (s : State) (c : Nat) (f : Cluster → Cluster) : (s.modCluster c f).heldRanks = s.heldRanks := rfl
@[simp] theorem State.modCluster_events (s : State) (c : Nat) (f : Cluster → Cluster) : (s.modCluster c f).events = s.events := rfl
@[simp] theorem State.modCluster_eventsLost (s : State) (c : Nat) (f : Cluster → Cluster) : (s.modCluster c f).eventsLost = s.eventsLost := rfl
@[simp] theorem State.modCluster_mgmt (s : State) (c : Nat) (f : Cluster → Cluster) : (s.modCluster c f).mgmt = s.mgmt := rfl
@[simp] theorem State.modCluster_mgmtWaiting (s : State) (c : Nat) (f : Cluster → Cluster) : (s.modCluster c f).mgmtWaiting = s.mgmtWaiting := rfl
@[simp] theorem State.modCluster_mgmtLatch (s : State) (c : Nat) (f : Cluster → Cluster) : (s.modCluster c f).mgmtLatch = s.mgmtLatch := rfl
@[simp] theorem State.modCluster_hlqstat (s : State) (c : Nat) (f : Cluster → Cluster) : (s.modCluster c f).hlqstat = s.hlqstat := rfl
@[simp] theorem State.modCluster_hlqReqs (s : State) (c : Nat) (f : Cluster → Cluster) : (s.modCluster c f).hlqReqs = s.hlqReqs := rfl
@[simp] theorem State.modCluster_ecbase (s : State) (c : Nat) (f : Cluster → Cluster) : (s.modCluster c f).ecbase = s.ecbase := rfl
@[simp] theorem State.modCluster_ecsize (s : State) (c : Nat) (f : Cluster → Cluster) : (s.modCluster c f).ecsize = s.ecsize := rfl
@[simp] theorem State.modCluster_ectail (s : State) (c : Nat) (f : Cluster → Cluster) : (s.modCluster c f).ectail = s.ectail := rfl
@[simp] theorem State.modCluster_echead (s : State) (c : Nat) (f : Cluster → Cluster) : (s.modCluster c f).echead = s.echead := rfl
@[simp] theorem State.modCluster_ecval (s : State) (c : Nat) (f : Cluster → Cluster) : (s.modCluster c f).ecval = s.ecval := rfl
@[simp] theorem State.modCluster_envCalls (s : State) (c : Nat) (f : Cluster → Cluster) : (s.modCluster c f).envCalls = s.envCalls := rfl
@[simp] theorem State.modCluster_pageReqs (s : State) (c : Nat) (f : Cluster → Cluster) : (s.modCluster c f).pageReqs = s.pageReqs := rfl
@[simp] theorem State.modCluster_atsInvs (s : State) (c : Nat) (f : Cluster → Cluster) : (s.modCluster c f).atsInvs = s.atsInvs := rfl
@[simp] theorem State.modCluster_barData (s : State) (c : Nat) (f : Cluster → Cluster) : (s.modCluster c f).barData = s.barData := rfl
@[simp] theorem State.modCluster_cxlData (s : State) (c : Nat) (f : Cluster → Cluster) : (s.modCluster c f).cxlData = s.cxlData := rfl
@[simp] theorem State.modCluster_cxlPoison (s : State) (c : Nat) (f : Cluster → Cluster) : (s.modCluster c f).cxlPoison = s.cxlPoison := rfl
@[simp] theorem State.modCluster_hostLines (s : State) (c : Nat) (f : Cluster → Cluster) : (s.modCluster c f).hostLines = s.hostLines := rfl
@[simp] theorem State.modCluster_snoops (s : State) (c : Nat) (f : Cluster → Cluster) : (s.modCluster c f).snoops = s.snoops := rfl
@[simp] theorem State.modCluster_loopctl (s : State) (c : Nat) (f : Cluster → Cluster) : (s.modCluster c f).loopctl = s.loopctl := rfl
@[simp] theorem State.modCluster_scrubPeriod (s : State) (c : Nat) (f : Cluster → Cluster) : (s.modCluster c f).scrubPeriod = s.scrubPeriod := rfl
@[simp] theorem State.modCluster_scrubDue (s : State) (c : Nat) (f : Cluster → Cluster) : (s.modCluster c f).scrubDue = s.scrubDue := rfl
@[simp] theorem State.modCluster_quietHours (s : State) (c : Nat) (f : Cluster → Cluster) : (s.modCluster c f).quietHours = s.quietHours := rfl
@[simp] theorem State.modCluster_scrubHours (s : State) (c : Nat) (f : Cluster → Cluster) : (s.modCluster c f).scrubHours = s.scrubHours := rfl
@[simp] theorem State.modCluster_corrected (s : State) (c : Nat) (f : Cluster → Cluster) : (s.modCluster c f).corrected = s.corrected := rfl
@[simp] theorem State.modCluster_life (s : State) (c : Nat) (f : Cluster → Cluster) : (s.modCluster c f).life = s.life := rfl
@[simp] theorem State.modCluster_lifeRecent (s : State) (c : Nat) (f : Cluster → Cluster) : (s.modCluster c f).lifeRecent = s.lifeRecent := rfl
@[simp] theorem State.modCluster_lifeDue (s : State) (c : Nat) (f : Cluster → Cluster) : (s.modCluster c f).lifeDue = s.lifeDue := rfl
@[simp] theorem State.modCluster_raisedSecurity (s : State) (c : Nat) (f : Cluster → Cluster) : (s.modCluster c f).raisedSecurity = s.raisedSecurity := rfl
@[simp] theorem State.modCluster_session (s : State) (c : Nat) (f : Cluster → Cluster) : (s.modCluster c f).session = s.session := rfl
@[simp] theorem State.modCluster_bringing (s : State) (c : Nat) (f : Cluster → Cluster) : (s.modCluster c f).bringing = s.bringing := rfl
@[simp] theorem State.modCluster_booting (s : State) (c : Nat) (f : Cluster → Cluster) : (s.modCluster c f).booting = s.booting := rfl
@[simp] theorem State.modCluster_core (s : State) (c : Nat) (f : Cluster → Cluster) : (s.modCluster c f).core = s.core := rfl
@[simp] theorem State.modCluster_slot (s : State) (c : Nat) (f : Cluster → Cluster) : (s.modCluster c f).slot = s.slot := rfl
@[simp] theorem State.modCluster_issuing (s : State) (c : Nat) (f : Cluster → Cluster) : (s.modCluster c f).issuing = s.issuing := rfl
@[simp] theorem State.modCluster_going (s : State) (c : Nat) (f : Cluster → Cluster) : (s.modCluster c f).going = s.going := rfl
@[simp] theorem State.modCluster_agenda (s : State) (c : Nat) (f : Cluster → Cluster) : (s.modCluster c f).agenda = s.agenda := rfl
@[simp] theorem State.modCluster_turn (s : State) (c : Nat) (f : Cluster → Cluster) : (s.modCluster c f).turn = s.turn := rfl
@[simp] theorem State.modCluster_clock (s : State) (c : Nat) (f : Cluster → Cluster) : (s.modCluster c f).clock = s.clock := rfl
@[simp] theorem State.modCluster_wants (s : State) (c : Nat) (f : Cluster → Cluster) : (s.modCluster c f).wants = s.wants := rfl
@[simp] theorem State.modCluster_free (s : State) (c : Nat) (f : Cluster → Cluster) : (s.modCluster c f).free = s.free := rfl
@[simp] theorem State.modCluster_ident (s : State) (c : Nat) (f : Cluster → Cluster) : (s.modCluster c f).ident = s.ident := rfl

@[simp] theorem State.setPch_mem (s : State) (a b : Nat) (p : Pch) : (s.setPch a b p).mem = s.mem := rfl
@[simp] theorem State.setPch_poison (s : State) (a b : Nat) (p : Pch) : (s.setPch a b p).poison = s.poison := rfl
@[simp] theorem State.setPch_entryMarks (s : State) (a b : Nat) (p : Pch) : (s.setPch a b p).entryMarks = s.entryMarks := rfl
@[simp] theorem State.setPch_cores (s : State) (a b : Nat) (p : Pch) : (s.setPch a b p).cores = s.cores := rfl
@[simp] theorem State.setPch_clusters (s : State) (a b : Nat) (p : Pch) : (s.setPch a b p).clusters = s.clusters := rfl
@[simp] theorem State.setPch_homes (s : State) (a b : Nat) (p : Pch) : (s.setPch a b p).homes = s.homes := rfl
@[simp] theorem State.setPch_nextLid (s : State) (a b : Nat) (p : Pch) : (s.setPch a b p).nextLid = s.nextLid := rfl
@[simp] theorem State.setPch_queued (s : State) (a b : Nat) (p : Pch) : (s.setPch a b p).queued = s.queued := rfl
@[simp] theorem State.setPch_placed (s : State) (a b : Nat) (p : Pch) : (s.setPch a b p).placed = s.placed := rfl
@[simp] theorem State.setPch_ready (s : State) (a b : Nat) (p : Pch) : (s.setPch a b p).ready = s.ready := rfl
@[simp] theorem State.setPch_bursts (s : State) (a b : Nat) (p : Pch) : (s.setPch a b p).bursts = s.bursts := rfl
@[simp] theorem State.setPch_queues (s : State) (a b : Nat) (p : Pch) : (s.setPch a b p).queues = s.queues := rfl
@[simp] theorem State.setPch_watches (s : State) (a b : Nat) (p : Pch) : (s.setPch a b p).watches = s.watches := rfl
@[simp] theorem State.setPch_flights (s : State) (a b : Nat) (p : Pch) : (s.setPch a b p).flights = s.flights := rfl
@[simp] theorem State.setPch_messages (s : State) (a b : Nat) (p : Pch) : (s.setPch a b p).messages = s.messages := rfl
@[simp] theorem State.setPch_spawns (s : State) (a b : Nat) (p : Pch) : (s.setPch a b p).spawns = s.spawns := rfl
@[simp] theorem State.setPch_unitReqs (s : State) (a b : Nat) (p : Pch) : (s.setPch a b p).unitReqs = s.unitReqs := rfl
@[simp] theorem State.setPch_evnote (s : State) (a b : Nat) (p : Pch) : (s.setPch a b p).evnote = s.evnote := rfl
@[simp] theorem State.setPch_landReqs (s : State) (a b : Nat) (p : Pch) : (s.setPch a b p).landReqs = s.landReqs := rfl
@[simp] theorem State.setPch_transits (s : State) (a b : Nat) (p : Pch) : (s.setPch a b p).transits = s.transits := rfl
@[simp] theorem State.setPch_crossings (s : State) (a b : Nat) (p : Pch) : (s.setPch a b p).crossings = s.crossings := rfl
@[simp] theorem State.setPch_granted (s : State) (a b : Nat) (p : Pch) : (s.setPch a b p).granted = s.granted := rfl
@[simp] theorem State.setPch_images (s : State) (a b : Nat) (p : Pch) : (s.setPch a b p).images = s.images := rfl
@[simp] theorem State.setPch_errWords (s : State) (a b : Nat) (p : Pch) : (s.setPch a b p).errWords = s.errWords := rfl
@[simp] theorem State.setPch_history (s : State) (a b : Nat) (p : Pch) : (s.setPch a b p).history = s.history := rfl
@[simp] theorem State.setPch_outstanding (s : State) (a b : Nat) (p : Pch) : (s.setPch a b p).outstanding = s.outstanding := rfl
@[simp] theorem State.setPch_taskRetries (s : State) (a b : Nat) (p : Pch) : (s.setPch a b p).taskRetries = s.taskRetries := rfl
@[simp] theorem State.setPch_colls (s : State) (a b : Nat) (p : Pch) : (s.setPch a b p).colls = s.colls := rfl
@[simp] theorem State.setPch_memberships (s : State) (a b : Nat) (p : Pch) : (s.setPch a b p).memberships = s.memberships := rfl
@[simp] theorem State.setPch_apertures (s : State) (a b : Nat) (p : Pch) : (s.setPch a b p).apertures = s.apertures := rfl
@[simp] theorem State.setPch_ports (s : State) (a b : Nat) (p : Pch) : (s.setPch a b p).ports = s.ports := rfl
@[simp] theorem State.setPch_peerReqs (s : State) (a b : Nat) (p : Pch) : (s.setPch a b p).peerReqs = s.peerReqs := rfl
@[simp] theorem State.setPch_peerData (s : State) (a b : Nat) (p : Pch) : (s.setPch a b p).peerData = s.peerData := rfl
@[simp] theorem State.setPch_peerCalls (s : State) (a b : Nat) (p : Pch) : (s.setPch a b p).peerCalls = s.peerCalls := rfl
@[simp] theorem State.setPch_heldRanks (s : State) (a b : Nat) (p : Pch) : (s.setPch a b p).heldRanks = s.heldRanks := rfl
@[simp] theorem State.setPch_events (s : State) (a b : Nat) (p : Pch) : (s.setPch a b p).events = s.events := rfl
@[simp] theorem State.setPch_eventsLost (s : State) (a b : Nat) (p : Pch) : (s.setPch a b p).eventsLost = s.eventsLost := rfl
@[simp] theorem State.setPch_mgmt (s : State) (a b : Nat) (p : Pch) : (s.setPch a b p).mgmt = s.mgmt := rfl
@[simp] theorem State.setPch_mgmtWaiting (s : State) (a b : Nat) (p : Pch) : (s.setPch a b p).mgmtWaiting = s.mgmtWaiting := rfl
@[simp] theorem State.setPch_mgmtLatch (s : State) (a b : Nat) (p : Pch) : (s.setPch a b p).mgmtLatch = s.mgmtLatch := rfl
@[simp] theorem State.setPch_hlqstat (s : State) (a b : Nat) (p : Pch) : (s.setPch a b p).hlqstat = s.hlqstat := rfl
@[simp] theorem State.setPch_hlqReqs (s : State) (a b : Nat) (p : Pch) : (s.setPch a b p).hlqReqs = s.hlqReqs := rfl
@[simp] theorem State.setPch_ecbase (s : State) (a b : Nat) (p : Pch) : (s.setPch a b p).ecbase = s.ecbase := rfl
@[simp] theorem State.setPch_ecsize (s : State) (a b : Nat) (p : Pch) : (s.setPch a b p).ecsize = s.ecsize := rfl
@[simp] theorem State.setPch_ectail (s : State) (a b : Nat) (p : Pch) : (s.setPch a b p).ectail = s.ectail := rfl
@[simp] theorem State.setPch_echead (s : State) (a b : Nat) (p : Pch) : (s.setPch a b p).echead = s.echead := rfl
@[simp] theorem State.setPch_ecval (s : State) (a b : Nat) (p : Pch) : (s.setPch a b p).ecval = s.ecval := rfl
@[simp] theorem State.setPch_envCalls (s : State) (a b : Nat) (p : Pch) : (s.setPch a b p).envCalls = s.envCalls := rfl
@[simp] theorem State.setPch_pageReqs (s : State) (a b : Nat) (p : Pch) : (s.setPch a b p).pageReqs = s.pageReqs := rfl
@[simp] theorem State.setPch_atsInvs (s : State) (a b : Nat) (p : Pch) : (s.setPch a b p).atsInvs = s.atsInvs := rfl
@[simp] theorem State.setPch_barData (s : State) (a b : Nat) (p : Pch) : (s.setPch a b p).barData = s.barData := rfl
@[simp] theorem State.setPch_cxlData (s : State) (a b : Nat) (p : Pch) : (s.setPch a b p).cxlData = s.cxlData := rfl
@[simp] theorem State.setPch_cxlPoison (s : State) (a b : Nat) (p : Pch) : (s.setPch a b p).cxlPoison = s.cxlPoison := rfl
@[simp] theorem State.setPch_hostLines (s : State) (a b : Nat) (p : Pch) : (s.setPch a b p).hostLines = s.hostLines := rfl
@[simp] theorem State.setPch_snoops (s : State) (a b : Nat) (p : Pch) : (s.setPch a b p).snoops = s.snoops := rfl
@[simp] theorem State.setPch_loopctl (s : State) (a b : Nat) (p : Pch) : (s.setPch a b p).loopctl = s.loopctl := rfl
@[simp] theorem State.setPch_scrubPeriod (s : State) (a b : Nat) (p : Pch) : (s.setPch a b p).scrubPeriod = s.scrubPeriod := rfl
@[simp] theorem State.setPch_scrubDue (s : State) (a b : Nat) (p : Pch) : (s.setPch a b p).scrubDue = s.scrubDue := rfl
@[simp] theorem State.setPch_quietHours (s : State) (a b : Nat) (p : Pch) : (s.setPch a b p).quietHours = s.quietHours := rfl
@[simp] theorem State.setPch_scrubHours (s : State) (a b : Nat) (p : Pch) : (s.setPch a b p).scrubHours = s.scrubHours := rfl
@[simp] theorem State.setPch_corrected (s : State) (a b : Nat) (p : Pch) : (s.setPch a b p).corrected = s.corrected := rfl
@[simp] theorem State.setPch_life (s : State) (a b : Nat) (p : Pch) : (s.setPch a b p).life = s.life := rfl
@[simp] theorem State.setPch_lifeRecent (s : State) (a b : Nat) (p : Pch) : (s.setPch a b p).lifeRecent = s.lifeRecent := rfl
@[simp] theorem State.setPch_lifeDue (s : State) (a b : Nat) (p : Pch) : (s.setPch a b p).lifeDue = s.lifeDue := rfl
@[simp] theorem State.setPch_raisedSecurity (s : State) (a b : Nat) (p : Pch) : (s.setPch a b p).raisedSecurity = s.raisedSecurity := rfl
@[simp] theorem State.setPch_session (s : State) (a b : Nat) (p : Pch) : (s.setPch a b p).session = s.session := rfl
@[simp] theorem State.setPch_bringing (s : State) (a b : Nat) (p : Pch) : (s.setPch a b p).bringing = s.bringing := rfl
@[simp] theorem State.setPch_booting (s : State) (a b : Nat) (p : Pch) : (s.setPch a b p).booting = s.booting := rfl
@[simp] theorem State.setPch_core (s : State) (a b : Nat) (p : Pch) : (s.setPch a b p).core = s.core := rfl
@[simp] theorem State.setPch_slot (s : State) (a b : Nat) (p : Pch) : (s.setPch a b p).slot = s.slot := rfl
@[simp] theorem State.setPch_issuing (s : State) (a b : Nat) (p : Pch) : (s.setPch a b p).issuing = s.issuing := rfl
@[simp] theorem State.setPch_going (s : State) (a b : Nat) (p : Pch) : (s.setPch a b p).going = s.going := rfl
@[simp] theorem State.setPch_agenda (s : State) (a b : Nat) (p : Pch) : (s.setPch a b p).agenda = s.agenda := rfl
@[simp] theorem State.setPch_turn (s : State) (a b : Nat) (p : Pch) : (s.setPch a b p).turn = s.turn := rfl
@[simp] theorem State.setPch_clock (s : State) (a b : Nat) (p : Pch) : (s.setPch a b p).clock = s.clock := rfl
@[simp] theorem State.setPch_wants (s : State) (a b : Nat) (p : Pch) : (s.setPch a b p).wants = s.wants := rfl
@[simp] theorem State.setPch_free (s : State) (a b : Nat) (p : Pch) : (s.setPch a b p).free = s.free := rfl
@[simp] theorem State.setPch_ident (s : State) (a b : Nat) (p : Pch) : (s.setPch a b p).ident = s.ident := rfl

@[simp] theorem State.setSlot_mem (s : State) (c k : Nat) (x : Slot) : (s.setSlot c k x).mem = s.mem := rfl
@[simp] theorem State.setSlot_poison (s : State) (c k : Nat) (x : Slot) : (s.setSlot c k x).poison = s.poison := rfl
@[simp] theorem State.setSlot_entryMarks (s : State) (c k : Nat) (x : Slot) : (s.setSlot c k x).entryMarks = s.entryMarks := rfl
@[simp] theorem State.setSlot_clusters (s : State) (c k : Nat) (x : Slot) : (s.setSlot c k x).clusters = s.clusters := rfl
@[simp] theorem State.setSlot_pchs (s : State) (c k : Nat) (x : Slot) : (s.setSlot c k x).pchs = s.pchs := rfl
@[simp] theorem State.setSlot_homes (s : State) (c k : Nat) (x : Slot) : (s.setSlot c k x).homes = s.homes := rfl
@[simp] theorem State.setSlot_nextLid (s : State) (c k : Nat) (x : Slot) : (s.setSlot c k x).nextLid = s.nextLid := rfl
@[simp] theorem State.setSlot_queued (s : State) (c k : Nat) (x : Slot) : (s.setSlot c k x).queued = s.queued := rfl
@[simp] theorem State.setSlot_placed (s : State) (c k : Nat) (x : Slot) : (s.setSlot c k x).placed = s.placed := rfl
@[simp] theorem State.setSlot_ready (s : State) (c k : Nat) (x : Slot) : (s.setSlot c k x).ready = s.ready := rfl
@[simp] theorem State.setSlot_bursts (s : State) (c k : Nat) (x : Slot) : (s.setSlot c k x).bursts = s.bursts := rfl
@[simp] theorem State.setSlot_queues (s : State) (c k : Nat) (x : Slot) : (s.setSlot c k x).queues = s.queues := rfl
@[simp] theorem State.setSlot_watches (s : State) (c k : Nat) (x : Slot) : (s.setSlot c k x).watches = s.watches := rfl
@[simp] theorem State.setSlot_flights (s : State) (c k : Nat) (x : Slot) : (s.setSlot c k x).flights = s.flights := rfl
@[simp] theorem State.setSlot_messages (s : State) (c k : Nat) (x : Slot) : (s.setSlot c k x).messages = s.messages := rfl
@[simp] theorem State.setSlot_spawns (s : State) (c k : Nat) (x : Slot) : (s.setSlot c k x).spawns = s.spawns := rfl
@[simp] theorem State.setSlot_unitReqs (s : State) (c k : Nat) (x : Slot) : (s.setSlot c k x).unitReqs = s.unitReqs := rfl
@[simp] theorem State.setSlot_evnote (s : State) (c k : Nat) (x : Slot) : (s.setSlot c k x).evnote = s.evnote := rfl
@[simp] theorem State.setSlot_landReqs (s : State) (c k : Nat) (x : Slot) : (s.setSlot c k x).landReqs = s.landReqs := rfl
@[simp] theorem State.setSlot_transits (s : State) (c k : Nat) (x : Slot) : (s.setSlot c k x).transits = s.transits := rfl
@[simp] theorem State.setSlot_crossings (s : State) (c k : Nat) (x : Slot) : (s.setSlot c k x).crossings = s.crossings := rfl
@[simp] theorem State.setSlot_granted (s : State) (c k : Nat) (x : Slot) : (s.setSlot c k x).granted = s.granted := rfl
@[simp] theorem State.setSlot_images (s : State) (c k : Nat) (x : Slot) : (s.setSlot c k x).images = s.images := rfl
@[simp] theorem State.setSlot_errWords (s : State) (c k : Nat) (x : Slot) : (s.setSlot c k x).errWords = s.errWords := rfl
@[simp] theorem State.setSlot_history (s : State) (c k : Nat) (x : Slot) : (s.setSlot c k x).history = s.history := rfl
@[simp] theorem State.setSlot_outstanding (s : State) (c k : Nat) (x : Slot) : (s.setSlot c k x).outstanding = s.outstanding := rfl
@[simp] theorem State.setSlot_taskRetries (s : State) (c k : Nat) (x : Slot) : (s.setSlot c k x).taskRetries = s.taskRetries := rfl
@[simp] theorem State.setSlot_colls (s : State) (c k : Nat) (x : Slot) : (s.setSlot c k x).colls = s.colls := rfl
@[simp] theorem State.setSlot_memberships (s : State) (c k : Nat) (x : Slot) : (s.setSlot c k x).memberships = s.memberships := rfl
@[simp] theorem State.setSlot_apertures (s : State) (c k : Nat) (x : Slot) : (s.setSlot c k x).apertures = s.apertures := rfl
@[simp] theorem State.setSlot_ports (s : State) (c k : Nat) (x : Slot) : (s.setSlot c k x).ports = s.ports := rfl
@[simp] theorem State.setSlot_peerReqs (s : State) (c k : Nat) (x : Slot) : (s.setSlot c k x).peerReqs = s.peerReqs := rfl
@[simp] theorem State.setSlot_peerData (s : State) (c k : Nat) (x : Slot) : (s.setSlot c k x).peerData = s.peerData := rfl
@[simp] theorem State.setSlot_peerCalls (s : State) (c k : Nat) (x : Slot) : (s.setSlot c k x).peerCalls = s.peerCalls := rfl
@[simp] theorem State.setSlot_heldRanks (s : State) (c k : Nat) (x : Slot) : (s.setSlot c k x).heldRanks = s.heldRanks := rfl
@[simp] theorem State.setSlot_events (s : State) (c k : Nat) (x : Slot) : (s.setSlot c k x).events = s.events := rfl
@[simp] theorem State.setSlot_eventsLost (s : State) (c k : Nat) (x : Slot) : (s.setSlot c k x).eventsLost = s.eventsLost := rfl
@[simp] theorem State.setSlot_mgmt (s : State) (c k : Nat) (x : Slot) : (s.setSlot c k x).mgmt = s.mgmt := rfl
@[simp] theorem State.setSlot_mgmtWaiting (s : State) (c k : Nat) (x : Slot) : (s.setSlot c k x).mgmtWaiting = s.mgmtWaiting := rfl
@[simp] theorem State.setSlot_mgmtLatch (s : State) (c k : Nat) (x : Slot) : (s.setSlot c k x).mgmtLatch = s.mgmtLatch := rfl
@[simp] theorem State.setSlot_hlqstat (s : State) (c k : Nat) (x : Slot) : (s.setSlot c k x).hlqstat = s.hlqstat := rfl
@[simp] theorem State.setSlot_hlqReqs (s : State) (c k : Nat) (x : Slot) : (s.setSlot c k x).hlqReqs = s.hlqReqs := rfl
@[simp] theorem State.setSlot_ecbase (s : State) (c k : Nat) (x : Slot) : (s.setSlot c k x).ecbase = s.ecbase := rfl
@[simp] theorem State.setSlot_ecsize (s : State) (c k : Nat) (x : Slot) : (s.setSlot c k x).ecsize = s.ecsize := rfl
@[simp] theorem State.setSlot_ectail (s : State) (c k : Nat) (x : Slot) : (s.setSlot c k x).ectail = s.ectail := rfl
@[simp] theorem State.setSlot_echead (s : State) (c k : Nat) (x : Slot) : (s.setSlot c k x).echead = s.echead := rfl
@[simp] theorem State.setSlot_ecval (s : State) (c k : Nat) (x : Slot) : (s.setSlot c k x).ecval = s.ecval := rfl
@[simp] theorem State.setSlot_envCalls (s : State) (c k : Nat) (x : Slot) : (s.setSlot c k x).envCalls = s.envCalls := rfl
@[simp] theorem State.setSlot_pageReqs (s : State) (c k : Nat) (x : Slot) : (s.setSlot c k x).pageReqs = s.pageReqs := rfl
@[simp] theorem State.setSlot_atsInvs (s : State) (c k : Nat) (x : Slot) : (s.setSlot c k x).atsInvs = s.atsInvs := rfl
@[simp] theorem State.setSlot_barData (s : State) (c k : Nat) (x : Slot) : (s.setSlot c k x).barData = s.barData := rfl
@[simp] theorem State.setSlot_cxlData (s : State) (c k : Nat) (x : Slot) : (s.setSlot c k x).cxlData = s.cxlData := rfl
@[simp] theorem State.setSlot_cxlPoison (s : State) (c k : Nat) (x : Slot) : (s.setSlot c k x).cxlPoison = s.cxlPoison := rfl
@[simp] theorem State.setSlot_hostLines (s : State) (c k : Nat) (x : Slot) : (s.setSlot c k x).hostLines = s.hostLines := rfl
@[simp] theorem State.setSlot_snoops (s : State) (c k : Nat) (x : Slot) : (s.setSlot c k x).snoops = s.snoops := rfl
@[simp] theorem State.setSlot_loopctl (s : State) (c k : Nat) (x : Slot) : (s.setSlot c k x).loopctl = s.loopctl := rfl
@[simp] theorem State.setSlot_scrubPeriod (s : State) (c k : Nat) (x : Slot) : (s.setSlot c k x).scrubPeriod = s.scrubPeriod := rfl
@[simp] theorem State.setSlot_scrubDue (s : State) (c k : Nat) (x : Slot) : (s.setSlot c k x).scrubDue = s.scrubDue := rfl
@[simp] theorem State.setSlot_quietHours (s : State) (c k : Nat) (x : Slot) : (s.setSlot c k x).quietHours = s.quietHours := rfl
@[simp] theorem State.setSlot_scrubHours (s : State) (c k : Nat) (x : Slot) : (s.setSlot c k x).scrubHours = s.scrubHours := rfl
@[simp] theorem State.setSlot_corrected (s : State) (c k : Nat) (x : Slot) : (s.setSlot c k x).corrected = s.corrected := rfl
@[simp] theorem State.setSlot_life (s : State) (c k : Nat) (x : Slot) : (s.setSlot c k x).life = s.life := rfl
@[simp] theorem State.setSlot_lifeRecent (s : State) (c k : Nat) (x : Slot) : (s.setSlot c k x).lifeRecent = s.lifeRecent := rfl
@[simp] theorem State.setSlot_lifeDue (s : State) (c k : Nat) (x : Slot) : (s.setSlot c k x).lifeDue = s.lifeDue := rfl
@[simp] theorem State.setSlot_raisedSecurity (s : State) (c k : Nat) (x : Slot) : (s.setSlot c k x).raisedSecurity = s.raisedSecurity := rfl
@[simp] theorem State.setSlot_session (s : State) (c k : Nat) (x : Slot) : (s.setSlot c k x).session = s.session := rfl
@[simp] theorem State.setSlot_bringing (s : State) (c k : Nat) (x : Slot) : (s.setSlot c k x).bringing = s.bringing := rfl
@[simp] theorem State.setSlot_booting (s : State) (c k : Nat) (x : Slot) : (s.setSlot c k x).booting = s.booting := rfl
@[simp] theorem State.setSlot_core (s : State) (c k : Nat) (x : Slot) : (s.setSlot c k x).core = s.core := rfl
@[simp] theorem State.setSlot_slot (s : State) (c k : Nat) (x : Slot) : (s.setSlot c k x).slot = s.slot := rfl
@[simp] theorem State.setSlot_issuing (s : State) (c k : Nat) (x : Slot) : (s.setSlot c k x).issuing = s.issuing := rfl
@[simp] theorem State.setSlot_going (s : State) (c k : Nat) (x : Slot) : (s.setSlot c k x).going = s.going := rfl
@[simp] theorem State.setSlot_agenda (s : State) (c k : Nat) (x : Slot) : (s.setSlot c k x).agenda = s.agenda := rfl
@[simp] theorem State.setSlot_turn (s : State) (c k : Nat) (x : Slot) : (s.setSlot c k x).turn = s.turn := rfl
@[simp] theorem State.setSlot_clock (s : State) (c k : Nat) (x : Slot) : (s.setSlot c k x).clock = s.clock := rfl
@[simp] theorem State.setSlot_wants (s : State) (c k : Nat) (x : Slot) : (s.setSlot c k x).wants = s.wants := rfl
@[simp] theorem State.setSlot_free (s : State) (c k : Nat) (x : Slot) : (s.setSlot c k x).free = s.free := rfl
@[simp] theorem State.setSlot_ident (s : State) (c k : Nat) (x : Slot) : (s.setSlot c k x).ident = s.ident := rfl

@[simp] theorem State.modSlot_mem (s : State) (c k : Nat) (f : Slot → Slot) : (s.modSlot c k f).mem = s.mem := rfl
@[simp] theorem State.modSlot_poison (s : State) (c k : Nat) (f : Slot → Slot) : (s.modSlot c k f).poison = s.poison := rfl
@[simp] theorem State.modSlot_entryMarks (s : State) (c k : Nat) (f : Slot → Slot) : (s.modSlot c k f).entryMarks = s.entryMarks := rfl
@[simp] theorem State.modSlot_clusters (s : State) (c k : Nat) (f : Slot → Slot) : (s.modSlot c k f).clusters = s.clusters := rfl
@[simp] theorem State.modSlot_pchs (s : State) (c k : Nat) (f : Slot → Slot) : (s.modSlot c k f).pchs = s.pchs := rfl
@[simp] theorem State.modSlot_homes (s : State) (c k : Nat) (f : Slot → Slot) : (s.modSlot c k f).homes = s.homes := rfl
@[simp] theorem State.modSlot_nextLid (s : State) (c k : Nat) (f : Slot → Slot) : (s.modSlot c k f).nextLid = s.nextLid := rfl
@[simp] theorem State.modSlot_queued (s : State) (c k : Nat) (f : Slot → Slot) : (s.modSlot c k f).queued = s.queued := rfl
@[simp] theorem State.modSlot_placed (s : State) (c k : Nat) (f : Slot → Slot) : (s.modSlot c k f).placed = s.placed := rfl
@[simp] theorem State.modSlot_ready (s : State) (c k : Nat) (f : Slot → Slot) : (s.modSlot c k f).ready = s.ready := rfl
@[simp] theorem State.modSlot_bursts (s : State) (c k : Nat) (f : Slot → Slot) : (s.modSlot c k f).bursts = s.bursts := rfl
@[simp] theorem State.modSlot_queues (s : State) (c k : Nat) (f : Slot → Slot) : (s.modSlot c k f).queues = s.queues := rfl
@[simp] theorem State.modSlot_watches (s : State) (c k : Nat) (f : Slot → Slot) : (s.modSlot c k f).watches = s.watches := rfl
@[simp] theorem State.modSlot_flights (s : State) (c k : Nat) (f : Slot → Slot) : (s.modSlot c k f).flights = s.flights := rfl
@[simp] theorem State.modSlot_messages (s : State) (c k : Nat) (f : Slot → Slot) : (s.modSlot c k f).messages = s.messages := rfl
@[simp] theorem State.modSlot_spawns (s : State) (c k : Nat) (f : Slot → Slot) : (s.modSlot c k f).spawns = s.spawns := rfl
@[simp] theorem State.modSlot_unitReqs (s : State) (c k : Nat) (f : Slot → Slot) : (s.modSlot c k f).unitReqs = s.unitReqs := rfl
@[simp] theorem State.modSlot_evnote (s : State) (c k : Nat) (f : Slot → Slot) : (s.modSlot c k f).evnote = s.evnote := rfl
@[simp] theorem State.modSlot_landReqs (s : State) (c k : Nat) (f : Slot → Slot) : (s.modSlot c k f).landReqs = s.landReqs := rfl
@[simp] theorem State.modSlot_transits (s : State) (c k : Nat) (f : Slot → Slot) : (s.modSlot c k f).transits = s.transits := rfl
@[simp] theorem State.modSlot_crossings (s : State) (c k : Nat) (f : Slot → Slot) : (s.modSlot c k f).crossings = s.crossings := rfl
@[simp] theorem State.modSlot_granted (s : State) (c k : Nat) (f : Slot → Slot) : (s.modSlot c k f).granted = s.granted := rfl
@[simp] theorem State.modSlot_images (s : State) (c k : Nat) (f : Slot → Slot) : (s.modSlot c k f).images = s.images := rfl
@[simp] theorem State.modSlot_errWords (s : State) (c k : Nat) (f : Slot → Slot) : (s.modSlot c k f).errWords = s.errWords := rfl
@[simp] theorem State.modSlot_history (s : State) (c k : Nat) (f : Slot → Slot) : (s.modSlot c k f).history = s.history := rfl
@[simp] theorem State.modSlot_outstanding (s : State) (c k : Nat) (f : Slot → Slot) : (s.modSlot c k f).outstanding = s.outstanding := rfl
@[simp] theorem State.modSlot_taskRetries (s : State) (c k : Nat) (f : Slot → Slot) : (s.modSlot c k f).taskRetries = s.taskRetries := rfl
@[simp] theorem State.modSlot_colls (s : State) (c k : Nat) (f : Slot → Slot) : (s.modSlot c k f).colls = s.colls := rfl
@[simp] theorem State.modSlot_memberships (s : State) (c k : Nat) (f : Slot → Slot) : (s.modSlot c k f).memberships = s.memberships := rfl
@[simp] theorem State.modSlot_apertures (s : State) (c k : Nat) (f : Slot → Slot) : (s.modSlot c k f).apertures = s.apertures := rfl
@[simp] theorem State.modSlot_ports (s : State) (c k : Nat) (f : Slot → Slot) : (s.modSlot c k f).ports = s.ports := rfl
@[simp] theorem State.modSlot_peerReqs (s : State) (c k : Nat) (f : Slot → Slot) : (s.modSlot c k f).peerReqs = s.peerReqs := rfl
@[simp] theorem State.modSlot_peerData (s : State) (c k : Nat) (f : Slot → Slot) : (s.modSlot c k f).peerData = s.peerData := rfl
@[simp] theorem State.modSlot_peerCalls (s : State) (c k : Nat) (f : Slot → Slot) : (s.modSlot c k f).peerCalls = s.peerCalls := rfl
@[simp] theorem State.modSlot_heldRanks (s : State) (c k : Nat) (f : Slot → Slot) : (s.modSlot c k f).heldRanks = s.heldRanks := rfl
@[simp] theorem State.modSlot_events (s : State) (c k : Nat) (f : Slot → Slot) : (s.modSlot c k f).events = s.events := rfl
@[simp] theorem State.modSlot_eventsLost (s : State) (c k : Nat) (f : Slot → Slot) : (s.modSlot c k f).eventsLost = s.eventsLost := rfl
@[simp] theorem State.modSlot_mgmt (s : State) (c k : Nat) (f : Slot → Slot) : (s.modSlot c k f).mgmt = s.mgmt := rfl
@[simp] theorem State.modSlot_mgmtWaiting (s : State) (c k : Nat) (f : Slot → Slot) : (s.modSlot c k f).mgmtWaiting = s.mgmtWaiting := rfl
@[simp] theorem State.modSlot_mgmtLatch (s : State) (c k : Nat) (f : Slot → Slot) : (s.modSlot c k f).mgmtLatch = s.mgmtLatch := rfl
@[simp] theorem State.modSlot_hlqstat (s : State) (c k : Nat) (f : Slot → Slot) : (s.modSlot c k f).hlqstat = s.hlqstat := rfl
@[simp] theorem State.modSlot_hlqReqs (s : State) (c k : Nat) (f : Slot → Slot) : (s.modSlot c k f).hlqReqs = s.hlqReqs := rfl
@[simp] theorem State.modSlot_ecbase (s : State) (c k : Nat) (f : Slot → Slot) : (s.modSlot c k f).ecbase = s.ecbase := rfl
@[simp] theorem State.modSlot_ecsize (s : State) (c k : Nat) (f : Slot → Slot) : (s.modSlot c k f).ecsize = s.ecsize := rfl
@[simp] theorem State.modSlot_ectail (s : State) (c k : Nat) (f : Slot → Slot) : (s.modSlot c k f).ectail = s.ectail := rfl
@[simp] theorem State.modSlot_echead (s : State) (c k : Nat) (f : Slot → Slot) : (s.modSlot c k f).echead = s.echead := rfl
@[simp] theorem State.modSlot_ecval (s : State) (c k : Nat) (f : Slot → Slot) : (s.modSlot c k f).ecval = s.ecval := rfl
@[simp] theorem State.modSlot_envCalls (s : State) (c k : Nat) (f : Slot → Slot) : (s.modSlot c k f).envCalls = s.envCalls := rfl
@[simp] theorem State.modSlot_pageReqs (s : State) (c k : Nat) (f : Slot → Slot) : (s.modSlot c k f).pageReqs = s.pageReqs := rfl
@[simp] theorem State.modSlot_atsInvs (s : State) (c k : Nat) (f : Slot → Slot) : (s.modSlot c k f).atsInvs = s.atsInvs := rfl
@[simp] theorem State.modSlot_barData (s : State) (c k : Nat) (f : Slot → Slot) : (s.modSlot c k f).barData = s.barData := rfl
@[simp] theorem State.modSlot_cxlData (s : State) (c k : Nat) (f : Slot → Slot) : (s.modSlot c k f).cxlData = s.cxlData := rfl
@[simp] theorem State.modSlot_cxlPoison (s : State) (c k : Nat) (f : Slot → Slot) : (s.modSlot c k f).cxlPoison = s.cxlPoison := rfl
@[simp] theorem State.modSlot_hostLines (s : State) (c k : Nat) (f : Slot → Slot) : (s.modSlot c k f).hostLines = s.hostLines := rfl
@[simp] theorem State.modSlot_snoops (s : State) (c k : Nat) (f : Slot → Slot) : (s.modSlot c k f).snoops = s.snoops := rfl
@[simp] theorem State.modSlot_loopctl (s : State) (c k : Nat) (f : Slot → Slot) : (s.modSlot c k f).loopctl = s.loopctl := rfl
@[simp] theorem State.modSlot_scrubPeriod (s : State) (c k : Nat) (f : Slot → Slot) : (s.modSlot c k f).scrubPeriod = s.scrubPeriod := rfl
@[simp] theorem State.modSlot_scrubDue (s : State) (c k : Nat) (f : Slot → Slot) : (s.modSlot c k f).scrubDue = s.scrubDue := rfl
@[simp] theorem State.modSlot_quietHours (s : State) (c k : Nat) (f : Slot → Slot) : (s.modSlot c k f).quietHours = s.quietHours := rfl
@[simp] theorem State.modSlot_scrubHours (s : State) (c k : Nat) (f : Slot → Slot) : (s.modSlot c k f).scrubHours = s.scrubHours := rfl
@[simp] theorem State.modSlot_corrected (s : State) (c k : Nat) (f : Slot → Slot) : (s.modSlot c k f).corrected = s.corrected := rfl
@[simp] theorem State.modSlot_life (s : State) (c k : Nat) (f : Slot → Slot) : (s.modSlot c k f).life = s.life := rfl
@[simp] theorem State.modSlot_lifeRecent (s : State) (c k : Nat) (f : Slot → Slot) : (s.modSlot c k f).lifeRecent = s.lifeRecent := rfl
@[simp] theorem State.modSlot_lifeDue (s : State) (c k : Nat) (f : Slot → Slot) : (s.modSlot c k f).lifeDue = s.lifeDue := rfl
@[simp] theorem State.modSlot_raisedSecurity (s : State) (c k : Nat) (f : Slot → Slot) : (s.modSlot c k f).raisedSecurity = s.raisedSecurity := rfl
@[simp] theorem State.modSlot_session (s : State) (c k : Nat) (f : Slot → Slot) : (s.modSlot c k f).session = s.session := rfl
@[simp] theorem State.modSlot_bringing (s : State) (c k : Nat) (f : Slot → Slot) : (s.modSlot c k f).bringing = s.bringing := rfl
@[simp] theorem State.modSlot_booting (s : State) (c k : Nat) (f : Slot → Slot) : (s.modSlot c k f).booting = s.booting := rfl
@[simp] theorem State.modSlot_core (s : State) (c k : Nat) (f : Slot → Slot) : (s.modSlot c k f).core = s.core := rfl
@[simp] theorem State.modSlot_slot (s : State) (c k : Nat) (f : Slot → Slot) : (s.modSlot c k f).slot = s.slot := rfl
@[simp] theorem State.modSlot_issuing (s : State) (c k : Nat) (f : Slot → Slot) : (s.modSlot c k f).issuing = s.issuing := rfl
@[simp] theorem State.modSlot_going (s : State) (c k : Nat) (f : Slot → Slot) : (s.modSlot c k f).going = s.going := rfl
@[simp] theorem State.modSlot_agenda (s : State) (c k : Nat) (f : Slot → Slot) : (s.modSlot c k f).agenda = s.agenda := rfl
@[simp] theorem State.modSlot_turn (s : State) (c k : Nat) (f : Slot → Slot) : (s.modSlot c k f).turn = s.turn := rfl
@[simp] theorem State.modSlot_clock (s : State) (c k : Nat) (f : Slot → Slot) : (s.modSlot c k f).clock = s.clock := rfl
@[simp] theorem State.modSlot_wants (s : State) (c k : Nat) (f : Slot → Slot) : (s.modSlot c k f).wants = s.wants := rfl
@[simp] theorem State.modSlot_free (s : State) (c k : Nat) (f : Slot → Slot) : (s.modSlot c k f).free = s.free := rfl
@[simp] theorem State.modSlot_ident (s : State) (c k : Nat) (f : Slot → Slot) : (s.modSlot c k f).ident = s.ident := rfl

@[simp] theorem State.setMe_mem (s : State) (x : Slot) : (s.setMe x).mem = s.mem := rfl
@[simp] theorem State.setMe_poison (s : State) (x : Slot) : (s.setMe x).poison = s.poison := rfl
@[simp] theorem State.setMe_entryMarks (s : State) (x : Slot) : (s.setMe x).entryMarks = s.entryMarks := rfl
@[simp] theorem State.setMe_clusters (s : State) (x : Slot) : (s.setMe x).clusters = s.clusters := rfl
@[simp] theorem State.setMe_pchs (s : State) (x : Slot) : (s.setMe x).pchs = s.pchs := rfl
@[simp] theorem State.setMe_homes (s : State) (x : Slot) : (s.setMe x).homes = s.homes := rfl
@[simp] theorem State.setMe_nextLid (s : State) (x : Slot) : (s.setMe x).nextLid = s.nextLid := rfl
@[simp] theorem State.setMe_queued (s : State) (x : Slot) : (s.setMe x).queued = s.queued := rfl
@[simp] theorem State.setMe_placed (s : State) (x : Slot) : (s.setMe x).placed = s.placed := rfl
@[simp] theorem State.setMe_ready (s : State) (x : Slot) : (s.setMe x).ready = s.ready := rfl
@[simp] theorem State.setMe_bursts (s : State) (x : Slot) : (s.setMe x).bursts = s.bursts := rfl
@[simp] theorem State.setMe_queues (s : State) (x : Slot) : (s.setMe x).queues = s.queues := rfl
@[simp] theorem State.setMe_watches (s : State) (x : Slot) : (s.setMe x).watches = s.watches := rfl
@[simp] theorem State.setMe_flights (s : State) (x : Slot) : (s.setMe x).flights = s.flights := rfl
@[simp] theorem State.setMe_messages (s : State) (x : Slot) : (s.setMe x).messages = s.messages := rfl
@[simp] theorem State.setMe_spawns (s : State) (x : Slot) : (s.setMe x).spawns = s.spawns := rfl
@[simp] theorem State.setMe_unitReqs (s : State) (x : Slot) : (s.setMe x).unitReqs = s.unitReqs := rfl
@[simp] theorem State.setMe_evnote (s : State) (x : Slot) : (s.setMe x).evnote = s.evnote := rfl
@[simp] theorem State.setMe_landReqs (s : State) (x : Slot) : (s.setMe x).landReqs = s.landReqs := rfl
@[simp] theorem State.setMe_transits (s : State) (x : Slot) : (s.setMe x).transits = s.transits := rfl
@[simp] theorem State.setMe_crossings (s : State) (x : Slot) : (s.setMe x).crossings = s.crossings := rfl
@[simp] theorem State.setMe_granted (s : State) (x : Slot) : (s.setMe x).granted = s.granted := rfl
@[simp] theorem State.setMe_images (s : State) (x : Slot) : (s.setMe x).images = s.images := rfl
@[simp] theorem State.setMe_errWords (s : State) (x : Slot) : (s.setMe x).errWords = s.errWords := rfl
@[simp] theorem State.setMe_history (s : State) (x : Slot) : (s.setMe x).history = s.history := rfl
@[simp] theorem State.setMe_outstanding (s : State) (x : Slot) : (s.setMe x).outstanding = s.outstanding := rfl
@[simp] theorem State.setMe_taskRetries (s : State) (x : Slot) : (s.setMe x).taskRetries = s.taskRetries := rfl
@[simp] theorem State.setMe_colls (s : State) (x : Slot) : (s.setMe x).colls = s.colls := rfl
@[simp] theorem State.setMe_memberships (s : State) (x : Slot) : (s.setMe x).memberships = s.memberships := rfl
@[simp] theorem State.setMe_apertures (s : State) (x : Slot) : (s.setMe x).apertures = s.apertures := rfl
@[simp] theorem State.setMe_ports (s : State) (x : Slot) : (s.setMe x).ports = s.ports := rfl
@[simp] theorem State.setMe_peerReqs (s : State) (x : Slot) : (s.setMe x).peerReqs = s.peerReqs := rfl
@[simp] theorem State.setMe_peerData (s : State) (x : Slot) : (s.setMe x).peerData = s.peerData := rfl
@[simp] theorem State.setMe_peerCalls (s : State) (x : Slot) : (s.setMe x).peerCalls = s.peerCalls := rfl
@[simp] theorem State.setMe_heldRanks (s : State) (x : Slot) : (s.setMe x).heldRanks = s.heldRanks := rfl
@[simp] theorem State.setMe_events (s : State) (x : Slot) : (s.setMe x).events = s.events := rfl
@[simp] theorem State.setMe_eventsLost (s : State) (x : Slot) : (s.setMe x).eventsLost = s.eventsLost := rfl
@[simp] theorem State.setMe_mgmt (s : State) (x : Slot) : (s.setMe x).mgmt = s.mgmt := rfl
@[simp] theorem State.setMe_mgmtWaiting (s : State) (x : Slot) : (s.setMe x).mgmtWaiting = s.mgmtWaiting := rfl
@[simp] theorem State.setMe_mgmtLatch (s : State) (x : Slot) : (s.setMe x).mgmtLatch = s.mgmtLatch := rfl
@[simp] theorem State.setMe_hlqstat (s : State) (x : Slot) : (s.setMe x).hlqstat = s.hlqstat := rfl
@[simp] theorem State.setMe_hlqReqs (s : State) (x : Slot) : (s.setMe x).hlqReqs = s.hlqReqs := rfl
@[simp] theorem State.setMe_ecbase (s : State) (x : Slot) : (s.setMe x).ecbase = s.ecbase := rfl
@[simp] theorem State.setMe_ecsize (s : State) (x : Slot) : (s.setMe x).ecsize = s.ecsize := rfl
@[simp] theorem State.setMe_ectail (s : State) (x : Slot) : (s.setMe x).ectail = s.ectail := rfl
@[simp] theorem State.setMe_echead (s : State) (x : Slot) : (s.setMe x).echead = s.echead := rfl
@[simp] theorem State.setMe_ecval (s : State) (x : Slot) : (s.setMe x).ecval = s.ecval := rfl
@[simp] theorem State.setMe_envCalls (s : State) (x : Slot) : (s.setMe x).envCalls = s.envCalls := rfl
@[simp] theorem State.setMe_pageReqs (s : State) (x : Slot) : (s.setMe x).pageReqs = s.pageReqs := rfl
@[simp] theorem State.setMe_atsInvs (s : State) (x : Slot) : (s.setMe x).atsInvs = s.atsInvs := rfl
@[simp] theorem State.setMe_barData (s : State) (x : Slot) : (s.setMe x).barData = s.barData := rfl
@[simp] theorem State.setMe_cxlData (s : State) (x : Slot) : (s.setMe x).cxlData = s.cxlData := rfl
@[simp] theorem State.setMe_cxlPoison (s : State) (x : Slot) : (s.setMe x).cxlPoison = s.cxlPoison := rfl
@[simp] theorem State.setMe_hostLines (s : State) (x : Slot) : (s.setMe x).hostLines = s.hostLines := rfl
@[simp] theorem State.setMe_snoops (s : State) (x : Slot) : (s.setMe x).snoops = s.snoops := rfl
@[simp] theorem State.setMe_loopctl (s : State) (x : Slot) : (s.setMe x).loopctl = s.loopctl := rfl
@[simp] theorem State.setMe_scrubPeriod (s : State) (x : Slot) : (s.setMe x).scrubPeriod = s.scrubPeriod := rfl
@[simp] theorem State.setMe_scrubDue (s : State) (x : Slot) : (s.setMe x).scrubDue = s.scrubDue := rfl
@[simp] theorem State.setMe_quietHours (s : State) (x : Slot) : (s.setMe x).quietHours = s.quietHours := rfl
@[simp] theorem State.setMe_scrubHours (s : State) (x : Slot) : (s.setMe x).scrubHours = s.scrubHours := rfl
@[simp] theorem State.setMe_corrected (s : State) (x : Slot) : (s.setMe x).corrected = s.corrected := rfl
@[simp] theorem State.setMe_life (s : State) (x : Slot) : (s.setMe x).life = s.life := rfl
@[simp] theorem State.setMe_lifeRecent (s : State) (x : Slot) : (s.setMe x).lifeRecent = s.lifeRecent := rfl
@[simp] theorem State.setMe_lifeDue (s : State) (x : Slot) : (s.setMe x).lifeDue = s.lifeDue := rfl
@[simp] theorem State.setMe_raisedSecurity (s : State) (x : Slot) : (s.setMe x).raisedSecurity = s.raisedSecurity := rfl
@[simp] theorem State.setMe_session (s : State) (x : Slot) : (s.setMe x).session = s.session := rfl
@[simp] theorem State.setMe_bringing (s : State) (x : Slot) : (s.setMe x).bringing = s.bringing := rfl
@[simp] theorem State.setMe_booting (s : State) (x : Slot) : (s.setMe x).booting = s.booting := rfl
@[simp] theorem State.setMe_core (s : State) (x : Slot) : (s.setMe x).core = s.core := rfl
@[simp] theorem State.setMe_slot (s : State) (x : Slot) : (s.setMe x).slot = s.slot := rfl
@[simp] theorem State.setMe_issuing (s : State) (x : Slot) : (s.setMe x).issuing = s.issuing := rfl
@[simp] theorem State.setMe_going (s : State) (x : Slot) : (s.setMe x).going = s.going := rfl
@[simp] theorem State.setMe_agenda (s : State) (x : Slot) : (s.setMe x).agenda = s.agenda := rfl
@[simp] theorem State.setMe_turn (s : State) (x : Slot) : (s.setMe x).turn = s.turn := rfl
@[simp] theorem State.setMe_clock (s : State) (x : Slot) : (s.setMe x).clock = s.clock := rfl
@[simp] theorem State.setMe_wants (s : State) (x : Slot) : (s.setMe x).wants = s.wants := rfl
@[simp] theorem State.setMe_free (s : State) (x : Slot) : (s.setMe x).free = s.free := rfl
@[simp] theorem State.setMe_ident (s : State) (x : Slot) : (s.setMe x).ident = s.ident := rfl

@[simp] theorem State.modMe_mem (s : State) (f : Slot → Slot) : (s.modMe f).mem = s.mem := rfl
@[simp] theorem State.modMe_poison (s : State) (f : Slot → Slot) : (s.modMe f).poison = s.poison := rfl
@[simp] theorem State.modMe_entryMarks (s : State) (f : Slot → Slot) : (s.modMe f).entryMarks = s.entryMarks := rfl
@[simp] theorem State.modMe_clusters (s : State) (f : Slot → Slot) : (s.modMe f).clusters = s.clusters := rfl
@[simp] theorem State.modMe_pchs (s : State) (f : Slot → Slot) : (s.modMe f).pchs = s.pchs := rfl
@[simp] theorem State.modMe_homes (s : State) (f : Slot → Slot) : (s.modMe f).homes = s.homes := rfl
@[simp] theorem State.modMe_nextLid (s : State) (f : Slot → Slot) : (s.modMe f).nextLid = s.nextLid := rfl
@[simp] theorem State.modMe_queued (s : State) (f : Slot → Slot) : (s.modMe f).queued = s.queued := rfl
@[simp] theorem State.modMe_placed (s : State) (f : Slot → Slot) : (s.modMe f).placed = s.placed := rfl
@[simp] theorem State.modMe_ready (s : State) (f : Slot → Slot) : (s.modMe f).ready = s.ready := rfl
@[simp] theorem State.modMe_bursts (s : State) (f : Slot → Slot) : (s.modMe f).bursts = s.bursts := rfl
@[simp] theorem State.modMe_queues (s : State) (f : Slot → Slot) : (s.modMe f).queues = s.queues := rfl
@[simp] theorem State.modMe_watches (s : State) (f : Slot → Slot) : (s.modMe f).watches = s.watches := rfl
@[simp] theorem State.modMe_flights (s : State) (f : Slot → Slot) : (s.modMe f).flights = s.flights := rfl
@[simp] theorem State.modMe_messages (s : State) (f : Slot → Slot) : (s.modMe f).messages = s.messages := rfl
@[simp] theorem State.modMe_spawns (s : State) (f : Slot → Slot) : (s.modMe f).spawns = s.spawns := rfl
@[simp] theorem State.modMe_unitReqs (s : State) (f : Slot → Slot) : (s.modMe f).unitReqs = s.unitReqs := rfl
@[simp] theorem State.modMe_evnote (s : State) (f : Slot → Slot) : (s.modMe f).evnote = s.evnote := rfl
@[simp] theorem State.modMe_landReqs (s : State) (f : Slot → Slot) : (s.modMe f).landReqs = s.landReqs := rfl
@[simp] theorem State.modMe_transits (s : State) (f : Slot → Slot) : (s.modMe f).transits = s.transits := rfl
@[simp] theorem State.modMe_crossings (s : State) (f : Slot → Slot) : (s.modMe f).crossings = s.crossings := rfl
@[simp] theorem State.modMe_granted (s : State) (f : Slot → Slot) : (s.modMe f).granted = s.granted := rfl
@[simp] theorem State.modMe_images (s : State) (f : Slot → Slot) : (s.modMe f).images = s.images := rfl
@[simp] theorem State.modMe_errWords (s : State) (f : Slot → Slot) : (s.modMe f).errWords = s.errWords := rfl
@[simp] theorem State.modMe_history (s : State) (f : Slot → Slot) : (s.modMe f).history = s.history := rfl
@[simp] theorem State.modMe_outstanding (s : State) (f : Slot → Slot) : (s.modMe f).outstanding = s.outstanding := rfl
@[simp] theorem State.modMe_taskRetries (s : State) (f : Slot → Slot) : (s.modMe f).taskRetries = s.taskRetries := rfl
@[simp] theorem State.modMe_colls (s : State) (f : Slot → Slot) : (s.modMe f).colls = s.colls := rfl
@[simp] theorem State.modMe_memberships (s : State) (f : Slot → Slot) : (s.modMe f).memberships = s.memberships := rfl
@[simp] theorem State.modMe_apertures (s : State) (f : Slot → Slot) : (s.modMe f).apertures = s.apertures := rfl
@[simp] theorem State.modMe_ports (s : State) (f : Slot → Slot) : (s.modMe f).ports = s.ports := rfl
@[simp] theorem State.modMe_peerReqs (s : State) (f : Slot → Slot) : (s.modMe f).peerReqs = s.peerReqs := rfl
@[simp] theorem State.modMe_peerData (s : State) (f : Slot → Slot) : (s.modMe f).peerData = s.peerData := rfl
@[simp] theorem State.modMe_peerCalls (s : State) (f : Slot → Slot) : (s.modMe f).peerCalls = s.peerCalls := rfl
@[simp] theorem State.modMe_heldRanks (s : State) (f : Slot → Slot) : (s.modMe f).heldRanks = s.heldRanks := rfl
@[simp] theorem State.modMe_events (s : State) (f : Slot → Slot) : (s.modMe f).events = s.events := rfl
@[simp] theorem State.modMe_eventsLost (s : State) (f : Slot → Slot) : (s.modMe f).eventsLost = s.eventsLost := rfl
@[simp] theorem State.modMe_mgmt (s : State) (f : Slot → Slot) : (s.modMe f).mgmt = s.mgmt := rfl
@[simp] theorem State.modMe_mgmtWaiting (s : State) (f : Slot → Slot) : (s.modMe f).mgmtWaiting = s.mgmtWaiting := rfl
@[simp] theorem State.modMe_mgmtLatch (s : State) (f : Slot → Slot) : (s.modMe f).mgmtLatch = s.mgmtLatch := rfl
@[simp] theorem State.modMe_hlqstat (s : State) (f : Slot → Slot) : (s.modMe f).hlqstat = s.hlqstat := rfl
@[simp] theorem State.modMe_hlqReqs (s : State) (f : Slot → Slot) : (s.modMe f).hlqReqs = s.hlqReqs := rfl
@[simp] theorem State.modMe_ecbase (s : State) (f : Slot → Slot) : (s.modMe f).ecbase = s.ecbase := rfl
@[simp] theorem State.modMe_ecsize (s : State) (f : Slot → Slot) : (s.modMe f).ecsize = s.ecsize := rfl
@[simp] theorem State.modMe_ectail (s : State) (f : Slot → Slot) : (s.modMe f).ectail = s.ectail := rfl
@[simp] theorem State.modMe_echead (s : State) (f : Slot → Slot) : (s.modMe f).echead = s.echead := rfl
@[simp] theorem State.modMe_ecval (s : State) (f : Slot → Slot) : (s.modMe f).ecval = s.ecval := rfl
@[simp] theorem State.modMe_envCalls (s : State) (f : Slot → Slot) : (s.modMe f).envCalls = s.envCalls := rfl
@[simp] theorem State.modMe_pageReqs (s : State) (f : Slot → Slot) : (s.modMe f).pageReqs = s.pageReqs := rfl
@[simp] theorem State.modMe_atsInvs (s : State) (f : Slot → Slot) : (s.modMe f).atsInvs = s.atsInvs := rfl
@[simp] theorem State.modMe_barData (s : State) (f : Slot → Slot) : (s.modMe f).barData = s.barData := rfl
@[simp] theorem State.modMe_cxlData (s : State) (f : Slot → Slot) : (s.modMe f).cxlData = s.cxlData := rfl
@[simp] theorem State.modMe_cxlPoison (s : State) (f : Slot → Slot) : (s.modMe f).cxlPoison = s.cxlPoison := rfl
@[simp] theorem State.modMe_hostLines (s : State) (f : Slot → Slot) : (s.modMe f).hostLines = s.hostLines := rfl
@[simp] theorem State.modMe_snoops (s : State) (f : Slot → Slot) : (s.modMe f).snoops = s.snoops := rfl
@[simp] theorem State.modMe_loopctl (s : State) (f : Slot → Slot) : (s.modMe f).loopctl = s.loopctl := rfl
@[simp] theorem State.modMe_scrubPeriod (s : State) (f : Slot → Slot) : (s.modMe f).scrubPeriod = s.scrubPeriod := rfl
@[simp] theorem State.modMe_scrubDue (s : State) (f : Slot → Slot) : (s.modMe f).scrubDue = s.scrubDue := rfl
@[simp] theorem State.modMe_quietHours (s : State) (f : Slot → Slot) : (s.modMe f).quietHours = s.quietHours := rfl
@[simp] theorem State.modMe_scrubHours (s : State) (f : Slot → Slot) : (s.modMe f).scrubHours = s.scrubHours := rfl
@[simp] theorem State.modMe_corrected (s : State) (f : Slot → Slot) : (s.modMe f).corrected = s.corrected := rfl
@[simp] theorem State.modMe_life (s : State) (f : Slot → Slot) : (s.modMe f).life = s.life := rfl
@[simp] theorem State.modMe_lifeRecent (s : State) (f : Slot → Slot) : (s.modMe f).lifeRecent = s.lifeRecent := rfl
@[simp] theorem State.modMe_lifeDue (s : State) (f : Slot → Slot) : (s.modMe f).lifeDue = s.lifeDue := rfl
@[simp] theorem State.modMe_raisedSecurity (s : State) (f : Slot → Slot) : (s.modMe f).raisedSecurity = s.raisedSecurity := rfl
@[simp] theorem State.modMe_session (s : State) (f : Slot → Slot) : (s.modMe f).session = s.session := rfl
@[simp] theorem State.modMe_bringing (s : State) (f : Slot → Slot) : (s.modMe f).bringing = s.bringing := rfl
@[simp] theorem State.modMe_booting (s : State) (f : Slot → Slot) : (s.modMe f).booting = s.booting := rfl
@[simp] theorem State.modMe_core (s : State) (f : Slot → Slot) : (s.modMe f).core = s.core := rfl
@[simp] theorem State.modMe_slot (s : State) (f : Slot → Slot) : (s.modMe f).slot = s.slot := rfl
@[simp] theorem State.modMe_issuing (s : State) (f : Slot → Slot) : (s.modMe f).issuing = s.issuing := rfl
@[simp] theorem State.modMe_going (s : State) (f : Slot → Slot) : (s.modMe f).going = s.going := rfl
@[simp] theorem State.modMe_agenda (s : State) (f : Slot → Slot) : (s.modMe f).agenda = s.agenda := rfl
@[simp] theorem State.modMe_turn (s : State) (f : Slot → Slot) : (s.modMe f).turn = s.turn := rfl
@[simp] theorem State.modMe_clock (s : State) (f : Slot → Slot) : (s.modMe f).clock = s.clock := rfl
@[simp] theorem State.modMe_wants (s : State) (f : Slot → Slot) : (s.modMe f).wants = s.wants := rfl
@[simp] theorem State.modMe_free (s : State) (f : Slot → Slot) : (s.modMe f).free = s.free := rfl
@[simp] theorem State.modMe_ident (s : State) (f : Slot → Slot) : (s.modMe f).ident = s.ident := rfl

@[simp] theorem State.setGroup_mem (s : State) (a b : Nat) (x : Group) : (s.setGroup a b x).mem = s.mem := rfl
@[simp] theorem State.setGroup_poison (s : State) (a b : Nat) (x : Group) : (s.setGroup a b x).poison = s.poison := rfl
@[simp] theorem State.setGroup_entryMarks (s : State) (a b : Nat) (x : Group) : (s.setGroup a b x).entryMarks = s.entryMarks := rfl
@[simp] theorem State.setGroup_cores (s : State) (a b : Nat) (x : Group) : (s.setGroup a b x).cores = s.cores := rfl
@[simp] theorem State.setGroup_pchs (s : State) (a b : Nat) (x : Group) : (s.setGroup a b x).pchs = s.pchs := rfl
@[simp] theorem State.setGroup_homes (s : State) (a b : Nat) (x : Group) : (s.setGroup a b x).homes = s.homes := rfl
@[simp] theorem State.setGroup_nextLid (s : State) (a b : Nat) (x : Group) : (s.setGroup a b x).nextLid = s.nextLid := rfl
@[simp] theorem State.setGroup_queued (s : State) (a b : Nat) (x : Group) : (s.setGroup a b x).queued = s.queued := rfl
@[simp] theorem State.setGroup_placed (s : State) (a b : Nat) (x : Group) : (s.setGroup a b x).placed = s.placed := rfl
@[simp] theorem State.setGroup_ready (s : State) (a b : Nat) (x : Group) : (s.setGroup a b x).ready = s.ready := rfl
@[simp] theorem State.setGroup_bursts (s : State) (a b : Nat) (x : Group) : (s.setGroup a b x).bursts = s.bursts := rfl
@[simp] theorem State.setGroup_queues (s : State) (a b : Nat) (x : Group) : (s.setGroup a b x).queues = s.queues := rfl
@[simp] theorem State.setGroup_watches (s : State) (a b : Nat) (x : Group) : (s.setGroup a b x).watches = s.watches := rfl
@[simp] theorem State.setGroup_flights (s : State) (a b : Nat) (x : Group) : (s.setGroup a b x).flights = s.flights := rfl
@[simp] theorem State.setGroup_messages (s : State) (a b : Nat) (x : Group) : (s.setGroup a b x).messages = s.messages := rfl
@[simp] theorem State.setGroup_spawns (s : State) (a b : Nat) (x : Group) : (s.setGroup a b x).spawns = s.spawns := rfl
@[simp] theorem State.setGroup_unitReqs (s : State) (a b : Nat) (x : Group) : (s.setGroup a b x).unitReqs = s.unitReqs := rfl
@[simp] theorem State.setGroup_evnote (s : State) (a b : Nat) (x : Group) : (s.setGroup a b x).evnote = s.evnote := rfl
@[simp] theorem State.setGroup_landReqs (s : State) (a b : Nat) (x : Group) : (s.setGroup a b x).landReqs = s.landReqs := rfl
@[simp] theorem State.setGroup_transits (s : State) (a b : Nat) (x : Group) : (s.setGroup a b x).transits = s.transits := rfl
@[simp] theorem State.setGroup_crossings (s : State) (a b : Nat) (x : Group) : (s.setGroup a b x).crossings = s.crossings := rfl
@[simp] theorem State.setGroup_granted (s : State) (a b : Nat) (x : Group) : (s.setGroup a b x).granted = s.granted := rfl
@[simp] theorem State.setGroup_images (s : State) (a b : Nat) (x : Group) : (s.setGroup a b x).images = s.images := rfl
@[simp] theorem State.setGroup_errWords (s : State) (a b : Nat) (x : Group) : (s.setGroup a b x).errWords = s.errWords := rfl
@[simp] theorem State.setGroup_history (s : State) (a b : Nat) (x : Group) : (s.setGroup a b x).history = s.history := rfl
@[simp] theorem State.setGroup_outstanding (s : State) (a b : Nat) (x : Group) : (s.setGroup a b x).outstanding = s.outstanding := rfl
@[simp] theorem State.setGroup_taskRetries (s : State) (a b : Nat) (x : Group) : (s.setGroup a b x).taskRetries = s.taskRetries := rfl
@[simp] theorem State.setGroup_colls (s : State) (a b : Nat) (x : Group) : (s.setGroup a b x).colls = s.colls := rfl
@[simp] theorem State.setGroup_memberships (s : State) (a b : Nat) (x : Group) : (s.setGroup a b x).memberships = s.memberships := rfl
@[simp] theorem State.setGroup_apertures (s : State) (a b : Nat) (x : Group) : (s.setGroup a b x).apertures = s.apertures := rfl
@[simp] theorem State.setGroup_ports (s : State) (a b : Nat) (x : Group) : (s.setGroup a b x).ports = s.ports := rfl
@[simp] theorem State.setGroup_peerReqs (s : State) (a b : Nat) (x : Group) : (s.setGroup a b x).peerReqs = s.peerReqs := rfl
@[simp] theorem State.setGroup_peerData (s : State) (a b : Nat) (x : Group) : (s.setGroup a b x).peerData = s.peerData := rfl
@[simp] theorem State.setGroup_peerCalls (s : State) (a b : Nat) (x : Group) : (s.setGroup a b x).peerCalls = s.peerCalls := rfl
@[simp] theorem State.setGroup_heldRanks (s : State) (a b : Nat) (x : Group) : (s.setGroup a b x).heldRanks = s.heldRanks := rfl
@[simp] theorem State.setGroup_events (s : State) (a b : Nat) (x : Group) : (s.setGroup a b x).events = s.events := rfl
@[simp] theorem State.setGroup_eventsLost (s : State) (a b : Nat) (x : Group) : (s.setGroup a b x).eventsLost = s.eventsLost := rfl
@[simp] theorem State.setGroup_mgmt (s : State) (a b : Nat) (x : Group) : (s.setGroup a b x).mgmt = s.mgmt := rfl
@[simp] theorem State.setGroup_mgmtWaiting (s : State) (a b : Nat) (x : Group) : (s.setGroup a b x).mgmtWaiting = s.mgmtWaiting := rfl
@[simp] theorem State.setGroup_mgmtLatch (s : State) (a b : Nat) (x : Group) : (s.setGroup a b x).mgmtLatch = s.mgmtLatch := rfl
@[simp] theorem State.setGroup_hlqstat (s : State) (a b : Nat) (x : Group) : (s.setGroup a b x).hlqstat = s.hlqstat := rfl
@[simp] theorem State.setGroup_hlqReqs (s : State) (a b : Nat) (x : Group) : (s.setGroup a b x).hlqReqs = s.hlqReqs := rfl
@[simp] theorem State.setGroup_ecbase (s : State) (a b : Nat) (x : Group) : (s.setGroup a b x).ecbase = s.ecbase := rfl
@[simp] theorem State.setGroup_ecsize (s : State) (a b : Nat) (x : Group) : (s.setGroup a b x).ecsize = s.ecsize := rfl
@[simp] theorem State.setGroup_ectail (s : State) (a b : Nat) (x : Group) : (s.setGroup a b x).ectail = s.ectail := rfl
@[simp] theorem State.setGroup_echead (s : State) (a b : Nat) (x : Group) : (s.setGroup a b x).echead = s.echead := rfl
@[simp] theorem State.setGroup_ecval (s : State) (a b : Nat) (x : Group) : (s.setGroup a b x).ecval = s.ecval := rfl
@[simp] theorem State.setGroup_envCalls (s : State) (a b : Nat) (x : Group) : (s.setGroup a b x).envCalls = s.envCalls := rfl
@[simp] theorem State.setGroup_pageReqs (s : State) (a b : Nat) (x : Group) : (s.setGroup a b x).pageReqs = s.pageReqs := rfl
@[simp] theorem State.setGroup_atsInvs (s : State) (a b : Nat) (x : Group) : (s.setGroup a b x).atsInvs = s.atsInvs := rfl
@[simp] theorem State.setGroup_barData (s : State) (a b : Nat) (x : Group) : (s.setGroup a b x).barData = s.barData := rfl
@[simp] theorem State.setGroup_cxlData (s : State) (a b : Nat) (x : Group) : (s.setGroup a b x).cxlData = s.cxlData := rfl
@[simp] theorem State.setGroup_cxlPoison (s : State) (a b : Nat) (x : Group) : (s.setGroup a b x).cxlPoison = s.cxlPoison := rfl
@[simp] theorem State.setGroup_hostLines (s : State) (a b : Nat) (x : Group) : (s.setGroup a b x).hostLines = s.hostLines := rfl
@[simp] theorem State.setGroup_snoops (s : State) (a b : Nat) (x : Group) : (s.setGroup a b x).snoops = s.snoops := rfl
@[simp] theorem State.setGroup_loopctl (s : State) (a b : Nat) (x : Group) : (s.setGroup a b x).loopctl = s.loopctl := rfl
@[simp] theorem State.setGroup_scrubPeriod (s : State) (a b : Nat) (x : Group) : (s.setGroup a b x).scrubPeriod = s.scrubPeriod := rfl
@[simp] theorem State.setGroup_scrubDue (s : State) (a b : Nat) (x : Group) : (s.setGroup a b x).scrubDue = s.scrubDue := rfl
@[simp] theorem State.setGroup_quietHours (s : State) (a b : Nat) (x : Group) : (s.setGroup a b x).quietHours = s.quietHours := rfl
@[simp] theorem State.setGroup_scrubHours (s : State) (a b : Nat) (x : Group) : (s.setGroup a b x).scrubHours = s.scrubHours := rfl
@[simp] theorem State.setGroup_corrected (s : State) (a b : Nat) (x : Group) : (s.setGroup a b x).corrected = s.corrected := rfl
@[simp] theorem State.setGroup_life (s : State) (a b : Nat) (x : Group) : (s.setGroup a b x).life = s.life := rfl
@[simp] theorem State.setGroup_lifeRecent (s : State) (a b : Nat) (x : Group) : (s.setGroup a b x).lifeRecent = s.lifeRecent := rfl
@[simp] theorem State.setGroup_lifeDue (s : State) (a b : Nat) (x : Group) : (s.setGroup a b x).lifeDue = s.lifeDue := rfl
@[simp] theorem State.setGroup_raisedSecurity (s : State) (a b : Nat) (x : Group) : (s.setGroup a b x).raisedSecurity = s.raisedSecurity := rfl
@[simp] theorem State.setGroup_session (s : State) (a b : Nat) (x : Group) : (s.setGroup a b x).session = s.session := rfl
@[simp] theorem State.setGroup_bringing (s : State) (a b : Nat) (x : Group) : (s.setGroup a b x).bringing = s.bringing := rfl
@[simp] theorem State.setGroup_booting (s : State) (a b : Nat) (x : Group) : (s.setGroup a b x).booting = s.booting := rfl
@[simp] theorem State.setGroup_core (s : State) (a b : Nat) (x : Group) : (s.setGroup a b x).core = s.core := rfl
@[simp] theorem State.setGroup_slot (s : State) (a b : Nat) (x : Group) : (s.setGroup a b x).slot = s.slot := rfl
@[simp] theorem State.setGroup_issuing (s : State) (a b : Nat) (x : Group) : (s.setGroup a b x).issuing = s.issuing := rfl
@[simp] theorem State.setGroup_going (s : State) (a b : Nat) (x : Group) : (s.setGroup a b x).going = s.going := rfl
@[simp] theorem State.setGroup_agenda (s : State) (a b : Nat) (x : Group) : (s.setGroup a b x).agenda = s.agenda := rfl
@[simp] theorem State.setGroup_turn (s : State) (a b : Nat) (x : Group) : (s.setGroup a b x).turn = s.turn := rfl
@[simp] theorem State.setGroup_clock (s : State) (a b : Nat) (x : Group) : (s.setGroup a b x).clock = s.clock := rfl
@[simp] theorem State.setGroup_wants (s : State) (a b : Nat) (x : Group) : (s.setGroup a b x).wants = s.wants := rfl
@[simp] theorem State.setGroup_free (s : State) (a b : Nat) (x : Group) : (s.setGroup a b x).free = s.free := rfl
@[simp] theorem State.setGroup_ident (s : State) (a b : Nat) (x : Group) : (s.setGroup a b x).ident = s.ident := rfl

/-! ## Parts read back -/

@[simp] theorem State.coreOf_setCore (s : State) (c d : Nat) (k : Core) :
    (s.setCore c k).coreOf d = if c = d then k else s.coreOf d := Table.get_set ..

@[simp] theorem State.coreOf_modCore (s : State) (c d : Nat) (f : Core → Core) :
    (s.modCore c f).coreOf d = if c = d then f (s.coreOf d) else s.coreOf d := by
  unfold State.modCore
  rw [State.coreOf_setCore]
  split
  · next h => rw [h]
  · rfl

@[simp] theorem State.clusterAt_setCluster (s : State) (c d : Nat) (k : Cluster) :
    (s.setCluster c k).clusterAt d = if c = d then k else s.clusterAt d := Table.get_set ..

@[simp] theorem State.clusterAt_modCluster (s : State) (c d : Nat) (f : Cluster → Cluster) :
    (s.modCluster c f).clusterAt d = if c = d then f (s.clusterAt d) else s.clusterAt d := by
  unfold State.modCluster
  rw [State.clusterAt_setCluster]
  split
  · next h => rw [h]
  · rfl

@[simp] theorem State.setCore_setCore (s : State) (c : Nat) (j k : Core) : (s.setCore c j).setCore c k = s.setCore c k := by
  simp [State.setCore]

@[simp] theorem State.modCore_modCore (s : State) (c : Nat) (f g : Core → Core) :
    (s.modCore c f).modCore c g = s.modCore c fun r => g (f r) := by
  simp [State.modCore]

/-- A slot read after one is written. -/
theorem State.slotOf_setSlot (s : State) (c k d j : Nat) (x : Slot) :
    (s.setSlot c k x).slotOf d j = if c = d ∧ k = j ∧ k < 8 then x else s.slotOf d j := by
  unfold State.slotOf State.setSlot
  rw [State.coreOf_modCore]
  by_cases h : c = d
  · subst h; simp [vget_vset]
  · simp [h]

@[simp] theorem State.slotOf_setSlot_self (s : State) (c k : Nat) (x : Slot) (h : k < 8) : (s.setSlot c k x).slotOf c k = x := by
  simp [State.slotOf_setSlot, h]

theorem State.slotOf_setSlot_other (s : State) (c k d j : Nat) (x : Slot) (h : ¬ (c = d ∧ k = j)) :
    (s.setSlot c k x).slotOf d j = s.slotOf d j := by
  rw [State.slotOf_setSlot]
  split
  · next g => exact absurd ⟨g.1, g.2.1⟩ h
  · rfl

@[simp] theorem State.slotOf_modSlot_self (s : State) (c k : Nat) (f : Slot → Slot) (h : k < 8) :
    (s.modSlot c k f).slotOf c k = f (s.slotOf c k) := State.slotOf_setSlot_self _ _ _ _ h

theorem State.slotOf_modSlot_other (s : State) (c k d j : Nat) (f : Slot → Slot) (h : ¬ (c = d ∧ k = j)) :
    (s.modSlot c k f).slotOf d j = s.slotOf d j := State.slotOf_setSlot_other _ _ _ _ _ _ h

@[simp] theorem State.setSlot_setSlot (s : State) (c k : Nat) (x y : Slot) :
    (s.setSlot c k x).setSlot c k y = s.setSlot c k y := by
  simp [State.setSlot]

theorem State.modSlot_modSlot (s : State) (c k : Nat) (f g : Slot → Slot) (h : k < 8) :
    (s.modSlot c k f).modSlot c k g = s.modSlot c k fun x => g (f x) := by
  simp [State.modSlot, h]

@[simp] theorem State.me_setMe (s : State) (x : Slot) (h : s.slot < 8) : (s.setMe x).me = x :=
  State.slotOf_setSlot_self s s.core s.slot x h

@[simp] theorem State.me_modMe (s : State) (f : Slot → Slot) (h : s.slot < 8) : (s.modMe f).me = f s.me :=
  State.slotOf_modSlot_self s s.core s.slot f h

@[simp] theorem State.setMe_setMe (s : State) (x y : Slot) : (s.setMe x).setMe y = s.setMe y :=
  State.setSlot_setSlot s s.core s.slot x y

@[simp] theorem State.modMe_modMe (s : State) (f g : Slot → Slot) (h : s.slot < 8) :
    (s.modMe f).modMe g = s.modMe fun x => g (f x) := State.modSlot_modSlot s s.core s.slot f g h

@[simp] theorem State.modMe_setMe (s : State) (x : Slot) (g : Slot → Slot) (h : s.slot < 8) :
    (s.setMe x).modMe g = s.setMe (g x) := by
  show (s.setMe x).setMe (g (s.setMe x).me) = s.setMe (g x)
  rw [State.me_setMe _ _ h, State.setMe_setMe]

theorem State.modMe_eq (s : State) (f : Slot → Slot) : s.modMe f = s.setMe (f s.me) := rfl

@[simp] theorem State.coreOf_setSlot_cycle (s : State) (c k d : Nat) (x : Slot) :
    ((s.setSlot c k x).coreOf d).cycle = (s.coreOf d).cycle := by
  simp only [State.setSlot, State.coreOf_modCore]; split <;> rfl
@[simp] theorem State.coreOf_setSlot_q1 (s : State) (c k d : Nat) (x : Slot) :
    ((s.setSlot c k x).coreOf d).q1 = (s.coreOf d).q1 := by
  simp only [State.setSlot, State.coreOf_modCore]; split <;> rfl
@[simp] theorem State.coreOf_setSlot_qi (s : State) (c k d : Nat) (x : Slot) :
    ((s.setSlot c k x).coreOf d).qi = (s.coreOf d).qi := by
  simp only [State.setSlot, State.coreOf_modCore]; split <;> rfl
@[simp] theorem State.coreOf_setSlot_poppers (s : State) (c k d : Nat) (x : Slot) :
    ((s.setSlot c k x).coreOf d).poppers = (s.coreOf d).poppers := by
  simp only [State.setSlot, State.coreOf_modCore]; split <;> rfl
@[simp] theorem State.coreOf_setSlot_pushers (s : State) (c k d : Nat) (x : Slot) :
    ((s.setSlot c k x).coreOf d).pushers = (s.coreOf d).pushers := by
  simp only [State.setSlot, State.coreOf_modCore]; split <;> rfl
@[simp] theorem State.coreOf_setSlot_arriving (s : State) (c k d : Nat) (x : Slot) :
    ((s.setSlot c k x).coreOf d).arriving = (s.coreOf d).arriving := by
  simp only [State.setSlot, State.coreOf_modCore]; split <;> rfl
@[simp] theorem State.coreOf_setSlot_cmdWaiters (s : State) (c k d : Nat) (x : Slot) :
    ((s.setSlot c k x).coreOf d).cmdWaiters = (s.coreOf d).cmdWaiters := by
  simp only [State.setSlot, State.coreOf_modCore]; split <;> rfl
@[simp] theorem State.coreOf_setSlot_deferred (s : State) (c k d : Nat) (x : Slot) :
    ((s.setSlot c k x).coreOf d).deferred = (s.coreOf d).deferred := by
  simp only [State.setSlot, State.coreOf_modCore]; split <;> rfl
@[simp] theorem State.coreOf_setSlot_bhalt (s : State) (c k d : Nat) (x : Slot) :
    ((s.setSlot c k x).coreOf d).bhalt = (s.coreOf d).bhalt := by
  simp only [State.setSlot, State.coreOf_modCore]; split <;> rfl
@[simp] theorem State.coreOf_setSlot_efrz (s : State) (c k d : Nat) (x : Slot) :
    ((s.setSlot c k x).coreOf d).efrz = (s.coreOf d).efrz := by
  simp only [State.setSlot, State.coreOf_modCore]; split <;> rfl
@[simp] theorem State.coreOf_setSlot_spawnctl (s : State) (c k d : Nat) (x : Slot) :
    ((s.setSlot c k x).coreOf d).spawnctl = (s.coreOf d).spawnctl := by
  simp only [State.setSlot, State.coreOf_modCore]; split <;> rfl
@[simp] theorem State.coreOf_setSlot_dockspill (s : State) (c k d : Nat) (x : Slot) :
    ((s.setSlot c k x).coreOf d).dockspill = (s.coreOf d).dockspill := by
  simp only [State.setSlot, State.coreOf_modCore]; split <;> rfl
@[simp] theorem State.coreOf_setSlot_dock (s : State) (c k d : Nat) (x : Slot) :
    ((s.setSlot c k x).coreOf d).dock = (s.coreOf d).dock := by
  simp only [State.setSlot, State.coreOf_modCore]; split <;> rfl
@[simp] theorem State.coreOf_setSlot_spilled (s : State) (c k d : Nat) (x : Slot) :
    ((s.setSlot c k x).coreOf d).spilled = (s.coreOf d).spilled := by
  simp only [State.setSlot, State.coreOf_modCore]; split <;> rfl
@[simp] theorem State.coreOf_setSlot_traps (s : State) (c k d : Nat) (x : Slot) :
    ((s.setSlot c k x).coreOf d).traps = (s.coreOf d).traps := by
  simp only [State.setSlot, State.coreOf_modCore]; split <;> rfl
@[simp] theorem State.coreOf_setSlot_trapLatch (s : State) (c k d : Nat) (x : Slot) :
    ((s.setSlot c k x).coreOf d).trapLatch = (s.coreOf d).trapLatch := by
  simp only [State.setSlot, State.coreOf_modCore]; split <;> rfl
@[simp] theorem State.coreOf_setSlot_eventLatch (s : State) (c k d : Nat) (x : Slot) :
    ((s.setSlot c k x).coreOf d).eventLatch = (s.coreOf d).eventLatch := by
  simp only [State.setSlot, State.coreOf_modCore]; split <;> rfl
@[simp] theorem State.coreOf_setSlot_wbiaddr (s : State) (c k d : Nat) (x : Slot) :
    ((s.setSlot c k x).coreOf d).wbiaddr = (s.coreOf d).wbiaddr := by
  simp only [State.setSlot, State.coreOf_modCore]; split <;> rfl
@[simp] theorem State.coreOf_setSlot_wbistat (s : State) (c k d : Nat) (x : Slot) :
    ((s.setSlot c k x).coreOf d).wbistat = (s.coreOf d).wbistat := by
  simp only [State.setSlot, State.coreOf_modCore]; split <;> rfl
@[simp] theorem State.coreOf_setSlot_sqsel (s : State) (c k d : Nat) (x : Slot) :
    ((s.setSlot c k x).coreOf d).sqsel = (s.coreOf d).sqsel := by
  simp only [State.setSlot, State.coreOf_modCore]; split <;> rfl
@[simp] theorem State.coreOf_setSlot_lqstat (s : State) (c k d : Nat) (x : Slot) :
    ((s.setSlot c k x).coreOf d).lqstat = (s.coreOf d).lqstat := by
  simp only [State.setSlot, State.coreOf_modCore]; split <;> rfl
@[simp] theorem State.coreOf_setSlot_ctxsel (s : State) (c k d : Nat) (x : Slot) :
    ((s.setSlot c k x).coreOf d).ctxsel = (s.coreOf d).ctxsel := by
  simp only [State.setSlot, State.coreOf_modCore]; split <;> rfl
@[simp] theorem State.coreOf_setSlot_fold (s : State) (c k d : Nat) (x : Slot) :
    ((s.setSlot c k x).coreOf d).fold = (s.coreOf d).fold := by
  simp only [State.setSlot, State.coreOf_modCore]; split <;> rfl
@[simp] theorem State.coreOf_setSlot_gsel (s : State) (c k d : Nat) (x : Slot) :
    ((s.setSlot c k x).coreOf d).gsel = (s.coreOf d).gsel := by
  simp only [State.setSlot, State.coreOf_modCore]; split <;> rfl
@[simp] theorem State.coreOf_setSlot_lesel (s : State) (c k d : Nat) (x : Slot) :
    ((s.setSlot c k x).coreOf d).lesel = (s.coreOf d).lesel := by
  simp only [State.setSlot, State.coreOf_modCore]; split <;> rfl
@[simp] theorem State.coreOf_setSlot_hmsel (s : State) (c k d : Nat) (x : Slot) :
    ((s.setSlot c k x).coreOf d).hmsel = (s.coreOf d).hmsel := by
  simp only [State.setSlot, State.coreOf_modCore]; split <;> rfl
@[simp] theorem State.coreOf_setSlot_clsel (s : State) (c k d : Nat) (x : Slot) :
    ((s.setSlot c k x).coreOf d).clsel = (s.coreOf d).clsel := by
  simp only [State.setSlot, State.coreOf_modCore]; split <;> rfl
@[simp] theorem State.coreOf_setSlot_lifesel (s : State) (c k d : Nat) (x : Slot) :
    ((s.setSlot c k x).coreOf d).lifesel = (s.coreOf d).lifesel := by
  simp only [State.setSlot, State.coreOf_modCore]; split <;> rfl
@[simp] theorem State.coreOf_setSlot_mbsel (s : State) (c k d : Nat) (x : Slot) :
    ((s.setSlot c k x).coreOf d).mbsel = (s.coreOf d).mbsel := by
  simp only [State.setSlot, State.coreOf_modCore]; split <;> rfl
@[simp] theorem State.coreOf_setSlot_tileQ (s : State) (c k d : Nat) (x : Slot) :
    ((s.setSlot c k x).coreOf d).tileQ = (s.coreOf d).tileQ := by
  simp only [State.setSlot, State.coreOf_modCore]; split <;> rfl
@[simp] theorem State.coreOf_setSlot_copyQ (s : State) (c k d : Nat) (x : Slot) :
    ((s.setSlot c k x).coreOf d).copyQ = (s.coreOf d).copyQ := by
  simp only [State.setSlot, State.coreOf_modCore]; split <;> rfl
@[simp] theorem State.coreOf_setSlot_bankQ (s : State) (c k d : Nat) (x : Slot) :
    ((s.setSlot c k x).coreOf d).bankQ = (s.coreOf d).bankQ := by
  simp only [State.setSlot, State.coreOf_modCore]; split <;> rfl
@[simp] theorem State.coreOf_setSlot_stackQ (s : State) (c k d : Nat) (x : Slot) :
    ((s.setSlot c k x).coreOf d).stackQ = (s.coreOf d).stackQ := by
  simp only [State.setSlot, State.coreOf_modCore]; split <;> rfl
@[simp] theorem State.coreOf_setSlot_reductionQ (s : State) (c k d : Nat) (x : Slot) :
    ((s.setSlot c k x).coreOf d).reductionQ = (s.coreOf d).reductionQ := by
  simp only [State.setSlot, State.coreOf_modCore]; split <;> rfl
@[simp] theorem State.coreOf_setSlot_collectiveQ (s : State) (c k d : Nat) (x : Slot) :
    ((s.setSlot c k x).coreOf d).collectiveQ = (s.coreOf d).collectiveQ := by
  simp only [State.setSlot, State.coreOf_modCore]; split <;> rfl
@[simp] theorem State.coreOf_setSlot_acc (s : State) (c k d : Nat) (x : Slot) :
    ((s.setSlot c k x).coreOf d).acc = (s.coreOf d).acc := by
  simp only [State.setSlot, State.coreOf_modCore]; split <;> rfl
@[simp] theorem State.coreOf_setSlot_accPoison (s : State) (c k d : Nat) (x : Slot) :
    ((s.setSlot c k x).coreOf d).accPoison = (s.coreOf d).accPoison := by
  simp only [State.setSlot, State.coreOf_modCore]; split <;> rfl
@[simp] theorem State.coreOf_setSlot_heldTokens (s : State) (c k d : Nat) (x : Slot) :
    ((s.setSlot c k x).coreOf d).heldTokens = (s.coreOf d).heldTokens := by
  simp only [State.setSlot, State.coreOf_modCore]; split <;> rfl
@[simp] theorem State.coreOf_setSlot_bufs (s : State) (c k d : Nat) (x : Slot) :
    ((s.setSlot c k x).coreOf d).bufs = (s.coreOf d).bufs := by
  simp only [State.setSlot, State.coreOf_modCore]; split <;> rfl
@[simp] theorem State.coreOf_setSlot_capsules (s : State) (c k d : Nat) (x : Slot) :
    ((s.setSlot c k x).coreOf d).capsules = (s.coreOf d).capsules := by
  simp only [State.setSlot, State.coreOf_modCore]; split <;> rfl
@[simp] theorem State.coreOf_setSlot_predictor (s : State) (c k d : Nat) (x : Slot) :
    ((s.setSlot c k x).coreOf d).predictor = (s.coreOf d).predictor := by
  simp only [State.setSlot, State.coreOf_modCore]; split <;> rfl
@[simp] theorem State.coreOf_setSlot_resident (s : State) (c k d : Nat) (x : Slot) :
    ((s.setSlot c k x).coreOf d).resident = (s.coreOf d).resident := by
  simp only [State.setSlot, State.coreOf_modCore]; split <;> rfl
@[simp] theorem State.coreOf_setSlot_icache (s : State) (c k d : Nat) (x : Slot) :
    ((s.setSlot c k x).coreOf d).icache = (s.coreOf d).icache := by
  simp only [State.setSlot, State.coreOf_modCore]; split <;> rfl
@[simp] theorem State.coreOf_setSlot_fenced (s : State) (c k d : Nat) (x : Slot) :
    ((s.setSlot c k x).coreOf d).fenced = (s.coreOf d).fenced := by
  simp only [State.setSlot, State.coreOf_modCore]; split <;> rfl
@[simp] theorem State.coreOf_setSlot_failed (s : State) (c k d : Nat) (x : Slot) :
    ((s.setSlot c k x).coreOf d).failed = (s.coreOf d).failed := by
  simp only [State.setSlot, State.coreOf_modCore]; split <;> rfl
@[simp] theorem State.coreOf_setSlot_admission (s : State) (c k d : Nat) (x : Slot) :
    ((s.setSlot c k x).coreOf d).admission = (s.coreOf d).admission := by
  simp only [State.setSlot, State.coreOf_modCore]; split <;> rfl
@[simp] theorem State.coreOf_setSlot_bankTurns (s : State) (c k d : Nat) (x : Slot) :
    ((s.setSlot c k x).coreOf d).bankTurns = (s.coreOf d).bankTurns := by
  simp only [State.setSlot, State.coreOf_modCore]; split <;> rfl
@[simp] theorem State.coreOf_setSlot_scrubWait (s : State) (c k d : Nat) (x : Slot) :
    ((s.setSlot c k x).coreOf d).scrubWait = (s.coreOf d).scrubWait := by
  simp only [State.setSlot, State.coreOf_modCore]; split <;> rfl
@[simp] theorem State.coreOf_modSlot_cycle (s : State) (c k d : Nat) (g : Slot → Slot) :
    ((s.modSlot c k g).coreOf d).cycle = (s.coreOf d).cycle := State.coreOf_setSlot_cycle ..
@[simp] theorem State.coreOf_modSlot_q1 (s : State) (c k d : Nat) (g : Slot → Slot) :
    ((s.modSlot c k g).coreOf d).q1 = (s.coreOf d).q1 := State.coreOf_setSlot_q1 ..
@[simp] theorem State.coreOf_modSlot_qi (s : State) (c k d : Nat) (g : Slot → Slot) :
    ((s.modSlot c k g).coreOf d).qi = (s.coreOf d).qi := State.coreOf_setSlot_qi ..
@[simp] theorem State.coreOf_modSlot_poppers (s : State) (c k d : Nat) (g : Slot → Slot) :
    ((s.modSlot c k g).coreOf d).poppers = (s.coreOf d).poppers := State.coreOf_setSlot_poppers ..
@[simp] theorem State.coreOf_modSlot_pushers (s : State) (c k d : Nat) (g : Slot → Slot) :
    ((s.modSlot c k g).coreOf d).pushers = (s.coreOf d).pushers := State.coreOf_setSlot_pushers ..
@[simp] theorem State.coreOf_modSlot_arriving (s : State) (c k d : Nat) (g : Slot → Slot) :
    ((s.modSlot c k g).coreOf d).arriving = (s.coreOf d).arriving := State.coreOf_setSlot_arriving ..
@[simp] theorem State.coreOf_modSlot_cmdWaiters (s : State) (c k d : Nat) (g : Slot → Slot) :
    ((s.modSlot c k g).coreOf d).cmdWaiters = (s.coreOf d).cmdWaiters := State.coreOf_setSlot_cmdWaiters ..
@[simp] theorem State.coreOf_modSlot_deferred (s : State) (c k d : Nat) (g : Slot → Slot) :
    ((s.modSlot c k g).coreOf d).deferred = (s.coreOf d).deferred := State.coreOf_setSlot_deferred ..
@[simp] theorem State.coreOf_modSlot_bhalt (s : State) (c k d : Nat) (g : Slot → Slot) :
    ((s.modSlot c k g).coreOf d).bhalt = (s.coreOf d).bhalt := State.coreOf_setSlot_bhalt ..
@[simp] theorem State.coreOf_modSlot_efrz (s : State) (c k d : Nat) (g : Slot → Slot) :
    ((s.modSlot c k g).coreOf d).efrz = (s.coreOf d).efrz := State.coreOf_setSlot_efrz ..
@[simp] theorem State.coreOf_modSlot_spawnctl (s : State) (c k d : Nat) (g : Slot → Slot) :
    ((s.modSlot c k g).coreOf d).spawnctl = (s.coreOf d).spawnctl := State.coreOf_setSlot_spawnctl ..
@[simp] theorem State.coreOf_modSlot_dockspill (s : State) (c k d : Nat) (g : Slot → Slot) :
    ((s.modSlot c k g).coreOf d).dockspill = (s.coreOf d).dockspill := State.coreOf_setSlot_dockspill ..
@[simp] theorem State.coreOf_modSlot_dock (s : State) (c k d : Nat) (g : Slot → Slot) :
    ((s.modSlot c k g).coreOf d).dock = (s.coreOf d).dock := State.coreOf_setSlot_dock ..
@[simp] theorem State.coreOf_modSlot_spilled (s : State) (c k d : Nat) (g : Slot → Slot) :
    ((s.modSlot c k g).coreOf d).spilled = (s.coreOf d).spilled := State.coreOf_setSlot_spilled ..
@[simp] theorem State.coreOf_modSlot_traps (s : State) (c k d : Nat) (g : Slot → Slot) :
    ((s.modSlot c k g).coreOf d).traps = (s.coreOf d).traps := State.coreOf_setSlot_traps ..
@[simp] theorem State.coreOf_modSlot_trapLatch (s : State) (c k d : Nat) (g : Slot → Slot) :
    ((s.modSlot c k g).coreOf d).trapLatch = (s.coreOf d).trapLatch := State.coreOf_setSlot_trapLatch ..
@[simp] theorem State.coreOf_modSlot_eventLatch (s : State) (c k d : Nat) (g : Slot → Slot) :
    ((s.modSlot c k g).coreOf d).eventLatch = (s.coreOf d).eventLatch := State.coreOf_setSlot_eventLatch ..
@[simp] theorem State.coreOf_modSlot_wbiaddr (s : State) (c k d : Nat) (g : Slot → Slot) :
    ((s.modSlot c k g).coreOf d).wbiaddr = (s.coreOf d).wbiaddr := State.coreOf_setSlot_wbiaddr ..
@[simp] theorem State.coreOf_modSlot_wbistat (s : State) (c k d : Nat) (g : Slot → Slot) :
    ((s.modSlot c k g).coreOf d).wbistat = (s.coreOf d).wbistat := State.coreOf_setSlot_wbistat ..
@[simp] theorem State.coreOf_modSlot_sqsel (s : State) (c k d : Nat) (g : Slot → Slot) :
    ((s.modSlot c k g).coreOf d).sqsel = (s.coreOf d).sqsel := State.coreOf_setSlot_sqsel ..
@[simp] theorem State.coreOf_modSlot_lqstat (s : State) (c k d : Nat) (g : Slot → Slot) :
    ((s.modSlot c k g).coreOf d).lqstat = (s.coreOf d).lqstat := State.coreOf_setSlot_lqstat ..
@[simp] theorem State.coreOf_modSlot_ctxsel (s : State) (c k d : Nat) (g : Slot → Slot) :
    ((s.modSlot c k g).coreOf d).ctxsel = (s.coreOf d).ctxsel := State.coreOf_setSlot_ctxsel ..
@[simp] theorem State.coreOf_modSlot_fold (s : State) (c k d : Nat) (g : Slot → Slot) :
    ((s.modSlot c k g).coreOf d).fold = (s.coreOf d).fold := State.coreOf_setSlot_fold ..
@[simp] theorem State.coreOf_modSlot_gsel (s : State) (c k d : Nat) (g : Slot → Slot) :
    ((s.modSlot c k g).coreOf d).gsel = (s.coreOf d).gsel := State.coreOf_setSlot_gsel ..
@[simp] theorem State.coreOf_modSlot_lesel (s : State) (c k d : Nat) (g : Slot → Slot) :
    ((s.modSlot c k g).coreOf d).lesel = (s.coreOf d).lesel := State.coreOf_setSlot_lesel ..
@[simp] theorem State.coreOf_modSlot_hmsel (s : State) (c k d : Nat) (g : Slot → Slot) :
    ((s.modSlot c k g).coreOf d).hmsel = (s.coreOf d).hmsel := State.coreOf_setSlot_hmsel ..
@[simp] theorem State.coreOf_modSlot_clsel (s : State) (c k d : Nat) (g : Slot → Slot) :
    ((s.modSlot c k g).coreOf d).clsel = (s.coreOf d).clsel := State.coreOf_setSlot_clsel ..
@[simp] theorem State.coreOf_modSlot_lifesel (s : State) (c k d : Nat) (g : Slot → Slot) :
    ((s.modSlot c k g).coreOf d).lifesel = (s.coreOf d).lifesel := State.coreOf_setSlot_lifesel ..
@[simp] theorem State.coreOf_modSlot_mbsel (s : State) (c k d : Nat) (g : Slot → Slot) :
    ((s.modSlot c k g).coreOf d).mbsel = (s.coreOf d).mbsel := State.coreOf_setSlot_mbsel ..
@[simp] theorem State.coreOf_modSlot_tileQ (s : State) (c k d : Nat) (g : Slot → Slot) :
    ((s.modSlot c k g).coreOf d).tileQ = (s.coreOf d).tileQ := State.coreOf_setSlot_tileQ ..
@[simp] theorem State.coreOf_modSlot_copyQ (s : State) (c k d : Nat) (g : Slot → Slot) :
    ((s.modSlot c k g).coreOf d).copyQ = (s.coreOf d).copyQ := State.coreOf_setSlot_copyQ ..
@[simp] theorem State.coreOf_modSlot_bankQ (s : State) (c k d : Nat) (g : Slot → Slot) :
    ((s.modSlot c k g).coreOf d).bankQ = (s.coreOf d).bankQ := State.coreOf_setSlot_bankQ ..
@[simp] theorem State.coreOf_modSlot_stackQ (s : State) (c k d : Nat) (g : Slot → Slot) :
    ((s.modSlot c k g).coreOf d).stackQ = (s.coreOf d).stackQ := State.coreOf_setSlot_stackQ ..
@[simp] theorem State.coreOf_modSlot_reductionQ (s : State) (c k d : Nat) (g : Slot → Slot) :
    ((s.modSlot c k g).coreOf d).reductionQ = (s.coreOf d).reductionQ := State.coreOf_setSlot_reductionQ ..
@[simp] theorem State.coreOf_modSlot_collectiveQ (s : State) (c k d : Nat) (g : Slot → Slot) :
    ((s.modSlot c k g).coreOf d).collectiveQ = (s.coreOf d).collectiveQ := State.coreOf_setSlot_collectiveQ ..
@[simp] theorem State.coreOf_modSlot_acc (s : State) (c k d : Nat) (g : Slot → Slot) :
    ((s.modSlot c k g).coreOf d).acc = (s.coreOf d).acc := State.coreOf_setSlot_acc ..
@[simp] theorem State.coreOf_modSlot_accPoison (s : State) (c k d : Nat) (g : Slot → Slot) :
    ((s.modSlot c k g).coreOf d).accPoison = (s.coreOf d).accPoison := State.coreOf_setSlot_accPoison ..
@[simp] theorem State.coreOf_modSlot_heldTokens (s : State) (c k d : Nat) (g : Slot → Slot) :
    ((s.modSlot c k g).coreOf d).heldTokens = (s.coreOf d).heldTokens := State.coreOf_setSlot_heldTokens ..
@[simp] theorem State.coreOf_modSlot_bufs (s : State) (c k d : Nat) (g : Slot → Slot) :
    ((s.modSlot c k g).coreOf d).bufs = (s.coreOf d).bufs := State.coreOf_setSlot_bufs ..
@[simp] theorem State.coreOf_modSlot_capsules (s : State) (c k d : Nat) (g : Slot → Slot) :
    ((s.modSlot c k g).coreOf d).capsules = (s.coreOf d).capsules := State.coreOf_setSlot_capsules ..
@[simp] theorem State.coreOf_modSlot_predictor (s : State) (c k d : Nat) (g : Slot → Slot) :
    ((s.modSlot c k g).coreOf d).predictor = (s.coreOf d).predictor := State.coreOf_setSlot_predictor ..
@[simp] theorem State.coreOf_modSlot_resident (s : State) (c k d : Nat) (g : Slot → Slot) :
    ((s.modSlot c k g).coreOf d).resident = (s.coreOf d).resident := State.coreOf_setSlot_resident ..
@[simp] theorem State.coreOf_modSlot_icache (s : State) (c k d : Nat) (g : Slot → Slot) :
    ((s.modSlot c k g).coreOf d).icache = (s.coreOf d).icache := State.coreOf_setSlot_icache ..
@[simp] theorem State.coreOf_modSlot_fenced (s : State) (c k d : Nat) (g : Slot → Slot) :
    ((s.modSlot c k g).coreOf d).fenced = (s.coreOf d).fenced := State.coreOf_setSlot_fenced ..
@[simp] theorem State.coreOf_modSlot_failed (s : State) (c k d : Nat) (g : Slot → Slot) :
    ((s.modSlot c k g).coreOf d).failed = (s.coreOf d).failed := State.coreOf_setSlot_failed ..
@[simp] theorem State.coreOf_modSlot_admission (s : State) (c k d : Nat) (g : Slot → Slot) :
    ((s.modSlot c k g).coreOf d).admission = (s.coreOf d).admission := State.coreOf_setSlot_admission ..
@[simp] theorem State.coreOf_modSlot_bankTurns (s : State) (c k d : Nat) (g : Slot → Slot) :
    ((s.modSlot c k g).coreOf d).bankTurns = (s.coreOf d).bankTurns := State.coreOf_setSlot_bankTurns ..
@[simp] theorem State.coreOf_modSlot_scrubWait (s : State) (c k d : Nat) (g : Slot → Slot) :
    ((s.modSlot c k g).coreOf d).scrubWait = (s.coreOf d).scrubWait := State.coreOf_setSlot_scrubWait ..

@[simp] theorem State.clusterAt_setSlot (s : State) (c k d : Nat) (x : Slot) : (s.setSlot c k x).clusterAt d = s.clusterAt d := rfl
@[simp] theorem State.clusterAt_modSlot (s : State) (c k d : Nat) (f : Slot → Slot) : (s.modSlot c k f).clusterAt d = s.clusterAt d := rfl

/-- The state as its record of parts: an update of the slot that issues changes that slot alone. -/
theorem State.setMe_frame (s : State) (x : Slot) (d j : Nat) (h : ¬ (s.core = d ∧ s.slot = j)) :
    (s.setMe x).slotOf d j = s.slotOf d j := State.slotOf_setSlot_other _ _ _ _ _ _ h

end Sys2Proof.Machine
end

