-- ==== Sys2Proof/Laws/Ops.lean ====
section
/-!
SUPPORT. What the operations that every instruction shares come to for a steady slot: the issue with its checks, sources and
destinations, and retiring.
-/

namespace Sys2Proof.Machine

/-! ## Steady slots -/

/-- The fields that steadiness fixes. -/
theorem Slot.steady_fields {x : Slot} (h : x.steady = true) :
    x.status = (if x.inHandler then .handler else .runnable) ∧ x.wait = .nothing ∧ x.reply = none ∧ x.latch = [] ∧
    x.push = none ∧ x.vec = none ∧ x.pair = .alone ∧ x.matched = false ∧ x.outward = none ∧ x.stay = false ∧
    x.barred = none ∧ x.docking = false ∧ x.haltPending = false ∧ x.stepArmed = false ∧ x.resumed = false ∧
    x.midway = false ∧ x.gacc = none ∧ x.returnAt = none := by
  simpa [Slot.steady, and_assoc] using h

/-- A steady slot retires by its PC alone. -/
theorem retireSlot_steady {x : Slot} (h : x.steady = true) (pc : Word) : retireSlot x pc = x.movedTo pc := by
  obtain ⟨h1, h2, h3, h4, h5, h6, h7, h8, h9, h10, h11, h12, h13, h14, h15, h16, h17, h18⟩ := Slot.steady_fields h
  cases x
  simp_all [retireSlot, Slot.resumed', Slot.inHandler, Slot.movedTo]

@[simp] theorem Slot.steady_noting (x : Slot) (i : Instr) : (x.noting i).steady = x.steady := rfl
@[simp] theorem Slot.steady_movedTo (x : Slot) (pc : Word) : (x.movedTo pc).steady = x.steady := rfl
@[simp] theorem Slot.steady_raise (x : Slot) (f : BitVec 7) : (x.raise f).steady = x.steady := rfl

@[simp] theorem Slot.steady_writeG (x : Slot) (n : Nat) (v : Word) : (x.writeG n v).steady = x.steady := by
  unfold Slot.writeG; repeat' split
  all_goals rfl

@[simp] theorem Slot.steady_writeV (x : Slot) (n : Nat) (v : Vec) : (x.writeV n v).steady = x.steady := by
  unfold Slot.writeV; split <;> rfl

@[simp] theorem Slot.steady_writePred (x : Slot) (n : Nat) (b : Bool) : (x.writePred n b).steady = x.steady := by
  unfold Slot.writePred; split <;> rfl

@[simp] theorem Slot.steady_ctxWrite (x : Slot) (n : Nat) (v : Word) : (x.ctxWrite n v).steady = x.steady := by
  unfold Slot.ctxWrite; split <;> rfl

/-! The noted word and the PC stand apart from the registers. -/

theorem Slot.writeG_noting (x : Slot) (i : Instr) (n : Nat) (v : Word) : (x.noting i).writeG n v = (x.writeG n v).noting i := by
  unfold Slot.writeG
  by_cases h : n = 0
  · rw [if_pos h, if_pos h]
  · rw [if_neg h, if_neg h]
    by_cases b : (x.inHandler && decide (24 ≤ n)) = true
    · rw [if_pos b, if_pos (show ((x.noting i).inHandler && _) = true from b)]; rfl
    · rw [if_neg b, if_neg (show ¬ ((x.noting i).inHandler && _) = true from b)]; rfl

theorem Slot.writePred_noting (x : Slot) (i : Instr) (n : Nat) (b : Bool) :
    (x.noting i).writePred n b = (x.writePred n b).noting i := by
  unfold Slot.writePred; split <;> rfl

theorem Slot.writeV_noting (x : Slot) (i : Instr) (n : Nat) (v : Vec) : (x.noting i).writeV n v = (x.writeV n v).noting i := by
  unfold Slot.writeV
  by_cases b : (x.inHandler && decide (12 ≤ n)) = true
  · rw [if_pos b, if_pos (show ((x.noting i).inHandler && _) = true from b)]; rfl
  · rw [if_neg b, if_neg (show ¬ ((x.noting i).inHandler && _) = true from b)]; rfl

theorem Slot.ctxWrite_noting (x : Slot) (i : Instr) (n : Nat) (v : Word) :
    (x.noting i).ctxWrite n v = (x.ctxWrite n v).noting i := by
  unfold Slot.ctxWrite; split <;> rfl

@[simp] theorem Slot.readG_noting (x : Slot) (i : Instr) (n : Nat) : (x.noting i).readG n = x.readG n := rfl
@[simp] theorem Slot.readV_noting (x : Slot) (i : Instr) (n : Nat) : (x.noting i).readV n = x.readV n := rfl
@[simp] theorem Slot.predicate_noting (x : Slot) (i : Instr) (n : Nat) : (x.noting i).predicate n = x.predicate n := rfl
@[simp] theorem Slot.noting_pc (x : Slot) (i : Instr) : (x.noting i).pc = x.pc := rfl
@[simp] theorem Slot.movedTo_pc (x : Slot) (pc : Word) : (x.movedTo pc).pc = pc := rfl
@[simp] theorem Slot.movedTo_movedTo (x : Slot) (p q : Word) : (x.movedTo p).movedTo q = x.movedTo q := rfl

@[simp] theorem Slot.writeG_pc (x : Slot) (n : Nat) (v : Word) : (x.writeG n v).pc = x.pc := by
  unfold Slot.writeG; repeat' split
  all_goals rfl
@[simp] theorem Slot.writeV_pc (x : Slot) (n : Nat) (v : Vec) : (x.writeV n v).pc = x.pc := by
  unfold Slot.writeV; split <;> rfl
@[simp] theorem Slot.writePred_pc (x : Slot) (n : Nat) (b : Bool) : (x.writePred n b).pc = x.pc := by
  unfold Slot.writePred; split <;> rfl
@[simp] theorem Slot.ctxWrite_pc (x : Slot) (n : Nat) (v : Word) : (x.ctxWrite n v).pc = x.pc := by
  unfold Slot.ctxWrite; split <;> rfl

/-! ## Issue -/

/-- Nothing of a resume block is cleared for a slot that was not started from one. -/
theorem clearResume_of_not {s : State} (h : s.me.resumed = false) : clearResume s = s := by
  unfold clearResume; rw [h]

/-- What an instruction that may run finds. -/
theorem State.runs_iff {i : Instr} {s : State} :
    s.runs i = true ↔ s.slot < 8 ∧ s.me.steady = true ∧ precheck i s = none ∧ s.wants = [] := by
  simp [State.runs, and_assoc]

theorem State.runs_slot {i : Instr} {s : State} (h : s.runs i = true) : s.slot < 8 := (State.runs_iff.1 h).1
theorem State.runs_steady {i : Instr} {s : State} (h : s.runs i = true) : s.me.steady = true := (State.runs_iff.1 h).2.1
theorem State.runs_precheck {i : Instr} {s : State} (h : s.runs i = true) : precheck i s = none := (State.runs_iff.1 h).2.2.1
theorem State.runs_wants {i : Instr} {s : State} (h : s.runs i = true) : s.wants = [] := (State.runs_iff.1 h).2.2.2

/-- The word is noted in the slot, and nothing else happens. -/
theorem State.noted_eq {i : Instr} {s : State} (hs : s.slot < 8) (h : s.me.resumed = false) :
    s.noted i = s.setMe (s.me.noting i) := by
  unfold State.noted
  rw [State.modMe_eq]
  exact clearResume_of_not (by rw [State.me_setMe _ _ hs]; exact h)

theorem stateIllegal_noting (i j : Instr) (x : Slot) : stateIllegal i (x.noting j) = stateIllegal i x := by
  cases i <;> rfl

/-- The checks do not depend on the noted word. -/
theorem precheck_noting (i j : Instr) (s : State) (hs : s.slot < 8) :
    precheck i (s.setMe (s.me.noting j)) = precheck i s := by
  unfold precheck
  rw [State.me_setMe _ _ hs, stateIllegal_noting]
  rfl

/-- An issue is its checks in the state with the word noted. -/
theorem issue_noted (i : Instr) (s : State) (body : State → State) :
    issue i s body = match precheck i (s.noted i) with
      | some c => trapHere (s.noted i) c
      | none => body (s.noted i) := rfl

/-- An instruction that may run begins its effect in the state with its word noted. -/
theorem issue_runs {i : Instr} {s : State} (h : s.runs i = true) (body : State → State) :
    issue i s body = body (s.setMe (s.me.noting i)) := by
  have hs := State.runs_slot h
  have hr := (Slot.steady_fields (State.runs_steady h)).2.2.2.2.2.2.2.2.2.2.2.2.2.2.1
  rw [issue_noted, State.noted_eq hs hr, precheck_noting _ _ _ hs, State.runs_precheck h]

/-- An instruction that fails a check takes the trap of the first check that fails, before any effect. -/
theorem issue_traps {i : Instr} {s : State} (hs : s.slot < 8) (hr : s.me.resumed = false) {c : Cause} (h : precheck i s = some c)
    (body : State → State) : issue i s body = trapHere (s.setMe (s.me.noting i)) c := by
  rw [issue_noted, State.noted_eq hs hr, precheck_noting _ _ _ hs, h]

/-! ## Retiring -/

/-- A slot that is in no pair hands nothing on. -/
theorem handOn_alone {s : State} (h : s.me.pair = .alone) (e : Elem) : handOn s e = s := by
  unfold handOn; simp [h]

/-- A steady slot stays in rotation. -/
theorem Slot.steady_not_halted {x : Slot} (h : x.steady = true) : (x.status == .halted) = false := by
  rw [(Slot.steady_fields h).1]; split <;> rfl

theorem done_setMe {s : State} {x : Slot} (hs : s.slot < 8) (h : x.steady = true) (pc : Word) :
    done (s.setMe x) pc = s.setMe (x.movedTo pc) := by
  unfold done
  unfold retire haltEnds
  rw [State.modMe_setMe _ _ _ hs, retireSlot_steady h]
  have hm : (s.setMe (x.movedTo pc)).slotOf s.core s.slot = x.movedTo pc := State.me_setMe _ _ hs
  rw [show (s.setMe x).core = s.core from rfl, show (s.setMe x).slot = s.slot from rfl, hm, Slot.steady_not_halted (x := x.movedTo pc) h]
  rfl

theorem doneNext_setMe {s : State} {x : Slot} (hs : s.slot < 8) (h : x.steady = true) :
    doneNext (s.setMe x) = s.setMe (x.movedTo (x.pc + 4)) := by
  unfold doneNext
  rw [done_setMe hs h, State.me_setMe _ _ hs]

/-! ## Sources and destinations -/

/-- A general register is read without effect. -/
theorem readField_general {f : BitVec 6} (h : f.toNat < 32) (cur : Nat) (s : State) :
    readField f cur s = .go (s.me.readG f.toNat, cur) s := by simp [readField, h]

/-- Two general registers read. -/
theorem readFrom_general2 {f g : BitVec 6} (hf : f.toNat < 32) (hg : g.toNat < 32) (cur : Nat) (s : State) :
    readFrom [f, g] cur s = .go [s.me.readG f.toNat, s.me.readG g.toNat] s := by
  simp [readFrom, readField_general hf, readField_general hg, Flow.bind]

theorem readFrom_general1 {f : BitVec 6} (hf : f.toNat < 32) (cur : Nat) (s : State) :
    readFrom [f] cur s = .go [s.me.readG f.toNat] s := by
  simp [readFrom, readField_general hf, Flow.bind]

/-- A general register as the destination: written (g0 is not), and the instruction retires. -/
theorem writeTo_general {f : BitVec 6} (hf : f.toNat < 32) {s : State} {x : Slot} (hs : s.slot < 8) (h : x.steady = true)
    (v pc : Word) (before : State) :
    writeTo f v pc before (s.setMe x) = s.setMe ((x.writeG f.toNat v).movedTo pc) := by
  simp only [writeTo, if_pos hf]
  rw [State.modMe_setMe _ _ _ hs, done_setMe hs (by simpa using h)]

theorem writeNext_general {f : BitVec 6} (hf : f.toNat < 32) {s : State} {x : Slot} (hs : s.slot < 8) (h : x.steady = true)
    (v : Word) (before : State) :
    writeNext f v before (s.setMe x) = s.setMe ((x.writeG f.toNat v).movedTo (x.pc + 4)) := by
  unfold writeNext
  rw [writeTo_general hf hs h, State.me_setMe _ _ hs]

/-- A slot in no pair makes its outward requests itself. -/
theorem outward_alone {s : State} (h : s.me.pair = .alone) (vals : List Word) (own result : State → State) :
    outward vals s own result = own s := by unfold outward outwardBy; simp [h]

theorem boundaryRead_alone {s : State} (h : s.me.pair = .alone) (own : State → State) (result : Word → State → State) :
    boundaryRead s own result = own s := by unfold boundaryRead valueQueueFull; simp [h]

/-! ## Steps of the device -/

/-- A step of the device that asks for no line is performed. -/
theorem deviceStep_of_wants {f : State → State} {s : State} (h : (f s).wants = []) : deviceStep f s = .next (f s) := by
  simp [deviceStep, askHost, h]

/-! ## Who goes first at a bank -/

/-- Where no requester of a core's banks has aged, no bank of it has an aged one. -/
theorem agedAt_nil {s : State} {p : Nat} (hc : ((bankers s p).any fun x => x.2.2.aged) = false)
    (hb : ((List.range 6).any fun b => match vget (s.coreOf p).bufs .free b with | .banking r => r.aged | _ => false) = false)
    (hf : (s.flights.any fun f => f.aged) = false) (bank : Nat) : agedAt s p bank = [] := by
  simp only [List.any_eq_false, Bool.not_eq_true] at hc hb hf
  unfold agedAt
  simp only [List.append_eq_nil_iff, List.filterMap_eq_nil_iff, List.map_eq_nil_iff, List.filter_eq_nil_iff]
  refine ⟨⟨fun x hx => absurd (List.mem_filter.1 hx).2 (by simp [hc x (List.mem_filter.1 hx).1]), fun b h => ?_⟩, fun f h => by simp [hf f h]⟩
  have := hb b h
  split <;> simp_all

/-- Where no sequence runs, every bank serves ordinary requests. -/
theorem bankBusy_idle {s : State} (h : ∀ a b, (s.pchOf a b).running = none) (pa : Nat) : bankBusy s pa = false := by
  simp [bankBusy, h]

end Sys2Proof.Machine
end

