-- ==== Sys2Proof/Laws/Memory.lean ====
section
/-!
SUPPORT. Byte memory: what is read after a write, in the bytes written and outside them; the canonical form, which every operation
on memory keeps; and what the stores of the model do to memory.
-/

namespace Sys2Proof.Machine

/-! ## One byte -/

@[simp] theorem Memory.read_write (m : Memory) (a b : Nat) (v : Byte) : (m.write a v).read b = if a = b then v else m.read b := by
  unfold Memory.write Memory.read
  by_cases h : v = 0
  · simp only [if_pos h, tableFind_erase]
    by_cases hab : a = b <;> simp [hab, h]
  · simp only [if_neg h, tableFind_put]
    by_cases hab : a = b <;> simp [hab]

/-! ## Several bytes -/

theorem Memory.read_writeN (m : Memory) (a n v b : Nat) :
    (m.writeN a n v).read b = if a ≤ b ∧ b < a + n then BitVec.ofNat 8 (v / 256 ^ (b - a)) else m.read b := by
  induction n generalizing a v with
  | zero => rw [if_neg (by omega)]; rfl
  | succ n ih =>
    simp only [Memory.writeN, Memory.read_write, ih]
    by_cases h : a = b
    · subst h; simp
    · rw [if_neg h]
      by_cases hb : a + 1 ≤ b ∧ b < a + 1 + n
      · rw [if_pos hb, if_pos (by omega), show b - a = (b - (a + 1)) + 1 by omega, pow_succ, Nat.mul_comm, ← Nat.div_div_eq_div_mul]
      · rw [if_neg hb, if_neg (by omega)]

/-- Every byte outside the bytes written reads as before. -/
theorem Memory.read_writeN_outside (m : Memory) {a n b : Nat} (v : Nat) (h : b < a ∨ a + n ≤ b) : (m.writeN a n v).read b = m.read b := by
  rw [Memory.read_writeN, if_neg (by omega)]

/-- Bytes that agree one by one are one number. -/
theorem Memory.readN_congr {m m' : Memory} {a a' n : Nat} (h : ∀ i, i < n → m.read (a + i) = m'.read (a' + i)) :
    m.readN a n = m'.readN a' n := by
  induction n generalizing a a' with
  | zero => rfl
  | succ n ih =>
    simp only [Memory.readN]
    rw [show m.read a = m'.read a' from h 0 (by omega), ih fun i hi => by
      have := h (i + 1) (by omega); rwa [Nat.add_comm i 1, ← Nat.add_assoc, ← Nat.add_assoc] at this]

/-- What was written is read back, cut to its bytes. -/
theorem Memory.readN_writeN (m : Memory) (a n v : Nat) : (m.writeN a n v).readN a n = v % 256 ^ n := by
  induction n generalizing a v with
  | zero => simp [Memory.readN, Nat.mod_one]
  | succ n ih =>
    have h : (m.writeN a (n + 1) v).readN (a + 1) n = (m.writeN (a + 1) n (v / 256)).readN (a + 1) n :=
      Memory.readN_congr fun i _ => by simp [Memory.writeN, show a ≠ a + 1 + i by omega]
    rw [Memory.readN, h, ih, Memory.read_writeN, if_pos (by omega)]
    simp only [Nat.sub_self, pow_zero, Nat.div_one, BitVec.toNat_ofNat]
    rw [show (256 : Nat) ^ (n + 1) = 256 * 256 ^ n from by rw [pow_succ, Nat.mul_comm], Nat.mod_mul]

/-- A read apart from the bytes written. -/
theorem Memory.readN_writeN_apart (m : Memory) {a n b k : Nat} (v : Nat) (h : b + k ≤ a ∨ a + n ≤ b) :
    (m.writeN a n v).readN b k = m.readN b k :=
  Memory.readN_congr fun i hi => Memory.read_writeN_outside m v (by omega)

theorem Memory.readN_lt (m : Memory) (a n : Nat) : m.readN a n < 256 ^ n := by
  induction n generalizing a with
  | zero => simp [Memory.readN]
  | succ n ih =>
    simp only [Memory.readN, pow_succ]
    have := (m.read a).isLt; have := ih (a + 1); omega

/-! ## The canonical form -/

theorem cellsAbove_mono {lo lo' : Nat} (h : lo' ≤ lo) {l : List Host.Cell} (hl : cellsAbove lo l = true) : cellsAbove lo' l = true := by
  cases l with
  | nil => rfl
  | cons e rest =>
    obtain ⟨a, b⟩ := e
    simp only [cellsAbove, Bool.and_eq_true, decide_eq_true_eq] at hl ⊢
    exact ⟨⟨by omega, hl.1.2⟩, hl.2⟩

theorem cellsAbove_cons {lo a : Nat} {b : Byte} {l : List Host.Cell} :
    cellsAbove lo ((a, b) :: l) = true ↔ lo ≤ a ∧ b ≠ 0 ∧ cellsAbove (a + 1) l = true := by
  simp only [cellsAbove, Bool.and_eq_true, decide_eq_true_eq, bne_iff_ne, and_assoc]

theorem cellsAbove_put {lo a : Nat} {b : Byte} (hb : b ≠ 0) (ha : lo ≤ a) {l : List Host.Cell} (hl : cellsAbove lo l = true) :
    cellsAbove lo (tablePut a b l) = true := by
  induction l generalizing lo with
  | nil => exact cellsAbove_cons.2 ⟨ha, hb, rfl⟩
  | cons e rest ih =>
    obtain ⟨h1, h2, h3⟩ := cellsAbove_cons.1 hl
    rw [tablePut_cons]
    rcases Nat.lt_trichotomy e.1 a with h | h | h
    · rw [if_pos h]; exact cellsAbove_cons.2 ⟨h1, h2, ih (by omega) h3⟩
    · rw [if_neg (by omega), if_pos h]; exact cellsAbove_cons.2 ⟨ha, hb, h ▸ h3⟩
    · rw [if_neg (by omega), if_neg (by omega)]; exact cellsAbove_cons.2 ⟨ha, hb, cellsAbove_cons.2 ⟨h, h2, h3⟩⟩

theorem cellsAbove_filter {lo : Nat} {p : Host.Cell → Bool} {l : List Host.Cell} (hl : cellsAbove lo l = true) :
    cellsAbove lo (l.filter p) = true := by
  induction l generalizing lo with
  | nil => rfl
  | cons e rest ih =>
    obtain ⟨c, d⟩ := e
    obtain ⟨h1, h2, h3⟩ := cellsAbove_cons.1 hl
    simp only [List.filter_cons]
    split
    · exact cellsAbove_cons.2 ⟨h1, h2, ih h3⟩
    · exact ih (cellsAbove_mono (by omega) h3)

theorem Memory.wf_write {m : Memory} (h : m.wf = true) (a : Nat) (b : Byte) : (m.write a b).wf = true := by
  unfold Memory.write Memory.wf at *
  split
  · exact cellsAbove_filter h
  · next hb => exact cellsAbove_put hb (Nat.zero_le a) h

theorem Memory.wf_writeN {m : Memory} (h : m.wf = true) (a n v : Nat) : (m.writeN a n v).wf = true := by
  induction n generalizing a v with
  | zero => exact h
  | succ n ih => exact Memory.wf_write (ih _ _) _ _

theorem Memory.wf_writeCells {m : Memory} (h : m.wf = true) (l : List Host.Cell) : (writeCells m l).wf = true := by
  induction l generalizing m with
  | nil => exact h
  | cons e rest ih => exact ih (Memory.wf_write h _ _)

theorem Memory.wf_clear {m : Memory} (h : m.wf = true) (lo n : Nat) : (m.clear lo n).wf = true := cellsAbove_filter h

@[simp] theorem State.reset_mem_wf : State.reset.mem.wf = true := rfl

/-! ## Equal memories are equal data -/

theorem cellsAbove_find_none {lo a : Nat} (h : a < lo) {l : List Host.Cell} (hl : cellsAbove lo l = true) : tableFind a l = none := by
  induction l generalizing lo with
  | nil => rfl
  | cons e rest ih =>
    obtain ⟨c, d⟩ := e
    obtain ⟨h1, -, h3⟩ := cellsAbove_cons.1 hl
    rw [tableFind_cons, if_neg (show ¬ c = a by omega), ih (by omega) h3]

theorem cells_ext {lo : Nat} {l l' : List Host.Cell} (hl : cellsAbove lo l = true) (hl' : cellsAbove lo l' = true)
    (h : ∀ a, (tableFind a l).getD 0 = (tableFind a l').getD 0) : l = l' := by
  induction l generalizing lo l' with
  | nil =>
    cases l' with
    | nil => rfl
    | cons e rest =>
      obtain ⟨c, d⟩ := e
      exact absurd (by simpa [tableFind] using (h c).symm) (cellsAbove_cons.1 hl').2.1
  | cons e rest ih =>
    obtain ⟨c, d⟩ := e
    obtain ⟨h1, h2, h3⟩ := cellsAbove_cons.1 hl
    cases l' with
    | nil => exact absurd (by simpa [tableFind] using h c) h2
    | cons e' rest' =>
      obtain ⟨c', d'⟩ := e'
      obtain ⟨h1', h2', h3'⟩ := cellsAbove_cons.1 hl'
      have key : c = c' := by
        by_contra hne
        rcases Nat.lt_or_gt_of_ne hne with hlt | hgt
        · have := h c
          rw [cellsAbove_find_none hlt (cellsAbove_cons.2 ⟨Nat.le_refl _, h2', h3'⟩)] at this
          exact h2 (by simpa [tableFind_cons] using this)
        · have := h c'
          rw [cellsAbove_find_none hgt (cellsAbove_cons.2 ⟨Nat.le_refl _, h2, h3⟩)] at this
          exact h2' (by simpa [tableFind_cons] using this.symm)
      subst key
      have hd : d = d' := by simpa [tableFind_cons] using h c
      subst hd
      rw [ih h3 h3' fun a => ?_]
      by_cases ha : a = c
      · subst ha; rw [cellsAbove_find_none (by omega) h3, cellsAbove_find_none (by omega) h3']
      · simpa [tableFind_cons, Ne.symm ha] using h a

/-- Two memories in canonical form that read alike are one. -/
theorem Memory.ext_read {m m' : Memory} (h : m.wf = true) (h' : m'.wf = true) (hr : ∀ a, m.read a = m'.read a) : m = m' := by
  cases m; cases m'
  simpa using cells_ext h h' hr

/-! ## The clearing of a scratchpad -/

theorem Memory.read_clear (m : Memory) (lo n a : Nat) : (m.clear lo n).read a = if lo ≤ a ∧ a < lo + n then 0 else m.read a := by
  obtain ⟨l⟩ := m
  unfold Memory.clear Memory.read
  induction l with
  | nil => simp [tableFind]
  | cons e rest ih =>
    obtain ⟨c, d⟩ := e
    simp only [List.filter_cons]
    by_cases hc : lo ≤ c ∧ c < lo + n
    · simp only [hc, decide_true, Bool.and_self, Bool.not_true, Bool.false_eq_true, if_false, ih]
      by_cases ha : lo ≤ a ∧ a < lo + n
      · rw [if_pos ha, if_pos ha]
      · rw [if_neg ha, if_neg ha, tableFind_cons, if_neg (by rintro rfl; exact ha hc)]
    · have hb : (!(decide (lo ≤ c) && decide (c < lo + n))) = true := by simp; omega
      rw [if_pos hb]
      by_cases hac : c = a
      · subst hac; simp [tableFind_cons, hc]
      · simp only [tableFind_cons, if_neg hac, ih]

/-! ## Cells of a burst -/

theorem Memory.read_writeCells_outside {m : Memory} {a : Nat} {l : List Host.Cell} (h : ∀ e ∈ l, e.1 ≠ a) :
    (writeCells m l).read a = m.read a := by
  induction l generalizing m with
  | nil => rfl
  | cons e rest ih =>
    obtain ⟨c, d⟩ := e
    rw [writeCells, ih fun e he => h e (List.mem_cons_of_mem _ he), Memory.read_write, if_neg (h (c, d) (List.mem_cons_self ..))]

/-! ## Stores of the model -/

@[simp] theorem State.store_mem (s : State) (a n v : Nat) : (s.store a n v).mem = s.mem.writeN a n v := rfl
@[simp] theorem State.store_poison (s : State) (a n v : Nat) : (s.store a n v).poison = s.poison := rfl
@[simp] theorem State.store_cores (s : State) (a n v : Nat) : (s.store a n v).cores = s.cores := rfl
@[simp] theorem State.mark_mem (s : State) (a n : Nat) : (s.mark a n).mem = s.mem := rfl
@[simp] theorem State.engineStore_mem (s : State) (a n v : Nat) (p : Bool) : (s.engineStore a n v p).mem = s.mem.writeN a n v := by
  unfold State.engineStore; split <;> rfl

theorem State.store_wf {s : State} (h : s.mem.wf = true) (a n v : Nat) : (s.store a n v).mem.wf = true := Memory.wf_writeN h a n v
theorem State.engineStore_wf {s : State} (h : s.mem.wf = true) (a n v : Nat) (p : Bool) : (s.engineStore a n v p).mem.wf = true := by
  rw [State.engineStore_mem]; exact Memory.wf_writeN h a n v

/-- A pending burst performed keeps the canonical form. -/
theorem flushBurst_wf {s : State} (h : s.mem.wf = true) (b : Nat) : (flushBurst s b).mem.wf = true := by
  unfold flushBurst; split
  · exact Memory.wf_writeCells h _
  · exact h

end Sys2Proof.Machine
end

