-- ==== Sys2Proof/Tests/Slice0.lean ====
section
/-!
SUPPORT. Tests: what the well-formedness check refuses, words of the encoding decoded, and for each statement states and operands
that meet its hypotheses. Expected values come from the spec's encodings and rules.
-/

open Sys2Proof Sys2Proof.Machine Sys2Proof.Claims

namespace Sys2Proof.Tests

set_option Elab.async false

/-! ## Small states -/

/-- A segment with every right: its space, its greatest offset and its base. -/
def segment (space limit base : Nat) : Quad := BitVec.ofNat 128 (15 * 2 ^ 124 + space * 2 ^ 122 + limit * 2 ^ 64 + base)

/-- A thread at PC 0x100: g1 = 64, g2 = 9, g3 = 0x2000000000000041 (segment 1, offset 65), g4 = segment 1, offset 64,
g6 = 2^32, g7 = the scope word of core 0; segment 0
local, 1 global, 2 remote, 3 landing. -/
def thread : Slot :=
  { Slot.blank with
    status := .runnable, pc := 0x100
    g := vset (vset (vset (vset (vset (vset Slot.blank.g 1 64) 2 9) 3 0x2000000000000041) 4 0x2000000000000040) 6 (2 ^ 32)) 7
      0xC00000
    sg := vset (vset (vset (vset Slot.blank.sg 0 (segment 1 (2 ^ 21 - 1) 0)) 1 (segment 0 (2 ^ 57 - 1) 0)) 2
      (segment 2 (2 ^ 32 - 1) 0)) 3 (segment 3 8191 0) }

/-- A page of 64 KiB at virtual address 0, at physical address 0, with every right. -/
def page : TlbEntry :=
  { tag := 0, hostProcess := false, page := 0, size := 0, pa := 0, policy := .homed, r := true, w := true, x := true, d := true }

/-- A module whose core 0 issues from slot 1, which holds a thread; tag 0 has a context, and the page is translated. -/
def module (x : Slot) : State :=
  { ((State.reset.modCluster 0 fun p => { p with contexts := p.contexts.set 0 codeContext, tlb := [page] }).setSlot 0 1 x) with
    core := 0, slot := 1, ready := 1 }

def basic : State := module thread

/-- The same with `y` in slot 0, as the pilot in slot 7 issues. -/
def pilot (y : Slot) : State := { ((module thread).setSlot 0 0 y).setSlot 0 7 thread with slot := 7 }

/-- The same with core 0 at a cycle. -/
def atCycle (s : State) (n : Word) : State := s.modCore 0 fun r => { r with cycle := n }

/-- A launch of number 0 placed on core 0 alone. -/
def launch : Launch := { parseLaunch 0 with crew := 1, bandw := 1, bandh := 1, coresw := 1, coresh := 1, segn := 1 }
def withLaunch (s : State) : State := { s with placed := [⟨launch, 0, 0⟩] }


/-! ## Words of the encoding: each constructor's, its fields put where the opcode table has them (R96–R103) -/

/-- System words. -/
theorem test_system_words :
    decodeWord 0x010218A5 = .instr (.trap 33 0x8a5) ∧
    decodeWord 0x02021001 = .instr (.tret 33 1) ∧
    decodeWord 0x03021000 = .instr (.park 33) ∧
    decodeWord 0x04852BC0 = .instr (.xrd 33 18 47) ∧
    decodeWord 0x05852BC0 = .instr (.xwr 33 18 47) ∧
    decodeWord 0x068408A5 = .instr (.sysrd 33 0x8a5) ∧
    decodeWord 0x070218A5 = .instr (.syswr 33 0x8a5) ∧
    decodeWord 0x081D2000 = .instr (.segld 7 18) ∧
    decodeWord 0x081D2001 = .instr (.segldImg 7 18) ∧
    decodeWord 0x09000000 = .instr .ifence ∧
    decodeWord 0x0A840001 = .instr (.chkerr 33 1) ∧
    decodeWord 0x0B000000 = .instr .quit ∧
    decodeWord 0x0C852BC0 = .instr (.send 33 18 47) ∧
    decodeWord 0x0D840002 = .instr (.bar 33 2) ∧
    decodeWord 0x0E852BC0 = .instr (.dockIn 33 18 47) ∧
    decodeWord 0x0F852BC0 = .instr (.dockOut 33 18 47) ∧
    decodeWord 0x10852BC0 = .instr (.spawn 33 18 47) ∧
    decodeWord 0x11852BC0 = .instr (.tsub 33 18 47) ∧
    decodeWord 0x12852000 = .instr (.tget 33 18) ∧
    decodeWord 0x13852000 = .instr (.tdone 33 18) ∧
    decodeWord 0x14000021 = .instr (.brk 33) ∧
    decodeWord 0x15852000 = .instr (.kill 33 18) ∧
    decodeWord 0x16852BC0 = .instr (.wake 33 18 47) ∧
    decodeWord 0x17852000 = .instr (.halt 33 18) ∧
    decodeWord 0x18852001 = .instr (.cont 33 18 1) := by
  decide +kernel

/-- Integer words. -/
theorem test_integer_words :
    decodeWord 0x20852BC0 = .instr (.add 33 18 47) ∧
    decodeWord 0x21852BC0 = .instr (.sub 33 18 47) ∧
    decodeWord 0x22852BC0 = .instr (.mul 33 18 47) ∧
    decodeWord 0x23852BC0 = .instr (.mulh 33 18 47) ∧
    decodeWord 0x24852BC0 = .instr (.mulhu 33 18 47) ∧
    decodeWord 0x25852BC0 = .instr (.div 33 18 47) ∧
    decodeWord 0x26852BC0 = .instr (.divu 33 18 47) ∧
    decodeWord 0x27852BC0 = .instr (.rem 33 18 47) ∧
    decodeWord 0x28852BC0 = .instr (.remu 33 18 47) ∧
    decodeWord 0x29852BC0 = .instr (.and 33 18 47) ∧
    decodeWord 0x2A852BC0 = .instr (.or 33 18 47) ∧
    decodeWord 0x2B852BC0 = .instr (.xor 33 18 47) ∧
    decodeWord 0x2C852BC0 = .instr (.andn 33 18 47) ∧
    decodeWord 0x2D852BC0 = .instr (.sll 33 18 47) ∧
    decodeWord 0x2E852BC0 = .instr (.srl 33 18 47) ∧
    decodeWord 0x2F852BC0 = .instr (.sra 33 18 47) ∧
    decodeWord 0x30852BC0 = .instr (.min 33 18 47) ∧
    decodeWord 0x31852BC0 = .instr (.max 33 18 47) ∧
    decodeWord 0x32852BC0 = .instr (.minu 33 18 47) ∧
    decodeWord 0x33852BC0 = .instr (.maxu 33 18 47) ∧
    decodeWord 0x34852000 = .instr (.clz 33 18) ∧
    decodeWord 0x35852000 = .instr (.ctz 33 18) ∧
    decodeWord 0x36852000 = .instr (.popc 33 18) ∧
    decodeWord 0x37852002 = .instr (.sext 33 18 2) ∧
    decodeWord 0x38852002 = .instr (.zext 33 18 2) ∧
    decodeWord 0x39852BC0 = .instr (.rotl 33 18 47) ∧
    decodeWord 0x3A852BC0 = .instr (.rotr 33 18 47) ∧
    decodeWord 0x3B852BC5 = .instr (.sel 33 18 47 5) ∧
    decodeWord 0x3C252BC5 = .instr (.cmp 9 18 47 5) ∧
    decodeWord 0x3D246301 = .instr (.pl 9 6 12 1) ∧
    decodeWord 0x3E852000 = .instr (.jalr 33 18) ∧
    decodeWord 0x408528A5 = .instr (.addi 33 18 0x8a5) ∧
    decodeWord 0x418528A5 = .instr (.andi 33 18 0x8a5) ∧
    decodeWord 0x428528A5 = .instr (.ori 33 18 0x8a5) ∧
    decodeWord 0x438528A5 = .instr (.xori 33 18 0x8a5) ∧
    decodeWord 0x4485202F = .instr (.slli 33 18 47) ∧
    decodeWord 0x4585202F = .instr (.srli 33 18 47) ∧
    decodeWord 0x4685202F = .instr (.srai 33 18 47) := by
  decide +kernel

/-- Immediate, memory and synchronisation words. -/
theorem test_memory_words :
    decodeWord 0x47DAF8A5 = .instr (.cmpi 3 6 47 0x8a5) ∧
    decodeWord 0x488528A5 = .instr (.ldB 33 18 0x8a5) ∧
    decodeWord 0x498528A5 = .instr (.ldBu 33 18 0x8a5) ∧
    decodeWord 0x4A8528A5 = .instr (.ldH 33 18 0x8a5) ∧
    decodeWord 0x4B8528A5 = .instr (.ldHu 33 18 0x8a5) ∧
    decodeWord 0x4C8528A5 = .instr (.ldW 33 18 0x8a5) ∧
    decodeWord 0x4D8528A5 = .instr (.ldWu 33 18 0x8a5) ∧
    decodeWord 0x4E8528A5 = .instr (.ldD 33 18 0x8a5) ∧
    decodeWord 0x508528A5 = .instr (.stB 33 18 0x8a5) ∧
    decodeWord 0x518528A5 = .instr (.stH 33 18 0x8a5) ∧
    decodeWord 0x528528A5 = .instr (.stW 33 18 0x8a5) ∧
    decodeWord 0x538528A5 = .instr (.stD 33 18 0x8a5) ∧
    decodeWord 0x54852005 = .instr (.lres 33 18 1 1) ∧
    decodeWord 0x55852BC7 = .instr (.sres 33 18 47 1 3) ∧
    decodeWord 0x56852BE3 = .instr (.amo 33 18 47 8 3) ∧
    decodeWord 0x57852BC7 = .instr (.cas 33 18 47 1 3) ∧
    decodeWord 0x58852BC0 = .instr (.wrs 33 18 47) ∧
    decodeWord 0x59021000 = .instr (.fence 33) ∧
    decodeWord 0x59021001 = .instr (.fenceB 33) ∧
    decodeWord 0x59021002 = .instr (.fenceA 33) := by
  decide +kernel

/-- Branch words. -/
theorem test_branch_words :
    decodeWord 0x608528A5 = .instr (.beq 33 18 0x8a5) ∧
    decodeWord 0x618528A5 = .instr (.bne 33 18 0x8a5) ∧
    decodeWord 0x628528A5 = .instr (.blt 33 18 0x8a5) ∧
    decodeWord 0x638528A5 = .instr (.bge 33 18 0x8a5) ∧
    decodeWord 0x648528A5 = .instr (.bltu 33 18 0x8a5) ∧
    decodeWord 0x658528A5 = .instr (.bgeu 33 18 0x8a5) ∧
    decodeWord 0x662408A5 = .instr (.bt 9 0x8a5) ∧
    decodeWord 0x672408A5 = .instr (.bf 9 0x8a5) ∧
    decodeWord 0x68020A53 = .instr (.jmp 0x20a53) ∧
    decodeWord 0x69860A53 = .instr (.jal 33 0x20a53) ∧
    decodeWord 0x6A860A53 = .instr (.lui 33 0x20a53) ∧
    decodeWord 0x6B860A53 = .instr (.lpc 33 0x20a53) := by
  decide +kernel

/-- Lane words. -/
theorem test_lane_words :
    decodeWord 0x8096CE03 = .instr (.vadd 9 6 12 7 0 3) ∧
    decodeWord 0x8196CE03 = .instr (.vsub 9 6 12 7 0 3) ∧
    decodeWord 0x8296CE03 = .instr (.vmul 9 6 12 7 0 3) ∧
    decodeWord 0x8396CE03 = .instr (.vdiv 9 6 12 7 0 3) ∧
    decodeWord 0x8496CE03 = .instr (.vfma 9 6 12 7 0 3) ∧
    decodeWord 0x8596CE03 = .instr (.vfms 9 6 12 7 0 3) ∧
    decodeWord 0x8696CE03 = .instr (.vmin 9 6 12 7 0 3) ∧
    decodeWord 0x8796CE03 = .instr (.vmax 9 6 12 7 0 3) ∧
    decodeWord 0x88960C03 = .instr (.vabs 9 6 6 3) ∧
    decodeWord 0x89960C03 = .instr (.vneg 9 6 6 3) ∧
    decodeWord 0x8A960C02 = .instr (.vsqrt 9 6 6 2) ∧
    decodeWord 0x8B960C02 = .instr (.vexp2 9 6 6 2) ∧
    decodeWord 0x8C96CE04 = .instr (.vand 9 6 12 7 0 4) ∧
    decodeWord 0x8D96CE04 = .instr (.vor 9 6 12 7 0 4) ∧
    decodeWord 0x8E96CE04 = .instr (.vxor 9 6 12 7 0 4) ∧
    decodeWord 0x8F96CE04 = .instr (.vshl 9 6 12 7 0 4) ∧
    decodeWord 0x9096CE04 = .instr (.vshr 9 6 12 7 0 4) ∧
    decodeWord 0x9196CE04 = .instr (.vsra 9 6 12 7 0 4) ∧
    decodeWord 0x92960C6B = .instr (.vcvt 9 6 6 1 5 3) := by
  decide +kernel

/-- Mask, move and reduction words. -/
theorem test_move_words :
    decodeWord 0x9336CE2B = .instr (.vcmp 3 6 12 7 5 3) ∧
    decodeWord 0x94313008 = .instr (.vm 3 1 3 1) ∧
    decodeWord 0x9596CE03 = .instr (.vperm 9 6 12 7 3) ∧
    decodeWord 0x96900B7B = .instr (.vbcast 9 5 47 3) ∧
    decodeWord 0x97960CAB = .instr (.vslide 9 6 6 21 3) ∧
    decodeWord 0x98090B7B = .instr (.vextr 9 5 47 3) ∧
    decodeWord 0x99900B7B = .instr (.vins 9 5 47 3) ∧
    decodeWord 0x9A960CAB = .instr (.vredsum 9 6 6 21 3) ∧
    decodeWord 0x9B960CAB = .instr (.vredmax 9 6 6 21 3) ∧
    decodeWord 0x9C960CAB = .instr (.vredmin 9 6 6 21 3) ∧
    decodeWord 0x9D900A03 = .instr (.viota 9 5 3) ∧
    decodeWord 0x9E030090 = .instr (.vmcnt 3 18) ∧
    decodeWord 0x9F030090 = .instr (.vfirst 3 18) := by
  decide +kernel

/-- Vector memory and port words. -/
theorem test_port_words :
    decodeWord 0xA0900B7B = .instr (.vld 9 5 47 3) ∧
    decodeWord 0xA1900B7B = .instr (.vst 9 5 47 3) ∧
    decodeWord 0xA2900B7B = .instr (.vlds 9 5 47 3) ∧
    decodeWord 0xA3900B7B = .instr (.vsts 9 5 47 3) ∧
    decodeWord 0xA4960CAB = .instr (.vgath 9 6 6 21 3) ∧
    decodeWord 0xA5960CAB = .instr (.vscat 9 6 6 21 3) ∧
    decodeWord 0xA684600C = .instr (.qtry 33 6 12) ∧
    decodeWord 0xA725200C = .instr (.qoffer 9 18 12) ∧
    decodeWord 0xA8846000 = .instr (.qcnt 33 6) ∧
    decodeWord 0xA9906160 = .instr (.vqpop 9 6 12) ∧
    decodeWord 0xAA096160 = .instr (.vqpush 9 6 12) ∧
    decodeWord 0xAB300090 = .instr (.mset 3 18) ∧
    decodeWord 0xAC030090 = .instr (.mget 3 18) ∧
    decodeWord 0xAD96C001 = .instr (.vpack 9 6 12 1) ∧
    decodeWord 0xAE961001 = .instr (.vunpk 9 6 1 1) := by
  decide +kernel

/-- Command, capsule and group words. -/
theorem test_command_words :
    decodeWord 0xC0852000 = .instr (.mshape 33 18) ∧
    decodeWord 0xC1840000 = .instr (.enq 33) ∧
    decodeWord 0xC2852000 = .instr (.enqw 33 18) ∧
    decodeWord 0xC3000000 = .instr .drain ∧
    decodeWord 0xC48528A5 = .instr (.cnew 33 18 0x8a5) ∧
    decodeWord 0xC5000000 = .instr .cfwd ∧
    decodeWord 0xC6852BC0 = .instr (.cins 33 18 47) ∧
    decodeWord 0xC7852000 = .instr (.cdel 33 18) ∧
    decodeWord 0xC8852BC0 = .instr (.crep 33 18 47) ∧
    decodeWord 0xC9021000 = .instr (.cpark 33) ∧
    decodeWord 0xCA852BC0 = .instr (.gacc 33 18 47) ∧
    decodeWord 0xCB852BC0 = .instr (.gstat 33 18 47) ∧
    decodeWord 0xCC852000 = .instr (.gclose 33 18) ∧
    decodeWord 0xCD852000 = .instr (.gflip 33 18) ∧
    decodeWord 0xCE852BC0 = .instr (.gjoin 33 18 47) ∧
    decodeWord 0xCF846001 = .instr (.ringrd 33 6 1) := by
  decide +kernel

/-! ## Ill-formed instructions, one for each check (R96–R104), and words that name them -/

theorem test_ill_formed_codes :
    (Instr.bar 1 3).wellFormed = false ∧ (Instr.sext 1 2 3).wellFormed = false ∧ (Instr.zext 1 2 3).wellFormed = false ∧
    (Instr.cmp 1 2 3 6).wellFormed = false ∧ (Instr.amo 1 2 3 9 0).wellFormed = false ∧ (Instr.vadd 1 2 3 1 0 0).wellFormed = false ∧
    (Instr.vadd 1 2 3 0 0 6).wellFormed = false ∧ (Instr.vadd 1 2 3 0 5 0).wellFormed = false ∧ (Instr.vadd 1 2 0 0 5 0).wellFormed = true ∧
    (Instr.vsqrt 1 2 0 3).wellFormed = false ∧ (Instr.vand 1 2 3 0 0 2).wellFormed = false ∧ (Instr.vcvt 1 2 0 0 7 0).wellFormed = false ∧
    (Instr.vcmp 1 2 3 0 7 0).wellFormed = false ∧ (Instr.vpack 1 2 3 0).wellFormed = false ∧ (Instr.vunpk 1 2 2 1).wellFormed = false ∧
    (Instr.vunpk 1 2 3 5).wellFormed = true ∧ (Instr.vld 1 2 3 0).wellFormed = false := by decide

def refuses (n : Nat) : Bool :=
  match decodeWord (.ofNat 32 n) with
  | .rejected _ => true
  | .instr _ => false
theorem test_rejected_words :
    (∀ n ∈ [0x59000003, 0x26000007, 0x34042041, 0x3C043047, 0x44042FFF, 0xEA8C0000, 0x80123201, 0x80123006, 0x8012302B, 0x8B120003,
      0xA6000010, 0xFF000000, 0x7F000000, 0x80FFFFFF], refuses n = true) := by decide +kernel

/-! ## Results on one thread: expected values from the rules' own text -/

/-- g8 of the thread after an instruction on a in g1 and b in g2; its status flags; its m0. -/
def run (i : Instr) (s : State) : Option Slot :=
  match exec i s with
  | .next t => some t.me
  | _ => none
def gives (i : Instr) (a b v : Word) : Bool :=
  (run i (module { thread with g := vset (vset thread.g 1 a) 2 b })).any fun x => x.readG 8 == v

/-- R130: the cases of its table and its examples. -/
theorem test_division : gives (.div 8 1 2) (-7) 2 (-3) = true ∧ gives (.rem 8 1 2) (-7) 2 (-1) = true ∧ gives (.div 8 1 2) 5 0 (-1) = true ∧
    gives (.rem 8 1 2) 5 0 5 = true ∧ gives (.div 8 1 2) (2 ^ 63) (-1) (2 ^ 63) = true ∧ gives (.rem 8 1 2) (2 ^ 63) (-1) 0 = true ∧
    gives (.divu 8 1 2) 7 0 (-1) = true ∧ gives (.remu 8 1 2) 7 0 7 = true := by decide +kernel

/-- R129, R131, R132. -/
theorem test_integers : gives (.mulh 8 1 2) (-1) 2 (-1) = true ∧ gives (.mulhu 8 1 2) (-1) 2 1 = true ∧ gives (.sub 8 1 2) 0 1 (-1) = true ∧
    gives (.sra 8 1 2) (2 ^ 63) 65 (2 ^ 63 + 2 ^ 62) = true ∧ gives (.sll 8 1 2) 1 64 1 = true ∧ gives (.rotr 8 1 2) 1 1 (2 ^ 63) = true ∧
    gives (.andn 8 1 2) 0xFF 0x0F 0xF0 = true ∧ gives (.min 8 1 2) (-1) 1 (-1) = true ∧ gives (.minu 8 1 2) (-1) 1 1 = true ∧
    gives (.clz 8 1) 0 0 64 = true ∧ gives (.ctz 8 1) 8 0 3 = true ∧ gives (.popc 8 1) 255 0 8 = true ∧
    gives (.sext 8 1 0) 0x80 0 (-128) = true ∧ gives (.zext 8 1 1) 0x18000 0 0x8000 = true := by decide +kernel

/-- R134, R136, R143: immediates have a sign; lpc adds the address of the lpc; a jump register is read before the link. -/
theorem test_immediates_and_links : gives (.addi 8 1 0xFFF) 0 0 (-1) = true ∧ gives (.lui 8 0x20000) 0 0 (-0x20000000) = true ∧
    gives (.lpc 8 1) 0 0 0x1100 = true ∧ gives (.jal 8 3) 0 0 0x104 = true ∧ gives (.jalr 8 1) 0x200 0 0x104 = true ∧
    ((run (.jalr 1 1) (module { thread with g := vset thread.g 1 0x200 })).any fun x => x.pc == 0x200 && x.readG 1 == 0x104) = true ∧
    ((run (.jmp 0x3FFFF) basic).any fun x => x.pc == 0xFC) = true := by decide +kernel

/-- R146, R147: a stored byte is loaded back with its sign, and without. -/
theorem test_store_then_load :
    (match exec (.stB 1 2 0) (module { thread with g := vset thread.g 2 0x1FE }) with
     | .next t => (run (.ldB 8 1 0) t).any fun x => x.readG 8 == -2
     | _ => false) = true ∧
    (match exec (.stB 1 2 0) (module { thread with g := vset thread.g 2 0x1FE }) with
     | .next t => (run (.ldBu 8 1 0) t).any fun x => x.readG 8 == 0xFE
     | _ => false) = true := by decide +kernel

/-- R51, R52, R57: exact ties to even, overflow, the sign of a zero sum, an invalid operation. -/
theorem test_rounding : (roundTo fp16 .rne false 0 (.fin false 65520 1)).1 = 0x7C00 ∧ (roundTo fp16 .rne true 0 (.fin false 65536 1)).1 = 0x7BFF ∧
    (roundTo fp16 .rtz false 0 (.fin true 65536 1)).1 = 0xFBFF ∧ (roundF32 .rne (.fin false 16777217 1)).1 = 0x4B800000 ∧
    (roundF32 .rup (.fin false 16777217 1)).1 = 0x4B800001 ∧ (f32 .rne (addVal .rne (dec32 0x3F800000) (dec32 0xBF800000))).1 = 0 ∧
    (f32 .rne (addVal .rne (dec32 0x7F800000) (dec32 0xFF800000))).1 = 0x7FC00000 ∧ (add32 0x3F800000 0x40000000).1 = 0x40400000 ∧
    (mul32 0x40400000 0xC0000000).1 = 0xC0C00000 ∧ (div32 0x3F800000 0x40400000).1 = 0x3EAAAAAB ∧ (exp32 0x40000000).1 = 0x40800000 := by
  decide +kernel

/-- R178: its example, with and without .sat. -/
def converting : State := module { thread with v := vset thread.v 1 0x47800000 }
theorem test_convert_example : ((run (.vcvt 2 1 0 1 0 1) converting).any fun x => lane (x.readV 2) 0 == 0x7BFF) = true ∧
    ((run (.vcvt 2 1 0 0 0 1) converting).any fun x => lane (x.readV 2) 0 == 0x7C00) = true := by decide +kernel

/-- R65, R58, R222: three operands are summed in two roundings; −0 is below +0; the order of top-k. -/
theorem test_orders : (sumEight [0x3F800000, 0x40000000, 0x40400000]).1 = 0x40C00000 ∧ (max32 0x80000000 0).1 = 0 ∧ (min32 0x80000000 0).1 = 0x80000000 ∧
    topKey 0x80000000 < topKey 0 := by decide +kernel
/-! ## Hypotheses that can be met: scalar instructions and operand forms -/

/-- The checks of an instruction pass for the basic thread, and it is steady. -/
theorem witness_runs : ∀ i ∈ [Instr.bt 0 4, .bf 3 4, .jmp 0x1FFFF, .jal 31 1, .jalr 31 1, .jalr 31 2, .add 31 1 2, .addi 0 1 0x7FF,
    .lui 31 0x20000, .cmp 15 1 2 5, .cmpi 3 15 1 0x800, .pl 0 15 1 3, .bgeu 1 2 0x800, .ldB 5 3 0, .ldD 5 1 0, .stB 3 2 0, .stD 1 2 0],
    basic.runs i = true := by decide +kernel

theorem witness_TwoOperandResults : ((Instr.rotr 5 1 2), fun (a b : Word) => (a >>> (b.toNat % 64)) ||| (a <<< (64 - b.toNat % 64)))
      ∈ twoOperand 5 1 2 ∧
    precheck (.rotr 5 1 2) (basic.noted (.rotr 5 1 2)) = none ∧
    readFrom [1, 2] 0 (basic.noted (.rotr 5 1 2)) = .go [64, 9] (basic.noted (.rotr 5 1 2)) :=
  ⟨by simp [twoOperand], by decide +kernel, by rfl⟩

theorem witness_TwoOperandWords : ∃ p ∈ (twoOperand 63 62 33).zip (((List.range' 0x20 20) ++ [0x39, 0x3A]).map (BitVec.ofNat 8)),
    decodeWord (p.2 ++ 63#6 ++ 62#6 ++ 33#6 ++ 0#6) = .instr p.1.1 ∧
    decodeWord (p.2 ++ 63#6 ++ 62#6 ++ 33#6 ++ 1#6) = .rejected .reservedField :=
  ⟨((Instr.add 63 62 33, fun a b => .ofNat 64 (a.toNat + b.toNat)), 0x20#8), .head _, by decide, by decide⟩

theorem witness_OneOperandWords : Instr.sext 63 33 2 ≠ .sext 63 33 3 ∧ decodeWord (0x37#8 ++ 63#6 ++ 33#6 ++ 0#10 ++ 2#2) = .instr (.sext 63 33 2) ∧
    decodeWord (0x37#8 ++ 63#6 ++ 33#6 ++ 0#10 ++ 3#2) = .rejected .reservedField ∧
    decodeWord (0x46#8 ++ 63#6 ++ 33#6 ++ 0#6 ++ 63#6) = .instr (.srai 63 33 63) := by decide

theorem witness_BranchWords : Instr.bgeu 63 33 0x800 ∈ (compareBranches 63 33 0x800).map (·.1) ∧
    decodeWord (0x65#8 ++ 63#6 ++ 33#6 ++ 0x800#12) = .instr (.bgeu 63 33 0x800) := ⟨by simp [compareBranches], by decide⟩

theorem witness_OneOperandAndCounts :
    ((Instr.slli 5 1 63), fun (a : Word) => BitVec.ofNat 64 (a.toNat * 2 ^ (63#6).toNat)) ∈ oneOperand 5 1 0 63 ∧
    (∀ i ∈ [Instr.slli 5 1 63, .clz 5 1, .ctz 5 1, .popc 5 1, .lui 5 0x1FFFF, .lpc 5 0x20000], precheck i (basic.noted i) = none) ∧
    (∀ i, readFrom [1] 0 (basic.noted i) = .go [64] (basic.noted i)) :=
  ⟨by simp [oneOperand], by decide +kernel, fun _ => rfl⟩

theorem witness_SelectAndPredicates :
    (∀ i ∈ [Instr.sel 5 1 2 3, .cmp 1 1 2 0, .cmpi 3 15 1 64, .pl 15 0 1 3], precheck i (basic.noted i) = none) ∧
    (∀ i, readFrom [1, 2] 0 (basic.noted i) = .go [64, 9] (basic.noted i)) ∧
    (∀ i, readFrom [1] 0 (basic.noted i) = .go [64] (basic.noted i)) ∧
    (false = true ↔ holds 0 64 9) ∧ (true = true ↔ holds ([0, 1, 2, 4].getD (0#2).toNat 0) 64 (.ofInt 64 (64#12).toInt)) ∧
    (let p := (basic.noted (.pl 15 0 1 3)).me.predicate 0
     let q := (basic.noted (.pl 15 0 1 3)).me.predicate 1
     true = [p && q, p || q, p ^^ q, p && !q].getD 3 false) :=
  ⟨by decide +kernel, fun _ => rfl, fun _ => rfl, by simp [holds], by simp [holds], by decide +kernel⟩

theorem witness_BranchesAndJumps :
    (Instr.bgeu 1 2 0x800, 5) ∈ compareBranches 1 2 0x800 ∧ precheck (.bgeu 1 2 0x800) (basic.noted (.bgeu 1 2 0x800)) = none ∧
    readFrom [1, 2] 0 (basic.noted (.bgeu 1 2 0x800)) = .go [64, 9] (basic.noted (.bgeu 1 2 0x800)) ∧
    holds 5 64 9 ∧ (Instr.beq 1 2 4, 0) ∈ compareBranches 1 2 4 ∧
    readFrom [1, 2] 0 (basic.noted (.beq 1 2 4)) = .go [64, 9] (basic.noted (.beq 1 2 4)) ∧ ¬ holds 0 64 9 ∧
    (basic.me.readG 1).toNat % 4 = 0 ∧ (basic.me.readG 2).toNat % 4 ≠ 0 :=
  ⟨by simp [compareBranches], by decide +kernel, rfl, by simp [holds], by simp [compareBranches], rfl, by simp [holds],
    by decide +kernel, by decide +kernel⟩

/-- A thread with an element popped, and one at q8. -/
def withElems : State := module { thread with latch := [⟨5, false, false⟩], qe := vset thread.qe 0 [⟨7, false, false⟩] }

theorem witness_OperandForms : basic.slot < 8 ∧ basic.me.pair = .alone ∧ (31 : BitVec 6).toNat < 32 ∧ 48 ≤ (48 : BitVec 6).toNat ∧
    32 ≤ (32 : BitVec 6).toNat ∧ (47 : BitVec 6).toNat < 48 ∧ 0 < withElems.me.latch.length ∧
    withElems.me.latch.length ≤ 1 ∧ portGet withElems withElems.core withElems.slot ((40 : BitVec 6).toNat - 32) = [⟨7, false, false⟩] ∧
    ((withElems.coreOf withElems.core).deferred.any fun d => d.1 == withElems.slot) = false ∧
    portGet basic basic.core basic.slot ((40 : BitVec 6).toNat - 32) = [] ∧ basic.me.reservation = .free := by decide +kernel

/-- A thread whose own port q8 is full. -/
def fullPort : Slot := { thread with qe := vset thread.qe 0 (List.replicate 16 ⟨7, false, false⟩) }

theorem witness_OperandForms_destinations : thread.steady = true ∧ fullPort.steady = true ∧ ctxRefuses 5 7 = false ∧ ctxRefuses 9 7 = true ∧
    48 ≤ (63 : BitVec 6).toNat ∧ freePlaces (basic.setMe thread) 0 1 8 ≠ 0 ∧
    ((basic.coreOf 0).poppers.any fun w => w.1 == 8) = false ∧ freePlaces (basic.setMe fullPort) 0 1 8 = 0 ∧
    fullPort.reservation = .free ∧
    (let s := atCycle (basic.modCore 0 fun r => { r with arriving := [⟨3, 1, 8, ⟨7, false, false⟩⟩] }) 3
     (s.coreOf 0).arriving = [⟨3, 1, 8, ⟨7, false, false⟩⟩] ∧ (s.coreOf 0).poppers = [] ∧
     (∀ k, k < 8 → (s.slotOf 0 k).returnAt = none) ∧ 3 < ((s.coreOf 0).cycle + 1).toNat) := by decide +kernel

theorem witness_ContextRegisters : basic.slot < 8 ∧ (7, 21) ∈ [(5, 64), (6, 11), (7, 21), (8, 21), (9, 3), (10, 7), (11, 32)] ∧
    isReadOnly (BitVec.ofNat 6 (48 + 0)) = true := by decide +kernel

theorem witness_ScalarFrames : Instr.lpc 31 0x20000 ∈ registerResult 31 1 2 0 0x20000 0 0 0 ∧ basic.runs (.lpc 31 0x20000) = true ∧
    (31 : BitVec 6).toNat < 32 ∧ Instr.jmp 0x20000 ∈ [.cmp 1 1 2 0, .cmpi 0 1 1 4, .pl 1 1 2 0, .bt 1 4, .bf 1 4, .jmp 0x20000]
      ++ (compareBranches 1 2 4).map (·.1) ∧ basic.runs (.jmp 0x20000) = true := by
  refine ⟨by simp [registerResult], by decide +kernel, by decide, by simp, by decide +kernel⟩

/-! ## Loads and stores -/

theorem witness_LocalLoads : (Instr.ldD 5 1 0, 8, fun (v : Nat) => (v : Int)) ∈ loads 5 1 0 ∧ basic.runs (.ldD 5 1 0) = true ∧
    LocalAt basic (basic.me.readG 1 + .ofInt 64 (0#12).toInt) 8 64 true false :=
  ⟨by simp [loads], by decide +kernel, by simp only [LocalAt]; decide +kernel⟩

theorem witness_StoresToTheScratchpad : (Instr.stD 1 2 0, 8) ∈ stores 1 2 0 ∧ precheck (.stD 1 2 0) (basic.noted (.stD 1 2 0)) = none ∧
    readFrom [2] 0 (basic.noted (.stD 1 2 0)) = .go [9] (basic.noted (.stD 1 2 0)) ∧ (basic.noted (.stD 1 2 0)).me.pair = .alone ∧
    LocalAt (basic.noted (.stD 1 2 0)) ((basic.noted (.stD 1 2 0)).me.readG 1 + .ofInt 64 (0#12).toInt) 8 64 false true :=
  ⟨by simp [stores], by decide +kernel, rfl, by decide +kernel, by simp only [LocalAt]; decide +kernel⟩

/-- A thread whose segment 0 is valid without the read right, for the fault clauses, and one whose local space ends at 72. -/
def shortSegment : State := module { thread with sg := vset thread.sg 0 (segment 1 70 0) }
def farBase : State := module { thread with sg := vset thread.sg 0 (segment 1 (2 ^ 40) (2 ^ 21 - 64)) }

theorem witness_AccessFaults : (basic.runs (.ldD 5 1 0) = true ∧ (Instr.ldD 5 1 0, 8, fun (v : Nat) => (v : Int)) ∈ loads 5 1 0) ∧
    bitAt (vget basic.me.sg 0 7) 127 = false ∧ shortSegment.runs (.ldD 5 1 0) = true ∧
    bitsOf (vget shortSegment.me.sg 0 0) 120 64 < bitsOf (shortSegment.me.readG 1) 60 0 + 8 - 1 ∧
    (bitsOf (vget basic.me.sg 0 0) 56 0 + bitsOf (basic.me.readG 2) 60 0) % 8 ≠ 0 ∧
    farBase.runs (.stD 1 2 0) = true ∧ bitsOf (vget farBase.me.sg 0 0) 123 122 = 1 ∧
    2 ^ 21 < bitsOf (vget farBase.me.sg 0 0) 56 0 + bitsOf (farBase.me.readG 1) 60 0 + slotRebase farBase 0 1 + 8 :=
  ⟨⟨by decide +kernel, by simp [loads]⟩, by decide +kernel⟩

theorem witness_GlobalAccesses : basic.me.origin = none ∧ (Instr.ldD 5 4 0, 8, fun (v : Nat) => (v : Int)) ∈ loads 5 4 0 ∧
    (Instr.stD 4 2 0, 8) ∈ stores 4 2 0 ∧ basic.runs (.ldD 5 4 0) = true ∧ basic.runs (.stD 4 2 0) = true ∧
    GlobalAt basic (basic.me.readG 4 + .ofInt 64 (0#12).toInt) 8 64 .homed true false ∧
    GlobalAt basic (basic.me.readG 4 + .ofInt 64 (0#12).toInt) 8 64 .homed false true :=
  ⟨by decide +kernel, by simp [loads], by simp [stores], by decide +kernel, by decide +kernel, by simp only [GlobalAt]; decide +kernel,
    by simp only [GlobalAt]; decide +kernel⟩

/-- A thread that waits for the reply to its access, and a line at its home. -/
def waiting (rd : Option (BitVec 6)) : Slot := { thread with status := .memoryWait, wait := .reply rd false }
def line : HomeLine := ⟨0x1234, false, false, []⟩
def atHome (k : AccessKind) (x : Slot) : State :=
  { module x with flights := [{ core := 0, slot := 1, kind := k, target := .home 0 .homed, n := 8, data := 5 }]
                  homes := (module x).homes.set 0 line }

theorem witness_GlobalAccesses_home :
    (∀ k ∈ [AccessKind.load true, .store], let s := atHome k (waiting (some 5))
     s.flights[0]? = some { core := 0, slot := 1, kind := k, target := .home 0 .homed, n := 8, data := 5 } ∧
     inLaneOrder s 0 { core := 0, slot := 1, kind := k, target := .home 0 .homed, n := 8, data := 5 } = true ∧
     s.homes.find? (0 / 32) = some line ∧ 0 % 32 + 8 ≤ 32 ∧ (s.slotOf 0 1).origin = none ∧
     (s.slotOf 0 1).wait = .reply (some 5) false ∧ s.hostLines = [] ∧ s.queues = [] ∧ s.watches = [] ∧ s.entryMarks = []) ∧
    (let s := module { waiting (some 5) with reply := some ⟨9, false⟩ }
     s.me.status = .memoryWait ∧ s.me.wait = .reply (some 5) false ∧ s.me.reply = some ⟨9, false⟩ ∧ s.me.pair = .alone ∧
     s.me.haltPending = false ∧ s.me.stepArmed = false ∧ s.me.docking = false ∧ s.wants = []) := by decide +kernel

/-- A thread that holds the granule of offset 64, and one that expects what memory holds there. -/
theorem witness_LocalAtomics : (∀ g, basic.me.reservation ≠ .global g) ∧ (8 : BitVec 4).toNat ≤ 8 ∧
    releaseHolds basic basic.core basic.slot = true ∧ ctxRefuses ((5 : BitVec 6).toNat - 48) (.ofNat 64 (basic.mem.readN (padAddr 0 64) 8)) = false ∧
    (∀ i ∈ [Instr.lres 5 1 0 3, .lres 57 1 1 0, .sres 5 1 2 0 2, .amo 5 1 2 8 1, .cas 5 1 2 0 0, .cas 2 1 2 1 3], basic.runs i = true) ∧
    LocalAt basic (basic.me.readG 1) 8 64 true true ∧ LocalAt basic (basic.me.readG 1) 8 64 false true ∧
    poisonedIn basic.poison (padAddr basic.core 64) 8 = false ∧
    (let s := module { thread with reservation := .localPad 64 }
     s.runs (.sres 5 1 2 0 2) = true ∧ s.me.reservation = .localPad (64 / 8 * 8)) ∧ basic.me.reservation ≠ .localPad (64 / 8 * 8) ∧
    basic.mem.readN (padAddr 0 64) 8 = (basic.me.readG 5).toNat % 2 ^ 64 ∧
    basic.mem.readN (padAddr 0 64) 4 ≠ (basic.me.readG 2).toNat % 2 ^ 32 := by
  have held : basic.me.reservation = .free := by decide +kernel
  refine ⟨fun g h => ?_, by simp only [LocalAt]; decide +kernel⟩
  rw [held] at h; cases h

/-! ## Homes, ports, fences -/

def lresState : State := atHome .lres (waiting (some 5))
def queue : Queue := ⟨0, some (0, 1), 0, []⟩
def queued (n : Word) : State := atCycle { module { thread with reservation := .global 0 } with queues := [queue] } n
def watched (n : Word) : State := atCycle { module (waiting (some 5)) with watches := [⟨0, 1, false, 0, 64, 0⟩] } n
def lresFlight : Flight := { core := 0, slot := 1, kind := .lres, target := .home 0 .homed, n := 8, data := 5 }
def admitted : State := (atHome .store (waiting (some 5))).modCore 0 fun r => { r with admission := [lresFlight] }

theorem witness_HomeQueues :
    (let s := lresState
     s.flights[0]? = some lresFlight ∧ inLaneOrder s 0 lresFlight = true ∧ s.homes.find? 0 = some line ∧ 0 % 32 + 8 ≤ 32 ∧
     (s.slotOf 0 1).origin = none ∧ (s.slotOf 0 1).reservation = .free ∧ (s.slotOf 0 1).wait = .reply (some 5) false ∧
     s.hostLines = [] ∧ s.queues = [] ∧ (s.coreOf (homeCore s 0)).admission = [] ∧ s.entryMarks = [] ∧ lresFlight.spoiled = false) ∧
    (((queued 0).slotOf 0 1).reservation = .global queue.granule ∧
     queue.grantedAt.toNat + 1024 ≤ ((queued 1024).coreOf (homeCore (queued 1024) 0)).cycle.toNat ∧
     ((queued 1023).coreOf (homeCore (queued 1023) 0)).cycle.toNat < queue.grantedAt.toNat + 1024) ∧
    (((watched 0).slotOf 0 1).wait = .reply (some 5) false ∧ (∀ e ∈ (watched 0).cores.entries, e.2.admission = []) ∧
     ((watched 0).slotOf 0 1).last.toNat + 65536 ≤ ((watched 65536).coreOf 0).cycle.toNat) ∧
    (let s := admitted
     (s.coreOf 0).admission = [lresFlight] ∧ s.homes.find? 0 = some line ∧ (s.slotOf 0 1).reservation = .free ∧
     (s.slotOf 0 1).wait = .reply (some 5) false ∧ (s.queues.any fun q => q.granule == 0 / 8 * 8) = false ∧
     (s.queues.filter fun q => homeCore s q.granule == 0).length < 64) := by decide +kernel

def bankFlight (k : AccessKind) (core n : Nat) : Flight :=
  { core := 0, slot := 1, kind := k, target := .bank core 8, n := 8, data := 5, refused := n }
def toBank (f : Flight) : State := { module (waiting (some 5)) with flights := [f] }

theorem witness_HomesAndRemoteBanks :
    (∀ f ∈ [bankFlight (.load true) 1279 0, bankFlight .store 5 0, bankFlight .store 1280 0], let s := toBank f
     s.flights[0]? = some f ∧ f.spoiled = false ∧ inLaneOrder s 0 f = true ∧ agedAt s (if f.kind = .load true then 1279 else 5) (8 / 32 % 32) = [] ∧ (s.slotOf 0 1).wait = .reply (some 5) false) ∧
    (let s := { toBank (bankFlight .store 5 0) with flights := [bankFlight .store 5 0, { bankFlight .store 5 16 with aged := true }] }
     s.flights[0]? = some (bankFlight .store 5 0) ∧ (bankFlight .store 5 0).aged = false ∧ agedAt s 5 (8 / 32 % 32) ≠ []) ∧
    (toBank (bankFlight .store 5 0)).inService 1279 = true ∧ (toBank (bankFlight .store 5 0)).inService 1280 = false ∧
    (toBank (bankFlight .store 5 16)).flights[0]? = some (bankFlight .store 5 16) ∧ 16 ≤ (bankFlight .store 5 16).refused ∧
    (bankFlight .store 5 16).aged = false ∧ (bankFlight .store 5 15).refused < 16 := by decide +kernel

def combined : CombineEntry := ⟨0, [(0, 1), (33, 2)], [(0, 1)], 0, [], []⟩
def combining (n : Nat) : State :=
  { (module thread).modCluster 0 fun p => { p with combine := [combined] } with
    homes := ((module thread).homes.set 0 line).set 1 line, clock := n }
def burst : Burst := ⟨0, true, [(0, 1), (0, 2)], [], [(0, 1)], 0⟩

theorem witness_PortBuffers :
    (let s := combining 256
     (s.clusterAt 0).combine = [combined] ∧ combined.poison = [] ∧ combined.cured = [] ∧ bankBusy s (0 * 256) = false ∧ s.hostLines = [] ∧
     s.queues = [] ∧ s.watches = [] ∧ s.bursts = [] ∧ 0 + 256 ≤ s.clock ∧ (combining 255).clock < 0 + 256) ∧
    (∀ x ∈ ([(0, 1), (33, 2)] : List Host.Cell), ∃ l, (combining 256).homes.find? (x.1 / 32) = some l) ∧
    (let s := { basic with bursts := [burst], clock := 8 }
     s.bursts = [burst] ∧ bankBusy s (burst.block * 256) = false ∧ burst.opened + 8 ≤ s.clock) := by
  refine ⟨by decide +kernel, ?_, by decide +kernel⟩
  intro x hx
  simp only [List.mem_cons, List.not_mem_nil, or_false] at hx
  rcases hx with rfl | rfl <;> exact ⟨line, by decide +kernel⟩

theorem witness_FencesAndWatches :
    (∀ s ∈ [basic, combining 0], ∀ i ∈ [Instr.fence 1, .fence 4, .fenceB 1, .fenceB 4, .fenceA 1, .fenceA 4, .wrs 5 1 2, .ifence,
        .chkerr 5 0, .chkerr 5 1], s.runs i = true) ∧
    Malformed (basic.me.readG 4) ∧ ¬ Malformed (basic.me.readG 1) ∧ bitsOf (basic.me.readG 1) 23 22 = 0 ∧
    ((basic.clusterAt (clusterOf basic.core)).combine.any fun e => e.owners.contains (basic.core, basic.slot)) = false ∧
    (((combining 0).clusterAt (clusterOf 0)).combine.any fun e => e.owners.contains (0, 1)) = true ∧
    (basic.coreOf 0).bankQ = [] ∧ basic.bursts = [] ∧ basic.homes.entries = [] ∧ basic.me.reservation = .free ∧
    LocalAt basic (basic.me.readG 1) 8 64 true false ∧ (basic.me.readG 1).toNat % 8 = 0 ∧
    poisonedIn basic.poison (padAddr 0 64) 8 = false ∧ BitVec.ofNat 64 (basic.mem.readN (padAddr 0 64) 8) ≠ basic.me.readG 2 := by
  simp only [Malformed, LocalAt]; decide +kernel

/-! ## Steps, exceptions, the wheel -/

def fetching (w : Nat) : State := State.reset.withFetchWord 32 w

theorem witness_StepRunsDecoded :
    ((fetching 0x20042060).issuing = true ∧ FetchesNext (fetching 0x20042060) ∧ CodeAt (fetching 0x20042060) 0 .homed) ∧
    (fetchWord { fetching 0x200420C0 with issuing := false } 0 0 .homed 0).1 = some 0x200420C0 ∧
    decodeWord 0x200420C0 = .instr (.add 1 2 3) ∧
    (fetchWord { fetching 0x200420C1 with issuing := false } 0 0 .homed 0).1 = some 0x200420C1 ∧
    decodeWord 0x200420C1 = .rejected .reservedField ∧
    (let s := (fetching 0x200420C1).setPch 0 0 { Pch.reset with running := some ⟨0, 1, 1, 0, none, false, 0, 0, false⟩ }
     s.issuing = true ∧ (fetchWord { s with issuing := false } 0 0 .homed 0).1 = none) ∧
    (let s := { module { thread with sg := Slot.blank.sg } with issuing := true }
     s.issuing = true ∧ FetchesNext s ∧ bitAt (vget s.me.sg 0 (bitsOf s.me.pc 63 61)) 127 = false) ∧
    (let s := { basic with agenda := [.event (.droopStretch 3)] }
     s.issuing = false ∧ s.going = [] ∧ s.agenda = [.event (.droopStretch 3)] ∧ (Instr.droopStretch 3).isWord = false ∧
     (∀ w, Instr.droopStretch 3 ≠ .illegalInstruction w) ∧ ∀ c, Instr.droopStretch 3 ≠ .fetchFault c) := by
  simp only [FetchesNext, CodeAt, ne_eq, reduceCtorEq, not_false_eq_true, implies_true, and_true]
  decide +kernel

theorem witness_RoundTripAll : (Instr.trap 31 0xFFF).encodable = true ∧ decodeWord (encodeWord (.trap 31 0xFFF)) = .instr (.trap 31 0xFFF) := by
  decide +kernel

theorem witness_DecodeIsInjective : decodeWord (0x01#8 ++ 0#6 ++ 31#6 ++ 0xFFF#12) = .instr (.trap 31 0xFFF) := by decide +kernel

theorem witness_Fetching : 0x100 % 4 = 0 ∧ basic.bursts = [] ∧ basic.homes.entries = [] ∧ basic.apertures.entries = [] ∧
    (basic.coreOf 0).icache.entries = [] ∧ (basic.clusterAt 0).combine = [] ∧ bankBusy basic (0x100 / 32 * 32) = false ∧ decodeWord 0 = .rejected .blankWord ∧
    (let s := module { thread with sg := Slot.blank.sg }
     bitAt (vget s.me.sg 0 (bitsOf s.me.pc 63 61)) 127 = false) := by decide +kernel

def parkedPilot : State := basic.setSlot 0 7 { thread with status := .parked, park := .key 5 false }

theorem witness_Exceptions :
    ((Cause.breakpoint, 11) ∈ Sys2Proof.Claims.causes ∧ (basic.slotOf 0 1).pair = .alone ∧ (basic.slotOf 0 1).reservation = .free ∧
      hostContext basic 0 1 = none ∧ (basic.slotOf 0 7).status ≠ .parked) ∧
    ((parkedPilot.slotOf 0 7).status = .parked ∧ (parkedPilot.slotOf 0 7).park = .key 5 false ∧ (parkedPilot.slotOf 0 7).pair = .alone ∧
      (parkedPilot.slotOf 0 7).docking = false ∧ (parkedPilot.slotOf 0 7).haltPending = false ∧
      (parkedPilot.slotOf 0 7).stepArmed = false ∧ hostContext parkedPilot 0 1 = none) ∧
    ((pilot thread).mgmt.length < 64 ∧ (pilot thread).mgmtWaiting = [] ∧ hostContext (pilot thread) 0 7 = none) ∧
    (Instr.isWord .drain = true ∧ precheck .drain (basic.noted .drain) = some .state ∧ basic.slot ≠ 7 ∧ basic.me.origin = none ∧
      basic.me.handler = .outside ∧ basic.me.capsule = none ∧ basic.me.gang = false ∧ basic.wants = [] ∧
      (module { thread with handler := .completion }).me.handler ≠ .outside ∧
      (module { thread with capsule := some 0 }).me.capsule.isSome = true ∧ (module { thread with capsule := some 0 }).me.origin = none) := by
  simp only [Sys2Proof.Claims.causes]; decide +kernel

def haltOnBreak : State := basic.modCore 0 fun r => { r with bhalt := true }

/-- A thread to which a tret returns in cycle 5. -/
def returning (n : Word) : State := atCycle (module { thread with status := .trapped, returnAt := some 5 }) n

theorem witness_TrapAndReturn :
    (releaseHolds basic 0 1 = true ∧ basic.runs (.trap 1 0xFFF) = true ∧ basic.runs (.brk 63) = true ∧ (basic.coreOf 0).bhalt = false) ∧
    (releaseHolds haltOnBreak 0 1 = true ∧ haltOnBreak.runs (.brk 0) = true ∧ (haltOnBreak.coreOf 0).bhalt = true ∧
      haltOnBreak.me.reservation = .free) ∧
    (let s := pilot { thread with status := .trapped }
     s.runs (.tret 0 0) = true ∧ s.runs (.tret 0 1) = true ∧ s.slot = 7 ∧ s.me.readG 0 = .ofNat 64 0 ∧
     (s.slotOf s.core 0).status = .trapped ∧ (s.slotOf s.core 0).pair = .alone ∧ (s.coreOf s.core).deferred = [] ∧
     s.envCalls = []) ∧
    (∀ s ∈ [returning 3, returning 4], (s.slotOf 0 1).status = .trapped ∧ (s.slotOf 0 1).returnAt = some 5 ∧
      (s.coreOf 0).deferred = [] ∧ (s.coreOf 0).arriving = [] ∧ (s.slotOf 0 1).docking = false) ∧
    ((returning 3).coreOf 0).cycle.toNat + 1 < 5 ∧ 5 ≤ ((returning 4).coreOf 0).cycle.toNat + 1 := by decide +kernel

/-- The state after an instruction that goes on. -/
def after (i : Instr) (s : State) : State :=
  match exec i s with
  | .next t => t
  | _ => s

def placedThread (n : Word) : State := module { thread with status := .placed, boundary := n }

theorem witness_WheelAndLending :
    (basic.coreOf 0).arriving = [] ∧ (basic.coreOf 0).deferred = [] ∧
    (let t := after (.coreCycle 0) (atCycle basic 99)
     MayBorrow (atCycle basic 99) t 0 100 1 ∧ (t.slotOf 0 4).status.issues = false) ∧
    ((after (.coreCycle 0) (atCycle basic 8)).slotOf 0 1).status.issues = true ∧
    (let s := placedThread 1
     (s.slotOf 0 1).status = .placed ∧ (s.slotOf 0 1).wait = .nothing ∧ (s.slotOf 0 1).haltPending = false ∧
     (s.slotOf 0 1).handler = .outside ∧ (s.slotOf 0 1).boundary.toNat ≤ (s.coreOf 0).cycle.toNat + 1) ∧
    ((placedThread 2).coreOf 0).cycle.toNat + 1 < ((placedThread 2).slotOf 0 1).boundary.toNat := by
  simp only [MayBorrow]; decide +kernel

/-! ## System instructions -/

theorem witness_SystemAndSegmentRegisters :
    (∀ i ∈ [Instr.sysrd 5 0x1A0, .sysrd 5 0x140, .sysrd 5 0x182, .sysrd 5 0xFFF, .syswr 1 0x194, .syswr 0 0x120, .syswr 1 0xFFF,
      .segldImg 7 1, .segld 7 0, .segld 7 1], (withLaunch (pilot thread)).runs i = true) ∧
    (0x1A0, ((pilot thread).coreOf 0).mbsel.setWidth 64) ∈ readings (pilot thread) ∧
    ((0x194 : Nat), fun (r : Core) => { r with lifesel := (64 : Word).setWidth 16 }) ∈ coreWrites 64 ∧
    ((pilot thread).coreOf 0).traps = [] ∧ (pilot thread).events = [] ∧
    ((pilot thread).modCore 0 fun r => { r with traps := [⟨1, 2, 3, 4⟩] }).runs (.sysrd 5 0x140) = true ∧
    { pilot thread with events := [⟨1, 2, 3, 4⟩] }.runs (.sysrd 5 0x182) = true ∧ lqsubIllegal ((pilot thread).me.readG 0) = false ∧
    (pilot thread).me.reservation = .free ∧
    (let s := pilot thread
     let a := s.me.readG 1
     let q := vget s.me.sg 0 (bitsOf a 63 61)
     bitAt q 127 = true ∧ bitAt q 124 = true ∧ bitsOf a 60 0 + 15 ≤ bitsOf q 120 64 ∧ a.toNat % 16 = 0 ∧
       bitsOf q 123 122 = 1 ∧ 64 = bitsOf q 56 0 + bitsOf a 60 0 + slotRebase s 0 7 ∧ padHome s.core s.me = s.core ∧
       bitsOf (BitVec.ofNat 128 (s.mem.readN (padAddr 0 64) 16)) 63 57 = 0 ∧
       bitsOf (BitVec.ofNat 128 (({ s with mem := s.mem.writeN (padAddr 0 71) 1 255 }).mem.readN (padAddr 0 64) 16)) 63 57 ≠ 0 ∧
       poisonedIn s.poison (padAddr 0 64) 16 = false) ∧
    (let s := withLaunch (pilot thread)
     let u := s.noted (.segld 7 0)
     let d := tableRead u (launch.segtab.toNat + 64 * 0) 64
     findPlaced s s.me.lid = some ⟨launch, 0, 0⟩ ∧ launch.segn ≤ (s.me.readG 1).toNat ∧ (s.me.readG 0).toNat < launch.segn ∧
       bitsOf (entryImage d.2.2 s.me.ctag d.1) 63 57 = 0 ∧ d.2.1 = false ∧ d.2.2 = u ∧ bitAt (BitVec.ofNat 64 (bytesAt 0 32 8)) 63 = false) := by
  refine ⟨by decide +kernel, by simp [readings]; tauto, by simp [coreWrites], ?_⟩
  decide +kernel

theorem witness_DebuggingSlots :
    (let s := pilot { thread with status := .trapped }
     s.runs (.xrd 5 0 1) = true ∧ s.runs (.xwr 1 0 1) = true ∧ s.runs (.xwr 2 0 1) = true ∧ s.runs (.xwr 1 0 2) = true ∧
       s.me.readG 0 = .ofNat 64 0 ∧ s.me.readG 1 = .ofNat 64 64 ∧ (0x40, (s.slotOf 0 0).pc) ∈ views (s.slotOf 0 0) ∧
       (s.slotOf 0 0).stopped = true ∧ (s.slotOf 0 0).pair = .alone ∧ (s.me.readG 1).toNat % 4 = 0 ∧ (s.me.readG 2).toNat % 4 ≠ 0 ∧
       s.me.readG 2 = .ofNat 64 9 ∧ 9 ∈ List.range' 1 0x27) ∧
    (pilot thread).runs (.xrd 5 0 1) = true ∧ ((pilot thread).slotOf 0 0).stopped = false ∧
    (∀ y ∈ [thread, Slot.blank, { thread with status := .halted }], let s := pilot y
     s.runs (.kill 5 0) = true ∧ s.runs (.halt 5 0) = true ∧ s.runs (.cont 5 0 1) = true ∧
       s.me.readG 0 = .ofNat 64 (0 % 80 + 0 / 80 * 2 ^ 7 + 0 * 2 ^ 11) ∧ s.me.reservation = .free ∧ (s.slotOf 0 0).pair = .alone ∧
       (s.slotOf 0 0).reservation = .free ∧ (s.slotOf 0 0).capsule = none ∧ (s.slotOf 0 0).resend = none ∧ roverFrom s 0 0 = false ∧ (s.slotOf 0 0).wait = .nothing ∧ (s.coreOf 0).deferred = []) ∧
    thread.occupied = true ∧ Slot.blank.occupied = false ∧ thread.status = .runnable ∧ betweenInstrs thread = true := by
  have seen : (0x40, ((pilot { thread with status := .trapped }).slotOf 0 0).pc) ∈ views ((pilot { thread with status := .trapped }).slotOf 0 0) := by
    simp [views]
  simp only [seen, true_and]; decide +kernel

theorem witness_ParkingAndQuitting :
    (∀ i ∈ [Instr.park 1, .park 4, .park 6, .wake 5 0 1, .quit], basic.runs i = true) ∧ 2 ^ 33 ≤ (basic.me.readG 4).toNat ∧
    bitAt (basic.me.readG 1) 32 = false ∧ (basic.me.readG 6).toNat < 2 ^ 33 ∧ bitAt (basic.me.readG 6) 32 = true ∧ basic.me.q0 = [] ∧
    (module { thread with q0 := [⟨7, false, false⟩] }).runs (.park 6) = true ∧ basic.inService 0 = true ∧ foldReg basic 0 1 = none ∧ basic.me.resend = none ∧ basic.me.reservation = .free ∧
    basic.me.readG 0 = .ofNat 64 (0 % 80 + 0 / 80 * 2 ^ 7 + 0 * 2 ^ 11) ∧ basic.me.readG 1 = (64 : BitVec 32).setWidth 64 ∧
    (let s := basic.setSlot 0 0 { thread with status := .parked, park := .key 64 false }
     s.runs (.wake 5 0 1) = true ∧ (s.slotOf 0 0).status = .parked ∧ (s.slotOf 0 0).park = .key 64 false ∧
       (s.slotOf 0 0).lid = s.me.lid ∧ (s.slotOf 0 0).pair = .alone ∧ (s.slotOf 0 0).docking = false ∧
       (s.slotOf 0 0).haltPending = false ∧ (s.slotOf 0 0).stepArmed = false) ∧
    (basic.slotOf 0 0).status ≠ .parked ∧ (module { thread with inline := [0x200] }).runs .quit = true ∧ basic.me.inline = [] ∧
    releaseHolds basic 0 1 = true ∧ (∀ x ∈ (basic.coreOf 0).commands, x.owner ≠ .slot 1) ∧ basic.queued = [] := by decide +kernel

/-- A capsule parked under key 64 in buffer 2, and a thread whose g5 names that core's buffers. -/
def capsuleParked (folded : Bool) : State :=
  setBufUse ((if folded then pilot thread else basic).modMe fun x => { x with g := vset x.g 5 (2 ^ 14) }) 0 2 (.parked folded 64 0)

theorem witness_ParkingAndQuitting_others :
    (∀ l ∈ [[], [(⟨1, 2, 3, 4⟩ : TrapRec)]], let s := (pilot thread).modCore 0 fun r => { r with traps := l }
     s.runs (.park 1) = true ∧ s.me.reservation = .free ∧ s.slot = 7 ∧ (s.me.readG 1).toNat < 2 ^ 33 ∧ bitAt (s.me.readG 1) 32 = false ∧
       s.myCore.traps = l) ∧
    (∀ folded ∈ [true, false], let s := capsuleParked folded
     s.runs (.wake 8 5 1) = true ∧ s.me.reservation = .free ∧ s.me.resend.isNone = true ∧ s.inService 0 = true ∧
       foldReg s s.core s.slot = none ∧ s.me.readG 5 = .ofNat 64 (0 % 80 + 0 / 80 * 2 ^ 7 + 2 ^ 14) ∧
       s.me.readG 1 = .ofNat 64 64 ∧ bufUse s 0 2 = .parked folded 64 0 ∧
       (∀ d, d < 4 → d ≠ 2 → parkedUse s 0 d = none) ∧ (s.slot = 7 ∨ (folded = false ∧ bufLaunch s 0 2 = s.me.lid)) ∧
       ∀ d, d < 4 → parkedUse (pilot thread) 0 d = none) := by decide +kernel

def message (dest : Nat) : Message :=
  { core := 0, slot := 1, dest := dest, destSlot := 0, port1 := false, payload := ⟨7, false, false⟩, pilot := false, lid := 0
    waiting := false, device := false }
def arriving (y : Slot) (dest : Nat) : State := { (module (waiting (some 5))).setSlot 0 0 y with messages := [message dest] }

theorem witness_MessagesAndBarriers :
    (basic.runs (.send 5 0 1) = true ∧ (basic.me.readG 0).toNat < 2 ^ 15 ∧ bitsOf (basic.me.readG 0) 6 0 ≤ 79 ∧
      bitAt (basic.me.readG 0) 14 = false ∧ releaseHolds basic 0 1 = true ∧ foldReg basic 0 1 = none) ∧
    ((combining 0).runs (.send 5 0 1) = true ∧ releaseHolds (combining 0) 0 1 = false ∧ (combining 0).me.readG 0 = basic.me.readG 0) ∧
    (∀ y ∈ [Slot.blank, { thread with status := .halted }, thread], let s := arriving y 0
     s.inService 0 = true ∧ (s.slotOf 0 1).wait = .reply (some 5) false ∧ (s.slotOf 0 0).lid = (message 0).lid ∧
       (s.coreOf 0).deferred = [] ∧ (s.coreOf 0).pushers = [] ∧ (s.coreOf 0).poppers = [] ∧ (s.slotOf 0 0).q0.length < 16 ∧
       (s.slotOf 0 0).park = .free) ∧
    (arriving thread 1280).inService 1280 = false ∧
    (∀ y ∈ [Slot.blank, { thread with gang := true }],
      let s := withLaunch ((module { thread with gang := true }).setSlot 0 0 y)
      s.runs (.bar 5 0) = true ∧ barrierReady s 0 1 0 = true ∧ findPlaced s s.me.lid = some ⟨launch, 0, 0⟩ ∧
      (let u := s.setMe { s.me.noting (.bar 5 0) with status := .memoryWait, wait := .barrier 0 5 }
       let members := ((Placed.cores ⟨launch, 0, 0⟩).filter fun c => c == 0).flatMap fun c => coreMembers u 0 c
       members.length = (if y.gang then 2 else 1) ∧
         (y.gang = false → ∀ x ∈ members, x.reply = none ∧ x.wait = .barrier 0 5) ∧
         (y.gang = true → ∃ x ∈ members, x.wait = .nothing))) := by decide +kernel

def spawning (pc : Word) : SpawnReq := { core := 0, slot := 1, dest := 0, pc := pc, args := Vector.replicate 4 5 }

theorem witness_Spawning :
    (∀ i ∈ [Instr.spawn 5 7 1, .spawn 5 0 1, .spawn 5 7 2], basic.runs i = true) ∧ ¬ Malformed (basic.me.readG 7) ∧
    Malformed (basic.me.readG 4) ∧ bitsOf (basic.me.readG 7) 23 22 = 3 ∧ bitsOf (basic.me.readG 0) 23 22 ≠ 3 ∧
    (basic.me.readG 1).toNat % 4 = 0 ∧ (basic.me.readG 2).toNat % 4 ≠ 0 ∧ releaseHolds basic 0 1 = true ∧
    (let s := { (withLaunch (module (waiting (some 5)))).modCore 0 fun r => { r with resident := [(0, 0)] } with spawns := [spawning 64] }
     (s.slotOf 0 1).wait = .reply (some 5) false ∧ (s.slotOf 0 1).pair = .alone ∧ (s.slotOf 0 1).handler = .outside ∧
       findPlaced s 0 = some ⟨launch, 0, 0⟩ ∧ 0 ∈ Placed.cores ⟨launch, 0, 0⟩ ∧ s.inService 0 = true ∧
       (∃ e ∈ (s.coreOf 0).resident, e.1 = launch.ctag) ∧ (s.slotOf 0 0).status = .empty ∧ bitAt (s.coreOf 0).spawnctl 0 = true) ∧
    (let s := { module (waiting (some 5)) with spawns := [spawning 64] }
     findPlaced s 0 = none ∧ (s.slotOf 0 1).inline.length < 8 ∧ (s.slotOf 0 1).haltPending = false ∧
       (s.slotOf 0 1).stepArmed = false ∧ (s.slotOf 0 1).docking = false) := by
  simp only [Malformed]; decide +kernel

/-- The request of the spawning thread at inline depth `n`, for core `dest`. -/
def refusedAt (n dest : Nat) (f : Core → Core) : State :=
  { (withLaunch (module { waiting (some 5) with inline := List.replicate n 0x200 })).modCore 0 f with spawns := [{ spawning 64 with dest := dest }] }

/-- Each way in which a placed launch's spawn is not accepted: another core, one out of service, without the program, or full. -/
theorem witness_Spawning_refused :
    (∀ s ∈ [refusedAt 7 1 id, refusedAt 8 1 id], findPlaced s 0 = some ⟨launch, 0, 0⟩ ∧ (s.slotOf 0 1).wait = .reply (some 5) false) ∧
    1 ∉ Placed.cores ⟨launch, 0, 0⟩ ∧ ((refusedAt 7 1 id).slotOf 0 1).inline.length = 7 ∧
    ((refusedAt 8 1 id).slotOf 0 1).inline.length = 8 ∧
    (refusedAt 8 0 fun r => { r with failed := true }).inService 0 = false ∧
    ((refusedAt 8 0 id).coreOf 0).resident = [] ∧
    (∀ j, j < 7 → bitAt ((refusedAt 8 0 fun r => { r with spawnctl := 0 }).coreOf 0).spawnctl j = false) := by decide +kernel

def taskRec (lid : Nat) : TaskRec := { data := BitVec.ofNat 512 (lid * 2 ^ 64) }
def withBank (l : List TaskRec) : State := (withLaunch basic).modCluster 0 fun p => { p with bank := l }
def taken : Outstanding := ⟨0, 1, 64, 0, taskRec 0⟩

theorem witness_TaskRecords :
    (let s := withLaunch basic
     let r : TaskRec := { data := .ofNat 512 (s.mem.readN (padAddr 0 64) 64), poison := poisonedIn s.poison (padAddr 0 64) 64 }
     s.runs (.tsub 5 1 0) = true ∧ s.me.reservation = .free ∧ releaseHolds s 0 1 = true ∧ BlockAt s (s.me.readG 1) 64 true false ∧
       s.me.readG 0 = 0 ∧ taskOk r = true ∧ bytesAt r.data.toNat 8 4 = s.me.lid.toNat ∧ placedInBand s 0 0 = true ∧
       s.inService 0 = true ∧ (s.clusterAt 0).bank.length < 2048 ∧ (s.clusterAt 0).ring = []) ∧
    taskOk { data := .ofNat 512 (({ basic with mem := basic.mem.writeN (padAddr 0 77) 1 1 }).mem.readN (padAddr 0 64) 64) } = false ∧
    (let s := withBank [taskRec 3, taskRec 0, taskRec 4]
     s.runs (.tget 5 1) = true ∧ BlockAt s (s.me.readG 1) 64 false true ∧ (taskRec 0).apply = none ∧ (taskRec 0).poison = false ∧
       (∀ d ∈ s.peerData, ¬ (d.core = s.core ∧ d.slot = s.slot)) ∧ (∀ x ∈ [taskRec 3], x.lid ≠ s.me.lid) ∧ (s.clusterAt (clusterOf s.core)).bank = [taskRec 3] ++ taskRec 0 :: [taskRec 4] ∧
       (taskRec 0).lid = s.me.lid) ∧
    ((withBank []).runs (.tget 5 1) = true ∧ ((withBank []).clusterAt (clusterOf 0)).bank = []) ∧
    (let s := { basic with outstanding := [taken] }
     s.runs (.tdone 5 1) = true ∧ taken.core = s.core ∧ taken.slot = s.slot ∧ taken.addr = (s.me.readG 1).toNat) ∧
    basic.runs (.tdone 5 1) = true ∧ basic.outstanding = [] := by
  simp only [BlockAt]; decide +kernel

def entry : DockEntry :=
  { handle := 0, entry := 0, image := thread, slot := 0, spill := 0, deferred := [], acc := {}, accPoison := [], copies := []
    tile := [], tokens := [], trap := none }
def docked (y : Slot) : State := (pilot y).modCore 0 fun r => { r with dock := [entry] }

theorem witness_Docking :
    (let s := pilot { thread with status := .parked, park := .key 5 true }
     s.runs (.dockOut 5 0 0) = true ∧ s.me.reservation = .free ∧ s.me.readG 0 = .ofNat 64 0 ∧ s.me.readG 0 = (0 : BitVec 16).setWidth 64 ∧
       s.queued = [] ∧ (s.slotOf 0 0).occupied = true ∧ dockEntry (s.coreOf 0) 0 = none ∧ (s.coreOf 0).dock.length < 32 ∧
       (s.slotOf 0 0).status = .parked ∧ (s.slotOf 0 0).park = .key 5 true ∧ (s.coreOf 0).tileQ = [] ∧ (s.coreOf 0).copyQ = [] ∧
       (s.coreOf 0).bankQ = [] ∧ (s.coreOf 0).stackQ = [] ∧ (s.coreOf 0).heldTokens = [] ∧ (s.coreOf 0).arriving = [] ∧ (s.slotOf 0 0).reservation = .free) ∧
    ((docked thread).runs (.dockOut 5 0 0) = true ∧ dockEntry ((docked thread).coreOf 0) 0 ≠ none) ∧
    (let s := docked Slot.blank
     s.runs (.dockIn 5 0 0) = true ∧ dockEntry (s.coreOf 0) 0 = some entry ∧ (s.coreOf 0).spilled = [] ∧
       (s.slotOf 0 0).status = .empty ∧ entry.image.status = .runnable ∧ entry.image.grant = none ∧ entry.image.handler = .outside ∧
       ∀ e ∈ (s.coreOf 0).deferred, e.1 ≠ 0) ∧
    (pilot Slot.blank).runs (.dockIn 5 0 0) = true ∧ dockEntry ((pilot Slot.blank).coreOf 0) 0 = none := by decide +kernel

/-! ## Vector instructions -/

/-- The basic thread with two lanes in m0, and the same in SR mode. -/
def masked : State := module { thread with m := vset thread.m 0 3 }
def stochastic : State := module { thread with frm := 5, m := vset thread.m 0 3 }

theorem witness_IntegerLanes :
    ((Instr.vsra 1 2 3 4 31 5), fun (w : Nat) (a b _ : BitVec w) => a.sshiftRight (b.toNat % w)) ∈ intOps 1 2 3 4 31 5 ∧
    (5 : BitVec 3).toNat ∈ [3, 4, 5] ∧ (31 : BitVec 6).toNat < 32 ∧ masked.runs (.vsra 1 2 3 4 31 5) = true :=
  ⟨by simp [intOps], by decide, by decide, by decide +kernel⟩

theorem witness_FloatAddMulExact_zero : value (.fin true 3 7) + value (.fin false 3 7) = 0 ∧ value (.fin true 0 1) + value (.fin true 0 1) = 0 := by
  norm_num [value]

theorem witness_FloatAddMulExact : (1 : Nat) ≠ 0 ∧ bf16 ∈ [fp32, fp16, bf16] ∧ 0xFFFF < 2 ^ bf16.width ∧
    (decodeFp bf16 0x3F80).isNan = false ∧ (decodeFp bf16 0xFFFF).isNan = true := by decide +kernel

theorem witness_FloatLanesAndConversions :
    ((Instr.vsqrt 1 2 4 1), fun (_ : Mode) (a _ _ : Val) => sqrtVal a) ∈ roundOps 1 2 3 4 31 1 ∧
    ((Instr.vabs 1 2 4 1), fun (f : Fmt) (a _ : Nat) => (a % f.signBit, (0 : BitVec 7))) ∈ codeOps 1 2 3 4 31 1 ∧
    (masked.runs (.vsqrt 1 2 4 1) = true ∧ masked.runs (.vabs 1 2 4 1) = true ∧ modeOf masked.me.frm ≠ .sr ∧
      stochastic.runs (.vsqrt 1 2 4 1) = true ∧ modeOf stochastic.me.frm = .sr) ∧
    (∀ i ∈ [Instr.vcvt 1 2 4 1 3 5, .vcvt 1 2 4 0 4 2, .vcvt 1 2 4 0 2 4, .vcvt 1 2 0 0 2 2, .vcvt 1 2 0 1 0 2],
      masked.runs i = true) := by
  refine ⟨by simp [roundOps], by simp [codeOps], by decide +kernel, by decide +kernel⟩

theorem witness_MasksAndMoves :
    (∀ i ∈ [Instr.vcmp 3 1 2 4 5 5, .vm 3 1 2 3, .mset 3 1, .mget 3 1, .vmcnt 3 1, .vfirst 3 1, .vperm 1 2 3 4 1, .vbcast 1 4 31 2,
      .vslide 1 2 4 31 3, .viota 1 4 5, .vpack 1 2 3 1, .vpack 1 2 3 5, .vunpk 1 2 1 1, .vunpk 1 2 3 5, .vins 1 4 31 5, .vins 1 5 31 5,
      .vextr 1 4 31 5, .vextr 1 5 31 5], masked.runs i = true) ∧
    (precheck (.mset 3 1) (masked.noted (.mset 3 1)) = none ∧ precheck (.mget 3 1) (masked.noted (.mget 3 1)) = none ∧
      precheck (.vmcnt 3 1) (masked.noted (.vmcnt 3 1)) = none ∧ precheck (.vfirst 3 1) (masked.noted (.vfirst 3 1)) = none) ∧
    readFrom [1] 0 (masked.noted (.mset 3 1)) = .go [64] (masked.noted (.mset 3 1)) ∧ elemWidth 1 = 16 ∧ elemWidth 5 = 8 ∧
    active masked.me 4 0 = true ∧ (∀ j, j < 64 → active masked.me 5 j = false) := by
  constructorm* _ ∧ _ <;> first | rfl | decide +kernel

theorem witness_Reductions :
    ∀ i ∈ [Instr.vredsum 1 2 4 31 5, .vredmax 1 2 4 0 3, .vredmin 1 2 4 31 4, .vredsum 1 2 4 31 0, .vredmax 1 2 4 0 1, .vredmin 1 2 4 31 2],
      masked.runs i = true := by decide +kernel

theorem witness_Reductions_floats : ∀ m, (∃ a op, (Instr.vredsum 1 2 4 31 0, a, op) ∈ floatReductions 1 2 4 31 0 m) ∧
    (∃ a op, (Instr.vredmax 1 2 4 0 1, a, op) ∈ floatReductions 1 2 4 0 1 m) ∧
    ∃ a op, (Instr.vredmin 1 2 4 31 2, a, op) ∈ floatReductions 1 2 4 31 2 m := fun m => by simp [floatReductions]

theorem witness_VectorMemoryAndPorts :
    ((Instr.vst 1 4 1 3), fun (j : Nat) => masked.me.readG 1 + .ofNat 64 (elemWidth 3 / 8 * j)) ∈ vectorStores 1 2 4 1 3 masked.me ∧
    ((Instr.vld 1 4 1 3), fun (j : Nat) => masked.me.readG 1 + .ofNat 64 (elemWidth 3 / 8 * j)) ∈ vectorLoads 1 2 4 1 3 masked.me ∧
    masked.runs (.vst 1 4 1 3) = true ∧ masked.runs (.vld 1 4 1 3) = true ∧
    (∀ j, j < 64 → active masked.me 4 j = true → ∀ k, k < 64 → active masked.me 4 k = true → (64 + 4 * j) / 32 = (64 + 4 * k) / 32) ∧
    (∀ j, j < 64 → active masked.me 4 j = true →
      LocalAt masked (masked.me.readG 1 + .ofNat 64 (elemWidth 3 / 8 * j)) 4 (64 + 4 * j) true false ∧
      LocalAt masked (masked.me.readG 1 + .ofNat 64 (elemWidth 3 / 8 * j)) 4 (64 + 4 * j) false true ∧
      poisonedIn masked.poison (padAddr masked.core (64 + 4 * j)) 4 = false) ∧
    (∀ s ∈ [basic, module fullPort], s.runs (.qcnt 5 15) = true) ∧
    (basic.runs (.qtry 5 8 3) = true ∧ portGet basic 0 1 8 = [] ∧ basic.runs (.qoffer 8 1 3) = true ∧ freePlaces basic 0 1 8 ≠ 0 ∧
      (basic.coreOf 0).poppers = [] ∧ (basic.coreOf 0).deferred = [] ∧ basic.runs (.vqpush 1 15 8) = true ∧ 15 + 1 ≤ freePlaces basic 0 1 8 ∧
      (∀ w ∈ (basic.coreOf 0).pushers, w.2 ≠ 1)) ∧
    (let s := module fullPort
     s.runs (.qtry 5 8 3) = true ∧ s.runs (.qoffer 8 1 3) = true ∧ freePlaces s 0 1 8 = 0 ∧ s.runs (.vqpop 1 15 8) = true ∧
       15 + 1 ≤ (portGet s 0 1 8).length ∧ portGet s 0 1 8 ≠ []) := by
  refine ⟨by simp [vectorStores], by simp [vectorLoads], ?_⟩
  constructorm* _ ∧ _ <;> try decide +kernel
  · intro j hj ha
    have h : ∀ j, j < 64 → active masked.me 4 j = true → j = 0 ∨ j = 1 := by decide +kernel
    rcases h j hj ha with rfl | rfl <;> simp only [LocalAt] <;> decide +kernel

/-! ## Engines -/

/-- The basic thread with a command word in g12–g15. -/
def pushing (w : BitVec 256) : State :=
  module { thread with
    g := vset (vset (vset (vset thread.g 12 (w.extractLsb' 0 64)) 13 (w.extractLsb' 64 64)) 14 (w.extractLsb' 128 64)) 15
      (w.extractLsb' 192 64) }

/-- ce.fill of 16 bytes of the scratchpad; the same without an engine of its code; a fill of no byte. -/
def fillWord : BitVec 256 := BitVec.ofNat 256 (0x24 * 2 ^ 248 + 16 * 2 ^ 192)
def emptyFill : BitVec 256 := BitVec.ofNat 256 (0x24 * 2 ^ 248)

/-- A command of slot 1. -/
def command (w : BitVec 256) : Cmd :=
  { ident := 1, word := w, owner := .slot 1, lid := 0, ctag := 0, sg := thread.sg, fmt := 0, sca := 0, scb := 0, grant := some ⟨0, 16, 16⟩
    rings := thread.ring, rebase := 0, rd := none, pc := 0x100, stage := 0, started := false, done := [], count := 0, moved := 0, flags := 0
    poison := false, status := 0, value := 0, held := [], barred := none, kept := 0, refused := 0, aged := false }

theorem witness_CommandsAndTokens :
    (fillWord = fourRegisters (pushing fillWord) 12 ∧ engineOf (cmdCode fillWord) = some .copy ∧
      (((pushing fillWord).coreOf 0).queue .copy).length < 16 ∧ ((pushing fillWord).coreOf 0).cmdWaiters = [] ∧ cmdCode fillWord ≠ 0x25 ∧ (pushing fillWord).me.reservation = .free) ∧
    (∀ i ∈ [Instr.enq 12, .enqw 12 5], (pushing fillWord).runs i = true ∧ releaseHolds ((pushing fillWord).noted i) 0 1 = true ∧
      (pushing emptyFill).runs i = true) ∧
    commandStatus ((pushing fillWord).noted (.enq 12)) 0 1 false fillWord = 0 ∧
    commandStatus ((pushing fillWord).noted (.enqw 12 5)) 0 1 true fillWord = 0 ∧
    commandStatus ((pushing emptyFill).noted (.enq 12)) 0 1 false emptyFill ≠ 0 ∧
    commandStatus ((pushing emptyFill).noted (.enqw 12 5)) 0 1 true emptyFill ≠ 0 ∧
    (0 = fourRegisters basic 12 ∧ basic.runs (.enq 12) = true ∧ cmdCode 0 = 0) ∧ basic.runs (.ringrd 5 7 1) = true ∧
    ((command 0).owner = .slot 1 ∧ QuietPorts basic 0 ∧
      (basic.slotOf 0 1).pair = .alone ∧ (command 0).rd = none ∧ bitsOf (command 0).word 244 243 = 0 ∧
      bitsOf (command (2 ^ 244)).word 244 243 = 2 ∧ (portGet basic 0 1 15).length < 16 ∧ (basic.slotOf 0 1).pending.length < 16 ∧
      ({ command 0 with rd := some 5 } : Cmd).rd = some 5 ∧
      ((module { thread with status := .engineWait, wait := .token 5 }).slotOf 0 1).wait = .token 5) ∧
    (∀ x ∈ [thread, fullPort], let s := (module x).modCore 0 fun r => { r with heldTokens := [⟨.slot 1, 0, ⟨7, false, true⟩⟩] }
     (s.coreOf 0).heldTokens = [⟨.slot 1, 0, ⟨7, false, true⟩⟩] ∧ (s.coreOf 0).pushers = [] ∧ (s.coreOf 0).poppers = [] ∧ (s.coreOf 0).arriving = []) ∧
    (portGet basic 0 1 8).length < 16 ∧ 16 ≤ (portGet (module fullPort) 0 1 8).length ∧
    (let x := { thread with pending := [7] }
     x.pending = [7] ∧ x.push = none ∧ x.latch = [] ∧ x.vec = none ∧ x.midway = false ∧ bitAt (7 : Word) 32 = false ∧ x.status = .runnable ∧
       x.handler = .outside ∧ ({ thread with handler := .completion } : Slot).handler ≠ .outside) := by
  simp only [QuietPorts]; decide +kernel

/-- A thread that asks for a shape, and the tile commands of slot 1. -/
def shaping (v : Word) : State := module { thread with g := vset thread.g 1 v }
def fullRing : Quad := BitVec.ofNat 128 (2 ^ 96 + 2 ^ 40)
def tiling (x : Slot) (w : BitVec 256) (n : Nat) : State :=
  (module x).modCore 0 fun r => { r with tileQ := [{ command w with count := n }] }
/-- te.mma of one slab with rings 1 and 2, and of none. -/
def mmaWord (k : Nat) : BitVec 256 := BitVec.ofNat 256 (0x10 * 2 ^ 248 + k * 2 ^ 208 + 1 * 2 ^ 189 + 2 * 2 ^ 186)
def atMma : Slot := { thread with status := .engineWait, wait := .row 5 }
def ringsFull : Slot := { thread with ring := vset (vset thread.ring 1 fullRing) 2 fullRing }
def draining : Slot := { thread with handler := .drain 0, status := .handler }

def drainingAt (p : Word) : State := tiling { draining with winG := vset thread.winG 1 p } (mmaWord 0) 0

theorem witness_TileEngine :
    ((shaping 64).runs (.mshape 5 1) = true ∧ (shaping 0x1000).runs (.mshape 5 1) = true ∧ (shaping 0x8080).runs (.mshape 5 1) = true ∧
      ((shaping 0x8080).coreOf 0).tileQ = []) ∧
    (bitsOf (64 : Word) 15 8 = 0 ∧ bitsOf (0x1000 : Word) 7 0 = 0 ∧ bitsOf (0x8080 : Word) 7 0 = 128 ∧ bitsOf (0x8080 : Word) 15 8 = 128) ∧
    UnitsFree (shaping 0x8080) 0 8 ∧
    (frozen (tiling thread (BitVec.ofNat 256 (0x11 * 2 ^ 248)) 0) 0 (command (BitVec.ofNat 256 (0x11 * 2 ^ 248))) = false ∧
      (command 0).grant = some ⟨0, 16, 16⟩) ∧
    (cmdCode (mmaWord 1) = 0x10 ∧ ¬ (bitsOf (mmaWord 1) 223 208 + 128 - 1) / 128 ≤ 0 ∧ (bitsOf (mmaWord 0) 223 208 + 128 - 1) / 128 ≤ 0 ∧
      bitsOf (mmaWord 1) 191 189 = 1 ∧ bitsOf (mmaWord 1) 188 186 = 2 ∧ ringFull (vget thread.ring 0 1) 0 = false ∧
      ringFull (vget ringsFull.ring 0 1) (ringHead fullRing) = true ∧ frozen (tiling ringsFull (mmaWord 1) 0) 0 (command (mmaWord 1)) = false) ∧
    (atMma.status = .engineWait ∧ atMma.handler = .outside ∧ atMma.wait = .row 5 ∧ atMma.docking = false ∧
      atMma.haltPending = false ∧ atMma.stepArmed = false ∧ (command (mmaWord 0)).count < 16 ∧ 16 ≤ ({ command (mmaWord 0) with count := 16 } : Cmd).count) ∧
    ((module { thread with handler := .completion, status := .handler }).runs .drain = true) ∧
    (let s := tiling draining (mmaWord 0) 0
     s.runs .drain = true ∧ s.me.handler = .drain 0 ∧
       (s.coreOf s.core).tileQ.find? (fun x => x.owner == .slot s.slot) = some (command (mmaWord 0)) ∧ bitsOf s.me.fmt 9 8 ≠ 3 ∧
       (bitsOf (s.me.readG 25) 20 0 + slotRebase s 0 1) % 4 = 0 ∧ bitsOf (s.me.readG 25) 20 0 + slotRebase s 0 1 + 4 * 16 ≤ 2 ^ 21) ∧
    ((drainingAt 2).runs .drain = true ∧ (drainingAt 2).me.handler = .drain 0 ∧
      ((drainingAt 2).coreOf 0).tileQ.find? (fun x => x.owner == .slot 1) = some (command (mmaWord 0)) ∧
      (bitsOf ((drainingAt 2).me.readG 25) 20 0 + slotRebase (drainingAt 2) 0 1) % 4 ≠ 0) ∧
    ((drainingAt 0x1FFFE0).runs .drain = true ∧ (drainingAt 0x1FFFE0).me.handler = .drain 0 ∧
      ((drainingAt 0x1FFFE0).coreOf 0).tileQ.find? (fun x => x.owner == .slot 1) = some (command (mmaWord 0)) ∧
      (bitsOf ((drainingAt 0x1FFFE0).me.readG 25) 20 0 + slotRebase (drainingAt 0x1FFFE0) 0 1) % 4 = 0 ∧
      2 ^ 21 < bitsOf ((drainingAt 0x1FFFE0).me.readG 25) 20 0 + slotRebase (drainingAt 0x1FFFE0) 0 1 + 4 * 16) := by
  refine ⟨by decide +kernel, by decide +kernel, ?_, by decide +kernel⟩
  refine ⟨by decide, fun k g hk hne hg => ?_⟩
  have h : ∀ k, k < 8 → ((shaping 0x8080).slotOf (shaping 0x8080).core k).grant = none := by decide +kernel
  rw [h k hk] at hg; cases hg

/-- Two lanes whose rings of BF16 hold a stage each: no requester of the core's banks has aged, and the values are finite. -/
theorem witness_TileEngine_stages :
    (∀ n, agedAt (tiling ringsFull (mmaWord 1) 0) 0 n = []) ∧
    (∀ t, t < 32 → ∀ b ∈ [0, 4096], (bf16At basic 0 b 0 t).isNan = false ∧ ∀ n, bf16At basic 0 b 0 t ≠ .inf n) := by
  refine ⟨agedAt_nil (by decide +kernel) (by decide +kernel) (by decide +kernel), ?_⟩
  decide +kernel

/-- A copy command of `n` bytes from or to segment 1, of a code, in direction `out`, and with `rows` rows. -/
def copyWord (code n rows out : Nat) (gaddr : Nat) : BitVec 256 :=
  BitVec.ofNat 256 (code * 2 ^ 248 + n * 2 ^ 192 + gaddr * 2 ^ 128 + rows * 2 ^ 16 + out)
def copying (w : BitVec 256) : State := basic.modCore 0 fun r => { r with copyQ := [command w] }
def global : Nat := 0x2000000000000000

theorem copying_unaged (w : BitVec 256) (b : Nat) : agedAt (copying w) 0 b = [] := by
  apply agedAt_nil
  · have : ∀ x ∈ bankers (copying w) 0, x.2.2 = command w := by
      intro x hx
      have h : bankers (copying w) 0 = [(0, Engine.copy, command w)] := rfl
      rw [h, List.mem_singleton] at hx
      rw [hx]
    simp only [List.any_eq_false, Bool.not_eq_true]
    intro x hx
    rw [this x hx]; rfl
  · rfl
  · rfl

/-- The head of a queue that holds one command. -/
theorem head_of (w : BitVec 256) (code : Nat) (h : cmdCode w = code ∧ frozen (copying w) 0 (command w) = false ∧ mayStart (copying w) 0 (command w) = true) :
    CopyHead (copying w) 0 code (command w) [] :=
  ⟨rfl, h.1, h.2.1, h.2.2, rfl, rfl, copying_unaged w, by simp⟩

theorem witness_CopyEngine :
    (∀ w ∈ [copyWord 0x20 256 0 0 global, copyWord 0x20 512 0 1 global, copyWord 0x21 16 1 1 global,
        copyWord 0x20 256 0 0 global ||| 2 ^ 243],
      CopyHead (copying w) 0 (cmdCode w) (command w) [] ∧ Settled (copying w) ∧ burstDue (command w) 0 0 = true ∧
        rowAddress (command w) 0 = some 0 ∧ EngineAt (copying w) 0 (command w) 0 0 .homed (!bitAt w 0) (bitAt w 0)) ∧
    (allBursts (command (copyWord 0x20 512 0 1 global))).length = 2 ∧
    (allBursts (command (copyWord 0x20 256 0 0 global ||| 2 ^ 243))).length = 1 ∧
    bitsOf (copyWord 0x20 256 0 0 global ||| 2 ^ 243) 244 243 = 1 ∧
    (∀ w ∈ [copyWord 0x24 16 0 0 0, copyWord 0x24 16 0 1 global],
      CopyHead (copying w) 0 0x24 (command w) [] ∧ burstDue (command w) 0 0 = true ∧ rowAddress (command w) 0 = some 0) ∧
    EngineAt (copying (copyWord 0x24 16 0 1 global)) 0 (command (copyWord 0x24 16 0 1 global)) 0 0 .homed false true ∧
    (∀ w ∈ [copyWord 0x22 16 1 0 global, copyWord 0x23 16 2 1 global, copyWord 0x22 16 1 0 (4 * global)],
      CopyHead (copying w) 0 (cmdCode w) (command w) [] ∧ (command w).count < ceCount w ∧ cmdDone w ≠ 1 ∧
        bitAt w 0 = (cmdCode w == 0x23) ∧ (copying w).mem.readN (padAddr 0 (bitsOf w 84 64 + (command w).rebase + 4 * 0)) 4 = 0) ∧
    rangeOf thread.sg (.ofNat 64 (4 * global)) 16 true false = none ∧ rangeOf thread.sg (.ofNat 64 global) 16 true false = some 0 ∧
    (∀ w ∈ [copyWord 0x25 16 0 0 0, copyWord 0x26 16 0 0 0], CopyHead (copying w) 0 (cmdCode w) (command w) [] ∧ cmdDone w ≠ 1) ∧
    basic.watches = [] ∧ basic.peerReqs = [] ∧ (command 0).count = 0 ∧ poisonedIn basic.poison (padAddr 0 0) 16 = false ∧ ringMalformed 0 0 = true ∧ ringMalformed fullRing 0 = false ∧
    ({ basic with mem := basic.mem.writeN (padAddr 0 5) 1 1 }).mem.readN (padAddr 0 0) 16 = 2 ^ 40 := by
  constructorm* _ ∧ _ <;> try decide +kernel
  · intro w hw
    simp only [List.mem_cons, List.not_mem_nil, or_false] at hw
    rcases hw with rfl | rfl | rfl | rfl <;> refine ⟨head_of _ _ (by decide +kernel), ?_, by decide +kernel, by decide +kernel, ?_⟩ <;>
      simp only [EngineAt, Settled] <;> decide +kernel
  · intro w hw
    simp only [List.mem_cons, List.not_mem_nil, or_false] at hw
    rcases hw with rfl | rfl <;> exact ⟨head_of _ _ (by decide +kernel), by decide +kernel, by decide +kernel⟩
  · simp only [EngineAt]; decide +kernel
  · intro w hw
    simp only [List.mem_cons, List.not_mem_nil, or_false] at hw
    rcases hw with rfl | rfl | rfl <;> exact ⟨head_of _ _ (by decide +kernel), by decide +kernel⟩
  · intro w hw
    simp only [List.mem_cons, List.not_mem_nil, or_false] at hw
    rcases hw with rfl | rfl <;> exact ⟨head_of _ _ (by decide +kernel), by decide +kernel⟩

/-- A page under COMBINE: its burst out goes to a port's buffer that holds nothing of the block. -/
def combiningPage : State :=
  (copying (copyWord 0x20 256 0 1 global)).modCluster 0 fun p => { p with tlb := [{ page with policy := .combine }] }

theorem witness_CopyEngine_combine :
    EngineAt combiningPage 0 (command (copyWord 0x20 256 0 1 global)) 0 0 .combine false true ∧ combineEntry combiningPage 0 0 = none := by
  simp only [EngineAt]; decide +kernel

/-! ## Units of core 0 -/

/-- The basic module with commands in its queues. -/
def banking (w : BitVec 256) (n : Nat) : State := basic.modCore 0 fun r => { r with bankQ := [{ command w with count := n }] }
def stacking (w : BitVec 256) (p : Pch) : State := (basic.modCore 0 fun r => { r with stackQ := [command w] }).setPch 0 0 p
def summing (w : BitVec 256) (x : Cmd) : State := basic.modCore 0 fun r => { r with reductionQ := [{ x with word := w }] }

/-- A run of 16 words at 0, its state words at 64 and a first and a second operand. -/
def runWord (code a b : Nat) : BitVec 256 := BitVec.ofNat 256 (code * 2 ^ 248 + a * 2 ^ 192 + b * 2 ^ 160 + 16 * 2 ^ 64 + 64 * 2 ^ 32)
/-- Command 0 of the bank queue, in any stage of it, may take its next step at a bank. -/
def takes (x : Cmd) (code bank : Nat) : Bool :=
  let s := basic.modCore 0 fun r => { r with bankQ := [x] }
  decide (bankCmd s 0 0 code = some (x, runOf x)) && cmdTurn s 0 0 x bank && !(s.coreOf (runOf x).core).failed
def bankCommand (code a b : Nat) (done : List Nat) (n : Nat) : Cmd := { command (runWord code a b) with done := done, count := n }
/-- bu.topk over one row of 64 words, its K largest chosen, none of its bits written. -/
def topkRow : Cmd :=
  { command (BitVec.ofNat 256 (0x3A * 2 ^ 248 + 64 * 2 ^ 192 + 2 * 2 ^ 160 + 64 * 2 ^ 64 + 1024 * 2 ^ 32)) with started := true, kept := 3 * 4 + 1 }
def lastElement : Cmd := bankCommand 0x30 5 7 (List.replicate 8 0 ++ List.replicate 7 1) 0

theorem witness_BankUnits_elements :
    (∀ c ∈ [0x30, 0x31, 0x32, 0x33, 0x34, 0x39, 0x3C], takes (bankCommand c 5 7 [] 0) c 1 = true) ∧ takes (bankCommand 0x3B 0 7 [] 0) 0x3B 0 = true ∧
    (runOf (bankCommand 0x3B 0 7 [] 0)).addr / 32 % 32 = 0 ∧ basic.watches = [] ∧
    (runOf (bankCommand 0x30 5 7 [] 0)).nextAt (bankCommand 0x30 5 7 [] 0).progress 1 = some 8 ∧
    (runOf (bankCommand 0x3B 0 7 [] 0)).nextAt (bankCommand 0x3B 0 7 [] 0).progress 0 = some 0 ∧
    ([] : List Nat).length + 1 ≠ (runOf (bankCommand 0x30 5 7 [] 0)).count ∧ takes lastElement 0x30 1 = true ∧
    (runOf lastElement).nextAt lastElement.progress 1 = some 15 ∧ lastElement.done.length + 1 = (runOf lastElement).count := by decide +kernel

theorem witness_BankUnits_state :
    (∀ c ∈ [0x35, 0x36, 0x37, 0x38], takes (bankCommand c 0 0x3F800000 [] 0) c 0 = true ∧
      (runOf (bankCommand c 0 0x3F800000 [] 0)).bank 0 = 0) ∧
    (let r := runOf (command (runWord 0x35 0 0)); r.addr + 4 * 0 + 4 ≤ r.aux) ∧ stateOf basic (runOf (command (runWord 0x37 0 0))) 0 ≠ 2 ^ 32 - 1 ∧
    stateOf { basic with mem := basic.mem.writeN (padAddr 0 64) 4 (2 ^ 32 - 1) } (runOf (command (runWord 0x37 0 0))) 0 = 2 ^ 32 - 1 ∧
    (∀ c ∈ [0x36, 0x37], takes { bankCommand c 0 0x3F800000 [] 3 with started := true, kept := 7 } c 0 = true) ∧
    histBin (runOf (command (runWord 0x38 0 0x3F800000))) 0x40400000 = some 3 ∧ histBin (runOf (command (runWord 0x38 0 0))) 0 = none := by
  decide +kernel

theorem witness_BankUnits_topk :
    (let x := bankCommand 0x3A 4 2 [] 3
     takes x 0x3A 1 = true ∧ (runOf x).bank (3 * (runOf x).opa) = 1 ∧ x.kept = 0 ∧ (runOf x).opb ≤ (runOf x).opa) ∧
    (let x := { bankCommand 0x3A 4 2 [] 3 with started := true, kept := 3 * 4 + 1 }
     takes x 0x3A 1 = true ∧ x.kept ≠ 0 ∧ (3 + 1) * (runOf x).opa = (runOf x).count ∧ ((runOf x).count + 31) / 32 * 32 ≤ 32 * (12 / 32 + 0 + 1)) ∧
    (takes topkRow 0x3A 0 = true ∧ (runOf topkRow).opa = 64 ∧ (runOf topkRow).bank 0 = 0 ∧ (0 + 1) * (runOf topkRow).opa = (runOf topkRow).count ∧
      32 * (0 / 32 + 0 + 1) < ((runOf topkRow).count + 31) / 32 * 32) := by decide +kernel

/-- A command for pseudo-channel 0 of stack 0: two words at offset 0 of segment 1 for program start 0, bank 0, its last bit. -/
def stackWord (code low : Nat) : BitVec 256 :=
  BitVec.ofNat 256 (code * 2 ^ 248 + 2 ^ 192 + global * 2 ^ 128 + 2 * 2 ^ 96 + low)
def heldBy (lid : BitVec 32) : Pch := { Pch.reset with allBank := true, owner := lid }
/-- A program of one word that ends. -/
def programPch : Pch := { heldBy 0 with store := (Pch.reset.store.set 0 (0x5A00200000000000 : Word)).set 1 (0x8000000000000000 : Word), starts := [0] }
def sequence (yields : Bool) : Sequence :=
  { core := 0, ident := 1, banks := 1, at_ := 1, openRow := none, atYield := yields, cycles := 0, flags := 0, poison := false }
def runningPch (w : Word) : Pch :=
  { programPch with store := programPch.store.set 1 w, running := some (sequence false) }
def readsRange (s : State) (x : Cmd) (va n : Nat) : Bool :=
  match readRange s 0 x va n with
  | .ok (_, bad) u => bad.isEmpty && decide (u.pchs = s.pchs)
  | _ => false

theorem witness_StackUnits :
    ((∀ p ∈ [Pch.reset, heldBy 0, heldBy 9, programPch, runningPch 0], ∀ w ∈ [(0x50, 0), (0x50, 1), (0x51, 0), (0x52, 0),
        (0x53, 0), (0x54, 0), (0x55, 0)], stackCmd (stacking (stackWord w.1 w.2) p) 0 0 w.1 = some (command (stackWord w.1 w.2)) ∧
        (stacking (stackWord w.1 w.2) p).pchOf (bitsOf (stackWord w.1 w.2) 223 220) (bitsOf (stackWord w.1 w.2) 219 214) = p) ∧
      ((heldBy 9).allBank = true ∧ (heldBy 9).owner ≠ (command 0).lid) ∧ (heldBy 0).owner = (command 0).lid ∧ (heldBy 0).running = none ∧
      Pch.reset.allBank = false ∧ (runningPch 0).running.isSome = true ∧ basic.bursts = []) ∧
    (rangeCheck thread.sg (cmdAddr (stackWord 0x51 0)) 16 true false = some 0 ∧
      readsRange (stacking (stackWord 0x51 0) Pch.reset) (command (stackWord 0x51 0)) 0 16 = true ∧ Pch.reset.shadowed = false ∧
      Pch.reset.shadowStore.entries = [] ∧ imageOk [0x5A00200000000000, 0x8000000000000000] = true ∧ imageOk [0, 0] = false ∧
      imageInWindow 0 0x1FFFF 0 [0x5A00200000000000, 0x8000000000000000] = true) ∧
    ((banksOf (suMask (stackWord 0x52 0)))[(command 0).count]? = some 0 ∧
      rangeCheck thread.sg (cmdAddr (stackWord 0x52 0) + .ofNat 64 (256 * 0)) 256 true false = some 0 ∧
      readsRange (begun (stacking (stackWord 0x52 0) (heldBy 0)) 0 (command (stackWord 0x52 0))) (command (stackWord 0x52 0)) 0 256 = true) ∧
    (suStart (stackWord 0x53 0) ∈ programPch.starts ∧ suStart (stackWord 0x53 0) ∉ (heldBy 0).starts ∧
      imageInWindow programPch.rowlo programPch.rowhi programPch.rowoff (programAt programPch 0) = true ∧ programPch.running = none ∧
      programPch.shadowStore.entries = [] ∧ programPch.shadowed = false) ∧
    ((banksOf (suMask (stackWord 0x54 0)))[(command 0).count]? = some 0 ∧
      rangeCheck thread.sg (cmdAddr (stackWord 0x54 0) + .ofNat 64 (256 * 0)) 256 false true = some 0 ∧ Settled (stacking (stackWord 0x54 0) (heldBy 0)) ∧
      EngineAt (stacking (stackWord 0x54 0) (heldBy 0)) 0 (command (stackWord 0x54 0)) 0 0 .homed false true) ∧
    findCmd (stacking (stackWord 0x55 0) (runningPch 0)) 0 .stack 1 = some (command (stackWord 0x55 0)) ∧
    ((runningPch 0).running = some (sequence false) ∧ (runningPch 0).store.get 0 1 = 0 ∧ (sequence false).core = 0 ∧
      (sequence false).ident = (command 0).ident ∧ (sequence false).atYield = false ∧
      requestsWait (stacking (stackWord 0x53 0) (runningPch 0)) (command (stackWord 0x53 0)) (sequence true) = false ∧ Settled (stacking (stackWord 0x53 0) (runningPch 0)) ∧
      bitAt ((runningPch (2 ^ 63)).store.get 0 1) 63 = true ∧ bitAt ((runningPch 0).store.get 0 1) 63 = false ∧
      bitAt ((runningPch 0).store.get 0 1) 62 = false) ∧
    (let w : Word := 0x2000001000000000
     bitsOf w 26 25 = 0 ∧ bitAt w 61 = true ∧ bitsOf w 38 36 = 1 ∧ bitsOf w 32 27 % 16 = 0) := by
  simp only [Settled, EngineAt]
  constructorm* _ ∧ _ <;> decide +kernel

/-- bre.sum of two operands with its block at offset 0 of segment 1; a block that sums eight words at 1024 and 2048 into 4096,
with its flag at 8192; the command under way and at its end. -/
def sumWord : BitVec 256 := BitVec.ofNat 256 (0x60 * 2 ^ 248 + 2 * 2 ^ 216 + global * 2 ^ 128)
def block : Nat :=
  (global + 1024) + (global + 2048) * 2 ^ 64 + (global + 4096) * 2 ^ 512 + (global + 8192) * 2 ^ 576 + 7 * 2 ^ 640 + 8 * 2 ^ 704
def underWay (n : Nat) : Cmd := { command sumWord with started := true, kept := block, count := n }

theorem witness_BufferSums :
    (∀ x ∈ [command sumWord, underWay 0, underWay 8], ((summing sumWord x).coreOf 0).reductionQ[0]? = some x ∧
      frozen (summing sumWord x) 0 x = false ∧ x.held = [] ∧
      ∀ e ∈ (summing sumWord x).cores.entries, ∀ y ∈ e.2.reductionQ, suStack y.word = suStack x.word → x.ident ≤ y.ident) ∧
    bitsOf sumWord 219 216 = 2 ∧ rangeCheck thread.sg (cmdAddr sumWord) 128 true false = some 0 ∧
    readsRange (summing sumWord (command sumWord)) (command sumWord) 0 128 = true ∧ blockOk 0 2 = false ∧ blockOk block 2 = true ∧
    bitsOf (blockWord block 9) 2 0 = 0 ∧
    (match rangesOk 0 (command sumWord) (blockRanges block 2) (summing sumWord (command sumWord)) with | .ok b _ => b | _ => false) = true ∧
    blockElems block = 8 ∧
    (match operandLines 0 (underWay 0) block 0 [0, 1] (summing sumWord (underWay 0)) with
      | .ok _ u => decide (u = summing sumWord (underWay 0)) | _ => false) = true ∧
    rangeCheck thread.sg (blockWord block 8 + .ofNat 64 (4 * 0)) 32 false true = some 4096 ∧
    Settled (summing sumWord (underWay 0)) ∧ EngineAt (summing sumWord (underWay 0)) 0 (underWay 0) 4096 4096 .homed false true ∧
    rangeCheck thread.sg (blockWord block 9) 8 false true = some 8192 ∧
    (summing sumWord (underWay 8)).hostLines = [] ∧
    EngineAt (summing sumWord (underWay 8)) 0 (underWay 8) 8192 8192 .homed false true := by
  simp only [Settled, EngineAt]
  constructorm* _ ∧ _ <;> decide +kernel

/-- The sum at its end, its results and its flag on a COMBINE page, with entries in the port's buffer. -/
def combinesAt (l : List CombineEntry) : State :=
  (summing sumWord (underWay 8)).modCluster 0 fun p => { p with combine := l, tlb := [{ page with policy := .combine }] }

theorem witness_BufferSums_combine :
    (let s := { combinesAt [combined] with hostLines := [0] }
     combinesDst s 0 (underWay 8) = true ∧ combinesDst (writeOutAll s 0) 0 (underWay 8) = true ∧
       ((writeOutAll s 0).clusterAt 0).combine ≠ []) ∧
    combinesDst (combinesAt []) 0 (underWay 8) = true ∧ ((combinesAt []).clusterAt 0).combine = [] ∧
    EngineAt (combinesAt []) 0 (underWay 8) 8192 8192 .combine false true := by
  simp only [EngineAt]; decide +kernel

/-! ## Collectives -/

/-- A context of two members, of which this module is rank 0, and a leaf of a rank for collective 3. -/
def pairOfModules : Membership := { valid := true, mid := 1, n := 2, self := 0, removed := [] }
def chunkOf (n : Nat) : Chunk := ⟨List.replicate 16 0, List.replicate 16 0, .ofNat 32 n, 0, []⟩
def leafOf (rank code : Nat) : LeafArrival := ⟨0, 3, rank, .ofNat 8 code, 16, [some (chunkOf 1)], [0, 1], 0, [0, 1], false⟩
def collOf (mask : Option (List Nat)) (code code2 : Nat) : Coll :=
  { ctag := 0, coll := 3, kept := true, pushed := 1, heard := {}, mask := mask, current := { mask := mask, leaves := [leafOf 0 code, leafOf 1 code2], own := some (0, 1), left := [] }
    early := [], late := [] }
def collWord (code : Nat) : BitVec 256 :=
  BitVec.ofNat 256 (code * 2 ^ 248 + 16 * 2 ^ 192 + global * 2 ^ 128 + (global + 256) * 2 ^ 64 + 3 * 2 ^ 48)
def collCmd (code n : Nat) (started : Bool) : Cmd := { command (collWord code) with count := n, started := started }
def collecting (x : Cmd) (m : Membership) (l : List Coll) : State :=
  { basic.modCore 0 fun r => { r with collectiveQ := [x] } with memberships := basic.memberships.set 0 m, colls := l }
def writesChunk (s : State) (x : Cmd) (c : Bytes) : Bool :=
  match writeRange recordStore s 0 x 256 144 c.1 (fun off m => (pieceWords off m).any c.2.contains) with | .ok _ _ => true | _ => false

theorem witness_Collectives :
    (let s := collecting (collCmd 0x70 0 false) pairOfModules []
     let m := s.memberOf (leafOf 1 0x70).ctag
     m.valid = true ∧ (leafOf 1 0x70).rank ∉ m.removed ∧ (leafOf 1 0x70).rank ≠ m.self.toNat ∧ (leafOf 1 0x70).code ≠ 0x72 ∧
       findColl s 0 3 = none) ∧
    (basic.memberOf 0).valid = false ∧
    (∀ c ∈ [0x70, 0x71, 0x72], cleCmd (collecting (collCmd c 0 false) { pairOfModules with valid := false } []) 0 0 c = some (collCmd c 0 false) ∧
      cleCmd (collecting (collCmd c 0 true) pairOfModules [collOf (some [0, 1]) c c]) 0 0 c = some (collCmd c 0 true) ∧
      instanceReady (collecting (collCmd c 0 true) pairOfModules [collOf (some [0, 1]) c c]) (collOf (some [0, 1]) c c) = true ∧
      findColl (collecting (collCmd c 0 true) pairOfModules [collOf (some [0, 1]) c c]) 0 (cleColl (collWord c)) =
        some (collOf (some [0, 1]) c c) ∧
      instanceMixed (collecting (collCmd c 0 true) pairOfModules [collOf (some [0, 1]) c c]) (collOf (some [0, 1]) c c) (collCmd c 0 true) = false) ∧
    isMember (collecting (collCmd 0x70 0 false) { pairOfModules with valid := false } []) 0 = false ∧
    isMember (collecting (collCmd 0x70 0 true) pairOfModules []) 0 = true ∧
    instanceMixed (collecting (collCmd 0x70 0 true) pairOfModules [collOf (some [0, 1]) 0x70 0x71]) (collOf (some [0, 1]) 0x70 0x71)
      (collCmd 0x70 0 true) = true ∧
    (bitsOf (collWord 0x70) 223 192 / 16 = 1 ∧ rangeCheck thread.sg (cleDst (collWord 0x70)) (cleBytes (collWord 0x70)) false true = some 256 ∧
      (let s := collecting (collCmd 0x70 0 true) pairOfModules [collOf (some [0, 1]) 0x70 0x70]
       writesChunk s (collCmd 0x70 0 true) (mergeChunk s (collOf (some [0, 1]) 0x70 0x70) [0, 1] 0) = true ∧
         instanceRanks s (collOf (some [0, 1]) 0x70 0x70) = [0, 1])) ∧
    (let s := collecting (collCmd 0x72 0 true) pairOfModules [collOf none 0x72 0x72]
     let n := collOf none 0x72 0x72
     isOutside s n = false ∧ instanceReady s n = true ∧ instanceMixed s n (collCmd 0x72 0 true) = false ∧
       (∀ a ∈ n.current.leaves, a.code = 0x72 ∧ a.bitmap = [0, 1] ∧ a.rank ∈ instanceRanks s n) ∧ n.current.leaves ≠ []) := by
  decide +kernel

/-! ## Groups and capsules -/

/-- A group of cluster 0 for tag 0 with two elements, its statistics on core 0 at 0 and 128, and the basic module with it, a thread's
words at 64. -/
def groupIn (state : BitVec 2) (v : Bool) (nmin nmax : BitVec 32) : Group :=
  { Group.blank with state := state, v := v, nmin := nmin, nmax := nmax, e := 2, buf1 := 4 }
def grouped (g : Group) : State := (module { thread with g := vset thread.g 5 (2 ^ 32) }).setGroup 0 0 g
/-- A pilot's write to a register of a unit. -/
def asked (s : State) (reg : Nat) (v : Word) : State := { s with unitReqs := [⟨0, reg, v⟩] }
/-- The entry of a joining step 0. -/
def joinEntry (step : Nat) : Nat := step + 2 * 2 ^ 128 + 0x4A45 * 2 ^ 448 + step * 2 ^ 480

theorem witness_Groups :
    ((∀ g ∈ [groupIn 1 false 8 9, groupIn 1 false 1 1, groupIn 2 false 8 9, groupIn 0 false 8 9], let s := grouped g
      s.runs (.gacc 8 0 1) = true ∧ s.me.reservation = .free ∧ bitsOf (s.me.readG 0) 31 13 = 0 ∧ s.groupOf 0 0 = g ∧
        g.ctag = s.me.ctag ∧ g.s.toNat - g.w.toNat ≤ bitsOf (s.me.readG 0) 63 32 ∧ bitsOf (s.me.readG 0) 63 32 ≤ g.s.toNat ∧
        s.watches = [] ∧ statAt s 0 g g.v 0 = 0) ∧
      (let s := module { thread with g := vset thread.g 5 0x2000 }
       s.runs (.gacc 8 5 1) = true ∧ bitsOf (s.me.readG 5) 31 13 ≠ 0) ∧
      ((grouped (groupIn 1 false 8 9)).runs (.gacc 8 5 1) = true ∧ bitsOf ((grouped (groupIn 1 false 8 9)).me.readG 5) 31 13 = 0 ∧
        (groupIn 1 false 8 9).s.toNat < bitsOf ((grouped (groupIn 1 false 8 9)).me.readG 5) 63 32)) ∧
    LocalBlock (grouped (groupIn 1 false 8 9)) 64 8 4 64 true false ∧ LocalBlock (grouped (groupIn 1 false 8 9)) 64 64 64 64 true false ∧
    (grouped (groupIn 1 false 8 9)).me.readG 1 = 64 ∧
    (let s := (grouped (groupIn 1 false 8 9)).mark (padAddr 0 64) 8
     poisonedIn s.poison (padAddr s.core 64) 8 = true ∧ s.runs (.gacc 8 0 1) = true) ∧
    ((∀ g ∈ [groupIn 1 false 8 9, groupIn 3 false 8 9, groupIn 0 false 8 9], let s := grouped g
      bitsOf (s.me.readG 0) 63 13 = 0 ∧ s.runs (.gstat 8 0 0) = true ∧ s.me.readG 0 = .ofNat 64 0 ∧ s.runs (.gclose 8 0) = true ∧
        s.runs (.gflip 8 0) = true ∧ releaseHolds (s.noted (.gflip 8 0)) s.core s.slot = true ∧ s.runs (.gjoin 8 0 1) = true ∧ s.poison = [] ∧ statAt s 0 g g.v 0 = 0 ∧
        statAt s 0 g (!g.v) 0 < (8 : BitVec 32).toNat ∧ g.buf0.toNat * 32 + (4 + 8 * g.e.toNat) ≤ g.buf1.toNat * 32) ∧
      (let s := (grouped (groupIn 3 false 8 9)).modCluster 0 fun p => { p with combine := [combined] }
       s.runs (.gflip 8 0) = true ∧ releaseHolds (s.noted (.gflip 8 0)) s.core s.slot = false) ∧
      statAt { grouped (groupIn 1 false 8 9) with mem := (grouped (groupIn 1 false 8 9)).mem.writeN (padAddr 0 0) 4 3 } 0
        (groupIn 1 false 8 9) false 0 ≠ 0 ∧
      entryBad 0 (groupIn 1 false 8 9) = true ∧ entryBad (joinEntry 0) (groupIn 1 false 8 9) = false ∧
      entryBad (joinEntry 1) (groupIn 1 false 8 9) = false ∧ bytesAt (joinEntry 0) 0 4 = (groupIn 1 false 8 9).s.toNat ∧
      bytesAt (joinEntry 1) 0 4 ≠ (groupIn 1 false 8 9).s.toNat) ∧
    (((takeUnit (asked (grouped (groupIn 0 false 8 9)) 0x171 1) 0 0x171).map (·.1)) = some 1 ∧
      ((takeUnit (asked (grouped (groupIn 0 false 8 9)) 0x171 0) 0 0x171).map (·.1)) = some 0 ∧
      configureOk (groupIn 0 false 8 9) = true ∧ configureOk (groupIn 0 false 0 9) = false ∧ ((grouped (groupIn 0 false 8 9)).groupOf 0 0).state = 0) ∧
    (let g : Group := { groupIn 2 false 8 9 with retry := some { data := 0 }, retryAt := 0 }
     let s := { grouped g with clock := 1024, placed := [⟨{ launch with lid := 0 }, 0, 0⟩] }
     (s.groupOf 0 0).retry = some { data := 0 } ∧ (s.groupOf 0 0).state = 2 ∧ (s.groupOf 0 0).retryAt + 1024 ≤ s.clock ∧
       (grouped g).clock < (s.groupOf 0 0).retryAt + 1024 ∧
       placedInBand s 0 0 = true ∧ clusterGone s 0 = false ∧ (s.clusterAt 0).bank.length < 2048 ∧ (s.clusterAt 0).ring = []) := by
  simp only [LocalBlock]
  constructorm* _ ∧ _ <;> decide +kernel

/-- Nothing keeps the device from its tables. -/
theorem tablesOpen_of {s : State} (hw : s.wants = []) (hh : s.hostLines = []) (hp : s.pchs = {}) (ha : s.apertures = {}) :
    TablesOpen s := by
  have noPeer : ∀ i, bitAt (s.apertures.get 0#64 i) 63 = false := fun i => by
    rw [ha]; show bitAt (0#64 : Word) 63 = false; decide
  have idle : ∀ a b, (s.pchOf a b).running = none := fun a b => by rw [State.pchOf, hp]; rfl
  refine ⟨hw, hh, fun pa => ⟨bankBusy_idle idle pa, ?_⟩⟩
  unfold apertureOf
  split
  · simp; intro i _ h; rw [noPeer] at h; cases h
  · rfl

theorem witness_Groups_open (g : Group) : TablesOpen (grouped g) := tablesOpen_of rfl rfl rfl rfl

/-- Core 0's buffers: one capsule in buffer 0 with its steps, in a use. -/
def stepOf (d0 d1 : Word) : Step := ⟨d0, d1⟩
def carrying (use : BufUse) (steps : List Step) (s : State) : State := setManifest (setBufUse s 0 0 use) 0 0 steps
def threadStep : Step := stepOf 0x4000000000000000 0x100
def fillStep : Step := stepOf (.ofNat 64 (2 * 2 ^ 62 + 0x39 * 2 ^ 43 + 8 * 2 ^ 32)) 0
/-- A thread whose capsule is in buffer 0, at a place in its steps, with a step in its scratchpad at 64. -/
def carrier (place : Word) (steps : List Step) : State :=
  carrying (.running 1) steps (module { thread with capsule := some 0, g := vset thread.g 5 place })

theorem witness_CapsuleInstructions :
    (let p : Placed := ⟨{ launch with lid := 0, classes := 1 }, 0, 0⟩
     let s := { basic with placed := [p] }
     let n := s.noted (.cnew 8 1 0)
     s.runs (.cnew 8 1 0) = true ∧ s.me.reservation = .free ∧ findPlaced s s.me.lid = some p ∧ (0 : BitVec 12).toNat < p.record.classes ∧
       p.record.classes ≤ (1 : BitVec 12).toNat ∧ s.runs (.cnew 8 1 1) = true ∧ (s.me.readG 1).toNat % 4 = 0 ∧
       releaseHolds n s.core s.slot = true ∧ fenceBankHolds n s.core s.slot 0x800000 = true ∧ freeFerry n s.core = some 4 ∧
       resultRefused 8 (capsuleIdent n) = false) ∧
    LocalBlock basic 64 12 1 64 true false ∧
    ((0 : Nat) < 2 ^ 16 ∧ bytesAt (12 + 2 ^ 16) 2 1 ≤ 16 ∧ bytesAt (12 + 2 ^ 16) 0 2 ≤ 4096 ∧ padAddr 0 64 + 4096 ≤ 2 ^ 53) ∧
    (let s := carrier 0 [threadStep]
     s.me.capsule = some 0 ∧ s.queued = [] ∧ s.me.reservation = .free ∧ s.me.pending = [] ∧ s.me.qe = Vector.replicate 8 [] ∧
       (s.coreOf s.core).heldTokens = [] ∧ s.runs .cfwd = true ∧ releaseHolds (s.noted .cfwd) s.core s.slot = true ∧
       commandsDone (s.noted .cfwd) s.core s.slot = true ∧ (manifest s s.core 0).length = 1 ∧ s.runs (.cpark 1) = true ∧
       bitAt (s.me.readG 1) 31 = false ∧ releaseHolds (s.noted (.cpark 1)) s.core s.slot = true ∧
       commandsDone (s.noted (.cpark 1)) s.core s.slot = true) ∧
    (let s := carrier (2 ^ 31) [threadStep]
     s.runs (.cpark 5) = true ∧ bitAt (s.me.readG 5) 31 = true) ∧
    (∀ p ∈ [0, 1, 2], let s := carrier (.ofNat 64 p) [threadStep, threadStep]
     s.me.capsule = some 0 ∧ (manifest s s.core 0).length = 2 ∧ s.runs (.cins 8 5 1) = true ∧ s.runs (.crep 8 5 1) = true ∧
       s.runs (.cdel 8 5) = true ∧ (s.me.readG 5).toNat = p ∧ s.poison = []) ∧
    LocalBlock (carrier 0 [threadStep, threadStep]) 64 16 16 64 true false ∧
    (manifest (carrier 0 (List.replicate 16 threadStep)) 0 0).length = 16 ∧ threadStep.malformed 0 = false ∧ (stepOf 0 0).malformed 0 = true := by
  simp only [LocalBlock]
  constructorm* _ ∧ _ <;> decide +kernel

/-- Requests and travellers to core 1, and all four of its landing buffers in use. -/
def landing (r : LandReq) (s : State) : State := { s with landReqs := [r] }
def requestTo (dest : Nat) (admitted : Bool) : LandReq := ⟨0, 0, dest, none, admitted, 0, none⟩
def fullCore (use : Nat → BufUse) (n : Word) : State :=
  basic.modCore 1 fun r => { r with cycle := n, bufs := Vector.ofFn fun (i : Fin 6) => use i }

/-- A rover in slot 1 whose request for core 1 is under way; one that has landed. -/
def roverAsks (w : Wait) : State :=
  { module { thread with status := .memoryWait, wait := w } with landReqs := [⟨0, 0, 1, some 1, false, 0, none⟩] }
def aboard : Transit := ⟨0, 1, 1, 2, some thread, false⟩

theorem witness_Landings :
    (basic.wants = [] ∧ (requestTo 1 false).rover = none ∧ (requestTo 1 false).inbound = none ∧
      unsentCrossing (landing (requestTo 1 false) basic) (requestTo 1 false) = none ∧ (requestTo 1 false).admitted = false ∧
      basic.inService 1 = true ∧ basic.inService 1280 = false) ∧
    (let t := stepOf (.ofNat 64 (3 * 2 ^ 62)) 0
     unsentCrossing (landing (requestTo 1 false) (carrying .landed [t] basic)) (requestTo 1 false) = some t) ∧
    ((requestTo 1 true).admitted = true ∧ basic.crossings = [] ∧ freeLanding basic 1 = some 0 ∧ (requestTo 1 true).buf < 6 ∧
      ¬ ((requestTo 1 true).core = (requestTo 1 true).dest ∧ (requestTo 1 true).buf = 0)) ∧
    (let s := fullCore (fun i => if i = 0 then .parked true 3 0 else .landed) 8192
     freeLanding s 1 = none ∧ bufUse s 1 0 = .parked true 3 0 ∧ (∀ d, d < 4 → d ≠ 0 → parkedUse s 1 d = none) ∧
       (requestTo 1 true).since.toNat + 8192 ≤ (s.coreOf 1).cycle.toNat ∧ (requestTo 1 true).since.toNat + 1024 ≤ (s.coreOf 1).cycle.toNat ∧
       (basic.coreOf 1).cycle.toNat < (requestTo 1 true).since.toNat + 1024) ∧
    ((roverAsks .landing).queued = [] ∧ (roverAsks .landing).wants = [] ∧ ((roverAsks .landing).slotOf 0 1).wait = .landing ∧
      ((roverAsks .nothing).slotOf 0 1).wait ≠ .landing ∧ (roverAsks .landing).inService 1 = true ∧ freeLanding (roverAsks .landing) 1 = some 0) ∧
    (let s := (roverAsks .landing).modCore 1 fun r => { r with bufs := Vector.replicate 6 .landed }
     (s.slotOf 0 1).wait = .landing ∧ freeLanding s 1 = none) ∧
    (aboard.rover = some thread ∧ (basic.slotOf 1 0).status = .empty ∧ (⟨0, 0, 1, 2, none, false⟩ : Transit).rover = none ∧
      ∀ i, i < 7 → ((basic.modCore 1 fun r => { r with slots := Vector.replicate 8 thread }).slotOf 1 i).status ≠ .empty) := by decide +kernel

/-- A fill of eight words under way in buffer 0, at its first and at its last. -/
def fillRun (n : Nat) : BankRun := { run := stepRun basic 0 0 fillStep, done := List.replicate n 0, next := n }
def fourthCrossing : CapsuleArrival := ⟨0, 0, 1, [0, 0, 0, 0, 4], [], false⟩
def crossing (l : List Granted) : State :=
  { basic with placed := [⟨{ launch with lid := 0 }, 0, 0⟩], memberships := basic.memberships.set 0 pairOfModules, granted := l }
def grantOf : Granted := ⟨{ ctag := 0, rank := 1, ident := 0 }, 0, 1⟩

theorem witness_CapsuleSteps :
    (let s := { carrying .landed [threadStep] ((module thread).modCore 0 fun r => { r with spawnctl := 0x7F }) with
        placed := [⟨{ launch with lid := 0 }, 0, 0⟩] }
     bufUse s 0 0 = .landed ∧ manifest s 0 0 = [threadStep] ∧ s.wants = [] ∧ launchRecord s (bufLaunch s 0 0) = some { launch with lid := 0 } ∧
       s.inService 0 = true ∧ bitsOf threadStep.d0 63 62 = 1 ∧ openSlots s 0 = [0, 2, 3, 4, 5, 6] ∧ (needSegments s { launch with lid := 0 }).wants = [] ∧
       bufFlag s 0 0 1 = false ∧ bufFlag (setBufFlag s 0 0 1 true) 0 0 1 = true ∧ openSlots (s.modCore 0 fun r => { r with spawnctl := 0 }) 0 = []) ∧
    (let s := carrying .landed [fillStep] basic
     bufUse s 0 0 = .landed ∧ bitsOf fillStep.d0 63 62 = 2 ∧ manifest s 0 0 = [fillStep] ∧ s.wants = [] ∧
       (let run := stepRun (needFold s 0 (bufCtag s 0 0) fillStep) 0 0 fillStep
        run.addr + 4 * run.count ≤ 2 ^ 21)) ∧
    (∀ n ∈ [0, 7], let s := carrying (.banking (fillRun n)) [fillStep] basic
     bufUse s 0 0 = .banking (fillRun n) ∧ s.watches = [] ∧ s.wants = [] ∧ ableElements s 0 0 (fillRun n) ≠ [] ∧ (fillRun n).run.code = 0x39) ∧
    (ableElements (carrying (.banking (fillRun 8)) [fillStep] basic) 0 0 (fillRun 8) = [] ∧ (fillRun 7).next + 1 = (fillRun 7).run.count ∧
      (fillRun 0).next + 1 ≠ (fillRun 0).run.count) ∧
    (let r : TaskRetry := ⟨0, { data := 0 }, 0⟩
     r.since + 1024 ≤ { basic with clock := 1024 }.clock ∧ basic.clock < r.since + 1024) ∧
    ((crossing []).wants = [] ∧ (contextOfMid (crossing []) fourthCrossing.mid).bind (grantedTo (crossing []) 0) = none ∧
      (contextOfMid (crossing [grantOf]) fourthCrossing.mid).bind (grantedTo (crossing [grantOf]) 0) = some grantOf ∧
      receivingLaunch { crossing [grantOf] with placed := [] } fourthCrossing = none ∧
      (contextOfMid { crossing [grantOf] with placed := [] } fourthCrossing.mid).bind
        (grantedTo { crossing [grantOf] with placed := [] } 0) = some grantOf ∧
      receivingLaunch (crossing [grantOf]) fourthCrossing = some { launch with lid := 0 } ∧ fourthCrossing.partPoisoned = false ∧
      tileOk (bufTile (landImage (answerInbound (crossing []) grantOf.inbound 0) 0 1 { launch with lid := 0 } fourthCrossing) 0 1) = true ∧
      ({ fourthCrossing with partPoisoned := true } : CapsuleArrival).partPoisoned = true) := by
  decide +kernel

/-! ## Scheduler and translation -/

/-- A launch record of one crew member on one core; one whose band, of two clusters from cluster 79 on, leaves the grid. -/
def recordWord : Nat := 2 ^ 48 + 2 ^ 64 + 2 ^ 72 + 2 ^ 80 + 2 ^ 88
def outsideWord : Nat := recordWord + 2 ^ 44 + 79 * 2 ^ 56 + 2 ^ 64
def queuedBy (lid : BitVec 32) (cls : Nat) : Queued := ⟨{ launch with lid := lid }, cls, 0, 0⟩
def placedBy (lid : BitVec 32) : Placed := ⟨{ launch with lid := lid }, 0, 0⟩

theorem witness_LaunchQueues :
    ((takeUnit (asked basic 0x120 0x1000) 0 0x120).map (·.1) = some 0x1000 ∧ (takeUnit (asked basic 0x122 5) 0 0x122).map (·.1) = some 5 ∧
      (∃ q ∈ [queuedBy 5 0], q.record.lid = (5 : Word).setWidth 32) ∧ basic.queued = [] ∧ basic.wants = []) ∧
    (bitAt State.reset.ready 0 = false ∧ bitAt basic.ready 0 = true ∧ bitsOf (1 : Word) 6 0 ≠ 0 ∧ bitsOf (0x1000 : Word) 6 0 = 0 ∧
      bitsOf (0x1000 : Word) 63 52 = 0 ∧ bitsOf (0x1000 : Word) 63 32 = 0 ∧ bitsOf (2 ^ 32 : Word) 63 32 ≠ 0) ∧
    (let s := { basic with mem := basic.mem.writeN 0x1000 16 recordWord }
     (tableRead s 0x1000 128).1 = recordWord ∧ (tableRead s 0x1000 128).2.1 = false ∧ (parseLaunch recordWord).classes = 0 ∧
       launchOk recordWord (parseLaunch recordWord) = true ∧ (parseLaunch recordWord).fixed = false ∧ (tableRead s 0x1000 128).2.2.queued = [] ∧
       (tableRead (s.mark 0x1000 32) 0x1000 128).1 = recordWord ∧ (tableRead (s.mark 0x1000 32) 0x1000 128).2.1 = true ∧
       launchOk outsideWord (parseLaunch outsideWord) = true ∧ (parseLaunch outsideWord).fixed = true ∧
       bandInGrid (parseLaunch outsideWord) (parseLaunch outsideWord).origin = false ∧ launchOk 0 (parseLaunch 0) = false ∧ (tableRead basic 0x1000 128).1 = 0 ∧ (tableRead basic 0x1000 128).2.1 = false ∧
       (256 ≤ ((List.replicate 256 (queuedBy 5 0)).filter fun q => q.cls == (parseLaunch recordWord).cls).length)) ∧
    ((queuedBy 5 0).cls < 3 ∧ (queuedBy 5 0).since + 2 ^ 22 ≤ { basic with clock := 2 ^ 22 }.clock ∧
      basic.clock < (queuedBy 5 0).since + 2 ^ 22) := by decide +kernel

/-- A task of launch 0 with an entry, in the bank of cluster 0 where core 0 opens its slots; a task in its spill ring. -/
def task : TaskRec := { data := 0x100 }
def tasked (bank ring : List TaskRec) : State :=
  { ((module thread).modCore 0 fun r => { r with spawnctl := 0x7F }).modCluster 0 fun p =>
      { p with bank := bank, ring := ring, tqbase := 0x2000, tqsize := 16 } with placed := [placedBy task.lid] }

theorem witness_DispatchAndCompletion_open (b r : List TaskRec) (p : List Placed) : TablesOpen basic ∧ TablesOpen (tasked b r) ∧
    TablesOpen { basic with placed := p } := ⟨tablesOpen_of rfl rfl rfl rfl, tablesOpen_of rfl rfl rfl rfl, tablesOpen_of rfl rfl rfl rfl⟩

theorem witness_DispatchAndCompletion :
    dispatchChoice basic 0 = none ∧
    (let s := tasked [task] []
     dispatchChoice s 0 = some (placedBy task.lid) ∧ taskPlace s 0 (placedBy task.lid) = some (0, 0) ∧
       ((takeTask s 0 (dispatchable (placedBy task.lid))).map (·.1)) = some task ∧ (placedBy task.lid).record.pair = false ∧
       task.poison = false ∧ s.watches = []) ∧
    (512 ≤ ((tasked (List.replicate 512 task) [task]).clusterAt 0).bank.length ∧ ((tasked [task] []).clusterAt 0).ring = [] ∧
      ((tasked [] [task]).clusterAt 0).bank.length < 512 ∧ ((tasked [] [task]).clusterAt 0).ring = [task] ∧
      (tableRead (tasked [] [task]) (((tasked [] [task]).clusterAt 0).tqbase.toNat + 64 *
        (((tasked [] [task]).clusterAt 0).ringHead % ((tasked [] [task]).clusterAt 0).tqsize.toNat)) 64).2.1 = false) ∧
    (let p : Placed := { placedBy 5 with record := { launch with lid := 5, cblk := 0x1000 } }
     let s := { basic with placed := [p] }
     findPlaced s p.record.lid = some p ∧ launchDone s p = true ∧ combineBlocks s p = [] ∧ s.queued = [] ∧ s.history.length < 256 ∧
       s.pchs.entries = [] ∧ p.record.cblk ≠ 0 ∧ p.record.cblk.toNat % 16 = 0 ∧ isPopulated p.record.cblk.toNat = true ∧ isPopulated (p.record.cblk.toNat + 8) = true ∧
       apertureOf s p.record.cblk.toNat = none ∧ apertureOf s (p.record.cblk.toNat + 8) = none) ∧
    Settled { basic with placed := [placedBy 5] } ∧
    launchDone { module { thread with gang := true } with placed := [placedBy 0] } (placedBy 0) = false := by
  simp only [Settled]
  constructorm* _ ∧ _ <;> decide +kernel

/-- A thread waiting for a translation, in a context whose root table is at 0x1000; a queue of fault records. -/
def waitsFor (va : Nat) (fetch : Bool) : Slot := { thread with status := .memoryWait, wait := .translation va fetch }
def asksFor (va : Nat) (fetch : Bool) : XlateReq := ⟨0, 1, 0, va, !fetch, false, fetch, none⟩
def rooted : Context := { codeContext with root := 0x1000, hostProcess := false, fqsize := 4, desc := 0x3000 }
def translating (va : Nat) (fetch : Bool) : State :=
  (module (waitsFor va fetch)).modCluster 0 fun p => { p with waiting := [asksFor va fetch], contexts := p.contexts.set 0 rooted }
/-- Tables that lead virtual address 0x10000 to a 64 KiB page at 0x20000. -/
def withTables (s : State) : State :=
  let m := ((s.mem.writeN 0x1000 8 (0x4000 + 1)).writeN 0x4000 8 (0x5000 + 1)).writeN 0x5000 8 (0x6000 + 1)
  { s with mem := m.writeN 0x6008 8 (0x20000 + 0x7F) }
def walksOn (s : State) (va : Nat) : Nat :=
  match walk s 0 0 va true false false with
  | .leaf _ _ => 1
  | .failed _ _ u => if u = s then 2 else 3
  | _ => 0
def tableLine (e : Nat) : HomeLine := ⟨BitVec.ofNat 256 e, false, false, []⟩

theorem witness_TranslationAndFaults :
    (∀ b ∈ [true, false], let s := translating 0 b
      (s.clusterAt 0).waiting = [asksFor 0 b] ∧ (s.slotOf 0 1).wait = .translation 0 b ∧ (asksFor 0 b).failed = none ∧
      (s.slotOf 0 1).docking = false ∧ translate s 0 0 0 (!b) false b = .hit 0 .homed) ∧
    (let s := translating 0x10000 false
     translate s 0 0 0x10000 true false false = .miss ∧ (s.clusterAt 0).contexts.find? 0 = some rooted ∧ rooted.hostProcess = false ∧
       walksOn (withTables s) 0x10000 = 1 ∧ (s.clusterAt 0).records.length < 256 ∧
       (s.slotOf 0 1).pair = .alone ∧ (s.slotOf 0 1).capsule = none ∧ (s.slotOf 0 1).reservation = .free) ∧
    walksOn { translating 0x10000 false with homes := (translating 0x10000 false).homes.set (0x1000 / 32) (tableLine 0) } 0x10000 = 2 ∧
    (apertureOf basic (0x6000 + 8 * (0x10000 / 2 ^ 16 % 2 ^ 9)) = none ∧ (basic.homes.set (0x6008 / 32) (tableLine 0)).find? ((0x6000 + 8 * (0x10000 / 2 ^ 16 % 2 ^ 9)) / 32) = some (tableLine 0) ∧
      (let e : Word := 0x20000 + 0x7F
       bitAt e 0 = true ∧ bitAt e 1 = true ∧ bitsOf e 63 52 = 0 ∧ bitsOf e 11 9 = 0 ∧ bitsOf e 51 12 % 16 = 0 ∧ bitAt e 2 = true ∧
         bitAt e 3 = true ∧ bitAt e 4 = true ∧ bitAt e 5 = true ∧ bitAt e 6 = true ∧ bitAt (e - 4) 2 = false ∧ bitAt (e - 4) 1 = true)) ∧
    (let s := (translating 0 false).modCluster 0 fun p => { p with records := [⟨0, 0⟩] }
     (s.clusterAt 0).records = [⟨0, 0⟩] ∧ (s.clusterAt 0).contexts.find? 0 = some rooted ∧
       (tableRead s (rooted.desc.toNat + 24) 8).1 = 0 ∧ (tableRead s (rooted.desc.toNat + 24) 8).2.1 = false ∧ rooted.fqsize ≠ 0) := by
  decide +kernel

/-- A slot parked for a fault, and one of a host process that waits for a translation. -/
def parkedSlot : Slot := { thread with status := .parked, park := .fault 7 }
def hostContext : Context := { codeContext with hostProcess := true, pasid := 9 }

theorem witness_ContextsAndInvalidation :
    ((takeUnit (asked basic 0x131 0) 0 0x131).map (·.1) = some 0 ∧ (takeUnit (asked basic 0x131 0x3000) 0 0x131).map (·.1) = some 0x3000 ∧
      (tableRead basic 0x3000 64).2.1 = false ∧ descriptorOk (tableRead basic 0x3000 64).1 = true ∧ descriptorOk 1 = false) ∧
    ((takeUnit (asked basic 0x132 0) 0 0x132).map (·.1) = some 0 ∧ bitAt (0 : Word) 8 = false ∧
      (basic.clusterAt 0).combine = [] ∧ basic.flights = [] ∧ ((basic.clusterAt 0).contexts.find? 0).isSome = true ∧
      drained (asked basic 0x132 0) 0 0 = true ∧ (takeUnit (asked basic 0x133 7) 0 0x133).map (·.1) = some 7) ∧
    (let q : PageReq := ⟨7, 0, 1, false, 0x10000, false⟩
     let s := { module parkedSlot with pageReqs := [q] }
     s.pageReqs = [q] ∧ q.engine = false ∧ q.refused = false ∧ (s.slotOf 0 1).pair = .alone ∧ (s.slotOf 0 1).park = .fault q.key ∧
       (s.slotOf 0 1).docking = false ∧ (s.slotOf 0 1).haltPending = false) ∧
    (∀ b ∈ [true, false],
     let s := (module (waitsFor 0x10000 b)).modCluster 0 fun p => { p with waiting := [asksFor 0x10000 b], contexts := p.contexts.set 0 hostContext }
     let a : AtsAnswer := ⟨9, 0x10000, some (0x20000, 7)⟩
     (s.clusterAt 0).waiting = [asksFor 0x10000 b] ∧ (s.clusterAt 0).contexts.find? 0 = some hostContext ∧ hostContext.hostProcess = true ∧
       hostContext.pasid = a.pasid ∧ (asksFor 0x10000 b).va / 2 ^ 16 = a.va.toNat / 2 ^ 16 ∧ bitAt (7 : BitVec 3) 0 = true ∧ bitAt (7 : BitVec 3) 2 = true ∧
       (s.slotOf 0 1).wait = .translation 0x10000 b ∧ (s.slotOf 0 1).docking = false) := by decide +kernel

theorem witness_ContextsAndInvalidation_quiet : (∀ cl, (State.reset.clusterAt cl).combine = []) ∧ pasidDrained State.reset 9 = true ∧
    TablesOpen (asked basic 0x131 0x3000) ∧ ∀ b, parkedUse (module parkedSlot) 0 b = none := by
  refine ⟨fun _ => rfl, by decide +kernel, tablesOpen_of rfl rfl rfl rfl, fun b => ?_⟩
  by_cases h : b < 6
  · have : ∀ b, b < 6 → parkedUse (module parkedSlot) 0 b = none := by decide +kernel
    exact this b h
  · simp [parkedUse, bufUse, vget, h]

/-! ## Reliability -/

/-- A pair in slots 2 and 3 of core 0 with their outward entries; a slot that is scrubbed until cycle 256. -/
def pairOf (a b : Slot) : State := (basic.setSlot 0 2 { a with pair := .leading }).setSlot 0 3 { b with pair := .trailing }
def comparing (v : Word) : Slot := { thread with wait := .compare, status := .engineWait, outward := some ⟨0, [v]⟩ }
def killedSlot : Slot := { Slot.blank with status := .killed, scrub := 256 }

theorem witness_PairsKillsAndScrubs :
    (let s := pairOf (comparing 1) (comparing 1)
     let x := s.slotOf 0 2
     let y := s.slotOf 0 3
     x.pair = .leading ∧ x.wait = .compare ∧ y.wait = .compare ∧ x.outward.isSome = true ∧ y.outward.isSome = true ∧ x.outward = y.outward ∧
       x.pc = y.pc ∧ x.docking = false ∧ y.docking = false ∧ s.outstanding = [] ∧ s.wants = []) ∧
    ((pairOf (comparing 1) (comparing 2)).slotOf 0 2).outward ≠ ((pairOf (comparing 1) (comparing 2)).slotOf 0 3).outward ∧
    ((basic.slotOf 0 0).occupied = false ∧ (basic.slotOf 0 1).occupied = true ∧ (basic.slotOf 0 1).pair = .alone ∧
      (basic.slotOf 0 1).capsule = none ∧ (basic.slotOf 0 1).reservation = .free ∧ (basic.slotOf 0 1).resend = none ∧ ((pilot thread).slotOf 0 7).occupied = true ∧
      ((pilot thread).slotOf 0 7).reservation = .free) ∧
    (let s := atCycle (module killedSlot) 256
     (s.slotOf 0 1).status = .killed ∧ (s.slotOf 0 1).scrub ≤ (s.coreOf 0).cycle.toNat ∧ s.queued = [] ∧
       ((module killedSlot).coreOf 0).cycle.toNat < ((module killedSlot).slotOf 0 1).scrub) ∧
    (64 / 32 % 32 ∉ wantedBanks basic 0 ∧ 8 / 32 % 32 ∈ wantedBanks (toBank (bankFlight .store 5 0)) 5 ∧
      (let s := basic.modCore 0 fun r => { r with scrubWait := r.scrubWait.set 2 4096 }
       4096 ≤ (s.coreOf 0).scrubWait.get 0 2 ∧ (basic.coreOf 0).scrubWait.get 0 2 < 4096)) := by decide +kernel

theorem witness_ServiceAndHomes_open (reg : Nat) (v : Word) : TablesOpen basic ∧ TablesOpen (asked basic reg v) :=
  ⟨tablesOpen_of rfl rfl rfl rfl, tablesOpen_of rfl rfl rfl rfl⟩

theorem witness_ServiceAndHomes :
    ((basic.coreOf 0).failed = false ∧ (basic.coreOf 0).pushers = [] ∧ (basic.coreOf 0).poppers = []) ∧
    (let off : Word := 0x1001
     (takeUnit (asked basic 0x186 off) 0 0x186).map (·.1) = some off ∧ bitsOf off 13 12 = 1 ∧
       linesBusy (asked basic 0x186 off) (servedBy (asked basic 0x186 off) 1) = false ∧ fenceIllegal (asked basic 0x186 off) 0 off = false ∧
       fenceIllegal (asked basic 0x186 0x1000) 0 0x1000 = true ∧ (asked basic 0x186 off).inService 1 = true) ∧
    (let on : Word := 0x2001
     let s := (asked basic 0x186 on).modCore 1 fun r => { r with fenced := true }
     bitsOf on 13 12 = 2 ∧ fenceIllegal s 0 on = false ∧ s.queued = [] ∧ s.queues = [] ∧ fenceIllegal (asked basic 0x186 on) 0 on = true) ∧
    (let s := asked basic 0x188 0xFEDCBA9876543210
     (takeUnit s 0 0x188).map (·.1) = some 0xFEDCBA9876543210 ∧ hmapIllegal s (s.coreOf 0).hmsel.toNat 0xFEDCBA9876543210 = false ∧
       (s.coreOf 0).hmsel.toNat < 80 ∧ hmapIllegal (s.modCore 0 fun r => { r with fenced := true }) 0 0xFEDCBA9876543210 = true ∧
       s.homes.entries = [] ∧ linesBusy s (fun line => (homeIndex (line * 32)).1 == 0) = false) := by decide +kernel

/-! ## Units of the pilot, the host, the links -/

/-- Pseudo-channel 0 of stack 0 as it is. -/
def channeled (p : Pch) (s : State) : State := s.setPch 0 0 p
def dirtyLine : HomeLine := ⟨7, true, false, []⟩

theorem witness_PilotUnits :
    (let s := { asked basic 0x101 0x100 with homes := ⟨[(2, dirtyLine)]⟩ }
     (takeUnit s 0 0x101).map (·.1) = some 0x100 ∧ bankBusy s (2 * 32) = false ∧ s.bursts = [] ∧ (s.coreOf 0).wbiaddr.toNat ≤ 2 * 32 ∧
       2 * 32 < (s.coreOf 0).wbiaddr.toNat + (0x100 : Word).toNat ∧ (s.coreOf 0).wbiaddr.toNat + (0x20 : Word).toNat ≤ 2 * 32 ∧
       (takeUnit (asked basic 0x101 0x20) 0 0x101).map (·.1) = some 0x20) ∧
    (∀ r ∈ [0x111, 0x112, 0x114], ((takeUnit (channeled (runningPch 0) (asked basic r 5)) 0 r).map (·.1)).isSome = true) ∧
    ((runningPch 0).running.isSome = true ∧ (heldBy 0).running = none ∧ (heldBy 0).shadowed = false ∧ (heldBy 0).shadowStore = {} ∧
      bitsOf ((channeled (runningPch 0) basic).coreOf 0).sqsel 9 6 = 0 ∧ bitsOf ((channeled (runningPch 0) basic).coreOf 0).sqsel 5 0 = 0) ∧
    (mbselfIllegal State.reset 0 0x8000000100020000 = false ∧ mbselfIllegal State.reset 0 0x8000000100000000 = true) ∧
    (let s := { basic with memberships := basic.memberships.set 0 pairOfModules }
     bitsOf (s.coreOf 0).mbsel 31 16 < (s.memberOf 0).n.toNat ∧ (basic.memberOf 0).n.toNat ≤ bitsOf (basic.coreOf 0).mbsel 31 16 ∧
       memdropIllegal s 0 1 = false ∧ memdropIllegal s 0 2 = true ∧ (takeUnit (asked s 0x179 1) 0 0x179).map (·.1) = some 1) ∧
    ((basic.coreOf 0).traps = [] ∧ basic.events = []) := by decide +kernel

theorem witness_HostAttachment_open (q : EnvCall) : TablesOpen { basic with ecsize := 4, ecbase := 0x1000, envCalls := [q] } :=
  tablesOpen_of rfl rfl rfl rfl

theorem witness_HostAttachment :
    (basic.mgmt = [] ∧ basic.mgmt.length < 64 ∧ 64 ≤ (List.replicate 64 (⟨0, 0, 0, 0⟩ : TrapRec)).length) ∧
    (let q : EnvCall := ⟨0, 1, 9, ⟨1, 2, 3, 4⟩, false⟩
     let s := { basic with ecsize := 4, ecbase := 0x1000, envCalls := [q] }
     q.written = false ∧ s.ecsize ≠ 0 ∧ (s.ectail - s.echead).toNat < s.ecsize.toNat ∧ s.apertures.entries = [] ∧ s.ecbase.toNat % 64 = 0 ∧
       isPopulated (s.ecbase.toNat + 64 * (s.ectail.toNat % s.ecsize.toNat)) = true ∧
       { s with ectail := 4 }.ecsize.toNat ≤ ({ s with ectail := 4 }.ectail - { s with ectail := 4 }.echead).toNat) ∧
    Settled { basic with ecsize := 4 } ∧
    (let s := module { thread with status := .trapped, envCall := true }
     let x := s.slotOf 0 1
     x.status = .trapped ∧ x.envCall = true ∧ x.pair = .alone ∧ x.handler = .outside ∧ x.docking = false ∧ x.haltPending = false ∧
       (s.coreOf 0).deferred = [] ∧ (basic.slotOf 0 1).envCall = false) ∧
    (let s := { basic with homes := ⟨[(2, dirtyLine)]⟩ }
     bitAt State.reset.ready 0 = false ∧ bitAt s.ready 0 = true ∧ (64 : BitVec 52).toNat < 2 ^ 41 ∧ s.homes.find? (64 / 32) = some dirtyLine ∧
       2 ^ 41 ≤ (2 ^ 41 : BitVec 52).toNat ∧ s.queues = [] ∧ s.watches = []) ∧
    (slotWordBad (2 ^ 14) false false = true ∧ State.reset.wants = []) ∧
    (isHost ((2 ^ 51 : BitVec 52).toNat / 32 * 32) = true ∧ basic.homes.find? ((2 ^ 51 : BitVec 52).toNat / 32) = none) := by
  simp only [Settled]
  constructorm* _ ∧ _ <;> decide +kernel

/-- A port that is up with a flit in its replay buffer, and a good flit of the next number. -/
def upPort : Port := { Port.reset with up := true, replay := [⟨1, false, 1, 0, 0, 0, 0, 0, 0, true, .data⟩], lastAck := 0 }
def goodFlit (p : Port) : Flit := ⟨1, false, p.rx + 1, 0, 0, 0, 0, 0, 0, true, .control⟩
def linked (p : Port) : State := { basic with ports := basic.ports.set 0 p }

theorem witness_PhoupLinks :
    (((linked { upPort with up := false }).portOf 0).up = false ∧ (goodFlit upPort).crcGood = true ∧ ({ goodFlit upPort with crcGood := false }).crcGood = false ∧
      (goodFlit upPort).seq = upPort.rx + 1 ∧ 1 ≤ (goodFlit upPort).type.toNat ∧ (goodFlit upPort).type.toNat ≤ 6 ∧
      (goodFlit upPort).body = .control ∧ ((linked { upPort with replay := [] }).portOf 0).replay = [] ∧
      ((linked { upPort with replay := [] }).portOf 0).up = true) ∧
    (((linked upPort).portOf 0).up = true ∧ ((linked upPort).portOf 0).replay ≠ [] ∧
      ((linked upPort).portOf 0).lastAck + 65536 ≤ { linked upPort with clock := 65536 }.clock ∧ (linked upPort).clock < upPort.lastAck + 65536 ∧
      (linked upPort).memberships.entries = [] ∧ bitAt { basic with loopctl := 2 }.loopctl 1 = true) ∧
    (let f : Flight := { core := 0, slot := 1, kind := .load false, target := .peer 1 0, n := 4 }
     let q : PeerReq := ⟨0, 0, 1, 0, f, 0⟩
     let s := { atCycle (module { thread with status := .engineWait, wait := .reply (some 5) false }) (2 ^ 20) with peerReqs := [q] }
     s.peerReqs = [q] ∧ s.heldRanks = [] ∧ q.flight.slot < 8 ∧ q.flight.kind = .load false ∧ q.flight.lane = none ∧
       (s.slotOf q.flight.core q.flight.slot).wait = .reply (some 5) false ∧ q.since.toNat + 2 ^ 20 ≤ (s.coreOf q.flight.core).cycle.toNat ∧
       (basic.coreOf q.flight.core).cycle.toNat < q.since.toNat + 2 ^ 20) := by decide +kernel

/-- Bring-up in a stage, with what its stages will find. -/
def inStage (stage : Nat) (r : BringUpReport) : State := { basic with ready := readyWord 0 stage false 0, bringing := some r }
def fine : BringUpReport := ⟨false, false, [], [], []⟩

/-- In every stage; of the two hypotheses about the firmware slot, which exclude each other, the flash says which holds (log entry 11). -/
theorem witness_ModuleLife_stages :
    (∀ n, n < 7 → ∀ r ∈ [fine, { fine with stackFails := true }, { fine with dieLinksFail := true }], let s := inStage n r
      s.bringing = some r ∧ s.booting = false ∧ bitAt s.ready 0 = false ∧ s.issuing = false ∧ s.going = [] ∧ s.agenda = [] ∧ s.wants = [] ∧
        bitsOf s.ready 23 16 = n) ∧
    (fine.stackFails = false ∧ fine.dieLinksFail = false ∧ fine.failedCores = [] ∧ fine.failedBanks = [] ∧
      ∀ cl, cl < 80 → clusterGone (inStage 6 fine) cl = false) ∧
    ∀ s, firmwareSlot s = none ∨ ∃ n, firmwareSlot s = some n := by
  refine ⟨by decide +kernel, by decide +kernel, fun s => ?_⟩
  cases firmwareSlot s with
  | none => exact .inl rfl
  | some n => exact .inr ⟨n, rfl⟩

theorem witness_ModuleLife_requests : spdmRequest .getDigests 0x81 [] ∧ spdmRequest (.getCertificate 1 2) 0x82 [1, 0, 2, 0] :=
  ⟨.inr (.inr (.inl ⟨rfl, rfl, rfl⟩)), .inr (.inr (.inr (.inl ⟨1, 2, rfl, rfl, rfl⟩)))⟩

theorem witness_ModuleLife :
    ({ basic with booting := true }.booting = true ∧ basic.booting = false) ∧
    (let s := { basic with loopctl := 0xF }
     bitAt s.loopctl 0 = true ∧ bitAt s.loopctl 2 = true ∧ bitAt s.loopctl 3 = true ∧ bitAt { basic with loopctl := 0 }.loopctl 0 = false ∧
       0 < { s with scrubDue := 1 }.scrubDue ∧ basic.scrubDue = 0 ∧ 168 ≤ { s with quietHours := 168 }.quietHours ∧
       basic.quietHours < 168 ∧ ((List.range 80).filter fun c => (s.clusterAt c).held).length < 8) ∧
    (let s := { (List.range 8).foldl (fun s c => s.modCluster c fun p => { p with held := true, cooledAt := some 0 }) basic with
        loopctl := 0xF, clock := 2 ^ 20 }
     8 ≤ ((List.range 80).filter fun c => (s.clusterAt c).held).length ∧ (s.clusterAt 8).held = false ∧ (s.clusterAt 0).held = true ∧
       (s.clusterAt 0).cooledAt = some 0 ∧ 0 + 2 ^ 20 ≤ s.clock ∧ s.queued = [] ∧ basic.clock < 0 + 2 ^ 20) ∧
    { basic with lifeRecent := basic.lifeRecent.set 0 5 }.lifeRecent.find? 0 = some 5 ∧
    basic.clock < basic.lifeDue ∧ basic.lifeDue ≤ { basic with clock := 750000000000 }.clock ∧
    basic.scrubPeriod.toNat ≤ ({ basic with scrubHours := 7 }.scrubHours + 1) * 3600 ∧ (basic.scrubHours + 1) * 3600 < basic.scrubPeriod.toNat := by
  decide +kernel

/-- The digest of "abc" as FIPS 180-4 gives it: its first and last doublewords. -/
theorem test_sha512 : (sha512 [0x61, 0x62, 0x63]).take 8 = [0xDD, 0xAF, 0x35, 0xA1, 0x93, 0x61, 0x7A, 0xBA] ∧
    (sha512 [0x61, 0x62, 0x63]).drop 56 = [0x2A, 0x9A, 0xC9, 0x4F, 0xA5, 0x4C, 0xA4, 0x9F] := by decide +kernel

/-- A step that goes on, from a state whose memory is in canonical form. -/
def goesOn (s : State) : Bool :=
  match step s with
  | .next _ => true
  | _ => false
theorem witness_MemoryStaysCanonical : (State.reset.withFetchWord 32 0).mem.wf = true ∧ goesOn (State.reset.withFetchWord 32 0) = true := by
  decide +kernel

/-! ## Completion -/

/-- A gang of one on core 0; a thread with another of its launch in slot 0. -/
def ganging : State := withLaunch (module { thread with gang := true })
def neighbours : State := (module thread).setSlot 0 0 thread

theorem witness_Completions_threads :
    ((∀ i ∈ [Instr.lres 5 1 0 3, .sres 5 1 2 0 2, .amo 5 1 2 8 1, .cas 5 1 2 0 0], basic.runs i = true) ∧
      releaseHolds basic 0 1 = true ∧ basic.me.reservation = .free ∧ (8 : BitVec 4).toNat ≤ 8) ∧
    LocalAt basic (basic.me.readG 1) 8 64 true true ∧ LocalAt basic (basic.me.readG 1) 8 64 false true ∧
    (let s := neighbours
     s.runs (.send 5 0 2) = true ∧ s.me.reservation = .free ∧ releaseHolds s 0 1 = true ∧ foldReg s 0 1 = none ∧ s.messages = [] ∧
       (s.me.readG 0).toNat < 2 ^ 14 ∧ bitsOf (s.me.readG 0) 6 0 ≤ 79 ∧ s.inService 0 = true ∧ (s.slotOf 0 0).lid = s.me.lid ∧
       (s.slotOf 0 0).status = .runnable ∧ (s.slotOf 0 0).park = .free ∧ (s.coreOf 0).deferred = [] ∧ (s.coreOf 0).pushers = [] ∧
       (s.coreOf 0).poppers = [] ∧ (s.coreOf 0).arriving = [] ∧ (s.slotOf 0 0).q0.length < 16) ∧
    (let s := ganging
     s.runs (.bar 5 0) = true ∧ s.me.reservation = .free ∧ barrierReady s 0 1 0 = true ∧ findPlaced s s.me.lid = some ⟨launch, 0, 0⟩ ∧
       0 ∈ Placed.cores ⟨launch, 0, 0⟩ ∧ s.me.gang = true ∧
       (let u := s.setMe { s.me.noting (.bar 5 0) with status := .memoryWait, wait := .barrier 0 5 }
        ∀ x ∈ ((Placed.cores ⟨launch, 0, 0⟩).filter fun c => c == 0).flatMap fun c => coreMembers u 0 c,
          x.reply = none ∧ x.wait = .barrier 0 5)) ∧
    (∀ i ∈ [Instr.vredsum 1 2 4 31 5, .vredmax 1 2 4 0 1, .vredmin 1 2 4 31 2], masked.runs i = true) := by
  refine ⟨by decide +kernel, ?_, ?_, by decide +kernel⟩ <;> simp only [LocalAt] <;> decide +kernel

theorem witness_Completions_tile :
    ((shaping 0x8080).runs (.mshape 5 1) = true ∧ bitsOf (0x8080 : Word) 7 0 ≤ 128 ∧ bitsOf (0x8080 : Word) 15 8 ≠ 0 ∧
      bitsOf (0x8080 : Word) 15 8 ≤ 128 ∧ bitsOf (0x8080 : Word) 63 16 = 0 ∧ ((shaping 0x8080).coreOf 0).tileQ = []) ∧
    (let s := drainingAt 64
     s.runs .drain = true ∧ s.me.handler = .drain 0 ∧
       (s.coreOf 0).tileQ.find? (fun x => x.owner == .slot 1) = some (command (mmaWord 0)) ∧ bitsOf s.me.fmt 9 8 ≠ 3 ∧
       (bitsOf (s.me.readG 25) 20 0 + slotRebase s 0 1) % 4 = 0 ∧ bitsOf (s.me.readG 25) 20 0 + slotRebase s 0 1 + 4 * 16 ≤ 2 ^ 21) ∧
    (let s := tiling atMma (mmaWord 0) 16
     let x := { command (mmaWord 0) with count := 16 }
     (s.coreOf 0).tileQ = [x] ∧ frozen s 0 x = false ∧ (bitsOf x.word 223 208 + 127) / 128 ≤ x.stage ∧ (s.slotOf 0 1).pair = .alone) ∧
    (let s := tiling ringsFull (mmaWord 1) 0
     (s.coreOf 0).tileQ = [command (mmaWord 1)] ∧ (command (mmaWord 1)).stage < (bitsOf (mmaWord 1) 223 208 + 127) / 128 ∧
       ∀ q ∈ [bitsOf (mmaWord 1) 191 189, bitsOf (mmaWord 1) 188 186],
         ringFull (vget (s.slotOf 0 1).ring 0 q) (ringHead (vget (s.slotOf 0 1).ring 0 q)) = true) := by decide +kernel

end Sys2Proof.Tests
end

section

namespace Sys2Proof.Machine

/-! ## The canonical form of memory is kept

Memory is written by `State.store`, `flushBurst`, the clearing of a scratchpad and the two resets. What is built of these keeps the
form: of each function of the model that leads to a state, or to a value that carries one, a lemma says so, named after the
function. -/

/-- Memory is in canonical form. -/
def State.Canonical (s : State) : Prop := s.mem.wf = true

/-- The state of an outcome, if it has one, is canonical. -/
inductive Leads : Host.Outcome State Fault Refusal → Prop
  | next {s : State} (h : s.Canonical) : Leads (.next s)
  | fault {r : Fault} : Leads (.fault r)
  | refused {r : Refusal} : Leads (.refused r)

inductive Flow.Canonical {α : Type} : Flow α → Prop
  | go {a : α} {s : State} (h : s.Canonical) : Flow.Canonical (.go a s)
  | stop {s : State} (h : s.Canonical) : Flow.Canonical (.stop s)

inductive Turn.Canonical : Turn → Prop
  | run {i : Instr} {s : State} (h : s.Canonical) : Turn.Canonical (.run i s)
  | ended {s : State} (h : s.Canonical) : Turn.Canonical (.ended s)

inductive Walked.Canonical : Walked → Prop
  | leaf {e : TlbEntry} {s : State} (h : s.Canonical) : Walked.Canonical (.leaf e s)
  | failed {kind level : Nat} {s : State} (h : s.Canonical) : Walked.Canonical (.failed kind level s)
  | snooped {s : State} (h : s.Canonical) : Walked.Canonical (.snooped s)

inductive EngDone.Canonical {α : Type} : EngDone α → Prop
  | ok {a : α} {s : State} (h : s.Canonical) : EngDone.Canonical (.ok a s)
  | range {s : State} (h : s.Canonical) : EngDone.Canonical (.range s)
  | held {key : BitVec 32} {s : State} (h : s.Canonical) : EngDone.Canonical (.held key s)
  | wait {s : State} (h : s.Canonical) : EngDone.Canonical (.wait s)

inductive Block.Canonical : Block → Prop
  | bad {c : Cause} : Block.Canonical (.bad c)
  | miss {va : Nat} : Block.Canonical (.miss va)
  | busy {policy : Policy} {pa : Nat} {s : State} (h : s.Canonical) : Block.Canonical (.busy policy pa s)
  | asked {p : Poll} {s : State} (h : s.Canonical) : Block.Canonical (.asked p s)
  | ok {v : Nat} {poison : Bool} {s : State} (h : s.Canonical) : Block.Canonical (.ok v poison s)

inductive SysWrite.Canonical : SysWrite → Prop
  | illegal : SysWrite.Canonical .illegal
  | now {s : State} (h : s.Canonical) : SysWrite.Canonical (.now s)
  | unit : SysWrite.Canonical .unit

section
variable {s t : State} {α β : Type} {p : Prop} [Decidable p]

/-- The form is a matter of memory alone: an update of other parts of the state keeps it. -/
theorem State.Canonical.update {poison entryMarks cores clusters pchs homes nextLid queued placed ready bursts queues watches
    flights messages spawns unitReqs evnote landReqs transits crossings granted images errWords history outstanding taskRetries
    colls memberships apertures ports peerReqs peerData peerCalls heldRanks events eventsLost mgmt mgmtWaiting mgmtLatch hlqstat
    hlqReqs ecbase ecsize ectail echead ecval envCalls pageReqs atsInvs barData cxlData cxlPoison hostLines snoops loopctl
    scrubPeriod scrubDue quietHours scrubHours corrected life lifeRecent lifeDue raisedSecurity session bringing booting core
    slot issuing going agenda turn clock wants free ident}
    (h : s.Canonical) :
    (⟨s.mem, poison, entryMarks, cores, clusters, pchs, homes, nextLid, queued, placed, ready, bursts, queues, watches, flights,
      messages, spawns, unitReqs, evnote, landReqs, transits, crossings, granted, images, errWords, history, outstanding,
      taskRetries, colls, memberships, apertures, ports, peerReqs, peerData, peerCalls, heldRanks, events, eventsLost, mgmt,
      mgmtWaiting, mgmtLatch, hlqstat, hlqReqs, ecbase, ecsize, ectail, echead, ecval, envCalls, pageReqs, atsInvs, barData,
      cxlData, cxlPoison, hostLines, snoops, loopctl, scrubPeriod, scrubDue, quietHours, scrubHours, corrected, life,
      lifeRecent, lifeDue, raisedSecurity, session, bringing, booting, core, slot, issuing, going, agenda, turn, clock, wants,
      free, ident⟩ : State).Canonical := h

/-! Of two branches and of the elements of a list. -/

theorem State.Canonical.ite (hs : s.Canonical) (ht : t.Canonical) : (if p then s else t).Canonical := by split <;> assumption
theorem Leads.ite {a b : Host.Outcome State Fault Refusal} (ha : Leads a) (hb : Leads b) : Leads (if p then a else b) := by
  split <;> assumption
theorem Flow.Canonical.ite {a b : Flow α} (ha : a.Canonical) (hb : b.Canonical) : (if p then a else b).Canonical := by
  split <;> assumption
theorem Turn.Canonical.ite {a b : Turn} (ha : a.Canonical) (hb : b.Canonical) : (if p then a else b).Canonical := by
  split <;> assumption
theorem Walked.Canonical.ite {a b : Walked} (ha : a.Canonical) (hb : b.Canonical) : (if p then a else b).Canonical := by
  split <;> assumption
theorem Block.Canonical.ite {a b : Block} (ha : a.Canonical) (hb : b.Canonical) : (if p then a else b).Canonical := by
  split <;> assumption
theorem EngDone.Canonical.ite {a b : EngDone α} (ha : a.Canonical) (hb : b.Canonical) : (if p then a else b).Canonical := by
  split <;> assumption
theorem SysWrite.Canonical.ite {a b : SysWrite} (ha : a.Canonical) (hb : b.Canonical) : (if p then a else b).Canonical := by
  split <;> assumption
theorem Flow.Canonical.dite {f : p → Flow α} {g : ¬ p → Flow α} (hf : ∀ x, (f x).Canonical) (hg : ∀ x, (g x).Canonical) :
    (dite p f g).Canonical := by
  split <;> simp [hf, hg]

theorem State.Canonical.ite_snd {a b : α} (hs : s.Canonical) (ht : t.Canonical) :
    (if p then (a, s) else (b, t)).2.Canonical := by split <;> assumption
theorem State.Canonical.ite_fst {a b : α} (hs : s.Canonical) (ht : t.Canonical) :
    (if p then (s, a) else (t, b)).1.Canonical := by split <;> assumption
theorem State.Canonical.ite_third {a b : α} {c d : β} (hs : s.Canonical) (ht : t.Canonical) :
    (if p then (a, c, s) else (b, d, t)).2.2.Canonical := by split <;> assumption

theorem State.Canonical.foldl {f : State → α → State} {l : List α} (hf : ∀ s a, s.Canonical → (f s a).Canonical)
    (h : s.Canonical) : (l.foldl f s).Canonical := by
  induction l generalizing s with
  | nil => exact h
  | cons a l ih => exact ih (hf s a h)

/-- A fold that carries the state in a part of its value. -/
theorem State.Canonical.foldl_on {f : β → α → β} {l : List α} {b : β} (part : β → State)
    (hf : ∀ b a, (part b).Canonical → (part (f b a)).Canonical) (h : (part b).Canonical) : (part (l.foldl f b)).Canonical := by
  induction l generalizing b with
  | nil => exact h
  | cons a l ih => exact ih (hf b a h)

theorem State.Canonical.foldl_pair {f : β × State → α → β × State} {l : List α} {q : β × State}
    (hf : ∀ q a, q.2.Canonical → ∃ b t, f q a = (b, t) ∧ t.Canonical) (h : q.2.Canonical) : (l.foldl f q).2.Canonical := by
  induction l generalizing q with
  | nil => exact h
  | cons a l ih =>
    obtain ⟨b, t, e, ht⟩ := hf q a h
    exact ih (q := f q a) (e ▸ ht)

theorem Flow.Canonical.bind {f : Flow α} {k : α → State → Flow β} (hf : f.Canonical)
    (hk : ∀ a s, s.Canonical → (k a s).Canonical) : (f.bind k).Canonical := by
  cases hf with
  | go h => exact hk _ _ h
  | stop h => exact .stop h

/-! The state of a pattern that a canonical value has matched. -/

theorem State.Canonical.of_part {b c : β} (part : β → State) (e : b = c) (h : (part b).Canonical) : (part c).Canonical := by
  subst e; exact h
theorem State.Canonical.of_snd {p : α × State} {a : α} (e : p = (a, s)) (h : p.2.Canonical) : s.Canonical := by subst e; exact h
theorem State.Canonical.of_third {p : α × β × State} {a : α} {b : β} (e : p = (a, b, s)) (h : p.2.2.Canonical) : s.Canonical := by
  subst e; exact h
theorem State.Canonical.of_ite_some {a b : Option State} (e : (if p then a else b) = some s) (ha : a = some s → s.Canonical)
    (hb : b = some s → s.Canonical) : s.Canonical := by
  split at e
  exacts [ha e, hb e]
theorem State.Canonical.of_next {r : Host.Outcome State Fault Refusal} (e : r = .next s) (h : Leads r) : s.Canonical := by
  subst e; cases h; assumption
theorem State.Canonical.of_go {f : Flow α} {a : α} (e : f = .go a s) (h : f.Canonical) : s.Canonical := by
  subst e; cases h; assumption
theorem State.Canonical.of_stop {f : Flow α} (e : f = .stop s) (h : f.Canonical) : s.Canonical := by
  subst e; cases h; assumption
theorem State.Canonical.of_run {u : Turn} {i : Instr} (e : u = .run i s) (h : u.Canonical) : s.Canonical := by
  subst e; cases h; assumption
theorem State.Canonical.of_ended {u : Turn} (e : u = .ended s) (h : u.Canonical) : s.Canonical := by
  subst e; cases h; assumption
theorem State.Canonical.of_leaf {w : Walked} {x : TlbEntry} (e : w = .leaf x s) (h : w.Canonical) : s.Canonical := by
  subst e; cases h; assumption
theorem State.Canonical.of_failed {w : Walked} {k l : Nat} (e : w = .failed k l s) (h : w.Canonical) : s.Canonical := by
  subst e; cases h; assumption
theorem State.Canonical.of_snooped {w : Walked} (e : w = .snooped s) (h : w.Canonical) : s.Canonical := by
  subst e; cases h; assumption
theorem State.Canonical.of_ok {d : EngDone α} {a : α} (e : d = .ok a s) (h : d.Canonical) : s.Canonical := by
  subst e; cases h; assumption
theorem State.Canonical.of_range {d : EngDone α} (e : d = .range s) (h : d.Canonical) : s.Canonical := by
  subst e; cases h; assumption
theorem State.Canonical.of_held {d : EngDone α} {k : BitVec 32} (e : d = .held k s) (h : d.Canonical) : s.Canonical := by
  subst e; cases h; assumption
theorem State.Canonical.of_wait {d : EngDone α} (e : d = .wait s) (h : d.Canonical) : s.Canonical := by
  subst e; cases h; assumption
theorem State.Canonical.of_busy {b : Block} {pol : Policy} {pa : Nat} (e : b = .busy pol pa s) (h : b.Canonical) : s.Canonical := by
  subst e; cases h; assumption
theorem State.Canonical.of_asked {b : Block} {p : Poll} (e : b = .asked p s) (h : b.Canonical) : s.Canonical := by
  subst e; cases h; assumption
theorem State.Canonical.of_read {b : Block} {v : Nat} {po : Bool} (e : b = .ok v po s) (h : b.Canonical) : s.Canonical := by
  subst e; cases h; assumption
theorem State.Canonical.of_now {w : SysWrite} (e : w = .now s) (h : w.Canonical) : s.Canonical := by
  subst e; cases h; assumption
end

/-! What writes memory. -/

theorem State.Canonical.store {s : State} {a n v : Nat} (h : s.Canonical) : (s.store a n v).Canonical := State.store_wf h a n v
theorem State.Canonical.flushBurst {s : State} {block : Nat} (h : s.Canonical) : (flushBurst s block).Canonical := flushBurst_wf h block

/-! ### Parts of the state -/

section
variable {s : State} {c k : Nat} {v : Word} {poison : Bool}

theorem State.Canonical.setCore {k : Core} (h : s.Canonical) : (s.setCore c k).Canonical := .update h
theorem State.Canonical.modCore {f : Core → Core} (h : s.Canonical) : (s.modCore c f).Canonical := .setCore h
theorem State.Canonical.setCluster {k : Cluster} (h : s.Canonical) : (s.setCluster c k).Canonical := .update h
theorem State.Canonical.modCluster {f : Cluster → Cluster} (h : s.Canonical) : (s.modCluster c f).Canonical := .setCluster h
theorem State.Canonical.setPch {stack pch : Nat} {p : Pch} (h : s.Canonical) : (s.setPch stack pch p).Canonical := .update h
theorem State.Canonical.setSlot {x : Slot} (h : s.Canonical) : (s.setSlot c k x).Canonical := .modCore h
theorem State.Canonical.modSlot {f : Slot → Slot} (h : s.Canonical) : (s.modSlot c k f).Canonical := .setSlot h
theorem State.Canonical.modMe {f : Slot → Slot} (h : s.Canonical) : (s.modMe f).Canonical := .modSlot h
theorem State.Canonical.setGroup {cl g : Nat} {x : Group} (h : s.Canonical) : (s.setGroup cl g x).Canonical := .modCluster h
theorem State.Canonical.draw (h : s.Canonical) : s.draw.2.Canonical := .update h
theorem State.Canonical.fresh (h : s.Canonical) : s.fresh.2.Canonical := .update h
theorem State.Canonical.setErr {lid : BitVec 32} {bit : Nat} (h : s.Canonical) : (setErr s lid bit).Canonical := .update h
theorem State.Canonical.consumePoison (h : s.Canonical) : (consumePoison s c k).Canonical := .setErr (.modSlot h)
theorem State.Canonical.consumeIf {p : Bool} (h : s.Canonical) : (consumeIf s c k p).Canonical := .ite (.consumePoison h) h
theorem State.Canonical.countLife {idx n : Nat} (h : s.Canonical) : (countLife s idx n).Canonical := .update h
theorem State.Canonical.deviceMessage {dest slot : Nat} (h : s.Canonical) : (deviceMessage s dest slot v).Canonical := .update h

theorem State.Canonical.pushEvent {kind core part addr : Nat} {lid : BitVec 32} {detail : Nat} (h : s.Canonical) :
    (pushEvent s kind core part addr lid detail).Canonical :=
  .ite (.ite (.deviceMessage (.update (.countLife h))) (.update (.countLife h))) (.update (.countLife h))

theorem State.Canonical.postReply (h : s.Canonical) : (postReply s c k v poison).Canonical := by
  unfold Machine.postReply
  split
  · exact .modSlot h
  · exact h

theorem State.Canonical.laneReply {ln : Nat} (h : s.Canonical) : (laneReply s c k ln v poison).Canonical := .modSlot h

theorem State.Canonical.keepAnswer {f : Flight} (h : s.Canonical) : (keepAnswer s f v poison).Canonical := by
  unfold Machine.keepAnswer
  split
  · exact .ite (.update h) h
  · exact h

theorem State.Canonical.flightAnswer {f : Flight} (h : s.Canonical) : (f.answer s v poison).Canonical := by
  unfold Machine.Flight.answer
  split
  · exact .keepAnswer h
  · exact .postReply h
  · exact .laneReply h
end

/-! ### Places of accesses -/

section
variable {s : State} {n pa cl v c g off a line block : Nat} {poison : Bool} {pol : Policy} {owner : Option (Nat × Nat)}
  {f : Flight}

theorem State.Canonical.widen (h : s.Canonical) : (s.widen a).Canonical := .update h
theorem State.Canonical.mark (h : s.Canonical) : (s.mark a n).Canonical := .update (.widen h)

theorem State.Canonical.engineStore (h : s.Canonical) : (s.engineStore a n v poison).Canonical :=
  .ite (.mark (.store h)) (.update (.store h))

theorem State.Canonical.portWrite (h : s.Canonical) : (portWrite s pa n v owner).Canonical := by
  refine .ite (.store h) ?_
  dsimp only
  split
  · exact .ite (.update h) (.update (.flushBurst h))
  · exact .update h

theorem State.Canonical.portRead (h : s.Canonical) : (portRead s pa n).2.2.Canonical := .ite h (.flushBurst h)

theorem State.Canonical.putLine {l : HomeLine} (h : s.Canonical) : (putLine s line l).Canonical :=
  .engineStore (.ite h (.flushBurst h))

theorem State.Canonical.evictLine (h : s.Canonical) : (evictLine s line).2.Canonical := by
  unfold Machine.evictLine
  split
  · exact h
  · exact .ite_snd (.putLine (.update h)) (.update h)

theorem State.Canonical.cleanLine (h : s.Canonical) : (cleanLine s line).Canonical := by
  unfold Machine.cleanLine
  split
  · exact .putLine (.update h)
  · exact h

theorem State.Canonical.makeRoom (h : s.Canonical) : (makeRoom s pa).Canonical := .ite (.evictLine (.draw h)) h

theorem State.Canonical.keepLine {l : HomeLine} (h : s.Canonical) : (keepLine s pa l).Canonical :=
  .ite (.update h) (.ite (.update (.makeRoom h)) (.ite (.putLine h) h))

theorem State.Canonical.homeLine {keep : Bool} (h : s.Canonical) : (homeLine s pa keep).2.Canonical := by
  unfold Machine.homeLine
  split
  · exact h
  · exact .ite (.keepLine (.portRead h)) (.portRead h)

theorem State.Canonical.homeLoad (h : s.Canonical) : (homeLoad s pol pa n).2.2.Canonical := by
  unfold Machine.homeLoad
  split
  · exact .portRead h
  · exact .homeLine h
  · exact .homeLine h

theorem State.Canonical.homeStore (h : s.Canonical) : (homeStore s pol pa n v owner).Canonical := by
  unfold Machine.homeStore
  split
  · exact .portWrite h
  · exact .keepLine (.homeLine h)
  · split
    · exact .update h
    · exact .portWrite h

theorem State.Canonical.combineView {load : State → Nat × Bool × State} (h : s.Canonical)
    (hload : ∀ (t : State), t.Canonical → (load t).2.2.Canonical) : (combineView s cl pa n load).2.2.Canonical := by
  unfold Machine.combineView
  split
  · exact hload _ h
  · exact .ite_third h (hload _ h)

theorem State.Canonical.combineLoad (h : s.Canonical) : (combineLoad s cl pa n).2.2.Canonical :=
  .combineView h (fun _ h => .homeLoad h)

theorem State.Canonical.combineStore (h : s.Canonical) : (combineStore s cl pa n v owner poison).Canonical := .modCluster h

theorem State.Canonical.arrayStore (h : s.Canonical) : (arrayStore s pa n v poison).Canonical :=
  .engineStore (.ite h (.flushBurst h))

theorem State.Canonical.burstStore (h : s.Canonical) : (burstStore s cl pol pa n v poison).Canonical := by
  unfold Machine.burstStore
  split
  · dsimp only
    split
    · exact .combineStore (.widen h)
    · exact .arrayStore (.widen h)
    · exact .arrayStore (.widen h)
    · exact .update (.widen h)
  · dsimp only
    split
    · exact .combineStore h
    · exact .arrayStore h
    · exact .arrayStore h
    · exact .update h

theorem State.Canonical.resultStore (h : s.Canonical) : (resultStore s cl pol pa n v poison).Canonical := by
  unfold Machine.resultStore
  split
  · exact .keepLine (.homeLine (.ite (.widen h) h))
  · exact .burstStore h

theorem State.Canonical.dirtyLoad (h : s.Canonical) : (dirtyLoad s pa n).2.2.Canonical := by
  unfold Machine.dirtyLoad
  split
  · split
    · exact h
    · exact .portRead h
  · exact .portRead h

theorem State.Canonical.recordStore (h : s.Canonical) : (recordStore s cl pol pa n v poison).Canonical := .resultStore h

theorem State.Canonical.burstLoad (h : s.Canonical) : (burstLoad s cl pol pa n).2.2.Canonical := by
  unfold Machine.burstLoad
  split
  · exact .portRead h
  · exact .combineView h (fun _ h => .dirtyLoad h)
  · exact .dirtyLoad h

theorem State.Canonical.flushWhere {p : Nat → Bool} (h : s.Canonical) : (flushWhere s p).Canonical :=
  .foldl (fun _ _ h => .ite (.flushBurst h) h) h

theorem State.Canonical.evictWhere {p : Nat → Bool} (h : s.Canonical) : (evictWhere s p).2.Canonical := by
  refine .foldl_on Prod.snd ?_ (.flushWhere h)
  intro _ _ h
  split
  · exact .evictLine h
  · exact h

theorem State.Canonical.snoopBlocked (h : s.Canonical) : (snoopBlocked s pa n).2.Canonical := by
  unfold Machine.snoopBlocked
  dsimp only
  split
  · exact .update h
  · exact h

theorem State.Canonical.trainPredictor {k h : Nat} (hs : s.Canonical) : (trainPredictor s c k h).Canonical :=
  .ite (.modCore hs) hs

theorem State.Canonical.spoilPlace (h : s.Canonical) : (spoilPlace s cl pol pa n).Canonical := by
  unfold Machine.spoilPlace
  split
  · exact .modCluster h
  · exact .mark h
  · exact .mark h
  · exact .update (.widen h)

theorem State.Canonical.homeAnswer {v : Word} (h : s.Canonical) : (f.homeAnswer s pa pol v poison).Canonical :=
  .ite (.trainPredictor (.flightAnswer (.ite (.spoilPlace h) h))) (.flightAnswer (.ite (.spoilPlace h) h))

theorem State.Canonical.granuleValue (h : s.Canonical) : (granuleValue s g).2.2.Canonical := .homeLoad h
theorem State.Canonical.arrayGranule (h : s.Canonical) : (arrayGranule s g).2.2.Canonical := .portRead h

theorem State.Canonical.endWatches {p : Watch → Bool} {value : State → Watch → Nat × Bool × State} (h : s.Canonical)
    (hvalue : ∀ (t : State) (a : Watch), t.Canonical → (value t a).2.2.Canonical) : (endWatches s p value).Canonical :=
  .foldl (fun _ _ h => .ite (.trainPredictor (.postReply (hvalue _ _ h))) (.postReply (hvalue _ _ h))) (.update h)

theorem State.Canonical.wakeGlobal {around : Bool} (h : s.Canonical) : (wakeGlobal s g around).Canonical := by
  refine .endWatches h ?_
  intro _ _ h
  split
  · exact .arrayGranule h
  · exact .granuleValue h

theorem State.Canonical.grantOne (h : s.Canonical) : (grantOne s g pol f).2.Canonical := by
  unfold Machine.grantOne
  split
  · split
    · exact .homeAnswer (.modSlot (.homeLoad h))
    · refine .homeAnswer ?_
      split
      · exact .wakeGlobal (.homeStore (.homeLoad h))
      · exact .homeLoad h
  · split
    · exact .homeAnswer (.modSlot (.homeLoad h))
    · refine .homeAnswer ?_
      split
      · exact .wakeGlobal (.homeStore (.homeLoad h))
      · exact .homeLoad h

theorem State.Canonical.putQueue {q : Queue} (h : s.Canonical) : (putQueue s q).Canonical := .ite (.update h) (.update h)

theorem State.Canonical.homeWaits (h : s.Canonical) : (homeWaits s pol pa f).2.Canonical := by
  unfold Machine.homeWaits
  split
  · exact h
  · split
    · exact h
    · exact .snoopBlocked h

theorem State.Canonical.serveWaiters {y : List Flight} (h : s.Canonical) : (serveWaiters g y s).Canonical := by
  induction y generalizing s with
  | nil => exact h
  | cons f rest ih =>
    unfold Machine.serveWaiters
    dsimp only
    split
    next e => exact .putQueue (.of_snd e (.homeWaits h))
    next e =>
      have h' := State.Canonical.of_snd e (.homeWaits h)
      exact .ite (.putQueue (.grantOne h')) (ih (.grantOne h'))

theorem State.Canonical.passGranule (h : s.Canonical) : (passGranule s g).Canonical := by
  unfold Machine.passGranule
  split
  · exact h
  · refine .serveWaiters ?_
    split
    · exact .modSlot h
    · exact h

theorem State.Canonical.endReservation {k : Nat} (h : s.Canonical) : (endReservation s c k).Canonical := by
  unfold Machine.endReservation
  split
  · exact h
  · exact .modSlot h
  · exact .passGranule (.modSlot h)

theorem State.Canonical.noteGlobal {around : Bool} (h : s.Canonical) : (noteGlobal s pa n around).Canonical :=
  .foldl (fun _ _ h => .wakeGlobal (.ite (.passGranule h) h)) h

theorem State.Canonical.padGranule {w : Watch} (h : s.Canonical) : (padGranule s w).2.2.Canonical := h
theorem State.Canonical.bankTurnAt (h : s.Canonical) : (bankTurnAt s c off n).Canonical := .modCore h
theorem State.Canonical.clearMonitor {u : Nat × Nat} (h : s.Canonical) : (clearMonitor off n s u).Canonical := .modSlot h

theorem State.Canonical.notePad (h : s.Canonical) : (notePad s c off n).Canonical :=
  .endWatches (.foldl (fun _ _ h => .clearMonitor h) h) (fun _ _ h => .padGranule h)

theorem State.Canonical.padStore (h : s.Canonical) : (padStore s c off n v).Canonical := .notePad (.store h)

theorem State.Canonical.padEngineStore (h : s.Canonical) : (padEngineStore s c off n v poison).Canonical :=
  .notePad (.engineStore h)

theorem State.Canonical.padRmwStore (h : s.Canonical) : (padRmwStore s c off n v poison).Canonical :=
  .ite (.mark (.padStore h)) (.padStore h)

theorem State.Canonical.writeOutByte {x : Host.Cell} (h : s.Canonical) : (writeOutByte s x).Canonical := .homeStore h

theorem State.Canonical.writeOutMark (h : s.Canonical) : (writeOutMark poison s g).Canonical := by
  unfold Machine.writeOutMark
  split
  · exact .update h
  · exact .ite (.mark h) (.update h)

theorem State.Canonical.passOwners {e : CombineEntry} (h : s.Canonical) : (passOwners s e).Canonical := by
  refine .foldl ?_ (.update h)
  intro _ _ h
  split
  · exact .ite (.update h) h
  · exact h

theorem State.Canonical.combineOut (h : s.Canonical) : (combineOut s cl block).Canonical := by
  unfold Machine.combineOut
  split
  · exact h
  · exact .foldl (fun _ _ h => .noteGlobal h) (.passOwners (.ite (.foldl (fun _ _ h => .writeOutByte h) (.modCluster h)) (.foldl
        (fun _ _ h => .writeOutMark h) (.foldl (fun _ _ h => .writeOutMark h) (.flushBurst (.foldl (fun _ _ h => .writeOutByte h)
        (.modCluster h)))))))

theorem State.Canonical.combineSnoop (h : s.Canonical) : (combineSnoop s cl block).2.Canonical := by
  unfold Machine.combineSnoop
  split
  · exact h
  · exact .foldl_on Prod.snd (fun _ _ h => .snoopBlocked h) h

theorem State.Canonical.writeOut (h : s.Canonical) : (writeOut s cl block).Canonical := by
  refine .ite h ?_
  split
  · next e => exact .of_snd e (.combineSnoop h)
  · next e => exact .combineOut (.of_snd e (.combineSnoop h))

theorem State.Canonical.writeOutAll (h : s.Canonical) : (writeOutAll s cl).Canonical := .foldl (fun _ _ h => .writeOut h) h
theorem State.Canonical.setBufN {b : Nat} (h : s.Canonical) : (setBufN s c b off n v).Canonical := .store h
theorem State.Canonical.installTlb {e : TlbEntry} (h : s.Canonical) : (installTlb s cl e).Canonical := .modCluster h
end

/-! ### Rotation, ports and traps -/

section
variable {s : State} {c k port : Nat} {r : TrapRec} {cause : Cause}

theorem State.Canonical.leaveRotation {status : Status} {w : Wait} (h : s.Canonical) : (leaveRotation s c k status w).Canonical :=
  .modSlot h

theorem State.Canonical.pollFor {status : Status} {p : Poll} (h : s.Canonical) : (pollFor s status p).Canonical :=
  .leaveRotation h

theorem State.Canonical.makeRunnable (h : s.Canonical) : (makeRunnable s c k).Canonical := .modSlot h
theorem State.Canonical.reissue (h : s.Canonical) : (reissue s c k).Canonical := .modSlot h
theorem State.Canonical.goOn (h : s.Canonical) : (goOn s c k).Canonical := .update h
theorem State.Canonical.takeUp (h : s.Canonical) : (takeUp s c k).Canonical := .update (.modSlot h)
theorem State.Canonical.haltEnds (h : s.Canonical) : (haltEnds s c k).Canonical := .ite (.endReservation h) h
theorem State.Canonical.retire {pc : Word} (h : s.Canonical) : (retire s pc).Canonical := .haltEnds (.modMe h)

theorem State.Canonical.unparkOne (h : s.Canonical) : (unparkOne s c k).Canonical := by
  unfold Machine.unparkOne
  split
  · exact .modSlot h
  · exact .makeRunnable (.modSlot h)
  · exact .makeRunnable h

theorem State.Canonical.unpark (h : s.Canonical) : (unpark s c k).Canonical := .foldl (fun _ _ h => .ite (.unparkOne h) h) h

theorem State.Canonical.portSet {l : List Elem} (h : s.Canonical) : (portSet s c k port l).Canonical :=
  .ite (.modSlot h) (.ite (.modCore h) (.ite (.modCore h) (.modSlot h)))

theorem State.Canonical.receive {e : Elem} (h : s.Canonical) : (receive s c k e).Canonical := .consumeIf (.ite (.modSlot h) h)

theorem State.Canonical.wakePusher (h : s.Canonical) : (wakePusher s c k port).Canonical := by
  refine .ite h ?_
  split
  · exact .ite (.modSlot (.modSlot h)) (.makeRunnable (.modSlot h))
  · exact h

theorem State.Canonical.dropWaits (h : s.Canonical) : (dropWaits s c k).Canonical :=
  .foldl (fun _ _ h => .wakePusher h) (.modCore (.modCore h))

theorem State.Canonical.portArrive {e : Elem} (h : s.Canonical) : (portArrive s c k port e).Canonical := by
  unfold Machine.portArrive
  split
  · exact .ite (.receive (.modSlot (.modCore h))) (.makeRunnable (.receive (.modSlot (.modCore h))))
  · dsimp only
    split
    · exact .ite (.unpark (.portSet h)) (.portSet h)
    · exact .portSet h

theorem State.Canonical.landPushes {p : Arriving → Bool} (h : s.Canonical) : (landPushes s c p).Canonical :=
  .ite h (.foldl (fun _ _ h => .portArrive h) (.modCore h))

theorem State.Canonical.wakePushers (h : s.Canonical) : (wakePushers s c k port).Canonical :=
  .foldl (fun _ _ h => .wakePusher h) h

theorem State.Canonical.mgmtEnqueue (h : s.Canonical) : (mgmtEnqueue s r).Canonical := .ite (.update h) (.update h)

theorem State.Canonical.trapEnqueue (h : s.Canonical) : (trapEnqueue s c r).Canonical := by
  unfold Machine.trapEnqueue
  dsimp only
  split
  · exact .unpark (.modCore h)
  · exact .modCore h

theorem State.Canonical.reportTrap (h : s.Canonical) : (reportTrap s c k cause r).Canonical := by
  unfold Machine.reportTrap
  split
  · exact .update (.modSlot h)
  · exact .trapEnqueue h

theorem State.Canonical.stopTrapped (h : s.Canonical) : (stopTrapped s c k).Canonical :=
  .leaveRotation (.modSlot (.endReservation h))

theorem State.Canonical.pairReport (h : s.Canonical) : (pairReport s c k).Canonical :=
  .setErr (.pushEvent (.modSlot (.leaveRotation (.endReservation (.modSlot (.leaveRotation (.endReservation h)))))))

theorem State.Canonical.awaitTrap (h : s.Canonical) : (awaitTrap s c k r).Canonical := .leaveRotation (.modSlot h)

theorem State.Canonical.trapPair (h : s.Canonical) : (trapPair s c k cause r).Canonical :=
  .reportTrap (.stopTrapped (.modSlot (.stopTrapped (.modSlot h))))

theorem State.Canonical.takeTrap {lane code : Nat} {addr : Word} (h : s.Canonical) :
    (takeTrap s c k cause lane code addr).Canonical := by
  refine .ite (.mgmtEnqueue (.stopTrapped h)) (.ite (.reportTrap (.stopTrapped h)) ?_)
  split
  · exact .ite (.trapPair h) (.awaitTrap h)
  · exact .awaitTrap h

theorem State.Canonical.trapHere {addr : Word} {lane code : Nat} (h : s.Canonical) :
    (trapHere s cause addr lane code).Canonical := .takeTrap h

theorem State.Canonical.deliverDeferred (h : s.Canonical) : (deliverDeferred s c k).Canonical :=
  .foldl (fun _ _ h => .ite (.portArrive (.modCore h)) h) h

theorem State.Canonical.placeFreed (h : s.Canonical) : (placeFreed s c k port).Canonical :=
  .ite (.deliverDeferred h) (.wakePusher h)

theorem State.Canonical.returnFromTrap {skip : Bool} (h : s.Canonical) : (returnFromTrap s c k skip).Canonical :=
  .deliverDeferred (.update (.modSlot (.ite (.modSlot h) h)))

theorem State.Canonical.returnLater (h : s.Canonical) : (returnLater s c k).Canonical := .modSlot h

theorem State.Canonical.returnDue (h : s.Canonical) : (returnDue s c k).Canonical := by
  unfold Machine.returnDue
  split
  · exact .ite (.makeRunnable (.deliverDeferred h)) h
  · exact h
end

/-! ### Checks, sources and destinations -/

section
variable {s before : State} {e : Elem} {v pc : Word} {port : Nat} {f : BitVec 6} {result : State → State}

theorem State.Canonical.clearResume (h : s.Canonical) : (clearResume s).Canonical := by
  unfold Machine.clearResume
  split
  · exact .setBufN (.modMe h)
  · exact h

theorem State.Canonical.issue {i : Instr} {body : State → State} (h : s.Canonical)
    (hbody : ∀ (t : State), t.Canonical → (body t).Canonical) : (issue i s body).Canonical := by
  unfold Machine.issue
  dsimp only
  split
  · exact .trapHere (.clearResume (.modMe h))
  · exact hbody _ (.clearResume (.modMe h))

theorem State.Canonical.keepLatch (h : s.Canonical) : (keepLatch s e).Canonical := .modMe h
theorem State.Canonical.handOn (h : s.Canonical) : (handOn s e).Canonical := .ite (.modMe h) h
theorem State.Canonical.keepRead (h : s.Canonical) : (keepRead s e).Canonical := .handOn (.keepLatch h)

theorem Flow.Canonical.takeValue (h : s.Canonical) : (takeValue s).Canonical := by
  unfold Machine.takeValue
  dsimp only
  split
  · exact .go (.receive (.keepRead (.modSlot h)))
  · exact .stop (.pollFor h)

theorem Flow.Canonical.takeMany {n : Nat} (h : s.Canonical) : (takeMany n s).Canonical :=
  .ite (.stop (.pollFor h)) (.go (.consumeIf (.modSlot h)))

theorem State.Canonical.awaitValueRoom (h : s.Canonical) : (awaitValueRoom s).Canonical := .pollFor (.endReservation h)

theorem Flow.Canonical.popPort {cur : Nat} (h : s.Canonical) : (popPort port cur s).Canonical := by
  refine .dite (fun _ => .go h) ?_
  intro _
  refine .ite (.bind (.takeValue h) (fun _ _ h => .go h)) (.ite (.stop (.awaitValueRoom h)) ?_)
  split
  · exact .go (.placeFreed (.receive (.keepRead (.portSet h))))
  · exact .stop (.leaveRotation (.endReservation (.modCore h)))

theorem Flow.Canonical.readField {cur : Nat} (h : s.Canonical) : (readField f cur s).Canonical :=
  .ite (.go h) (.ite (.popPort h) (.ite (.dite (fun _ => .go h) (fun _ => .ite (.bind (.takeValue h) (fun _ _ h => .go h)) (.ite
    (.stop (.awaitValueRoom h)) (.go (.keepRead h))))) (.go h)))

theorem Flow.Canonical.readFrom {y : List (BitVec 6)} {z : Nat} (h : s.Canonical) : (readFrom y z s).Canonical := by
  induction y generalizing z s with
  | nil => exact .go h
  | cons f rest ih => exact .bind (.readField h) fun _ _ h => .bind (ih h) fun _ _ h => .go h

theorem State.Canonical.read2 {a b : BitVec 6} {k : Word → Word → State → State} (h : s.Canonical)
    (hk : ∀ (a b : Word) (t : State), t.Canonical → (k a b t).Canonical) : (read2 a b s k).Canonical := by
  unfold Machine.read2
  split
  · next e => exact hk _ _ _ (.of_go e (.readFrom h))
  · next e => exact .of_go e (.readFrom h)
  · next e => exact .of_stop e (.readFrom h)

theorem State.Canonical.read1 {a : BitVec 6} {k : Word → State → State} (h : s.Canonical)
    (hk : ∀ (a : Word) (t : State), t.Canonical → (k a t).Canonical) : (read1 a s k).Canonical := by
  unfold Machine.read1
  split
  · next e => exact hk _ _ (.of_go e (.readFrom h))
  · next e => exact .of_go e (.readFrom h)
  · next e => exact .of_stop e (.readFrom h)

theorem State.Canonical.outwardBy {keep : Bool} {vals : List Word} {own : State → State} (h : s.Canonical)
    (hown : ∀ (t : State), t.Canonical → (own t).Canonical) (hresult : ∀ (t : State), t.Canonical → (result t).Canonical) :
    (outwardBy keep vals s own result).Canonical :=
  .ite (hown _ h) (.ite (.ite (hown _ h) (hresult _ h)) (.leaveRotation (.modMe (.ite h (.endReservation h)))))

theorem State.Canonical.outwardAccess {y : List Word} {f : State → State} (h : s.Canonical)
    (hresult : ∀ (t : State), t.Canonical → (result t).Canonical) (hf : ∀ (t : State), t.Canonical → (f t).Canonical) :
    (outwardAccess y s result f).Canonical := .outwardBy h hresult hf

theorem State.Canonical.outward {y : List Word} {f : State → State} (h : s.Canonical)
    (hresult : ∀ (t : State), t.Canonical → (result t).Canonical) (hf : ∀ (t : State), t.Canonical → (f t).Canonical) :
    (outward y s result f).Canonical := .outwardBy h hresult hf

theorem State.Canonical.done (h : s.Canonical) : (done s pc).Canonical := .retire h
theorem State.Canonical.doneNext (h : s.Canonical) : (doneNext s).Canonical := .done h
theorem State.Canonical.pushLater (h : s.Canonical) : (pushLater s port e).Canonical := .modCore h

theorem State.Canonical.pushResult (h : s.Canonical) : (pushResult port v pc s).Canonical :=
  .ite (.leaveRotation (.endReservation (.modCore (.modMe h)))) (.done (.pushLater h))

theorem State.Canonical.writeTo (h : before.Canonical) (h' : s.Canonical) : (writeTo f v pc before s).Canonical :=
  .ite (.done (.modMe h')) (.ite (.ite (.pushResult h') (.outward (.modMe h') (fun _ h => h) (fun _ h => h))) (.ite (.trapHere h)
    (.done (.modMe h'))))

theorem State.Canonical.writeNext (h : before.Canonical) (h' : s.Canonical) : (writeNext f v before s).Canonical := .writeTo h h'

theorem State.Canonical.issuePush {p : PendingPush} (h : s.Canonical) : (issuePush p s).Canonical :=
  .ite (.done h) (.ite (.done (.pushLater (.modCore h))) (.pushResult h))

theorem State.Canonical.boundaryRead {own : State → State} {result : Word → State → State} (h : s.Canonical)
    (hown : ∀ (t : State), t.Canonical → (own t).Canonical)
    (hresult : ∀ (a : Word) (t : State), t.Canonical → (result a t).Canonical) : (boundaryRead s own result).Canonical := by
  refine .ite ?_ (.ite (.pollFor h) (hown _ h))
  split
  · next e => exact hresult _ _ (.of_go e (.takeValue h))
  · next e => exact .of_stop e (.takeValue h)

theorem State.Canonical.takeResult {rd : BitVec 6} (h : s.Canonical) : (takeResult rd s).Canonical := by
  unfold Machine.takeResult
  split
  · next e => exact .writeNext (.of_go e (.takeValue h)) (.of_go e (.takeValue h))
  · next e => exact .of_stop e (.takeValue h)

theorem State.Canonical.writeBoundary {rd : BitVec 6} {poison : Bool} (h : before.Canonical) (h' : s.Canonical) :
    (writeBoundary rd v poison before s).Canonical := .writeNext h (.handOn (.consumeIf h'))
end

/-! ### Scalar instructions -/

section
variable {s : State} {ra rd rb c : BitVec 6} {o imm : BitVec 12} {i : Instr} {k pd : BitVec 4}

theorem Leads.rrOp {f : Word → Word → Word} (h : s.Canonical) : Leads (rrOp i rd ra rb f s) :=
  .next (.issue h (fun _ h => .read2 h (fun _ _ _ h' => .writeNext h h')))

theorem Leads.rOp {f : Word → Word} (h : s.Canonical) : Leads (rOp i rd ra f s) :=
  .next (.issue h (fun _ h => .read1 h (fun _ _ h' => .writeNext h h')))

theorem State.Canonical.writePredNext {p : Nat} {b : Bool} (h : s.Canonical) : (writePredNext p b s).Canonical :=
  .doneNext (.modMe h)

theorem Leads.branchOp {cc : Nat} {off : BitVec 12} (h : s.Canonical) : Leads (branchOp i cc ra rb off s) :=
  .next (.issue h (fun _ h => .read2 h (fun _ _ _ h => .ite (.done h) (.doneNext h))))

@[simp] theorem Leads.execAdd (h : s.Canonical) : Leads (execAdd rd ra rb s) := .rrOp h
@[simp] theorem Leads.execSub (h : s.Canonical) : Leads (execSub rd ra rb s) := .rrOp h
@[simp] theorem Leads.execMul (h : s.Canonical) : Leads (execMul rd ra rb s) := .rrOp h
@[simp] theorem Leads.execMulh (h : s.Canonical) : Leads (execMulh rd ra rb s) := .rrOp h
@[simp] theorem Leads.execMulhu (h : s.Canonical) : Leads (execMulhu rd ra rb s) := .rrOp h
@[simp] theorem Leads.execDiv (h : s.Canonical) : Leads (execDiv rd ra rb s) := .rrOp h
@[simp] theorem Leads.execDivu (h : s.Canonical) : Leads (execDivu rd ra rb s) := .rrOp h
@[simp] theorem Leads.execRem (h : s.Canonical) : Leads (execRem rd ra rb s) := .rrOp h
@[simp] theorem Leads.execRemu (h : s.Canonical) : Leads (execRemu rd ra rb s) := .rrOp h
@[simp] theorem Leads.execAnd (h : s.Canonical) : Leads (execAnd rd ra rb s) := .rrOp h
@[simp] theorem Leads.execOr (h : s.Canonical) : Leads (execOr rd ra rb s) := .rrOp h
@[simp] theorem Leads.execXor (h : s.Canonical) : Leads (execXor rd ra rb s) := .rrOp h
@[simp] theorem Leads.execAndn (h : s.Canonical) : Leads (execAndn rd ra rb s) := .rrOp h
@[simp] theorem Leads.execSll (h : s.Canonical) : Leads (execSll rd ra rb s) := .rrOp h
@[simp] theorem Leads.execSrl (h : s.Canonical) : Leads (execSrl rd ra rb s) := .rrOp h
@[simp] theorem Leads.execSra (h : s.Canonical) : Leads (execSra rd ra rb s) := .rrOp h
@[simp] theorem Leads.execMin (h : s.Canonical) : Leads (execMin rd ra rb s) := .rrOp h
@[simp] theorem Leads.execMax (h : s.Canonical) : Leads (execMax rd ra rb s) := .rrOp h
@[simp] theorem Leads.execMinu (h : s.Canonical) : Leads (execMinu rd ra rb s) := .rrOp h
@[simp] theorem Leads.execMaxu (h : s.Canonical) : Leads (execMaxu rd ra rb s) := .rrOp h
@[simp] theorem Leads.execClz (h : s.Canonical) : Leads (execClz rd ra s) := .rOp h
@[simp] theorem Leads.execCtz (h : s.Canonical) : Leads (execCtz rd ra s) := .rOp h
@[simp] theorem Leads.execPopc (h : s.Canonical) : Leads (execPopc rd ra s) := .rOp h
@[simp] theorem Leads.execSext {w : BitVec 2} (h : s.Canonical) : Leads (execSext rd ra w s) := .rOp h
@[simp] theorem Leads.execZext {w : BitVec 2} (h : s.Canonical) : Leads (execZext rd ra w s) := .rOp h
@[simp] theorem Leads.execRotl (h : s.Canonical) : Leads (execRotl rd ra rb s) := .rrOp h
@[simp] theorem Leads.execRotr (h : s.Canonical) : Leads (execRotr rd ra rb s) := .rrOp h

@[simp] theorem Leads.execSel (h : s.Canonical) : Leads (execSel rd ra rb k s) :=
  .next (.issue h (fun _ h => .read2 h (fun _ _ _ h' => .writeNext h h')))

@[simp] theorem Leads.execCmp {c : BitVec 3} (h : s.Canonical) : Leads (execCmp pd ra rb c s) :=
  .next (.issue h (fun _ h => .read2 h (fun _ _ _ h => .writePredNext h)))

@[simp] theorem Leads.execPl {pa pb : BitVec 4} {o : BitVec 2} (h : s.Canonical) : Leads (execPl pd pa pb o s) :=
  .next (.issue h (fun _ h => .writePredNext h))

@[simp] theorem Leads.execJalr (h : s.Canonical) : Leads (execJalr rd ra s) :=
  .next (.issue h (fun _ h => .ite (.trapHere h) (.writeTo h h)))

@[simp] theorem Leads.execAddi (h : s.Canonical) : Leads (execAddi rd ra imm s) := .rOp h
@[simp] theorem Leads.execAndi (h : s.Canonical) : Leads (execAndi rd ra imm s) := .rOp h
@[simp] theorem Leads.execOri (h : s.Canonical) : Leads (execOri rd ra imm s) := .rOp h
@[simp] theorem Leads.execXori (h : s.Canonical) : Leads (execXori rd ra imm s) := .rOp h
@[simp] theorem Leads.execSlli (h : s.Canonical) : Leads (execSlli rd ra c s) := .rOp h
@[simp] theorem Leads.execSrli (h : s.Canonical) : Leads (execSrli rd ra c s) := .rOp h
@[simp] theorem Leads.execSrai (h : s.Canonical) : Leads (execSrai rd ra c s) := .rOp h

@[simp] theorem Leads.execCmpi {c : BitVec 2} (h : s.Canonical) : Leads (execCmpi c pd ra imm s) :=
  .next (.issue h (fun _ h => .read1 h (fun _ _ h => .writePredNext h)))

@[simp] theorem Leads.execBeq (h : s.Canonical) : Leads (execBeq ra rb o s) := .branchOp h
@[simp] theorem Leads.execBne (h : s.Canonical) : Leads (execBne ra rb o s) := .branchOp h
@[simp] theorem Leads.execBlt (h : s.Canonical) : Leads (execBlt ra rb o s) := .branchOp h
@[simp] theorem Leads.execBge (h : s.Canonical) : Leads (execBge ra rb o s) := .branchOp h
@[simp] theorem Leads.execBltu (h : s.Canonical) : Leads (execBltu ra rb o s) := .branchOp h
@[simp] theorem Leads.execBgeu (h : s.Canonical) : Leads (execBgeu ra rb o s) := .branchOp h

@[simp] theorem Leads.execBt (h : s.Canonical) : Leads (execBt k o s) :=
  .next (.issue h (fun _ h => .ite (.done h) (.doneNext h)))

@[simp] theorem Leads.execBf (h : s.Canonical) : Leads (execBf k o s) :=
  .next (.issue h (fun _ h => .ite (.doneNext h) (.done h)))

@[simp] theorem Leads.execJmp {o : BitVec 18} (h : s.Canonical) : Leads (execJmp o s) := .next (.issue h (fun _ h => .done h))

@[simp] theorem Leads.execJal {o : BitVec 18} (h : s.Canonical) : Leads (execJal rd o s) :=
  .next (.issue h (fun _ h => .writeTo h h))

@[simp] theorem Leads.execLui {imm : BitVec 18} (h : s.Canonical) : Leads (execLui rd imm s) :=
  .next (.issue h (fun _ h => .writeNext h h))

@[simp] theorem Leads.execLpc {imm : BitVec 18} (h : s.Canonical) : Leads (execLpc rd imm s) :=
  .next (.issue h (fun _ h => .writeNext h h))
end

/-! ### Loads and stores -/

section
variable {s s0 : State} {ra rd rb : BitVec 6} {imm : BitVec 12} {o : BitVec 2} {n : Nat} {poison : Bool} {x : Access}
  {w : BitVec 1}

theorem State.Canonical.padAccess {c k p off : Nat} {kind : AccessKind} {data expected : Word} {guard : Nat} (h : s.Canonical) :
    (padAccess s c k p off n kind data expected guard).2.Canonical := by
  unfold Machine.padAccess
  split
  · split
    · exact h
    · exact .padStore h
    · exact .modSlot (.endReservation h)
    · exact .ite_snd (.padStore (.endReservation h)) (.endReservation h)
    · exact .ite_snd (.endReservation h) (.update (.endReservation h))
    · split
      · split
        · exact .padRmwStore (.endReservation h)
        · exact .endReservation h
      · split
        · exact .padRmwStore h
        · exact h

theorem State.Canonical.settle {rd : Option (BitVec 6)} {v : Word} (h : s0.Canonical) (h' : s.Canonical) :
    (settle rd v poison s0 s).Canonical := by
  unfold Machine.settle
  split
  · exact .writeBoundary h h'
  · exact .doneNext (.consumeIf h')

theorem State.Canonical.awaitReply {rd : Option (BitVec 6)} {acq : Bool} (h : s.Canonical) : (awaitReply s rd acq).Canonical :=
  .leaveRotation h

theorem State.Canonical.settleAcq {rd : Option (BitVec 6)} {acq : Bool} {v : Word} (h : s0.Canonical) (h' : s.Canonical) :
    (settleAcq rd acq v poison s0 s).Canonical := .ite (.postReply (.awaitReply h')) (.settle h h')

theorem State.Canonical.sendFlit {p : Nat} {f : Flit} (h : s.Canonical) : (sendFlit s p f).Canonical := .update h

theorem State.Canonical.sendToRank {ctag : BitVec 4} {rank : Nat} {type : BitVec 8} {body : FlitBody} (h : s.Canonical) :
    (sendToRank s ctag rank type poison body).Canonical := by
  unfold Machine.sendToRank
  split
  · exact .sendFlit h
  · exact h

theorem State.Canonical.holdRanks {p : BitVec 4 → Nat → Bool} (h : s.Canonical) : (holdRanks s p).Canonical := .update h
theorem State.Canonical.releaseRanks (h : s.Canonical) : (releaseRanks s).Canonical := .update h

theorem State.Canonical.notePeer {ctag : BitVec 4} {rank : Nat} {f : Flight} (h : s.Canonical) :
    (notePeer s ctag rank f).Canonical := .update h

theorem State.Canonical.requestMigration {h : Nat} (hs : s.Canonical) : (requestMigration s h).Canonical :=
  .leaveRotation (.update hs)

theorem State.Canonical.sendAway {t : Target} (h : s.Canonical) : (sendAway x t s).Canonical := by
  unfold Machine.sendAway
  split
  · exact .ite (.requestMigration h) (.pollFor h)
  · exact .ite (.pollFor h) (.ite (.sendToRank (.notePeer (.awaitReply (.fresh h)))) (.postReply (.awaitReply (.fresh h))))
  · exact .update (.awaitReply (.fresh (.ite (.endReservation h) h)))

theorem State.Canonical.awaitTranslation {va : Nat} {r w x : Bool} (h : s.Canonical) : (awaitTranslation s va r w x).Canonical :=
  .leaveRotation (.modCluster h)

theorem State.Canonical.performRoute {r : Route} (h : s0.Canonical) (h' : s.Canonical) : (performRoute x s0 r s).Canonical := by
  refine .ite (.pollFor h') ?_
  split
  · exact .trapHere h'
  · exact .awaitTranslation h'
  · exact .sendAway h'
  · split
    · next e => exact .settleAcq h (.of_snd e (.padAccess (.bankTurnAt h')))
    · next e => exact .awaitReply (.of_snd e (.padAccess (.bankTurnAt h')))
  · split
    · exact .settle h (.setBufN h')
    · exact .settle h (.ite (.endReservation h') h')

theorem State.Canonical.access (h : s0.Canonical) (h' : s.Canonical) : (access x s0 s).Canonical := by
  unfold Machine.access
  split
  · exact .trapHere h'
  · refine .ite (.outwardAccess h' (fun _ h' => .performRoute h h') ?_) (.boundaryRead h' (fun _ h' => .performRoute h h') (fun _
        _ h => .settle h h))
    intro _ h
    split
    · exact .takeResult h
    · exact .doneNext h

theorem Leads.loadOp {i : Instr} {signed : Bool} (h : s.Canonical) : Leads (loadOp i n signed rd ra imm s) :=
  .next (.issue h (fun _ h => .access h h))

theorem Leads.storeOp {i : Instr} (h : s.Canonical) : Leads (storeOp i n ra rb imm s) :=
  .next (.issue h (fun _ h => .read1 h (fun _ _ h' => .access h h')))

@[simp] theorem Leads.execLdB (h : s.Canonical) : Leads (execLdB rd ra imm s) := .loadOp h
@[simp] theorem Leads.execLdBu (h : s.Canonical) : Leads (execLdBu rd ra imm s) := .loadOp h
@[simp] theorem Leads.execLdH (h : s.Canonical) : Leads (execLdH rd ra imm s) := .loadOp h
@[simp] theorem Leads.execLdHu (h : s.Canonical) : Leads (execLdHu rd ra imm s) := .loadOp h
@[simp] theorem Leads.execLdW (h : s.Canonical) : Leads (execLdW rd ra imm s) := .loadOp h
@[simp] theorem Leads.execLdWu (h : s.Canonical) : Leads (execLdWu rd ra imm s) := .loadOp h
@[simp] theorem Leads.execLdD (h : s.Canonical) : Leads (execLdD rd ra imm s) := .loadOp h
@[simp] theorem Leads.execStB (h : s.Canonical) : Leads (execStB ra rb imm s) := .storeOp h
@[simp] theorem Leads.execStH (h : s.Canonical) : Leads (execStH ra rb imm s) := .storeOp h
@[simp] theorem Leads.execStW (h : s.Canonical) : Leads (execStW ra rb imm s) := .storeOp h
@[simp] theorem Leads.execStD (h : s.Canonical) : Leads (execStD ra rb imm s) := .storeOp h
@[simp] theorem Leads.execLres (h : s.Canonical) : Leads (execLres rd ra w o s) := .next (.issue h (fun _ h => .access h h))

@[simp] theorem Leads.execSres (h : s.Canonical) : Leads (execSres rd ra rb w o s) :=
  .next (.issue h (fun _ h => .read1 h (fun _ _ h' => .access h h')))

@[simp] theorem Leads.execAmo {f : BitVec 4} (h : s.Canonical) : Leads (execAmo rd ra rb f o s) :=
  .next (.issue h (fun _ h => .read1 h (fun _ _ h' => .access h h')))

@[simp] theorem Leads.execCas (h : s.Canonical) : Leads (execCas rd ra rb w o s) :=
  .next (.issue h (fun _ h => .read2 h (fun _ _ _ h' => .access h h')))

@[simp] theorem Leads.execWrs (h : s.Canonical) : Leads (execWrs rd ra rb s) :=
  .next (.issue h (fun _ h => .read1 h (fun _ _ h' => .ite (.trapHere h') (.access h h'))))
end

/-! ### Vector instructions -/

section
variable {s : State} {vd va vb n k : BitVec 4} {msk ty : BitVec 3} {gs rd : BitVec 6} {v : VecOp} {i : Instr} {ma md : BitVec 2}
  {draws : Bool} {op : VType → LaneOp} {port : Nat}

theorem State.Canonical.writePass {t : VType} {p : Pass} (h : s.Canonical) : (writePass vd t p s).Canonical :=
  .doneNext (.modMe h)

theorem State.Canonical.arith {t : VType} {op : LaneOp} {b : Nat → Nat} (h : s.Canonical) :
    (arith vd va msk t draws op b s).Canonical := .writePass h

theorem Leads.binary (h : s.Canonical) : Leads (binary i vd va vb msk gs ty draws op s) :=
  .next (.issue h (fun _ h => .ite (.arith h) (.read1 h (fun _ _ h => .arith h))))

theorem Leads.unary (h : s.Canonical) : Leads (unary i vd va msk ty draws op s) := .next (.issue h (fun _ h => .arith h))
@[simp] theorem Leads.execVadd (h : s.Canonical) : Leads (execVadd vd va vb msk gs ty s) := .binary h
@[simp] theorem Leads.execVsub (h : s.Canonical) : Leads (execVsub vd va vb msk gs ty s) := .binary h
@[simp] theorem Leads.execVmul (h : s.Canonical) : Leads (execVmul vd va vb msk gs ty s) := .binary h
@[simp] theorem Leads.execVdiv (h : s.Canonical) : Leads (execVdiv vd va vb msk gs ty s) := .binary h
@[simp] theorem Leads.execVfma (h : s.Canonical) : Leads (execVfma vd va vb msk gs ty s) := .binary h
@[simp] theorem Leads.execVfms (h : s.Canonical) : Leads (execVfms vd va vb msk gs ty s) := .binary h
@[simp] theorem Leads.execVmin (h : s.Canonical) : Leads (execVmin vd va vb msk gs ty s) := .binary h
@[simp] theorem Leads.execVmax (h : s.Canonical) : Leads (execVmax vd va vb msk gs ty s) := .binary h
@[simp] theorem Leads.execVabs (h : s.Canonical) : Leads (execVabs vd va msk ty s) := .unary h
@[simp] theorem Leads.execVneg (h : s.Canonical) : Leads (execVneg vd va msk ty s) := .unary h
@[simp] theorem Leads.execVsqrt (h : s.Canonical) : Leads (execVsqrt vd va msk ty s) := .unary h
@[simp] theorem Leads.execVexp2 (h : s.Canonical) : Leads (execVexp2 vd va msk ty s) := .unary h
@[simp] theorem Leads.execVand (h : s.Canonical) : Leads (execVand vd va vb msk gs ty s) := .binary h
@[simp] theorem Leads.execVor (h : s.Canonical) : Leads (execVor vd va vb msk gs ty s) := .binary h
@[simp] theorem Leads.execVxor (h : s.Canonical) : Leads (execVxor vd va vb msk gs ty s) := .binary h
@[simp] theorem Leads.execVshl (h : s.Canonical) : Leads (execVshl vd va vb msk gs ty s) := .binary h
@[simp] theorem Leads.execVshr (h : s.Canonical) : Leads (execVshr vd va vb msk gs ty s) := .binary h
@[simp] theorem Leads.execVsra (h : s.Canonical) : Leads (execVsra vd va vb msk gs ty s) := .binary h

@[simp] theorem Leads.execVcvt {sat : BitVec 1} {st : BitVec 3} (h : s.Canonical) : Leads (execVcvt vd va msk sat st ty s) :=
  .next (.issue h (fun _ h => .writePass h))

@[simp] theorem Leads.execVcmp {cc : BitVec 3} (h : s.Canonical) : Leads (execVcmp md va vb msk cc ty s) :=
  .next (.issue h (fun _ h => .doneNext (.modMe h)))

@[simp] theorem Leads.execVm {mb op : BitVec 2} (h : s.Canonical) : Leads (execVm md ma mb op s) :=
  .next (.issue h (fun _ h => .doneNext (.modMe h)))

theorem State.Canonical.moveLanes {f : Slot → Nat → Lane} (h : s.Canonical) : (moveLanes vd msk f s).Canonical :=
  .doneNext (.modMe h)

@[simp] theorem Leads.execVperm (h : s.Canonical) : Leads (execVperm vd va vb msk ty s) :=
  .next (.issue h (fun _ h => .moveLanes h))

@[simp] theorem Leads.execVbcast (h : s.Canonical) : Leads (execVbcast vd msk gs ty s) :=
  .next (.issue h (fun _ h => .read1 h (fun _ _ h => .moveLanes h)))

@[simp] theorem Leads.execVslide (h : s.Canonical) : Leads (execVslide vd va msk gs ty s) :=
  .next (.issue h (fun _ h => .read1 h (fun _ _ h => .moveLanes h)))

@[simp] theorem Leads.execViota (h : s.Canonical) : Leads (execViota vd msk ty s) := .next (.issue h (fun _ h => .moveLanes h))

@[simp] theorem Leads.execVextr (h : s.Canonical) : Leads (execVextr va msk gs ty s) :=
  .next (.issue h (fun _ h => .writeNext h h))

@[simp] theorem Leads.execVins (h : s.Canonical) : Leads (execVins vd msk gs ty s) :=
  .next (.issue h (fun _ h => .read1 h (fun _ _ h => .doneNext (.modMe h))))

@[simp] theorem Leads.execVmcnt (h : s.Canonical) : Leads (execVmcnt ma gs s) := .next (.issue h (fun _ h => .writeNext h h))
@[simp] theorem Leads.execVfirst (h : s.Canonical) : Leads (execVfirst ma gs s) := .next (.issue h (fun _ h => .writeNext h h))

@[simp] theorem Leads.execMset (h : s.Canonical) : Leads (execMset md gs s) :=
  .next (.issue h (fun _ h => .read1 h (fun _ _ h => .doneNext (.modMe h))))

@[simp] theorem Leads.execMget (h : s.Canonical) : Leads (execMget ma gs s) := .next (.issue h (fun _ h => .writeNext h h))
@[simp] theorem Leads.execVpack (h : s.Canonical) : Leads (execVpack vd va vb ty s) := .next (.issue h (fun _ h => .moveLanes h))

@[simp] theorem Leads.execVunpk {h : BitVec 2} (hs : s.Canonical) : Leads (execVunpk vd va h ty s) :=
  .next (.issue hs (fun _ h => .moveLanes h))

theorem Leads.reduction {absent : VType → Nat} (h : s.Canonical) : Leads (reduction i vd va msk gs ty op absent s) :=
  .next (.issue h (fun _ h => .ite (.doneNext (.modMe h)) (.read1 h (fun _ _ h => .doneNext (.modMe h)))))

@[simp] theorem Leads.execVredsum (h : s.Canonical) : Leads (execVredsum vd va msk gs ty s) := .reduction h
@[simp] theorem Leads.execVredmax (h : s.Canonical) : Leads (execVredmax vd va msk gs ty s) := .reduction h
@[simp] theorem Leads.execVredmin (h : s.Canonical) : Leads (execVredmin vd va msk gs ty s) := .reduction h

theorem State.Canonical.finishVec (h : s.Canonical) : (finishVec s).Canonical := by
  unfold Machine.finishVec
  split
  · exact h
  · split
    · exact .doneNext (.consumeIf h)
    · exact .doneNext (.modMe (.foldl (fun _ _ h => .handOn h) (.consumeIf h)))

theorem State.Canonical.padLane {off : Nat} {q : LaneReq} (h : s.Canonical) : (padLane v s off q).Canonical := by
  unfold Machine.padLane
  split
  · next e => exact .laneReply (.of_snd e (.padAccess (.bankTurnAt h)))
  · next e => exact .of_snd e (.padAccess (.bankTurnAt h))

theorem State.Canonical.landLane {b off : Nat} {q : LaneReq} (h : s.Canonical) : (landLane v s b off q).Canonical := .laneReply h

theorem State.Canonical.sendLane {f : Flight} (h : s.Canonical) : (sendLane s f).Canonical := by
  unfold Machine.sendLane
  split
  · exact .ite (.sendToRank (.notePeer (.fresh h))) (.flightAnswer h)
  · exact .update h

theorem State.Canonical.sendLanes {a : VecAccess} (h : s.Canonical) : (sendLanes v a s).Canonical := by
  refine .ite (.finishVec (.foldl ?_ h)) (.leaveRotation (.foldl (fun _ _ h => .sendLane h) (.modMe (.foldl ?_ h))))
  · intro _ _ h
    split
    · exact .landLane h
    · exact h
  · intro _ _ h
    split
    · exact .landLane h
    · exact h

theorem State.Canonical.vecPass (h : s.Canonical) : (vecPass v s).Canonical := by
  unfold Machine.vecPass
  split
  · exact h
  · refine .ite (.sendLanes (.modMe (.foldl ?_ h))) (.modMe (.foldl ?_ h))
    · intro _ _ h
      split
      · exact .ite (.padLane h) h
      · exact h
    · intro _ _ h
      split
      · exact .ite (.padLane h) h
      · exact h

theorem State.Canonical.startVec (h : s.Canonical) : (startVec v s).Canonical := by
  unfold Machine.startVec
  split
  · exact .awaitTranslation h
  · exact .trapHere h
  · split
    · exact .pollFor h
    · exact .vecPass (.modMe h)

theorem State.Canonical.takeVec (h : s.Canonical) : (takeVec v vd s).Canonical := by
  unfold Machine.takeVec
  split
  · next e => exact .of_stop e (.takeMany h)
  · next e => exact .doneNext (.modMe (.of_go e (.takeMany h)))

theorem Leads.vecMem {op : State → VecOp} (h : s.Canonical) : Leads (vecMem i op s) := by
  refine .next (.issue h ?_)
  intro _ h
  refine .ite (.vecPass h) ?_
  split
  · exact .trapHere h
  · split
    · exact .ite (.takeVec h) (.ite (.pollFor h) (.startVec h))
    · exact .outwardAccess h (fun _ h => .startVec h) (fun _ h => .doneNext h)

@[simp] theorem Leads.execVld (h : s.Canonical) : Leads (execVld vd msk gs ty s) := .vecMem h
@[simp] theorem Leads.execVst (h : s.Canonical) : Leads (execVst vd msk gs ty s) := .vecMem h
@[simp] theorem Leads.execVlds (h : s.Canonical) : Leads (execVlds vd msk gs ty s) := .vecMem h
@[simp] theorem Leads.execVsts (h : s.Canonical) : Leads (execVsts vd msk gs ty s) := .vecMem h
@[simp] theorem Leads.execVgath (h : s.Canonical) : Leads (execVgath vd va msk gs ty s) := .vecMem h
@[simp] theorem Leads.execVscat (h : s.Canonical) : Leads (execVscat vd va msk gs ty s) := .vecMem h

theorem State.Canonical.tried {pk : Nat} {e : Option Elem} (h : s.Canonical) : (tried rd pk e s).Canonical := by
  unfold Machine.tried
  split <;> exact .doneNext (.modMe h)

@[simp] theorem Leads.execQtry (h : s.Canonical) : Leads (execQtry rd n k s) := by
  refine .next (.issue h ?_)
  intro _ h
  refine .ite ?_ (.ite (.awaitValueRoom h) ?_)
  · split
    · next e => exact .of_stop e (.takeMany h)
    · next e => exact .tried (.of_go e (.takeMany h))
  · split
    · exact .tried (.placeFreed (.handOn (.handOn (.receive (.portSet h)))))
    · exact .tried (.handOn (.handOn h))

theorem State.Canonical.reportPred {pk : Nat} {b : Bool} (h : s.Canonical) : (reportPred pk b s).Canonical :=
  .doneNext (.modMe (.handOn h))

@[simp] theorem Leads.execQoffer {ra : BitVec 6} (h : s.Canonical) : Leads (execQoffer n ra k s) := by
  refine .next (.issue h ?_)
  intro _ h
  refine .outward h (fun _ h => .ite (.reportPred h) (.reportPred (.pushLater h))) ?_
  intro _ h
  split
  · next e => exact .doneNext (.modMe (.of_go e (.takeValue h)))
  · next e => exact .of_stop e (.takeValue h)

@[simp] theorem Leads.execQcnt (h : s.Canonical) : Leads (execQcnt rd n s) :=
  .next (.issue h (fun _ h => .boundaryRead h (fun _ h => .writeBoundary h h) (fun _ _ h => .writeNext h h)))

theorem Flow.Canonical.popMany {y z : Nat} (h : s.Canonical) : (popMany port y z s).Canonical := by
  induction y generalizing z s with
  | zero => exact .go h
  | succ n ih => exact .bind (.popPort h) fun _ _ h => .bind (ih h) fun _ _ h => .go h

@[simp] theorem Leads.execVqpop (h : s.Canonical) : Leads (execVqpop vd k n s) := by
  refine .next (.issue h ?_)
  intro _ h
  split
  · next e => exact .of_stop e (.popMany h)
  · next e => exact .doneNext (.modMe (.of_go e (.popMany h)))

theorem State.Canonical.pushMany {v : Vec} {y : List Nat} (h : s.Canonical) : (pushMany port v y s).Canonical := by
  induction y generalizing s with
  | nil => exact .doneNext (.modMe h)
  | cons e rest ih => exact .ite (.leaveRotation (.endReservation (.modCore h))) (ih (.keepLatch (.pushLater h)))

theorem State.Canonical.pushReserved {v : Vec} {es : List Nat} (h : s.Canonical) : (pushReserved port v es s).Canonical := by
  unfold Machine.pushReserved
  split
  · exact .pushMany h
  · exact .ite (.pushMany (.keepLatch (.pushLater (.modCore h)))) (.pushMany h)

@[simp] theorem Leads.execVqpush (h : s.Canonical) : Leads (execVqpush va k n s) :=
  .next (.issue h (fun _ h => .outward h (fun _ h => .pushReserved h) (fun _ h => .doneNext h)))
end

/-! ### Engines -/

section
variable {s : State} {c n va cl v pa k slot status : Nat} {x : Cmd} {ctag : BitVec 4} {marks : Nat → Nat → Bool} {e : Engine}
  {r w : Bool} {pol : Policy} {put : LinePut} {rd : Option (BitVec 6)} {store : Option (Nat → Nat → Nat × Bool)} {y : List Nat}

theorem State.Canonical.assignKey (h : s.Canonical) : (assignKey s cl).2.Canonical := .modCluster h

theorem State.Canonical.queueRecord {data : BitVec 256} (h : s.Canonical) : (queueRecord s cl ctag data).Canonical :=
  .modCluster h

theorem State.Canonical.modCmd {ident : Nat} {f : Cmd → Cmd} (h : s.Canonical) : (modCmd s c e ident f).Canonical := .modCore h

theorem State.Canonical.setRingOf {r : Nat} {q : Quad} (h : s.Canonical) : (setRingOf s c x r q).Canonical := by
  unfold Machine.setRingOf
  split
  · exact .modSlot h
  · exact .modCore h

theorem State.Canonical.pushToken {port : Nat} {v : Word} (h : s.Canonical) : (pushToken s c k port v).Canonical :=
  .ite (.portArrive h) (.modCore h)

theorem State.Canonical.pushPending {v : Word} (h : s.Canonical) : (pushPending s c k v).Canonical :=
  .ite (.modSlot h) (.modCore h)

theorem State.Canonical.postToken {v : Word} (h : s.Canonical) : (postToken s c k v).Canonical := by
  refine .foldl ?_ h
  intro _ _ h
  split
  · exact .modSlot h
  · exact .modSlot h
  · exact h

theorem State.Canonical.deliverToken {v : Word} (h : s.Canonical) : (deliverToken s c x v).Canonical := by
  unfold Machine.deliverToken
  split
  · exact h
  · exact .modCore h
  · refine .ite (.postToken h) ?_
    split
    · exact .ite h (.pushToken h)
    · exact .pushPending h
    · exact .pushToken h

theorem State.Canonical.dropAnswers (h : s.Canonical) : (dropAnswers s c slot).Canonical := .update h
theorem State.Canonical.dropXlate {ks : List Nat} (h : s.Canonical) : (dropXlate s c ks).Canonical := .modCluster h

theorem State.Canonical.completeCmd {flags : BitVec 7} {poison : Bool} {value : Nat} (h : s.Canonical) :
    (completeCmd s c e x status flags poison value).Canonical := .deliverToken (.modCore (.dropXlate (.dropAnswers h)))

theorem State.Canonical.refuseLate {poison : Bool} (h : s.Canonical) : (refuseLate s c e x status poison).Canonical :=
  .completeCmd h

theorem State.Canonical.acceptCmd {w : BitVec 256} (h : s.Canonical) : (acceptCmd e w rd s).Canonical := by
  unfold Machine.acceptCmd
  split
  · exact .modCore (.fresh h)

theorem State.Canonical.refuseCmd {w : BitVec 256} (h : s.Canonical) : (refuseCmd w status rd s).Canonical := by
  unfold Machine.refuseCmd
  split
  · exact .writeBoundary h h
  · exact .doneNext (.pushToken h)

theorem State.Canonical.waitToPush (h : s.Canonical) : (waitToPush s e).Canonical := .pollFor (.modCore (.endReservation h))

theorem State.Canonical.offerCmd {w : BitVec 256} (h : s.Canonical) : (offerCmd w rd s).Canonical := by
  refine .ite (.pollFor h) ?_
  split
  · exact .refuseCmd h
  · refine .ite (.waitToPush h) (.ite (.pollFor (.endReservation h)) (.ite (.refuseCmd (.modCore h)) ?_))
    split
    · exact .doneNext (.acceptCmd (.modCore h))
    · exact .leaveRotation (.endReservation (.acceptCmd (.modCore h)))

@[simp] theorem Leads.execEnq {ra : BitVec 6} (h : s.Canonical) : Leads (execEnq ra s) :=
  .next (.issue h (fun _ h => .outward h (fun _ h => .offerCmd h) (fun _ h => .doneNext h)))

@[simp] theorem Leads.execEnqw {ra rd : BitVec 6} (h : s.Canonical) : Leads (execEnqw ra rd s) :=
  .next (.issue h (fun _ h => .outward h (fun _ h => .offerCmd h) (fun _ h => .leaveRotation h)))

@[simp] theorem Leads.execRingrd {rd : BitVec 6} {n : BitVec 3} {h : BitVec 1} (hs : s.Canonical) : Leads (execRingrd rd n h s) :=
  .next (.issue hs (fun _ h => .boundaryRead h (fun _ h => .writeBoundary h h) (fun _ _ h => .writeNext h h)))

@[simp] theorem Leads.execHeldTokenPush {core port : Nat} (h : s.Canonical) : Leads (execHeldTokenPush core slot port s) := by
  refine .next ?_
  split
  · exact h
  · exact .ite (.ite (.modSlot (.modCore h)) h) (.ite (.wakePushers (.portArrive (.modCore h))) h)

theorem State.Canonical.enterCompletion (h : s.Canonical) : (enterCompletion s c k).Canonical := by
  unfold Machine.enterCompletion
  dsimp only
  split
  · exact h
  · exact .ite (.receive (.modSlot h)) h

@[simp] theorem Leads.execCompletionHandlerEntry {core : Nat} (h : s.Canonical) :
    Leads (execCompletionHandlerEntry core slot s) := .next (.enterCompletion h)

theorem State.Canonical.missFor (h : s.Canonical) : (missFor s c x va r w).2.Canonical := by
  unfold Machine.missFor
  split
  · exact .modCluster h
  · exact h
  · exact .modCluster h
  · split
    · exact h
    · exact .ite_snd (.queueRecord (.assignKey (.modCluster h))) h

theorem State.Canonical.translateFor (h : s.Canonical) : (translateFor s c x va r w).2.Canonical := by
  unfold Machine.translateFor
  split
  · exact h
  · exact h
  · exact .missFor h

theorem State.Canonical.noteWait {w : Option Nat} (h : s.Canonical) : (noteWait s c x w).Canonical := by
  unfold Machine.noteWait
  split
  · exact .modCmd h
  · exact h

theorem State.Canonical.engineAddress (h : s.Canonical) : (engineAddress s c x va r w).2.Canonical := by
  unfold Machine.engineAddress
  split
  · next e => exact .ite_snd (.noteWait (.of_snd e (.translateFor h))) (.ite_snd (.noteWait (.of_snd e (.translateFor h)))
        (.noteWait (.of_snd e (.translateFor h))))
  · exact .translateFor h

theorem State.Canonical.readLines (h : s.Canonical) : (readLines s cl pol pa n).2.Canonical :=
  .foldl_on Prod.snd (fun _ _ h => .burstLoad h) h

theorem State.Canonical.storeLines (h : s.Canonical)
    (hput : ∀ (t : State) (a : Nat) (b : Policy) (d i j : Nat) (l : Bool), t.Canonical → (put t a b d i j l).Canonical) :
    (storeLines put s cl pol pa n v marks).Canonical :=
  .ite (.foldl (fun _ _ h => hput _ _ _ _ _ _ _ h) h) (.noteGlobal (.foldl (fun _ _ h => hput _ _ _ _ _ _ _ h) h))

theorem State.Canonical.writeLines (h : s.Canonical) : (writeLines s cl pol pa n v marks).Canonical :=
  .storeLines h (fun _ _ _ _ _ _ _ h => .burstStore h)

theorem State.Canonical.recordLines (h : s.Canonical) : (recordLines s cl pol pa n v marks).Canonical :=
  .storeLines h (fun _ _ _ _ _ _ _ h => .recordStore h)

theorem State.Canonical.askPeer {keep : Bool} {rank : Nat} {lid : BitVec 32} {piece : Nat × Nat} (h : s.Canonical) :
    (askPeer keep c slot ctag rank lid store pa s piece).Canonical := .sendToRank (.notePeer (.fresh h))

theorem State.Canonical.peerTransfer {lid : BitVec 32} {rank : Nat} (h : s.Canonical) :
    (peerTransfer s c slot ctag lid rank pa n store).2.Canonical := by
  unfold Machine.peerTransfer
  split
  · exact h
  · split
    · exact h
    · exact .ite_snd h (.ite_snd h (.foldl (fun _ _ h => .askPeer h) h))

theorem State.Canonical.bankTransfer {d off : Nat} (h : s.Canonical) : (bankTransfer s c k d off n store).2.Canonical := by
  unfold Machine.bankTransfer
  split
  · split
    · exact h
    · split
      · exact h
      · exact .update h
  · split
    · exact h
    · split
      · exact h
      · exact .update h

theorem State.Canonical.walkEntry {at_ : Nat} (h : s.Canonical) : (walkEntry s cl ctag at_).2.Canonical := by
  unfold Machine.walkEntry
  split
  · exact .peerTransfer h
  · split
    · exact h
    · split
      next e => exact .of_third e (.homeLoad h)

theorem State.Canonical.writeEntryBack {at_ : Nat} (h : s.Canonical) : (writeEntryBack s cl ctag at_ v).2.Canonical := by
  unfold Machine.writeEntryBack
  split
  · exact .ite_snd h (.ite_snd (.askPeer h) h)
  · split
    · next e => exact .of_snd e (.snoopBlocked h)
    · next e => exact .noteGlobal (.homeStore (.of_snd e (.snoopBlocked h)))

theorem Walked.Canonical.walkFrom {ctx : Context} {x : Bool} {z : Nat} (h : s.Canonical) :
    (walkFrom ctx cl ctag va r w x y z s).Canonical := by
  induction y generalizing z s with
  | nil => exact .failed h
  | cons level rest ih =>
    unfold Machine.walkFrom
    dsimp only
    split
    next e => exact .snooped (.of_snd e (.walkEntry h))
    next e =>
      have h' := State.Canonical.of_snd e (.walkEntry h)
      refine .ite (.failed h') (.ite (.failed h') (.ite (.failed h') (.ite (ih h') (.ite (.failed h') ?_))))
      split
      next e => exact .snooped (.of_snd e (.ite_snd h' (.writeEntryBack h')))
      next e => exact .leaf (.of_snd e (.ite_snd h' (.writeEntryBack h')))

theorem Walked.Canonical.walk {x : Bool} (h : s.Canonical) : (walk s cl ctag va r w x).Canonical := by
  unfold Machine.walk
  split
  · exact .failed h
  · split
    · next e => exact .leaf (.installTlb (.dropAnswers (.of_leaf e (.walkFrom h))))
    · next e => exact .failed (.dropAnswers (.of_failed e (.walkFrom h)))
    · next e => exact .snooped (.of_snooped e (.walkFrom h))

theorem EngDone.Canonical.map {α β : Type} {f : α → β} {y : EngDone α} (h : y.Canonical) : (EngDone.map f y).Canonical := by
  cases h with
  | ok h => exact .ok h
  | range h => exact .range h
  | held h => exact .held h
  | wait h => exact .wait h

theorem EngDone.Canonical.ofPeer {α : Type} {f : Bytes → α} {y : Option Bytes × State} (h : y.2.Canonical) :
    (ofPeer f y).Canonical := by
  unfold Machine.ofPeer
  split
  · exact .ok h
  · exact .wait h

theorem EngDone.Canonical.engineRead (h : s.Canonical) : (engineRead s c x va n).Canonical := by
  unfold Machine.engineRead
  split
  · next e => exact .range (.of_snd e (.engineAddress h))
  · next e => exact .held (.of_snd e (.engineAddress h))
  · next e => exact .wait (.of_snd e (.engineAddress h))
  · next e =>
      split
      · exact .ofPeer (.peerTransfer (.of_snd e (.engineAddress h)))
      · exact .ok (.readLines (.of_snd e (.engineAddress h)))

theorem EngDone.Canonical.engineWrite (h : s.Canonical)
    (hput : ∀ (t : State) (a : Nat) (b : Policy) (d i j : Nat) (l : Bool), t.Canonical → (put t a b d i j l).Canonical) :
    (engineWrite put s c x va n v marks).Canonical := by
  unfold Machine.engineWrite
  split
  · next e => exact .range (.of_snd e (.engineAddress h))
  · next e => exact .held (.of_snd e (.engineAddress h))
  · next e => exact .wait (.of_snd e (.engineAddress h))
  · next e =>
      split
      · exact .ofPeer (.peerTransfer (.of_snd e (.engineAddress h)))
      · split
        · next e' => exact .wait (.of_snd e' (.snoopBlocked (.of_snd e (.engineAddress h))))
        · next e' => exact .ok (.storeLines (.of_snd e' (.snoopBlocked (.of_snd e (.engineAddress h)))) hput)

theorem EngDone.Canonical.readParts (h : s.Canonical) : (readParts c x va n y s).Canonical := by
  induction y generalizing s with
  | nil => exact .ok h
  | cons j rest ih =>
    unfold Machine.readParts
    dsimp only
    split
    next e => exact .map (ih (.of_ok e (.engineRead h)))
    next => exact .engineRead h

theorem EngDone.Canonical.close {α : Type} {y : EngDone α} (h : y.Canonical) : (EngDone.close c x y).Canonical := by
  cases h with
  | ok h => exact .ok (.dropAnswers h)
  | range h => exact .range h
  | held h => exact .held h
  | wait h => exact .wait h

theorem EngDone.Canonical.readRange (h : s.Canonical) : (readRange s c x va n).Canonical := .close (.readParts h)

theorem EngDone.Canonical.writeParts (h : s.Canonical)
    (hput : ∀ (t : State) (a : Nat) (b : Policy) (d i j : Nat) (l : Bool), t.Canonical → (put t a b d i j l).Canonical) :
    (writeParts put c x va n v marks y s).Canonical := by
  induction y generalizing s with
  | nil => exact .ok h
  | cons j rest ih =>
    unfold Machine.writeParts
    dsimp only
    split
    next e => exact .map (ih (.of_ok e (.engineWrite h hput)))
    next => exact .engineWrite h hput

theorem EngDone.Canonical.writeRange (h : s.Canonical)
    (hput : ∀ (t : State) (a : Nat) (b : Policy) (d i j : Nat) (l : Bool), t.Canonical → (put t a b d i j l).Canonical) :
    (writeRange put s c x va n v marks).Canonical := .close (.writeParts h hput)
end

/-! ### Banks -/

section
variable {s : State}

theorem State.Canonical.served {c : Nat} {e : Engine} {ident : Nat} (h : s.Canonical) : (served s c e ident).Canonical :=
  .modCmd h

theorem State.Canonical.refusedOnce {p : Nat} {x : Nat × Engine × Cmd} (h : s.Canonical) : (refusedOnce s p x).Canonical :=
  .ite (.modCmd h) h

theorem State.Canonical.ageRequests {p : Nat} (h : s.Canonical) : (ageRequests s p).Canonical :=
  .modCore (.update (.foldl (fun _ _ h => .refusedOnce h) h))
end

/-! ### The tile engine -/

section
variable {s : State} {c k : Nat} {x : Cmd} {g : Grant}

theorem State.Canonical.endGrant (h : s.Canonical) : (endGrant s c k).Canonical := .modSlot h

theorem State.Canonical.grantRows {m n : Nat} (h : s.Canonical) : (grantRows s c k m n).2.Canonical :=
  .ite_snd (.endGrant h) (.ite_snd (.endGrant h) (.modSlot (.endGrant h)))

@[simp] theorem Leads.execMshape {rd ra : BitVec 6} (h : s.Canonical) : Leads (execMshape rd ra s) :=
  .next (.issue h (fun _ h => .ite (.trapHere h) (.outward h (fun _ h => .ite (.pollFor (.endReservation h)) (.writeBoundary h
    (.grantRows h))) (fun _ h => .takeResult h))))

theorem State.Canonical.finishMma (h : s.Canonical) : (finishMma s c x g).Canonical := .completeCmd h

theorem State.Canonical.mmaStage (h : s.Canonical) : (mmaStage s c x g).Canonical :=
  .ite (.finishMma h) (.ite (.modCmd (.served (.setRingOf (.setRingOf (.modCore h))))) h)

theorem State.Canonical.enterRow {i : Nat} (h : s.Canonical) : (enterRow s c k x g i).Canonical := .modSlot h

theorem State.Canonical.mmaStep (h : s.Canonical) : (mmaStep s c x).Canonical := by
  unfold Machine.mmaStep
  split
  · exact h
  · refine .ite (.mmaStage h) ?_
    split
    · exact .ite (.ite (.modCmd (.foldl (fun _ _ h => .enterRow h) h)) (.finishMma h)) h
    · exact .finishMma h
    · exact h

@[simp] theorem Leads.execTeMma {core : Nat} (h : s.Canonical) : Leads (execTeMma core s) := by
  refine .next ?_
  split
  · exact .ite (.mmaStep h) h
  · exact h

@[simp] theorem Leads.execTeZacc {core : Nat} (h : s.Canonical) : Leads (execTeZacc core s) := by
  refine .next ?_
  split
  · refine .ite ?_ h
    split
    · exact .completeCmd (.modCore h)
    · exact h
  · exact h

theorem State.Canonical.releaseRow (h : s.Canonical) : (releaseRow x s).Canonical := .modMe (.endReservation h)

theorem State.Canonical.writeRow {row p cols : Nat} {pass : Pass} (h : s.Canonical) : (writeRow s row p cols pass).Canonical :=
  .ite (.mark (.padStore (.bankTurnAt h))) (.padStore (.bankTurnAt h))

theorem State.Canonical.drainHere {i : Nat} {s0 : State} (h : s0.Canonical) : (drainHere i x g s0).Canonical :=
  .ite (.trapHere h) (.ite (.trapHere h) (.outward h (fun _ h => .releaseRow (.modMe (.writeRow h))) (fun _ h => .releaseRow
    (.modMe h))))

@[simp] theorem Leads.execDrain (h : s.Canonical) : Leads (execDrain s) := by
  refine .next (.issue h ?_)
  intro _ h
  split
  · split
    · split
      · exact .drainHere h
      · exact h
    · exact h
  · exact .done (.modMe h)
end

/-! ### Copies -/

section
variable {s : State} {c core n pa off chunk row code : Nat} {x : Cmd} {pol : Policy}

theorem State.Canonical.completeFill (h : s.Canonical) : (completeFill s c x).Canonical :=
  .ite (.setRingOf (.foldl (fun _ _ h => .mark h) h)) h

theorem State.Canonical.finishCopy (h : s.Canonical) : (finishCopy s c x).Canonical :=
  .ite (.refuseLate h) (.completeCmd (.completeFill h))

theorem State.Canonical.finishCopies {y : Nat} (h : s.Canonical) : (finishCopies c y s).Canonical := by
  induction y generalizing s with
  | zero => exact h
  | succ n ih =>
    unfold Machine.finishCopies
    split
    · exact .ite (ih (.finishCopy h)) h
    · exact h

theorem State.Canonical.finishHeads (h : s.Canonical) : (finishHeads s c).Canonical := .finishCopies h
theorem State.Canonical.endCopy (h : s.Canonical) : (endCopy s c x).Canonical := .modCmd h

theorem State.Canonical.burstRead {cl : Nat} (h : s.Canonical) : (burstRead s cl pol pa n).2.2.Canonical :=
  .foldl_on (fun p : _ × _ × State => p.2.2) (fun _ _ h => .burstLoad h) h

theorem State.Canonical.burstIn (h : s.Canonical) : (burstIn s c off pol pa n).2.Canonical :=
  .foldl (fun _ _ h => .mark h) (.padEngineStore (.burstRead h))

theorem State.Canonical.burstOut (h : s.Canonical) : (burstOut s c off pol pa n).2.Canonical := .writeLines h

theorem State.Canonical.burstPeer {rank : Nat} (h : s.Canonical) : (burstPeer s c x off rank pa n).2.Canonical :=
  .ite_snd (.foldl (fun _ _ h => .sendToRank (.notePeer (.fresh h))) h) (.ite_snd (.padEngineStore h) h)

theorem State.Canonical.moveBurst (h : s.Canonical) : (moveBurst s c x off pa n pol).2.Canonical := by
  unfold Machine.moveBurst
  split
  · exact .burstPeer h
  · split
    · split
      · next e => exact .of_snd e (.snoopBlocked h)
      · next e => exact .ite_snd (.writeLines (.of_snd e (.snoopBlocked h))) (.burstOut (.of_snd e (.snoopBlocked h)))
    · exact .burstIn h

theorem State.Canonical.burstDone {num : Nat} {p : Bool} (h : s.Canonical) : (burstDone s c x num n p).Canonical :=
  .modCmd (.served h)

theorem State.Canonical.holdBurst {num : Nat} {key : BitVec 32} (h : s.Canonical) : (holdBurst s c x num key).Canonical :=
  .modCmd h

theorem State.Canonical.copyBurst (h : s.Canonical) : (copyBurst s c x row chunk).Canonical := by
  unfold Machine.copyBurst
  split
  · exact .endCopy h
  · refine .ite (.burstDone (.padEngineStore h)) ?_
    split
    · exact .holdBurst h
    · split
      · next e => exact .endCopy (.of_snd e (.engineAddress h))
      · next e => exact .of_snd e (.engineAddress h)
      · next e => exact .holdBurst (.of_snd e (.engineAddress h))
      · next e =>
          split
          · next e' => exact .of_snd e' (.moveBurst (.of_snd e (.engineAddress h)))
          · next e' => exact .burstDone (.of_snd e' (.moveBurst (.of_snd e (.engineAddress h))))

theorem State.Canonical.chooseCmd {l : List Cmd} (h : s.Canonical) : (chooseCmd s l).2.Canonical := .ite_snd h (.draw h)

theorem State.Canonical.copyStep (h : s.Canonical) : (copyStep code core row chunk s).Canonical := by
  unfold Machine.copyStep
  dsimp only
  split
  · next e => exact .finishHeads (.copyBurst (.of_snd e (.chooseCmd h)))
  · next e => exact .finishHeads (.of_snd e (.chooseCmd h))

@[simp] theorem Leads.execCeCpy (h : s.Canonical) : Leads (execCeCpy core chunk s) := .next (.copyStep h)
@[simp] theorem Leads.execCeStr (h : s.Canonical) : Leads (execCeStr core row chunk s) := .next (.copyStep h)
@[simp] theorem Leads.execCeFill (h : s.Canonical) : Leads (execCeFill core chunk s) := .next (.copyStep h)

theorem EngDone.Canonical.elementParts {p : Nat} {y : List Nat} (h : s.Canonical) : (elementParts c x p n y s).Canonical := by
  induction y generalizing s with
  | nil => exact .ok h
  | cons j rest ih =>
    unfold Machine.elementParts
    dsimp only
    split
    next e => exact .range (.of_snd e (.engineAddress h))
    next e => exact .wait (.of_snd e (.engineAddress h))
    next e => exact .held (.of_snd e (.engineAddress h))
    next e =>
      have h' := State.Canonical.of_snd e (.engineAddress h)
      exact .ite (.wait (.snoopBlocked h')) (.map (ih h'))

theorem State.Canonical.moveParts {l : List (Nat × Nat × Nat × Policy)} (h : s.Canonical) :
    (moveParts c x off l s).2.Canonical := by
  refine .foldl_on Prod.snd ?_ h
  intro _ _ h
  split
  · split
    · next e => exact .of_snd e (.moveBurst h)
    · next e => exact .of_snd e (.moveBurst h)

theorem State.Canonical.element (h : s.Canonical) : (element s c x).Canonical := by
  unfold Machine.element
  split
  · exact .endCopy h
  · dsimp only
    split
    · next e => exact .endCopy (.of_range e (.elementParts h))
    · next e => exact .of_wait e (.elementParts h)
    · next e => exact .modCmd (.of_held e (.elementParts h))
    · next e => exact .modCmd (.served (.ite (.mark (.moveParts (.of_ok e (.elementParts h)))) (.moveParts (.of_ok e
          (.elementParts h)))))

theorem State.Canonical.tableStep (h : s.Canonical) : (tableStep code core s).Canonical := by
  unfold Machine.tableStep
  dsimp only
  split
  · next e => exact .finishHeads (.element (.of_snd e (.chooseCmd h)))
  · next e => exact .finishHeads (.of_snd e (.chooseCmd h))

@[simp] theorem Leads.execCeGth (h : s.Canonical) : Leads (execCeGth core s) := .next (.tableStep h)
@[simp] theorem Leads.execCeSct (h : s.Canonical) : Leads (execCeSct core s) := .next (.tableStep h)

theorem State.Canonical.descriptorDone {status : BitVec 8} {poison : Bool} (h : s.Canonical) :
    (descriptorDone s c x status poison).Canonical := .modCmd (.served h)

theorem State.Canonical.ringLoad (h : s.Canonical) : (ringLoad s c x).Canonical :=
  .ite (.descriptorDone h) (.descriptorDone (.setRingOf h))

theorem State.Canonical.ringStore (h : s.Canonical) : (ringStore s c x).Canonical := .descriptorDone (.padEngineStore h)

theorem State.Canonical.descriptorStep {move : State → Nat → Cmd → State} (h : s.Canonical)
    (hmove : ∀ (t : State) (a : Nat) (b : Cmd), t.Canonical → (move t a b).Canonical) :
    (descriptorStep code core move s).Canonical := by
  unfold Machine.descriptorStep
  dsimp only
  split
  · next e => exact .finishHeads (hmove _ _ _ (.of_snd e (.chooseCmd h)))
  · next e => exact .finishHeads (.of_snd e (.chooseCmd h))

@[simp] theorem Leads.execCeRld (h : s.Canonical) : Leads (execCeRld core s) :=
  .next (.descriptorStep h (fun _ _ _ h => .ringLoad h))

@[simp] theorem Leads.execCeRst (h : s.Canonical) : Leads (execCeRst core s) :=
  .next (.descriptorStep h (fun _ _ _ h => .ringStore h))
end

/-! ### Bank units -/

section
variable {s : State} {k core e bank c : Nat} {r : Run} {t : Told} {poison : Bool} {x : Cmd}

theorem State.Canonical.putWord {v : Nat} (h : s.Canonical) : (putWord s r e v poison).Canonical := .padRmwStore h

theorem State.Canonical.putState {off v : Nat} (h : s.Canonical) : (putState s r off v poison).Canonical := by
  unfold Machine.putState
  split
  · exact .ite (.mark (.store h)) (.store h)
  · exact .padRmwStore h

theorem State.Canonical.oneElement (h : s.Canonical) : (oneElement r e t s).2.Canonical :=
  .ite_snd (.padEngineStore h) (.putWord h)

theorem State.Canonical.oesElement (h : s.Canonical) : (oesElement r e t s).2.Canonical := .putState (.putState (.putWord h))

theorem State.Canonical.nsmElement {m sum : Nat} {ps : Bool} (h : s.Canonical) : (nsmElement r m sum ps e t s).2.Canonical :=
  .putWord h

theorem State.Canonical.welStep {n x : Nat} {p : Bool} (h : s.Canonical) : (welStep r n e x p t s).2.Canonical := by
  refine .putState (.putState (.ite ?_ h))
  split
  · exact .store h
  · exact .padStore h

theorem State.Canonical.welElement {n : Nat} (h : s.Canonical) : (welElement r n e t s).2.Canonical := .welStep h

theorem State.Canonical.histElement (h : s.Canonical) : (histElement r e t s).2.Canonical := by
  unfold Machine.histElement
  split
  · split
    · exact h
    · exact .putState h

theorem State.Canonical.topkWord {row chosen w : Nat} (h : s.Canonical) : (topkWord r row chosen poison w s).Canonical :=
  .putState h

theorem State.Canonical.orLost {step : State} (h : s.Canonical) (h' : step.Canonical) : (orLost s c x r step).Canonical :=
  .ite (.refuseLate h) h'

theorem State.Canonical.saveTold (h : s.Canonical) : (saveTold s c x t).Canonical := .modCmd (.served h)
theorem State.Canonical.finishBank (h : s.Canonical) : (finishBank s c x t).Canonical := .completeCmd h

theorem State.Canonical.elementStep {code : Nat} (h : s.Canonical) : (elementStep code c k bank s).Canonical := by
  unfold Machine.elementStep
  split
  · exact h
  · split
    · exact h
    · exact .orLost h (.ite h (.ite (.finishBank (.modCmd (.saveTold (.oneElement h)))) (.modCmd (.saveTold (.oneElement h)))))

@[simp] theorem Leads.execBuAdd (h : s.Canonical) : Leads (execBuAdd core k bank s) := .next (.elementStep h)
@[simp] theorem Leads.execBuMul (h : s.Canonical) : Leads (execBuMul core k bank s) := .next (.elementStep h)
@[simp] theorem Leads.execBuScl (h : s.Canonical) : Leads (execBuScl core k bank s) := .next (.elementStep h)
@[simp] theorem Leads.execBuMax (h : s.Canonical) : Leads (execBuMax core k bank s) := .next (.elementStep h)
@[simp] theorem Leads.execBuMin (h : s.Canonical) : Leads (execBuMin core k bank s) := .next (.elementStep h)
@[simp] theorem Leads.execBuFill (h : s.Canonical) : Leads (execBuFill core k bank s) := .next (.elementStep h)
@[simp] theorem Leads.execBuFop (h : s.Canonical) : Leads (execBuFop core k bank s) := .next (.elementStep h)

@[simp] theorem Leads.execBuCas (h : s.Canonical) : Leads (execBuCas core k s) := by
  refine .next ?_
  split
  · exact .elementStep h
  · exact h

theorem State.Canonical.statefulElement {kept : Nat} (h : s.Canonical) : (statefulElement r kept e t s).2.Canonical := by
  unfold Machine.statefulElement
  split
  · exact .oesElement h
  · exact .nsmElement h
  · exact .welElement h
  · exact .histElement h

theorem State.Canonical.statefulStep {code : Nat} (h : s.Canonical) : (statefulStep code c k s).Canonical := by
  unfold Machine.statefulStep
  split
  · exact h
  · refine .orLost h (.ite h ?_)
    split
    · exact .finishBank h
    · exact .ite (.finishBank (.modCmd (.saveTold (.statefulElement h)))) (.modCmd (.saveTold (.statefulElement h)))

@[simp] theorem Leads.execBuOes (h : s.Canonical) : Leads (execBuOes core k s) := .next (.statefulStep h)
@[simp] theorem Leads.execBuHist (h : s.Canonical) : Leads (execBuHist core k s) := .next (.statefulStep h)
@[simp] theorem Leads.execBuWel (h : s.Canonical) : Leads (execBuWel core k s) := .next (.statefulStep h)
@[simp] theorem Leads.execBuNsm (h : s.Canonical) : Leads (execBuNsm core k s) := .next (.statefulStep h)

theorem State.Canonical.topkStep (h : s.Canonical) : (topkStep c k s).Canonical := by
  unfold Machine.topkStep
  split
  · exact h
  · refine .orLost h (.ite h ?_)
    split
    · exact .modCmd (.saveTold h)
    · exact .ite (.modCmd (.topkWord h)) (.ite (.modCmd (.topkWord h)) (.finishBank (.topkWord h)))

@[simp] theorem Leads.execBuTopk (h : s.Canonical) : Leads (execBuTopk core k s) := .next (.topkStep h)
end

/-! ### Stack units and the base die -/

section
variable {s : State} {x : Cmd} {c core k stack pch : Nat} {q : Sequence}

theorem State.Canonical.setPchFor {p : Pch} (h : s.Canonical) : (setPchFor s x p).Canonical := .setPch h
theorem State.Canonical.holdCmd {e : Engine} {key : BitVec 32} (h : s.Canonical) : (holdCmd s c e x key).Canonical := .modCmd h

theorem State.Canonical.flushPch {banks : Nat → Bool} (h : s.Canonical) : (flushPch s stack pch banks).Canonical :=
  .foldl (fun _ _ h => .ite (.flushBurst h) h) h

@[simp] theorem Leads.execSuModeEnter (h : s.Canonical) : Leads (execSuModeEnter core k s) := by
  refine .next ?_
  split
  · exact h
  · exact .ite h (.ite (.refuseLate h) (.ite (.completeCmd h) (.completeCmd (.setPchFor (.flushPch h)))))

@[simp] theorem Leads.execSuModeLeave (h : s.Canonical) : Leads (execSuModeLeave core k s) := by
  refine .next ?_
  split
  · exact h
  · exact .ite h (.ite (.refuseLate h) (.completeCmd (.ite (.setPchFor h) h)))

@[simp] theorem Leads.execSuProg (h : s.Canonical) : Leads (execSuProg core k s) := by
  refine .next ?_
  split
  · exact h
  · refine .ite (.refuseLate h) ?_
    split
    · exact .completeCmd h
    · split
      · next e => exact .completeCmd (.of_range e (.readRange h))
      · next e => exact .holdCmd (.of_held e (.readRange h))
      · next e => exact .of_wait e (.readRange h)
      · next e => exact .ite (.completeCmd (.of_ok e (.readRange h))) (.ite (.refuseLate (.of_ok e (.readRange h))) (.completeCmd
            (.setPchFor (.of_ok e (.readRange h)))))

theorem State.Canonical.bankDone {poison : Bool} (h : s.Canonical) : (bankDone s c x poison).Canonical :=
  .ite (.completeCmd h) (.modCmd h)

/-- A bank transfer that did not end well takes its state from the part that failed. -/
theorem State.Canonical.bankOutcome_map {α : Type} {d : EngDone α} {t : State} (h : d.Canonical) (ht : t.Canonical) :
    (bankOutcome c x (d.map fun _ => t)).Canonical := by
  cases h with
  | ok => exact ht
  | range h => exact .completeCmd h
  | held h => exact .holdCmd h
  | wait h => exact h

@[simp] theorem Leads.execSuBcast (h : s.Canonical) : Leads (execSuBcast core k s) := by
  refine .next ?_
  split
  · exact h
  · refine .ite (.refuseLate h) (.ite h ?_)
    split
    · exact .completeCmd (.modCmd h)
    · dsimp only
      split
      · next e => exact .bankDone (.setPchFor (.of_ok e (.readRange (.modCmd h))))
      · exact .bankOutcome_map (.readRange (.modCmd h)) (.modCmd h)

theorem State.Canonical.bankWord {w : Word} {bank : Nat} {acc : State × BitVec 7 × Bool} (h : acc.1.Canonical) :
    (bankWord x w bank acc).1.Canonical := by
  unfold Machine.bankWord
  dsimp only
  refine .ite_fst (.setPch h) (.noteGlobal (.engineStore (.setPch h)))

theorem State.Canonical.startSequence {p : Pch} (h : s.Canonical) : (startSequence s c x p).Canonical :=
  .ite (.refuseLate h) (.ite (.completeCmd h) (.modCmd (.setPchFor h)))

theorem State.Canonical.wordBlocked {w : Word} (h : s.Canonical) : (wordBlocked x w q s).2.Canonical := by
  rw [Machine.wordBlocked]
  split
  · exact h
  · refine .foldl_pair (fun _ _ h => ?_) h
    split
    next e => exact ⟨_, _, rfl, .of_snd e (.snoopBlocked h)⟩

theorem State.Canonical.yieldPoint (h : s.Canonical) : (yieldPoint s x q).Canonical := .setPchFor (.flushPch h)

theorem State.Canonical.runWordStep (h : s.Canonical) : (runWordStep s c x q).Canonical := by
  refine .ite h ?_
  split
  · next e => exact .of_snd e (.wordBlocked h)
  · next e => exact .ite (.completeCmd (.setPchFor (.yieldPoint (.foldl_on Prod.fst (fun _ _ h => .bankWord h) (.of_snd e
        (.wordBlocked h)))))) (.ite (.yieldPoint (.foldl_on Prod.fst (fun _ _ h => .bankWord h) (.of_snd e (.wordBlocked h))))
        (.setPchFor (.foldl_on Prod.fst (fun _ _ h => .bankWord h) (.of_snd e (.wordBlocked h)))))

@[simp] theorem Leads.execSuRun (h : s.Canonical) : Leads (execSuRun core k s) := by
  refine .next ?_
  split
  · exact h
  · dsimp only
    split
    · exact .ite (.runWordStep h) (.ite (.refuseLate h) h)
    · exact .ite (.refuseLate h) (.startSequence h)

@[simp] theorem Leads.execSuRead (h : s.Canonical) : Leads (execSuRead core k s) := by
  refine .next ?_
  split
  · exact h
  · refine .ite (.refuseLate h) ?_
    split
    · exact .completeCmd (.modCmd h)
    · dsimp only
      split
      · next e => exact .bankDone (.of_ok e (.writeRange (.modCmd h) fun _ _ _ _ _ _ _ h => .resultStore h))
      · exact .bankOutcome_map (.writeRange (.modCmd h) fun _ _ _ _ _ _ _ h => .resultStore h) (.modCmd h)

theorem State.Canonical.abortSequence (h : s.Canonical) : (abortSequence s stack pch).Canonical := by
  unfold Machine.abortSequence
  dsimp only
  split
  · exact h
  · split
    · exact .completeCmd (.setPch h)
    · exact .setPch h

@[simp] theorem Leads.execSuAbort (h : s.Canonical) : Leads (execSuAbort core k s) := by
  refine .next ?_
  split
  · exact h
  · exact .ite (.refuseLate h) (.completeCmd (.abortSequence h))

theorem State.Canonical.cancelQueued {lid : BitVec 32} (h : s.Canonical) : (cancelQueued s stack pch lid).Canonical :=
  .foldl (fun _ _ h => .foldl (fun _ _ h => .completeCmd h) h) h

theorem State.Canonical.releasePch (h : s.Canonical) : (releasePch s stack pch).Canonical :=
  .ite (.setPch (.ite (.cancelQueued (.abortSequence h)) (.abortSequence h))) (.ite (.cancelQueued (.abortSequence h))
    (.abortSequence h))

@[simp] theorem Leads.execRefresh (h : s.Canonical) : Leads (execRefresh stack pch s) := .next (.ite (.setPch h) h)

theorem EngDone.Canonical.pagesOk {r w : Bool} {test : Nat → Bool} {y : List Nat} (h : s.Canonical) :
    (pagesOk c x r w test y s).Canonical := by
  induction y generalizing s with
  | nil => exact .ok h
  | cons va rest ih =>
    unfold Machine.pagesOk
    split
    next e => exact .ite (ih (.of_snd e (.engineAddress h))) (.ok (.of_snd e (.engineAddress h)))
    next e => exact .range (.of_snd e (.engineAddress h))
    next e => exact .held (.of_snd e (.engineAddress h))
    next e => exact .wait (.of_snd e (.engineAddress h))

theorem EngDone.Canonical.rangesOk {y : List (Word × Nat × Bool × Bool × Bool)} (h : s.Canonical) :
    (rangesOk c x y s).Canonical := by
  induction y generalizing s with
  | nil => exact .ok h
  | cons range rest ih =>
    obtain ⟨a, n, r, w, here⟩ := range
    rw [Machine.rangesOk]
    split
    · exact .ok h
    · split
      · next e => exact ih (.of_ok e (.pagesOk h))
      · exact .pagesOk h

theorem State.Canonical.endSum (h : s.Canonical) : (endSum s c x).Canonical := .completeCmd h
theorem State.Canonical.refuseSum {status : Nat} (h : s.Canonical) : (refuseSum s c x status).Canonical := .refuseLate h

theorem State.Canonical.startSum (h : s.Canonical) : (startSum s c x).Canonical := by
  unfold Machine.startSum
  split
  · exact .refuseSum h
  · split
    · next e => exact .refuseSum (.of_range e (.readRange h))
    · next e => exact .holdCmd (.of_held e (.readRange h))
    · next e => exact .of_wait e (.readRange h)
    · next e =>
        refine .ite (.refuseSum (.of_ok e (.readRange h))) (.ite (.refuseSum (.of_ok e (.readRange h))) ?_)
        split
        · next e' => exact .modCmd (.of_ok e' (.rangesOk (.of_ok e (.readRange h))))
        · next e' => exact .refuseSum (.of_ok e' (.rangesOk (.of_ok e (.readRange h))))
        · next e' => exact .refuseSum (.of_range e' (.rangesOk (.of_ok e (.readRange h))))
        · next e' => exact .holdCmd (.of_held e' (.rangesOk (.of_ok e (.readRange h))))
        · next e' => exact .of_wait e' (.rangesOk (.of_ok e (.readRange h)))

theorem EngDone.Canonical.operandLine {block e i : Nat} (h : s.Canonical) : (operandLine c x block e i s).Canonical := by
  unfold Machine.operandLine
  split
  · exact .range h
  · split
    · next e => exact .ok (.of_snd e (.engineAddress h))
    · next e => exact .range (.of_snd e (.engineAddress h))
    · next e => exact .held (.of_snd e (.engineAddress h))
    · next e => exact .wait (.of_snd e (.engineAddress h))

theorem EngDone.Canonical.operandLines {block e : Nat} {y : List Nat} (h : s.Canonical) :
    (operandLines c x block e y s).Canonical := by
  induction y generalizing s with
  | nil => exact .ok h
  | cons i rest ih =>
    unfold Machine.operandLines
    split
    next e => exact .map (ih (.of_ok e (.operandLine h)))
    next e => exact .range (.of_range e (.operandLine h))
    next e => exact .held (.of_held e (.operandLine h))
    next e => exact .wait (.of_wait e (.operandLine h))

theorem State.Canonical.sumStep (h : s.Canonical) : (sumStep s c x).Canonical := by
  unfold Machine.sumStep
  split
  · next e _ =>
      split
      · dsimp only
        split
        · next e' => exact .modCmd (.of_ok e' (.writeRange (.of_ok e (.operandLines h)) (fun _ _ _ _ _ _ _ h => .resultStore h)))
        · next e' => exact .holdCmd (.of_held e' (.writeRange (.of_ok e (.operandLines h)) (fun _ _ _ _ _ _ _ h => .resultStore
              h)))
        · next e' => exact .of_wait e' (.writeRange (.of_ok e (.operandLines h)) (fun _ _ _ _ _ _ _ h => .resultStore h))
        · next e' => exact .endSum (.of_range e' (.writeRange (.of_ok e (.operandLines h)) (fun _ _ _ _ _ _ _ h => .resultStore
              h)))
  · next e => exact .holdCmd (.of_held e (.operandLines h))
  · next e => exact .of_wait e (.operandLines h)
  · next e => exact .endSum (.of_range e (.operandLines h))
  · next e _ => exact .endSum (.of_ok e (.operandLines h))

theorem State.Canonical.storeFlag {pol : Policy} {pa fval : Nat} (h : s.Canonical) : (storeFlag s c pol pa fval).Canonical :=
  .ite (.combineStore h) (.noteGlobal (.homeStore h))

theorem State.Canonical.finishSum (h : s.Canonical) : (finishSum s c x).Canonical := by
  refine .ite (.ite (.writeOutAll h) h) ?_
  split
  · exact .endSum (.ite (.writeOutAll h) h)
  · split
    · next e =>
        split
        · dsimp only
          split
          · next e' => exact .completeCmd (.of_snd e' (.peerTransfer (.of_snd e (.engineAddress (.ite (.writeOutAll h) h)))))
          · next e' => exact .of_snd e' (.peerTransfer (.of_snd e (.engineAddress (.ite (.writeOutAll h) h))))
        · split
          · next e' => exact .of_snd e' (.snoopBlocked (.of_snd e (.engineAddress (.ite (.writeOutAll h) h))))
          · next e' => exact .completeCmd (.storeFlag (.of_snd e' (.snoopBlocked (.of_snd e (.engineAddress (.ite (.writeOutAll h)
                h))))))
    · next e => exact .endSum (.of_snd e (.engineAddress (.ite (.writeOutAll h) h)))
    · next e => exact .holdCmd (.of_snd e (.engineAddress (.ite (.writeOutAll h) h)))
    · next e => exact .of_snd e (.engineAddress (.ite (.writeOutAll h) h))

@[simp] theorem Leads.execBreSum (h : s.Canonical) : Leads (execBreSum core k s) := by
  refine .next ?_
  split
  · exact h
  · exact .ite h (.ite (.startSum h) (.ite (.sumStep h) (.finishSum h)))
end

/-! ### Fences -/

section
variable {s : State} {ra : BitVec 6}

theorem State.Canonical.settleOwned {c k : Nat} (h : s.Canonical) : (settleOwned s c k).Canonical :=
  .foldl (fun _ _ h => .cleanLine h) h

theorem Leads.fenceOp {i : Instr} {holds : State → Word → Bool} {p : Word → Poll} {settle : State → State} (h : s.Canonical)
    (hsettle : ∀ (t : State), t.Canonical → (settle t).Canonical) : Leads (fenceOp i ra holds p settle s) :=
  .next (.issue h (fun _ h => .ite (.trapHere h) (.ite (.doneNext (hsettle _ h)) (.pollFor h))))

@[simp] theorem Leads.execFence (h : s.Canonical) : Leads (execFence ra s) := .fenceOp h (fun _ h => h)
@[simp] theorem Leads.execFenceB (h : s.Canonical) : Leads (execFenceB ra s) := .fenceOp h (fun _ h => h)
@[simp] theorem Leads.execFenceA (h : s.Canonical) : Leads (execFenceA ra s) := .fenceOp h (fun _ h => .settleOwned h)
end

/-! ### Fetching -/

section
variable {s : State} {c pa k : Nat} {pol : Policy}

theorem State.Canonical.fetchFaultHere {c : Cause} (h : s.Canonical) : (fetchFaultHere c s).Canonical := .trapHere (.modMe h)

@[simp] theorem Leads.execFetchFault {cause : BitVec 8} (h : s.Canonical) : Leads (execFetchFault cause s) := by
  refine .next ?_
  split
  · exact .ite (.fetchFaultHere h) h
  · exact h

theorem State.Canonical.illegalHere {word : BitVec 32} (h : s.Canonical) : (illegalHere word s).Canonical := .trapHere (.modMe h)

@[simp] theorem Leads.execIllegalInstruction {word : BitVec 32} (h : s.Canonical) : Leads (execIllegalInstruction word s) := by
  refine .next ?_
  split
  · exact h
  · exact .illegalHere h

theorem State.Canonical.icacheRoom (h : s.Canonical) : (icacheRoom c s).Canonical := .ite h (.modCore (.draw h))

theorem State.Canonical.cacheWords {ctag : BitVec 4} {v : Nat} (h : s.Canonical) : (cacheWords c ctag pa v s).Canonical :=
  .foldl (fun _ _ h => .modCore h) (.icacheRoom h)

theorem State.Canonical.codeLoad {n : Nat} (h : s.Canonical) : (codeLoad s c pol pa n).2.Canonical := by
  unfold Machine.codeLoad
  split
  · next e =>
      refine .of_third e ?_
      split
      · exact .combineLoad h
      · exact .homeLoad h

theorem State.Canonical.codeLine (h : s.Canonical) : (codeLine s c k pol pa).2.Canonical := by
  unfold Machine.codeLine
  dsimp only
  split
  · exact .ite (.dropAnswers (.peerTransfer h)) (.peerTransfer h)
  · exact .ite_snd h (.codeLoad h)

theorem State.Canonical.fetchWord (h : s.Canonical) : (fetchWord s c k pol pa).2.Canonical := by
  unfold Machine.fetchWord
  split
  · next e =>
      split
      · dsimp only
        split
        · exact .cacheWords (.of_snd e (.codeLine h))
        · exact h
      · dsimp only
        split
        · exact .cacheWords (.of_snd e (.codeLine h))
        · exact .ite_snd h (.ite_snd (.update h) (.modCore (.update h)))
  · next e =>
      split
      · dsimp only
        split
        · exact .of_snd e (.codeLine h)
        · exact h
      · dsimp only
        split
        · exact .of_snd e (.codeLine h)
        · exact .ite_snd h (.ite_snd (.update h) (.modCore (.update h)))

theorem State.Canonical.fetchInto (h : s.Canonical) : (fetchInto s c k).Canonical := by
  unfold Machine.fetchInto
  split
  · split
    · exact .fetchWord h
    · exact h
  · exact h

theorem Turn.Canonical.runOfWord {w : BitVec 32} (h : s.Canonical) : (runOfWord w s).Canonical := by
  unfold Machine.runOfWord
  split
  · exact .run h
  · exact .ended (.illegalHere h)

theorem Turn.Canonical.fetchNext (h : s.Canonical) : (fetchNext s).Canonical := by
  unfold Machine.fetchNext
  split
  · exact .ended (.fetchFaultHere h)
  · split
    · split
      · split
        · next e => exact .runOfWord (.of_snd e (.fetchWord h))
        · next e => exact .ended (.pollFor (.of_snd e (.fetchWord h)))
      · exact .ended (.awaitTranslation h)
    · exact .ended h

theorem Turn.Canonical.takeTurn (h : s.Canonical) : (takeTurn s).Canonical := by
  unfold Machine.takeTurn
  dsimp only
  split
  · exact .ended (.issuePush h)
  · exact .ite (.ended (.enterCompletion (.update h))) (.ite (.runOfWord h) (.fetchNext h))
end

/-! ### Replies -/

section
variable {s : State} {f : Flight} {pol : Policy} {k pa c block : Nat}

theorem State.Canonical.asSlot {f : State → State} (h : s.Canonical) (hf : ∀ (t : State), t.Canonical → (f t).Canonical) :
    (asSlot s c k f).Canonical := .update (hf _ (.update h))

theorem State.Canonical.pollEnds {p : Poll} (h : s.Canonical) : (pollEnds s c k p).Canonical := by
  unfold Machine.pollEnds
  split
  · exact .goOn h
  · exact .goOn h
  · exact .goOn h
  · exact .goOn h
  · exact .reissue (.fetchInto h)
  · exact .reissue h

theorem State.Canonical.takeToken {rd : BitVec 6} {v : Word} (h : s.Canonical) : (takeToken rd v s).Canonical :=
  .writeNext (.receive h) (.receive h)

theorem State.Canonical.takeReply (h : s.Canonical) : (takeReply s c k).Canonical := by
  unfold Machine.takeReply
  dsimp only
  split
  · split
    · exact .ite h (.asSlot h (fun _ h => .settle h h))
    · exact h
  · split
    · exact .asSlot h (fun _ h => .settle h h)
    · exact h
  · split
    · exact .asSlot h (fun _ h => .takeToken h)
    · exact h
  · split
    · exact .asSlot h (fun _ h => .takeToken h)
    · exact h
  · split
    · exact .ite (.asSlot h (fun _ h => .finishVec h)) h
    · exact h
  · exact .ite (.pollEnds h) h
  · exact h

@[simp] theorem Leads.execPlacedSlotActivate {core slot : Nat} (h : s.Canonical) : Leads (execPlacedSlotActivate core slot s) :=
  .next (.modSlot h)

theorem State.Canonical.landed (h : s.Canonical) : (landed s k).Canonical := .update h

theorem State.Canonical.joinQueue {g : Nat} (h : s.Canonical) : (joinQueue s g pol f).Canonical :=
  .ite (.update h) (.ite (.update (.grantOne h)) (.grantOne h))

theorem State.Canonical.watchHome {g : Nat} (h : s.Canonical) : (watchHome s g pol f).Canonical :=
  .ite (.homeAnswer (.homeLoad h)) (.update (.homeLoad h))

theorem State.Canonical.serveAdmitted (h : s.Canonical) : (serveAdmitted s pa pol f).Canonical :=
  .ite (.watchHome h) (.joinQueue h)

theorem State.Canonical.atomicOwn (h : s.Canonical) : (atomicOwn s pa pol f).Canonical := by
  refine .passGranule (.homeAnswer ?_)
  split
  · exact .wakeGlobal (.homeStore (.homeLoad h))
  · exact .homeLoad h

theorem State.Canonical.loadHere {signed : Bool} (h : s.Canonical) : (loadHere s pa pol signed f).Canonical := by
  unfold Machine.loadHere
  split
  · next e =>
      refine .homeAnswer (.of_third e ?_)
      split
      · exact .combineLoad h
      · exact .homeLoad h

theorem State.Canonical.storeHere (h : s.Canonical) : (storeHere s pa pol f).Canonical :=
  .ite (.homeAnswer (.combineStore h)) (.homeAnswer (.noteGlobal (.homeStore h)))

theorem State.Canonical.sresHere (h : s.Canonical) : (sresHere s pa pol f).Canonical :=
  .ite (.homeAnswer (.passGranule (.wakeGlobal (.homeStore h)))) (.homeAnswer (.endReservation h))

theorem State.Canonical.performHome (h : s.Canonical) : (performHome s pa pol f).Canonical := by
  refine .ite (.ite (.serveAdmitted h) (.modCore h)) ?_
  split
  · exact .loadHere h
  · exact .storeHere h
  · exact .sresHere h
  · exact .watchHome h
  · exact .atomicOwn h

theorem State.Canonical.reachHome (h : s.Canonical) : (reachHome s k f).Canonical := by
  unfold Machine.reachHome
  split
  · refine .ite h ?_
    split
    · next e =>
        refine .of_snd e ?_
        split
        · exact .snoopBlocked h
        · exact h
    · next e =>
        refine .performHome (.landed (.of_snd e ?_))
        split
        · exact .snoopBlocked h
        · exact h
  · exact h

@[simp] theorem Leads.execReservationTimeout {granule : Nat} (h : s.Canonical) : Leads (execReservationTimeout granule s) := by
  refine .next ?_
  split
  · exact .ite (.passGranule h) h
  · exact h

theorem State.Canonical.watchValue {w : Watch} (h : s.Canonical) : (watchValue s w).2.2.Canonical := by
  unfold Machine.watchValue
  split
  · exact .granuleValue h
  · exact .padGranule h

theorem State.Canonical.endAdmitted {h : Nat} (hs : s.Canonical) : (endAdmitted h s f).Canonical := by
  unfold Machine.endAdmitted
  split
  · exact .ite hs (.homeAnswer (.granuleValue (.modCore hs)))
  · exact hs

@[simp] theorem Leads.execWrsTimeout {core slot : Nat} (h : s.Canonical) : Leads (execWrsTimeout core slot s) :=
  .next (.ite h (.endWatches (.foldl (fun _ _ h => .foldl (fun _ _ h => .endAdmitted h) h) h) (fun _ _ h => .watchValue h)))

@[simp] theorem Leads.execHomeAdmission {home : Nat} (h : s.Canonical) : Leads (execHomeAdmission home s) := by
  refine .next ?_
  split
  · exact h
  · split
    · refine .ite h ?_
      split
      · next e => exact .of_snd e (.homeWaits h)
      · exact .serveAdmitted (.modCore h)
    · exact h

@[simp] theorem Leads.execRemoteAccess (h : s.Canonical) : Leads (execRemoteAccess k s) := by
  refine .next ?_
  split
  · exact h
  · split
    · refine .ite h (.ite (.flightAnswer (.landed h)) ?_)
      split
      · next e => exact .flightAnswer (.ite (.mark (.of_snd e (.padAccess (.landed h)))) (.of_snd e (.padAccess (.landed h))))
      · next e => exact .of_snd e (.padAccess (.landed h))
    · exact h

theorem State.Canonical.age {a : Ager} (h : s.Canonical) : (a.age s).Canonical := by
  unfold Machine.Ager.age
  split
  · exact .modCmd h
  · exact .modCore h

@[simp] theorem Leads.execBankRequesterAged (h : s.Canonical) : Leads (execBankRequesterAged k s) := by
  refine .next ?_
  split
  · exact .ite (.update h) h
  · split
    · exact .age h
    · exact h

@[simp] theorem Leads.execCombineWriteOut {cluster : Nat} (h : s.Canonical) : Leads (execCombineWriteOut cluster block s) :=
  .next (.writeOut h)

@[simp] theorem Leads.execCombineTimeout {cluster : Nat} (h : s.Canonical) : Leads (execCombineTimeout cluster block s) := by
  refine .next ?_
  split
  · exact .ite (.writeOut h) h
  · exact h

@[simp] theorem Leads.execHbmBurstMergeClose (h : s.Canonical) : Leads (execHbmBurstMergeClose block s) := by
  refine .next ?_
  split
  · exact .ite (.flushBurst h) h
  · exact h
end

/-! ### Collectives -/

section
variable {s : State} {c r k core : Nat} {x : Cmd} {ctag : BitVec 4} {i : Coll}

theorem State.Canonical.putColl {x : Coll} (h : s.Canonical) : (putColl s x).Canonical := .ite (.update h) (.update h)
theorem State.Canonical.admitRank (h : s.Canonical) : (admitRank s ctag r).Canonical := .update h

theorem State.Canonical.leafArrives {a : LeafArrival} (h : s.Canonical) : (leafArrives s a).Canonical :=
  .ite h (.ite (.admitRank (.putColl h)) (.putColl h))

@[simp] theorem Leads.execClePartialArrival {arrival : LeafArrival} (h : s.Canonical) : Leads (execClePartialArrival arrival s) :=
  .next (.leafArrives h)

theorem State.Canonical.leafFlitArrives {a : LeafArrival} {part : Nat} {poison : Bool} (h : s.Canonical) :
    (leafFlitArrives s a part poison).Canonical := .ite (.ite h (.leafArrives h)) (.ite (.ite (.putColl h) h) (.leafArrives h))

theorem State.Canonical.leaveRank (h : s.Canonical) : (leaveRank s ctag r).Canonical :=
  .ite h (.ite (.pushEvent (.update h)) (.update h))

theorem State.Canonical.dropRank (h : s.Canonical) : (dropRank s ctag r).Canonical :=
  .ite h (.leaveRank (.foldl (fun _ _ h => .sendToRank h) h))

theorem State.Canonical.ranksLost {p : Nat} (h : s.Canonical) : (ranksLost s p).Canonical :=
  .foldl (fun _ _ h => .ite (.leaveRank (.foldl (fun _ _ h => .dropRank h) h)) (.foldl (fun _ _ h => .dropRank h) h)) h

theorem EngDone.Canonical.readChunks {va : Nat} {y : List Nat} (h : s.Canonical) : (readChunks c x va y s).Canonical := by
  induction y generalizing s with
  | nil => exact .ok h
  | cons i rest ih =>
    unfold Machine.readChunks
    split
    next e => exact .map (ih (.of_ok e (.readParts h)))
    next e => exact .ok (.of_range e (.readParts h))
    next e => exact .held (.of_held e (.readParts h))
    next e => exact .wait (.of_wait e (.readParts h))

theorem EngDone.Canonical.readBitmap {va : Nat} (h : s.Canonical) : (readBitmap s c x va).Canonical := by
  unfold Machine.readBitmap
  split
  · next e => exact .ok (.of_ok e (.readRange h))
  · next e => exact .ok (.of_range e (.readRange h))
  · next e => exact .held (.of_held e (.readRange h))
  · next e => exact .wait (.of_wait e (.readRange h))

theorem EngDone.Canonical.readLeaf {self : Nat} (h : s.Canonical) : (readLeaf s c x self).Canonical := by
  unfold Machine.readLeaf
  split
  · exact .ok h
  · exact .ite (.map (.readBitmap h)) (.map (.close (.readChunks h)))

theorem State.Canonical.sendLeaf {flits : List (Bool × FlitBody)} (h : s.Canonical) : (sendLeaf flits ctag s r).Canonical :=
  .foldl (fun _ _ h => .sendToRank h) h

theorem State.Canonical.refuseCle {status : Nat} (h : s.Canonical) : (refuseCle s c x status).Canonical := .refuseLate h

theorem State.Canonical.enterColl (h : s.Canonical) : (enterColl s c x i).Canonical := by
  unfold Machine.enterColl
  dsimp only
  split
  · next e => exact .holdCmd (.of_held e (.readLeaf h))
  · next e => exact .of_wait e (.readLeaf h)
  · next e => exact .of_range e (.readLeaf h)
  · next e => exact .foldl (fun _ _ h => .sendLeaf h) (.modCmd (.putColl (.of_ok e (.readLeaf h))))

theorem State.Canonical.joinColl (h : s.Canonical) : (joinColl s c x).Canonical :=
  .ite (.refuseCle h) (.ite h (.ite (.refuseCle h) (.ite (.refuseCle h) (.enterColl h))))

theorem State.Canonical.endInstance (h : s.Canonical) : (endInstance s i).Canonical := .putColl h
theorem State.Canonical.endCle {status value : Nat} (h : s.Canonical) : (endCle s c x status value).Canonical := .completeCmd h

theorem State.Canonical.writeChunk {chunk : Nat → Bytes} {value : Nat} (h : s.Canonical) :
    (writeChunk s c x i chunk value).Canonical := by
  unfold Machine.writeChunk
  dsimp only
  refine .ite (.endCle (.endInstance h)) ?_
  split
  · exact .endCle (.endInstance h)
  · split
    · next e => exact .modCmd (.of_ok e (.writeRange h fun _ _ _ _ _ _ _ h => .recordStore h))
    · next e => exact .holdCmd (.of_held e (.writeRange h fun _ _ _ _ _ _ _ h => .recordStore h))
    · next e => exact .of_wait e (.writeRange h fun _ _ _ _ _ _ _ h => .recordStore h)
    · next e => exact .endCle (.endInstance (.of_range e (.writeRange h fun _ _ _ _ _ _ _ h => .recordStore h)))

theorem State.Canonical.finishMask (h : s.Canonical) : (finishMask s c x i).Canonical :=
  .endCle (.putColl (.foldl (fun _ _ h => .admitRank h) (.update h)))

theorem State.Canonical.cleStep {code : Nat} {fin : State → Cmd → Coll → State} (h : s.Canonical)
    (hfin : ∀ (t : State) (a : Cmd) (b : Coll), t.Canonical → (fin t a b).Canonical) : (cleStep code c k fin s).Canonical := by
  unfold Machine.cleStep
  split
  · exact h
  · refine .ite (.joinColl h) ?_
    split
    · exact h
    · exact .ite (.refuseCle (.endInstance h)) (.ite h (.ite (.endCle (.endInstance h)) (hfin _ _ _ h)))

@[simp] theorem Leads.execCleMs (h : s.Canonical) : Leads (execCleMs core k s) :=
  .next (.cleStep h (fun _ _ _ h => .writeChunk h))

@[simp] theorem Leads.execCleBc (h : s.Canonical) : Leads (execCleBc core k s) :=
  .next (.cleStep h (fun _ _ _ h => .writeChunk h))

@[simp] theorem Leads.execCleMsk (h : s.Canonical) : Leads (execCleMsk core k s) :=
  .next (.cleStep h (fun _ _ _ h => .finishMask h))
end

/-! ### Links -/

section
variable {s : State} {p core pa k port : Nat} {poison : Bool} {q : PeerReq} {f : Flit}

theorem State.Canonical.capsuleLost {ident : Nat} {lid : BitVec 32} (h : s.Canonical) :
    (capsuleLost s core ident lid).Canonical := .setErr (.pushEvent h)

theorem State.Canonical.crossingLost {ident : Nat} (h : s.Canonical) : (crossingLost s core ident).Canonical := .update h

theorem State.Canonical.linkDown (h : s.Canonical) : (linkDown s p).Canonical :=
  .ite (.ranksLost (.foldl (fun _ _ h => .crossingLost (.capsuleLost h)) (.pushEvent (.update (.holdRanks h))))) h

theorem State.Canonical.takeAck {ack : BitVec 12} (h : s.Canonical) : (takeAck s p ack).Canonical := .ite (.update h) h

theorem State.Canonical.resend {expected : BitVec 12} (h : s.Canonical) : (resend s p expected).Canonical :=
  .ite (.ite (.linkDown h) (.update h)) h

theorem State.Canonical.sendControl {body : FlitBody} (h : s.Canonical) : (sendControl s p body).Canonical := .sendFlit h

theorem State.Canonical.peerRequestBlocked {n : Nat} {op : PeerOp} (h : s.Canonical) :
    (peerRequestBlocked s pa n op).2.Canonical := by
  unfold Machine.peerRequestBlocked
  split
  · split
    · exact .ite_snd h h
    · dsimp only
      split
      · exact h
      · exact .snoopBlocked h
  · split
    · exact .ite_snd h h
    · dsimp only
      split
      · exact h
      · exact .snoopBlocked h
  · split
    · exact .ite_snd h h
    · dsimp only
      split
      · exact h
      · exact .snoopBlocked h

theorem State.Canonical.poisonLine (h : s.Canonical) : (poisonLine s pa poison).Canonical := by
  unfold Machine.poisonLine
  split
  · exact .update (.widen h)
  · exact h

theorem State.Canonical.performPeer {op : PeerOp} (h : s.Canonical) : (performPeer s pa op poison).2.2.Canonical := by
  cases op with
  | read =>
    rw [Machine.performPeer]
    split
    next e => exact .of_third e (.homeLoad h)
  | write => exact .noteGlobal (.poisonLine (.homeStore h))
  | amo =>
    rw [Machine.performPeer]
    split
    next e =>
      dsimp only
      exact .wakeGlobal (.poisonLine (.homeStore (.of_third e (.homeLoad h))))
  | cas =>
    rw [Machine.performPeer]
    split
    next e =>
      have h' := State.Canonical.of_third e (.homeLoad h)
      dsimp only
      exact .ite (.wakeGlobal (.poisonLine (.homeStore h'))) h'

theorem State.Canonical.performCall {q : PeerCall} (h : s.Canonical) : (performCall s k q).Canonical := by
  refine .ite h (.ite (.sendToRank (.update h)) ?_)
  split
  · next e => exact .of_snd e (.peerRequestBlocked h)
  · next e => exact .sendToRank (.update (.performPeer (.of_snd e (.peerRequestBlocked h))))

@[simp] theorem Leads.execHomeAccess (h : s.Canonical) : Leads (execHomeAccess k s) := by
  refine .next ?_
  split
  · exact .reachHome h
  · exact .performCall h
  · exact h

theorem State.Canonical.bringAnswer {v : Word} (h : s.Canonical) : (bringAnswer s q v poison).Canonical := by
  refine .ite (.update h) (.ite ?_ (.ite h (.modCmd ?_)))
  · split <;> exact .flightAnswer h
  · split
    · exact .padEngineStore h
    · exact h

theorem State.Canonical.peerAnswer {v : Word} (h : s.Canonical) : (peerAnswer s q v poison).Canonical :=
  .releaseRanks (.bringAnswer (.update h))

theorem State.Canonical.peerFailed (h : s.Canonical) : (peerFailed s q).Canonical := .peerAnswer h

@[simp] theorem Leads.execPeerResponseTimeout (h : s.Canonical) : Leads (execPeerResponseTimeout k s) := by
  refine .next ?_
  split
  · exact .ite (.peerFailed h) h
  · exact h

theorem State.Canonical.inboundRequest {q : Inbound} {launch : BitVec 32} (h : s.Canonical) :
    (inboundRequest s q core launch).Canonical := .ite (.update h) (.sendToRank h)

theorem State.Canonical.deliverFlit {ctag : BitVec 4} (h : s.Canonical) : (deliverFlit s ctag f).Canonical := by
  unfold Machine.deliverFlit
  split
  · exact .update h
  · split
    · exact .peerAnswer h
    · exact .update h
  · exact .inboundRequest h
  · exact .leafFlitArrives h
  · exact .leaveRank h
  · exact h

theorem State.Canonical.forwardFlit {ctag : BitVec 4} (h : s.Canonical) : (forwardFlit s ctag f).Canonical := by
  unfold Machine.forwardFlit
  split
  · exact .ite h (.sendFlit h)
  · exact h

theorem State.Canonical.routeFlit (h : s.Canonical) : (routeFlit s p f).Canonical := by
  unfold Machine.routeFlit
  split
  · exact .resend h
  · exact h
  · split
    · exact h
    · exact .ite (.deliverFlit h) (.forwardFlit h)

@[simp] theorem Leads.execPhoupFlitReceived {flit : Flit} (h : s.Canonical) : Leads (execPhoupFlitReceived port flit s) :=
  .next (.ite h (.ite (.sendControl h) (.routeFlit (.takeAck (.update h)))))

@[simp] theorem Leads.execLinkAckTimeout (h : s.Canonical) : Leads (execLinkAckTimeout port s) := .next (.ite (.linkDown h) h)

@[simp] theorem Leads.execLinkRetrained (h : s.Canonical) : Leads (execLinkRetrained port s) :=
  .next (.ite h (.countLife (.update h)))
end

/-! ### The dispatcher -/

section
variable {s : State} {c k pa core n cl : Nat} {lid : BitVec 32} {r : Launch} {p : Placed}

theorem State.Canonical.needLines {l : List Nat} (h : s.Canonical) : (needLines s l).Canonical := .update h

theorem State.Canonical.tableBytes (h : s.Canonical) : (tableBytes s pa n).2.Canonical := by
  unfold Machine.tableBytes
  split
  · dsimp only
    split
    · exact .needLines h
    · exact .readLines (.needLines h)
  · dsimp only
    split
    · exact .needLines h
    · exact .update (.needLines h)

theorem State.Canonical.tableRead (h : s.Canonical) : (tableRead s pa n).2.2.Canonical := .tableBytes h

theorem State.Canonical.tableWrite {v : Nat} {poison : Bool} (h : s.Canonical) : (tableWrite s pa n v poison).Canonical := by
  unfold Machine.tableWrite
  split
  · exact .ite (.needLines h) (.ite (.foldl (fun _ _ h => .askPeer h) h) h)
  · exact .ite (.recordLines (.needLines h)) h

theorem State.Canonical.askLine {l : Nat} (h : s.Canonical) : (askLine s l).Canonical := by
  unfold Machine.askLine
  split
  · exact h
  · exact .ite h (.foldl (fun _ _ h => .askPeer h) h)

theorem State.Canonical.askHost {t : State} (h : s.Canonical) (h' : t.Canonical) : (askHost s t).Canonical :=
  .ite h' (.foldl (fun _ _ h => .askLine h) (.update h))

theorem Leads.forgetTables (h : s.Canonical) : Leads (forgetTables s) := .next (.ite h (.dropAnswers h))

theorem Leads.deviceStep {f : State → State} (h : s.Canonical) (hf : ∀ (t : State), t.Canonical → (f t).Canonical) :
    Leads (deviceStep f s) := .next (.askHost h (hf _ h))

theorem State.Canonical.takeUnit {reg : Nat} {r : Word × State} (h : s.Canonical) (e : takeUnit s core reg = some r) :
    r.2.Canonical := by
  unfold Machine.takeUnit at e
  obtain ⟨_, _, rfl⟩ := Option.map_eq_some_iff.mp e
  exact h

theorem State.Canonical.unitDone (h : s.Canonical) : (unitDone s core).Canonical := .postReply h
theorem State.Canonical.unitRefuses (h : s.Canonical) : (unitRefuses s core).Canonical := .takeTrap h

theorem State.Canonical.classEntries (h : s.Canonical) : (classEntries s r).2.Canonical :=
  .foldl_on Prod.snd (fun _ _ h => .tableRead h) h

theorem State.Canonical.submitLaunch (h : s.Canonical) : (submitLaunch s pa).2.2.Canonical :=
  .ite_third (.classEntries (.tableRead h)) (.ite_third (.classEntries (.tableRead h)) (.ite_third (.classEntries (.tableRead h))
    (.ite_third (.classEntries (.tableRead h)) (.update (.tableWrite (.classEntries (.tableRead h)))))))

theorem State.Canonical.needSegments (h : s.Canonical) : (needSegments s r).Canonical := .needLines h
theorem State.Canonical.startThread {x : Slot} (h : s.Canonical) : (startThread s c k x).Canonical := .setSlot h

theorem State.Canonical.startAt {pair : Bool} {x : Slot} (h : s.Canonical) : (startAt s c k pair x).Canonical :=
  .ite (.startThread (.startThread h)) (.startThread h)

theorem State.Canonical.startCrew {segs : Slot} {base : Nat} (h : s.Canonical) : (startCrew r segs s c base).Canonical :=
  .foldl (fun _ _ h => .startAt h) h

theorem State.Canonical.makeResident (h : s.Canonical) : (makeResident s r c).Canonical := .modCore h

theorem State.Canonical.writeSection {segs : Vector Quad 8} {x : LocalSection} (h : s.Canonical) :
    (writeSection segs c s x).Canonical := .ite h (.padRmwStore h)

theorem State.Canonical.placeLaunch {q : Queued} {o : Nat} (h : s.Canonical) : (placeLaunch s q o).Canonical :=
  .foldl (fun _ _ h => .startCrew h) (.foldl (fun _ _ h => .foldl (fun _ _ h => .writeSection h) (.makeResident h)) (.update
    (.needSegments h)))

theorem State.Canonical.passClass {cls : Nat} {y z w : List (BitVec 32)} (h : s.Canonical) :
    (passClass cls y z w s).2.2.2.Canonical := by
  induction y generalizing z w s with
  | nil => exact h
  | cons lid rest ih =>
    unfold Machine.passClass
    split
    · exact ih h
    · split
      · exact h
      · split
        · exact ih (.placeLaunch h)
        · exact ih h

theorem State.Canonical.placementPass (h : s.Canonical) : (placementPass s).Canonical := by
  unfold Machine.placementPass
  split
  next e =>
    refine .update (.of_part (fun p : _ × _ × _ × State => p.2.2.2) e
      (.foldl_on (fun p : _ × _ × _ × State => p.2.2.2) (fun _ _ h => ?_) h))
    split
    split
    · exact h
    · exact .passClass h

theorem State.Canonical.submitQueued (h : s.Canonical) : (submitQueued s pa).2.Canonical :=
  .ite (.placementPass (.submitLaunch h)) (.submitLaunch h)

theorem State.Canonical.withdraw (h : s.Canonical) : (withdraw s lid).2.Canonical := .ite_snd (.update h) h

@[simp] theorem Leads.execLqsub (h : s.Canonical) : Leads (execLqsub core s) := by
  refine .deviceStep h ?_
  intro _ h
  split
  · exact h
  · next e => exact .unitDone (.modCore (.submitQueued (.takeUnit h e)))

@[simp] theorem Leads.execLqdel (h : s.Canonical) : Leads (execLqdel core s) := by
  refine .next ?_
  split
  · exact h
  · next e => exact .unitDone (.modCore (.withdraw (.takeUnit h e)))

@[simp] theorem Leads.execLaunchClassRise (h : s.Canonical) : Leads (execLaunchClassRise lid s) := .next (.update h)

theorem State.Canonical.bankEnter {r : TaskRec} (h : s.Canonical) : (bankEnter s cl r).2.Canonical :=
  .ite_snd (.modCluster h) (.ite_snd (.modCluster (.tableWrite h)) h)

theorem State.Canonical.submitTask {r : TaskRec} (h : s.Canonical) : (submitTask s cl r).2.Canonical := by
  unfold Machine.submitTask
  split
  · exact h
  · split
    · exact h
    · exact .bankEnter h

theorem State.Canonical.refillBank {y : Nat} (h : s.Canonical) : (refillBank cl y s).Canonical := by
  induction y generalizing s with
  | zero => exact h
  | succ n ih =>
    unfold Machine.refillBank
    dsimp only
    split
    · exact h
    · refine .ite h ?_
      exact ih (.modCluster (.tableRead h))

@[simp] theorem Leads.execSpillRefill {cluster : Nat} (h : s.Canonical) : Leads (execSpillRefill cluster s) :=
  .deviceStep h (fun _ h => .ite (.refillBank h) h)

theorem State.Canonical.beginApply {r : TaskRec} (h : s.Canonical) : (beginApply s r).Canonical := by
  unfold Machine.beginApply
  split
  · exact .ite (.setGroup h) h
  · exact h

theorem State.Canonical.takeTask {p : TaskRec → Bool} {r : TaskRec × State} (h : s.Canonical) (e : takeTask s cl p = some r) :
    r.2.Canonical := by
  unfold Machine.takeTask at e
  split at e
  · cases e
    exact .beginApply (.modCluster h)
  · cases e

theorem State.Canonical.startTask {r : TaskRec} (h : s.Canonical) : (startTask s p r c k).Canonical :=
  .foldl (fun _ _ h => .consumeIf h) (.update (.startAt (.needSegments (.padRmwStore h))))

@[simp] theorem Leads.execTaskDispatch {cluster : Nat} (h : s.Canonical) : Leads (execTaskDispatch cluster s) := by
  refine .deviceStep h ?_
  intro _ h
  split
  · exact h
  · split
    · next e => exact .startTask (.modCluster (.takeTask h e))
    · exact h

theorem State.Canonical.releaseCore {level count : Nat} (h : s.Canonical) : (releaseCore lid level count s c).Canonical :=
  .modCore h

theorem State.Canonical.releaseBarrier {level : Nat} (h : s.Canonical) : (releaseBarrier s lid level c).Canonical := by
  unfold Machine.releaseBarrier
  split
  · exact h
  · exact .ite (.foldl (fun _ _ h => .releaseCore h) h) h

theorem State.Canonical.leaveGang (h : s.Canonical) : (leaveGang s lid c).Canonical := .foldl (fun _ _ h => .releaseBarrier h) h
theorem State.Canonical.countAbandoned (h : s.Canonical) : (countAbandoned s lid n).Canonical := .update h
theorem State.Canonical.abandonRecords (h : s.Canonical) : (abandonRecords s c k).Canonical := .update h

theorem State.Canonical.forgetSlot (h : s.Canonical) : (forgetSlot s c k).Canonical :=
  .update (.modCore (.dropAnswers (.dropWaits (.endReservation h))))

theorem State.Canonical.endThread (h : s.Canonical) : (endThread s c k).Canonical :=
  .leaveGang (.setSlot (.forgetSlot (.abandonRecords h)))

theorem State.Canonical.releaseCoreOf (h : s.Canonical) : (releaseCoreOf r s c).Canonical := .modCore h

theorem State.Canonical.releaseOwned (h : s.Canonical) : (releaseOwned s lid).Canonical :=
  .foldl (fun _ _ h => .ite (.releasePch h) h) h

theorem State.Canonical.writeCompletion (h : s.Canonical) : (writeCompletion s p).Canonical :=
  .ite h (.tableWrite (.tableWrite h))

theorem State.Canonical.joinHistory (h : s.Canonical) : (joinHistory s lid).Canonical := .update h

theorem State.Canonical.completeLaunch (h : s.Canonical) : (completeLaunch s p).Canonical :=
  .placementPass (.joinHistory (.writeCompletion (.releaseOwned (.foldl (fun _ _ h => .releaseCoreOf h) (.update h)))))

@[simp] theorem Leads.execLaunchComplete (h : s.Canonical) : Leads (execLaunchComplete lid s) := by
  refine .deviceStep h ?_
  intro _ h
  split
  · exact h
  · exact .ite (.ite (.completeLaunch (.foldl (fun _ _ h => .writeOut h) h)) (.foldl (fun _ _ h => .writeOut h) h)) h
end

/-! ### Groups -/

section
variable {s : State} {cl gi c k n words : Nat} {rd ra rb : BitVec 6} {poison : Bool}

theorem Block.Canonical.pieceRead {va : Nat} (h : s.Canonical) : (pieceRead s c k va n).Canonical := by
  unfold Machine.pieceRead
  split
  · exact .bad
  · exact .miss
  · split
    · dsimp only
      split
      · next e => exact .ok (.of_snd e (.peerTransfer h))
      · next e => exact .asked (.of_snd e (.peerTransfer h))
    · refine .ite (.busy h) ?_
      split
      · next e =>
          refine .ok (.of_third e ?_)
          split
          · exact .combineLoad h
          · exact .homeLoad h

theorem Block.Canonical.piecesRead {base : Nat} {y : List (Nat × Nat)} {z : Nat} {w : Bool} (h : s.Canonical) :
    (piecesRead c k base y z w s).Canonical := by
  induction y generalizing z w s with
  | nil => exact .ok h
  | cons piece rest ih =>
    unfold Machine.piecesRead
    split
    · next e => exact ih (.of_read e (.pieceRead h))
    · exact .pieceRead h

theorem Block.Canonical.farRead {d off : Nat} (h : s.Canonical) : (farRead s c k d off n).Canonical := by
  unfold Machine.farRead
  split
  · next e => exact .ok (.of_snd e (.bankTransfer h))
  · next e => exact .asked (.of_snd e (.bankTransfer h))

theorem Block.Canonical.readBlock {a : Word} {align : Nat} (h : s.Canonical) : (readBlock s c k a n align).Canonical := by
  unfold Machine.readBlock
  split
  · exact .bad
  · exact .piecesRead h
  · exact .ite (.ok (.bankTurnAt h)) (.farRead h)
  · exact .ite .bad (.farRead h)
  · split
    · exact .ok h
    · exact .bad

theorem State.Canonical.withBlock {a : Word} {align : Nat} {go : Nat → Bool → State → State} (h : s.Canonical)
    (hgo : ∀ (a : Nat) (b : Bool) (t : State), t.Canonical → (go a b t).Canonical) : (withBlock s a n align go).Canonical := by
  unfold Machine.withBlock
  split
  · exact .trapHere (.dropAnswers h)
  · exact .awaitTranslation h
  · next e => exact .pollFor (.of_busy e (.readBlock h))
  · next e => exact .pollFor (.of_asked e (.readBlock h))
  · next e => exact hgo _ _ _ (.dropAnswers (.of_read e (.readBlock h)))

theorem State.Canonical.answer {v : Word} (h : s.Canonical) : (answer rd v poison s).Canonical :=
  .postReply (.awaitReply (.endReservation h))

theorem State.Canonical.answerNone (h : s.Canonical) : (answerNone poison s).Canonical :=
  .postReply (.awaitReply (.endReservation h))

theorem State.Canonical.zeroBuffer {g : Group} {one : Bool} (h : s.Canonical) : (zeroBuffer s cl g one).Canonical :=
  .padEngineStore h

theorem State.Canonical.writeJournal {g : Group} {cause : Nat} (h : s.Canonical) : (writeJournal s cl g cause).Canonical :=
  .tableWrite (.tableWrite (.foldl (fun _ _ h => .tableWrite h) h))

theorem State.Canonical.submitApply {r : TaskRec} (h : s.Canonical) : (submitApply s cl gi r).Canonical :=
  .setGroup (.submitTask h)

theorem State.Canonical.closeGroup {cause : Nat} (h : s.Canonical) : (closeGroup s cl gi cause).Canonical :=
  .submitApply (.ite (.setGroup h) (.setGroup (.writeJournal (.setGroup h))))

theorem State.Canonical.storeSnr (h : s.Canonical) : (storeSnr s cl gi).Canonical := .setGroup h

theorem State.Canonical.closeBy {asked : Bool} (h : s.Canonical) : (closeBy s cl gi asked).Canonical :=
  .ite (.closeGroup (.storeSnr h)) (.ite (.closeGroup (.storeSnr h)) (.ite (.closeGroup (.storeSnr h)) (.storeSnr h)))

theorem State.Canonical.closeTest (h : s.Canonical) : (closeTest s cl gi).Canonical := .closeBy h

@[simp] theorem Leads.execApplyTaskRetry {cluster group : Nat} (h : s.Canonical) :
    Leads (execApplyTaskRetry cluster group s) := by
  refine .deviceStep h ?_
  intro _ h
  dsimp only
  split
  · exact .ite (.submitApply h) h
  · exact h

theorem State.Canonical.welfordAll {r : Run} (h : s.Canonical) : (welfordAll r words s).2.Canonical := by
  unfold Machine.welfordAll
  split
  · exact h
  · exact .foldl_on Prod.snd (fun _ _ h => .welStep h) h

theorem State.Canonical.contribute {tag : Nat} (h : s.Canonical) : (contribute s cl gi tag words poison).2.Canonical :=
  .ite_snd (.setGroup h) (.ite_snd (.consumePoison h) (.ite_snd (.closeTest (.consumeIf (.modMe (.welfordAll h)))) (.consumeIf
    (.modMe (.welfordAll h)))))

theorem State.Canonical.judge {ga : Word} {config : Nat} (h : s.Canonical) : (judge rd ga config words poison s).Canonical :=
  .ite (.answer h) (.answer (.contribute h))

theorem State.Canonical.gaccOp {ga gb : Word} (h : s.Canonical) : (gaccOp rd ga gb s).Canonical :=
  .ite (.answer h) (.withBlock (.modMe h) (fun _ _ _ h => .judge h))

@[simp] theorem Leads.execGacc (h : s.Canonical) : Leads (execGacc rd ra rb s) :=
  .deviceStep h (fun _ h => .issue h (fun _ h => .ite (.trapHere h) (.outward h (fun _ h => .gaccOp h) (fun _ h => .takeResult
    h))))

@[simp] theorem Leads.execGstat (h : s.Canonical) : Leads (execGstat rd ra rb s) := by
  refine .next (.issue h ?_)
  intro _ h
  refine .ite (.trapHere h) (.boundaryRead h ?_ (fun _ _ h => .writeNext h h))
  intro _ h
  split
  · exact .answer h

theorem State.Canonical.closeNow (h : s.Canonical) : (closeNow s cl gi).2.Canonical := .ite_snd h (.ite_snd h (.closeBy h))

theorem State.Canonical.flipNow (h : s.Canonical) : (flipNow s cl gi).2.Canonical :=
  .ite_snd h (.closeTest (.setGroup (.zeroBuffer h)))

theorem Leads.groupOp {rel : Bool} {i : Instr} {f : State → Nat → Nat → Nat × State} (h : s.Canonical)
    (hf : ∀ (t : State) (a b : Nat), t.Canonical → (f t a b).2.Canonical) : Leads (groupOp rel i rd ra f s) :=
  .deviceStep h (fun _ h => .issue h (fun _ h => .ite (.trapHere h) (.outward h (fun _ h => .ite (.pollFor h) (.ite (.answer h)
    (.answer (hf _ _ _ h)))) (fun _ h => .takeResult h))))

@[simp] theorem Leads.execGclose (h : s.Canonical) : Leads (execGclose rd ra s) := .groupOp h (fun _ _ _ h => .closeNow h)
@[simp] theorem Leads.execGflip (h : s.Canonical) : Leads (execGflip rd ra s) := .groupOp h (fun _ _ _ h => .flipNow h)

theorem State.Canonical.joinNow {d : Nat} (h : s.Canonical) : (joinNow s cl gi d poison).2.Canonical :=
  .ite_snd h (.ite_snd h (.ite_snd h (.setGroup (.zeroBuffer (.zeroBuffer h)))))

@[simp] theorem Leads.execGjoin (h : s.Canonical) : Leads (execGjoin rd ra rb s) :=
  .next (.issue h (fun _ h => .ite (.trapHere h) (.outward h (fun _ h => .ite (.answer h) (.withBlock h (fun _ _ _ h => .answer
    (.joinNow h)))) (fun _ h => .takeResult h))))

@[simp] theorem Leads.execGent0Configure {core : Nat} (h : s.Canonical) : Leads (execGent0Configure core s) := by
  refine .next ?_
  split
  · split
    · exact h
    · next e => exact .ite (.unitDone (.setGroup (.zeroBuffer (.zeroBuffer (.takeUnit h e))))) (.ite (.unitRefuses (.takeUnit h
          e)) h)

@[simp] theorem Leads.execGent0Unconfigure {core : Nat} (h : s.Canonical) : Leads (execGent0Unconfigure core s) := by
  refine .next ?_
  split
  · split
    · exact h
    · next e => exact .ite (.unitDone (.setGroup (.takeUnit h e))) (.ite (.unitRefuses (.takeUnit h e)) h)
end

/-! ### Capsules -/

section
variable {s : State} {c b k entry reason core d cls : Nat} {rd ra rb : BitVec 6} {x : BankRun} {r : LandReq} {q : Crossing}

theorem State.Canonical.setBufFlag {v : Bool} (h : s.Canonical) : (setBufFlag s c b k v).Canonical := .setBufN h
theorem State.Canonical.raiseBuf {f : BitVec 7} (h : s.Canonical) : (raiseBuf s c b f).Canonical := .setBufN h
theorem State.Canonical.setBufUse {u : BufUse} (h : s.Canonical) : (setBufUse s c b u).Canonical := .modCore h

theorem State.Canonical.setManifest {l : List Step} (h : s.Canonical) : (setManifest s c b l).Canonical :=
  .setBufN (.foldl (fun _ _ h => .setBufN h) h)

theorem State.Canonical.copyMarks {src dst n : Nat} (h : s.Canonical) : (copyMarks s src dst n).Canonical := .update h
theorem State.Canonical.freeBuf (h : s.Canonical) : (freeBuf s c b).Canonical := .setBufUse (.update (.setBufN h))

theorem State.Canonical.moveImage {e : Nat} (h : s.Canonical) : (moveImage s c b d e).Canonical :=
  .freeBuf (.copyMarks (.setBufN h))

theorem State.Canonical.markHeader (h : s.Canonical) : (markHeader s c b).Canonical := .ite (.setBufFlag h) h
theorem State.Canonical.destroyCapsule (h : s.Canonical) : (destroyCapsule s c b).Canonical := .freeBuf (.capsuleLost h)

theorem State.Canonical.submitHarbour {r : TaskRec} (h : s.Canonical) : (submitHarbour s c r).Canonical :=
  .ite (.bankEnter h) (.update (.bankEnter h))

theorem State.Canonical.writeWords {pa v : Nat} {bad : List Nat} (h : s.Canonical) : (writeWords s pa v bad).Canonical :=
  .update (.tableWrite h)

theorem State.Canonical.writeEntry {from_ : Nat} (h : s.Canonical) : (writeEntry s entry from_ c b reason).Canonical :=
  .tableWrite (.tableWrite (.foldl (fun _ _ h => .writeWords h) h))

theorem State.Canonical.harbourFrom {from_ : Nat} (h : s.Canonical) : (harbourFrom s from_ c b reason).Canonical := by
  unfold Machine.harbourFrom
  split
  · exact .destroyCapsule h
  · split
    · exact .destroyCapsule h
    · exact .submitHarbour (.freeBuf (.writeEntry (.setBufN (.setBufFlag h))))

theorem State.Canonical.toHarbour (h : s.Canonical) : (toHarbour s c b reason).Canonical := .harbourFrom h

@[simp] theorem Leads.execHarbourTaskRetry (h : s.Canonical) : Leads (execHarbourTaskRetry k s) := by
  refine .deviceStep h ?_
  intro _ h
  split
  · exact .ite (.submitHarbour (.update h)) h
  · exact h

theorem State.Canonical.coalesce (h : s.Canonical) : (coalesce s c b).Canonical := by
  unfold Machine.coalesce
  split
  · exact h
  · exact .raiseBuf (.setManifest h)

theorem State.Canonical.needFold {ctag : BitVec 4} {t : Step} (h : s.Canonical) : (needFold s c ctag t).Canonical := by
  unfold Machine.needFold
  split
  · exact .ite (.needLines h) h
  · exact h

theorem State.Canonical.holdRequest {dest : Nat} (h : s.Canonical) : (holdRequest s c b dest).Canonical := .update (.setBufUse h)

theorem State.Canonical.startCrossing {t : Step} (h : s.Canonical) : (startCrossing s c b t).Canonical :=
  .ite (.toHarbour h) (.ite (.holdRequest h) (.sendToRank (.update (.setBufUse (.fresh h)))))

theorem State.Canonical.sendCapsule (h : s.Canonical) : (sendCapsule s c b).Canonical := by
  unfold Machine.sendCapsule
  dsimp only
  split
  · exact .freeBuf (.coalesce h)
  · split
    · exact .toHarbour (.needFold (.coalesce h))
    · exact .ite (.startCrossing (.needFold (.coalesce h))) (.ite (.setBufUse (.needFold (.coalesce h))) (.holdRequest (.needFold
          (.coalesce h))))

theorem State.Canonical.stepDone (h : s.Canonical) : (stepDone s c b).Canonical := .sendCapsule (.setManifest h)
theorem State.Canonical.renameOwner {a b : Nat × Nat} (h : s.Canonical) : (renameOwner s a b).Canonical := .update h

theorem State.Canonical.departRover {dest : Nat} (h : s.Canonical) : (departRover s c k dest b).Canonical := by
  unfold Machine.departRover
  exact .placementPass (.update (.setSlot (.forgetSlot (.renameOwner (.setBufUse h)))))

theorem State.Canonical.roverRequest (h : s.Canonical) : (roverRequest s r k).Canonical := by
  refine .ite h ?_
  split
  · exact .departRover h
  · exact .goOn (.modSlot h)

theorem State.Canonical.answerInbound {q : Inbound} {v : Word} (h : s.Canonical) : (answerInbound s q v).Canonical :=
  .sendToRank h

theorem State.Canonical.refuseRequest (h : s.Canonical) : (refuseRequest s r reason).Canonical := by
  unfold Machine.refuseRequest
  split
  · exact .answerInbound h
  · exact .toHarbour h

theorem State.Canonical.admitRequest {rest : State} (h : s.Canonical) (h' : rest.Canonical) : (admitRequest s rest r).Canonical :=
  .ite h (.ite (.refuseRequest h') (.ite (.update h') h))

@[simp] theorem Leads.execLandingRequest (h : s.Canonical) : Leads (execLandingRequest k s) := by
  refine .deviceStep h ?_
  intro _ h
  split
  · exact h
  · split
    · exact .roverRequest (.update h)
    · exact .ite h (.startCrossing (.update h))
    · exact .admitRequest h (.update h)

theorem State.Canonical.grantTo (h : s.Canonical) : (grantTo s b r).Canonical := by
  unfold Machine.grantTo
  split
  · exact .answerInbound (.update (.setBufUse (.update h)))
  · exact .update (.moveImage (.setBufUse (.update h)))

theorem State.Canonical.grantBuffer (h : s.Canonical) : (grantBuffer s c).Canonical := by
  unfold Machine.grantBuffer
  split
  · exact .grantTo h
  · exact h

theorem State.Canonical.sendImage (h : s.Canonical) : (sendImage s c b q).Canonical := .foldl (fun _ _ h => .sendToRank h) h
theorem State.Canonical.dropCrossing (h : s.Canonical) : (dropCrossing s q).Canonical := .releaseRanks (.update h)

theorem State.Canonical.crossingAnswered {v : Word} (h : s.Canonical) : (crossingAnswered s q v).Canonical :=
  .ite (.toHarbour (.dropCrossing h)) (.ite (.toHarbour (.dropCrossing h)) (.sendImage (.update h)))

theorem State.Canonical.crossingStep (h : s.Canonical) : (crossingStep s q).Canonical := by
  unfold Machine.crossingStep
  cases q.stage
  · exact h
  · exact .crossingAnswered h
  · exact h
  · exact .freeBuf (.dropCrossing h)

@[simp] theorem Leads.execLandingGrant (h : s.Canonical) : Leads (execLandingGrant core s) := by
  refine .deviceStep h ?_
  intro _ h
  split
  · exact .crossingStep h
  · exact .grantBuffer h

@[simp] theorem Leads.execCapsuleLanded (h : s.Canonical) : Leads (execCapsuleLanded k s) := by
  refine .next ?_
  split
  · exact h
  · exact .ite h (.setBufUse (.update h))

theorem State.Canonical.landRover {t : Transit} {x : Slot} {j : Nat} (h : s.Canonical) : (landRover s k t x j).Canonical :=
  .setSlot (.renameOwner (.setBufUse (.update h)))

@[simp] theorem Leads.execRoverLanding (h : s.Canonical) : Leads (execRoverLanding k s) := by
  refine .next ?_
  split
  · exact h
  · split
    · refine .ite h ?_
      split
      · exact .landRover h
      · exact .update h
    · exact h

theorem State.Canonical.ferryFails (h : s.Canonical) : (ferryFails k s).Canonical := by
  unfold Machine.ferryFails
  split
  · exact h
  · exact .ite h (.destroyCapsule (.update h))

@[simp] theorem Leads.execLandingRequestTimeout (h : s.Canonical) : Leads (execLandingRequestTimeout k s) := by
  refine .deviceStep h ?_
  intro _ h
  split
  · exact .ite (.refuseRequest (.update h)) h
  · exact .ite (.toHarbour (.dropCrossing h)) h
  · exact h

theorem State.Canonical.giveUpBuffer {folded : Bool} (h : s.Canonical) : (giveUpBuffer s c b folded).Canonical := by
  unfold Machine.giveUpBuffer
  split
  · exact .grantBuffer (.toHarbour h)
  · exact h

@[simp] theorem Leads.execBufferNeeded (h : s.Canonical) : Leads (execBufferNeeded core s) := by
  refine .deviceStep h ?_
  intro _ h
  split
  · exact .ite (.giveUpBuffer h) h
  · exact h

theorem State.Canonical.parkCapsule {folded : Bool} {key : BitVec 32} {order : Nat} (h : s.Canonical) :
    (parkCapsule s c b folded key order).Canonical := .setBufUse (.setBufN h)

@[simp] theorem Leads.execCapsuleStepStart {buf : Nat} (h : s.Canonical) : Leads (execCapsuleStepStart core buf s) := by
  refine .deviceStep h ?_
  intro _ h
  split
  · exact .ite (.startThread (.setBufUse (.update (.needSegments h)))) h
  · exact h

theorem State.Canonical.applyToken {e : Elem} (h : s.Canonical) : (applyToken s c k e).Canonical := .ite (.receive h) h

theorem State.Canonical.discardTokens (h : s.Canonical) : (discardTokens s c k).Canonical := by
  unfold Machine.discardTokens
  exact .modSlot (.modCore (.foldl (fun _ _ h => .applyToken h) h))

theorem State.Canonical.endStep {i : Instr} {finish : Nat → State → State} (h : s.Canonical)
    (hfinish : ∀ (a : Nat) (t : State), t.Canonical → (finish a t).Canonical) : (endStep i finish s).Canonical := by
  refine .issue h ?_
  intro _ h
  split
  · exact .trapHere h
  · exact .ite (.pollFor h) (.ite (.pollFor (.endReservation h)) (hfinish _ _ (.setBufN (.discardTokens h))))

@[simp] theorem Leads.execCfwd (h : s.Canonical) : Leads (execCfwd s) :=
  .deviceStep h (fun _ h => .endStep h (fun _ _ h => .placementPass (.stepDone (.endThread h))))

@[simp] theorem Leads.execCpark (h : s.Canonical) : Leads (execCpark ra s) :=
  .deviceStep h (fun _ h => .ite (.issue h (fun _ h => .trapHere h)) (.endStep h (fun _ _ h => .placementPass (.parkCapsule
    (.endThread (.fresh h))))))

theorem State.Canonical.rewritten {away : Bool} {st : Nat} {poison : Bool} (h : s.Canonical) :
    (rewritten rd away st poison s).Canonical := .ite (.answer h) (.writeBoundary h h)

theorem State.Canonical.rewriteOp {i : Instr} {insert : Bool} (h : s.Canonical) : (rewriteOp i rd ra rb insert s).Canonical := by
  refine .issue h ?_
  intro _ h
  split
  · exact .trapHere h
  · exact .withBlock h (fun _ _ _ h => .ite (.rewritten h) (.ite (.rewritten h) (.ite (.rewritten h) (.rewritten (.setManifest
        h)))))

@[simp] theorem Leads.execCins (h : s.Canonical) : Leads (execCins rd ra rb s) := .next (.rewriteOp h)
@[simp] theorem Leads.execCrep (h : s.Canonical) : Leads (execCrep rd ra rb s) := .next (.rewriteOp h)

@[simp] theorem Leads.execCdel (h : s.Canonical) : Leads (execCdel rd ra s) := by
  refine .next (.issue h ?_)
  intro _ h
  split
  · exact .trapHere h
  · exact .ite (.rewritten h) (.rewritten (.setManifest h))

theorem State.Canonical.classEntry {r : Launch} (h : s.Canonical) : (classEntry s r cls).2.Canonical := .tableRead h

theorem State.Canonical.makeCapsule {pad : Nat} {number : BitVec 32} (h : s.Canonical) :
    (makeCapsule s b cls entry pad number).Canonical := .markHeader (.copyMarks (.setBufN (.setManifest (.setBufN h))))

theorem State.Canonical.launchCapsule {pad : Nat} (h : s.Canonical) : (launchCapsule rd b cls entry pad s).Canonical := by
  unfold Machine.launchCapsule
  exact .postReply (.leaveRotation (.endReservation (.sendCapsule (.setBufUse (.makeCapsule (.modCore h))))))

@[simp] theorem Leads.execCnew {c : BitVec 12} (h : s.Canonical) : Leads (execCnew rd ra c s) := by
  refine .deviceStep h ?_
  intro _ h
  refine .issue h ?_
  intro _ h
  split
  · exact .trapHere h
  · refine .ite (.trapHere h) ?_
    split
    · next e =>
        split
        · dsimp only
          split <;> exact .trapHere (.of_snd e (.classEntry h))
        · dsimp only
          split
          · exact .trapHere (.of_snd e (.classEntry h))
          · refine .outward (.of_snd e (.classEntry h)) ?_ (fun _ h => .takeResult h)
            intro _ h
            refine .ite (.pollFor h) (.ite (.pollFor (.endReservation h)) ?_)
            split
            · exact .pollFor (.endReservation h)
            · exact .ite (.trapHere h) (.launchCapsule h)
          · exact .trapHere (.of_snd e (.classEntry h))

theorem State.Canonical.bankElement {e : Nat} (h : s.Canonical) : (bankElement x e s).2.Canonical := by
  unfold Machine.bankElement
  split
  · split
    · exact .oneElement h
    · exact .statefulElement h
  · split
    · exact .oneElement h
    · exact .statefulElement h

theorem State.Canonical.keepToldOf (h : s.Canonical) : (keepToldOf s c b x).Canonical :=
  .ite (.setErr (.markHeader (.raiseBuf h))) (.markHeader (.raiseBuf h))

theorem State.Canonical.finishBankStep (h : s.Canonical) : (finishBankStep s c b x).Canonical := .stepDone (.keepToldOf h)

theorem State.Canonical.bankStepOn (h : s.Canonical) : (bankStepOn s c b x).Canonical := by
  unfold Machine.bankStepOn
  split
  · exact h
  · split
    · exact .finishBankStep h
    · exact .ite (.finishBankStep (.setBufUse (.bankElement (.draw h)))) (.setBufUse (.bankElement (.draw h)))

theorem State.Canonical.completeBankStep (h : s.Canonical) : (completeBankStep s c b x).Canonical :=
  .setManifest (.keepToldOf (.foldl_on Prod.snd (fun _ _ h => .bankElement h) h))

@[simp] theorem Leads.execBankStep {buf : Nat} (h : s.Canonical) : Leads (execBankStep core buf s) := by
  refine .deviceStep h ?_
  intro _ h
  split
  · exact .ite (.bankStepOn (.setBufUse (.needFold h))) (.needFold h)
  · exact .bankStepOn h
  · exact h

theorem State.Canonical.landImage {r : Launch} {a : CapsuleArrival} (h : s.Canonical) : (landImage s c b r a).Canonical :=
  .markHeader (.setManifest (.setBufN (.setBufN (.foldl (fun _ _ h => .ite (.mark h) h) (.foldl (fun _ _ h => .setBufN h) h)))))

@[simp] theorem Leads.execCrossingLanding {arrival : CapsuleArrival} (h : s.Canonical) :
    Leads (execCrossingLanding arrival s) := by
  refine .deviceStep h ?_
  intro _ h
  dsimp only
  split
  · exact h
  · split
    · exact .freeBuf (.update h)
    · exact .ite (.destroyCapsule (.landImage (.answerInbound (.update h)))) (.ite (.toHarbour (.landImage (.answerInbound
          (.update h)))) (.sendCapsule (.setBufUse (.landImage (.answerInbound (.update h))))))

theorem State.Canonical.readEntry (h : s.Canonical) : (readEntry s entry).2.Canonical :=
  .foldl_on Prod.snd (fun _ _ h => .tableBytes h) h

theorem State.Canonical.takeEntry (h : s.Canonical) : (takeEntry s d entry).2.Canonical := by
  unfold Machine.takeEntry
  split
  next e => exact .of_snd e (.readEntry (.tableWrite h))

theorem State.Canonical.fillBuffer {lines : List Bytes} (h : s.Canonical) : (fillBuffer s c b lines).Canonical :=
  .foldl (fun _ _ h => .foldl (fun _ _ h => .mark h) (.setBufN h)) h

theorem State.Canonical.resendFrom {q : Resend} (h : s.Canonical) : (resendFrom s b q).2.Canonical :=
  .ite_snd (.freeBuf (.tableWrite (.tableWrite (.fillBuffer h)))) (.tableWrite (.sendCapsule (.setBufUse (.markHeader (.setBufN
    (.fillBuffer h))))))

theorem State.Canonical.needEntry {lid : BitVec 32} {key : Word} (h : s.Canonical) : (needEntry s lid key).Canonical := by
  unfold Machine.needEntry
  split
  · exact .needLines h
  · exact h

theorem State.Canonical.wakeCapsule {key : BitVec 32} {pilot : Bool} {lid : BitVec 32} (h : s.Canonical) :
    (wakeCapsule s d key pilot lid).2.Canonical := by
  unfold Machine.wakeCapsule
  split
  · split
    · exact .modSlot h
    · exact .setBufUse (.setBufFlag h)
  · exact h
end

/-! ### Translation -/

section
variable {s : State} {cl core c k : Nat} {q : XlateReq} {key : BitVec 32} {success : Bool}

theorem State.Canonical.parkFault (h : s.Canonical) : (parkFault s c k key).Canonical :=
  .modSlot (.leaveRotation (.endReservation h))

theorem State.Canonical.writeResume {b : Nat} {x : Slot} (h : s.Canonical) : (writeResume s c b x).Canonical :=
  .setBufFlag (.setBufN (.setBufN (.setBufN h)))

theorem State.Canonical.beginFold (h : s.Canonical) : (beginFold s c k key).Canonical :=
  .leaveRotation (.endReservation (.fresh h))

theorem State.Canonical.foldStep {b order : Nat} {woken : Bool} (h : s.Canonical) :
    (foldStep s c k b key order woken).Canonical :=
  .placementPass (.ite (.setBufUse (.parkCapsule (.endThread (.writeResume (.discardTokens h))))) (.parkCapsule (.endThread
    (.writeResume (.discardTokens h)))))

@[simp] theorem Leads.execThreadReply {slot : Nat} (h : s.Canonical) : Leads (execThreadReply core slot s) := by
  refine .deviceStep h ?_
  intro _ h
  refine .ite h ?_
  split
  · exact .ite (.foldStep h) h
  · exact .takeReply h

theorem State.Canonical.failAccess {send : BitVec 32 → Slot → State → State} (h : s.Canonical)
    (hsend : ∀ (a : BitVec 32) (b : Slot) (t : State), t.Canonical → (send a b t).Canonical) :
    (failAccess s q send).Canonical := by
  unfold Machine.failAccess
  split
  · next e =>
      dsimp only
      split
      · exact h
      · exact .foldl (fun _ _ h => .parkFault h) (hsend _ _ _ (.dropXlate (.of_snd e (.assignKey h))))
      · exact .beginFold (hsend _ _ _ (.dropXlate (.of_snd e (.assignKey h))))

theorem State.Canonical.sendRecord {kind level : Nat} {x : Slot} (h : s.Canonical) :
    (sendRecord q kind level key x s).Canonical := .queueRecord h

theorem State.Canonical.translated (h : s.Canonical) : (translated s q).Canonical := .ite h (.ite (.reissue h) (.goOn h))
theorem State.Canonical.dropRequest (h : s.Canonical) : (dropRequest s cl q).Canonical := .modCluster h

theorem State.Canonical.failRequest {kind level : Nat} (h : s.Canonical) : (failRequest s cl q kind level).Canonical :=
  .modCluster h

theorem State.Canonical.walkEnds (h : s.Canonical) : (walkEnds cl s q).Canonical := by
  refine .ite (.dropRequest h) ?_
  split
  · exact .translated (.dropRequest h)
  · exact .translated (.dropRequest h)
  · refine .ite h ?_
    split
    · next e => exact .translated (.dropRequest (.of_leaf e (.walk h)))
    · next e => exact .of_snooped e (.walk h)
    · next e => exact .ite (.failRequest (.of_failed e (.walk h))) (.ite (.failAccess (.of_failed e (.walk h)) (fun _ _ _ h =>
          .sendRecord h)) (.of_failed e (.walk h)))

@[simp] theorem Leads.execTlbWalkComplete {cluster : Nat} (h : s.Canonical) : Leads (execTlbWalkComplete cluster k s) := by
  refine .next ?_
  split
  · exact h
  · exact .ite (.foldl (fun _ _ h => .walkEnds h) h) h

theorem State.Canonical.deliverRecord {ctx : Context} {r : FaultRec} {rest : List FaultRec} (h : s.Canonical) :
    (deliverRecord s cl ctx r rest).Canonical :=
  .ite (.tableRead h) (.deviceMessage (.modCluster (.tableWrite (.tableWrite (.tableRead h)))))

@[simp] theorem Leads.execFaultRecordDelivery {cluster : Nat} (h : s.Canonical) : Leads (execFaultRecordDelivery cluster s) := by
  refine .deviceStep h ?_
  intro _ h
  split
  · exact h
  · split
    · exact h
    · exact .deliverRecord h

theorem State.Canonical.unloadContext {ctag : BitVec 4} (h : s.Canonical) : (unloadContext s cl ctag).Canonical := .modCluster h

theorem State.Canonical.loadContext {ctag : BitVec 4} {pa : Nat} (h : s.Canonical) : (loadContext s cl ctag pa).Canonical :=
  .ite (.unloadContext (.tableRead h)) (.modCluster (.tableRead h))

@[simp] theorem Leads.execCtxdescLoad (h : s.Canonical) : Leads (execCtxdescLoad core s) := by
  refine .deviceStep h ?_
  intro _ h
  split
  · exact h
  · next e => exact .ite h (.unitDone (.loadContext (.takeUnit h e)))

@[simp] theorem Leads.execCtxdescUnload (h : s.Canonical) : Leads (execCtxdescUnload core s) := by
  refine .next ?_
  split
  · exact h
  · next e => exact .ite (.unitDone (.unloadContext (.takeUnit h e))) h

theorem State.Canonical.removeTlb {p : TlbEntry → Bool} (h : s.Canonical) : (removeTlb s cl p).Canonical := .modCluster h

theorem State.Canonical.invalidateAt {v : Word} (h : s.Canonical) : (invalidateAt v s cl).Canonical := by
  unfold Machine.invalidateAt
  dsimp only
  split <;> exact .writeOutAll (.removeTlb h)

@[simp] theorem Leads.execTlbinv (h : s.Canonical) : Leads (execTlbinv core s) := by
  refine .next ?_
  split
  · exact h
  · next e => exact .ite (.unitDone (.foldl (fun _ _ h => .invalidateAt h) (.takeUnit h e))) (.foldl (fun _ _ h => .invalidateAt
        h) h)

@[simp] theorem Leads.execAtsInvalidation {pasid : BitVec 20} {va : BitVec 57} {size : BitVec 2} {all : Bool} (h : s.Canonical) :
    Leads (execAtsInvalidation pasid va size all s) :=
  .next (.ite (.update (.foldl (fun _ _ h => .writeOutAll (.removeTlb h)) h)) (.ite (.foldl (fun _ _ h => .writeOutAll (.removeTlb
    h)) h) (.update (.foldl (fun _ _ h => .writeOutAll (.removeTlb h)) h))))

theorem State.Canonical.resumeHeld (h : s.Canonical) : (resumeHeld key s cl).Canonical := .foldl (fun _ _ h => .modCore h) h

@[simp] theorem Leads.execPfwake (h : s.Canonical) : Leads (execPfwake core s) := by
  refine .next ?_
  split
  · exact h
  · next e => exact .unitDone (.resumeHeld (.takeUnit h e))

theorem State.Canonical.sendPageReq {y : Slot} (h : s.Canonical) : (sendPageReq q key y s).Canonical := .update h

theorem State.Canonical.requestPage (h : s.Canonical) : (requestPage s q).Canonical :=
  .ite (.ite (.failAccess h (fun _ _ _ h => .sendPageReq h)) (.dropXlate h)) (.ite h (.update (.assignKey h)))

theorem State.Canonical.atsAnswerAt {a : AtsAnswer} (h : s.Canonical) : (atsAnswerAt a s cl).Canonical := by
  refine .ite h (.foldl (fun _ _ h => .ite (.ite (.translated (.dropXlate h)) (.dropXlate h)) (.requestPage h)) ?_)
  split
  · exact .installTlb h
  · exact h

@[simp] theorem Leads.execAtsTranslationResponse {answer : AtsAnswer} (h : s.Canonical) :
    Leads (execAtsTranslationResponse answer s) := .next (.foldl (fun _ _ h => .atsAnswerAt h) h)

theorem State.Canonical.answerEngine {q : PageReq} (h : s.Canonical) : (answerEngine s q success).Canonical :=
  .ite (.resumeHeld (.dropXlate h)) (.modCore (.resumeHeld (.dropXlate h)))

theorem State.Canonical.answerFolded {q : PageReq} (h : s.Canonical) : (answerFolded s q success).Canonical := by
  unfold Machine.answerFolded
  split
  · next e => exact .ite (.of_snd e (.wakeCapsule h)) (.update (.of_snd e (.wakeCapsule h)))
  · next e => exact .of_snd e (.wakeCapsule h)

theorem State.Canonical.answerThread {q : PageReq} (h : s.Canonical) : (answerThread s q success).Canonical :=
  .foldl (fun _ _ h => .ite (.makeRunnable (.ite h (.modSlot h))) h) (.answerFolded h)

@[simp] theorem Leads.execPageGroupResponse (h : s.Canonical) : Leads (execPageGroupResponse key success s) := by
  refine .next ?_
  split
  · exact h
  · exact .ite (.answerEngine (.update h)) (.answerThread (.update h))
end

/-! ### Reliability -/

section
variable {s : State} {c k core cl b : Nat} {failure : Bool} {check : ScrubCheck}

theorem State.Canonical.mapCores {f : Core → Core} (h : s.Canonical) : (mapCores s f).Canonical := .update h
theorem State.Canonical.withdrawWait (h : s.Canonical) : (withdrawWait s c k).Canonical := .mapCores (.update h)

theorem State.Canonical.stopWithdrawn (h : s.Canonical) : (stopWithdrawn s c k).Canonical := by
  unfold Machine.stopWithdrawn
  exact .modSlot (.leaveRotation (.endReservation (.update (.dropXlate (.withdrawWait h)))))

theorem State.Canonical.haltSlot (h : s.Canonical) : (haltSlot s c k).Canonical := by
  unfold Machine.haltSlot
  split
  · dsimp only
    split
    · exact .ite (.leaveRotation (.endReservation h)) (.modSlot h)
    · exact .ite (.leaveRotation (.endReservation h)) (.modSlot h)
    · split
      · exact .leaveRotation (.endReservation h)
      · exact .leaveRotation (.endReservation h)
      · exact .stopWithdrawn h
    · split
      · exact .leaveRotation (.endReservation h)
      · exact .leaveRotation (.endReservation h)
      · exact .stopWithdrawn h
    · exact h
    · exact h
    · exact h
    · exact .modSlot h
  · dsimp only
    split
    · exact .ite (.leaveRotation (.endReservation h)) (.modSlot h)
    · exact .ite (.leaveRotation (.endReservation h)) (.modSlot h)
    · split
      · exact .leaveRotation (.endReservation h)
      · exact .leaveRotation (.endReservation h)
      · exact .modSlot h
    · split
      · exact .leaveRotation (.endReservation h)
      · exact .leaveRotation (.endReservation h)
      · exact .modSlot h
    · exact h
    · exact h
    · exact h
    · exact .modSlot h

theorem State.Canonical.disownRequests (h : s.Canonical) : (disownRequests s c k).Canonical := .mapCores (.update h)
theorem State.Canonical.disownCommands (h : s.Canonical) : (disownCommands s c k).Canonical := .modCore (.fresh h)

theorem State.Canonical.dropResend {x : Slot} (h : s.Canonical) : (dropResend s x).Canonical := by
  unfold Machine.dropResend
  split
  · exact .tableWrite h
  · exact h

theorem State.Canonical.killSlot {reason : Option Nat} (h : s.Canonical) : (killSlot reason s c k).Canonical := by
  refine .leaveGang (.setSlot (.modCore ?_))
  split
  · exact .toHarbour (.forgetSlot (.abandonRecords (.disownCommands (.dropXlate (.dropResend (.disownRequests (.withdrawWait
        h)))))))
  · exact .destroyCapsule (.forgetSlot (.abandonRecords (.disownCommands (.dropXlate (.dropResend (.disownRequests (.withdrawWait
        h)))))))
  · exact .forgetSlot (.abandonRecords (.disownCommands (.dropXlate (.dropResend (.disownRequests (.withdrawWait h))))))

theorem State.Canonical.deviceKillSlot (h : s.Canonical) : (deviceKillSlot s c k).Canonical := .setErr (.pushEvent (.killSlot h))

@[simp] theorem Leads.execDeviceKill {slot : Nat} (h : s.Canonical) : Leads (execDeviceKill core slot s) :=
  .deviceStep h (fun _ h => .ite h (.ite (.pushEvent (.stopTrapped h)) (.foldl (fun _ _ h => .deviceKillSlot h) h)))

@[simp] theorem Leads.execSlotScrubEnd {slot : Nat} (h : s.Canonical) : Leads (execSlotScrubEnd core slot s) :=
  .deviceStep h (fun _ h => .ite (.placementPass (.setSlot h)) h)

theorem State.Canonical.pairMismatch (h : s.Canonical) : (pairMismatch s c k).Canonical := by
  unfold Machine.pairMismatch
  split
  · exact .pairReport h
  · exact .pushEvent (.deviceKillSlot (.deviceKillSlot (.modCluster (.update h))))

theorem State.Canonical.entryMatched (h : s.Canonical) : (entryMatched c s k).Canonical := .reissue (.modSlot h)

@[simp] theorem Leads.execStoreCompare {pair : Nat} (h : s.Canonical) : Leads (execStoreCompare core pair s) := by
  refine .deviceStep h ?_
  intro _ h
  refine .ite h (.ite (.ite (.entryMatched (.entryMatched h)) (.pairMismatch h)) (.ite (.pairMismatch h) ?_))
  split
  · exact .trapPair h
  · exact h

theorem State.Canonical.noteCorrected {row addr : Nat} (h : s.Canonical) : (noteCorrected s row core addr).Canonical :=
  .ite (.update (.pushEvent (.update h))) (.update h)

theorem State.Canonical.noteStack {pa : Nat} (h : s.Canonical) : (noteStack s pa).Canonical := .ite h (.countLife h)

theorem State.Canonical.spoilLine {pa : Nat} (h : s.Canonical) : (spoilLine s pa).Canonical := by
  unfold Machine.spoilLine
  split
  · exact h
  · exact .ite (.pushEvent (.update (.widen h))) (.homeLine (.update h))

theorem State.Canonical.scrub (h : s.Canonical) : (scrub check s).Canonical := by
  unfold Machine.scrub
  split
  · refine .ite h ?_
    split
    · exact h
    · exact .noteCorrected h
    · exact .pushEvent (.mark h)
  · split
    · exact h
    · exact .ite (.noteCorrected h) h
    · exact .spoilLine h
  · refine .ite h ?_
    split
    · exact h
    · exact .noteStack (.noteCorrected h)
    · exact .pushEvent (.mark h)

@[simp] theorem Leads.execPatrolScrub (h : s.Canonical) : Leads (execPatrolScrub check s) := by
  refine .next ?_
  split
  · exact .ite h (.scrub h)
  · exact .scrub h

@[simp] theorem Leads.execScrubForcedCycle {bank : Nat} (h : s.Canonical) : Leads (execScrubForcedCycle core bank check s) := by
  refine .next ?_
  split
  · exact .ite (.scrub (.modCore h)) h
  · exact h

theorem State.Canonical.rehome {f : Flight} (h : s.Canonical) : (rehome s f).Canonical := by
  unfold Machine.rehome
  split
  · exact .modCore h
  · exact h

theorem State.Canonical.rehomeFrom (h : s.Canonical) : (rehomeFrom s c).Canonical := .foldl (fun _ _ h => .rehome h) (.modCore h)

theorem State.Canonical.moveHomes {map : Word} {lost : Bool} {gone : optParam (Option Nat) none} (h : s.Canonical) :
    (moveHomes s cl map lost gone).Canonical :=
  .foldl (fun _ _ h => .rehomeFrom h) (.update (.modCluster (.ite (.update h) (.evictWhere h))))

@[simp] theorem Leads.execHmap (h : s.Canonical) : Leads (execHmap core s) := by
  refine .next ?_
  split
  · exact h
  · next e => exact .ite (.unitRefuses (.takeUnit h e)) (.ite h (.unitDone (.ite (.moveHomes (.takeUnit h e)) (.takeUnit h e))))

theorem State.Canonical.refuseTravellers (h : s.Canonical) : (refuseTravellers s c).Canonical :=
  .foldl (fun _ _ h => .harbourFrom h) (.foldl (fun _ _ h => .refuseRequest h) (.update h))

theorem State.Canonical.endRovers (h : s.Canonical) : (endRovers s c).Canonical := by
  refine .foldl ?_ h
  intro _ _ h
  split
  · exact .leaveGang (.abandonRecords h)
  · exact h

theorem State.Canonical.withdrawRequests (h : s.Canonical) : (withdrawRequests s c b).Canonical := .releaseRanks (.update h)

theorem State.Canonical.clearBuf (h : s.Canonical) : (clearBuf failure c s b).Canonical := by
  unfold Machine.clearBuf
  split
  · exact h
  · exact .ite h (.freeBuf h)
  · refine .ite (.ite (.freeBuf (.withdrawRequests h)) h) (.ite (.destroyCapsule (.withdrawRequests h)) ?_)
    split
    · exact .toHarbour (.ite (.completeBankStep (.withdrawRequests h)) (.withdrawRequests h))
    · exact .toHarbour (.withdrawRequests h)

theorem State.Canonical.loseCore (h : s.Canonical) : (loseCore s c).Canonical :=
  .foldl (fun _ _ h => .leaveGang (.abandonRecords h)) (.modCore h)

theorem State.Canonical.upsetBuffer {off : Nat} (h : s.Canonical) : (upsetBuffer s c b off).Canonical := by
  refine .ite (.ite (.markHeader (.mark h)) h) ?_
  split
  · exact h
  · exact h
  · exact .killSlot h
  · exact .destroyCapsule (.withdrawRequests h)

theorem State.Canonical.upsetRecord {i : Nat} {named : Bool} (h : s.Canonical) : (upsetRecord s cl i named).Canonical := by
  unfold Machine.upsetRecord
  split
  · exact h
  · exact .ite (.pushEvent (.countAbandoned (.modCluster h))) (.modCluster h)

theorem State.Canonical.upsetDocked {handle : Nat} (h : s.Canonical) : (upsetDocked s c handle).Canonical := by
  unfold Machine.upsetDocked
  split
  · exact h
  · exact .setErr (.pushEvent (.leaveGang (.abandonRecords (.modCore h))))

theorem State.Canonical.upsetGroup {n : Nat} (h : s.Canonical) : (upsetGroup s cl n).Canonical := by
  unfold Machine.upsetGroup
  split
  · exact h
  · exact .pushEvent (.modCluster h)

theorem State.Canonical.upset {u : Upset} (h : s.Canonical) : (upset u s).Canonical := by
  unfold Machine.upset
  split
  · exact .upsetGroup h
  · exact .upsetRecord h
  · exact .upsetBuffer h
  · exact .upsetDocked h
  · exact .modCluster h
  · exact .modCore h
  · exact .modCore h
  · split
    · exact .pushEvent (.update h)
    · exact h

theorem State.Canonical.killSlots (h : s.Canonical) : (killSlots failure s c).Canonical :=
  .foldl (fun _ _ h => .ite (.killSlot h) h) h

theorem State.Canonical.haltPilot (h : s.Canonical) : (haltPilot failure s c).Canonical :=
  .ite h (.ite (.stopTrapped (.disownRequests (.withdrawWait h))) (.haltSlot h))

theorem State.Canonical.loseGroups (h : s.Canonical) : (loseGroups s c).Canonical := .modCluster h
theorem State.Canonical.leaveAll (h : s.Canonical) : (leaveAll s).Canonical := .foldl (fun _ _ h => .dropRank h) h

theorem State.Canonical.outOfService {tagsReadable : Bool} (h : s.Canonical) :
    (outOfService failure tagsReadable s c).Canonical :=
  .ite (.ite (.pushEvent (.pushEvent (.loseGroups (.moveHomes (.ite (.haltPilot (.ite (.loseCore (.foldl (fun _ _ h => .clearBuf
    h) (.killSlots (.refuseTravellers (.endRovers (.modCore h)))))) (.foldl (fun _ _ h => .clearBuf h) (.killSlots
    (.refuseTravellers (.endRovers (.modCore h))))))) (.pushEvent (.haltPilot (.ite (.loseCore (.foldl (fun _ _ h => .clearBuf h)
    (.killSlots (.refuseTravellers (.endRovers (.modCore h)))))) (.foldl (fun _ _ h => .clearBuf h) (.killSlots (.refuseTravellers
    (.endRovers (.modCore h))))))))))))) (.pushEvent (.loseGroups (.moveHomes (.ite (.haltPilot (.ite (.loseCore (.foldl (fun _ _
    h => .clearBuf h) (.killSlots (.refuseTravellers (.endRovers (.modCore h)))))) (.foldl (fun _ _ h => .clearBuf h) (.killSlots
    (.refuseTravellers (.endRovers (.modCore h))))))) (.pushEvent (.haltPilot (.ite (.loseCore (.foldl (fun _ _ h => .clearBuf h)
    (.killSlots (.refuseTravellers (.endRovers (.modCore h)))))) (.foldl (fun _ _ h => .clearBuf h) (.killSlots (.refuseTravellers
    (.endRovers (.modCore h))))))))))))) (.leaveAll (.ite (.pushEvent (.pushEvent (.loseGroups (.moveHomes (.ite (.haltPilot (.ite
    (.loseCore (.foldl (fun _ _ h => .clearBuf h) (.killSlots (.refuseTravellers (.endRovers (.modCore h)))))) (.foldl (fun _ _ h
    => .clearBuf h) (.killSlots (.refuseTravellers (.endRovers (.modCore h))))))) (.pushEvent (.haltPilot (.ite (.loseCore (.foldl
    (fun _ _ h => .clearBuf h) (.killSlots (.refuseTravellers (.endRovers (.modCore h)))))) (.foldl (fun _ _ h => .clearBuf h)
    (.killSlots (.refuseTravellers (.endRovers (.modCore h))))))))))))) (.pushEvent (.loseGroups (.moveHomes (.ite (.haltPilot
    (.ite (.loseCore (.foldl (fun _ _ h => .clearBuf h) (.killSlots (.refuseTravellers (.endRovers (.modCore h)))))) (.foldl (fun
    _ _ h => .clearBuf h) (.killSlots (.refuseTravellers (.endRovers (.modCore h))))))) (.pushEvent (.haltPilot (.ite (.loseCore
    (.foldl (fun _ _ h => .clearBuf h) (.killSlots (.refuseTravellers (.endRovers (.modCore h)))))) (.foldl (fun _ _ h =>
    .clearBuf h) (.killSlots (.refuseTravellers (.endRovers (.modCore h))))))))))))))

@[simp] theorem Leads.execCoreFailed {tagsReadable : Bool} (h : s.Canonical) : Leads (execCoreFailed core tagsReadable s) :=
  .deviceStep h (fun _ h => .ite h (.outOfService h))

@[simp] theorem Leads.execFenceOff (h : s.Canonical) : Leads (execFenceOff core s) := by
  refine .deviceStep h fun _ h => ?_
  split
  · exact h
  · next e =>
    have h' := State.Canonical.takeUnit h e
    exact .ite (.ite (.unitRefuses h') (.unitDone (.ite (.outOfService h') h'))) h

theorem State.Canonical.zeroPad (h : s.Canonical) : (zeroPad s c).Canonical := by
  unfold Machine.zeroPad
  exact .notePad (Memory.wf_clear h _ _)

theorem State.Canonical.emptySlots (h : s.Canonical) : (emptySlots s c).Canonical :=
  .foldl (fun _ _ h => .setSlot (.disownRequests (.withdrawWait (.forgetSlot h)))) h

@[simp] theorem Leads.execReturnToService (h : s.Canonical) : Leads (execReturnToService core s) := by
  refine .deviceStep h ?_
  intro _ h
  split
  · exact h
  · next e => exact .ite (.ite (.unitRefuses (.takeUnit h e)) (.unitDone (.placementPass (.emptySlots (.zeroPad (.modCore
        (.takeUnit h e))))))) h
end

/-! ### Units -/

section
variable {core : Nat} {s : State}

@[simp] theorem Leads.execWbirun (h : s.Canonical) : Leads (execWbirun core s) := by
  refine .next ?_
  split
  · exact h
  · next e => exact .ite h (.unitDone (.modCore (.evictWhere (.takeUnit h e))))

theorem State.Canonical.configurePch {running idle : Pch → Pch} (h : s.Canonical) :
    (configurePch s core running idle).Canonical := .setPch h

@[simp] theorem Leads.execSqwin (h : s.Canonical) : Leads (execSqwin core s) := by
  refine .next ?_
  split
  · exact h
  · next e => exact .unitDone (.configurePch (.takeUnit h e))

@[simp] theorem Leads.execSqoff (h : s.Canonical) : Leads (execSqoff core s) := by
  refine .next ?_
  split
  · exact h
  · next e => exact .unitDone (.configurePch (.takeUnit h e))

@[simp] theorem Leads.execSqrel (h : s.Canonical) : Leads (execSqrel core s) := by
  refine .next ?_
  split
  · exact h
  · next e => exact .unitDone (.releasePch (.takeUnit h e))

theorem State.Canonical.setMembership {v : Word} (h : s.Canonical) : (setMembership s core v).Canonical := .update h

@[simp] theorem Leads.execMbself {value : BitVec 64} (h : s.Canonical) : Leads (execMbself core value s) :=
  .next (.ite h (.setMembership h))

theorem State.Canonical.setRoute {v : Word} (h : s.Canonical) : (setRoute s core v).Canonical := .update (.holdRanks h)

@[simp] theorem Leads.execMbroute {value : BitVec 64} (h : s.Canonical) : Leads (execMbroute core value s) :=
  .next (.ite h (.setRoute h))

@[simp] theorem Leads.execMemdrop (h : s.Canonical) : Leads (execMemdrop core s) := by
  refine .next ?_
  split
  · exact h
  · next e => exact .ite (.unitRefuses (.takeUnit h e)) (.unitDone (.dropRank (.takeUnit h e)))
end

/-! ### The host -/

section
variable {s : State} {pa : BitVec 52} {value : BitVec 64}

theorem Leads.hostSubmit (h : s.Canonical) : Leads (hostSubmit s) := by
  refine .deviceStep h ?_
  intro _ h
  split
  · exact h
  · exact .ite (.update (.update h)) (.update (.submitQueued (.update h)))

@[simp] theorem Leads.execHlqsub (h : s.Canonical) : Leads (execHlqsub value s) := .ite (.hostSubmit (.update h)) (.next h)

@[simp] theorem Leads.execHlqdel (h : s.Canonical) : Leads (execHlqdel value s) :=
  .next (.ite h (.ite (.update h) (.update (.withdraw h))))

@[simp] theorem Leads.execMqpop (h : s.Canonical) : Leads (execMqpop s) := by
  refine .next ?_
  split <;> exact .update h

@[simp] theorem Leads.execMgmtQueueEnqueue (h : s.Canonical) : Leads (execMgmtQueueEnqueue s) := by
  refine .next ?_
  split
  · exact h
  · exact .ite (.update h) h

@[simp] theorem Leads.execEnvCallRecord (h : s.Canonical) : Leads (execEnvCallRecord s) := by
  refine .deviceStep h ?_
  intro _ h
  split
  · exact h
  · exact .ite (.update (.tableWrite h)) h

@[simp] theorem Leads.execEcans (h : s.Canonical) : Leads (execEcans value s) :=
  .next (.ite (.foldl (fun _ _ h => .makeRunnable (.returnFromTrap (.modSlot h))) h) h)

theorem Leads.barRead {offset : Nat} (h : s.Canonical) : Leads (barRead offset s) := .ite (.execMqpop h) (.next (.update h))

theorem Leads.barWrite {offset : Nat} {v : Word} (h : s.Canonical) : Leads (barWrite offset v s) := by
  unfold Machine.barWrite
  split
  · exact .execHlqsub h
  · exact .execHlqdel h
  · exact .next (.update h)
  · exact .next (.update h)
  · exact .next (.update h)
  · exact .next (.update h)
  · exact .execEcans h
  · exact .next h

@[simp] theorem Leads.execCxlMemRead {cached : Bool} (h : s.Canonical) : Leads (execCxlMemRead pa cached s) :=
  .next (.ite (.update h) (.ite h (.ite (.update (.update (.homeLine h))) (.update (.homeLine h)))))

@[simp] theorem Leads.execCxlMemWrite {data : BitVec 256} {enable : BitVec 32} (h : s.Canonical) :
    Leads (execCxlMemWrite pa data enable s) :=
  .next (.ite h (.foldl (fun _ _ h => .ite h (.noteGlobal h)) (.update (.homeLine h))))

@[simp] theorem Leads.execHostSnoop {data : BitVec 256} {write : Bool} (h : s.Canonical) :
    Leads (execHostSnoop pa data write s) := .next (.ite h (.ite (.noteGlobal (.engineStore (.evictLine h))) (.evictLine h)))

@[simp] theorem Leads.execBackInvalidateResponse (h : s.Canonical) : Leads (execBackInvalidateResponse pa s) := .next (.update h)
end

/-! ### System registers -/

section
variable {s : State} {c n : Nat} {v : Word}

theorem State.Canonical.popTrap (h : s.Canonical) : (popTrap s c).2.Canonical := by
  unfold Machine.popTrap
  split
  · exact h
  · exact .modCore h

@[simp] theorem Leads.execTrpop {core : Nat} (h : s.Canonical) : Leads (execTrpop core s) := .next (.popTrap h)

theorem State.Canonical.popEvent (h : s.Canonical) : (popEvent s c).2.Canonical := by
  unfold Machine.popEvent
  split
  · exact h
  · exact .modCore (.update h)

@[simp] theorem Leads.execEvpop {core : Nat} (h : s.Canonical) : Leads (execEvpop core s) := .next (.popEvent h)
theorem State.Canonical.nominalClocks (h : s.Canonical) : (nominalClocks s).Canonical := .foldl (fun _ _ h => .modCluster h) h
theorem State.Canonical.setLoops (h : s.Canonical) : (setLoops s v).Canonical := .ite (.update h) (.nominalClocks (.update h))

@[simp] theorem Leads.execLoopctl {y : Nat} {value : BitVec 64} (h : s.Canonical) : Leads (execLoopctl y value s) :=
  .next (.setLoops h)

theorem State.Canonical.clusterReg {cl : Nat} {f : Cluster → Word} (h : s.Canonical) : (clusterReg s cl f).2.Canonical := by
  unfold Machine.clusterReg
  split
  · exact h
  · exact .draw h

theorem State.Canonical.sysRead {r : Word × State} (h : s.Canonical) (e : sysRead s c n = some r) : r.2.Canonical := by
  unfold Machine.sysRead at e
  split at e
  · cases e; exact .popTrap h
  · cases e; exact .popEvent h
  · cases e; exact .clusterReg h
  · cases e; exact .clusterReg h
  · obtain ⟨_, _, rfl⟩ := Option.map_eq_some_iff.mp e
    exact h

@[simp] theorem Leads.execSysrd {rd : BitVec 6} {n : BitVec 12} (h : s.Canonical) : Leads (execSysrd rd n s) := by
  refine .next (.issue h ?_)
  intro _ h
  split
  · exact .trapHere h
  · next e => exact .writeNext h (.sysRead h e)

theorem SysWrite.Canonical.refusing {bad : Bool} {w : SysWrite} (h : w.Canonical) : (refusing bad w).Canonical := .ite .illegal h
theorem State.Canonical.clearErr {lid : BitVec 32} (h : s.Canonical) : (clearErr s lid v).Canonical := .ite (.update h) h

theorem SysWrite.Canonical.writeGent (h : s.Canonical) : (writeGent s c n v).Canonical :=
  .refusing (.now (.answerNone (.setGroup h)))

theorem SysWrite.Canonical.sysWrite (h : s.Canonical) : (sysWrite s c n v).Canonical := by
  unfold Machine.sysWrite
  split
  · exact .now (.modCore h)
  · exact .now (.modCore h)
  · exact .refusing (.now (.modCore h))
  · exact .refusing (.now (.modCore h))
  · exact .refusing .unit
  · exact .now (.modCore h)
  · exact .refusing .unit
  · exact .unit
  · exact .refusing .unit
  · exact .refusing .unit
  · exact .refusing .unit
  · exact .refusing (.now (.modCluster h))
  · exact .refusing (.now (.modCluster h))
  · exact .now (.modCore h)
  · exact .refusing .unit
  · exact .refusing .unit
  · exact .refusing .unit
  · exact .now (.modCore h)
  · exact .now (.modCore h)
  · exact .now (.modCore h)
  · exact .now (.modCore h)
  · exact .now (.modCore h)
  · exact .now (.modCore h)
  · exact .now (.modCore h)
  · exact .now (.update h)
  · exact .now (.update h)
  · exact .now (.update h)
  · exact .now (.update h)
  · exact .now (.update h)
  · exact .now (.update h)
  · exact .now (.update h)
  · exact .now (.update h)
  · exact .now (.update h)
  · exact .now (.update h)
  · exact .now (.update h)
  · exact .now (.update h)
  · exact .now (.update h)
  · exact .now (.update h)
  · exact .now (.update h)
  · exact .now (.update h)
  · exact .now (.modCore h)
  · exact .refusing .unit
  · exact .writeGent h
  · exact .writeGent h
  · exact .writeGent h
  · exact .writeGent h
  · exact .writeGent h
  · exact .writeGent h
  · exact .refusing .unit
  · exact .now (.modCore h)
  · exact .now (.clearErr h)
  · exact .refusing (.now (.update h))
  · exact .refusing .unit
  · exact .now (.modCore h)
  · exact .refusing .unit
  · exact .now (.setLoops h)
  · exact .now (.modCore h)
  · exact .now (.modCore h)
  · exact .now (.modCore h)
  · exact .refusing (.now (.setMembership h))
  · exact .refusing (.now (.setRoute h))
  · exact .illegal

theorem State.Canonical.postUnit (h : s.Canonical) : (postUnit s n v).Canonical := .update (.awaitReply (.endReservation h))

@[simp] theorem Leads.execSyswr {ra : BitVec 6} {n : BitVec 12} (h : s.Canonical) : Leads (execSyswr ra n s) := by
  refine .next (.issue h ?_)
  intro _ h
  split
  · exact .trapHere h
  · exact .postUnit h
  · next e => exact .ite (.of_now e (.sysWrite h)) (.doneNext (.of_now e (.sysWrite h)))
end

/-! ### System instructions -/

section
variable {s : State} {rd ra rb : BitVec 6} {off k d : Nat} {n : BitVec 3} {w v key pc : Word} {m : Message}

@[simp] theorem Leads.execTrap {imm : BitVec 12} (h : s.Canonical) : Leads (execTrap ra imm s) :=
  .next (.issue h (fun _ h => .ite (.pollFor h) (.trapHere h)))

theorem State.Canonical.breakHalt (h : s.Canonical) : (breakHalt s).Canonical := .modMe (.doneNext (.endReservation h))

@[simp] theorem Leads.execBrk {n : BitVec 6} (h : s.Canonical) : Leads (execBrk n s) :=
  .next (.issue h (fun _ h => .ite (.pollFor h) (.ite (.breakHalt h) (.trapHere h))))

@[simp] theorem Leads.execTret {sk : BitVec 1} (h : s.Canonical) : Leads (execTret ra sk s) :=
  .next (.issue h (fun _ h => .ite (.trapHere h) (.ite (.trapHere h) (.doneNext (.foldl (fun _ _ h => .returnLater
    (.returnFromTrap h)) h)))))

theorem State.Canonical.loadSegment {img : Nat} {poison : Bool} (h : s.Canonical) : (loadSegment n img poison s).Canonical :=
  .ite (.trapHere h) (.answerNone (.modMe (.handOn (.handOn h))))

theorem State.Canonical.takeSegment (h : s.Canonical) : (takeSegment n s).Canonical := by
  unfold Machine.takeSegment
  split
  · next e => exact .doneNext (.modMe (.of_go e (.takeMany h)))
  · next e => exact .of_stop e (.takeMany h)

@[simp] theorem Leads.execSegld (h : s.Canonical) : Leads (execSegld n ra s) := by
  refine .deviceStep h ?_
  intro _ h
  refine .issue h ?_
  intro _ h
  split
  · exact .trapHere h
  · exact .ite (.trapHere h) (.ite (.takeSegment h) (.loadSegment (.tableRead h)))

@[simp] theorem Leads.execSegldImg (h : s.Canonical) : Leads (execSegldImg n ra s) :=
  .next (.issue h (fun _ h => .withBlock h (fun _ _ _ h => .loadSegment h)))

theorem State.Canonical.invalidateCode {c : Nat} {ctag : BitVec 4} (h : s.Canonical) : (invalidateCode s c ctag).Canonical :=
  .modCore h

@[simp] theorem Leads.execIfence (h : s.Canonical) : Leads (execIfence s) :=
  .next (.issue h (fun _ h => .answerNone (.invalidateCode h)))

theorem State.Canonical.clearCir (h : s.Canonical) : (clearCir v s).Canonical := .update (.modMe h)

@[simp] theorem Leads.execChkerr {c : BitVec 1} (h : s.Canonical) : Leads (execChkerr rd c s) :=
  .next (.issue h (fun _ h => .boundaryRead h (fun _ h' => .writeBoundary h (.ite (.clearCir h') h')) (fun _ _ h => .writeNext h
    (.ite (.modMe h) h))))

theorem State.Canonical.forBoth {own : State → State} (h : s.Canonical) (hown : ∀ (t : State), t.Canonical → (own t).Canonical) :
    (forBoth own s).Canonical := .outward h hown (fun _ h => .leaveRotation h)

theorem State.Canonical.onBoth {f : State → Nat → State} (h : s.Canonical)
    (hf : ∀ (t : State) (a : Nat), t.Canonical → (f t a).Canonical) : (onBoth f s).Canonical := .foldl hf h

@[simp] theorem Leads.execPark (h : s.Canonical) : Leads (execPark ra s) :=
  .next (.issue h (fun _ h => .ite (.trapHere h) (.forBoth h (fun _ h => .ite (.onBoth h (fun _ _ h => .asSlot h (fun _ h =>
    .doneNext h))) (.onBoth h (fun _ _ h => .modSlot (.leaveRotation (.endReservation h))))))))

theorem State.Canonical.wakeSlot {key : BitVec 32} {pilot : Bool} {lid : BitVec 32} (h : s.Canonical) :
    (wakeSlot s d k key pilot lid).2.Canonical := .ite_snd (.unpark h) h

theorem State.Canonical.sendEntry {q : Resend} (h : s.Canonical) : (sendEntry rd q s).Canonical := by
  unfold Machine.sendEntry
  split
  · exact .pollFor (.endReservation h)
  · exact .answer (.resendFrom (.modMe h))

theorem State.Canonical.wakeEntry (h : s.Canonical) : (wakeEntry rd d key s).Canonical := by
  refine .ite (.pollFor h) ?_
  dsimp only
  split
  · exact .answer (.needEntry h)
  · exact .sendEntry (.modMe (.takeEntry (.needEntry h)))

theorem State.Canonical.wakeAt (h : s.Canonical) : (wakeAt rd d w key s).Canonical := by
  unfold Machine.wakeAt
  dsimp only
  refine .ite (.wakeEntry h) (.answer ?_)
  split
  · exact .wakeCapsule h
  · exact .wakeSlot h

theorem State.Canonical.wakeOp (h : s.Canonical) : (wakeOp rd w key s).Canonical := by
  unfold Machine.wakeOp
  split
  · exact .sendEntry h
  · exact .ite (.wakeAt h) (.answer h)

@[simp] theorem Leads.execWake (h : s.Canonical) : Leads (execWake rd ra rb s) :=
  .deviceStep h (fun _ h => .issue h (fun _ h => .ite (.trapHere h) (.outward h (fun _ h => .wakeOp h) (fun _ h => .takeResult
    h))))

theorem State.Canonical.sendOp (h : s.Canonical) : (sendOp rd w v s).Canonical :=
  .ite (.pollFor h) (.update (.awaitReply (.endReservation h)))

@[simp] theorem Leads.execSend (h : s.Canonical) : Leads (execSend rd ra rb s) :=
  .next (.issue h (fun _ h => .ite (.trapHere h) (.outward h (fun _ h => .sendOp h) (fun _ h => .takeResult h))))

theorem State.Canonical.placeMessage {r : State} (h : s.Canonical) (e : placeMessage s m = some r) : r.Canonical := by
  unfold Machine.placeMessage at e
  refine .of_ite_some e (.of_ite_some · ?_ nofun) (.of_ite_some · nofun (.of_ite_some · nofun ?_))
  · rintro ⟨⟩
    exact .modCore h
  · rintro ⟨⟩
    exact .portArrive h

theorem State.Canonical.messageReply (h : s.Canonical) : (messageReply m v s).Canonical := .ite h (.postReply h)

theorem State.Canonical.arriveMessage (h : s.Canonical) : (arriveMessage k m s).Canonical := by
  unfold Machine.arriveMessage
  split
  · exact .messageReply (.update h)
  · refine .ite (.ite h (.update (.update h))) ?_
    split
    · next e => exact .messageReply (.placeMessage (.update h) e)
    · exact .ite h (.update (.update h))

@[simp] theorem Leads.execMessageArrival (h : s.Canonical) : Leads (execMessageArrival k s) := by
  refine .next ?_
  split
  · exact .arriveMessage h
  · exact h

@[simp] theorem Leads.execBar {lvl : BitVec 2} (h : s.Canonical) : Leads (execBar rd lvl s) :=
  .next (.issue h (fun _ h => .outward h (fun _ h => .ite (.pollFor h) (.releaseBarrier (.leaveRotation (.endReservation h))))
    (fun _ h => .takeResult h)))

theorem State.Canonical.inlineCall (h : s.Canonical) : (inlineCall rd pc s).Canonical :=
  .ite (.writeTo h (.modMe (.handOn h))) (.writeNext h (.handOn h))

theorem State.Canonical.followSpawn (h : s.Canonical) : (followSpawn rd pc s).Canonical := by
  unfold Machine.followSpawn
  split
  · next e => exact .ite (.inlineCall (.of_go e (.takeValue h))) (.writeNext (.of_go e (.takeValue h)) (.of_go e (.takeValue h)))
  · next e => exact .of_stop e (.takeValue h)

theorem State.Canonical.spawnOp (h : s.Canonical) : (spawnOp rd w pc s).Canonical :=
  .ite (.pollFor h) (.update (.awaitReply (.endReservation h)))

@[simp] theorem Leads.execSpawn (h : s.Canonical) : Leads (execSpawn rd ra rb s) :=
  .next (.issue h (fun _ h => .ite (.trapHere h) (.outward h (fun _ h => .spawnOp h) (fun _ h => .followSpawn h))))

@[simp] theorem Leads.execSpawnArrival (h : s.Canonical) : Leads (execSpawnArrival k s) := by
  refine .next ?_
  split
  · exact h
  · dsimp only
    split
    · exact .ite (.takeTrap (.update h)) (.postReply (.startThread (.update h)))
    · exact .asSlot (.update h) (fun _ h => .inlineCall h)

theorem State.Canonical.quitOp (h : s.Canonical) : (quitOp s).Canonical :=
  .ite (.pollFor h) (.ite (.pollFor (.endReservation h)) (.placementPass (.onBoth h (fun _ _ h => .endThread h))))

@[simp] theorem Leads.execQuit (h : s.Canonical) : Leads (execQuit s) := by
  refine .deviceStep h ?_
  intro _ h
  refine .issue h ?_
  intro _ h
  split
  · exact .done (.modMe h)
  · exact .forBoth h (fun _ h => .quitOp h)

theorem State.Canonical.localLoad (h : s.Canonical) : (localLoad s off).2.Canonical := by
  unfold Machine.localLoad
  dsimp only
  split
  · exact h
  · exact .bankTransfer h

theorem State.Canonical.localStore {v : Nat} {poison : Bool} (h : s.Canonical) : (localStore s off v poison).2.Canonical :=
  .ite_snd (.padRmwStore h) (.bankTransfer h)

theorem State.Canonical.tsubOp {target : Word} (h : s.Canonical) : (tsubOp rd off target s).Canonical := by
  refine .ite (.pollFor h) ?_
  split
  · next e => exact .pollFor (.endReservation (.of_snd e (.localLoad h)))
  · next e => exact .ite (.answer (.dropAnswers (.of_snd e (.localLoad h)))) (.answer (.submitTask (.dropAnswers (.of_snd e
        (.localLoad h)))))

@[simp] theorem Leads.execTsub (h : s.Canonical) : Leads (execTsub rd ra rb s) := by
  refine .deviceStep h ?_
  intro _ h
  refine .issue h ?_
  intro _ h
  dsimp only
  split
  · exact .trapHere h
  · exact .ite (.trapHere h) (.outward h (fun _ h => .tsubOp h) (fun _ h => .takeResult h))

theorem State.Canonical.placeTask {r : TaskRec} (h : s.Canonical) : (placeTask rd off r s).Canonical := by
  unfold Machine.placeTask
  split
  · next e => exact .pollFor (.endReservation (.of_snd e (.localStore h)))
  · next e => exact .answer (.dropAnswers (.of_snd e (.localStore h)))

theorem State.Canonical.tgetOp {a : Word} (h : s.Canonical) : (tgetOp rd a off s).Canonical := by
  unfold Machine.tgetOp
  dsimp only
  split
  · exact .placeTask h
  · exact .answer h
  · next e => exact .placeTask (.update (.takeTask h e))

@[simp] theorem Leads.execTget (h : s.Canonical) : Leads (execTget rd ra s) := by
  refine .next (.issue h ?_)
  intro _ h
  dsimp only
  split
  · exact .trapHere h
  · exact .outward h (fun _ h => .tgetOp h) (fun _ h => .takeResult h)

theorem State.Canonical.tdoneOp {a : Word} (h : s.Canonical) : (tdoneOp rd a s).Canonical := by
  refine .ite (.pollFor h) ?_
  split
  · exact .answer (.update h)
  · exact .answer h

@[simp] theorem Leads.execTdone (h : s.Canonical) : Leads (execTdone rd ra s) :=
  .next (.issue h (fun _ h => .outward h (fun _ h => .tdoneOp h) (fun _ h => .takeResult h)))
end

/-! ### Debugging -/

section
variable {s : State} {ra rd : BitVec 6} {k c : Nat}

@[simp] theorem Leads.execXrd {rb : BitVec 6} (h : s.Canonical) : Leads (execXrd rd ra rb s) :=
  .next (.issue h (fun _ h => .ite (.trapHere h) (.ite (.trapHere h) (.writeNext h h))))

theorem State.Canonical.leavePorts (h : s.Canonical) : (leavePorts s c k).Canonical := .modSlot (.dropWaits h)

theorem State.Canonical.pokeSlot {sel : Nat} {v : Word} (h : s.Canonical) : (pokeSlot sel v s c k).Canonical :=
  .modSlot (.ite (.leavePorts h) h)

theorem State.Canonical.pokeOp {sel : Nat} {v : Word} {s0 : State} (h : s0.Canonical) (h' : s.Canonical) :
    (pokeOp k sel v s0 s).Canonical :=
  .ite (.trapHere h) (.ite (.pollFor (.endReservation h')) (.doneNext (.foldl (fun _ _ h => .pokeSlot h) h')))

@[simp] theorem Leads.execXwr {gv rb : BitVec 6} (h : s.Canonical) : Leads (execXwr gv ra rb s) :=
  .next (.issue h (fun _ h => .ite (.trapHere h) (.ite (.trapHere h) (.read1 h (fun _ _ h' => .pokeOp h h')))))

theorem Leads.slotAction {i : Instr} {able : State → Nat → Nat → Bool} {act : State → Nat → Nat → State} (h : s.Canonical)
    (hact : ∀ (t : State) (a b : Nat), t.Canonical → (act t a b).Canonical) : Leads (slotAction i rd ra able act s) :=
  .deviceStep h (fun _ h => .issue h (fun _ h => .ite (.trapHere h) (.ite (.answer (hact _ _ _ h)) (.answer h))))

theorem State.Canonical.modTransit {f : Slot → Slot} (h : s.Canonical) : (modTransit s c k f).Canonical := .update h
theorem State.Canonical.haltInTransit (h : s.Canonical) : (haltInTransit s c k).Canonical := .modTransit h

@[simp] theorem Leads.execKill (h : s.Canonical) : Leads (execKill rd ra s) :=
  .slotAction h (fun _ _ _ h => .foldl (fun _ _ h => .killSlot h) h)

@[simp] theorem Leads.execHalt (h : s.Canonical) : Leads (execHalt rd ra s) :=
  .slotAction h (fun _ _ _ h => .ite (.foldl (fun _ _ h => .haltSlot h) h) (.haltInTransit h))

theorem State.Canonical.contSlot {step : Bool} (h : s.Canonical) : (contSlot step s c k).Canonical := by
  refine .ite h ?_
  dsimp only
  split <;> exact .modSlot (.modSlot (.deliverDeferred h))

@[simp] theorem Leads.execCont {st : BitVec 1} (h : s.Canonical) : Leads (execCont rd ra st s) :=
  .slotAction h (fun _ _ _ h => .foldl (fun _ _ h => .contSlot h) h)
end

/-! ### Docking -/

section
variable {s : State} {c k : Nat} {h : BitVec 16} {rd : BitVec 6} {d : DockEntry}

theorem State.Canonical.startDocking (h : s.Canonical) : (startDocking s c k).Canonical :=
  .ite h (.ite (.stopWithdrawn (.modSlot h)) (.ite (.leaveRotation (.endReservation (.modSlot h))) (.modSlot h)))

theorem State.Canonical.markReplays {again : List Cmd} (h : s.Canonical) : (markReplays s c k again).Canonical :=
  .foldl (fun _ _ h => .modSlot h) h

theorem State.Canonical.renumber {a b : Nat × Nat} (h : s.Canonical) : (renumber s a b).Canonical :=
  .modCore (.update (.renameOwner h))

theorem State.Canonical.abortDocked (hs : s.Canonical) : (abortDocked s c h).Canonical :=
  .foldl (fun _ _ h => .ite (.abortSequence h) (.completeCmd h)) hs

theorem State.Canonical.spillEarliest (h : s.Canonical) : (spillEarliest s c).Canonical := by
  unfold Machine.spillEarliest
  split
  · exact h
  · exact .tableWrite (.update (.modCore h))

theorem State.Canonical.saveSlot {d j : Nat} (hs : s.Canonical) : (saveSlot s c k d j h).Canonical := by
  unfold Machine.saveSlot
  dsimp only
  exact .placementPass (.setSlot (.abortDocked (.renumber (.modCore (.modCore (.draw (.ite
    (.spillEarliest (.landPushes (.dropWaits (.markReplays (.withdrawWait (.dropXlate (.endReservation hs)))))))
    (.landPushes (.dropWaits (.markReplays (.withdrawWait (.dropXlate (.endReservation hs)))))))))))))

theorem State.Canonical.dockFrom {place : Option (Nat × Nat)} (hs : s.Canonical) : (dockFrom rd k h place s).Canonical := by
  unfold Machine.dockFrom
  split
  · exact .pollFor (.endReservation hs)
  · exact .ite (.answer hs) (.ite (.answer (.saveSlot (.startDocking hs))) (.pollFor (.endReservation (.startDocking hs))))

theorem State.Canonical.dockInTransit (h : s.Canonical) : (dockInTransit s c k).Canonical := .modTransit h

@[simp] theorem Leads.execDockOut {ra rb : BitVec 6} (h : s.Canonical) : Leads (execDockOut rd ra rb s) :=
  .deviceStep h (fun _ h => .issue h (fun _ h => .ite (.trapHere h) (.ite (.answer h) (.ite (.answer h) (.ite (.answer h) (.ite
    (.dockFrom (.dockInTransit h)) (.dockFrom h)))))))

theorem State.Canonical.readBack (h : s.Canonical) : (readBack s c d).2.Canonical := by
  unfold Machine.readBack
  split
  · split
    next e =>
      have h' := State.Canonical.of_third e (.tableRead h)
      exact .ite_snd h' (.ite_snd h' (.update h'))
  · exact h

theorem State.Canonical.freeEntry (hs : s.Canonical) : (freeEntry s c h).Canonical := .modCore hs

theorem State.Canonical.loseDocked (h : s.Canonical) : (loseDocked s c d).Canonical := by
  refine .leaveGang ?_
  split
  · exact .destroyCapsule (.abandonRecords (.freeEntry h))
  · exact .abandonRecords (.freeEntry h)

theorem State.Canonical.giveToken {t : HeldToken} (h : s.Canonical) : (giveToken c k s t).Canonical :=
  .ite (.postToken h) (.ite (.pushPending h) (.pushToken h))

theorem State.Canonical.restoreSlot {g : Option Grant} (h : s.Canonical) : (restoreSlot s c k d g).Canonical := by
  unfold Machine.restoreSlot
  split
  · split
    · split
      · exact .trapEnqueue (.foldl (fun _ _ h => .giveToken h) (.modCore (.renumber (.setSlot (.freeEntry h)))))
      · exact .foldl (fun _ _ h => .giveToken h) (.modCore (.renumber (.setSlot (.freeEntry h))))
    · split
      · exact .trapEnqueue (.deliverDeferred (.foldl (fun _ _ h => .giveToken h) (.modCore (.renumber (.setSlot (.freeEntry
            h))))))
      · exact .deliverDeferred (.foldl (fun _ _ h => .giveToken h) (.modCore (.renumber (.setSlot (.freeEntry h)))))
  · split
    · split
      · exact .trapEnqueue (.foldl (fun _ _ h => .giveToken h) (.modCore (.renumber (.setSlot (.freeEntry h)))))
      · exact .foldl (fun _ _ h => .giveToken h) (.modCore (.renumber (.setSlot (.freeEntry h))))
    · split
      · exact .trapEnqueue (.deliverDeferred (.foldl (fun _ _ h => .giveToken h) (.modCore (.renumber (.setSlot (.freeEntry
            h))))))
      · exact .deliverDeferred (.foldl (fun _ _ h => .giveToken h) (.modCore (.renumber (.setSlot (.freeEntry h)))))

@[simp] theorem Leads.execDockIn {ra rb : BitVec 6} (h : s.Canonical) : Leads (execDockIn rd ra rb s) := by
  refine .deviceStep h ?_
  intro _ h
  refine .issue h ?_
  intro _ h
  refine .ite (.trapHere h) ?_
  split
  · exact .answer h
  · refine .ite (.answer h) ?_
    split
    · next e => exact .answer (.loseDocked (.of_snd e (.readBack h)))
    · next e =>
        split
        · exact .pollFor (.endReservation (.of_snd e (.readBack h)))
        · exact .answer (.restoreSlot (.of_snd e (.readBack h)))
end

/-! ### Bring-up -/

section
variable {s : State} {slot cluster : Nat}

theorem State.Canonical.raiseSecurity {v : BitVec 32} (h : s.Canonical) : (raiseSecurity v s).Canonical := .ite (.update h) h

theorem State.Canonical.stopBringUp {fail stage : Nat} {degraded : Bool} (h : s.Canonical) :
    (stopBringUp fail stage degraded slot s).Canonical := .countLife (.update h)

theorem State.Canonical.calibrate (h : s.Canonical) : (calibrate s).Canonical := .foldl (fun _ _ h => .modCluster (.draw h)) h
theorem State.Canonical.degradePort {p : Nat} (h : s.Canonical) : (degradePort s p).Canonical := .update h
theorem State.Canonical.failBank {b : Nat × Nat × Nat} (h : s.Canonical) : (failBank s b).Canonical := .setPch h
theorem State.Canonical.afterReset (h : s.Canonical) : (afterReset s).Canonical := cellsAbove_filter h

theorem State.Canonical.beginStage {stage : Nat} {degraded : Bool} (h : s.Canonical) :
    (beginStage stage degraded slot s).Canonical := .update h

theorem State.Canonical.selfTest {r : BringUpReport} (h : s.Canonical) : (selfTest r slot s).Canonical :=
  .ite (.stopBringUp (.foldl (fun _ _ h => .failBank h) (.foldl (fun _ _ h => .outOfService h) h))) (.update (.beginStage (.foldl
    (fun _ _ h => .failBank h) (.foldl (fun _ _ h => .outOfService h) h))))

theorem State.Canonical.endStage {r : BringUpReport} (h : s.Canonical) : (endStage r s).Canonical := by
  unfold Machine.endStage
  split
  · exact .beginStage h
  · split
    · exact .stopBringUp h
    · exact .beginStage h
  · exact .beginStage h
  · exact .ite (.stopBringUp h) (.ite (.stopBringUp h) (.beginStage (.foldl (fun _ _ h => .degradePort h) (.calibrate h))))
  · exact .beginStage (.foldl (fun _ _ h => .pushEvent h) h)
  · exact .selfTest h
  · exact h

theorem Leads.bringUpStep (h : s.Canonical) : Leads (bringUpStep s) := by
  refine .deviceStep h ?_
  intro _ h
  split
  · exact .endStage h
  · exact h

@[simp] theorem Leads.execModuleReset {report : BringUpReport} (h : s.Canonical) : Leads (execModuleReset report s) :=
  .next (.beginStage (.update (.countLife (.afterReset h))))

@[simp] theorem Leads.execReady (h : s.Canonical) : Leads (execReady s) := .next (.ite (.update h) h)

theorem State.Canonical.spdm {code : Nat} {request answer : List (BitVec 8)} (h : s.Canonical) :
    (spdm code request answer s).Canonical := .update h

@[simp] theorem Leads.execGetVersion (h : s.Canonical) : Leads (execGetVersion s) := .next (.spdm (.update h))
@[simp] theorem Leads.execGetCapabilities (h : s.Canonical) : Leads (execGetCapabilities s) := .next (.spdm h)

@[simp] theorem Leads.execNegotiateAlgorithms {algorithms : BitVec 64} (h : s.Canonical) :
    Leads (execNegotiateAlgorithms algorithms s) := .next (.spdm (.update h))

@[simp] theorem Leads.execGetDigests (h : s.Canonical) : Leads (execGetDigests s) := .next (.spdm h)

@[simp] theorem Leads.execGetCertificate {offset length : Nat} (h : s.Canonical) : Leads (execGetCertificate offset length s) :=
  .next (.spdm h)

@[simp] theorem Leads.execChallenge {nonce : BitVec 256} (h : s.Canonical) : Leads (execChallenge nonce s) := .next (.spdm h)

@[simp] theorem Leads.execGetMeasurements {index : BitVec 8} (h : s.Canonical) : Leads (execGetMeasurements index s) :=
  .next (.spdm h)

@[simp] theorem Leads.execKeyExchange {exchange : BitVec 256} (h : s.Canonical) : Leads (execKeyExchange exchange s) :=
  .next (.update (.spdm h))

@[simp] theorem Leads.execFinish {verify : BitVec 512} (h : s.Canonical) : Leads (execFinish verify s) :=
  .next (.update (.spdm (.update h)))

@[simp] theorem Leads.execDroopStretch {y : Nat} (h : s.Canonical) : Leads (execDroopStretch y s) := .next h

@[simp] theorem Leads.execVoltageClockChange {mhz mv gated : Nat} (h : s.Canonical) :
    Leads (execVoltageClockChange cluster mhz mv gated s) := .next (.ite (.modCluster h) h)

@[simp] theorem Leads.execLinkEqualisation {port : Nat} {restored : Bool} (h : s.Canonical) :
    Leads (execLinkEqualisation port restored s) := .next (.ite (.linkDown h) h)

@[simp] theorem Leads.execScrubRateAdjust {quiet : Bool} (h : s.Canonical) : Leads (execScrubRateAdjust quiet s) :=
  .next (.ite (.ite (.ite (.update (.update h)) (.update h)) h) (.ite (.ite (.update (.update h)) (.update h)) h))

@[simp] theorem Leads.execClusterHold {temperature : Nat} (h : s.Canonical) : Leads (execClusterHold cluster temperature s) :=
  .next (.ite h (.modCluster h))

@[simp] theorem Leads.execHoldEnd {temperature : Nat} (h : s.Canonical) : Leads (execHoldEnd cluster temperature s) := by
  refine .deviceStep h ?_
  intro _ h
  refine .ite h (.ite (.modCluster h) ?_)
  split
  · exact .modCluster h
  · exact .ite (.placementPass (.modCluster h)) (.modCluster h)

@[simp] theorem Leads.execHbmRecalibration {y z : Nat} (h : s.Canonical) : Leads (execHbmRecalibration y z s) := .next h
theorem State.Canonical.commitLife (h : s.Canonical) : (commitLife s).Canonical := .update h
@[simp] theorem Leads.execLifetimeCommit (h : s.Canonical) : Leads (execLifetimeCommit s) := .next (.commitLife h)

@[simp] theorem Leads.execAbruptLossOfPower (h : s.Canonical) : Leads (execAbruptLossOfPower s) :=
  .next (.update (.afterReset (.ite (.commitLife h) h)))

theorem State.Canonical.powerDown (h : s.Canonical) : (powerDown s).Canonical := .afterReset (.commitLife h)

theorem State.Canonical.countPeak {y : HourPeak} (h : s.Canonical) : (countPeak s y).Canonical := by
  unfold Machine.countPeak
  split
  · exact .ite h (.countLife (.countLife h))
  · exact .ite h (.countLife h)

theorem State.Canonical.endScrubPeriod (h : s.Canonical) : (endScrubPeriod s).Canonical := .ite (.update h) h

@[simp] theorem Leads.execPoweredHours {peaks : List HourPeak} (h : s.Canonical) : Leads (execPoweredHours peaks s) :=
  .next (.commitLife (.endScrubPeriod (.foldl (fun _ _ h => .countPeak h) (.countLife (.update h)))))
end

/-! ### Core cycles -/

section

theorem State.Canonical.beginCycle {s : State} {c : Nat} (h : s.Canonical) : (beginCycle s c).Canonical :=
  .foldl (fun _ _ h => .returnDue h) (.update (.modCore (.ageRequests (.landPushes h))))

@[simp] theorem Leads.execCoreCycle {core : Nat} {s : State} (h : s.Canonical) : Leads (execCoreCycle core s) := by
  refine .next (.ite h ?_)
  dsimp only
  split
  · exact .beginCycle h
  · exact .update (.modSlot (.beginCycle h))
end

/-! ### The dispatch -/

section

theorem Leads.exec {i : Instr} {s : State} (h : s.Canonical) : Leads (exec i s) := by
  cases i <;> simp [Machine.exec, h]
end

/-! ### What happens by itself -/

section
variable {s : State}

theorem State.Canonical.resultState {r : Result} (h : Leads r) (h' : s.Canonical) : (resultState r s).Canonical := by
  cases h with
  | next h => exact h
  | fault => exact h'
  | refused => exact h'

/-- Every duty of a list keeps the form. -/
def AllLead (l : List Duty) : Prop := ∀ d ∈ l, ∀ s : State, s.Canonical → Leads (d s)

@[simp] theorem AllLead.nil : AllLead [] := nofun

@[simp] theorem allLead_cons {d : Duty} {l : List Duty} :
    AllLead (d :: l) ↔ (∀ s : State, s.Canonical → Leads (d s)) ∧ AllLead l := by simp [AllLead]

@[simp] theorem allLead_append {l l' : List Duty} : AllLead (l ++ l') ↔ AllLead l ∧ AllLead l' := by
  simp [AllLead, or_imp, forall_and]

theorem AllLead.flatMap {α : Type} {l : List α} {f : α → List Duty} (h : ∀ a, AllLead (f a)) : AllLead (l.flatMap f) := by
  intro d hd
  obtain ⟨a, _, hd⟩ := List.mem_flatMap.mp hd
  exact h a d hd

@[simp] theorem AllLead.map {α : Type} {l : List α} {f : α → Duty} (h : ∀ a s, s.Canonical → Leads (f a s)) :
    AllLead (l.map f) := by
  intro d hd
  obtain ⟨a, _, rfl⟩ := List.mem_map.mp hd
  exact h a

@[simp] theorem AllLead.ifDue {b : Bool} {l : List Duty} (h : AllLead l) : AllLead (ifDue b l) := by
  unfold Machine.ifDue
  split <;> simp [h]

@[simp] theorem AllLead.each {n : Nat} {f : Nat → List Duty} (h : ∀ k, AllLead (f k)) : AllLead (each n f) := .flatMap h

@[simp] theorem allLead_slotDuties {c k : Nat} : AllLead (slotDuties s c k) := by simp +contextual [slotDuties]

@[simp] theorem allLead_copyDuty {c : Nat} {x : Cmd} : AllLead (copyDuty c x) := by
  unfold copyDuty
  split <;> simp +contextual

@[simp] theorem allLead_bankDuties {r : Core} {c : Nat} : AllLead (bankDuties r c) :=
  .each fun k => allLead_append.mpr ⟨by simp +contextual, .each fun b => by simp +contextual⟩

@[simp] theorem allLead_stackDuties {r : Core} {c : Nat} : AllLead (stackDuties r c) := by simp +contextual [stackDuties]

@[simp] theorem allLead_engineDuties {r : Core} {c : Nat} : AllLead (engineDuties r c) := by
  simp +contextual [engineDuties, AllLead.flatMap]

@[simp] theorem allLead_tokenDuty {c : Nat} {t : HeldToken} : AllLead (tokenDuty c t) := by
  unfold tokenDuty
  split <;> simp +contextual

@[simp] theorem allLead_bufDuties {r : Core} {c : Nat} : AllLead (bufDuties r c) :=
  .ifDue (allLead_append.mpr ⟨.each fun b => by simp +contextual, by simp +contextual⟩)

@[simp] theorem allLead_coreDuties {c : Nat} : AllLead (coreDuties s c) := by
  have hpairs : AllLead (each 3 fun p => ifDue ((vget (s.coreOf c).slots Slot.blank (2 * p)).pair == .leading)
      [execStoreCompare c p]) := .each fun p => .ifDue (by simp +contextual)
  simp +contextual [coreDuties, AllLead.flatMap, hpairs]

@[simp] theorem allLead_combineDuties {cl : Nat} {e : CombineEntry} : AllLead (combineDuties s cl e) := by
  simp +contextual [combineDuties]

@[simp] theorem allLead_clusterDuties {cl : Nat} : AllLead (clusterDuties s cl) := by
  simp +contextual [clusterDuties, AllLead.flatMap]

@[simp] theorem allLead_unitDuty {q : UnitReq} : AllLead (unitDuty q) := by
  unfold unitDuty
  split <;> simp +contextual

@[simp] theorem allLead_requestDuties : AllLead (requestDuties s) := by simp +contextual [requestDuties, AllLead.flatMap]

@[simp] theorem allLead_moduleDuties : AllLead (moduleDuties s) := by simp +contextual [moduleDuties, Leads.hostSubmit]

theorem allLead_duties : AllLead (duties s) := by simp +contextual [duties, AllLead.flatMap, Leads.forgetTables]

theorem State.Canonical.tryDuty {d : Duty} {r : State} (h : s.Canonical) (hd : ∀ (t : State), t.Canonical → Leads (d t))
    (e : tryDuty s d = some r) : r.Canonical := by
  unfold Machine.tryDuty at e
  dsimp only at e
  split at e <;> cases e
  exact .resultState (hd s h) h

theorem State.Canonical.cycleTurn (h : s.Canonical) : (cycleTurn s).Canonical := .update (.resultState (.execCoreCycle h) h)

theorem Leads.defaultStep (h : s.Canonical) : Leads (defaultStep s) := by
  refine .ite (.ite (.execReady h) (.ite (.bringUpStep h) (.ite .fault (.execModuleReset h)))) ?_
  split
  · next e =>
    obtain ⟨d, hd, e⟩ := List.exists_of_findSome?_eq_some e
    exact .next (.tryDuty h (allLead_duties d hd) e)
  · exact .next (.cycleTurn h)
end

/-! ### One step -/

section
variable {s : State}

theorem Leads.issueStep (h : s.Canonical) : Leads (issueStep s) := by
  unfold Machine.issueStep
  split
  · next e => exact .exec (.of_run e (.takeTurn h))
  · next e => exact .next (.of_ended e (.takeTurn h))

theorem State.Canonical.dropLine {line : Nat} (h : s.Canonical) : (dropLine line s).Canonical := .ite h (.evictLine h)

theorem Leads.inputStep {i : Input} (h : s.Canonical) : Leads (inputStep i s) := by
  unfold Machine.inputStep
  split
  · exact .ite (.next h) (.exec h)
  · exact .barRead h
  · exact .barWrite h
  · exact .next (.dropLine h)
  · exact .next (.ferryFails h)
  · exact .next (.askHost h (.upset h))
  · exact .next (.raiseSecurity h)
  · exact .next (.powerDown h)
  · exact .next (.update h)

theorem Leads.goingStep {c k : Nat} (h : s.Canonical) : Leads (goingStep c k s) := by
  refine .ite ?_ (.next h)
  split
  · next e => exact .exec (.of_run e (.runOfWord (.takeUp h)))
  · next e => exact .next (.of_ended e (.runOfWord (.takeUp h)))

theorem Leads.step (h : s.Canonical) : Leads (step s) := by
  refine .ite (.issueStep (.update h)) ?_
  split
  · exact .goingStep (.update h)
  · exact .inputStep (.update h)
  · exact .defaultStep h
end

/-- Settles O59: what a step leads to is canonical where the state before it is. -/
theorem memoryStaysCanonical : Obligations.MemoryStaysCanonical := fun _ _ h e =>
  State.Canonical.of_next e (Leads.step h)

end Sys2Proof.Machine

namespace Sys2Proof.Machine

/-! ## Context registers -/

theorem zeroExt_truncate (v : Word) {w : Nat} : (zeroExt (v.truncate w) : Word) = .ofNat 64 (v.toNat % 2 ^ w) := by
  apply BitVec.eq_of_toNat_eq
  simp [zeroExt]

/-- What a context register reads is what its slot holds; a write is seen in the slot. -/
theorem ctxRead_setMe {s : State} {x : Slot} {f : Slot → Word} {n : Nat} (hs : s.slot < 8)
    (hf : ∀ t : State, ctxRead t s.core s.slot n = f (t.slotOf s.core s.slot)) : ctxRead (s.setMe x) s.core s.slot n = f x := by
  rw [hf, State.setMe, State.slotOf_setSlot_self s s.core s.slot x hs]

theorem or_one_eq (n : Nat) : n ||| 1 = n / 2 * 2 + 1 := by
  have split (m r : Nat) (h : r < 2) : m * 2 + r = m * 2 ||| r := by
    rw [Nat.mul_comm]
    exact Nat.two_pow_add_eq_or_of_lt (i := 1) h m
  have hbit : n % 2 ||| 1 = 1 := by
    obtain h | h := Nat.mod_two_eq_zero_or_one n <;> rw [h] <;> rfl
  calc n ||| 1 = (n / 2 * 2 ||| n % 2) ||| 1 := by rw [← split _ _ (Nat.mod_lt n (by omega)), Nat.div_add_mod' n 2]
    _ = n / 2 * 2 + 1 := by rw [Nat.or_assoc, hbit, ← split _ _ (by omega)]

/-- What pred reads after a write: p0 reads 1. -/
theorem zeroExt_setBits_zero (v : Word) :
    (zeroExt (setBits (setBits (v.truncate 16) 0 0 1) 0 0 1) : Word) = .ofNat 64 (v.toNat % 2 ^ 16 ||| 1) := by
  apply BitVec.eq_of_toNat_eq
  simp [zeroExt, setBits, or_one_eq, Nat.mod_one]
  omega

theorem ctxWrite_readOnly {x : Slot} {m : Nat} {v : Word} (hm : m < 16) (h : isReadOnly (.ofNat 6 (48 + m)) = true) :
    x.ctxWrite m v = x := by
  have : m ≤ 4 ∨ m = 12 ∨ m = 13 ∨ m = 15 := by
    simp [isReadOnly, Nat.mod_eq_of_lt (show 48 + m < 64 by omega)] at h
    omega
  obtain h | rfl | rfl | rfl := this
  · interval_cases m <;> rfl
  all_goals rfl

/-- Settles O1, register by register: each is the field of the slot that the write has set. -/
theorem contextRegisters : Obligations.ContextRegisters := by
  intro s v n w hs hn
  refine ⟨?_, ?_, fun m h hm => ctxWrite_readOnly hm h⟩
  · simp only [List.mem_cons, Prod.mk.injEq, List.not_mem_nil, or_false] at hn
    obtain ⟨rfl, rfl⟩ | ⟨rfl, rfl⟩ | ⟨rfl, rfl⟩ | ⟨rfl, rfl⟩ | ⟨rfl, rfl⟩ | ⟨rfl, rfl⟩ | ⟨rfl, rfl⟩ := hn
    · refine (ctxRead_setMe (f := Slot.hbase) hs fun _ => rfl).trans ?_
      simp [Slot.ctxWrite, Nat.mod_eq_of_lt v.isLt]
    · exact (ctxRead_setMe (f := fun x => zeroExt x.fmt) hs fun _ => rfl).trans (zeroExt_truncate v)
    · exact (ctxRead_setMe (f := fun x => zeroExt x.sca) hs fun _ => rfl).trans (zeroExt_truncate v)
    · exact (ctxRead_setMe (f := fun x => zeroExt x.scb) hs fun _ => rfl).trans (zeroExt_truncate v)
    · exact (ctxRead_setMe (f := fun x => zeroExt x.frm) hs fun _ => rfl).trans (zeroExt_truncate v)
    · exact (ctxRead_setMe (f := fun x => zeroExt x.fflags) hs fun _ => rfl).trans (zeroExt_truncate v)
    · exact (ctxRead_setMe (f := fun x => zeroExt x.srseed) hs fun _ => rfl).trans (zeroExt_truncate v)
  · exact (ctxRead_setMe (f := fun x => zeroExt (setBits x.pred 0 0 1)) hs fun _ => rfl).trans (zeroExt_setBits_zero v)

end Sys2Proof.Machine

namespace Sys2Proof.Machine

/-! ## An instruction that may run, in the state with its word noted -/

section
variable {i : Instr} {s : State}

/-- The state in which the effect of an instruction that may run begins. -/
theorem State.runs_noted (h : s.runs i = true) : s.noted i = s.setMe (s.me.noting i) := by
  obtain ⟨_, _, _, _, _, _, _, _, _, _, _, _, _, _, hr, _⟩ := Slot.steady_fields (State.runs_steady h)
  exact State.noted_eq (State.runs_slot h) hr

/-- What is retired has become the noted slot at the next word. -/
theorem doneNext_noted (h : s.runs i = true) : doneNext (s.noted i) = s.retired i s.me := by
  rw [State.runs_noted h, doneNext_setMe (State.runs_slot h) (by simpa using State.runs_steady h)]
  rfl

theorem gval_noted (h : s.runs i = true) (ra : BitVec 6) : gval (s.noted i) ra = s.me.readG ra.toNat := by
  rw [State.runs_noted h, gval, State.me_setMe _ _ (State.runs_slot h), Slot.readG_noting]

theorem issue_of_runs (h : s.runs i = true) (body : State → State) : issue i s body = body (s.noted i) := by
  rw [issue_runs h, State.runs_noted h]

theorem pollFor_noted (h : s.runs i = true) (status : Status) (p : Poll) :
    pollFor (s.noted i) status p = s.setMe { s.me.noting i with status := status, wait := .poll p, reply := none } := by
  rw [State.runs_noted h]
  exact State.modMe_setMe s _ _ (State.runs_slot h)

theorem read1_general {f : BitVec 6} (hf : f.toNat < 32) (k : Word → State → State) : read1 f s k = k (s.me.readG f.toNat) s := by
  simp only [read1, readFrom_general1 hf]

theorem noted_core (h : s.runs i = true) : (s.noted i).core = s.core := by rw [State.runs_noted h]; rfl
theorem noted_slot (h : s.runs i = true) : (s.noted i).slot = s.slot := by rw [State.runs_noted h]; rfl
theorem noted_mem (h : s.runs i = true) : (s.noted i).mem = s.mem := by rw [State.runs_noted h]; rfl

theorem me_noted (h : s.runs i = true) : (s.noted i).me = s.me.noting i := by
  rw [State.runs_noted h, State.me_setMe _ _ (State.runs_slot h)]

theorem foldReg_noted (h : s.runs i = true) : foldReg (s.noted i) s.core s.slot = foldReg s s.core s.slot := by
  have hme : (s.setMe (s.me.noting i)).slotOf s.core s.slot = s.me.noting i := State.me_setMe _ _ (State.runs_slot h)
  have hfold : ((s.setMe (s.me.noting i)).coreOf s.core).fold = (s.coreOf s.core).fold := State.coreOf_setSlot_fold ..
  rw [State.runs_noted h]
  simp only [foldReg, hme, ownFold, hfold]
  rfl

/-- The checks of an access do not depend on the noted word. -/
theorem slotCheck_noted (h : s.runs i = true) (a : Word) (n : Nat) (r w x : Bool) :
    slotCheck (s.noted i) (s.noted i).core (s.noted i).slot a n r w x = slotCheck s s.core s.slot a n r w x := by
  have hme : (s.noted i).slotOf s.core s.slot = s.me.noting i := noted_core h ▸ noted_slot h ▸ me_noted h
  rw [noted_core h, noted_slot h]
  simp only [slotCheck, slotRebase, foldReg_noted h, capsuleExtent, hme, bufTile, bufN, noted_mem h]
  rfl

end

/-- An access to a local segment that reaches far enough, aligned where its size asks for it. -/
theorem accessCheck_local {sg : Vector Quad 8} {a : Word} {rebase n : Nat} {cap : Option (Nat × Nat)} {r w x : Bool}
    (hvalid : bitAt (vget sg 0 (bitsOf a 63 61)) 127 = true) (hr : r = true → bitAt (vget sg 0 (bitsOf a 63 61)) 124 = true)
    (hw : w = true → bitAt (vget sg 0 (bitsOf a 63 61)) 125 = true) (hx : x = true → bitAt (vget sg 0 (bitsOf a 63 61)) 126 = true)
    (hlen : bitsOf a 60 0 + n - 1 ≤ bitsOf (vget sg 0 (bitsOf a 63 61)) 120 64)
    (halign : n ∈ [1, 2, 4, 8] → (bitsOf (vget sg 0 (bitsOf a 63 61)) 56 0 + bitsOf a 60 0) % n = 0)
    (hspace : bitsOf (vget sg 0 (bitsOf a 63 61)) 123 122 = 1)
    (hend : bitsOf (vget sg 0 (bitsOf a 63 61)) 56 0 + bitsOf a 60 0 + rebase + n ≤ 2 ^ 21) :
    accessCheck sg rebase cap a n r w x =
      .ok .localPad (bitsOf (vget sg 0 (bitsOf a 63 61)) 56 0 + bitsOf a 60 0 + rebase) := by
  unfold accessCheck
  rw [if_neg, if_neg (by omega), if_neg]
  · simp only [segSpace, hspace]
    rw [if_neg (by omega)]
  · simpa [or_assoc] using halign
  · cases r <;> cases w <;> cases x <;> simp_all

theorem me_modCore {s : State} {c : Nat} {f : Core → Core} (hf : ∀ r, (f r).slots = r.slots) : (s.modCore c f).me = s.me := by
  simp only [State.me, State.slotOf, State.modCore_core, State.modCore_slot, State.coreOf_modCore]
  split <;> simp [hf]

/-- An update of a core is its effect on the core as it is. -/
theorem modCore_congr {s : State} {c : Nat} {f g : Core → Core} (h : f (s.coreOf c) = g (s.coreOf c)) :
    s.modCore c f = s.modCore c g := by rw [State.modCore, h, State.modCore]

/-- An update of a core that leaves its slots alone can be made before or after the issuing slot changes. -/
theorem modCore_setMe {s : State} {x : Slot} {f : Core → Core}
    (hf : ∀ r, f { r with slots := vset r.slots s.slot x } = { f r with slots := vset (f r).slots s.slot x }) :
    (s.setMe x).modCore s.core f = (s.modCore s.core f).setMe x := by
  simp only [State.setMe, State.setSlot, State.modCore_core, State.modCore_slot, State.modCore_modCore]
  exact congrArg (s.modCore s.core) (funext hf)

end Sys2Proof.Machine

namespace Sys2Proof.Machine

/-! ## Fetching -/

theorem Memory.readN_add (m : Memory) (a n k : Nat) : m.readN a (n + k) = m.readN a n + 256 ^ n * m.readN (a + n) k := by
  induction n generalizing a with
  | zero => simp [Memory.readN]
  | succ n ih =>
    rw [Nat.add_right_comm, Memory.readN, Memory.readN, ih, Nat.add_right_comm a 1 n, ← Nat.add_assoc a n 1]
    ring

/-- Bytes within a longer read. -/
theorem Memory.readN_slice (m : Memory) {a n j k : Nat} (h : j + k ≤ n) :
    m.readN a n / 256 ^ j % 256 ^ k = m.readN (a + j) k := by
  obtain ⟨r, rfl⟩ := Nat.exists_eq_add_of_le h
  rw [Nat.add_assoc, Memory.readN_add, Memory.readN_add m (a + j), Nat.add_mul_div_left _ _ (Nat.pow_pos (by omega)),
    Nat.div_eq_of_lt (Memory.readN_lt m a j), Nat.zero_add, Nat.add_mul_mod_self_left, Nat.mod_eq_of_lt (Memory.readN_lt m _ k)]

/-- A word of a line. -/
theorem Memory.word_of_line (m : Memory) {pa : Nat} (ha : pa % 4 = 0) :
    BitVec.ofNat 32 (m.readN (pa / 32 * 32) 32 / 2 ^ (32 * (pa % 32 / 4))) = .ofNat 32 (m.readN pa 4) := by
  have hslice := m.readN_slice (a := pa / 32 * 32) (n := 32) (j := 4 * (pa % 32 / 4)) (k := 4) (by omega)
  rw [show pa / 32 * 32 + 4 * (pa % 32 / 4) = pa by omega, pow_mul, show 256 ^ 4 = 2 ^ 32 from rfl, ← pow_mul] at hslice
  exact BitVec.eq_of_toNat_eq (by rw [BitVec.toNat_ofNat, BitVec.toNat_ofNat, ← hslice, Nat.mod_mod])

theorem flushBurst_of_empty {s : State} (h : s.bursts = []) (block : Nat) : flushBurst s block = s := by simp [flushBurst, h]

theorem portRead_of_empty {s : State} (h : s.bursts = []) (pa n : Nat) :
    portRead s pa n = (s.mem.readN pa n, s.poisonHere pa n (poisonedIn s.poison pa n), s) := by
  simp [portRead, flushBurst_of_empty h, State.load]

theorem apertureOf_of_empty {s : State} (h : s.apertures.entries = []) (pa : Nat) : apertureOf s pa = none := by
  unfold apertureOf
  split
  · rw [List.find?_eq_none.2 fun i _ => ?_]; · rfl
    simp [Table.get, h, tableFind, bitAt]
  · rfl

theorem keepLine_of_empty {s : State} (h : s.homes.entries = []) (pa : Nat) (l : HomeLine) :
    keepLine s pa l = { s with homes := s.homes.set (pa / 32) l } := by
  have hfind : s.homes.find? (pa / 32) = none := by simp [Table.find?, h, tableFind]
  have hfull : homeFull s pa = false := by simp [homeFull, homeCapacity, h]
  simp [keepLine, hfind, hasRoom, hfull, makeRoom]

/-- A whole line read where no home holds one: the bytes of the array, and neither memory nor a core changes. -/
theorem homeLoad_of_empty {s : State} (hb : s.bursts = []) (hh : s.homes.entries = []) (pol : Policy) {pa : Nat} (ha : pa % 32 = 0) :
    (homeLoad s pol pa 32).1 = s.mem.readN pa 32 ∧ (homeLoad s pol pa 32).2.2.mem = s.mem ∧
      (homeLoad s pol pa 32).2.2.cores = s.cores := by
  have hfind : s.homes.find? (pa / 32) = none := by simp [Table.find?, hh, tableFind]
  have hlt : s.mem.readN pa 32 < 2 ^ 256 := Memory.readN_lt s.mem pa 32
  have hslice : ∀ d p, lineSlice ⟨.ofNat 256 (s.mem.readN pa 32), d, p, []⟩ pa 32 = s.mem.readN pa 32 := fun _ _ => by
    simpa [lineSlice, ha] using hlt
  have hline : pa / 32 * 32 = pa := by omega
  cases pol <;> simp [homeLoad, homeLine, portRead_of_empty hb, hfind, hline, keepLine_of_empty hh, hslice]

/-- The line of a fetch where nothing is cached or under way. -/
theorem codeLine_of_empty {s : State} {c pa : Nat} (k : Nat) (pol : Policy) (hb : s.bursts = []) (hh : s.homes.entries = [])
    (hap : s.apertures.entries = []) (hc : (s.clusterAt (clusterOf c)).combine = []) (hbank : bankBusy s (pa / 32 * 32) = false) :
    ∃ t, codeLine s c k pol pa = (some (s.mem.readN (pa / 32 * 32) 32), t) ∧ t.mem = s.mem ∧ t.cores = s.cores := by
  have hfull : homeFull s (pa / 32 * 32) = false := by simp [homeFull, homeCapacity, hh]
  have hblocked : arrayBlocked s pol (pa / 32 * 32) = false := by simp [arrayBlocked, hbank, hasRoom, hfull]
  have hentry : combineEntry s (clusterOf c) (pa / 32 * 32) = none := by simp [combineEntry, hc]
  have hload : codeLoad s c pol (pa / 32 * 32) 32 =
      ((homeLoad s (if pol = .combine then .homed else pol) (pa / 32 * 32) 32).1,
        (homeLoad s (if pol = .combine then .homed else pol) (pa / 32 * 32) 32).2.2) := by
    by_cases hp : pol = .combine <;> simp [codeLoad, hp, combineLoad, combineView, hentry]
  obtain ⟨hv, hm, hk⟩ := homeLoad_of_empty hb hh (if pol = .combine then .homed else pol) (pa := pa / 32 * 32) (by omega)
  refine ⟨_, ?_, hm, hk⟩
  simp [codeLine, apertureOf_of_empty hap, hblocked, hload, hv]

/-! ### The lines of the instruction cache -/

/-- Words put one after another into the cache of a core. -/
def putWords (c : Nat) (key : Nat → Nat) (w : Nat → BitVec 32) (l : List Nat) (s : State) : State :=
  l.foldl (fun s i => s.modCore c fun r => { r with icache := r.icache.set (key i) (w i) }) s

theorem putWords_mem {c : Nat} {key : Nat → Nat} {w : Nat → BitVec 32} (l : List Nat) (s : State) :
    (putWords c key w l s).mem = s.mem := by
  induction l generalizing s with
  | nil => rfl
  | cons i l ih => exact ih _

theorem putWords_slotOf {c : Nat} {key : Nat → Nat} {w : Nat → BitVec 32} (l : List Nat) (s : State) (d j : Nat) :
    (putWords c key w l s).slotOf d j = s.slotOf d j := by
  induction l generalizing s with
  | nil => rfl
  | cons i l ih =>
    refine (ih _).trans ?_
    simp only [State.slotOf, State.coreOf_modCore]
    split <;> rfl

/-- Of words under keys of their own, each is found again. -/
theorem putWords_get {c : Nat} {key : Nat → Nat} {w : Nat → BitVec 32} {n i : Nat} (s : State) (hi : i < n)
    (hkey : ∀ j, i < j → j < n → key j ≠ key i) :
    ((putWords c key w (List.range n) s).coreOf c).icache.get 0 (key i) = w i := by
  induction n with
  | zero => omega
  | succ n ih =>
    have hstep : putWords c key w (List.range (n + 1)) s = (putWords c key w (List.range n) s).modCore c fun r =>
        { r with icache := r.icache.set (key n) (w n) } := by
      simp [putWords, List.range_succ]
    rw [hstep, State.coreOf_modCore, if_pos rfl]
    obtain rfl | hn := Nat.lt_succ_iff_lt_or_eq.mp hi |>.symm
    · simp
    · exact (Table.get_set _ _ _ _ _).trans ((if_neg (hkey n hn (by omega))).trans (ih hn fun j h h' => hkey j h (by omega)))

theorem cacheWords_of_empty {c : Nat} {ctag : BitVec 4} {pa v : Nat} {s : State} (h : (s.coreOf c).icache.entries = []) :
    cacheWords c ctag pa v s =
      putWords c (fun i => icacheKey ctag (pa / 32 * 32 + 4 * i)) (fun i => .ofNat 32 (v / 2 ^ (32 * i))) (List.range 8) s := by
  simp [cacheWords, icacheRoom, icacheWords, h, putWords]

theorem fetchReadsMemory : Claims.FetchReadsMemory := by
  intro s c k pa pol ha hb hh hap hcache hc hbank
  obtain ⟨t, hline, hmem, hcores⟩ := codeLine_of_empty k pol hb hh hap hc hbank
  have hcore : t.coreOf c = s.coreOf c := by simp [State.coreOf, hcores]
  have hmiss : ∀ key, (s.coreOf c).icache.find? key = none := by simp [Table.find?, hcache, tableFind]
  have hkey : ∀ j, icacheKey (s.slotOf c k).ctag (pa / 32 * 32 + 4 * j) = (s.slotOf c k).ctag.toNat * 2 ^ 50 + pa / 32 * 8 + j :=
    fun j => by unfold icacheKey; omega
  have hhere : pa / 32 * 32 + 4 * (pa % 32 / 4) = pa := by omega
  have hfetch : fetchWord s c k pol pa =
      (some (.ofNat 32 (s.mem.readN pa 4)), cacheWords c (s.slotOf c k).ctag pa (s.mem.readN (pa / 32 * 32) 32) t) := by
    have hget := putWords_get (c := c) (key := fun i => icacheKey (s.slotOf c k).ctag (pa / 32 * 32 + 4 * i))
      (w := fun i => .ofNat 32 (s.mem.readN (pa / 32 * 32) 32 / 2 ^ (32 * i))) (n := 8) (i := pa % 32 / 4) t (by omega)
      fun j h _ => by simp only [hkey]; omega
    rw [Memory.word_of_line _ ha, hhere] at hget
    rw [fetchWord]
    simp only [hmiss, hline, cacheWords_of_empty (hcore ▸ hcache), hget]
  rw [hfetch, cacheWords_of_empty (hcore ▸ hcache)]
  refine ⟨rfl, (putWords_mem _ t).trans hmem, fun j => (putWords_slotOf _ t c j).trans ?_⟩
  simp [State.slotOf, hcore]

/-- A segment that is not valid permits nothing. -/
theorem accessCheck_invalid {sg : Vector Quad 8} {a : Word} (h : bitAt (vget sg 0 (bitsOf a 63 61)) 127 = false) (rebase : Nat)
    (cap : Option (Nat × Nat)) (n : Nat) (r w x : Bool) : accessCheck sg rebase cap a n r w x = .bad .segment := by
  simp only [accessCheck, h, Bool.not_false, Bool.true_or, if_true]

theorem fetchTraps : Claims.FetchTraps := by
  refine ⟨fun w r s h => by simp [exec, execIllegalInstruction, illegalHere, h], fun s h => ?_⟩
  have hcheck : fetchCheck s s.core s.slot = some .segment := by
    rw [fetchCheck, slotCheck, ← State.me.eq_1, accessCheck_invalid h]
  rw [exec, execFetchFault, hcheck]
  rfl

/-- Settles O43: a line read where nothing is cached holds the word; the traps are the model's `illegalHere` and
`fetchFaultHere`. -/
theorem fetching : Obligations.Fetching := ⟨fetchReadsMemory, fetchTraps⟩

end Sys2Proof.Machine

namespace Sys2Proof.Machine

/-! ## Fences -/

theorem scopeMalformed_iff (w : Word) : scopeMalformed w = true ↔ Claims.Malformed w := by
  have hhigh : bitsOf w 63 24 ≠ 0 ↔ 2 ^ 24 ≤ w.toNat := by
    have := w.isLt
    simp only [bitsOf]
    omega
  unfold scopeMalformed
  simp only [Bool.or_eq_true, Bool.and_eq_true, decide_eq_true_eq, bne_iff_ne, beq_iff_eq, hhigh, or_assoc]
  rfl

section
variable {i : Instr} {s : State} {ra : BitVec 6} {holds : State → Word → Bool} {p : Word → Poll} {f : State → State}

theorem fenceOp_malformed (h : s.runs i = true) (hw : Claims.Malformed (s.me.readG ra.toNat)) :
    fenceOp i ra holds p f s = .next (trapHere (s.noted i) .illegalOperand) := by
  simp only [fenceOp, issue_of_runs h, gval_noted h, (scopeMalformed_iff _).2 hw, if_true]

theorem fenceOp_holds (h : s.runs i = true) (hw : ¬ Claims.Malformed (s.me.readG ra.toNat))
    (hh : holds (s.noted i) (s.me.readG ra.toNat) = true) (hf : f (s.noted i) = s.noted i) :
    fenceOp i ra holds p f s = .next (s.retired i s.me) := by
  simp only [fenceOp, issue_of_runs h, gval_noted h, if_neg (mt (scopeMalformed_iff _).1 hw), hh, if_true, hf, doneNext_noted h]

theorem fenceOp_waits (h : s.runs i = true) (hw : ¬ Claims.Malformed (s.me.readG ra.toNat))
    (hh : holds (s.noted i) (s.me.readG ra.toNat) = false) :
    fenceOp i ra holds p f s =
      .next (s.setMe { s.me.noting i with status := .memoryWait, wait := .poll (p (s.me.readG ra.toNat)), reply := none }) := by
  simp only [fenceOp, issue_of_runs h, gval_noted h, if_neg (mt (scopeMalformed_iff _).1 hw), hh, pollFor_noted h, if_false,
    Bool.false_eq_true]

end

section
variable {i : Instr} {s : State}

theorem combinePending_noted (h : s.runs i = true) :
    combinePending (s.noted i) (s.noted i).core (s.noted i).slot = combinePending s s.core s.slot := by
  rw [State.runs_noted h]; rfl

theorem directPending_noted (h : s.runs i = true) :
    directPending (s.noted i) (s.noted i).core (s.noted i).slot = directPending s s.core s.slot := by
  rw [State.runs_noted h]; rfl

theorem ownedLines_noted (h : s.runs i = true) :
    ownedLines (s.noted i) (s.noted i).core (s.noted i).slot = ownedLines s s.core s.slot := by
  rw [State.runs_noted h]; rfl

theorem bankPending_noted (h : s.runs i = true) (p : Nat → Bool) :
    bankPending (s.noted i) (s.noted i).core (s.noted i).slot p = bankPending s s.core s.slot p := by
  rw [State.runs_noted h]
  simp [bankPending, State.setMe]

theorem scopeCores_noted (h : s.runs i = true) (w : Word) :
    scopeCores (s.noted i) (s.noted i).core (s.noted i).slot w = scopeCores (s.noted i) s.core s.slot w := by
  rw [State.runs_noted h]; rfl

/-- A scope that is no core and no rectangle names every core. -/
theorem scopeCores_module (s : State) {w : Word} (h : bitsOf w 23 22 = 0 ∨ bitsOf w 23 22 = 2) (c k : Nat) :
    scopeCores s c k w = none := by
  have hlevel : scopeLevel w ≠ 3 ∧ scopeLevel w ≠ 1 := by unfold scopeLevel; omega
  simp [scopeCores, scopeNames, hlevel]

end

/-- Each fence holds or waits in the state with its word noted, whose buffers, queues and homes are those before it. -/
theorem fences : Claims.Fences := by
  intro ra s
  dsimp only
  refine ⟨fun h => ⟨fun hw => fenceOp_malformed h hw, fun hw hc => fenceOp_holds h hw ?_ rfl, fun hw hc hl => fenceOp_waits h hw ?_⟩,
    fun h => ⟨fun hw => fenceOp_malformed h hw, fun hw hb => fenceOp_holds h hw ?_ rfl⟩, fun h => ?_⟩
  · simp [fenceHolds, combinePending_noted h, show combinePending s s.core s.slot = false from hc]
  · simp [fenceHolds, combinePending_noted h, show combinePending s s.core s.slot = true from hc, scopeCores_module _ hl]
  · have hnone : bankPending s s.core s.slot (inScope (scopeCores (s.noted (.fenceB ra)) s.core s.slot (s.me.readG ra.toNat))) = false := by
      simpa [bankPending] using hb
    simp [fenceBankHolds, scopeCores_noted h, bankPending_noted h, hnone]
  · rw [show exec (.fenceA ra) s = fenceOp (.fenceA ra) ra (fun s _ => fenceAliasHolds s s.core s.slot) .fenceAlias
      (fun s => settleOwned s s.core s.slot) s from rfl]
    refine ⟨fenceOp_malformed h, fun hw hc hb hh => ?_⟩
    have hlines : ownedLines (s.noted (.fenceA ra)) (s.noted (.fenceA ra)).core (s.noted (.fenceA ra)).slot = [] := by
      rw [ownedLines_noted h]
      simpa [ownedLines] using hh
    refine fenceOp_holds h hw ?_ (by simp [settleOwned, hlines])
    have hdirect : directPending s s.core s.slot = false := by simpa [directPending] using hb
    simp [fenceAliasHolds, combinePending_noted h, directPending_noted h, hlines, hdirect,
      show combinePending s s.core s.slot = false from hc]

end Sys2Proof.Machine

namespace Sys2Proof.Machine

/-! ## Watches and the instruction caches -/

theorem endReservation_free {s : State} {c k : Nat} (h : (s.slotOf c k).reservation = .free) : endReservation s c k = s := by
  simp [endReservation, h]

/-- The route of an access to the thread's own scratchpad. -/
theorem route_local {i : Instr} {s : State} (h : s.runs i = true) {kind : AccessKind} {a : Word} {n off : Nat}
    (hl : Claims.LocalAt s a n off kind.reads kind.writes) :
    route (s.noted i) (s.noted i).core (s.noted i).slot a n kind = .pad off := by
  obtain ⟨hvalid, hr, hw, hlen, halign, hspace, hoff, hend, hhome⟩ := hl
  have hpad : padHome (s.noted i).core ((s.noted i).slotOf (s.noted i).core (s.noted i).slot) = (s.noted i).core := by
    have hme := me_noted h
    rw [State.me] at hme
    rw [hme, noted_core h]
    exact hhome
  have hcheck : slotCheck s s.core s.slot a n kind.reads kind.writes false = .ok .localPad off := by
    rw [hoff]
    exact accessCheck_local hvalid hr hw nofun hlen (fun _ => halign) hspace (by rw [hoff] at hend; exact hend)
  rw [route, slotCheck_noted h, hcheck]
  simp only [hpad, if_true]

/-- A bank turn is a matter of the core alone. -/
theorem bankTurnAt_noted {i : Instr} {s : State} (h : s.runs i = true) (off n : Nat) :
    bankTurnAt (s.noted i) (s.noted i).core off n = (bankTurnAt s s.core off n).setMe (s.me.noting i) := by
  rw [State.runs_noted h]
  exact modCore_setMe fun _ => rfl

@[simp] theorem bankTurnAt_me (s : State) (c off n : Nat) : (bankTurnAt s c off n).me = s.me := me_modCore fun _ => rfl
@[simp] theorem invalidateCode_me (s : State) (c : Nat) (ctag : BitVec 4) : (invalidateCode s c ctag).me = s.me :=
  me_modCore fun _ => rfl

/-- wrs on a granule of a scratchpad that holds another value: the value is there at once. -/
theorem padAccess_wrs_other {s : State} {c k p off : Nat} {data expected : Word} {guard : Nat}
    (hfree : (s.slotOf c k).reservation = .free) (hv : BitVec.ofNat 64 (s.mem.readN (padAddr p off) 8) ≠ expected) :
    padAccess s c k p off 8 .wrs data expected guard =
      (some (.ofNat 64 (s.mem.readN (padAddr p off) 8), poisonedIn s.poison (padAddr p off) 8), s) := by
  simp [padAccess, State.load, endReservation_free hfree, hv]

theorem writeBoundary_general {rd : BitVec 6} (hrd : rd.toNat < 32) {s : State} {x : Slot} (hs : s.slot < 8) (hx : x.steady = true)
    (v : Word) (before : State) :
    writeBoundary rd v false before (s.setMe x) = s.setMe ((x.writeG rd.toNat v).movedTo (x.pc + 4)) := by
  obtain ⟨_, _, _, _, _, _, hpair, _⟩ := Slot.steady_fields hx
  have halone : (s.setMe x).me.pair = .alone := by rw [State.me_setMe _ _ hs, hpair]
  simp only [writeBoundary, consumeIf, Bool.false_eq_true, if_false, handOn_alone halone, writeNext_general hrd hs hx]

/-- A value that a steady slot takes into a general register at once. -/
theorem settleAcq_general {rd : BitVec 6} (hrd : rd.toNat < 32) {s : State} {x : Slot} (hs : s.slot < 8) (hx : x.steady = true)
    (v : Word) (before : State) :
    settleAcq (some rd) false v false before (s.setMe x) = s.setMe ((x.writeG rd.toNat v).movedTo (x.pc + 4)) := by
  simp only [settleAcq, Bool.false_and, if_false, Bool.false_eq_true, settle, writeBoundary_general hrd hs hx]

theorem wrs_other {rd ra rb : BitVec 6} {off : Nat} {s : State} (h : s.runs (.wrs rd ra rb) = true) (hrd : rd.toNat < 32)
    (hrb : rb.toNat < 32) (hfree : s.me.reservation = .free) (hl : Claims.LocalAt s (s.me.readG ra.toNat) 8 off true false)
    (halign : (s.me.readG ra.toNat).toNat % 8 = 0) (hp : poisonedIn s.poison (padAddr s.core off) 8 = false)
    (hv : BitVec.ofNat 64 (s.mem.readN (padAddr s.core off) 8) ≠ s.me.readG rb.toNat) :
    exec (.wrs rd ra rb) s = .next ((bankTurnAt s s.core off 8).retired (.wrs rd ra rb)
      (s.me.writeG rd.toNat (.ofNat 64 (s.mem.readN (padAddr s.core off) 8)))) := by
  have hs := State.runs_slot h
  have hsteady := State.runs_steady h
  obtain ⟨_, _, _, _, _, _, hpair, _⟩ := Slot.steady_fields hsteady
  have hlow : bitsOf (s.me.readG ra.toNat) 2 0 = 0 := by simp only [bitsOf]; omega
  have hroute := route_local h (kind := .wrs) hl
  have halone : (s.noted (.wrs rd ra rb)).me.pair = .alone := by rw [me_noted h]; exact hpair
  have hpad : ∀ guard, padAccess (bankTurnAt (s.noted (.wrs rd ra rb)) (s.noted (.wrs rd ra rb)).core off 8)
      (s.noted (.wrs rd ra rb)).core (s.noted (.wrs rd ra rb)).slot (s.noted (.wrs rd ra rb)).core off 8 .wrs 0 (s.me.readG rb.toNat) guard =
        (some (.ofNat 64 (s.mem.readN (padAddr s.core off) 8), false), (bankTurnAt s s.core off 8).setMe (s.me.noting (.wrs rd ra rb))) := by
    intro guard
    have hslot : ((bankTurnAt s s.core off 8).setMe (s.me.noting (.wrs rd ra rb))).slotOf s.core s.slot = s.me.noting (.wrs rd ra rb) :=
      State.slotOf_setSlot_self _ _ _ _ hs
    rw [bankTurnAt_noted h, noted_core h, noted_slot h, ← hp]
    exact padAccess_wrs_other ((congrArg Slot.reservation hslot).trans hfree) hv
  simp only [exec, execWrs, issue_of_runs h, read1_general hrb, gval_noted h, hlow, me_noted h, access, hroute, AccessKind.writes,
    boundaryRead_alone halone, performRoute, Slot.readG_noting, hpad]
  simp [settleAcq_general hrd (s := bankTurnAt s s.core off 8) hs, hsteady, Slot.writeG_noting, State.retired, State.retiredTo]

theorem tableFind_filter {α : Type} (q : Nat → Bool) (j : Nat) (l : List (Nat × α)) :
    tableFind j (l.filter fun e => q e.1) = if q j then tableFind j l else none := by
  induction l with
  | nil => simp [tableFind]
  | cons e l ih =>
    rw [List.filter_cons]
    by_cases he : e.1 = j
    · subst he
      cases hq : q e.1 <;> simp [hq, ih, tableFind_cons]
    · cases hq : q e.1 <;> simp [ih, tableFind_cons, he]

/-- What an instruction cache holds of a context after the lines of one have left it. -/
theorem invalidateCode_find {s : State} {c : Nat} {ctag tag : BitVec 4} {pa : Nat} (h : pa < 2 ^ 52) :
    ((invalidateCode s c ctag).coreOf c).icache.find? (icacheKey tag pa) =
      if tag = ctag then none else (s.coreOf c).icache.find? (icacheKey tag pa) := by
  have hkey : icacheKey tag pa / 2 ^ 50 = tag.toNat := by unfold icacheKey; omega
  rw [invalidateCode, State.coreOf_modCore, if_pos rfl]
  refine (tableFind_filter (fun k => k / 2 ^ 50 != ctag.toNat) _ _).trans ?_
  rw [hkey]
  by_cases ht : tag = ctag
  · simp [ht]
  · simp [ht, BitVec.toNat_inj]
    rfl

/-- The issuing slot, which holds no reservation, has gone out of rotation and its reply has come. -/
theorem answerNone_free {s : State} (hs : s.slot < 8) (hfree : s.me.reservation = .free) :
    answerNone false s = Claims.answered s none 0 := by
  have hwait : awaitReply s none false = s.setMe { s.me with status := .memoryWait, wait := .reply none false, reply := none } := rfl
  have hslot (x : Slot) : (s.setMe x).slotOf s.core s.slot = x := State.me_setMe _ _ hs
  rw [answerNone, endReservation_free hfree, hwait, postReply, hslot]
  exact State.modMe_setMe s _ _ hs

theorem ifence {s : State} (h : s.runs .ifence = true) (hfree : s.me.reservation = .free) :
    ∃ t, exec .ifence s = .next t ∧ t = Claims.answered ((s.setMe (s.me.noting .ifence)).modCore s.core fun r =>
        { r with icache := (t.coreOf s.core).icache }) none 0 ∧
      (∀ pa, pa < 2 ^ 52 → (t.coreOf s.core).icache.find? (icacheKey s.me.ctag pa) = none) ∧
      ∀ tag pa, pa < 2 ^ 52 → tag ≠ s.me.ctag →
        (t.coreOf s.core).icache.find? (icacheKey tag pa) = (s.coreOf s.core).icache.find? (icacheKey tag pa) := by
  have hs := State.runs_slot h
  let u := invalidateCode (s.noted .ifence) s.core s.me.ctag
  have hcache : ((Claims.answered u none 0).coreOf s.core).icache = (u.coreOf s.core).icache := by
    simp [Claims.answered, State.setMe]
  have hold : ((s.noted .ifence).coreOf s.core).icache = (s.coreOf s.core).icache := by
    rw [State.runs_noted h]
    simp [State.setMe]
  have hexec : exec .ifence s = .next (Claims.answered u none 0) := by
    rw [exec, execIfence, issue_of_runs h, noted_core h, me_noted h]
    refine congrArg _ (answerNone_free ?_ ?_)
    · exact noted_slot h ▸ hs
    · rw [invalidateCode_me, me_noted h]; exact hfree
  refine ⟨_, hexec, ?_, fun pa hpa => ?_, fun tag pa hpa ht => ?_⟩
  · rw [hcache, ← State.runs_noted h]
    refine congrArg (Claims.answered · none 0) (modCore_congr ?_)
    simp only [u, invalidateCode, State.coreOf_modCore, if_true]
  · rw [hcache, invalidateCode_find hpa, if_pos rfl]
  · rw [hcache, invalidateCode_find hpa, if_neg ht, hold]

theorem errWords_noted {i : Instr} {s : State} (h : s.runs i = true) : (s.noted i).errWords = s.errWords := by
  rw [State.runs_noted h]; rfl

theorem ctxRead_cir_noted {i : Instr} {s : State} (h : s.runs i = true) :
    ctxRead (s.noted i) (s.noted i).core (s.noted i).slot 12 =
      .ofNat 64 ((if s.me.pois then 1 else 0) + 2 * (s.errWords.get 0 s.me.lid.toNat).toNat) := by
  have hme := me_noted h
  rw [State.me] at hme
  simp only [ctxRead, hme, errWords_noted h, Nat.mul_comm 2]
  rfl

/-- What cir reads, as the word of its two parts. -/
theorem cir_parts (pois : Bool) (e : BitVec 4) :
    bitAt (BitVec.ofNat 64 ((if pois then 1 else 0) + 2 * e.toNat)) 0 = pois ∧
      bitsOf (BitVec.ofNat 64 ((if pois then 1 else 0) + 2 * e.toNat)) 4 1 = e.toNat := by
  have he := e.isLt
  constructor
  · cases pois <;> simp only [bitAt, BitVec.getLsbD_ofNat, Nat.testBit_zero] <;> simp
  · cases pois <;> simp [bitsOf] <;> omega

theorem chkerr {rd : BitVec 6} {s : State} (hrd : rd.toNat < 32) {v : Word}
    (hv : v = .ofNat 64 ((if s.me.pois then 1 else 0) + 2 * (s.errWords.get 0 s.me.lid.toNat).toNat)) :
    (s.runs (.chkerr rd 0) = true → exec (.chkerr rd 0) s = .next (s.retired (.chkerr rd 0) (s.me.writeG rd.toNat v))) ∧
    (s.runs (.chkerr rd 1) = true → exec (.chkerr rd 1) s =
      .next ({ s with errWords := s.errWords.set s.me.lid.toNat 0 }.retired (.chkerr rd 1)
        ({ s.me with pois := false }.writeG rd.toNat v))) := by
  have hexec {c : BitVec 1} (h : s.runs (.chkerr rd c) = true) : exec (.chkerr rd c) s =
      .next (writeBoundary rd v false (s.noted (.chkerr rd c)) (if c = 1 then clearCir v (s.noted (.chkerr rd c)) else s.noted (.chkerr rd c))) := by
    obtain ⟨_, _, _, _, _, _, hpair, _⟩ := Slot.steady_fields (State.runs_steady h)
    rw [exec, execChkerr, issue_of_runs h, boundaryRead_alone (by rw [me_noted h]; exact hpair), ctxRead_cir_noted h, hv]
  refine ⟨fun h => ?_, fun h => ?_⟩
  · rw [hexec h, if_neg (by decide), State.runs_noted h]
    rw [writeBoundary_general hrd (State.runs_slot h) (by simpa using State.runs_steady h), Slot.writeG_noting]
    rfl
  · obtain ⟨hbit, hbits⟩ := cir_parts s.me.pois (s.errWords.get 0 s.me.lid.toNat)
    have hclear : clearCir v (s.noted (.chkerr rd 1)) = { s with errWords := s.errWords.set s.me.lid.toNat 0 }.setMe
        (({ s.me with pois := false } : Slot).noting (.chkerr rd 1)) := by
      rw [clearCir, me_noted h, State.runs_noted h, State.modMe_setMe _ _ _ (State.runs_slot h), hv, hbit, hbits]
      have hgone (e : BitVec 4) : e &&& ~~~BitVec.ofNat 4 e.toNat = 0 := by simp
      simp only [Slot.noting, State.setMe_errWords, hgone, Bool.and_not_self]
      rfl
    rw [hexec h, if_pos rfl, hclear, writeBoundary_general hrd (by exact State.runs_slot h) (by exact State.runs_steady h),
      Slot.writeG_noting]
    rfl

theorem watchAndCaches : Claims.WatchAndCaches :=
  ⟨fun _ _ _ _ _ h hrd hrb hfree hl halign hp hv => wrs_other h hrd hrb hfree hl halign hp hv, fun _ => ifence,
    fun _ _ hrd => chkerr hrd rfl⟩

/-- Settles O42: the fences by what each waits for; wrs, ifence and chkerr complete in the state with their word noted. -/
theorem fencesAndWatches : Obligations.FencesAndWatches := ⟨fences, watchAndCaches⟩

end Sys2Proof.Machine

namespace Sys2Proof.Machine

/-! ## System registers that a read leaves as they are -/

theorem foldl_range_eq_sum (f : Nat → Nat) (n : Nat) :
    (List.range n).foldl (fun acc k => acc + f k) 0 = ∑ k ∈ Finset.range n, f k := by
  induction n with
  | zero => rfl
  | succ n ih => rw [List.range_succ, List.foldl_append, ih, Finset.sum_range_succ, List.foldl_cons, List.foldl_nil]

theorem slotstate_eq_sum (s : State) (c : Nat) :
    slotstate s c = .ofNat 64 (∑ k ∈ Finset.range 8, (s.slotOf c k).status.code * 2 ^ (4 * k)) := by
  rw [slotstate, foldl_range_eq_sum]

theorem sysRead_of_readings {s : State} {n : Nat} {x : Word} (h : (n, x) ∈ Claims.readings s) :
    sysRead s s.core n = some (x, s) := by
  simp only [Claims.readings, List.mem_cons, Prod.mk.injEq, List.not_mem_nil, or_false, Nat.mul_comm (2 ^ 16)] at h
  have plain {v w : Word} (h : v = w) : some (v, s) = some (w, s) := h ▸ rfl
  casesm* _ ∨ _ <;> obtain ⟨rfl, rfl⟩ := ‹_ ∧ _›
  case inl => exact plain (slotstate_eq_sum s s.core)
  case inr.inl =>
    refine plain (congrArg _ (congrArg _ ?_))
    cases (s.coreOf s.core).bhalt <;> rfl
  all_goals rfl

theorem coreOf_noted {i : Instr} {s : State} (h : s.runs i = true) :
    (s.noted i).coreOf s.core = { s.coreOf s.core with slots := vset (s.coreOf s.core).slots s.slot (s.me.noting i) } := by
  rw [State.runs_noted h, State.setMe, State.setSlot, State.coreOf_modCore, if_pos rfl]

theorem slotOf_noted_status {i : Instr} {s : State} (h : s.runs i = true) (k : Nat) :
    ((s.noted i).slotOf s.core k).status = (s.slotOf s.core k).status := by
  rw [State.runs_noted h, State.setMe, State.slotOf_setSlot]
  split
  next hk => exact hk.2.1 ▸ rfl
  next => rfl

theorem readings_noted {i : Instr} {s : State} (h : s.runs i = true) : Claims.readings (s.noted i) = Claims.readings s := by
  simp only [Claims.readings, noted_core h, coreOf_noted h, slotOf_noted_status h]
  rw [State.runs_noted h]
  rfl

/-! ## sysrd -/

theorem sysrd_read {rd : BitVec 6} {n : BitVec 12} {s t : State} {v : Word} (h : s.runs (.sysrd rd n) = true)
    (hread : sysRead (s.noted (.sysrd rd n)) s.core n.toNat = some (v, t)) :
    exec (.sysrd rd n) s = .next (writeNext rd v (s.noted (.sysrd rd n)) t) := by
  show execSysrd rd n s = _
  rw [execSysrd, issue_of_runs h]
  simp only [noted_core h, hread]

theorem sysrd_refused {rd : BitVec 6} {n : BitVec 12} {s : State} (h : s.runs (.sysrd rd n) = true)
    (hread : sysRead (s.noted (.sysrd rd n)) s.core n.toNat = none) :
    exec (.sysrd rd n) s = .next (trapHere (s.noted (.sysrd rd n)) .illegalOperand) := by
  show execSysrd rd n s = _
  rw [execSysrd, issue_of_runs h]
  simp only [noted_core h, hread]

theorem popTrap_noted {i : Instr} {s : State} (h : s.runs i = true) :
    ((s.coreOf s.core).traps = [] → popTrap (s.noted i) s.core = (0, s.noted i)) ∧
    ∀ r rest, (s.coreOf s.core).traps = r :: rest →
      popTrap (s.noted i) s.core = (r.d0, (s.noted i).modCore s.core fun x => { x with traps := rest, trapLatch := r }) := by
  have htraps : ((s.noted i).coreOf s.core).traps = (s.coreOf s.core).traps := by rw [coreOf_noted h]
  constructor
  · intro he
    simp only [popTrap, htraps, he]
  · intro r rest he
    simp only [popTrap, htraps, he]

theorem noted_events {i : Instr} {s : State} (h : s.runs i = true) : (s.noted i).events = s.events := by
  rw [State.runs_noted h]; rfl

theorem popEvent_noted {i : Instr} {s : State} (h : s.runs i = true) :
    (s.events = [] → popEvent (s.noted i) s.core = (0, s.noted i)) ∧
    ∀ r rest, s.events = r :: rest → popEvent (s.noted i) s.core =
      (r.d0, { s.noted i with events := rest }.modCore s.core fun x => { x with eventLatch := r }) := by
  constructor
  · intro he
    simp only [popEvent, noted_events h, he]
  · intro r rest he
    simp only [popEvent, noted_events h, he]

/-- The numbers of the statement that are assigned to no register that a read reaches. -/
theorem sysRead_unassigned {s : State} {c n : Nat}
    (hn : n ∈ [0x006, 0x0FF, 0x103, 0x126, 0x157, 0x17A, 0x189, 0x196, 0x1A3, 0xFFF]) : sysRead s c n = none := by
  simp only [List.mem_cons, List.not_mem_nil, or_false] at hn
  casesm* _ ∨ _ <;> (subst n; rfl)

/-! ## syswr -/

section
variable {ra : BitVec 6} {n : BitVec 12} {s : State}

theorem syswr_refused (h : s.runs (.syswr ra n) = true)
    (hw : sysWrite (s.noted (.syswr ra n)) s.core n.toNat (s.me.readG ra.toNat) = .illegal) :
    exec (.syswr ra n) s = .next (trapHere (s.noted (.syswr ra n)) .illegalOperand) := by
  show execSyswr ra n s = _
  rw [execSyswr, issue_of_runs h]
  simp only [noted_core h, gval_noted h, hw]

theorem syswr_unit (h : s.runs (.syswr ra n) = true)
    (hw : sysWrite (s.noted (.syswr ra n)) s.core n.toNat (s.me.readG ra.toNat) = .unit) :
    exec (.syswr ra n) s = .next (postUnit (s.noted (.syswr ra n)) n.toNat (s.me.readG ra.toNat)) := by
  show execSyswr ra n s = _
  rw [execSyswr, issue_of_runs h]
  simp only [noted_core h, gval_noted h, hw]

theorem syswr_now {t : State} (h : s.runs (.syswr ra n) = true)
    (hw : sysWrite (s.noted (.syswr ra n)) s.core n.toNat (s.me.readG ra.toNat) = .now t) (ht : t.me.waiting = false) :
    exec (.syswr ra n) s = .next (doneNext t) := by
  show execSyswr ra n s = _
  rw [execSyswr, issue_of_runs h]
  simp only [noted_core h, gval_noted h, hw, ht, Bool.false_eq_true, if_false]

theorem Slot.waiting_of_steady {x : Slot} (h : x.steady = true) : x.waiting = false := by
  obtain ⟨hstatus, _⟩ := Slot.steady_fields h
  rw [Slot.waiting, hstatus]
  split <;> rfl

theorem sysWrite_of_coreWrites {c n : Nat} {v : Word} {f : Core → Core} (hf : (n, f) ∈ Claims.coreWrites v) :
    sysWrite s c n v = .now (s.modCore c f) := by
  simp only [Claims.coreWrites, List.mem_cons, Prod.mk.injEq, List.not_mem_nil, or_false] at hf
  casesm* _ ∨ _ <;> (obtain ⟨rfl, rfl⟩ := ‹_ ∧ _›; rfl)

/-- A register of a core is no part of its slots. -/
theorem coreWrites_slots {n : Nat} {v : Word} {f : Core → Core} (hf : (n, f) ∈ Claims.coreWrites v) (r : Core)
    (slots : Vector Slot 8) : f { r with slots := slots } = { f r with slots := slots } ∧ (f r).slots = r.slots := by
  simp only [Claims.coreWrites, List.mem_cons, Prod.mk.injEq, List.not_mem_nil, or_false] at hf
  casesm* _ ∨ _ <;> (obtain ⟨rfl, rfl⟩ := ‹_ ∧ _›; exact ⟨rfl, rfl⟩)

theorem syswr_coreWrites {f : Core → Core} (h : s.runs (.syswr ra n) = true)
    (hf : (n.toNat, f) ∈ Claims.coreWrites (s.me.readG ra.toNat)) :
    exec (.syswr ra n) s = .next ((s.modCore s.core f).retired (.syswr ra n) s.me) := by
  have hsteady : (s.me.noting (.syswr ra n)).steady = true := by simpa using State.runs_steady h
  have hme : (s.modCore s.core f).me = s.me := me_modCore fun r => (coreWrites_slots hf r r.slots).2
  have hmod : (s.noted (.syswr ra n)).modCore s.core f = (s.modCore s.core f).setMe (s.me.noting (.syswr ra n)) := by
    rw [State.runs_noted h]
    exact modCore_setMe fun r => by
      rw [(coreWrites_slots hf r _).1, (coreWrites_slots hf r r.slots).2]
  have hs : s.slot < 8 := State.runs_slot h
  rw [syswr_now h (sysWrite_of_coreWrites hf), hmod, doneNext_setMe (s := s.modCore s.core f) hs hsteady, State.retired, hme]
  · rfl
  · rw [hmod, State.me_setMe (s.modCore s.core f) _ hs]
    exact Slot.waiting_of_steady hsteady

theorem postUnit_noted {i : Instr} (h : s.runs i = true) (hfree : s.me.reservation = .free) (m : Nat) (v : Word) :
    postUnit (s.noted i) m v =
      { s.setMe { s.me.noting i with status := .memoryWait, wait := .reply none false } with
        unitReqs := s.unitReqs ++ [⟨s.core, m, v⟩] } := by
  obtain ⟨_, _, hreply, _⟩ := Slot.steady_fields (State.runs_steady h)
  have hme := me_noted h
  have hwait : awaitReply (s.noted i) none false =
      s.setMe { s.me.noting i with status := .memoryWait, wait := .reply none false } := by
    rw [State.runs_noted h]
    refine (State.modMe_setMe s _ _ (State.runs_slot h)).trans (congrArg s.setMe ?_)
    simp only [Slot.noting, hreply]
  rw [postUnit, endReservation_free (by rw [← State.me, hme]; exact hfree), hwait, noted_core h, State.runs_noted h]
  rfl

end

theorem systemRegisters : Claims.SystemRegisters := by
  intro rd ra n s
  dsimp only
  refine ⟨fun h => ⟨fun x hx => ?_, ?_, ?_, fun hn => sysrd_refused h (sysRead_unassigned hn)⟩,
    fun h => ⟨fun f hf => syswr_coreWrites h hf, ?_, ?_⟩⟩
  · have hread := sysRead_of_readings (s := s.noted (.sysrd rd n)) (n := n.toNat) (x := x) (by rw [readings_noted h]; exact hx)
    rw [noted_core h] at hread
    exact sysrd_read h hread
  · rintro rfl
    exact ⟨fun he => sysrd_read h (congrArg some ((popTrap_noted h).1 he)),
      fun r rest he => sysrd_read h (congrArg some ((popTrap_noted h).2 r rest he))⟩
  · rintro rfl
    exact ⟨fun he => sysrd_read h (congrArg some ((popEvent_noted h).1 he)),
      fun r rest he => sysrd_read h (congrArg some ((popEvent_noted h).2 r rest he))⟩
  · rintro rfl hlegal hfree
    refine (syswr_unit h ?_).trans (congrArg _ (postUnit_noted h hfree _ _))
    exact if_neg (by simpa using hlegal)
  · intro hn
    refine syswr_refused h ?_
    simp only [List.mem_cons, List.not_mem_nil, or_false] at hn
    casesm* _ ∨ _ <;> (rw [‹n.toNat = _›]; rfl)

end Sys2Proof.Machine

namespace Sys2Proof.Machine

/-! ## A trap asks for no line of a table -/

theorem foldl_wants {α : Type} {f : State → α → State} (hf : ∀ s a, (f s a).wants = s.wants) (l : List α) (s : State) :
    (l.foldl f s).wants = s.wants := by
  induction l generalizing s with
  | nil => rfl
  | cons a l ih => rw [List.foldl_cons, ih, hf]

@[simp] theorem unparkOne_wants (s : State) (c k : Nat) : (unparkOne s c k).wants = s.wants := by
  unfold unparkOne
  split <;> rfl

@[simp] theorem unpark_wants (s : State) (c k : Nat) : (unpark s c k).wants = s.wants :=
  foldl_wants (fun t j => by split <;> simp) _ s

@[simp] theorem trapEnqueue_wants (s : State) (c : Nat) (r : TrapRec) : (trapEnqueue s c r).wants = s.wants := by
  unfold trapEnqueue
  dsimp only
  split
  · exact unpark_wants ..
  · rfl

@[simp] theorem reportTrap_wants (s : State) (c k : Nat) (cause : Cause) (r : TrapRec) :
    (reportTrap s c k cause r).wants = s.wants := by
  unfold reportTrap
  split
  · rfl
  · exact trapEnqueue_wants ..

@[simp] theorem mgmtEnqueue_wants (s : State) (r : TrapRec) : (mgmtEnqueue s r).wants = s.wants := by
  unfold mgmtEnqueue
  split <;> rfl

theorem stopTrapped_wants {s : State} {c k : Nat} (hfree : (s.slotOf c k).reservation = .free) :
    (stopTrapped s c k).wants = s.wants := by
  rw [stopTrapped, endReservation_free hfree]
  rfl

theorem trapHere_wants {s : State} (hfree : s.me.reservation = .free) (hpair : s.me.pair = .alone) (cause : Cause) :
    (trapHere s cause).wants = s.wants := by
  have halone : (s.slotOf s.core s.slot).pair = .alone := hpair
  rw [trapHere, takeTrap]
  simp only [halone, beq_self_eq_true, if_true]
  split
  · rw [mgmtEnqueue_wants, stopTrapped_wants hfree]
  · rw [reportTrap_wants, stopTrapped_wants hfree]

/-! ## The image of a segment register -/

theorem loadSegment_bad {n : BitVec 3} {img : Nat} {poison : Bool} {s : State}
    (h : bitsOf (BitVec.ofNat 128 img : Quad) 63 57 ≠ 0) :
    loadSegment n img poison s = trapHere s .illegalOperand := by
  have hbad : segImageBad (.ofNat 128 img) = true := by simpa [segImageBad] using h
  simp only [loadSegment, hbad, if_true]

/-- A whole image goes to the register, and the reply is there at once. -/
theorem loadSegment_good {n : BitVec 3} {img : Nat} {s : State} (h : bitsOf (BitVec.ofNat 128 img : Quad) 63 57 = 0)
    (hs : s.slot < 8) (hpair : s.me.pair = .alone) (hfree : s.me.reservation = .free) :
    loadSegment n img false s =
      Claims.answered (s.setMe { s.me with sg := vset s.me.sg n.toNat (setBits (BitVec.ofNat 128 img) 121 121 0) }) none 0 := by
  have hbad : segImageBad (.ofNat 128 img) = false := by simpa [segImageBad] using h
  simp only [loadSegment, hbad, Bool.false_eq_true, if_false, handOn_alone hpair]
  exact answerNone_free hs (by rw [State.me_modMe _ _ hs]; exact hfree)

/-! ## segld.img -/

/-- A block of 16 bytes in the thread's own scratchpad. -/
theorem blockCheck_local {s : State} {c k : Nat} {a : Word} {space : Space} {p : Nat}
    (hvalid : bitAt (vget (s.slotOf c k).sg 0 (bitsOf a 63 61)) 127 = true)
    (hr : bitAt (vget (s.slotOf c k).sg 0 (bitsOf a 63 61)) 124 = true)
    (hlen : bitsOf a 60 0 + 15 ≤ bitsOf (vget (s.slotOf c k).sg 0 (bitsOf a 63 61)) 120 64) (halign : a.toNat % 16 = 0)
    (hcheck : slotCheck s c k a 16 true false false = .ok space p) : blockCheck s c k a 16 16 true false = .ok space p := by
  rw [blockCheck, if_neg, if_neg (by simp [halign]), hcheck]
  simp only [hvalid, hr, Bool.not_true, Bool.and_false, Bool.false_and, Bool.false_or, decide_eq_true_eq]
  omega

theorem readBlock_local {i : Instr} {s : State} (h : s.runs i = true) {a : Word} {off : Nat}
    (hcheck : blockCheck (s.noted i) (s.noted i).core (s.noted i).slot a 16 16 true false = .ok .localPad off)
    (hhome : padHome s.core s.me = s.core) (hpoison : poisonedIn s.poison (padAddr s.core off) 16 = false) :
    readBlock (s.noted i) (s.noted i).core (s.noted i).slot a 16 16 =
      .ok (s.mem.readN (padAddr s.core off) 16) false (bankTurnAt (s.noted i) s.core off 16) := by
  have hme : (s.noted i).slotOf (s.noted i).core (s.noted i).slot = s.me.noting i := me_noted h
  have hpad : padHome (s.noted i).core (s.me.noting i) = (s.noted i).core := by rw [noted_core h]; exact hhome
  have hload : (s.noted i).load (padAddr s.core off) 16 = (s.mem.readN (padAddr s.core off) 16, false) := by
    rw [State.runs_noted h, ← hpoison]
    rfl
  rw [readBlock, hcheck]
  simp only [hme, hpad, if_true]
  simp only [noted_core h, hload]

/-- Once its block is read, segld.img goes on as the bytes it has say. -/
theorem segldImg_read {n : BitVec 3} {ra : BitVec 6} {s t : State} {v : Nat} (h : s.runs (.segldImg n ra) = true)
    (hread : readBlock (s.noted (.segldImg n ra)) (s.noted (.segldImg n ra)).core (s.noted (.segldImg n ra)).slot
      (s.me.readG ra.toNat) 16 16 = .ok v false t) :
    exec (.segldImg n ra) s = .next (loadSegment n v false (dropAnswers t t.core t.slot)) := by
  show execSegldImg n ra s = _
  rw [execSegldImg, issue_of_runs h, gval_noted h, withBlock, hread]

@[simp] theorem bankTurnAt_core (s : State) (c off n : Nat) : (bankTurnAt s c off n).core = s.core := rfl
@[simp] theorem bankTurnAt_slot (s : State) (c off n : Nat) : (bankTurnAt s c off n).slot = s.slot := rfl

theorem segldImg_local {n : BitVec 3} {ra : BitVec 6} {off : Nat} {s : State} (h : s.runs (.segldImg n ra) = true)
    (hl : let a := s.me.readG ra.toNat
      let q := vget s.me.sg 0 (bitsOf a 63 61)
      let p := bitsOf q 56 0 + bitsOf a 60 0
      bitAt q 127 = true ∧ bitAt q 124 = true ∧ bitsOf a 60 0 + 15 ≤ bitsOf q 120 64 ∧ a.toNat % 16 = 0 ∧
        bitsOf q 123 122 = 1 ∧ off = p + slotRebase s s.core s.slot ∧ off + 16 ≤ 2 ^ 21 ∧ padHome s.core s.me = s.core)
    (hpoison : poisonedIn s.poison (padAddr s.core off) 16 = false) :
    exec (.segldImg n ra) s = .next (loadSegment n (s.mem.readN (padAddr s.core off) 16) false
      (dropAnswers (bankTurnAt (s.noted (.segldImg n ra)) s.core off 16) s.core s.slot)) := by
  obtain ⟨hvalid, hr, hlen, halign, hspace, rfl, hend, hhome⟩ := hl
  have hsg : (s.noted (.segldImg n ra)).me.sg = s.me.sg := by rw [me_noted h]; rfl
  rw [State.me] at hsg
  have hlen' : bitsOf (s.me.readG ra.toNat) 60 0 + 16 - 1 ≤
      bitsOf (vget s.me.sg 0 (bitsOf (s.me.readG ra.toNat) 63 61)) 120 64 := by omega
  have hcheck := accessCheck_local (cap := capsuleExtent s s.core s.slot) hvalid (r := true) (fun _ => hr) (w := false) nofun
    (x := false) nofun hlen' (by simp) hspace hend
  have hblock := blockCheck_local (hsg ▸ hvalid) (hsg ▸ hr) (hsg ▸ hlen) halign ((slotCheck_noted h ..).trans hcheck)
  rw [segldImg_read h (readBlock_local h hblock hhome hpoison)]
  simp only [bankTurnAt_core, bankTurnAt_slot, noted_core h, noted_slot h]

/-! ## segld -/

theorem findPlaced_noted {i : Instr} {s : State} (h : s.runs i = true) (lid : BitVec 32) :
    findPlaced (s.noted i) lid = findPlaced s lid := by
  rw [State.runs_noted h]
  rfl

theorem noted_wants {i : Instr} {s : State} (h : s.runs i = true) : (s.noted i).wants = [] := by
  have hwants : s.wants = [] := State.runs_wants h
  rw [State.runs_noted h]
  exact hwants

/-- An instruction that asks for no line of a table has its effect at once. -/
theorem deviceStep_issue {i : Instr} {s t : State} {body : State → State} (h : s.runs i = true) (hbody : body (s.noted i) = t)
    (ht : t.wants = []) : deviceStep (issue i · body) s = .next t := by
  have hissue : issue i s body = t := (issue_of_runs h body).trans hbody
  rw [deviceStep_of_wants (hissue ▸ ht), hissue]

section
variable {n : BitVec 3} {ra : BitVec 6} {s : State} {p : Placed}

/-- The launch of the thread, and so its segment table, is the same once the word is noted. -/
theorem findPlaced_me_noted {i : Instr} (h : s.runs i = true) (hp : findPlaced s s.me.lid = some p) :
    findPlaced (s.noted i) (s.noted i).me.lid = some p := by
  rw [findPlaced_noted h, me_noted h]
  exact hp

theorem segld_refused (h : s.runs (.segld n ra) = true) (hfree : s.me.reservation = .free)
    (hp : findPlaced s s.me.lid = some p) (hi : p.record.segn ≤ (s.me.readG ra.toNat).toNat) :
    exec (.segld n ra) s = .next (trapHere (s.noted (.segld n ra)) .illegalOperand) := by
  obtain ⟨_, _, _, _, _, _, hpair, _⟩ := Slot.steady_fields (State.runs_steady h)
  refine deviceStep_issue h ?_ ?_
  · simp only [findPlaced_me_noted h hp, gval_noted h, hi, decide_true, Bool.true_or, if_true]
  · rw [trapHere_wants, noted_wants h]
    · rw [me_noted h]; exact hfree
    · rw [me_noted h]; exact hpair

theorem segld_read {d : Nat} (h : s.runs (.segld n ra) = true)
    (hfree : s.me.reservation = .free) (hp : findPlaced s s.me.lid = some p)
    (hi : (s.me.readG ra.toNat).toNat < p.record.segn) (hi16 : (s.me.readG ra.toNat).toNat < 2 ^ 16)
    (hread : tableRead (s.noted (.segld n ra)) (p.record.segtab.toNat + 64 * (s.me.readG ra.toNat).toNat) 64 =
      (d, false, s.noted (.segld n ra)))
    (himg : bitsOf (entryImage (s.noted (.segld n ra)) s.me.ctag d) 63 57 = 0) :
    exec (.segld n ra) s = .next (Claims.answered (s.setMe { s.me.noting (.segld n ra) with
      sg := vset s.me.sg n.toNat (setBits (entryImage (s.noted (.segld n ra)) s.me.ctag d) 121 121 0) }) none 0) := by
  obtain ⟨_, _, _, _, _, _, hpair, _⟩ := Slot.steady_fields (State.runs_steady h)
  have hs : s.slot < 8 := State.runs_slot h
  have hhigh : bitsOf (s.me.readG ra.toNat) 63 16 = 0 := by
    rw [bitsOf, Nat.div_eq_of_lt hi16, Nat.zero_mod]
  have hctag : (s.noted (.segld n ra)).me.ctag = s.me.ctag := by rw [me_noted h]; rfl
  have halone : (s.noted (.segld n ra)).me.pair = .alone := by rw [me_noted h]; exact hpair
  have hwants : s.wants = [] := State.runs_wants h
  refine deviceStep_issue h ?_ hwants
  have hslot : (s.noted (.segld n ra)).slot < 8 := noted_slot h ▸ hs
  have himg' : (BitVec.ofNat 128 (entryImage (s.noted (.segld n ra)) s.me.ctag d).toNat) =
      entryImage (s.noted (.segld n ra)) s.me.ctag d := by simp
  have hset (x : Slot) : (s.noted (.segld n ra)).setMe x = s.setMe x := by rw [State.runs_noted h, State.setMe_setMe]
  simp only [findPlaced_me_noted h hp, gval_noted h, hhigh, hread, hctag, halone]
  rw [if_neg (by simpa using hi), if_neg (by simp),
    loadSegment_good (himg'.symm ▸ himg) hslot halone (by rw [me_noted h]; exact hfree), hset, himg', me_noted h]
  rfl

end

theorem entryImage_unflagged {s : State} {ctag : BitVec 4} {d : Nat} (h : bitAt (BitVec.ofNat 64 (bytesAt d 32 8)) 63 = false) :
    entryImage s ctag d = .ofNat 128 (d % 2 ^ 128) := by
  simp only [entryImage, h, Bool.false_and, Bool.false_eq_true, if_false]
  rw [bytesAt, Nat.mul_zero, pow_zero, Nat.div_one]

theorem segmentLoads : Claims.SegmentLoads := by
  refine ⟨fun n ra off s h hfree hl hpoison => ?_, fun n ra s p h hfree hp => ⟨segld_refused h hfree hp, ?_⟩,
    fun s ctag d => entryImage_unflagged⟩
  · have hexec := segldImg_local h hl hpoison
    dsimp only
    have hme : (dropAnswers (bankTurnAt (s.noted (.segldImg n ra)) s.core off 16) s.core s.slot).me =
        s.me.noting (.segldImg n ra) :=
      (bankTurnAt_me ..).trans (me_noted h)
    obtain ⟨_, _, _, _, _, _, hpair, _⟩ := Slot.steady_fields (State.runs_steady h)
    constructor
    · intro himg
      rw [hexec, loadSegment_good himg, hme]
      · rfl
      · exact (noted_slot h).symm ▸ State.runs_slot h
      · rw [hme]; exact hpair
      · rw [hme]; exact hfree
    · intro himg
      rw [hexec, loadSegment_bad himg]
  · dsimp only
    intro hi hi16 himg hclean hkept
    have hread : tableRead (s.noted (.segld n ra)) (p.record.segtab.toNat + 64 * (s.me.readG ra.toNat).toNat) 64 =
        ((tableRead (s.noted (.segld n ra)) (p.record.segtab.toNat + 64 * (s.me.readG ra.toNat).toNat) 64).1, false,
          s.noted (.segld n ra)) := Prod.ext rfl (Prod.ext hclean hkept)
    rw [hkept] at himg ⊢
    exact segld_read h hfree hp hi hi16 hread himg

/-- Settles O45: what each number reads and writes, case by case, and what a checked block or a table entry leaves in the
segment register. -/
theorem systemAndSegmentRegisters : Obligations.SystemAndSegmentRegisters := ⟨systemRegisters, segmentLoads⟩

end Sys2Proof.Machine

end

section

namespace Sys2Proof.Machine

/-! ## What reset leaves -/

@[simp] theorem vget_replicate {α : Type} (n : Nat) (d : α) (k : Nat) : vget (Vector.replicate n d) d k = d := by
  simp only [vget, Vector.toList_replicate, List.getD_eq_getElem?_getD, List.getElem?_replicate]
  split <;> rfl

/-- After reset every slot, of any number, is the blank one. -/
theorem reset_slotOf (c k : Nat) : State.reset.slotOf c k = Slot.blank := vget_replicate 8 Slot.blank k

@[simp] theorem blank_readG (n : Nat) : Slot.blank.readG n = 0 := by
  unfold Slot.readG
  split
  · rfl
  · exact vget_replicate 32 0 n

theorem blank_predicate (n : Nat) : Slot.blank.predicate n = (n == 0) := by
  cases n with
  | zero => rfl
  | succ n => simp [Slot.predicate, Slot.blank, bitAt]

theorem reset_slotstate (c : Nat) : slotstate State.reset c = 0 := by
  simp only [slotstate, reset_slotOf]
  rfl

@[simp] theorem blank_segment (n : Nat) : vget Slot.blank.sg 0 n = 0 := vget_replicate 8 (0 : Quad) n

/-- Settles O12: every part that State.reset leaves without an entry reads as the part's own reset value. -/
theorem resetState : Obligations.ResetState := by
  refine ⟨fun c k => ?_, fun c => ⟨reset_slotstate c, rfl, rfl, rfl, rfl, rfl⟩, fun cl => ⟨rfl, rfl, rfl, rfl⟩,
    fun a b => ⟨rfl, rfl, rfl, rfl⟩, rfl, rfl, rfl, rfl, fun a => rfl, rfl⟩
  rw [reset_slotOf]
  exact ⟨rfl, blank_readG, blank_predicate, rfl, rfl, fun n => by rw [blank_segment]; exact BitVec.getLsbD_zero⟩

end Sys2Proof.Machine

end

section

namespace Sys2Proof.Machine
open Claims

/-! ## Core cycles: what they leave alone -/

/-- A command but for how long its bank has refused it. -/
def Cmd.unrefused (x : Cmd) : Cmd := { x with refused := 0 }

/-- What a cycle leaves of a core: all but its cycle, its slots, its requesters' counts and its banks' turns; of its commands all
but how long they have been refused. -/
def Core.CycleKeeps (r r' : Core) : Prop :=
  r' = { r with cycle := r'.cycle, slots := r'.slots, tileQ := r'.tileQ, copyQ := r'.copyQ, bankQ := r'.bankQ, bufs := r'.bufs
                bankTurns := r'.bankTurns, scrubWait := r'.scrubWait } ∧
  ∀ e, (r'.queue e).map Cmd.unrefused = (r.queue e).map Cmd.unrefused

/-- What the beginning of a cycle leaves of a slot of the core. -/
def Slot.BeginKeeps (x y : Slot) : Prop :=
  y = { x with status := y.status, wait := y.wait, reply := y.reply, park := y.park, haltPending := y.haltPending
               returnAt := y.returnAt }

/-- What the beginning of a cycle of core `c`, or a part of it, leaves alone. -/
structure State.BeginKeeps (c : Nat) (s t : State) : Prop where
  mem : t.mem = s.mem
  poison : t.poison = s.poison
  homes : t.homes = s.homes
  clusters : t.clusters = s.clusters
  issuing : t.issuing = s.issuing
  core : t.core = s.core
  slot : t.slot = s.slot
  slots : ∀ k, (s.slotOf c k).BeginKeeps (t.slotOf c k)
  cores : ∀ d, (s.coreOf d).CycleKeeps (t.coreOf d)
  others : ∀ d, d ≠ c → (t.coreOf d).slots = (s.coreOf d).slots ∧ (t.coreOf d).cycle = (s.coreOf d).cycle

section
variable {c : Nat} {r r' r'' : Core} {x y z : Slot} {s t u : State}

theorem Core.CycleKeeps.refl (r : Core) : r.CycleKeeps r := ⟨rfl, fun _ => rfl⟩

theorem Core.CycleKeeps.trans (h : r.CycleKeeps r') (h' : r'.CycleKeeps r'') : r.CycleKeeps r'' :=
  ⟨h'.1.trans (by rw [h.1]), fun e => (h'.2 e).trans (h.2 e)⟩

theorem Slot.BeginKeeps.trans (h : x.BeginKeeps y) (h' : y.BeginKeeps z) : x.BeginKeeps z :=
  Eq.trans h' (by rw [show y = _ from h])

theorem State.BeginKeeps.refl (c : Nat) (s : State) : s.BeginKeeps c s :=
  ⟨rfl, rfl, rfl, rfl, rfl, rfl, rfl, fun _ => rfl, fun _ => .refl _, fun _ _ => ⟨rfl, rfl⟩⟩

theorem State.BeginKeeps.trans (h : s.BeginKeeps c t) (h' : t.BeginKeeps c u) : s.BeginKeeps c u where
  mem := h'.mem.trans h.mem
  poison := h'.poison.trans h.poison
  homes := h'.homes.trans h.homes
  clusters := h'.clusters.trans h.clusters
  issuing := h'.issuing.trans h.issuing
  core := h'.core.trans h.core
  slot := h'.slot.trans h.slot
  slots k := (h.slots k).trans (h'.slots k)
  cores d := (h.cores d).trans (h'.cores d)
  others d hd := ⟨(h'.others d hd).1.trans (h.others d hd).1, (h'.others d hd).2.trans (h.others d hd).2⟩

theorem State.BeginKeeps.foldl {α : Type} {f : State → α → State} {l : List α} (hf : ∀ a ∈ l, ∀ s : State, s.BeginKeeps c (f s a))
    (s : State) :
    s.BeginKeeps c (l.foldl f s) := by
  induction l generalizing s with
  | nil => exact .refl c s
  | cons a l ih =>
    exact (hf a (List.mem_cons_self ..) s).trans (ih (fun b hb => hf b (List.mem_cons_of_mem _ hb)) _)

/-- A change of one core that leaves every slot of it as the beginning of a cycle does. -/
theorem State.BeginKeeps.modCore {d : Nat} {f : Core → Core} (hr : (s.coreOf d).CycleKeeps (f (s.coreOf d)))
    (hs : d = c ∧ (∀ k, (vget (s.coreOf d).slots Slot.blank k).BeginKeeps (vget (f (s.coreOf d)).slots Slot.blank k)) ∨
      (f (s.coreOf d)).slots = (s.coreOf d).slots ∧ (f (s.coreOf d)).cycle = (s.coreOf d).cycle) :
    s.BeginKeeps c (s.modCore d f) := by
  refine ⟨rfl, rfl, rfl, rfl, rfl, rfl, rfl, fun k => ?_, fun e => ?_, fun e he => ?_⟩
  · unfold State.slotOf
    rw [State.coreOf_modCore]
    split
    next h =>
      subst h
      obtain ⟨-, hs⟩ | ⟨hs, -⟩ := hs
      · exact hs k
      · rw [hs]; rfl
    next => rfl
  · rw [State.coreOf_modCore]
    split
    next h => exact h ▸ hr
    next => exact .refl _
  · rw [State.coreOf_modCore]
    split
    next h =>
      subst h
      obtain ⟨hd, -⟩ | hs := hs
      · exact absurd hd he
      · exact hs
    next => exact ⟨rfl, rfl⟩

/-- A change of one slot of the core. -/
theorem State.BeginKeeps.modSlot {k : Nat} {f : Slot → Slot} (h : (s.slotOf c k).BeginKeeps (f (s.slotOf c k))) :
    s.BeginKeeps c (s.modSlot c k f) := by
  refine .modCore (f := fun r => { r with slots := vset r.slots k (f (s.slotOf c k)) }) ⟨rfl, fun e => by cases e <;> rfl⟩
    (.inl ⟨rfl, fun j => ?_⟩)
  rw [vget_vset]
  split
  next hj => exact hj.1 ▸ h
  next => rfl

end

/-! ## Waiting requesters -/

theorem Core.queue_setQueue (r : Core) (e e' : Engine) (l : List Cmd) :
    (r.setQueue e l).queue e' = if e = e' then l else r.queue e' := by
  cases e <;> cases e' <;> rfl

/-- A change of how often a command of a tile, copy or bank queue was refused. -/
theorem modCmd_beginKeeps {c d ident : Nat} {e : Engine} {f : Cmd → Cmd} (he : e = .tile ∨ e = .copy ∨ e = .bank)
    (hf : ∀ x, (f x).unrefused = x.unrefused) (s : State) : s.BeginKeeps c (modCmd s d e ident f) := by
  refine .modCore ⟨by obtain rfl | rfl | rfl := he <;> rfl, fun e' => ?_⟩ (.inr (by obtain rfl | rfl | rfl := he <;> exact ⟨rfl, rfl⟩))
  rw [Core.queue_setQueue]
  split
  next h =>
    subst h
    rw [List.map_map]
    refine List.map_congr_left fun x _ => ?_
    rw [Function.comp_apply]
    split
    · exact hf x
    · rfl
  next => rfl

theorem bankers_engine {s : State} {p : Nat} {x : Nat × Engine × Cmd} (h : x ∈ bankers s p) :
    x.2.1 = .tile ∨ x.2.1 = .copy ∨ x.2.1 = .bank := by
  simp only [bankers, List.mem_append, List.mem_map, List.mem_flatMap] at h
  obtain (⟨_, _, rfl⟩ | ⟨_, _, rfl⟩) | ⟨_, _, _, _, rfl⟩ := h
  · exact .inl rfl
  · exact .inr (.inl rfl)
  · exact .inr (.inr rfl)

theorem refusedOnce_beginKeeps {c p : Nat} {x : Nat × Engine × Cmd} (hx : x.2.1 = .tile ∨ x.2.1 = .copy ∨ x.2.1 = .bank)
    (s : State) : s.BeginKeeps c (refusedOnce s p x) := by
  unfold refusedOnce
  split
  · exact modCmd_beginKeeps (f := fun y => { y with refused := y.refused + 1 }) hx (fun _ => rfl) s
  · exact .refl c s

/-- A change of parts of the state that a cycle may change: its flights, its clock. -/
theorem State.BeginKeeps.update (c : Nat) (s : State) (flights : List Flight) (clock : Nat) :
    s.BeginKeeps c { s with flights := flights, clock := clock } :=
  ⟨rfl, rfl, rfl, rfl, rfl, rfl, rfl, fun _ => rfl, fun _ => .refl _, fun _ _ => ⟨rfl, rfl⟩⟩

/-- Requesters that wait grow older; nothing else changes. -/
theorem ageRequests_beginKeeps (s : State) (c : Nat) : s.BeginKeeps c (ageRequests s c) := by
  have hfold : s.BeginKeeps c ((bankers s c).foldl (fun s x => refusedOnce s c x) s) :=
    .foldl (fun x hx => refusedOnce_beginKeeps (bankers_engine hx)) s
  unfold ageRequests
  dsimp only
  generalize (bankers s c).foldl (fun s x => refusedOnce s c x) s = t at hfold ⊢
  exact (hfold.trans (.update c t _ t.clock)).trans (.modCore ⟨rfl, fun e => by cases e <;> rfl⟩ (.inr ⟨rfl, rfl⟩))

/-! ## The beginning of a cycle -/

theorem activateBy_beginKeeps (n : Nat) (x : Slot) : x.BeginKeeps (activateBy n x) := by
  unfold activateBy Slot.BeginKeeps
  split
  · dsimp only; split <;> rfl
  · rfl

theorem makeRunnable_beginKeeps (s : State) (c k : Nat) : s.BeginKeeps c (makeRunnable s c k) := by
  refine .modSlot ?_
  unfold Slot.BeginKeeps
  dsimp only
  split
  · rfl
  · split <;> rfl

theorem deliverDeferred_nil {s : State} {c : Nat} (h : (s.coreOf c).deferred = []) (k : Nat) : deliverDeferred s c k = s := by
  rw [deliverDeferred, h]; rfl

theorem returnDue_beginKeeps {s : State} {c : Nat} (h : (s.coreOf c).deferred = []) (k : Nat) : s.BeginKeeps c (returnDue s c k) := by
  unfold returnDue
  split
  · rw [deliverDeferred_nil h]
    split
    · exact makeRunnable_beginKeeps s c k
    · exact .refl c s
  · exact .refl c s

theorem State.BeginKeeps.deferred {c : Nat} {s t : State} (h : s.BeginKeeps c t) (d : Nat) :
    (t.coreOf d).deferred = (s.coreOf d).deferred := by rw [(h.cores d).1]

theorem returnsDue_beginKeeps {s : State} {c : Nat} (h : (s.coreOf c).deferred = []) (l : List Nat) :
    s.BeginKeeps c (l.foldl (fun s k => returnDue s c k) s) := by
  induction l generalizing s with
  | nil => exact .refl c s
  | cons k l ih =>
    have hk := returnDue_beginKeeps h k
    exact hk.trans (ih ((hk.deferred c).trans h))

theorem returnDue_cycle (s : State) (c k : Nat) (h : (s.coreOf c).deferred = []) :
    ((returnDue s c k).coreOf c).cycle = (s.coreOf c).cycle := by
  unfold returnDue
  split
  · rw [deliverDeferred_nil h]
    split
    · exact State.coreOf_modSlot_cycle ..
    · rfl
  · rfl

theorem returnsDue_cycle {s : State} {c : Nat} (h : (s.coreOf c).deferred = []) (l : List Nat) :
    ((l.foldl (fun s k => returnDue s c k) s).coreOf c).cycle = (s.coreOf c).cycle := by
  induction l generalizing s with
  | nil => rfl
  | cons k l ih => exact (ih (((returnDue_beginKeeps h k).deferred c).trans h)).trans (returnDue_cycle s c k h)

/-- No element of the pipeline is due. -/
theorem landPushes_none {s : State} {c : Nat} {p : Arriving → Bool} (h : ∀ a ∈ (s.coreOf c).arriving, p a = false) :
    landPushes s c p = s := by
  have : (s.coreOf c).arriving.filter p = [] := List.filter_eq_nil_iff.2 fun a ha => by simp [h a ha]
  simp [landPushes, this]

@[simp] theorem State.coreOf_clock (s : State) (n d : Nat) : ({ s with clock := n } : State).coreOf d = s.coreOf d := rfl

/-- The core with its requests aged, its cycle `n` begun and its placed slots active where their boundaries have come. -/
def enterCycle (s : State) (c : Nat) (n : Word) : State :=
  let s := (ageRequests s c).modCore c fun r => { r with cycle := n, slots := r.slots.map (activateBy n.toNat) }
  { s with clock := max s.clock n.toNat }

theorem beginCycle_eq (s : State) (c : Nat) :
    beginCycle s c = (List.range 8).foldl (fun s k => returnDue s c k)
      (enterCycle (landPushes s c fun a => decide (a.due < ((s.coreOf c).cycle + 1).toNat)) c ((s.coreOf c).cycle + 1)) := rfl

theorem enterCycle_keeps (s : State) (c : Nat) (n : Word) : s.BeginKeeps c (enterCycle s c n) := by
  have hage := ageRequests_beginKeeps s c
  unfold enterCycle
  dsimp only
  generalize ageRequests s c = t at hage ⊢
  refine hage.trans (State.BeginKeeps.trans (t := t.modCore c fun r => { r with cycle := n, slots := r.slots.map (activateBy n.toNat) })
    (.modCore ⟨rfl, fun e => by cases e <;> rfl⟩ (.inl ⟨rfl, fun k => ?_⟩)) (.update c _ _ _))
  simp only [vget, Vector.toList_map, List.getD_eq_getElem?_getD, List.getElem?_map]
  cases (t.coreOf c).slots.toList[k]? with
  | none => rfl
  | some x => exact activateBy_beginKeeps _ x

theorem enterCycle_cycle (s : State) (c : Nat) (n : Word) : ((enterCycle s c n).coreOf c).cycle = n := by
  unfold enterCycle
  rw [State.coreOf_clock, State.coreOf_modCore, if_pos rfl]

section
variable {s : State} {c : Nat} (harr : ∀ a ∈ (s.coreOf c).arriving, ((s.coreOf c).cycle + 1).toNat ≤ a.due)
  (hdef : (s.coreOf c).deferred = [])
include harr hdef

theorem beginCycle_keeps : s.BeginKeeps c (beginCycle s c) := by
  rw [beginCycle_eq, landPushes_none fun a ha => by simpa using harr a ha]
  have h := enterCycle_keeps s c ((s.coreOf c).cycle + 1)
  exact h.trans (returnsDue_beginKeeps ((h.deferred c).trans hdef) _)

theorem beginCycle_cycle : ((beginCycle s c).coreOf c).cycle = (s.coreOf c).cycle + 1 := by
  rw [beginCycle_eq, landPushes_none fun a ha => by simpa using harr a ha]
  rw [returnsDue_cycle (((enterCycle_keeps s c _).deferred c).trans hdef), enterCycle_cycle]

end

/-! ## Who issues -/

/-- The borrower among the slots looked at so far and slot `k`. -/
def betterBorrower (r : Core) (n : Word) (best : Option Nat) (k : Nat) : Option Nat :=
  if mayBorrow r n k then
    match best with
    | none => some k
    | some b => if sinceIssue (vget r.slots Slot.blank b) n < sinceIssue (vget r.slots Slot.blank k) n then some k else best
  else best

/-- What the search for a borrower has found after the slots below `m`: none of them may borrow, or `b` has waited longest of those
that may, and is the lowest of those that have. -/
def FoundBelow (r : Core) (n : Word) (m : Nat) : Option Nat → Prop
  | none => ∀ k, k < m → mayBorrow r n k = false
  | some b => b < m ∧ mayBorrow r n b = true ∧ ∀ k, k < m → mayBorrow r n k = true →
      sinceIssue (vget r.slots Slot.blank k) n < sinceIssue (vget r.slots Slot.blank b) n ∨
        sinceIssue (vget r.slots Slot.blank k) n = sinceIssue (vget r.slots Slot.blank b) n ∧ b ≤ k

theorem foundBelow_succ {r : Core} {n : Word} {m : Nat} {best : Option Nat} (h : FoundBelow r n m best) :
    FoundBelow r n (m + 1) (betterBorrower r n best m) := by
  have split {k : Nat} (hk : k < m + 1) : k = m ∨ k < m := by omega
  unfold betterBorrower
  split
  next hm =>
    cases best with
    | none =>
      refine ⟨by omega, hm, fun k hk hmk => ?_⟩
      obtain rfl | hk := split hk
      · exact .inr ⟨rfl, le_rfl⟩
      · simp [h k hk] at hmk
    | some b =>
      obtain ⟨hb, hmay, hall⟩ := h
      dsimp only
      split
      next hlt =>
        refine ⟨by omega, hm, fun k hk hmk => ?_⟩
        obtain rfl | hk := split hk
        · exact .inr ⟨rfl, le_rfl⟩
        · have := hall k hk hmk
          omega
      next hge =>
        refine ⟨by omega, hmay, fun k hk hmk => ?_⟩
        obtain rfl | hk := split hk
        · omega
        · exact hall k hk hmk
  next hm =>
    cases best with
    | none =>
      intro k hk
      obtain rfl | hk := split hk
      · simpa using hm
      · exact h k hk
    | some b =>
      obtain ⟨hb, hmay, hall⟩ := h
      refine ⟨by omega, hmay, fun k hk hmk => ?_⟩
      obtain rfl | hk := split hk
      · exact absurd hmk hm
      · exact hall k hk hmk

theorem foundBelow_foldl (r : Core) (n : Word) (m : Nat) :
    FoundBelow r n m ((List.range m).foldl (betterBorrower r n) none) := by
  induction m with
  | zero => exact fun k hk => absurd hk (by omega)
  | succ m ih =>
    rw [List.range_succ, List.foldl_append]
    exact foundBelow_succ ih

theorem foundBelow_borrower (r : Core) (n : Word) : FoundBelow r n 8 (borrower r n) := foundBelow_foldl r n 8

/-! ## A core cycle -/

/-- The slot that issues in a cycle that has begun. -/
def letIssue (s : State) (c k : Nat) (n : Word) : State :=
  { s.modSlot c k fun x => { x with last := n, firstIssue := false } with core := c, slot := k, issuing := true }

theorem letIssue_coreOf (s : State) (c k d : Nat) (n : Word) :
    (letIssue s c k n).coreOf d = (s.modSlot c k fun x => { x with last := n, firstIssue := false }).coreOf d := rfl

/-- The slot that issues, if any, in the cycle that has begun. -/
def cycleIssue (s : State) (c : Nat) : State :=
  match issuer (s.coreOf c) (s.coreOf c).cycle with
  | none => s
  | some k => letIssue s c k (s.coreOf c).cycle

theorem exec_coreCycle {c : Nat} (hc : c < 1280) (s : State) : exec (.coreCycle c) s = .next (cycleIssue (beginCycle s c) c) := by
  show execCoreCycle c s = _
  unfold execCoreCycle cycleIssue
  rw [if_neg (by omega)]
  generalize beginCycle s c = t
  dsimp only
  cases issuer (t.coreOf c) (t.coreOf c).cycle <;> rfl

section
variable {s t u : State} {c k : Nat} {n : Word}

theorem issuer_lt {r : Core} (h : issuer r n = some k) : k < 8 := by
  unfold issuer at h
  split at h
  · obtain rfl := Option.some.inj h
    omega
  · have hfound := foundBelow_borrower r n
    rw [h] at hfound
    exact hfound.1

/-- A slot of the core after the cycle: its issue is noted if it is the one that issues. -/
theorem cycleIssue_slotOf (u : State) (c k : Nat) :
    ∃ last first, (cycleIssue u c).slotOf c k = { u.slotOf c k with last := last, firstIssue := first } := by
  unfold cycleIssue
  split
  next => exact ⟨_, _, rfl⟩
  next j hj =>
    rw [State.slotOf, letIssue_coreOf, ← State.slotOf]
    by_cases h : j = k
    · subst h
      rw [State.slotOf_modSlot_self _ _ _ _ (issuer_lt hj)]
      exact ⟨_, _, rfl⟩
    · rw [State.slotOf_modSlot_other _ _ _ _ _ _ fun e => h e.2]
      exact ⟨_, _, rfl⟩

theorem cycleIssue_status (u : State) (c k : Nat) : ((cycleIssue u c).slotOf c k).status = (u.slotOf c k).status := by
  obtain ⟨_, _, h⟩ := cycleIssue_slotOf u c k
  rw [h]

theorem cycleIssue_coreOf (u : State) (c d : Nat) :
    (u.coreOf d).CycleKeeps ((cycleIssue u c).coreOf d) ∧ ((cycleIssue u c).coreOf d).cycle = (u.coreOf d).cycle ∧
      (d ≠ c → (cycleIssue u c).coreOf d = u.coreOf d) := by
  unfold cycleIssue
  split
  next => exact ⟨.refl _, rfl, fun _ => rfl⟩
  next j hj =>
    rw [letIssue_coreOf, State.modSlot, State.setSlot, State.coreOf_modCore]
    split
    next h => exact ⟨⟨rfl, fun e => by cases e <;> rfl⟩, rfl, fun hd => absurd h.symm hd⟩
    next => exact ⟨.refl _, rfl, fun _ => rfl⟩

theorem cycleIssue_rest (u : State) (c : Nat) :
    (cycleIssue u c).mem = u.mem ∧ (cycleIssue u c).poison = u.poison ∧ (cycleIssue u c).homes = u.homes ∧
      (cycleIssue u c).clusters = u.clusters := by
  unfold cycleIssue
  split <;> exact ⟨rfl, rfl, rfl, rfl⟩

theorem cycleIssue_some (h : issuer (u.coreOf c) (u.coreOf c).cycle = some k) :
    (cycleIssue u c).issuing = true ∧ (cycleIssue u c).core = c ∧ (cycleIssue u c).slot = k := by
  rw [cycleIssue, h]
  exact ⟨rfl, rfl, rfl⟩

theorem cycleIssue_none (h : issuer (u.coreOf c) (u.coreOf c).cycle = none) : cycleIssue u c = u := by
  rw [cycleIssue, h]

/-- The slots that may borrow are those of the statement. -/
theorem mayBorrow_iff (h : s.BeginKeeps c u) (ht : (t.slotOf c k).status = (u.slotOf c k).status) :
    MayBorrow s t c n k ↔ k < 8 ∧ mayBorrow (u.coreOf c) n k = true := by
  unfold MayBorrow mayBorrow
  rw [ht]
  show _ ↔ _ ∧ ((u.slotOf c k).status.issues && _ && !(u.slotOf c k).firstIssue && (u.slotOf c k).vec.isNone &&
    decide (4 ≤ (n - (u.slotOf c k).last).toNat) && _) = true
  have hk : (s.slotOf c k).BeginKeeps (u.slotOf c k) := h.slots k
  rw [show (u.slotOf c k).firstIssue = (s.slotOf c k).firstIssue by rw [hk],
    show (u.slotOf c k).vec = (s.slotOf c k).vec by rw [hk], show (u.slotOf c k).last = (s.slotOf c k).last by rw [hk]]
  simp [ownIn, and_assoc]

theorem sinceIssue_keeps (h : s.BeginKeeps c u) (k : Nat) :
    sinceIssue (vget (u.coreOf c).slots Slot.blank k) n = (n - (s.slotOf c k).last).toNat := by
  show (n - (u.slotOf c k).last).toNat = _
  rw [show u.slotOf c k = _ from h.slots k]

/-- Who issues in a cycle in which the position's own slot does not. -/
theorem cycleIssue_vacant (h : s.BeginKeeps c u) (hv : (u.slotOf c ((u.coreOf c).cycle.toNat % 8)).status.issues = false) :
    let t := cycleIssue u c
    let n := (u.coreOf c).cycle
    ((∀ k, ¬ MayBorrow s t c n k) → t.issuing = s.issuing ∧ t.core = s.core ∧ t.slot = s.slot) ∧
    (∀ k, MayBorrow s t c n k → t.issuing = true ∧ t.core = c ∧ MayBorrow s t c n t.slot ∧
      (t.slot = k ∨ (n - (s.slotOf c k).last).toNat < (n - (s.slotOf c t.slot).last).toNat ∨
        ((n - (s.slotOf c k).last).toNat = (n - (s.slotOf c t.slot).last).toNat ∧ t.slot < k))) := by
  have hiss : issuer (u.coreOf c) (u.coreOf c).cycle = borrower (u.coreOf c) (u.coreOf c).cycle :=
    if_neg (by rw [show vget _ _ _ = u.slotOf c _ from rfl, hv]; exact Bool.false_ne_true)
  have hmay (k : Nat) := mayBorrow_iff (n := (u.coreOf c).cycle) h (cycleIssue_status u c k)
  have hfound := foundBelow_borrower (u.coreOf c) (u.coreOf c).cycle
  simp only [hmay]
  cases hb : borrower (u.coreOf c) (u.coreOf c).cycle with
  | none =>
    rw [hb] at hfound
    rw [cycleIssue_none (hiss.trans hb)]
    exact ⟨fun _ => ⟨h.issuing, h.core, h.slot⟩, fun k hk => absurd hk.2 (by simp [hfound k hk.1])⟩
  | some b =>
    rw [hb] at hfound
    obtain ⟨hb8, hbmay, hall⟩ := hfound
    obtain ⟨hissuing, hcore, hslot⟩ := cycleIssue_some (hiss.trans hb)
    refine ⟨fun hno => absurd ⟨hb8, hbmay⟩ (hno b), fun k hk => ⟨hissuing, hcore, hslot ▸ ⟨hb8, hbmay⟩, ?_⟩⟩
    have := hall k hk.1 hk.2
    rw [sinceIssue_keeps h, sinceIssue_keeps h] at this
    rw [hslot]
    omega

end

theorem placedSlotActivates {s : State} {c k : Nat} (hplaced : (s.slotOf c k).status = .placed)
    (hwait : (s.slotOf c k).wait = .nothing) (hhalt : (s.slotOf c k).haltPending = false)
    (hout : (s.slotOf c k).handler = .outside) :
    exec (.placedSlotActivate c k) s = .next (s.setSlot c k
      (if (s.slotOf c k).boundary.toNat ≤ (s.coreOf c).cycle.toNat + 1 then { s.slotOf c k with status := .runnable }
       else s.slotOf c k)) := by
  show Host.Outcome.next (s.setSlot c k (activateBy _ (s.slotOf c k))) = _
  unfold activateBy activeStatus
  simp only [hplaced, hwait, hhalt, Slot.inHandler, hout]
  simp

/-- Settles O11: the beginning of a cycle keeps all but what it may change, and the search for a borrower finds the slot that has
waited longest. -/
theorem wheelAndLending : Obligations.WheelAndLending := by
  refine ⟨fun c s hc harr hdef => ?_, fun c k s hk hplaced hwait hhalt hout => ⟨fun hb => ?_, fun hb => ?_⟩⟩
  · have hkeeps := beginCycle_keeps harr hdef
    have hcycle := beginCycle_cycle harr hdef
    have hexec := exec_coreCycle hc s
    generalize beginCycle s c = u at hkeeps hcycle hexec
    obtain ⟨hmem, hpoison, hhomes, hclusters⟩ := cycleIssue_rest u c
    refine ⟨_, hexec, ((cycleIssue_coreOf u c c).2.1).trans hcycle, hmem.trans hkeeps.mem, hpoison.trans hkeeps.poison,
      hhomes.trans hkeeps.homes, hclusters.trans hkeeps.clusters, fun k => ?_, fun d k hd => ?_, fun d => ?_, fun hown => ?_, fun hv => ?_⟩
    · obtain ⟨last, first, h⟩ := cycleIssue_slotOf u c k
      rw [h, show u.slotOf c k = _ from hkeeps.slots k]
    · rw [State.slotOf, (cycleIssue_coreOf u c d).2.2 hd, (hkeeps.others d hd).1]
      rfl
    · obtain ⟨hcore, hcyc, -⟩ := cycleIssue_coreOf u c d
      have h := (hkeeps.cores d).trans hcore
      exact ⟨h.1, fun hd => hcyc.trans (hkeeps.others d hd).2, h.2⟩
    · rw [cycleIssue_status, ← hcycle] at hown
      rw [← hcycle]
      exact cycleIssue_some (if_pos hown)
    · rw [cycleIssue_status, ← hcycle] at hv
      rw [← hcycle]
      exact cycleIssue_vacant hkeeps hv
  · rw [placedSlotActivates hplaced hwait hhalt hout, if_pos hb]
  · rw [placedSlotActivates hplaced hwait hhalt hout, if_neg (by omega)]

end Sys2Proof.Machine

end

section

namespace Sys2Proof.Machine
open Claims

/-! ## Registers and predicates read after one is written -/

/-- A general register after one is written: g0 stays zero. -/
theorem Slot.readG_writeG (x : Slot) (m n : Nat) (v : Word) :
    (x.writeG m v).readG n = if m = n ∧ n ≠ 0 ∧ n < 32 then v else x.readG n := by
  by_cases hm : m = 0
  · rw [Slot.writeG, if_pos hm, if_neg (by omega)]
  by_cases hn : n = 0
  · rw [if_neg (by omega), hn]; rfl
  unfold Slot.writeG
  rw [if_neg hm]
  split
  next hw =>
    simp only [Bool.and_eq_true, decide_eq_true_eq] at hw
    have hin : ({ x with winG := vset x.winG (m - 24) v } : Slot).inHandler = true := hw.1
    simp only [Slot.readG, if_neg hn, hin, hw.1, Bool.true_and, decide_eq_true_eq]
    split
    next h24 =>
      rw [vget_vset]
      exact if_congr (by omega) rfl rfl
    next => rw [if_neg (by omega)]
  next hw =>
    have hin : ({ x with g := vset x.g m v } : Slot).inHandler = x.inHandler := rfl
    simp only [Slot.readG, if_neg hn, hin]
    split
    next hr =>
      rw [if_neg]
      rintro ⟨rfl, -⟩
      exact hw hr
    next =>
      rw [vget_vset]
      exact if_congr (by omega) rfl rfl

theorem Slot.readG_writeG_other (x : Slot) {m n : Nat} (v : Word) (h : n ≠ m) : (x.writeG m v).readG n = x.readG n := by
  rw [Slot.readG_writeG, if_neg fun e => h e.1.symm]

@[simp] theorem Slot.readG_movedTo (x : Slot) (pc : Word) (n : Nat) : (x.movedTo pc).readG n = x.readG n := rfl

@[simp] theorem Slot.readG_zero (x : Slot) : x.readG 0 = 0 := rfl

/-- A bit after a field is replaced: inside the field it is the value's, and outside as before. -/
theorem bitAt_setBits {w : Nat} (x : BitVec w) {hi lo : Nat} (h : lo ≤ hi) (v j : Nat) :
    bitAt (setBits x hi lo v) j = if lo ≤ j ∧ j ≤ hi then decide (j < w) && v.testBit (j - lo) else bitAt x j := by
  have hsplit : x.toNat % 2 ^ lo + v % 2 ^ (hi - lo + 1) * 2 ^ lo + x.toNat / 2 ^ (hi + 1) * 2 ^ (hi + 1) =
      2 ^ lo * (2 ^ (hi - lo + 1) * (x.toNat / 2 ^ (hi + 1)) + v % 2 ^ (hi - lo + 1)) + x.toNat % 2 ^ lo := by
    rw [Nat.mul_add, ← Nat.mul_assoc, ← Nat.pow_add, show lo + (hi - lo + 1) = hi + 1 by omega, Nat.mul_comm (2 ^ lo), Nat.mul_comm (2 ^ (hi + 1))]
    omega
  rw [bitAt, setBits, BitVec.getLsbD_ofNat, hsplit, Nat.testBit_two_pow_mul_add _ (Nat.mod_lt _ (by positivity)),
    Nat.testBit_two_pow_mul_add _ (Nat.mod_lt _ (by positivity))]
  have hx : bitAt x j = (decide (j < w) && x.toNat.testBit j) := by
    rw [bitAt, ← BitVec.testBit_toNat]
    by_cases hj : j < w
    · simp [hj]
    · simp [hj, BitVec.testBit_toNat, BitVec.getLsbD_of_ge _ _ (Nat.le_of_not_lt hj)]
  rw [hx]
  simp only [Nat.testBit_mod_two_pow, Nat.testBit_div_two_pow]
  split_ifs with h1 h2 h3
  · omega
  · simp [h1]
  · simp [h3]
  · omega
  · omega
  · rw [show j - lo - (hi - lo + 1) + (hi + 1) = j by omega]
theorem Slot.predicate_congr {x y : Slot} (h : x.pred = y.pred) (n : Nat) : x.predicate n = y.predicate n := by
  rw [Slot.predicate, h, Slot.predicate]

theorem Slot.predicate_writePred_other (x : Slot) {m n : Nat} (b : Bool) (h : n ≠ m) :
    (x.writePred m b).predicate n = x.predicate n := by
  unfold Slot.writePred
  split
  · rfl
  · rw [Slot.predicate, Slot.predicate, bitAt_setBits _ le_rfl, if_neg (by omega)]

/-! ## Frames of the scalar instructions -/

/-- A slot that differs from another in its registers, masks, predicates, flags and seed alone. -/
def Slot.RegistersOf (x y : Slot) : Prop :=
  y = { x with g := y.g, winG := y.winG, v := y.v, winV := y.winV, m := y.m, pred := y.pred, fflags := y.fflags, srseed := y.srseed }

theorem Slot.registersOf_writeG (x : Slot) (n : Nat) (v : Word) : x.RegistersOf (x.writeG n v) := by
  unfold Slot.RegistersOf Slot.writeG
  split
  · rfl
  · split <;> rfl

theorem Slot.writePred_eq (x : Slot) (n : Nat) (b : Bool) : ∃ p, x.writePred n b = { x with pred := p } := by
  unfold Slot.writePred
  split
  · exact ⟨x.pred, rfl⟩
  · exact ⟨_, rfl⟩

theorem Slot.registersOf_writePred (x : Slot) (n : Nat) (b : Bool) : x.RegistersOf (x.writePred n b) := by
  obtain ⟨p, hp⟩ := Slot.writePred_eq x n b
  rw [hp]
  rfl

section
variable {s : State} {i : Instr} {x : Slot} {pc : Word}

theorem me_retiredTo (hs : s.slot < 8) : (s.retiredTo i x pc).me = (x.noting i).movedTo pc := State.me_setMe _ _ hs

/-- An instruction that retires with registers changed touches nothing but registers. -/
theorem onlyRegisters_retiredTo (hs : s.slot < 8) (hx : s.me.RegistersOf x) : OnlyRegisters s (s.retiredTo i x pc) := by
  refine ⟨fun _ => rfl, rfl, rfl, fun c k h => State.setMe_frame s _ c k fun e => h ⟨e.1.symm, e.2.symm⟩, ?_⟩
  rw [me_retiredTo hs]
  unfold Slot.noting Slot.movedTo
  rw [show x = _ from hx]

end

/-! ### A register is written -/

section
variable {i : Instr} {s : State} {rd ra rb : BitVec 6} {f : Word → Word} {f2 : Word → Word → Word} {v : Word}

/-- A general register written from the state in which the instruction's effect begins. -/
theorem writeNext_noted (h : s.runs i = true) (hrd : rd.toNat < 32) (before : State) :
    writeNext rd v before (s.noted i) = s.retired i (s.me.writeG rd.toNat v) := by
  rw [State.runs_noted h, writeNext_general hrd (State.runs_slot h) (by simpa using State.runs_steady h), Slot.writeG_noting]
  rfl

/-- What an instruction that may run comes to is what its effect comes to in the state with its word noted. -/
theorem exec_of_issue {body : State → State} {t : State} (he : exec i s = .next (issue i s body)) (h : s.runs i = true)
    (hbody : body (s.noted i) = t) : exec i s = .next t := by
  rw [he, issue_of_runs h, hbody]

theorem read2_general {k : Word → Word → State → State} (hra : ra.toNat < 32) (hrb : rb.toNat < 32) (s : State) :
    read2 ra rb s k = k (s.me.readG ra.toNat) (s.me.readG rb.toNat) s := by
  rw [read2, readFrom_general2 hra hrb]

theorem rrOp_general (h : s.runs i = true) (hrd : rd.toNat < 32) (hra : ra.toNat < 32) (hrb : rb.toNat < 32) :
    rrOp i rd ra rb f2 s = .next (s.retired i (s.me.writeG rd.toNat (f2 (s.me.readG ra.toNat) (s.me.readG rb.toNat)))) := by
  rw [rrOp, issue_of_runs h, read2, readFrom_general2 hra hrb, me_noted h]
  exact congrArg _ (writeNext_noted h hrd _)

theorem rOp_general (h : s.runs i = true) (hrd : rd.toNat < 32) (hra : ra.toNat < 32) :
    rOp i rd ra f s = .next (s.retired i (s.me.writeG rd.toNat (f (s.me.readG ra.toNat)))) := by
  rw [rOp, issue_of_runs h, read1_general hra, me_noted h]
  exact congrArg _ (writeNext_noted h hrd _)

end

section
variable (rd ra rb : BitVec 6) (imm : BitVec 12) (wide : BitVec 18) (c : BitVec 6) (w : BitVec 2) (k : BitVec 4)

theorem twoOperand_rrOp : ∀ p ∈ twoOperand rd ra rb, ∃ f, exec p.1 = rrOp p.1 rd ra rb f := by
  simp only [twoOperand, List.forall_mem_cons, List.not_mem_nil, false_implies, implies_true, and_true]
  and_intros <;> exact ⟨_, rfl⟩

/-- The instructions of one source. -/
def oneSource : List Instr :=
  [.clz rd ra, .ctz rd ra, .popc rd ra, .sext rd ra w, .zext rd ra w, .addi rd ra imm, .andi rd ra imm, .ori rd ra imm,
   .xori rd ra imm, .slli rd ra c, .srli rd ra c, .srai rd ra c]

theorem oneSource_rOp : ∀ i ∈ oneSource rd ra imm c w, ∃ f, exec i = rOp i rd ra f := by
  simp only [oneSource, List.forall_mem_cons, List.not_mem_nil, false_implies, implies_true, and_true]
  and_intros <;> exact ⟨_, rfl⟩

theorem mem_registerResult {i : Instr} (h : i ∈ registerResult rd ra rb imm wide c w k) :
    i ∈ (twoOperand rd ra rb).map (·.1) ∨ i ∈ oneSource rd ra imm c w ∨ i = .sel rd ra rb k ∨ i = .lui rd wide ∨ i = .lpc rd wide := by
  simp only [registerResult, List.mem_append, List.mem_cons, List.not_mem_nil, or_false] at h
  simp only [oneSource, List.mem_cons, List.not_mem_nil, or_false]
  tauto

/-- An instruction of one register destination writes it and retires to the next word. -/
theorem registerResult_writes {i : Instr} {s : State} (hi : i ∈ registerResult rd ra rb imm wide c w k) (h : s.runs i = true)
    (hrd : rd.toNat < 32) (hra : ra.toNat < 32) (hrb : rb.toNat < 32) :
    ∃ v, exec i s = .next (s.retired i (s.me.writeG rd.toNat v)) := by
  obtain hi | hi | rfl | rfl | rfl := mem_registerResult rd ra rb imm wide c w k hi
  · obtain ⟨p, hp, rfl⟩ := List.mem_map.1 hi
    obtain ⟨f, hf⟩ := twoOperand_rrOp rd ra rb p hp
    exact ⟨_, hf ▸ rrOp_general h hrd hra hrb⟩
  · obtain ⟨f, hf⟩ := oneSource_rOp rd ra imm c w i hi
    exact ⟨_, hf ▸ rOp_general h hrd hra⟩
  · exact ⟨_, exec_of_issue rfl h ((read2_general hra hrb _).trans (writeNext_noted h hrd _))⟩
  · exact ⟨_, exec_of_issue rfl h (writeNext_noted h hrd _)⟩
  · exact ⟨_, exec_of_issue rfl h (writeNext_noted h hrd _)⟩

end

theorem registerFrame : Claims.RegisterFrame := by
  intro rd ra rb imm wide c w k i s hi h hrd hra hrb
  obtain ⟨v, hv⟩ := registerResult_writes rd ra rb imm wide c w k hi h hrd hra hrb
  have hs : s.slot < 8 := State.runs_slot h
  have hregs := Slot.registersOf_writeG s.me rd.toNat v
  refine ⟨_, hv, onlyRegisters_retiredTo hs hregs, ?_⟩
  rw [State.retired, me_retiredTo hs]
  refine ⟨fun n _ hn => ?_, rfl, ?_⟩
  · rw [Slot.readG_movedTo, Slot.readG_noting, Slot.readG_writeG_other s.me v hn]
  · unfold Slot.writeG Slot.noting Slot.movedTo
    split
    · exact ⟨rfl, rfl, rfl, rfl, rfl, rfl, rfl⟩
    · split <;> exact ⟨rfl, rfl, rfl, rfl, rfl, rfl, rfl⟩

/-! ### A predicate is written, or the PC alone -/

section
variable {i : Instr} {s : State} {ra rb : BitVec 6}

theorem done_noted (h : s.runs i = true) (pc : Word) : done (s.noted i) pc = s.retiredTo i s.me pc := by
  rw [State.runs_noted h, done_setMe (State.runs_slot h) (by simpa using State.runs_steady h)]
  rfl

theorem writePredNext_noted (h : s.runs i = true) (p : Nat) (b : Bool) :
    writePredNext p b (s.noted i) = s.retired i (s.me.writePred p b) := by
  rw [State.runs_noted h, writePredNext, State.modMe_setMe _ _ _ (State.runs_slot h), doneNext_setMe (State.runs_slot h)
    (by simpa using State.runs_steady h), Slot.writePred_noting]
  simp [State.retired, State.retiredTo]

theorem exec_bt {k : BitVec 4} {off : BitVec 12} (h : s.runs (.bt k off) = true) : exec (.bt k off) s =
    .next (s.retiredTo (.bt k off) s.me (if s.me.predicate k.toNat then cbTarget s.me.pc off else s.me.pc + 4)) := by
  refine exec_of_issue rfl h ?_
  rw [me_noted h, Slot.predicate_noting]
  split
  · exact done_noted h _
  · exact doneNext_noted h

theorem exec_bf {k : BitVec 4} {off : BitVec 12} (h : s.runs (.bf k off) = true) : exec (.bf k off) s =
    .next (s.retiredTo (.bf k off) s.me (if s.me.predicate k.toNat then s.me.pc + 4 else cbTarget s.me.pc off)) := by
  refine exec_of_issue rfl h ?_
  rw [me_noted h, Slot.predicate_noting]
  split
  · exact doneNext_noted h
  · exact done_noted h _

theorem branchOp_general {cc : Nat} {off : BitVec 12} (h : s.runs i = true) (hra : ra.toNat < 32) (hrb : rb.toNat < 32) :
    ∃ pc, branchOp i cc ra rb off s = .next (s.retiredTo i s.me pc) := by
  rw [branchOp, issue_of_runs h, read2, readFrom_general2 hra hrb]
  dsimp only
  split
  · exact ⟨_, congrArg _ (done_noted h _)⟩
  · exact ⟨_, congrArg _ (done_noted h _)⟩

end

section
variable (pd pa pb : BitVec 4) (ra rb : BitVec 6) (cc : BitVec 3) (ci o : BitVec 2) (imm : BitVec 12) (wide : BitVec 18)

theorem compareBranches_branchOp : ∀ p ∈ compareBranches ra rb imm, ∃ cc, exec p.1 = branchOp p.1 cc ra rb imm := by
  simp only [compareBranches, List.forall_mem_cons, List.not_mem_nil, false_implies, implies_true, and_true]
  and_intros <;> exact ⟨_, rfl⟩

variable {i : Instr} {s : State}

/-- The branches and jmp change the PC alone. -/
theorem branches_retire (hi : i ∈ [.bt pd imm, .bf pd imm, .jmp wide] ++ (compareBranches ra rb imm).map (·.1))
    (h : s.runs i = true) (hra : ra.toNat < 32) (hrb : rb.toNat < 32) : ∃ pc, exec i s = .next (s.retiredTo i s.me pc) := by
  rw [List.mem_append] at hi
  obtain hi | hi := hi
  · simp only [List.mem_cons, List.not_mem_nil, or_false] at hi
    obtain rfl | rfl | rfl := hi
    · exact ⟨_, exec_bt h⟩
    · exact ⟨_, exec_bf h⟩
    · exact ⟨_, exec_of_issue rfl h (done_noted h _)⟩
  · obtain ⟨p, hp, rfl⟩ := List.mem_map.1 hi
    obtain ⟨cc, hcc⟩ := compareBranches_branchOp ra rb imm p hp
    exact hcc ▸ branchOp_general h hra hrb

/-- cmp, cmpi and pl write a predicate and retire to the next word. -/
theorem compares_write (hi : i ∈ [.cmp pd ra rb cc, .cmpi ci pd ra imm, .pl pd pa pb o]) (h : s.runs i = true)
    (hra : ra.toNat < 32) (hrb : rb.toNat < 32) : ∃ b, exec i s = .next (s.retired i (s.me.writePred pd.toNat b)) := by
  simp only [List.mem_cons, List.not_mem_nil, or_false] at hi
  obtain rfl | rfl | rfl := hi
  · exact ⟨_, exec_of_issue rfl h ((read2_general hra hrb _).trans (writePredNext_noted h _ _))⟩
  · exact ⟨_, exec_of_issue rfl h ((read1_general hra _).trans (writePredNext_noted h _ _))⟩
  · exact ⟨_, exec_of_issue rfl h (writePredNext_noted h _ _)⟩

end

theorem predicateFrame : Claims.PredicateFrame := by
  intro pd pa pb ra rb cc ci o imm wide i s hra hrb h hi
  have hs : s.slot < 8 := State.runs_slot h
  have branches (hi : i ∈ [.bt pd imm, .bf pd imm, .jmp wide] ++ (compareBranches ra rb imm).map (·.1)) :=
    branches_retire pd ra rb imm wide hi h hra hrb
  by_cases hb : i ∈ [.bt pd imm, .bf pd imm, .jmp wide] ++ (compareBranches ra rb imm).map (·.1)
  · obtain ⟨pc, hpc⟩ := branches hb
    refine ⟨_, hpc, onlyRegisters_retiredTo hs rfl, ?_⟩
    rw [me_retiredTo hs]
    unfold Slot.noting Slot.movedTo
    exact ⟨rfl, rfl, rfl, rfl, rfl, rfl, rfl, fun n _ => Slot.predicate_congr rfl n, fun _ => rfl⟩
  · have hc : i ∈ [.cmp pd ra rb cc, .cmpi ci pd ra imm, .pl pd pa pb o] := by
      simp only [List.mem_append, List.mem_cons, List.not_mem_nil, or_false] at hi hb ⊢
      tauto
    obtain ⟨b, hv⟩ := compares_write pd pa pb ra rb cc ci o imm hc h hra hrb
    refine ⟨_, hv, onlyRegisters_retiredTo hs (Slot.registersOf_writePred s.me pd.toNat b), ?_⟩
    rw [State.retired, me_retiredTo hs]
    have hrest : ∀ n, n ≠ pd.toNat → (s.me.writePred pd.toNat b).predicate n = s.me.predicate n :=
      fun n hn => Slot.predicate_writePred_other s.me b hn
    obtain ⟨p, hp⟩ := Slot.writePred_eq s.me pd.toNat b
    rw [hp] at hrest ⊢
    unfold Slot.noting Slot.movedTo
    exact ⟨rfl, rfl, rfl, rfl, rfl, rfl, rfl, fun n hn => (Slot.predicate_congr rfl n).trans (hrest n hn), fun hi => absurd hi hb⟩

/-- Settles O38: each of the instructions retires with one register, or one predicate, or the PC alone changed. -/
theorem scalarFrames : Obligations.ScalarFrames := ⟨registerFrame, predicateFrame⟩

end Sys2Proof.Machine

end

section

namespace Sys2Proof.Machine
open Claims

/-! ## Changes of slots alone -/

/-- Of `t`, the cores differ from those of `s` in their slots alone, and of each slot `π` is kept. -/
structure State.KeepsOf {α : Type} (π : Slot → α) (s t : State) : Prop where
  core : t.core = s.core
  slot : t.slot = s.slot
  cores : ∀ d, t.coreOf d = { s.coreOf d with slots := (t.coreOf d).slots }
  slots : ∀ d j, π (t.slotOf d j) = π (s.slotOf d j)

section
variable {α β : Type} {π : Slot → α} {s t u : State} {c k : Nat} {f : Slot → Slot}

theorem State.KeepsOf.refl (π : Slot → α) (s : State) : s.KeepsOf π s := ⟨rfl, rfl, fun _ => rfl, fun _ _ => rfl⟩

theorem State.KeepsOf.trans (h : s.KeepsOf π t) (h' : t.KeepsOf π u) : s.KeepsOf π u :=
  ⟨h'.core.trans h.core, h'.slot.trans h.slot, fun d => (h'.cores d).trans (by rw [h.cores d]),
    fun d j => (h'.slots d j).trans (h.slots d j)⟩

theorem State.KeepsOf.map (g : α → β) (h : s.KeepsOf π t) : s.KeepsOf (fun x => g (π x)) t :=
  ⟨h.core, h.slot, h.cores, fun d j => congrArg g (h.slots d j)⟩

theorem State.KeepsOf.modSlot (hf : π (f (s.slotOf c k)) = π (s.slotOf c k)) : s.KeepsOf π (s.modSlot c k f) := by
  refine ⟨rfl, rfl, fun d => ?_, fun d j => ?_⟩
  · rw [State.modSlot, State.setSlot, State.coreOf_modCore]
    split <;> rfl
  · rw [State.modSlot, State.slotOf_setSlot]
    split
    next h =>
      obtain ⟨rfl, rfl, -⟩ := h
      exact hf
    next => rfl

theorem State.KeepsOf.setErr (π : Slot → α) (s : State) (lid : BitVec 32) (bit : Nat) : s.KeepsOf π (setErr s lid bit) :=
  ⟨rfl, rfl, fun _ => rfl, fun _ _ => rfl⟩

theorem State.KeepsOf.foldl {γ : Type} {g : State → γ → State} {l : List γ} (hg : ∀ a, ∀ s : State, s.KeepsOf π (g s a))
    (s : State) : s.KeepsOf π (l.foldl g s) := by
  induction l generalizing s with
  | nil => exact .refl π s
  | cons a l ih => exact (hg a s).trans (ih _)

end

/-! ## Ports -/

/-- A slot's own ports, and with its operand latch. -/
def Slot.ports (x : Slot) : List Elem × Vector (List Elem) 8 := (x.q0, x.qe)
def Slot.queues (x : Slot) : (List Elem × Vector (List Elem) 8) × List Elem := (x.ports, x.latch)

section
variable {s t : State} {c k port : Nat} {l : List Elem}

theorem portGet_congr (hslot : (t.slotOf c k).ports = (s.slotOf c k).ports) (h1 : (t.coreOf c).q1 = (s.coreOf c).q1)
    (hi : (t.coreOf c).qi = (s.coreOf c).qi) : portGet t c k port = portGet s c k port := by
  obtain ⟨h0, he⟩ := Prod.mk.inj hslot
  rw [portGet, portGet, h0, he, h1, hi]

theorem State.KeepsOf.portGet (h : s.KeepsOf Slot.ports t) (c k port : Nat) : portGet t c k port = portGet s c k port :=
  portGet_congr (h.slots c k) (by rw [h.cores c]) (by rw [h.cores c])

theorem portGet_portSet (hk : k < 8) (hp : port < 16) : portGet (portSet s c k port l) c k port = l := by
  unfold portSet portGet
  split_ifs with h0 h1 h8
  · rw [State.slotOf_modSlot_self _ _ _ _ hk]
  · rw [State.coreOf_modCore, if_pos rfl]
  · rw [State.coreOf_modCore, if_pos rfl]
    exact vget_vset_self _ _ _ _ (by omega)
  · rw [State.slotOf_modSlot_self _ _ _ _ hk]
    exact vget_vset_self _ _ _ _ (by omega)

theorem portSet_core (s : State) (c k port : Nat) (l : List Elem) : (portSet s c k port l).core = s.core := by
  unfold portSet; split_ifs <;> rfl

theorem portSet_slot (s : State) (c k port : Nat) (l : List Elem) : (portSet s c k port l).slot = s.slot := by
  unfold portSet; split_ifs <;> rfl

/-- A port's content is set in a core's queues or in the slot's own. -/
theorem portSet_coreOf (s : State) (c k port : Nat) (l : List Elem) (d : Nat) :
    (portSet s c k port l).coreOf d = { s.coreOf d with
      slots := ((portSet s c k port l).coreOf d).slots, q1 := ((portSet s c k port l).coreOf d).q1
      qi := ((portSet s c k port l).coreOf d).qi } := by
  have modCore {f : Core → Core} (hf : ∀ r, f r = { r with slots := (f r).slots, q1 := (f r).q1, qi := (f r).qi }) :
      (s.modCore c f).coreOf d = { s.coreOf d with
        slots := ((s.modCore c f).coreOf d).slots, q1 := ((s.modCore c f).coreOf d).q1
        qi := ((s.modCore c f).coreOf d).qi } := by
    rw [State.coreOf_modCore]
    split
    · exact hf _
    · rfl
  unfold portSet
  split_ifs
  all_goals exact modCore fun _ => rfl

/-- A change of a core beside its slots. -/
theorem slotOf_modCore_slots {s : State} {c : Nat} {f : Core → Core} (hf : ∀ r, (f r).slots = r.slots) (d j : Nat) :
    (s.modCore c f).slotOf d j = s.slotOf d j := by
  rw [State.slotOf, State.coreOf_modCore]
  split
  · rw [hf]; rfl
  · rfl

theorem portSet_slotOf (s : State) (c k port : Nat) (l : List Elem) (d j : Nat) :
    (portSet s c k port l).slotOf d j = { s.slotOf d j with
      q0 := ((portSet s c k port l).slotOf d j).q0, qe := ((portSet s c k port l).slotOf d j).qe } := by
  have modSlot {f : Slot → Slot} (hf : ∀ x, f x = { x with q0 := (f x).q0, qe := (f x).qe }) :
      (s.modSlot c k f).slotOf d j = { s.slotOf d j with
        q0 := ((s.modSlot c k f).slotOf d j).q0, qe := ((s.modSlot c k f).slotOf d j).qe } := by
    rw [State.modSlot, State.slotOf_setSlot]
    split
    next h =>
      obtain ⟨rfl, rfl, -⟩ := h
      exact hf _
    next => rfl
  have modCore {f : Core → Core} (hf : ∀ r, (f r).slots = r.slots) : (s.modCore c f).slotOf d j = { s.slotOf d j with
      q0 := ((s.modCore c f).slotOf d j).q0, qe := ((s.modCore c f).slotOf d j).qe } := by
    rw [slotOf_modCore_slots hf]
  unfold portSet
  split_ifs
  · exact modSlot fun _ => rfl
  · exact modCore fun _ => rfl
  · exact modCore fun _ => rfl
  · exact modSlot fun _ => rfl

end

/-! ## What freed places and received elements do to slots -/

theorem makeRunnable_queues (s : State) (c k : Nat) : s.KeepsOf Slot.queues (makeRunnable s c k) := by
  refine .modSlot ?_
  dsimp only
  split
  · rfl
  · split <;> rfl

theorem consumeIf_queues (s : State) (c k : Nat) (p : Bool) : s.KeepsOf Slot.queues (consumeIf s c k p) := by
  unfold consumeIf consumePoison
  split
  · exact (State.KeepsOf.modSlot rfl).trans (.setErr _ _ _ _)
  · exact .refl _ s

theorem receive_queues (s : State) (c k : Nat) (e : Elem) : s.KeepsOf Slot.queues (receive s c k e) := by
  unfold receive
  dsimp only
  split
  · exact (State.KeepsOf.modSlot rfl).trans (consumeIf_queues _ c k _)
  · exact consumeIf_queues s c k _

theorem wakePusher_queues (s : State) (c k port : Nat) : s.KeepsOf Slot.queues (wakePusher s c k port) := by
  unfold wakePusher
  split
  · exact .refl _ s
  · split
    · dsimp only
      have hmid (j : Nat) : s.KeepsOf Slot.queues (s.modSlot c j fun x => { x with midway := true }) := .modSlot rfl
      split
      · exact (hmid _).trans (.modSlot rfl)
      · exact (hmid _).trans (makeRunnable_queues _ c _)
    · exact .refl _ s

theorem unparkOne_ports (s : State) (c k : Nat) : s.KeepsOf Slot.ports (unparkOne s c k) := by
  unfold unparkOne
  split
  · refine .modSlot ?_
    unfold retireSlot
    dsimp only
    split
    · rfl
    · split <;> rfl
  · exact (State.KeepsOf.modSlot rfl).trans ((makeRunnable_queues _ c k).map Prod.fst)
  · exact (makeRunnable_queues s c k).map Prod.fst

theorem unpark_ports (s : State) (c k : Nat) : s.KeepsOf Slot.ports (unpark s c k) :=
  .foldl (fun j s => by
    split
    · exact unparkOne_ports s c j
    · exact .refl _ s) s

/-! ## Sources -/

section
variable {s : State} {port cur : Nat}

/-- The state in which a popped element stands in the latch and its place is free. -/
def afterPop (s : State) (port : Nat) (e : Elem) (rest : List Elem) : State :=
  let s := portSet s s.core s.slot port rest
  let s := receive (keepRead s e) s.core s.slot e
  placeFreed s s.core s.slot port

theorem popPort_latched (h : cur < s.me.latch.length) : popPort port cur s = .go (s.me.latch[cur].val, cur + 1) s := by
  rw [popPort, dif_pos h]

theorem popPort_cons (hpair : s.me.pair = .alone) (hcur : s.me.latch.length ≤ cur) {e : Elem} {rest : List Elem}
    (hport : portGet s s.core s.slot port = e :: rest) : popPort port cur s = .go (e.val, cur + 1) (afterPop s port e rest) := by
  simp only [popPort, valueQueueFull, hpair, hport]
  rw [dif_neg (by omega)]
  rfl

theorem popPort_nil (hpair : s.me.pair = .alone) (hcur : s.me.latch.length ≤ cur) (hfree : s.me.reservation = .free)
    (hport : portGet s s.core s.slot port = []) : popPort port cur s = .stop (leaveRotation
      (s.modCore s.core fun r => { r with poppers := r.poppers ++ [(port, s.slot)] }) s.core s.slot
      (if port < 8 then .memoryWait else .engineWait) (.pop port)) := by
  have hslot := slotOf_modCore_slots (s := s) (c := s.core) (f := fun r => { r with poppers := r.poppers ++ [(port, s.slot)] })
    (fun _ => rfl) s.core s.slot
  have hended := endReservation_free ((congrArg Slot.reservation hslot).trans hfree)
  simp only [popPort, valueQueueFull, hpair, hport, State.modCore_core, State.modCore_slot, hended]
  rw [dif_neg (by omega)]
  rfl

theorem keepRead_alone (hs : s.slot < 8) (h : s.me.pair = .alone) (e : Elem) : keepRead s e = keepLatch s e :=
  handOn_alone (by rw [keepLatch, State.me_modMe _ _ hs]; exact h) e

theorem keepLatch_ports (s : State) (e : Elem) : s.KeepsOf Slot.ports (keepLatch s e) := by
  unfold keepLatch State.modMe
  exact .modSlot rfl

theorem keepLatch_latch (hs : s.slot < 8) (e : Elem) : (keepLatch s e).me.latch = s.me.latch ++ [e] := by
  rw [keepLatch, State.me_modMe _ _ hs]

/-- The latch keeps the popped element, and the port holds the rest. -/
theorem afterPop_port {e : Elem} {rest : List Elem} (hs : s.slot < 8) (hpair : s.me.pair = .alone) (hp : port < 16)
    (hdef : ((s.coreOf s.core).deferred.any fun d => d.1 == s.slot) = false) :
    portGet (afterPop s port e rest) s.core s.slot port = rest ∧ (afterPop s port e rest).me.latch = s.me.latch ++ [e] := by
  have hcore := portSet_core s s.core s.slot port rest
  have hslot := portSet_slot s s.core s.slot port rest
  have hget : portGet (portSet s s.core s.slot port rest) s.core s.slot port = rest := portGet_portSet hs hp
  have hme : (portSet s s.core s.slot port rest).me = (portSet s s.core s.slot port rest).slotOf s.core s.slot := by
    rw [State.me, hcore, hslot]
  have hslotOf := portSet_slotOf s s.core s.slot port rest s.core s.slot
  have hcoreOf := portSet_coreOf s s.core s.slot port rest s.core
  unfold afterPop
  dsimp only
  generalize portSet s s.core s.slot port rest = u at *
  rw [hcore, hslot]
  have hlatch : u.me.latch = s.me.latch := by rw [hme, hslotOf]; rfl
  have hkeep : keepRead u e = keepLatch u e := keepRead_alone (hslot ▸ hs) (by rw [hme, hslotOf]; exact hpair) e
  have hkept := keepLatch_ports u e
  have hkeptLatch := keepLatch_latch (hslot ▸ hs : u.slot < 8) e
  have hrec := receive_queues (keepLatch u e) s.core s.slot e
  rw [hkeep]
  generalize hv : receive (keepLatch u e) s.core s.slot e = v at *
  have hdefv : (port == 0 && (v.coreOf v.core).deferred.any fun d => d.1 == v.slot) = false := by
    rw [hrec.core, hrec.slot, hrec.cores, hkept.core, hkept.slot, hkept.cores, hcore, hslot, hcoreOf]
    simp only [hdef, Bool.and_false]
  have hwake := wakePusher_queues v v.core v.slot port
  rw [placeFreed, hdefv, if_neg Bool.false_ne_true]
  constructor
  · have hports : u.KeepsOf Slot.ports (wakePusher v v.core v.slot port) :=
      hkept.trans ((hrec.trans hwake).map Prod.fst)
    exact (hports.portGet _ _ _).trans hget
  · have hall := hrec.trans hwake
    rw [State.me, hall.core, hall.slot]
    exact (Prod.mk.inj (hall.slots _ _)).2.trans (hkeptLatch.trans (by rw [hlatch]))

end

theorem sourceForms : Claims.SourceForms := by
  intro f cur s hs hpair
  refine ⟨fun h => readField_general h cur s, rfl, fun h => ?_, fun h32 h48 h => ?_, fun h32 h48 hcur => ⟨fun e rest hport hdef => ?_,
    fun hport hfree => ?_⟩⟩
  · rw [readField, if_neg (by omega), if_neg (by omega), if_neg (by simp [hpair])]
  · rw [readField, if_neg (by omega), if_pos h48, popPort_latched h]
  · rw [readField, if_neg (by omega), if_pos h48, popPort_cons hpair hcur hport]
    exact ⟨_, rfl, afterPop_port hs hpair (by omega) hdef⟩
  · rw [readField, if_neg (by omega), if_pos h48, popPort_nil hpair hcur hfree hport]

/-! ## Destinations -/

section
variable {s before : State} {x : Slot} {f : BitVec 6} {v : Word}

theorem writeNext_context (hf : 48 ≤ f.toNat) (hs : s.slot < 8) (hx : x.steady = true) (hok : ctxRefuses (f.toNat - 48) v = false) :
    writeNext f v before (s.setMe x) = s.setMe ((x.ctxWrite (f.toNat - 48) v).movedTo (x.pc + 4)) := by
  rw [writeNext, writeTo, if_neg (by omega), if_neg (by omega), hok, if_neg Bool.false_ne_true, State.modMe_setMe _ _ _ hs,
    State.me_setMe _ _ hs, done_setMe hs (by simpa using hx)]

theorem writeNext_refused (hf : 48 ≤ f.toNat) (hno : ctxRefuses (f.toNat - 48) v = true) (t : State) :
    writeNext f v before t = trapHere before .illegalOperand := by
  rw [writeNext, writeTo, if_neg (by omega), if_neg (by omega), if_pos hno]

theorem writeNext_port (h32 : 32 ≤ f.toNat) (h48 : f.toNat < 48) (hs : s.slot < 8) (hx : x.pair = .alone) :
    writeNext f v before (s.setMe x) = pushResult (f.toNat - 32) v (x.pc + 4) (s.setMe x) := by
  rw [writeNext, writeTo, if_neg (by omega), if_pos h48, State.me_setMe _ _ hs, hx]
  rfl

theorem me_pushLater (s : State) (port : Nat) (e : Elem) : (pushLater s port e).me = s.me := me_modCore fun _ => rfl

/-- A push to a port with a free place is on its way. -/
theorem pushResult_free {port : Nat} (hs : s.slot < 8) (hfree : freePlaces (s.setMe x) s.core s.slot port ≠ 0) :
    pushResult port v (x.pc + 4) (s.setMe x) = doneNext ((s.setMe x).modCore s.core fun r =>
      { r with arriving := r.arriving ++ [⟨max r.cycle.toNat (x.last.toNat + 3), s.slot, port, ⟨v, false, false⟩⟩] }) := by
  have hpush : pushLater (s.setMe x) port ⟨v, false, false⟩ = (s.setMe x).modCore s.core fun r =>
      { r with arriving := r.arriving ++ [⟨max r.cycle.toNat (x.last.toNat + 3), s.slot, port, ⟨v, false, false⟩⟩] } := by
    refine modCore_congr ?_
    rw [pushCycle, State.me_setMe _ _ hs]
    rfl
  rw [← hpush, doneNext, me_pushLater, State.me_setMe _ _ hs]
  exact if_neg hfree

/-- The slot has the push pending and is the last of the port's pushers. -/
def State.pushPending (s : State) (x : Slot) (port : Nat) (p : PendingPush) : State :=
  (s.setMe { x with push := some p }).modCore s.core fun r => { r with pushers := r.pushers ++ [(port, s.slot)] }

theorem State.slotOf_pushPending {port : Nat} {p : PendingPush} (hs : s.slot < 8) :
    (s.pushPending x port p).slotOf s.core s.slot = { x with push := some p } :=
  (slotOf_modCore_slots (s := s.setMe { x with push := some p }) (c := s.core)
    (f := fun r => { r with pushers := r.pushers ++ [(port, s.slot)] }) (fun _ => rfl) s.core s.slot).trans (State.me_setMe s _ hs)

theorem State.coreOf_pushPending_pushers {port : Nat} {p : PendingPush} :
    ((s.pushPending x port p).coreOf s.core).pushers = (s.coreOf s.core).pushers ++ [(port, s.slot)] := by
  rw [State.pushPending, State.coreOf_modCore, if_pos rfl, State.setMe, State.coreOf_setSlot_pushers]

theorem pushResult_full {port : Nat} (hs : s.slot < 8) (hfull : freePlaces (s.setMe x) s.core s.slot port = 0)
    (hres : x.reservation = .free) :
    pushResult port v (x.pc + 4) (s.setMe x) = leaveRotation (s.pushPending x port ⟨port, ⟨v, false, false⟩, x.pc + 4⟩) s.core s.slot
      (if port < 8 then .memoryWait else .engineWait) (.push port) := by
  have hended := endReservation_free ((congrArg Slot.reservation
    (State.slotOf_pushPending (x := x) (port := port) (p := ⟨port, ⟨v, false, false⟩, x.pc + 4⟩) hs)).trans hres)
  simp only [pushResult, State.setMe_core, State.setMe_slot, if_pos hfull, State.modMe_setMe _ _ _ hs, State.modCore_core,
    State.modCore_slot]
  rw [State.pushPending] at hended ⊢
  rw [hended]
  rfl

theorem slotOf_leaveRotation {t : State} {c k : Nat} {st : Status} {w : Wait} (hk : k < 8) :
    (leaveRotation t c k st w).slotOf c k = { t.slotOf c k with status := st, wait := w, reply := none } :=
  State.slotOf_modSlot_self t c k (fun x => { x with status := st, wait := w, reply := none }) hk

/-- A slot whose push waits for a place. -/
theorem pushPending_waits {port : Nat} {p : PendingPush} {st : Status} (hs : s.slot < 8) :
    let t := leaveRotation (s.pushPending x port p) s.core s.slot st (.push port)
    t.me.push = some p ∧ t.me.pc = x.pc ∧ t.me.wait = .push port ∧ t.me.status = st ∧
      (t.coreOf s.core).pushers = (s.coreOf s.core).pushers ++ [(port, s.slot)] := by
  have hme : (leaveRotation (s.pushPending x port p) s.core s.slot st (.push port)).me =
      { x with push := some p, status := st, wait := .push port, reply := none } := by
    rw [show (leaveRotation (s.pushPending x port p) s.core s.slot st (.push port)).me = State.slotOf _ s.core s.slot from rfl,
      slotOf_leaveRotation hs, State.slotOf_pushPending hs]
  dsimp only
  rw [hme, leaveRotation, State.coreOf_modSlot_pushers, State.coreOf_pushPending_pushers]
  exact ⟨rfl, rfl, rfl, rfl, rfl⟩

end

/-! ## A push lands -/

theorem slotOf_modSlot_of {P : Slot → Prop} {s : State} {c k d j : Nat} {f : Slot → Slot} (h : P (s.slotOf d j))
    (hf : ∀ x, P x → P (f x)) : P ((s.modSlot c k f).slotOf d j) := by
  rw [State.modSlot, State.slotOf_setSlot]
  split
  next hj =>
    obtain ⟨rfl, rfl, -⟩ := hj
    exact hf _ h
  next => exact h

theorem returnAt_ite {p : Prop} [Decidable p] {x y : Slot} (hx : x.returnAt = none) (hy : y.returnAt = none) :
    (if p then x else y).returnAt = none := by
  split
  · exact hx
  · exact hy

theorem makeRunnable_returnAt {s : State} {d j : Nat} (h : (s.slotOf d j).returnAt = none) (c k : Nat) :
    ((makeRunnable s c k).slotOf d j).returnAt = none := by
  unfold makeRunnable
  refine slotOf_modSlot_of (P := fun x => x.returnAt = none) h fun x _ => ?_
  exact returnAt_ite rfl (returnAt_ite rfl rfl)

theorem retireSlot_returnAt (x : Slot) (pc : Word) : (retireSlot x pc).returnAt = none := by
  unfold retireSlot
  exact returnAt_ite rfl (returnAt_ite rfl rfl)

theorem unparkOne_returnAt {s : State} {d j : Nat} (h : (s.slotOf d j).returnAt = none) (c k : Nat) :
    ((unparkOne s c k).slotOf d j).returnAt = none := by
  unfold unparkOne
  split
  · exact slotOf_modSlot_of (P := fun x => x.returnAt = none) h
      (f := fun x => retireSlot { x with park := .free } (x.pc + 4)) fun x _ => retireSlot_returnAt { x with park := .free } (x.pc + 4)
  · refine makeRunnable_returnAt ?_ c k
    exact slotOf_modSlot_of (P := fun x => x.returnAt = none) h (f := fun x => { x with midway := true }) fun x hx => hx
  · exact makeRunnable_returnAt h c k

theorem unpark_returnAt {s : State} {d j : Nat} (h : (s.slotOf d j).returnAt = none) (c k : Nat) :
    ((unpark s c k).slotOf d j).returnAt = none := by
  unfold unpark
  generalize actsOn s c k = l
  induction l generalizing s with
  | nil => exact h
  | cons i l ih =>
    refine ih ?_
    dsimp only
    split
    · exact unparkOne_returnAt h c i
    · exact h

section
variable {s : State} {c k port : Nat} {e : Elem}

/-- An element for which nobody waits joins the port, and may wake a slot parked for its q0. -/
theorem portArrive_noPoppers (h : (s.coreOf c).poppers = []) :
    portArrive s c k port e = portSet s c k port (portGet s c k port ++ [e]) ∨
      portArrive s c k port e = unpark (portSet s c k port (portGet s c k port ++ [e])) c k := by
  unfold portArrive
  rw [h]
  dsimp only [List.find?_nil]
  split
  · split
    · exact .inr rfl
    · exact .inl rfl
  · exact .inl rfl

theorem landPushes_one {a : Arriving} {p : Arriving → Bool} (h : (s.coreOf c).arriving = [a]) (ha : p a = true) :
    landPushes s c p = portArrive (s.modCore c fun r => { r with arriving := r.arriving.filter fun a => !p a }) c a.slot a.port
      a.elem := by
  rw [landPushes, h]
  simp [ha]

theorem vget_map {α β : Type} {n : Nat} (v : Vector α n) (f : α → β) (d : α) (k : Nat) : vget (v.map f) (f d) k = f (vget v d k) := by
  simp only [vget, Vector.toList_map, List.getD_eq_getElem?_getD, List.getElem?_map]
  cases v.toList[k]? <;> rfl

theorem refusedOnce_slotOf (s : State) (p : Nat) (x : Nat × Engine × Cmd) (d j : Nat) :
    (refusedOnce s p x).slotOf d j = s.slotOf d j := by
  unfold refusedOnce
  split
  · exact slotOf_modCore_slots (fun r => by cases x.2.1 <;> rfl) d j
  · rfl

theorem ageRequests_slotOf (s : State) (c d j : Nat) : (ageRequests s c).slotOf d j = s.slotOf d j := by
  have hfold (l : List (Nat × Engine × Cmd)) (s : State) :
      (l.foldl (fun s x => refusedOnce s c x) s).slotOf d j = s.slotOf d j := by
    induction l generalizing s with
    | nil => rfl
    | cons x l ih => exact (ih _).trans (refusedOnce_slotOf s c x d j)
  have hflights (t : State) (l : List Flight) : State.slotOf { t with flights := l } d j = t.slotOf d j := rfl
  rw [← hfold (bankers s c) s]
  unfold ageRequests
  dsimp only
  generalize (bankers s c).foldl (fun s x => refusedOnce s c x) s = t
  exact (slotOf_modCore_slots (s := { t with flights := _ }) (f := fun r => { r with bankTurns := 0, scrubWait := _, bufs := _ })
    (fun _ => rfl) d j).trans (hflights t _)

/-- A slot of the core as the cycle begins. -/
theorem enterCycle_slotOf (s : State) (c j : Nat) (n : Word) :
    (enterCycle s c n).slotOf c j = activateBy n.toNat (s.slotOf c j) := by
  rw [← ageRequests_slotOf s c, enterCycle]
  rw [State.slotOf, State.coreOf_clock, State.coreOf_modCore, if_pos rfl]
  exact vget_map _ (activateBy n.toNat) Slot.blank j

theorem activateBy_returnAt (n : Nat) (x : Slot) : (activateBy n x).returnAt = x.returnAt := by
  unfold activateBy
  split
  · dsimp only; split <;> rfl
  · rfl

theorem returnDue_none (h : (s.slotOf c k).returnAt = none) : returnDue s c k = s := by
  unfold returnDue
  rw [h]
  split
  next he => cases he
  next => rfl

theorem returnsDue_none {l : List Nat} (h : ∀ k ∈ l, (s.slotOf c k).returnAt = none) :
    l.foldl (fun s k => returnDue s c k) s = s := by
  induction l with
  | nil => rfl
  | cons k l ih =>
    rw [List.foldl_cons, returnDue_none (h k (List.mem_cons_self ..)), ih fun j hj => h j (List.mem_cons_of_mem _ hj)]

theorem cycleIssue_port (u : State) (c k port : Nat) : portGet (cycleIssue u c) c k port = portGet u c k port := by
  obtain ⟨_, _, hslot⟩ := cycleIssue_slotOf u c k
  have hcore := (cycleIssue_coreOf u c c).1.1
  exact portGet_congr (by rw [hslot]; rfl) (by rw [hcore]) (by rw [hcore])

theorem State.BeginKeeps.portGet {t : State} (h : s.BeginKeeps c t) (k port : Nat) :
    portGet t c k port = Machine.portGet s c k port := by
  have hcore := (h.cores c).1
  exact portGet_congr (by rw [show t.slotOf c k = _ from h.slots k]; rfl) (by rw [hcore]) (by rw [hcore])

/-- The only element in the pipeline stands in its port when it is due, and nothing else has been pushed. -/
theorem landed_port {s : State} {c : Nat} {a : Arriving} {p : Arriving → Bool} (hslot : a.slot < 8) (hport : a.port < 16)
    (harr : (s.coreOf c).arriving = [a]) (hpop : (s.coreOf c).poppers = []) (ha : p a = true) :
    ((landPushes s c p).coreOf c).arriving = [] ∧
      portGet (landPushes s c p) c a.slot a.port = portGet s c a.slot a.port ++ [a.elem] ∧
      ∀ j, (s.slotOf c j).returnAt = none → ((landPushes s c p).slotOf c j).returnAt = none := by
  rw [landPushes_one harr ha]
  have hslots := slotOf_modCore_slots (s := s) (c := c)
    (f := fun r => { r with arriving := r.arriving.filter fun a => !p a }) (fun _ => rfl) c
  have hcores : (s.modCore c fun r => { r with arriving := r.arriving.filter fun a => !p a }).coreOf c =
      { s.coreOf c with arriving := [] } := by
    rw [State.coreOf_modCore, if_pos rfl, harr]
    simp [ha]
  generalize (s.modCore c fun r => { r with arriving := r.arriving.filter fun a => !p a }) = u at hslots hcores ⊢
  have hget : portGet u c a.slot a.port = portGet s c a.slot a.port := portGet_congr (by rw [hslots]) (by rw [hcores]) (by rw [hcores])
  rw [← hget]
  have hset := portSet_coreOf u c a.slot a.port (portGet u c a.slot a.port ++ [a.elem]) c
  have hsetSlot := portSet_slotOf u c a.slot a.port (portGet u c a.slot a.port ++ [a.elem]) c
  have hself : portGet (portSet u c a.slot a.port (portGet u c a.slot a.port ++ [a.elem])) c a.slot a.port =
      portGet u c a.slot a.port ++ [a.elem] := portGet_portSet hslot hport
  have hlanded := portArrive_noPoppers (s := u) (c := c) (k := a.slot) (port := a.port) (e := a.elem) (by rw [hcores]; exact hpop)
  generalize portSet u c a.slot a.port (portGet u c a.slot a.port ++ [a.elem]) = w at *
  have harrw : (w.coreOf c).arriving = [] := by rw [hset, hcores]
  have hretw (j : Nat) (hj : (s.slotOf c j).returnAt = none) : (w.slotOf c j).returnAt = none := by rw [hsetSlot, hslots]; exact hj
  obtain h | h := hlanded
  · rw [h]
    exact ⟨harrw, hself, hretw⟩
  · rw [h]
    have hkeeps := unpark_ports w c a.slot
    exact ⟨by rw [hkeeps.cores]; exact harrw, (hkeeps.portGet ..).trans hself, fun j hj => unpark_returnAt (hretw j hj) c a.slot⟩

/-- A push that is due stands at its port's tail in the core's next cycle. -/
theorem coreCycle_lands {s : State} {c : Nat} {a : Arriving} (hc : c < 1280) (hslot : a.slot < 8) (hport : a.port < 16)
    (harr : (s.coreOf c).arriving = [a]) (hpop : (s.coreOf c).poppers = []) (hret : ∀ k, k < 8 → (s.slotOf c k).returnAt = none)
    (hdue : a.due < ((s.coreOf c).cycle + 1).toNat) : ∃ t, exec (.coreCycle c) s = .next t ∧ (t.coreOf c).arriving = [] ∧
      portGet t c a.slot a.port = portGet s c a.slot a.port ++ [a.elem] := by
  have hexec := exec_coreCycle hc s
  obtain ⟨hempty, hget, hreturn⟩ := landed_port (p := fun a => decide (a.due < ((s.coreOf c).cycle + 1).toNat)) hslot hport harr hpop
    (decide_eq_true hdue)
  rw [beginCycle_eq] at hexec
  generalize (landPushes s c fun a => decide (a.due < ((s.coreOf c).cycle + 1).toNat)) = u at *
  rw [returnsDue_none fun k hk => by
    rw [enterCycle_slotOf, activateBy_returnAt]
    exact hreturn k (hret k (List.mem_range.1 hk))] at hexec
  have hkeeps := enterCycle_keeps u c ((s.coreOf c).cycle + 1)
  refine ⟨_, hexec, ?_, (cycleIssue_port ..).trans ((hkeeps.portGet ..).trans hget)⟩
  rw [(cycleIssue_coreOf _ c c).1.1, (hkeeps.cores c).1]
  exact hempty

end

theorem destinationForms : Claims.DestinationForms := by
  intro f v s before x hs hx
  obtain ⟨_, _, _, _, _, _, hpair, _⟩ := Slot.steady_fields hx
  refine ⟨fun h => writeNext_general h hs hx v before, if_pos rfl, fun h hok => writeNext_context h hs hx hok,
    fun h hno => writeNext_refused h hno _, fun h32 h48 hfree => ?_, fun c a hc hslot hport harr hpop hret hdue =>
    coreCycle_lands hc hslot hport harr hpop hret hdue, fun h32 h48 hfull hres => ⟨_, rfl, ?_⟩⟩
  · rw [writeNext_port h32 h48 hs hpair, pushResult_free hs hfree]
  · rw [writeNext_port h32 h48 hs hpair, pushResult_full hs hfull hres]
    exact pushPending_waits hs

/-- Settles O37, form by form: a source that is popped leaves its port, and a push that is due joins it. -/
theorem operandForms : Obligations.OperandForms := ⟨sourceForms, destinationForms⟩

end Sys2Proof.Machine

end

section

namespace Sys2Proof.Machine
open Claims

/-! ## A store of no bytes

Obligation O40 lets a request at its home have any width that its line holds, zero included. For a store of no bytes at byte
0 of a line, `lineMerge` names bits 0 to `8 * 0 - 1`, which is 0 in the natural numbers, and so replaces bit 0. -/

def emptyStore : Flight := { core := 0, slot := 1, kind := .store, target := .home 0 .homed, n := 0, data := 1 }

def emptyStoreLine : HomeLine := ⟨0x1234, false, false, []⟩

/-- The store of no bytes at the home of line 0, which is held; the thread in slot 1 of core 0 waits for its reply. -/
def emptyStoreAtHome : State :=
  let s := State.reset.modSlot 0 1 fun x => { x with status := .memoryWait, wait := .reply none false }
  { s with flights := [emptyStore], homes := s.homes.set 0 emptyStoreLine }

/-- Byte 0 of line 0 as its home holds it. -/
def homeByte (s : State) : Option (BitVec 8) := (s.homes.find? 0).map fun l => l.data.extractLsb' 0 8

/-- The store of no bytes changes byte 0 of the line. -/
theorem homeByte_emptyStore {t : State} (h : exec (.homeAccess 0) emptyStoreAtHome = .next t) : homeByte t = some 0x35 := by
  have hbyte : homeByte (match exec (.homeAccess 0) emptyStoreAtHome with | .next t => t | _ => emptyStoreAtHome) = some 0x35 := by
    decide +kernel
  rwa [h] at hbyte

/-- Refutes O40: a store request of no bytes at its home changes bit 0 of the line, where the statement leaves every byte as it
was. -/
theorem not_globalAccesses : ¬ Obligations.GlobalAccesses := by
  rintro ⟨-, hhome, -⟩
  obtain ⟨-, hstore⟩ := hhome 0 emptyStoreAtHome emptyStore 0 emptyStoreLine none false rfl rfl rfl (by decide +kernel) (by decide +kernel)
    (by decide) (by decide) (by decide +kernel) (by decide +kernel) rfl rfl rfl rfl rfl
  obtain ⟨t, hexec, -, -, ⟨m, hm, -, -, hbytes⟩, -⟩ := hstore rfl
  have hkept : homeByte t = some 0x34 := by
    rw [homeByte, show t.homes.find? 0 = some m from hm]
    exact congrArg some (hbytes 0 (by decide))
  rw [homeByte_emptyStore hexec] at hkept
  exact absurd hkept (by decide)

end Sys2Proof.Machine

end

section

namespace Sys2Proof.Machine
open Claims

/-! ## A rover departs with a reservation

Obligation O58 lets a departing rover hold any reservation and says that no byte of memory changes. A rover that holds a global
granule gives it up as it leaves, the next waiter is granted it, and the home reads the granule's line through its port, which
performs the pending write burst of the line's block first. -/

/-- The lres of another slot that waits for granule 0. -/
def granuleWaiter : Flight := { core := 0, slot := 2, kind := .lres, target := .home 0 .homed, n := 8 }

/-- A rover that holds granule 0 asks for a buffer at core 1; byte 0 of the granule's block has a pending write of 5. -/
def holderAsks : State :=
  { State.reset.modSlot 0 1 fun x => { x with status := .memoryWait, wait := .landing, reservation := .global 0 } with
    landReqs := [⟨0, 0, 1, some 1, false, 0, none⟩], queues := [⟨0, some (0, 1), 0, [granuleWaiter]⟩]
    bursts := [⟨0, true, [(0, 5)], [], [], 0⟩] }

theorem holderAsks_byte : holderAsks.mem.read 0 = 0 := by decide +kernel

theorem holderDeparts_byte {u : State} (h : exec (.landingRequest 0) holderAsks = .next u) : u.mem.read 0 = 5 := by
  have hbyte : (match exec (.landingRequest 0) holderAsks with | .next u => u | _ => holderAsks).mem.read 0 = 5 := by decide +kernel
  rwa [h] at hbyte

/-- Refutes O58: as a rover that holds a global granule departs, its grant passes on, and the read for the next holder performs a
pending write burst in memory. -/
theorem not_capsulesOnTheWay : ¬ Obligations.CapsulesOnTheWay := by
  rintro ⟨⟨-, hrover, -⟩, -⟩
  obtain ⟨-, -, hgranted⟩ := hrover holderAsks ⟨0, 0, 1, some 1, false, 0, none⟩ 1 rfl rfl rfl rfl (by decide)
  obtain ⟨u, -, hexec, -, -, hmem, -⟩ := hgranted (by decide +kernel) (by decide +kernel) 0 (by decide +kernel)
  have hkept : u.mem.read 0 = 0 := by rw [hmem]; exact holderAsks_byte
  rw [holderDeparts_byte hexec] at hkept
  exact absurd hkept (by decide)

end Sys2Proof.Machine

end

section

namespace Sys2Proof.Machine
open Claims

/-! ## What the memory system leaves alone

Accesses at homes, ports and watches change memory, lines, bursts and the queues of granules, and of a slot at most the answer it
waits for and its reservation. `a.Moved s` says that `s` differs from `a` in no more than such things, as far as the device's steps
below look at them. -/

/-- What of a slot no access performed for it changes. -/
def Slot.standing (x : Slot) : Status × Park × BitVec 32 := (x.status, x.park, x.lid)

/-- What of the module beside its cores no access changes. -/
def State.outside (s : State) : List Nat × List Message × List Nat × Table Pch × Table Word :=
  (s.wants, s.messages, s.hostLines, s.pchs, s.apertures)

structure State.Moved (a s : State) : Prop where
  outside : s.outside = a.outside
  standing : ∀ d j, (s.slotOf d j).standing = (a.slotOf d j).standing

section
variable {a s : State} {c k n pa cl v g off line block : Nat} {w : Word} {poison : Bool} {pol : Policy} {owner : Option (Nat × Nat)}
  {f : Flight} {α β : Type}

theorem State.Moved.refl (a : State) : a.Moved a := ⟨rfl, fun _ _ => rfl⟩

theorem State.Moved.update {t : State} (h : a.Moved s) (hcores : t.cores = s.cores := by rfl)
    (hout : t.outside = s.outside := by rfl) : a.Moved t :=
  ⟨hout.trans h.outside, fun d j => by rw [State.slotOf, State.coreOf, hcores]; exact h.standing d j⟩

theorem State.Moved.modCore {f : Core → Core} (h : a.Moved s) (hf : ∀ r, (f r).slots = r.slots := by intro; rfl) :
    a.Moved (s.modCore c f) :=
  ⟨h.outside, fun d j => by rw [slotOf_modCore_slots hf]; exact h.standing d j⟩

theorem State.Moved.modSlot {f : Slot → Slot} (h : a.Moved s) (hf : ∀ x, (f x).standing = x.standing := by intro; rfl) :
    a.Moved (s.modSlot c k f) :=
  ⟨h.outside, fun d j => ((State.KeepsOf.modSlot (hf _)).slots d j).trans (h.standing d j)⟩

theorem State.Moved.modCluster {f : Cluster → Cluster} (h : a.Moved s) : a.Moved (s.modCluster c f) := .update h

theorem State.Moved.ite {p : Prop} [Decidable p] {t : State} (hs : a.Moved s) (ht : a.Moved t) : a.Moved (if p then s else t) := by
  split <;> assumption

theorem State.Moved.of_snd {p : α × State} {b : α} (e : p = (b, s)) (h : a.Moved p.2) : a.Moved s := by subst e; exact h

/-- A fold that carries the state in a part of its value. -/
theorem State.Moved.foldl_on {f : β → α → β} {l : List α} {b : β} (part : β → State)
    (hf : ∀ b x, a.Moved (part b) → a.Moved (part (f b x))) (h : a.Moved (part b)) : a.Moved (part (l.foldl f b)) := by
  induction l generalizing b with
  | nil => exact h
  | cons x l ih => exact ih (hf b x h)

theorem State.Moved.foldl {f : State → α → State} {l : List α} (hf : ∀ s x, a.Moved s → a.Moved (f s x)) (h : a.Moved s) :
    a.Moved (l.foldl f s) := .foldl_on id hf h

/-! ### The array and the homes -/

theorem State.Moved.flushBurst (h : a.Moved s) : a.Moved (flushBurst s block) := by
  unfold Machine.flushBurst
  split
  · exact .update h
  · exact h

theorem State.Moved.widen (h : a.Moved s) : a.Moved (s.widen off) := .update h
theorem State.Moved.mark (h : a.Moved s) : a.Moved (s.mark off n) := .update h

theorem State.Moved.engineStore (h : a.Moved s) : a.Moved (s.engineStore off n v poison) := .ite (.mark (.update h)) (.update h)

theorem State.Moved.portWrite (h : a.Moved s) : a.Moved (portWrite s pa n v owner) := by
  refine .ite (.update h) ?_
  dsimp only
  split
  · exact .ite (.update h) (.update (.flushBurst h))
  · exact .update h

theorem State.Moved.portRead (h : a.Moved s) : a.Moved (portRead s pa n).2.2 := .ite h (.flushBurst h)

theorem State.Moved.putLine {l : HomeLine} (h : a.Moved s) : a.Moved (putLine s line l) := .engineStore (.ite h (.flushBurst h))

theorem State.Moved.evictLine (h : a.Moved s) : a.Moved (evictLine s line).2 := by
  unfold Machine.evictLine
  split
  · exact h
  · dsimp only
    split
    · exact .putLine (.update h)
    · exact .update h

theorem State.Moved.makeRoom (h : a.Moved s) : a.Moved (makeRoom s pa) := .ite (.evictLine (.update h)) h

theorem State.Moved.keepLine {l : HomeLine} (h : a.Moved s) : a.Moved (keepLine s pa l) :=
  .ite (.update h) (.ite (.update (.makeRoom h)) (.ite (.putLine h) h))

theorem State.Moved.homeLine {keep : Bool} (h : a.Moved s) : a.Moved (homeLine s pa keep).2 := by
  unfold Machine.homeLine
  split
  · exact h
  · exact .ite (.keepLine (.portRead h)) (.portRead h)

theorem State.Moved.homeLoad (h : a.Moved s) : a.Moved (homeLoad s pol pa n).2.2 := by
  unfold Machine.homeLoad
  split
  · exact .portRead h
  · exact .homeLine h
  · exact .homeLine h

theorem State.Moved.homeStore (h : a.Moved s) : a.Moved (homeStore s pol pa n v owner) := by
  unfold Machine.homeStore
  split
  · exact .portWrite h
  · exact .keepLine (.homeLine h)
  · split
    · exact .update h
    · exact .portWrite h

theorem State.Moved.dirtyLoad (h : a.Moved s) : a.Moved (dirtyLoad s pa n).2.2 := by
  unfold Machine.dirtyLoad
  split
  · split
    · exact h
    · exact .portRead h
  · exact .portRead h

/-! ### Answers, watches and queues -/

theorem State.Moved.postReply (h : a.Moved s) : a.Moved (postReply s c k w poison) := by
  unfold Machine.postReply
  split
  · exact .modSlot h
  · exact h

theorem Slot.standing_vec (x : Slot) (y : Option VecAccess) : ({ x with vec := y } : Slot).standing = x.standing := rfl

theorem State.Moved.laneReply {ln : Nat} (h : a.Moved s) : a.Moved (laneReply s c k ln w poison) := by
  refine .modSlot h fun x => ?_
  split
  · exact x.standing_vec _
  · rfl

theorem State.Moved.flightAnswer (h : a.Moved s) : a.Moved (f.answer s w poison) := by
  unfold Machine.Flight.answer
  split
  · unfold keepAnswer
    split
    · exact .ite (.update h) h
    · exact h
  · exact .postReply h
  · exact .laneReply h

theorem State.Moved.spoilPlace (h : a.Moved s) : a.Moved (spoilPlace s cl pol pa n) := by
  unfold Machine.spoilPlace
  split
  · exact .modCluster h
  · exact .mark h
  · exact .mark h
  · exact .update h

theorem State.Moved.trainPredictor {m : Nat} (h : a.Moved s) : a.Moved (trainPredictor s c k m) := .ite (.modCore h) h

theorem State.Moved.homeAnswer (h : a.Moved s) : a.Moved (f.homeAnswer s pa pol w poison) :=
  .ite (.trainPredictor (.flightAnswer (.ite (.spoilPlace h) h))) (.flightAnswer (.ite (.spoilPlace h) h))

theorem State.Moved.wakeGlobal {around : Bool} (h : a.Moved s) : a.Moved (wakeGlobal s g around) := by
  refine .foldl (fun t x ht => ?_) (.update h)
  have hread : a.Moved (if around then arrayGranule t x.granule else granuleValue t x.granule).2.2 := by
    split
    · exact .portRead ht
    · exact .homeLoad ht
  exact .ite (.trainPredictor (.postReply hread)) (.postReply hread)

theorem State.Moved.grantOne (h : a.Moved s) : a.Moved (grantOne s g pol f).2 := by
  unfold Machine.grantOne
  dsimp only
  split
  · exact .homeAnswer (.modSlot (.homeLoad h))
  · refine .homeAnswer ?_
    split
    · exact .wakeGlobal (.homeStore (.homeLoad h))
    · exact .homeLoad h

theorem State.Moved.putQueue {q : Queue} (h : a.Moved s) : a.Moved (putQueue s q) := .ite (.update h) (.update h)

theorem State.Moved.snoopBlocked (h : a.Moved s) : a.Moved (snoopBlocked s pa n).2 := by
  unfold Machine.snoopBlocked
  dsimp only
  split
  · exact .update h
  · exact h

theorem State.Moved.homeWaits (h : a.Moved s) : a.Moved (homeWaits s pol pa f).2 := by
  unfold Machine.homeWaits
  split
  · exact h
  · split
    · exact h
    · exact .snoopBlocked h

theorem State.Moved.serveWaiters {l : List Flight} (h : a.Moved s) : a.Moved (serveWaiters g l s) := by
  induction l generalizing s with
  | nil => exact .update h
  | cons f rest ih =>
    unfold Machine.serveWaiters
    dsimp only
    split
    next e => exact .putQueue (.of_snd e (.homeWaits h))
    next e =>
      have h' := State.Moved.of_snd e (.homeWaits h)
      exact .ite (.putQueue (.grantOne h')) (ih (.grantOne h'))

theorem Slot.standing_freed (x : Slot) (g : Nat) :
    (if x.reservation == .global g then { x with reservation := .free } else x).standing = x.standing := by
  split <;> rfl

theorem State.Moved.passGranule (h : a.Moved s) : a.Moved (passGranule s g) := by
  unfold Machine.passGranule
  split
  · exact h
  · refine .serveWaiters ?_
    split
    · exact .modSlot h fun x => x.standing_freed g
    · exact h

theorem State.Moved.endReservation (h : a.Moved s) : a.Moved (endReservation s c k) := by
  unfold Machine.endReservation
  split
  · exact h
  · exact .modSlot h
  · exact .passGranule (.modSlot h)

theorem State.Moved.noteGlobal {around : Bool} (h : a.Moved s) : a.Moved (noteGlobal s pa n around) :=
  .foldl (fun _ _ h => .wakeGlobal (.ite (.passGranule h) h)) h

end

end Sys2Proof.Machine

end

section

namespace Sys2Proof.Machine
open Claims

/-! ## Error words and events -/

theorem bitAt_setBits_self {w : Nat} (x : BitVec w) {b : Nat} (hb : b < w) : bitAt (setBits x b b 1) b = true := by
  have h := bitAt_setBits x (hi := b) (lo := b) (le_refl b) 1 b
  simpa [hb] using h

theorem setErr_errWords (s : State) (lid : BitVec 32) {bit : Nat} (h : bit < 4) :
    bitAt ((setErr s lid bit).errWords.get 0 lid.toNat) bit = true := by
  rw [setErr, Table.get_set, if_pos rfl]
  exact bitAt_setBits_self _ h

/-- What an event leaves alone. -/
theorem pushEvent_keeps (s : State) (kind core part addr : Nat) (lid : BitVec 32) (detail : Nat) :
    let t := pushEvent s kind core part addr lid detail
    t.wants = s.wants ∧ t.mem = s.mem ∧ t.cores = s.cores := by
  unfold pushEvent
  dsimp only
  split
  · split <;> exact ⟨rfl, rfl, rfl⟩
  · exact ⟨rfl, rfl, rfl⟩

theorem pushEvent_slotOf (s : State) (kind core part addr : Nat) (lid : BitVec 32) (detail d j : Nat) :
    (pushEvent s kind core part addr lid detail).slotOf d j = s.slotOf d j := by
  rw [State.slotOf, State.coreOf, (pushEvent_keeps ..).2.2]
  rfl

/-! ## A pair's comparison -/

theorem resumed_issues (x : Slot) : x.resumed'.status.issues = true := by
  unfold Slot.resumed'
  dsimp only
  split <;> rfl

section
variable {s : State} {c k : Nat}

/-- A slot at the entry that has matched. -/
def Slot.matching (x : Slot) : Slot := { x.resumed' with matched := true, outward := none, midway := true }

theorem matching_spec (x : Slot) :
    x.matching.matched = true ∧ x.matching.outward = none ∧ x.matching.status.issues = true ∧ x.matching.pc = x.pc :=
  ⟨rfl, rfl, resumed_issues x, rfl⟩

theorem slotOf_reissue (hk : k < 8) (hdock : (s.slotOf c k).docking = false) :
    (reissue s c k).slotOf c k = { (s.slotOf c k).resumed' with midway := true } := by
  rw [reissue, State.slotOf_modSlot_self _ _ _ _ hk]
  exact if_neg (by simp [hdock])

theorem slotOf_entryMatched (hk : k < 8) (hdock : (s.slotOf c k).docking = false) :
    (entryMatched c s k).slotOf c k = (s.slotOf c k).matching := by
  have hself := State.slotOf_modSlot_self s c k (fun x => { x with matched := true, outward := none }) hk
  rw [entryMatched, slotOf_reissue hk (by rw [hself]; exact hdock), hself]
  rfl

theorem slotOf_entryMatched_other {d j : Nat} (h : ¬ (c = d ∧ k = j)) : (entryMatched c s k).slotOf d j = s.slotOf d j := by
  rw [entryMatched, reissue, State.slotOf_modSlot_other _ _ _ _ _ _ h, State.slotOf_modSlot_other _ _ _ _ _ _ h]

theorem askHost_of_wants {t : State} (h : t.wants = []) : askHost s t = t := by simp [askHost, h]

theorem exec_storeCompare_agree {p : Nat} (hw : s.wants = []) (hlead : (s.slotOf c (2 * p)).pair = .leading)
    (hx : comparing (s.slotOf c (2 * p)) = true) (hy : comparing (s.slotOf c (2 * p + 1)) = true)
    (hentry : (s.slotOf c (2 * p)).outward = (s.slotOf c (2 * p + 1)).outward)
    (hpc : (s.slotOf c (2 * p)).pc = (s.slotOf c (2 * p + 1)).pc) :
    exec (.storeCompare c p) s = .next (entryMatched c (entryMatched c s (2 * p)) (2 * p + 1)) := by
  show execStoreCompare c p s = _
  unfold execStoreCompare deviceStep
  dsimp only
  rw [if_neg (by simp [hlead]), if_pos (by simp [hx, hy]), if_pos (by simp [hentry, hpc])]
  exact congrArg Host.Outcome.next (askHost_of_wants hw)

theorem exec_storeCompare_differ {p : Nat} (hlead : (s.slotOf c (2 * p)).pair = .leading)
    (hx : comparing (s.slotOf c (2 * p)) = true) (hy : comparing (s.slotOf c (2 * p + 1)) = true)
    (hentry : (s.slotOf c (2 * p)).outward ≠ (s.slotOf c (2 * p + 1)).outward) :
    exec (.storeCompare c p) s = .next (askHost s (pairMismatch s c (2 * p))) := by
  show execStoreCompare c p s = _
  unfold execStoreCompare deviceStep
  dsimp only
  rw [if_neg (by simp [hlead]), if_pos (by simp [hx, hy]), if_neg (by simp [hentry])]

/-- A slot of a pair that disagrees is stopped. -/
def stopPaired (s : State) (c j : Nat) : State :=
  (leaveRotation (endReservation s c j) c j .parked .nothing).modSlot c j fun x => { x with park := .pair, outward := none }

theorem pairReport_eq (s : State) (c k : Nat) :
    let u := stopPaired (stopPaired s c (leadOf k)) c (leadOf k + 1)
    pairReport s c k = setErr (pushEvent u 5 c (leadOf k) 0 (u.slotOf c k).lid 0) (u.slotOf c k).lid 2 := rfl

theorem stopPaired_wants : (stopPaired s c k).wants = s.wants :=
  congrArg Prod.fst (State.Moved.endReservation (c := c) (k := k) (.refl s)).outside

theorem slotOf_stopPaired (hk : k < 8) : ((stopPaired s c k).slotOf c k).standing = (.parked, .pair, (s.slotOf c k).lid) := by
  have hlid : ((endReservation s c k).slotOf c k).lid = (s.slotOf c k).lid :=
    congrArg (fun x => x.2.2) ((State.Moved.endReservation (c := c) (k := k) (.refl s)).standing c k)
  rw [stopPaired, State.slotOf_modSlot_self _ _ _ _ hk, slotOf_leaveRotation hk, ← hlid]
  rfl

theorem slotOf_stopPaired_other {d j : Nat} (h : ¬ (c = d ∧ k = j)) :
    ((stopPaired s c k).slotOf d j).standing = (s.slotOf d j).standing := by
  rw [stopPaired, State.slotOf_modSlot_other _ _ _ _ _ _ h, leaveRotation, State.slotOf_modSlot_other _ _ _ _ _ _ h]
  exact (State.Moved.endReservation (.refl s)).standing d j

/-- A pair that has diverged and is not run again: both threads are parked, and the launch's error bit is set. -/
theorem pairReport_spec {p : Nat} (hp : p < 4) :
    let t := pairReport s c (2 * p)
    t.wants = s.wants ∧ (t.slotOf c (2 * p)).standing = (.parked, .pair, (s.slotOf c (2 * p)).lid) ∧
      (t.slotOf c (2 * p + 1)).standing = (.parked, .pair, (s.slotOf c (2 * p + 1)).lid) ∧
      bitAt (t.errWords.get 0 (s.slotOf c (2 * p)).lid.toNat) 2 = true := by
  have hlead : leadOf (2 * p) = 2 * p := by unfold leadOf; omega
  have hfirst := slotOf_stopPaired (s := s) (c := c) (k := 2 * p) (by omega)
  have hkept := slotOf_stopPaired_other (s := stopPaired s c (2 * p)) (c := c) (k := 2 * p + 1) (d := c) (j := 2 * p) (by omega)
  have hother := slotOf_stopPaired_other (s := s) (c := c) (k := 2 * p) (d := c) (j := 2 * p + 1) (by omega)
  have hsecond := slotOf_stopPaired (s := stopPaired s c (2 * p)) (c := c) (k := 2 * p + 1) (by omega)
  have hwants := (stopPaired_wants (s := stopPaired s c (2 * p)) (c := c) (k := 2 * p + 1)).trans
    (stopPaired_wants (s := s) (c := c) (k := 2 * p))
  have hreport := pairReport_eq s c (2 * p)
  rw [hlead] at hreport
  generalize stopPaired (stopPaired s c (2 * p)) c (2 * p + 1) = u at *
  have hlid : (u.slotOf c (2 * p)).lid = (s.slotOf c (2 * p)).lid := congrArg (fun x => x.2.2) (hkept.trans hfirst)
  dsimp only at hreport ⊢
  rw [hreport, hlid]
  refine ⟨(pushEvent_keeps ..).1.trans hwants, ?_, ?_, setErr_errWords _ _ (by decide)⟩
  · exact (congrArg Slot.standing (pushEvent_slotOf ..)).trans (hkept.trans hfirst)
  · refine (congrArg Slot.standing (pushEvent_slotOf ..)).trans (hsecond.trans ?_)
    rw [show ((stopPaired s c (2 * p)).slotOf c (2 * p + 1)).lid = (s.slotOf c (2 * p + 1)).lid from congrArg (fun x => x.2.2) hother]

end

/-! ## The device kills a slot -/

/-- Of a step that takes apart what a slot has under way, nothing changes the memory, the lines asked for, the cycles and the
reservations. -/
structure State.Clearing (a s : State) : Prop where
  memory : (s.wants, s.mem) = (a.wants, a.mem)
  cycles : ∀ d, (s.coreOf d).cycle = (a.coreOf d).cycle
  reservations : ∀ d j, (s.slotOf d j).reservation = (a.slotOf d j).reservation

section
variable {a s : State} {c k : Nat} {α : Type}

theorem State.Clearing.refl (a : State) : a.Clearing a := ⟨rfl, fun _ => rfl, fun _ _ => rfl⟩

theorem State.Clearing.update {t : State} (h : a.Clearing s) (hcores : t.cores = s.cores := by rfl)
    (hmem : (t.wants, t.mem) = (s.wants, s.mem) := by rfl) : a.Clearing t :=
  ⟨hmem.trans h.memory, fun d => by rw [State.coreOf, hcores]; exact h.cycles d,
    fun d j => by rw [State.slotOf, State.coreOf, hcores]; exact h.reservations d j⟩

theorem State.Clearing.setBursts {l : List Burst} (h : a.Clearing s) : a.Clearing { s with bursts := l } := .update h

theorem State.Clearing.modCore {f : Core → Core} (h : a.Clearing s)
    (hf : ∀ r, (f r).slots = r.slots ∧ (f r).cycle = r.cycle := by intro; exact ⟨rfl, rfl⟩) : a.Clearing (s.modCore c f) := by
  refine ⟨h.memory, fun d => ?_, fun d j => by rw [slotOf_modCore_slots fun r => (hf r).1]; exact h.reservations d j⟩
  rw [State.coreOf_modCore, ← h.cycles d]
  split
  · exact (hf _).2
  · rfl

theorem State.Clearing.modSlot {f : Slot → Slot} (h : a.Clearing s)
    (hf : ∀ x, (f x).reservation = x.reservation := by intro; rfl) : a.Clearing (s.modSlot c k f) := by
  refine ⟨h.memory, fun d => ?_, fun d j => ((State.KeepsOf.modSlot (π := Slot.reservation) (hf _)).slots d j).trans (h.reservations d j)⟩
  rw [← h.cycles d]
  exact State.coreOf_setSlot_cycle ..

theorem State.Clearing.modCluster {f : Cluster → Cluster} (h : a.Clearing s) : a.Clearing (s.modCluster c f) := .update h

theorem State.Clearing.foldl {f : State → α → State} {l : List α} (hf : ∀ s x, a.Clearing s → a.Clearing (f s x))
    (h : a.Clearing s) : a.Clearing (l.foldl f s) := by
  induction l generalizing s with
  | nil => exact h
  | cons x l ih => exact ih (hf s x h)

/-- What a change of every core keeps of each is kept. -/
theorem mapCores_coreOf {π : Core → α} {f : Core → Core} (hf : ∀ r, π (f r) = π r) (d : Nat) :
    π ((mapCores s f).coreOf d) = π (s.coreOf d) := by
  have hfind (l : List (Nat × Core)) : tableFind d (l.map fun e => (e.1, f e.2)) = (tableFind d l).map f := by
    simp only [tableFind, List.find?_map, Option.map_map]
    rfl
  rw [State.coreOf, mapCores, Table.get, hfind, State.coreOf, Table.get]
  cases tableFind d s.cores.entries with
  | none => rfl
  | some r => exact hf r

theorem State.Clearing.mapCores {f : Core → Core} (h : a.Clearing s)
    (hf : ∀ r, (f r).slots = r.slots ∧ (f r).cycle = r.cycle := by intro; exact ⟨rfl, rfl⟩) : a.Clearing (mapCores s f) := by
  refine ⟨h.memory, fun d => (mapCores_coreOf (π := Core.cycle) (fun r => (hf r).2) d).trans (h.cycles d), fun d j => ?_⟩
  rw [State.slotOf, mapCores_coreOf (π := Core.slots) fun r => (hf r).1]
  exact h.reservations d j

theorem slot_ite {π : Slot → α} {v : α} {p : Prop} [Decidable p] {x y : Slot} (hx : π x = v) (hy : π y = v) :
    π (if p then x else y) = v := by
  split
  · exact hx
  · exact hy

theorem State.Clearing.wakePusher {port : Nat} (h : a.Clearing s) : a.Clearing (wakePusher s c k port) := by
  unfold Machine.wakePusher
  split
  · exact h
  · split
    · dsimp only
      split
      · exact .modSlot (.modSlot h)
      · exact .modSlot (.modSlot h) fun x => slot_ite (π := Slot.reservation) rfl (slot_ite (π := Slot.reservation) rfl rfl)
    · exact h

theorem State.Clearing.dropWaits (h : a.Clearing s) : a.Clearing (dropWaits s c k) :=
  .foldl (fun _ _ h => .wakePusher h) (.modCore (.modCore h))

theorem State.Clearing.forgetSlot (h : a.Clearing s) (hfree : (a.slotOf c k).reservation = .free) : a.Clearing (forgetSlot s c k) := by
  rw [Machine.forgetSlot, endReservation_free ((h.reservations c k).trans hfree)]
  have hdropped : a.Clearing (dropAnswers (Machine.dropWaits s c k) c k) := .update (.dropWaits h)
  exact .setBursts (.modCore hdropped)

theorem setQueue_keeps (r : Core) (e : Engine) (l : List Cmd) : (r.setQueue e l).slots = r.slots ∧ (r.setQueue e l).cycle = r.cycle := by
  cases e <;> exact ⟨rfl, rfl⟩

theorem mapCmds_keeps (f : Cmd → Cmd) (r : Core) : (mapCmds f r).slots = r.slots ∧ (mapCmds f r).cycle = r.cycle := by
  unfold mapCmds
  generalize [Engine.tile, .copy, .bank, .stack, .reduction, .collective] = l
  induction l generalizing r with
  | nil => exact ⟨rfl, rfl⟩
  | cons e l ih =>
    obtain ⟨hslots, hcycle⟩ := ih (r.setQueue e ((r.queue e).map f))
    obtain ⟨hslots', hcycle'⟩ := setQueue_keeps r e ((r.queue e).map f)
    exact ⟨hslots.trans hslots', hcycle.trans hcycle'⟩

theorem State.Clearing.disownCommands (h : a.Clearing s) : a.Clearing (disownCommands s c k) :=
  .modCore (.update h) (mapCmds_keeps _)

theorem State.Clearing.withdrawWait (h : a.Clearing s) : a.Clearing (withdrawWait s c k) := by
  unfold Machine.withdrawWait
  exact .mapCores (.update h)

theorem State.Clearing.disownRequests (h : a.Clearing s) : a.Clearing (disownRequests s c k) := by
  unfold Machine.disownRequests
  exact .mapCores (.update h)

theorem State.Clearing.abandonRecords (h : a.Clearing s) : a.Clearing (abandonRecords s c k) := .update h

/-- A killed slot. -/
def killedSlot (n : Word) : Slot := { Slot.blank with status := .killed, scrub := n.toNat + 256 }

/-- A slot without a capsule is killed: what it has under way is taken apart, and it stands killed. -/
theorem killSlot_plain (hfree : (s.slotOf c k).reservation = .free) (hcaps : (s.slotOf c k).capsule = none)
    (hresend : (s.slotOf c k).resend = none) : ∃ w, s.Clearing w ∧
      killSlot none s c k = leaveGang (w.setSlot c k (killedSlot (s.coreOf c).cycle)) (s.slotOf c k).lid c := by
  have hrequests : s.Clearing (disownRequests (withdrawWait s c k) c k) := .disownRequests (.withdrawWait (.refl s))
  have hcommands : s.Clearing (disownCommands (dropXlate (disownRequests (withdrawWait s c k) c k) c [k]) c k) :=
    .disownCommands (.modCluster hrequests)
  have hforgot : s.Clearing (forgetSlot (abandonRecords
      (disownCommands (dropXlate (disownRequests (withdrawWait s c k) c k) c [k]) c k) c k) c k) :=
    .forgetSlot (.abandonRecords hcommands) hfree
  have htraps := hforgot.modCore (c := c) (f := fun r => { r with traps := r.traps.filter fun t => bitsOf t.d0 10 8 != k })
  refine ⟨_, htraps, ?_⟩
  rw [killedSlot, ← htraps.cycles c]
  unfold killSlot dropResend
  dsimp only
  rw [hcaps, hresend]

/-! ### Who leaves a gang changes only those that wait with it -/

theorem releaseMember_noGang {lid : BitVec 32} {level count : Nat} {x : Slot} (h : x.gang = false) :
    releaseMember lid level count x = x := by
  unfold releaseMember gangMember
  rw [h]
  rfl

/-- What a change leaves of the memory, the lines asked for and a slot that is in no gang. -/
def State.SparesSlot (s : State) (c j : Nat) (t : State) : Prop :=
  t.wants = s.wants ∧ t.mem = s.mem ∧ t.slotOf c j = s.slotOf c j

theorem releaseCore_spares {lid : BitVec 32} {level count d : Nat} (h : (s.slotOf c k).gang = false) :
    s.SparesSlot c k (releaseCore lid level count s d) := by
  refine ⟨rfl, rfl, ?_⟩
  rw [releaseCore, State.slotOf, State.coreOf_modCore]
  split
  next hd =>
    subst hd
    refine (vget_map _ (releaseMember lid level count) Slot.blank k).trans ?_
    exact releaseMember_noGang h
  next => rfl

/-- A fold of such changes. -/
theorem State.SparesSlot.foldl {f : State → α → State} {l : List α}
    (hf : ∀ s : State, ∀ x, (s.slotOf c k).gang = false → s.SparesSlot c k (f s x)) (h : (s.slotOf c k).gang = false) :
    s.SparesSlot c k (l.foldl f s) := by
  induction l generalizing s with
  | nil => exact ⟨rfl, rfl, rfl⟩
  | cons x l ih =>
    obtain ⟨hwants, hmem, hslot⟩ := hf s x h
    obtain ⟨hwants', hmem', hslot'⟩ := ih (s := f s x) (by rw [hslot]; exact h)
    exact ⟨hwants'.trans hwants, hmem'.trans hmem, hslot'.trans hslot⟩

theorem leaveGang_spares {lid : BitVec 32} {d : Nat} (h : (s.slotOf c k).gang = false) :
    s.SparesSlot c k (leaveGang s lid d) := by
  refine .foldl (fun s level h => ?_) h
  unfold releaseBarrier
  split
  · exact ⟨rfl, rfl, rfl⟩
  · dsimp only
    split
    · exact .foldl (fun _ _ h => releaseCore_spares h) h
    · exact ⟨rfl, rfl, rfl⟩

/-- The device has killed a slot that has no capsule. -/
theorem deviceKillSlot_spec (hk : k < 8) (hfree : (s.slotOf c k).reservation = .free) (hcaps : (s.slotOf c k).capsule = none)
    (hresend : (s.slotOf c k).resend = none) :
    let t := deviceKillSlot s c k
    t.wants = s.wants ∧ t.mem = s.mem ∧ t.slotOf c k = killedSlot (s.coreOf c).cycle ∧
      bitAt (t.errWords.get 0 (s.slotOf c k).lid.toNat) 3 = true := by
  obtain ⟨w, hw, hkill⟩ := killSlot_plain hfree hcaps hresend
  obtain ⟨hwants, hmem⟩ := Prod.mk.inj hw.memory
  have hself : (w.setSlot c k (killedSlot (s.coreOf c).cycle)).slotOf c k = killedSlot (s.coreOf c).cycle :=
    State.slotOf_setSlot_self _ _ _ _ hk
  obtain ⟨hwants', hmem', hslot'⟩ := leaveGang_spares (s := w.setSlot c k (killedSlot (s.coreOf c).cycle)) (c := c) (k := k)
    (lid := (s.slotOf c k).lid) (d := c) (by rw [hself]; rfl)
  rw [← hkill] at hwants' hmem' hslot'
  obtain ⟨hwants'', hmem'', -⟩ := pushEvent_keeps (killSlot none s c k) 3 c k 0 (s.slotOf c k).lid 0
  have hslot'' := pushEvent_slotOf (killSlot none s c k) 3 c k 0 (s.slotOf c k).lid 0 c k
  dsimp only [deviceKillSlot]
  generalize pushEvent (killSlot none s c k) 3 c k 0 (s.slotOf c k).lid 0 = u at *
  exact ⟨hwants''.trans (hwants'.trans hwants), hmem''.trans (hmem'.trans hmem), hslot''.trans (hslot'.trans hself),
    setErr_errWords _ _ (by decide)⟩

end

/-! ## Scrubs of slots and memory -/

/-- With no launch queued a placement pass does nothing. -/
theorem placementPass_idle {s : State} (h : s.queued = []) : placementPass s = s := by
  have hqueued : { s with queued := [] } = s := by rw [← h]
  simp only [placementPass, h, List.filter_nil, List.map_nil, passClass, List.foldl_cons, List.foldl_nil, Bool.false_eq_true,
    if_false]
  exact hqueued

theorem standing_eq {x : Slot} {st : Status} {p : Park} {lid : BitVec 32} (h : x.standing = (st, p, lid)) :
    x.status = st ∧ x.park = p := ⟨congrArg Prod.fst h, congrArg (fun y => y.2.1) h⟩

/-- R444, R445: a pair's comparison. -/
theorem pairCompares {s : State} {c p : Nat} (hp : p < 4) (hw : s.wants = []) :
    let x := s.slotOf c (2 * p)
    let y := s.slotOf c (2 * p + 1)
    x.pair = .leading → x.wait = .compare → y.wait = .compare → x.outward.isSome = true → y.outward.isSome = true →
    (x.outward = y.outward → x.pc = y.pc → x.docking = false → y.docking = false → ∃ t, exec (.storeCompare c p) s = .next t ∧
      t.mem = s.mem ∧ ∀ k z, (k = 2 * p ∧ z = x) ∨ (k = 2 * p + 1 ∧ z = y) → (t.slotOf c k).matched = true ∧
        (t.slotOf c k).outward = none ∧ (t.slotOf c k).status.issues = true ∧ (t.slotOf c k).pc = z.pc) ∧
    (x.outward ≠ y.outward → s.outstanding = [] → ∃ t, exec (.storeCompare c p) s = .next t ∧
      (t.slotOf c (2 * p)).status = .parked ∧ (t.slotOf c (2 * p)).park = .pair ∧ (t.slotOf c (2 * p + 1)).status = .parked ∧
      (t.slotOf c (2 * p + 1)).park = .pair ∧ bitAt (t.errWords.get 0 x.lid.toNat) 2 = true) := by
  intro x y hlead hxw hyw hxo hyo
  have hx : comparing x = true := by simp [comparing, hxw, hxo]
  have hy : comparing y = true := by simp [comparing, hyw, hyo]
  refine ⟨fun hentry hpc hxd hyd => ⟨_, exec_storeCompare_agree hw hlead hx hy hentry hpc, rfl, ?_⟩, fun hentry hout => ?_⟩
  · have hsecond := slotOf_entryMatched_other (s := s) (c := c) (k := 2 * p) (d := c) (j := 2 * p + 1) (by omega)
    rintro k z (⟨rfl, rfl⟩ | ⟨rfl, rfl⟩)
    · rw [slotOf_entryMatched_other (by omega), slotOf_entryMatched (by omega) hxd]
      exact matching_spec _
    · rw [slotOf_entryMatched (by omega) (by rw [hsecond]; exact hyd), hsecond]
      exact matching_spec _
  · have hmismatch : pairMismatch s c (2 * p) = pairReport s c (2 * p) := by simp [pairMismatch, retryRecord, hout]
    obtain ⟨hwants, hfirst, hsecond, herr⟩ := pairReport_spec (s := s) (c := c) hp
    obtain ⟨hstatus, hpark⟩ := standing_eq hfirst
    obtain ⟨hstatus', hpark'⟩ := standing_eq hsecond
    refine ⟨_, exec_storeCompare_differ hlead hx hy hentry, ?_⟩
    rw [hmismatch, askHost_of_wants (hwants.trans hw)]
    exact ⟨hstatus, hpark, hstatus', hpark', herr⟩

theorem exec_deviceKill_vacant {s : State} {c k : Nat} (hw : s.wants = []) (h : (s.slotOf c k).occupied = false) :
    exec (.deviceKill c k) s = .next s := by
  show execDeviceKill c k s = _
  unfold execDeviceKill deviceStep
  dsimp only
  rw [if_pos (by simp [h]), askHost_of_wants hw]

theorem exec_deviceKill_thread {s : State} {c k : Nat} (h : (s.slotOf c k).occupied = true) (hk : k ≠ 7)
    (hpair : (s.slotOf c k).pair = .alone) : exec (.deviceKill c k) s = .next (askHost s (deviceKillSlot s c k)) := by
  show execDeviceKill c k s = _
  unfold execDeviceKill deviceStep
  dsimp only
  rw [if_neg (by simp [h]), if_neg hk, pairSlots, if_pos (by simp [hpair])]
  rfl

theorem exec_deviceKill_pilot {s : State} {c : Nat} (h : (s.slotOf c 7).occupied = true) :
    exec (.deviceKill c 7) s = .next (askHost s (pushEvent (stopTrapped s c 7) 3 c 7 0 0 0)) := by
  show execDeviceKill c 7 s = _
  unfold execDeviceKill deviceStep
  dsimp only
  rw [if_neg (by simp [h]), if_pos rfl]

theorem stopTrapped_pilot {s : State} {c : Nat} (hfree : (s.slotOf c 7).reservation = .free) :
    (stopTrapped s c 7).wants = s.wants ∧ (stopTrapped s c 7).mem = s.mem ∧ ((stopTrapped s c 7).slotOf c 7).status = .halted := by
  rw [stopTrapped, endReservation_free hfree]
  refine ⟨rfl, rfl, ?_⟩
  rw [slotOf_leaveRotation (by decide)]
  rfl

theorem exec_slotScrubEnd_due {s : State} {c k : Nat} (hw : s.wants = []) (hstatus : (s.slotOf c k).status = .killed)
    (hdue : (s.slotOf c k).scrub ≤ (s.coreOf c).cycle.toNat) (hqueued : s.queued = []) :
    exec (.slotScrubEnd c k) s = .next (s.setSlot c k Slot.blank) := by
  show execSlotScrubEnd c k s = _
  unfold execSlotScrubEnd deviceStep
  dsimp only
  rw [if_pos (by simp [hstatus, hdue]), placementPass_idle (s := s.setSlot c k Slot.blank) hqueued,
    askHost_of_wants (t := s.setSlot c k Slot.blank) hw]

theorem exec_slotScrubEnd_early {s : State} {c k : Nat} (hw : s.wants = [])
    (h : (s.slotOf c k).status ≠ .killed ∨ (s.coreOf c).cycle.toNat < (s.slotOf c k).scrub) :
    exec (.slotScrubEnd c k) s = .next s := by
  have hno : ((s.slotOf c k).status == .killed && decide ((s.slotOf c k).scrub ≤ (s.coreOf c).cycle.toNat)) ≠ true := by
    obtain h | h := h
    · simp [h]
    · simp [h]
  show execSlotScrubEnd c k s = _
  unfold execSlotScrubEnd deviceStep
  dsimp only
  rw [if_neg hno, askHost_of_wants hw]

/-- R41, R442: the device's kills and the scrubs of killed slots. -/
theorem killsAndScrubs {s : State} {c k : Nat} (hk : k < 8) (hw : s.wants = []) :
    let x := s.slotOf c k
    (x.occupied = false → exec (.deviceKill c k) s = .next s) ∧
    (x.occupied = true → k ≠ 7 → x.pair = .alone → x.capsule = none → x.reservation = .free → x.resend = none →
      ∃ t, exec (.deviceKill c k) s = .next t ∧
        t.slotOf c k = { Slot.blank with status := .killed, scrub := (s.coreOf c).cycle.toNat + 256 } ∧
        bitAt (t.errWords.get 0 x.lid.toNat) 3 = true ∧ t.mem = s.mem) ∧
    (x.occupied = true → k = 7 → x.reservation = .free → ∃ t, exec (.deviceKill c k) s = .next t ∧ (t.slotOf c 7).status = .halted ∧
      t.mem = s.mem) ∧
    (x.status = .killed → x.scrub ≤ (s.coreOf c).cycle.toNat → s.queued = [] →
      exec (.slotScrubEnd c k) s = .next (s.setSlot c k Slot.blank)) ∧
    ((x.status ≠ .killed ∨ (s.coreOf c).cycle.toNat < x.scrub) → exec (.slotScrubEnd c k) s = .next s) := by
  refine ⟨exec_deviceKill_vacant hw, fun hocc hk7 hpair hcaps hfree hresend => ?_, fun hocc hk7 hfree => ?_,
    exec_slotScrubEnd_due hw, exec_slotScrubEnd_early hw⟩
  · obtain ⟨hwants, hmem, hslot, herr⟩ := deviceKillSlot_spec hk hfree hcaps hresend
    exact ⟨_, (exec_deviceKill_thread hocc hk7 hpair).trans (congrArg Host.Outcome.next (askHost_of_wants (hwants.trans hw))), hslot,
      herr, hmem⟩
  · subst hk7
    obtain ⟨hwants, hmem, hstatus⟩ := stopTrapped_pilot hfree
    obtain ⟨hwants', hmem', -⟩ := pushEvent_keeps (stopTrapped s c 7) 3 c 7 0 0 0
    refine ⟨_, (exec_deviceKill_pilot hocc).trans (congrArg Host.Outcome.next (askHost_of_wants (hwants'.trans (hwants.trans hw)))),
      ?_, hmem'.trans hmem⟩
    rw [pushEvent_slotOf]
    exact hstatus

/-! ### The patrol scrubber -/

section
variable {s : State} {c off pa bank : Nat}

/-- What the scrubber does about an uncorrectable error in a scratchpad. -/
def spoilScratch (c off : Nat) (u : State) : State := pushEvent (u.mark (padAddr c off) 1) 2 c 0 0 0 0

theorem scrub_scratch (hc : c < 1280) (hoff : off < 2 ^ 21) : scrub (.scratch c off .uncorrectable) s = spoilScratch c off s :=
  if_neg (by simpa [hc] using hoff)

theorem scrub_clean {check : ScrubCheck} (h : check ∈ [ScrubCheck.scratch c off .clean, .homeLine pa .clean, .hbmLine pa .clean]) :
    scrub check s = s := by
  simp only [List.mem_cons, List.not_mem_nil, or_false] at h
  obtain rfl | rfl | rfl := h
  · exact ite_self _
  · rfl
  · exact ite_self _

theorem exec_patrolScrub_scratch (f : ScrubFinding) : exec (.patrolScrub (.scratch c off f)) s =
    .next (if off / 32 % 32 ∈ wantedBanks s c then s else scrub (.scratch c off f) s) := by
  show execPatrolScrub (.scratch c off f) s = _
  simp [execPatrolScrub, bankAt]

theorem exec_scrubForcedCycle : exec (.scrubForcedCycle c bank (.scratch c off .uncorrectable)) s =
    .next (if off / 32 % 32 = bank ∧ 4096 ≤ (s.coreOf c).scrubWait.get 0 bank then
      scrub (.scratch c off .uncorrectable) (s.modCore c fun r => { r with scrubWait := r.scrubWait.erase bank }) else s) := by
  show execScrubForcedCycle c bank (.scratch c off .uncorrectable) s = _
  simp [execScrubForcedCycle, bankAt]

/-- R439, R440: what the patrol scrubber finds, and when it looks at a scratchpad. -/
theorem patrolScrubs :
    (∀ check ∈ [ScrubCheck.scratch c off .clean, .homeLine pa .clean, .hbmLine pa .clean], exec (.patrolScrub check) s = .next s) ∧
    (pa < 2 ^ 41 → exec (.patrolScrub (.hbmLine pa .uncorrectable)) s =
      .next (pushEvent (s.mark (pa / 32 * 32) 32) 2 0xFFFF 0 (pa / 32 * 32) 0 0)) ∧
    (c < 1280 → off < 2 ^ 21 →
      let spoilt := fun u : State => Host.Outcome.next (pushEvent (u.mark (padAddr c off) 1) 2 c 0 0 0 0)
      let passed := (s.coreOf c).scrubWait.get 0 bank
      (off / 32 % 32 ∉ wantedBanks s c → exec (.patrolScrub (.scratch c off .uncorrectable)) s = spoilt s) ∧
      (off / 32 % 32 ∈ wantedBanks s c → exec (.patrolScrub (.scratch c off .uncorrectable)) s = .next s) ∧
      (off / 32 % 32 = bank → 4096 ≤ passed → exec (.scrubForcedCycle c bank (.scratch c off .uncorrectable)) s =
        spoilt (s.modCore c fun r => { r with scrubWait := r.scrubWait.erase bank })) ∧
      ((off / 32 % 32 ≠ bank ∨ passed < 4096) → exec (.scrubForcedCycle c bank (.scratch c off .uncorrectable)) s = .next s)) := by
  refine ⟨fun check hcheck => ?_, fun hpa => ?_, fun hc hoff => ⟨fun hfree => ?_, fun hwanted => ?_, fun hbank hpassed => ?_, fun h => ?_⟩⟩
  · have hclean := scrub_clean (s := s) hcheck
    simp only [List.mem_cons, List.not_mem_nil, or_false] at hcheck
    obtain rfl | rfl | rfl := hcheck
    · rw [exec_patrolScrub_scratch, hclean, ite_self]
    · exact congrArg Host.Outcome.next hclean
    · exact congrArg Host.Outcome.next hclean
  · exact congrArg Host.Outcome.next (if_neg (by omega))
  · rw [exec_patrolScrub_scratch, if_neg hfree, scrub_scratch hc hoff]
    rfl
  · rw [exec_patrolScrub_scratch, if_pos hwanted]
  · rw [exec_scrubForcedCycle, if_pos ⟨hbank, hpassed⟩, scrub_scratch hc hoff]
    rfl
  · rw [exec_scrubForcedCycle, if_neg (by omega)]

end

/-- Settles O26, part by part: a pair's comparison, the device's kills, and the scrubbers. -/
theorem pairsKillsAndScrubs : Obligations.PairsKillsAndScrubs :=
  ⟨fun _ _ _ hp hw => pairCompares hp hw, fun _ _ _ hk hw => killsAndScrubs hk hw, fun _ _ _ _ _ => patrolScrubs⟩

end Sys2Proof.Machine

end

section

namespace Sys2Proof.Machine
open Claims

/-! ## The only request at a port -/

section
variable {s u : State} {cl : Nat} {q : XlateReq}

/-- A thread's request stands alone at its port. -/
structure XlateReq.AloneAt (q : XlateReq) (s : State) (cl : Nat) : Prop where
  waiting : (s.clusterAt cl).waiting = [q]
  slot : q.slot < 8
  failed : q.failed = none
  waits : (s.slotOf q.core q.slot).wait = .translation q.va q.exec

theorem heldRequests_alone (h : q.AloneAt s cl) : heldRequests s cl = [q] := by simp [heldRequests, h.waiting, h.failed]

theorem exec_tlbWalkComplete_alone (h : q.AloneAt s cl) : exec (.tlbWalkComplete cl 0) s = .next (walkEnds cl s q) := by
  show execTlbWalkComplete cl 0 s = _
  simp [execTlbWalkComplete, walksOf, heldRequests_alone h, List.eraseDups_cons]

theorem walkEnds_alone (h : q.AloneAt s cl) : walkEnds cl s q =
    match translate s cl q.ctag q.va q.read q.write q.exec with
    | .hit _ _ | .badRange => translated (dropRequest s cl q) q
    | .miss =>
      if ((s.clusterAt cl).contexts.find? q.ctag.toNat).any fun x => x.hostProcess then s
      else match walk s cl q.ctag q.va q.read q.write q.exec with
        | .leaf _ s => translated (dropRequest s cl q) q
        | .snooped s => s
        | .failed kind level s =>
          if 8 ≤ q.slot then failRequest s cl q kind level
          else if recordRoom s cl then failAccess s q (sendRecord q kind level) else s := by
  have hwaits : stillWaits s q = true := by simp [stillWaits, h.waits]
  rw [walkEnds]
  exact if_neg (by simp [hwaits])

theorem translated_thread (h : q.slot < 8) : translated s q = if q.exec then reissue s q.core q.slot else goOn s q.core q.slot :=
  if_neg (by omega)

theorem dropRequest_waiting (h : (s.clusterAt cl).waiting = [q]) : ((dropRequest s cl q).clusterAt cl).waiting = [] := by
  rw [dropRequest, State.clusterAt_modCluster, if_pos rfl, h]
  simp

/-- A request whose page the TLB or a walk has found. -/
theorem translated_spec (h : q.AloneAt s cl) (hdock : (s.slotOf q.core q.slot).docking = false) :
    let t := translated (dropRequest s cl q) q
    t.mem = s.mem ∧ (t.clusterAt cl).waiting = [] ∧ (t.slotOf q.core q.slot).pc = (s.slotOf q.core q.slot).pc ∧
      (q.exec = true → (t.slotOf q.core q.slot).status.issues = true) ∧
      (q.exec = false → t.going = s.going ++ [(q.core, q.slot)] ∧ t.slotOf q.core q.slot = s.slotOf q.core q.slot) := by
  have hwaiting := dropRequest_waiting h.waiting
  dsimp only
  rw [translated_thread h.slot]
  cases hexec : q.exec with
  | true =>
    rw [if_pos rfl]
    have hslot := slotOf_reissue (s := dropRequest s cl q) (c := q.core) h.slot hdock
    refine ⟨rfl, hwaiting, ?_, fun _ => ?_, by simp⟩
    · rw [hslot]; rfl
    · rw [hslot]; exact resumed_issues _
  | false => exact ⟨rfl, hwaiting, rfl, by simp, fun _ => ⟨rfl, rfl⟩⟩

theorem failAccess_thread {send : BitVec 32 → Slot → State → State} (hpair : (s.slotOf q.core q.slot).pair = .alone)
    (hcaps : (s.slotOf q.core q.slot).capsule = none) :
    failAccess s q send = parkFault (send (assignKey s (clusterOf q.core)).1 (s.slotOf q.core q.slot)
      (dropXlate (assignKey s (clusterOf q.core)).2 q.core [q.slot])) q.core q.slot (assignKey s (clusterOf q.core)).1 := by
  have halone : parkedWith s q.core q.slot = some [q.slot] := by simp [parkedWith, hpair]
  unfold failAccess
  dsimp only
  rw [halone, hcaps]
  rfl

theorem slotOf_parkFault {c k : Nat} {key : BitVec 32} (hk : k < 8) (hfree : (s.slotOf c k).reservation = .free) :
    let y := (parkFault s c k key).slotOf c k
    y.status = .parked ∧ y.park = .fault key ∧ y.pc = (s.slotOf c k).pc := by
  rw [parkFault, endReservation_free hfree, State.slotOf_modSlot_self _ _ _ _ hk, slotOf_leaveRotation hk]
  exact ⟨rfl, rfl, rfl⟩

theorem parkFault_keeps {c k : Nat} {key : BitVec 32} (hfree : (s.slotOf c k).reservation = .free) :
    (parkFault s c k key).mem = s.mem ∧ (parkFault s c k key).clusterAt cl = s.clusterAt cl := by
  rw [parkFault, endReservation_free hfree]
  exact ⟨rfl, rfl⟩

/-- The port of a thread whose access has failed. -/
theorem sendRecord_port {key : BitVec 32} {x : Slot} {kind level : Nat} (hcl : clusterOf q.core = cl)
    (h : (s.clusterAt cl).waiting = [q]) :
    let t := sendRecord q kind level key x (dropXlate (assignKey s (clusterOf q.core)).2 q.core [q.slot])
    (t.clusterAt cl).waiting = [] ∧ (t.clusterAt cl).faults = (s.clusterAt cl).faults + 1 ∧
      (t.clusterAt cl).records = (s.clusterAt cl).records ++ [⟨q.ctag, faultData q.va key q.core (threadSource x q.slot) kind
        (accessByte q.read q.write q.exec) level q.ctag x.lid x.pc⟩] := by
  simp only [sendRecord, queueRecord, dropXlate, assignKey, hcl, State.clusterAt_modCluster]
  refine ⟨?_, rfl, rfl⟩
  rw [h]
  simp

theorem faultData_words {va core source kind access level : Nat} {key : BitVec 32} {ctag : BitVec 4} {lid : BitVec 32} {pc : Word} :
    let d := faultData va key core source kind access level ctag lid pc
    bitsOf d 63 0 = va % 2 ^ 64 ∧ (va < 2 ^ 64 → bitsOf d 95 64 = key.toNat) := by
  have hkey := key.isLt
  simp only [bitsOf, faultData, BitVec.toNat_ofNat, pow_zero, Nat.div_one]
  exact ⟨by omega, fun h => by omega⟩

/-- A thread whose walk has failed is parked under the port's next key, and its record is queued. -/
theorem failedWalk_parks {kind level : Nat} {key : BitVec 32} (hwaiting : (s.clusterAt cl).waiting = [q]) (hslot : q.slot < 8)
    (hcl : clusterOf q.core = cl) (hpair : (s.slotOf q.core q.slot).pair = .alone) (hcaps : (s.slotOf q.core q.slot).capsule = none)
    (hfree : (s.slotOf q.core q.slot).reservation = .free)
    (hkey : key = .ofNat 32 (cl * 2 ^ 24 + (s.clusterAt cl).faults.toNat)) :
    let t := failAccess s q (sendRecord q kind level)
    ∃ d, t.mem = s.mem ∧ (t.slotOf q.core q.slot).status = .parked ∧
      (t.slotOf q.core q.slot).park = .fault key ∧ (t.slotOf q.core q.slot).pc = (s.slotOf q.core q.slot).pc ∧
      (t.clusterAt cl).waiting = [] ∧ (t.clusterAt cl).faults = (s.clusterAt cl).faults + 1 ∧
      (t.clusterAt cl).records = (s.clusterAt cl).records ++ [⟨q.ctag, d⟩] ∧
      bitsOf d 63 0 = q.va % 2 ^ 64 ∧ (q.va < 2 ^ 64 → bitsOf d 95 64 = key.toNat) := by
  have hassigned : (assignKey s (clusterOf q.core)).1 = key := by rw [hcl, hkey]; rfl
  have hport := sendRecord_port (key := key) (x := s.slotOf q.core q.slot) (kind := kind) (level := level) hcl hwaiting
  have hslots : (sendRecord q kind level key (s.slotOf q.core q.slot)
    (dropXlate (assignKey s (clusterOf q.core)).2 q.core [q.slot])).slotOf q.core q.slot = s.slotOf q.core q.slot := rfl
  have hmem : (sendRecord q kind level key (s.slotOf q.core q.slot)
    (dropXlate (assignKey s (clusterOf q.core)).2 q.core [q.slot])).mem = s.mem := rfl
  dsimp only
  rw [failAccess_thread hpair hcaps, hassigned]
  generalize sendRecord q kind level key _ _ = w at hport hslots hmem ⊢
  obtain ⟨hwait, hfaults, hrecords⟩ := hport
  have hwfree : (w.slotOf q.core q.slot).reservation = .free := by rw [hslots]; exact hfree
  obtain ⟨hstatus, hpark, hpc⟩ := slotOf_parkFault (key := key) hslot hwfree
  obtain ⟨hwmem, hwcluster⟩ := parkFault_keeps (key := key) (cl := cl) hwfree
  exact ⟨_, hwmem.trans hmem, hstatus, hpark, hpc.trans (by rw [hslots]), by rw [hwcluster]; exact hwait,
    by rw [hwcluster]; exact hfaults, by rw [hwcluster]; exact hrecords, faultData_words⟩

/-- R20, R383, R385: a thread's request whose page the TLB has, whose walk ends at a leaf, or whose walk fails. -/
theorem requestAnswered (hwaiting : (s.clusterAt cl).waiting = [q]) (hslot : q.slot < 8) (hcl : clusterOf q.core = cl)
    (hfailed : q.failed = none) (hwaits : (s.slotOf q.core q.slot).wait = .translation q.va q.exec)
    (hdock : (s.slotOf q.core q.slot).docking = false) :
    (∀ pa pol, translate s cl q.ctag q.va q.read q.write q.exec = .hit pa pol → ∃ t, exec (.tlbWalkComplete cl 0) s = .next t ∧
      t.mem = s.mem ∧ (t.clusterAt cl).waiting = [] ∧ (t.slotOf q.core q.slot).pc = (s.slotOf q.core q.slot).pc ∧
      (q.exec = true → (t.slotOf q.core q.slot).status.issues = true) ∧
      (q.exec = false → t.going = s.going ++ [(q.core, q.slot)] ∧ t.slotOf q.core q.slot = s.slotOf q.core q.slot)) ∧
    (translate s cl q.ctag q.va q.read q.write q.exec = .miss → ∀ x, (s.clusterAt cl).contexts.find? q.ctag.toNat = some x →
      x.hostProcess = false →
      (∀ e u, walk s cl q.ctag q.va q.read q.write q.exec = .leaf e u → exec (.tlbWalkComplete cl 0) s =
        .next (if q.exec then reissue (dropRequest u cl q) q.core q.slot else goOn (dropRequest u cl q) q.core q.slot)) ∧
      (∀ kind level, walk s cl q.ctag q.va q.read q.write q.exec = .failed kind level s → (s.clusterAt cl).records.length < 256 →
        (s.slotOf q.core q.slot).pair = .alone → (s.slotOf q.core q.slot).capsule = none → (s.slotOf q.core q.slot).reservation = .free →
        let key : BitVec 32 := .ofNat 32 (cl * 2 ^ 24 + (s.clusterAt cl).faults.toNat)
        ∃ t d, exec (.tlbWalkComplete cl 0) s = .next t ∧ t.mem = s.mem ∧ (t.slotOf q.core q.slot).status = .parked ∧
          (t.slotOf q.core q.slot).park = .fault key ∧ (t.slotOf q.core q.slot).pc = (s.slotOf q.core q.slot).pc ∧
          (t.clusterAt cl).waiting = [] ∧ (t.clusterAt cl).faults = (s.clusterAt cl).faults + 1 ∧
          (t.clusterAt cl).records = (s.clusterAt cl).records ++ [⟨q.ctag, d⟩] ∧
          bitsOf d 63 0 = q.va % 2 ^ 64 ∧ (q.va < 2 ^ 64 → bitsOf d 95 64 = key.toNat))) := by
  have halone : q.AloneAt s cl := ⟨hwaiting, hslot, hfailed, hwaits⟩
  have hexec := exec_tlbWalkComplete_alone halone
  rw [walkEnds_alone halone] at hexec
  refine ⟨fun pa pol hhit => ⟨_, ?_, translated_spec halone hdock⟩, fun hmiss x hx hhost => ⟨fun e u hleaf => ?_,
    fun kind level hfail hroom hpair hcaps hfree => ?_⟩⟩
  · rw [hhit] at hexec
    exact hexec
  · rw [hmiss, hx, hleaf] at hexec
    dsimp only at hexec
    rw [if_neg (by simp [hhost]), translated_thread hslot] at hexec
    exact hexec
  · rw [hmiss, hx, hfail] at hexec
    dsimp only at hexec
    rw [if_neg (by simp [hhost]), if_neg (by omega), if_pos (by simpa [recordRoom] using hroom)] at hexec
    obtain ⟨d, hspec⟩ := failedWalk_parks (kind := kind) (level := level) hwaiting hslot hcl hpair hcaps hfree rfl
    exact ⟨_, d, hexec, hspec⟩

end

/-! ## The last level of a walk -/

section
variable {s : State} {at_ cl va table : Nat} {ctag : BitVec 4} {ctx : Context} {r w x : Bool} {l : HomeLine}

/-- An entry of a page table whose line its home holds, and no peer has. -/
theorem walkEntry_held (hap : apertureOf s at_ = none) (hline : s.homes.find? (at_ / 32) = some l) (hgood : l.poison = false) :
    walkEntry s cl ctag at_ = (some (lineSlice l at_ 8, false), s) := by
  have hblocked : arrayBlocked s .homed at_ = false := by simp [arrayBlocked, needsArray, hline]
  simp [walkEntry, hap, hblocked, homeLoad, homeLine, hline, State.poisonHere, hgood]

theorem ofNat_lineSlice : (BitVec.ofNat 64 (lineSlice l at_ 8) : Word) = .ofNat 64 (l.data.toNat / 2 ^ (8 * (at_ % 32))) := by
  apply BitVec.eq_of_toNat_eq
  simp [lineSlice]

/-- A bit that is set is left as it is where it is set again. -/
theorem setBits_of_bitAt {n : Nat} {e : BitVec n} {b : Nat} (h : bitAt e b = true) : setBits e b b 1 = e := by
  apply BitVec.eq_of_getLsbD_eq
  intro j hj
  have hbit := bitAt_setBits e (le_refl b) 1 j
  rw [bitAt] at hbit h
  rw [hbit]
  split
  next hb =>
    obtain rfl : b = j := by omega
    simp [hj, h]
  next => rfl

/-- A leaf of the last level, whose reserved bits and unused address bits are zero, is well formed. -/
theorem entryMalformed_leaf {e : Word} (hleaf : bitAt e 1 = true) (hhigh : bitsOf e 63 52 = 0) (hmid : bitsOf e 11 9 = 0)
    (hpage : bitsOf e 51 12 % 16 = 0) : entryMalformed e 3 = false := by
  have haligned : bitsOf e 51 0 / 2 ^ 12 * 2 ^ 12 % 2 ^ 16 = 0 := by
    simp only [bitsOf] at hpage ⊢
    omega
  simp [entryMalformed, hleaf, hhigh, hmid, leafSize, pageBits]
  simpa using haligned

/-- One step of a walk at the last level, as the entry says. -/
theorem walkFrom_last {e : Word} (hap : apertureOf s (table + 8 * (va / 2 ^ 16 % 2 ^ 9)) = none)
    (hline : s.homes.find? ((table + 8 * (va / 2 ^ 16 % 2 ^ 9)) / 32) = some l) (hgood : l.poison = false)
    (he : e = .ofNat 64 (l.data.toNat / 2 ^ (8 * ((table + 8 * (va / 2 ^ 16 % 2 ^ 9)) % 32)))) :
    walkFrom ctx cl ctag va r w x [3] table s =
      if !bitAt e 0 then .failed 1 3 s
      else if entryMalformed e 3 then .failed 3 3 s
      else if !bitAt e 1 then .failed 3 3 s
      else if (r && !bitAt e 2) || (w && !bitAt e 3) || (x && !bitAt e 4) then .failed 2 3 s
      else
        let e' := setBits (if w then setBits e 6 6 1 else e) 5 5 1
        match (if e' = e then (true, s) else writeEntryBack s cl ctag (table + 8 * (va / 2 ^ 16 % 2 ^ 9)) e'.toNat) with
        | (false, s) => .snooped s
        | (true, s) =>
          .leaf { tag := ctx.tlbTag ctag, hostProcess := false, page := va / 2 ^ 16 * 2 ^ 16
                  size := 0, pa := bitsOf e 51 12 * 2 ^ 12, policy := policyOf (bitsOf e 8 7)
                  r := bitAt e 2, w := bitAt e 3, x := bitAt e 4, d := bitAt e' 6 } s := by
  rw [← ofNat_lineSlice] at he
  subst he
  rw [walkFrom]
  dsimp only
  rw [show walkIndex va 3 = va / 2 ^ 16 % 2 ^ 9 from rfl, walkEntry_held hap hline hgood]
  rfl

theorem walkFrom_leaf {e : Word} (hap : apertureOf s (table + 8 * (va / 2 ^ 16 % 2 ^ 9)) = none)
    (hline : s.homes.find? ((table + 8 * (va / 2 ^ 16 % 2 ^ 9)) / 32) = some l) (hgood : l.poison = false)
    (he : e = .ofNat 64 (l.data.toNat / 2 ^ (8 * ((table + 8 * (va / 2 ^ 16 % 2 ^ 9)) % 32)))) :
    (bitAt e 0 = false → walkFrom ctx cl ctag va r w x [3] table s = .failed 1 3 s) ∧
    (bitAt e 0 = true → bitAt e 1 = true → bitsOf e 63 52 = 0 → bitsOf e 11 9 = 0 → bitsOf e 51 12 % 16 = 0 →
      ((r = true ∧ bitAt e 2 = false) ∨ (w = true ∧ bitAt e 3 = false) ∨ (x = true ∧ bitAt e 4 = false) →
        walkFrom ctx cl ctag va r w x [3] table s = .failed 2 3 s) ∧
      ((r = true → bitAt e 2 = true) → (w = true → bitAt e 3 = true ∧ bitAt e 6 = true) → (x = true → bitAt e 4 = true) →
        bitAt e 5 = true → ∃ n, walkFrom ctx cl ctag va r w x [3] table s = .leaf n s ∧ n.page = va / 2 ^ 16 * 2 ^ 16 ∧
          n.pa = bitsOf e 51 12 * 2 ^ 12 ∧ n.size = 0 ∧ n.policy = policyOf (bitsOf e 8 7) ∧ n.r = bitAt e 2 ∧ n.w = bitAt e 3 ∧
          n.x = bitAt e 4)) := by
  rw [walkFrom_last hap hline hgood he]
  clear he
  refine ⟨fun hvalid => if_pos (by simp [hvalid]), fun hvalid hleaf hhigh hmid hpage => ?_⟩
  rw [if_neg (by simp [hvalid]), if_neg (by simp [entryMalformed_leaf hleaf hhigh hmid hpage]), if_neg (by simp [hleaf])]
  refine ⟨fun hright => if_pos ?_, fun hr hw hx hA => ?_⟩
  · obtain ⟨h, hb⟩ | ⟨h, hb⟩ | ⟨h, hb⟩ := hright <;> simp [h, hb]
  · have hset : setBits (if w then setBits e 6 6 1 else e) 5 5 1 = e := by
      split
      next h => rw [setBits_of_bitAt (hw h).2, setBits_of_bitAt hA]
      next => exact setBits_of_bitAt hA
    have hrights : ¬ ((r && !bitAt e 2) || (w && !bitAt e 3) || (x && !bitAt e 4)) = true := by
      simp only [Bool.or_eq_true, Bool.and_eq_true, Bool.not_eq_true']
      rintro ((⟨h, hb⟩ | ⟨h, hb⟩) | ⟨h, hb⟩)
      · simp [hr h] at hb
      · simp [(hw h).1] at hb
      · simp [hx h] at hb
    rw [if_neg hrights, hset]
    dsimp only
    rw [if_pos rfl]
    exact ⟨_, rfl, rfl, rfl, rfl, rfl, rfl, rfl, rfl⟩

end

/-! ## Tables that are open -/

section
variable {a s : State} {pa n v : Nat} {poison : Bool}

theorem bankBusy_congr {t : State} (h : t.pchs = s.pchs) : bankBusy t pa = bankBusy s pa := by
  simp only [bankBusy, State.pchOf, h]

theorem apertureOf_congr {t : State} (h : t.apertures = s.apertures) : apertureOf t pa = apertureOf s pa := by
  simp only [apertureOf, h]

theorem State.Moved.wants (h : a.Moved s) : s.wants = a.wants := congrArg Prod.fst h.outside
theorem State.Moved.messages (h : a.Moved s) : s.messages = a.messages := congrArg (fun x => x.2.1) h.outside
theorem State.Moved.hostLines (h : a.Moved s) : s.hostLines = a.hostLines := congrArg (fun x => x.2.2.1) h.outside
theorem State.Moved.pchs (h : a.Moved s) : s.pchs = a.pchs := congrArg (fun x => x.2.2.2.1) h.outside
theorem State.Moved.apertures (h : a.Moved s) : s.apertures = a.apertures := congrArg (fun x => x.2.2.2.2) h.outside

/-- Accesses leave the tables open. -/
theorem State.Moved.tablesOpen (h : a.Moved s) (ho : TablesOpen a) : TablesOpen s := by
  obtain ⟨hwants, hhost, hfree⟩ := ho
  refine ⟨h.wants.trans hwants, h.hostLines.trans hhost, fun pa => ?_⟩
  rw [bankBusy_congr h.pchs, apertureOf_congr h.apertures]
  exact hfree pa

/-- Where no bank is busy, a full home has lines that may leave. -/
theorem hasRoom_of_idle (h : ∀ pa, bankBusy s pa = false) : hasRoom s pa = true := by
  have hmovable : movableLines s pa = linesAt s (homeCore s pa) := by simp [movableLines, h]
  rw [hasRoom, hmovable]
  cases hlines : linesAt s (homeCore s pa) with
  | nil => simp [homeFull, homeCapacity, hlines]
  | cons => simp

theorem arrayBlocked_open (ho : TablesOpen s) {pol : Policy} : arrayBlocked s pol pa = false := by
  have hidle : ∀ pa, bankBusy s pa = false := fun pa => (ho.2.2 pa).1
  simp [arrayBlocked, hidle, hasRoom_of_idle hidle]

theorem State.Moved.readLines (h : a.Moved s) : a.Moved (readLines s 0 .homed pa n).2 :=
  .foldl_on Prod.snd (fun _ _ h => .dirtyLoad h) h

theorem State.Moved.recordLines {marks : Nat → Nat → Bool} (h : a.Moved s) : a.Moved (recordLines s 0 .homed pa n v marks) :=
  .noteGlobal (.foldl (fun _ _ h => .keepLine (.homeLine (.ite (.widen h) h))) h)

theorem State.Moved.tableRead (h : a.Moved s) (ho : TablesOpen s) : a.Moved (tableRead s pa n).2.2 := by
  have hbusy : busyLines s pa n = [] := by simp [busyLines, (ho.2.2 pa).2, arrayBlocked_open ho]
  have hneed : needLines s [] = s := rfl
  unfold Machine.tableRead tableBytes
  dsimp only
  rw [hbusy, hneed, (ho.2.2 pa).2]
  dsimp only
  split
  · exact .readLines h
  · exact .update h

theorem State.Moved.tableWrite (h : a.Moved s) (ho : TablesOpen s) : a.Moved (tableWrite s pa n v poison) := by
  have hneed : needLines s [] = s := rfl
  unfold Machine.tableWrite
  rw [(ho.2.2 pa).2]
  dsimp only
  split
  · simp only [arrayBlocked_open ho, ho.2.1, List.contains_nil, Bool.or_self, List.filter_false]
    rw [hneed]
    exact .recordLines h
  · exact h

end

/-! ## The delivery of a record -/

section
variable {s u : State} {cl ends : Nat} {r : FaultRec} {rest : List FaultRec} {ctx : Context}

theorem exec_faultRecordDelivery (hrecords : (s.clusterAt cl).records = r :: rest)
    (hctx : (s.clusterAt cl).contexts.find? r.ctag.toNat = some ctx) :
    exec (.faultRecordDelivery cl) s = .next (askHost s (deliverRecord s cl ctx r rest)) := by
  show execFaultRecordDelivery cl s = _
  unfold execFaultRecordDelivery deviceStep
  dsimp only
  rw [hrecords]
  dsimp only
  rw [hctx]

/-- R387: the oldest record of a port. -/
theorem recordDelivered (ho : TablesOpen s) (hrecords : (s.clusterAt cl).records = r :: rest)
    (hctx : (s.clusterAt cl).contexts.find? r.ctag.toNat = some ctx) (hread : tableRead s (ctx.desc.toNat + 24) 8 = (ends, false, u)) :
    let tail := bytesAt ends 0 4
    let held := (tail + 2 ^ 32 - bytesAt ends 4 4) % 2 ^ 32
    (ctx.fqsize = 0 ∨ held = ctx.fqsize → exec (.faultRecordDelivery cl) s = .next u) ∧
    (ctx.fqsize ≠ 0 → held ≠ ctx.fqsize → ∃ t, exec (.faultRecordDelivery cl) s = .next t ∧ (t.clusterAt cl).records = rest ∧
      (let w := tableWrite (tableWrite u (ctx.fqbase.toNat + 32 * (tail % ctx.fqsize)) 32 r.data.toNat false)
        (ctx.desc.toNat + 24) 4 ((tail + 1) % 2 ^ 32) false
       t.mem = w.mem ∧ t.homes = w.homes) ∧
      ∃ m, t.messages = u.messages ++ [m] ∧ m.dest = ctx.notify ∧ m.destSlot = 7 ∧ m.payload.val = .ofNat 64 tail) := by
  have hu : s.Moved u := by
    have h := State.Moved.tableRead (pa := ctx.desc.toNat + 24) (n := 8) (.refl s) ho
    rwa [hread] at h
  have huo := hu.tablesOpen ho
  intro tail held
  have hfirst := State.Moved.tableWrite (pa := ctx.fqbase.toNat + 32 * (tail % ctx.fqsize)) (n := 32) (v := r.data.toNat)
    (poison := false) (.refl u) huo
  have hsecond := hfirst.tableWrite (pa := ctx.desc.toNat + 24) (n := 4) (v := (tail + 1) % 2 ^ 32) (poison := false)
    (hfirst.tablesOpen huo)
  have hexec := exec_faultRecordDelivery hrecords hctx
  unfold deliverRecord at hexec
  rw [hread] at hexec
  dsimp only at hexec
  refine ⟨fun hfull => ?_, fun hsize hroom => ?_⟩
  · rw [if_pos (by simp only [Bool.or_eq_true, decide_eq_true_eq, beq_iff_eq]; exact hfull), askHost_of_wants huo.1] at hexec
    exact hexec
  · rw [if_neg (by simp only [Bool.or_eq_true, decide_eq_true_eq, beq_iff_eq, not_or]; exact ⟨hsize, hroom⟩)] at hexec
    generalize tableWrite (tableWrite u _ _ _ _) _ _ _ _ = w at hexec hsecond ⊢
    have hopen := askHost_of_wants (s := s) (t := deviceMessage (w.modCluster cl fun p => { p with records := rest }) ctx.notify 7
      (BitVec.ofNat 64 tail)) (hsecond.wants.trans huo.1)
    rw [hopen] at hexec
    refine ⟨_, hexec, ?_, ⟨rfl, rfl⟩, _, congrArg (· ++ [_]) hsecond.messages, rfl, rfl, rfl⟩
    exact congrArg Cluster.records ((State.clusterAt_modCluster w cl cl fun p => { p with records := rest }).trans (if_pos rfl))

end

/-- Settles O24: the requests at a port, the last level of a walk, and the delivery of records. -/
theorem translationAndFaults : Obligations.TranslationAndFaults :=
  ⟨fun _ _ _ hwaiting hslot hcl hfailed hwaits hdock => requestAnswered hwaiting hslot hcl hfailed hwaits hdock,
    fun _ _ _ _ _ _ _ _ _ _ hap hline hgood => walkFrom_leaf hap hline hgood rfl,
    fun _ _ _ _ _ _ _ ho hrecords hctx hread => recordDelivered ho hrecords hctx hread⟩

end Sys2Proof.Machine

end

section

namespace Sys2Proof.Machine
open Claims

/-! ## Lanes of a vector register -/

section
variable {f : Nat → Lane}

/-- The lanes below the top one of the `n` upper lanes stand above it. -/
theorem lanesFrom_digit {n j : Nat} (hn : n ≤ 64) (hj : j < n) : lanesFrom f n / 2 ^ (32 * j) % 2 ^ 32 = (f (64 - n + j)).toNat := by
  induction n generalizing j with
  | zero => omega
  | succ n ih =>
    have hlow : (f (63 - n)).toNat < 2 ^ 32 := (f (63 - n)).isLt
    rw [lanesFrom]
    cases j with
    | zero =>
      rw [show 64 - (n + 1) + 0 = 63 - n by omega]
      simpa [Nat.add_mul_mod_self_left] using hlow
    | succ j =>
      have hrest := ih (j := j) (by omega) (by omega)
      rw [show 64 - (n + 1) + (j + 1) = 64 - n + j by omega, ← hrest, show 32 * (j + 1) = 32 + 32 * j by ring, Nat.pow_add,
        ← Nat.div_div_eq_div_mul, Nat.add_mul_div_left _ _ (Nat.two_pow_pos 32), Nat.div_eq_of_lt hlow, Nat.zero_add]

theorem lanesFrom_lt {n w : Nat} (hw : w = 32 * n) : lanesFrom f n < 2 ^ w := by
  subst hw
  induction n with
  | zero => simp [lanesFrom]
  | succ n ih =>
    have hlow : (f (63 - n)).toNat < 2 ^ 32 := (f (63 - n)).isLt
    rw [lanesFrom, show 32 * (n + 1) = 32 + 32 * n by ring, Nat.pow_add]
    nlinarith

theorem toNat_ofNat_lt {w x : Nat} (h : x < 2 ^ w) : (BitVec.ofNat w x).toNat = x := by
  rw [BitVec.toNat_ofNat, Nat.mod_eq_of_lt h]

theorem toNat_ofLanes : (ofLanes f).toNat = lanesFrom f 64 := toNat_ofNat_lt (lanesFrom_lt rfl)

/-- The register whose lanes a function gives has them. -/
theorem lane_ofLanes {i : Nat} (hi : i < 64) : lane (ofLanes f) i = f i := by
  apply BitVec.eq_of_toNat_eq
  rw [lane, BitVec.extractLsb'_toNat, toNat_ofLanes, Nat.shiftRight_eq_div_pow, lanesFrom_digit (n := 64) (le_refl _) hi, Nat.sub_self,
    Nat.zero_add]

/-- A doubleword of a register is two of its lanes. -/
theorem vecWord_lanes (v : Vec) (d : Nat) : vecWord v d = (lane v (2 * d + 1) ++ lane v (2 * d) : BitVec 64) := by
  apply BitVec.eq_of_getLsbD_eq
  intro k hk
  simp only [vecWord, lane, BitVec.getLsbD_append, BitVec.getLsbD_extractLsb']
  rcases Nat.lt_or_ge k 32 with hlow | hhigh
  · simp [hlow, hk, show 32 * (2 * d) = 64 * d by ring]
  · simp [Nat.not_lt.2 hhigh, hk, show k - 32 < 32 by omega, show 32 * (2 * d + 1) + (k - 32) = 64 * d + k by omega]

theorem lane_setLane {v : Vec} {i j : Nat} {x : Lane} (hj : j < 64) : lane (setLane v i x) j = if j = i then x else lane v j :=
  lane_ofLanes hj

theorem lane_setVecWord {v : Vec} {d j : Nat} {x : Word} (hj : j < 64) :
    lane (setVecWord v d x) j = if j / 2 = d then x.extractLsb' (32 * (j % 2)) 32 else lane v j := lane_ofLanes hj

theorem vecWord_setVecWord {v : Vec} {d e : Nat} {x : Word} (he : e < 32) :
    vecWord (setVecWord v d x) e = if e = d then x else vecWord v e := by
  rw [vecWord_lanes, lane_setVecWord (by omega), lane_setVecWord (by omega), show (2 * e + 1) / 2 = e by omega,
    show 2 * e / 2 = e by omega, show (2 * e + 1) % 2 = 1 by omega, show 2 * e % 2 = 0 by omega]
  by_cases hd : e = d
  · rw [if_pos hd, if_pos hd, if_pos hd]
    apply BitVec.eq_of_getLsbD_eq
    intro k hk
    simp only [BitVec.getLsbD_append, BitVec.getLsbD_extractLsb']
    rcases Nat.lt_or_ge k 32 with hlow | hhigh
    · simp [hlow]
    · simp [Nat.not_lt.2 hhigh, show k - 32 < 32 by omega, show 32 + (k - 32) = k by omega]
  · rw [if_neg hd, if_neg hd, if_neg hd, vecWord_lanes]

/-- Doublewords written one after the other. -/
def setVecWords (v : Vec) (w : Nat → Word) (n : Nat) : Vec := (List.range n).foldl (fun v e => setVecWord v e (w e)) v

theorem setVecWords_succ (v : Vec) (w : Nat → Word) (n : Nat) : setVecWords v w (n + 1) = setVecWord (setVecWords v w n) n (w n) := by
  rw [setVecWords, List.range_succ, List.foldl_append]
  rfl

theorem vecWord_setVecWords {v : Vec} {w : Nat → Word} {n e : Nat} (he : e < n) (hn : n ≤ 32) : vecWord (setVecWords v w n) e = w e := by
  induction n with
  | zero => omega
  | succ n ih =>
    rw [setVecWords_succ, vecWord_setVecWord (by omega)]
    split
    next h => rw [h]
    next h => exact ih (by omega) (by omega)

theorem lane_setVecWords {v : Vec} {w : Nat → Word} {n j : Nat} (hj : 2 * n ≤ j) (hj' : j < 64) :
    lane (setVecWords v w n) j = lane v j := by
  induction n with
  | zero => rfl
  | succ n ih => rw [setVecWords_succ, lane_setVecWord hj', if_neg (by omega), ih (by omega)]

end

end Sys2Proof.Machine

end

section

namespace Sys2Proof.Machine
open Claims

/-! ## Registers and flow of a slot -/

/-- The registers that an instruction names, with the PC and the handler's windows. -/
def Slot.file (x : Slot) : Word × Vector Word 32 × BitVec 16 × Vector Vec 16 × Vector Word 8 × Vector Vec 4 × Handler :=
  (x.pc, x.g, x.pred, x.v, x.winG, x.winV, x.handler)

/-- What decides how an instruction goes on, and whether its slot halts as it retires. -/
def Slot.flow (x : Slot) : Bool × Bool × Bool × PairRole × Wait := (x.docking, x.haltPending, x.stepArmed, x.pair, x.wait)

section
variable {x y : Slot}

theorem Slot.file_pc (h : y.file = x.file) : y.pc = x.pc := congrArg Prod.fst h
theorem Slot.file_g (h : y.file = x.file) : y.g = x.g := congrArg (fun z => z.2.1) h

theorem Slot.readG_file (h : y.file = x.file) (n : Nat) : y.readG n = x.readG n := by
  obtain ⟨-, hg, -, -, hwin, -, hin⟩ : y.pc = x.pc ∧ y.g = x.g ∧ y.pred = x.pred ∧ y.v = x.v ∧ y.winG = x.winG ∧ y.winV = x.winV ∧
    y.handler = x.handler := by simpa [Slot.file] using h
  simp only [Slot.readG, Slot.inHandler, hg, hwin, hin]
  rfl

theorem Slot.readV_file (h : y.file = x.file) (n : Nat) : y.readV n = x.readV n := by
  obtain ⟨-, -, -, hv, -, hwin, hin⟩ : y.pc = x.pc ∧ y.g = x.g ∧ y.pred = x.pred ∧ y.v = x.v ∧ y.winG = x.winG ∧ y.winV = x.winV ∧
    y.handler = x.handler := by simpa [Slot.file] using h
  simp only [Slot.readV, Slot.inHandler, hv, hwin, hin]
  rfl

theorem Slot.predicate_file (h : y.file = x.file) (n : Nat) : y.predicate n = x.predicate n :=
  Slot.predicate_congr (congrArg (fun z => z.2.2.1) h) n

theorem Slot.steady_flow (h : x.steady = true) : x.flow = (false, false, false, .alone, .nothing) := by
  obtain ⟨_, hwait, _, _, _, _, hpair, _, _, _, _, hdock, hhalt, hstep, _⟩ := Slot.steady_fields h
  rw [Slot.flow, hdock, hhalt, hstep, hpair, hwait]

/-- An instruction that retires leaves the registers as it wrote them. -/
theorem retireSlot_file (x : Slot) (pc : Word) : (retireSlot x pc).file = (x.movedTo pc).file := by
  unfold retireSlot
  exact slot_ite (π := Slot.file) rfl (slot_ite (π := Slot.file) rfl rfl)

theorem retireSlot_ports (x : Slot) (pc : Word) : (retireSlot x pc).ports = x.ports := by
  unfold retireSlot
  exact slot_ite (π := Slot.ports) rfl (slot_ite (π := Slot.ports) rfl rfl)

theorem retireSlot_issues (h : x.flow = (false, false, false, .alone, .nothing)) (pc : Word) :
    (retireSlot x pc).status = x.resumed'.status := by
  obtain ⟨hdock, hhalt, hstep, -⟩ : x.docking = false ∧ x.haltPending = false ∧ x.stepArmed = false ∧ x.pair = .alone ∧
    x.wait = .nothing := by simpa [Slot.flow] using h
  unfold retireSlot
  dsimp only [Slot.resumed']
  rw [hdock, hhalt, hstep]
  rfl

end

/-! ## Retiring after a change of the slot -/

section
variable {s : State} {f : Slot → Slot}

theorem doneNext_modMe (hs : s.slot < 8) (hflow : (f s.me).flow = (false, false, false, .alone, .nothing)) :
    doneNext (s.modMe f) = s.setMe (retireSlot (f s.me) ((f s.me).pc + 4)) := by
  have hme : (s.modMe f).me = f s.me := State.me_modMe _ _ hs
  have hmod : s.modMe f = s.setMe (f s.me) := rfl
  have hstatus : ((s.setMe (retireSlot (f s.me) ((f s.me).pc + 4))).slotOf s.core s.slot).status ≠ .halted := by
    rw [show (s.setMe _).slotOf s.core s.slot = _ from State.me_setMe _ _ hs, retireSlot_issues hflow]
    have h := resumed_issues (f s.me)
    intro hhalted
    rw [hhalted] at h
    cases h
  rw [doneNext, hme, done, retire, hmod, State.modMe_setMe _ _ _ hs, haltEnds]
  exact if_neg (by simpa using hstatus)

theorem portGet_setMe {y : Slot} {c k port : Nat} (hy : y.ports = s.me.ports) : portGet (s.setMe y) c k port = portGet s c k port :=
  State.KeepsOf.portGet (State.KeepsOf.modSlot (f := fun _ => y) (π := Slot.ports) hy) c k port

/-- An instruction that has changed its slot's registers retires. -/
theorem doneNext_spec (hs : s.slot < 8) (hflow : (f s.me).flow = (false, false, false, .alone, .nothing))
    (hports : (f s.me).ports = s.me.ports) :
    let t := doneNext (s.modMe f)
    t.me.file = ((f s.me).movedTo ((f s.me).pc + 4)).file ∧ t.mem = s.mem ∧
      (∀ c k port, portGet t c k port = portGet s c k port) ∧ ∀ d, (t.coreOf d).arriving = (s.coreOf d).arriving := by
  dsimp only
  rw [doneNext_modMe hs hflow, State.me_setMe _ _ hs]
  exact ⟨retireSlot_file _ _, rfl, fun c k port => portGet_setMe ((retireSlot_ports _ _).trans hports),
    fun d => State.coreOf_setSlot_arriving ..⟩

end

/-! ## What pops and pushes leave alone -/

/-- Within an instruction that pops or pushes, neither memory nor the registers change, nor how the slot goes on. -/
structure State.Within (s t : State) : Prop where
  core : t.core = s.core
  slot : t.slot = s.slot
  mem : t.mem = s.mem
  file : t.me.file = s.me.file
  flow : t.me.flow = s.me.flow
  deferred : (t.coreOf s.core).deferred = (s.coreOf s.core).deferred

section
variable {s t u : State} {port : Nat}

theorem State.Within.refl (s : State) : s.Within s := ⟨rfl, rfl, rfl, rfl, rfl, rfl⟩

theorem State.Within.trans (h : s.Within t) (h' : t.Within u) : s.Within u :=
  ⟨h'.core.trans h.core, h'.slot.trans h.slot, h'.mem.trans h.mem, h'.file.trans h.file, h'.flow.trans h.flow, by
    rw [← h.core, h'.deferred, h.core, h.deferred]⟩

theorem State.Within.modMe {f : Slot → Slot} (hs : s.slot < 8) (hf : (f s.me).file = s.me.file ∧ (f s.me).flow = s.me.flow) :
    s.Within (s.modMe f) :=
  ⟨rfl, rfl, rfl, by rw [State.me_modMe _ _ hs]; exact hf.1, by rw [State.me_modMe _ _ hs]; exact hf.2,
    State.coreOf_modSlot_deferred ..⟩

theorem State.Within.modCore {f : Core → Core} (hf : ∀ r, (f r).slots = r.slots ∧ (f r).deferred = r.deferred) :
    s.Within (s.modCore s.core f) := by
  have hme : (s.modCore s.core f).me = s.me := me_modCore fun r => (hf r).1
  refine ⟨rfl, rfl, rfl, by rw [hme], by rw [hme], ?_⟩
  rw [State.coreOf_modCore, if_pos rfl]
  exact (hf _).2

theorem State.Within.portSet {l : List Elem} (hs : s.slot < 8) : s.Within (portSet s s.core s.slot port l) := by
  unfold Machine.portSet
  split_ifs
  · exact .modMe hs ⟨rfl, rfl⟩
  · exact .modCore fun _ => ⟨rfl, rfl⟩
  · exact .modCore fun _ => ⟨rfl, rfl⟩
  · exact .modMe hs ⟨rfl, rfl⟩

theorem State.Within.keepLatch {e : Elem} (hs : s.slot < 8) : s.Within (keepLatch s e) := .modMe hs ⟨rfl, rfl⟩

theorem State.Within.setErr (lid : BitVec 32) (bit : Nat) : s.Within (setErr s lid bit) := ⟨rfl, rfl, rfl, rfl, rfl, rfl⟩

theorem State.Within.consumeIf {p : Bool} (hs : s.slot < 8) : s.Within (consumeIf s s.core s.slot p) := by
  unfold Machine.consumeIf consumePoison
  split
  · exact (State.Within.modMe (f := fun x => { x with pois := true }) hs ⟨rfl, rfl⟩).trans (.setErr _ _)
  · exact .refl s

theorem State.Within.receive {e : Elem} (hs : s.slot < 8) : s.Within (receive s s.core s.slot e) := by
  unfold Machine.receive
  dsimp only
  split
  · have hraised : s.Within (s.modSlot s.core s.slot fun x => x.raise (BitVec.ofNat 7 (bitsOf e.val 39 33))) := .modMe hs ⟨rfl, rfl⟩
    exact hraised.trans (.consumeIf (s := s.modSlot s.core s.slot fun x => x.raise (BitVec.ofNat 7 (bitsOf e.val 39 33))) hs)
  · exact .consumeIf hs

/-- A change of another slot of the core. -/
theorem State.Within.modOther {k : Nat} {f : Slot → Slot} (hk : k ≠ s.slot) : s.Within (s.modSlot s.core k f) := by
  have hme : (s.modSlot s.core k f).me = s.me := State.slotOf_modSlot_other _ _ _ _ _ _ fun h => hk h.2
  exact ⟨rfl, rfl, rfl, by rw [hme], by rw [hme], State.coreOf_modSlot_deferred ..⟩

theorem Slot.flow_wait {x : Slot} (h : x.flow = (false, false, false, .alone, .nothing)) : x.wait = .nothing :=
  congrArg (fun z => z.2.2.2.2) h
theorem Slot.flow_pair {x : Slot} (h : x.flow = (false, false, false, .alone, .nothing)) : x.pair = .alone :=
  congrArg (fun z => z.2.2.2.1) h

/-- A place that an issuing slot frees goes to another slot. -/
theorem State.Within.wakePusher (hflow : s.me.flow = (false, false, false, .alone, .nothing)) :
    s.Within (wakePusher s s.core s.slot port) := by
  unfold Machine.wakePusher
  split
  · exact .refl s
  · split
    next p j hfound =>
      have hj : j ≠ s.slot := by
        rintro rfl
        have hwaits := List.find?_some hfound
        have hwait : (s.slotOf s.core s.slot).wait = .nothing := Slot.flow_wait hflow
        simp [hwait] at hwaits
      have hmid : s.Within (s.modSlot s.core j fun x => { x with midway := true }) := .modOther hj
      dsimp only
      split
      · exact hmid.trans (.modOther (s := s.modSlot s.core j _) hj)
      · exact hmid.trans (.modOther (s := s.modSlot s.core j _) hj)
    next => exact .refl s

/-- A slot that may issue in its core, where no deferred message waits. -/
structure State.Popping (s : State) : Prop where
  slot : s.slot < 8
  flow : s.me.flow = (false, false, false, .alone, .nothing)
  deferred : (s.coreOf s.core).deferred = []

theorem State.Popping.within (h : s.Popping) (hw : s.Within t) : t.Popping :=
  ⟨by rw [hw.slot]; exact h.slot, hw.flow.trans h.flow, by rw [hw.core, hw.deferred]; exact h.deferred⟩

theorem placeFreed_wakes {c k : Nat} (h : (s.coreOf c).deferred = []) : placeFreed s c k port = wakePusher s c k port := by
  rw [placeFreed, if_neg (by simp [h])]

/-- The element is received and its place freed. -/
theorem State.Popping.takes (h : s.Popping) {e : Elem} : s.Within (placeFreed (receive s s.core s.slot e) s.core s.slot port) := by
  have hrec : s.Within (receive s s.core s.slot e) := .receive h.slot
  have hnext := h.within hrec
  rw [placeFreed_wakes (hrec.deferred.trans h.deferred)]
  have hwake := State.Within.wakePusher (port := port) hnext.flow
  rw [hrec.core, hrec.slot] at hwake
  exact hrec.trans hwake

theorem State.Popping.afterPop (h : s.Popping) {e : Elem} {rest : List Elem} : s.Within (afterPop s port e rest) := by
  have hset : s.Within (portSet s s.core s.slot port rest) := .portSet h.slot
  have hpop := h.within hset
  have hkeep : (portSet s s.core s.slot port rest).Within (keepLatch (portSet s s.core s.slot port rest) e) := .keepLatch hpop.slot
  have hpopped := hpop.within hkeep
  unfold Machine.afterPop
  dsimp only
  rw [keepRead_alone hpop.slot (Slot.flow_pair hpop.flow)]
  generalize portSet s s.core s.slot port rest = a at *
  generalize Machine.keepLatch a e = b at *
  have hrec : b.Within (receive b b.core b.slot e) := .receive hpopped.slot
  have htakes := hpopped.takes (port := port) (e := e)
  rw [← hkeep.core, ← hkeep.slot, hrec.core, hrec.slot]
  exact (hset.trans hkeep).trans htakes

/-- Elements popped one after the other, all new to the latch. -/
theorem popMany_all {n : Nat} (h : s.Popping) (hp : port < 16) (hn : n ≤ (portGet s s.core s.slot port).length) :
    ∃ u, popMany port n s.me.latch.length s = .go (((portGet s s.core s.slot port).take n).map Elem.val) u ∧ s.Within u ∧
      portGet u s.core s.slot port = (portGet s s.core s.slot port).drop n := by
  induction n generalizing s with
  | zero => exact ⟨s, by simp [popMany], .refl s, rfl⟩
  | succ n ih =>
    cases hport : portGet s s.core s.slot port with
    | nil => simp [hport] at hn
    | cons e rest =>
      have hafter : s.Within (Machine.afterPop s port e rest) := h.afterPop
      obtain ⟨hget, hlatch⟩ := afterPop_port (e := e) (rest := rest) h.slot (Slot.flow_pair h.flow) hp (by rw [h.deferred]; rfl)
      obtain ⟨u, hpop, hwithin, hleft⟩ := ih (s := Machine.afterPop s port e rest) (h.within hafter) (by
        rw [hafter.core, hafter.slot, hget]
        rw [hport] at hn
        simpa using hn)
      rw [hafter.core, hafter.slot, hget] at hpop hleft
      refine ⟨u, ?_, hafter.trans hwithin, hleft⟩
      rw [popMany, popPort_cons (Slot.flow_pair h.flow) (le_refl _) hport]
      rw [hlatch, List.length_append] at hpop
      simp only [Flow.bind]
      rw [show s.me.latch.length + 1 = s.me.latch.length + [e].length from rfl, hpop]
      rfl

end

/-! ## The port instructions -/

section
variable {i : Instr} {s : State}

theorem noted_keeps (h : s.runs i = true) : s.KeepsOf (fun x => (x.ports, x.wait)) (s.noted i) := by
  rw [State.runs_noted h]
  exact State.KeepsOf.modSlot (f := fun _ => s.me.noting i) rfl

theorem portGet_noted (h : s.runs i = true) (c k port : Nat) : portGet (s.noted i) c k port = portGet s c k port :=
  ((noted_keeps h).map Prod.fst).portGet c k port

theorem noted_within (h : s.runs i = true) : s.Within (s.noted i) := by
  rw [State.runs_noted h]
  exact .modMe (f := fun _ => s.me.noting i) (State.runs_slot h) ⟨rfl, rfl⟩

theorem popping_of_runs (h : s.runs i = true) (hdef : (s.coreOf s.core).deferred = []) : s.Popping :=
  ⟨State.runs_slot h, Slot.steady_flow (State.runs_steady h), hdef⟩

theorem noted_latch (h : s.runs i = true) : (s.noted i).me.latch = [] := by
  obtain ⟨_, _, _, hlatch, _⟩ := Slot.steady_fields (State.runs_steady h)
  rw [me_noted h]
  exact hlatch

/-- Free places depend on what the port holds, who waits there, the tokens and messages for it, and what is on its way there. -/
theorem freePlaces_shift {s t : State} {c k port n : Nat} (hget : portGet t c k port = portGet s c k port)
    (hwait : ∀ j, (t.slotOf c j).wait = (s.slotOf c j).wait) (hm : t.messages = s.messages)
    (hpushers : (t.coreOf c).pushers = (s.coreOf c).pushers) (htokens : (t.coreOf c).heldTokens = (s.coreOf c).heldTokens)
    (harr : arrivingAt t c k port = arrivingAt s c k port + n) : freePlaces t c k port = freePlaces s c k port - n := by
  have htoken : tokensHeld t c k port = tokensHeld s c k port := by rw [tokensHeld, htokens, tokensHeld]
  have htaken : takenPlaces t c k port = takenPlaces s c k port + n := by
    simp only [takenPlaces, reservedPlaces, hget, hwait, hpushers, harr]
    omega
  have hmessages : messagesWaiting t c k port = messagesWaiting s c k port := by rw [messagesWaiting, hm, messagesWaiting]
  rw [freePlaces, freePlaces, htoken, htaken, hmessages]
  split_ifs <;> omega

theorem freePlaces_congr {s t : State} (h : s.KeepsOf (fun x => (x.ports, x.wait)) t) (hm : t.messages = s.messages) (c k port : Nat) :
    freePlaces t c k port = freePlaces s c k port :=
  freePlaces_shift (n := 0) ((h.map Prod.fst).portGet c k port) (fun j => congrArg Prod.snd (h.slots c j)) hm (by rw [h.cores c])
    (by rw [h.cores c]) (by rw [arrivingAt, h.cores c]; rfl)

theorem freePlaces_noted (h : s.runs i = true) (c k port : Nat) : freePlaces (s.noted i) c k port = freePlaces s c k port :=
  freePlaces_congr (noted_keeps h) (by rw [State.runs_noted h]; rfl) c k port

/-- The element that a slot pushes into a port. -/
def State.pushed (s : State) (port : Nat) (v : Word) : Arriving := ⟨pushCycle s, s.slot, port, ⟨v, false, false⟩⟩

theorem coreOf_pushLater (s : State) (port : Nat) (v : Word) :
    (pushLater s port ⟨v, false, false⟩).coreOf s.core =
      { s.coreOf s.core with arriving := (s.coreOf s.core).arriving ++ [s.pushed port v] } := by
  rw [pushLater, State.coreOf_modCore, if_pos rfl]
  rfl

theorem slotOf_pushLater (s : State) (port : Nat) (e : Elem) (d j : Nat) : (pushLater s port e).slotOf d j = s.slotOf d j :=
  slotOf_modCore_slots (f := fun r => { r with arriving := r.arriving ++ [⟨pushCycle s, s.slot, port, e⟩] }) (fun _ => rfl) d j

theorem pushLater_within (s : State) (port : Nat) (v : Word) : s.Within (pushLater s port ⟨v, false, false⟩) :=
  .modCore fun _ => ⟨rfl, rfl⟩

theorem portGet_pushLater (s : State) (port : Nat) (v : Word) (k p : Nat) :
    portGet (pushLater s port ⟨v, false, false⟩) s.core k p = portGet s s.core k p :=
  portGet_congr (by rw [slotOf_pushLater]) (by rw [coreOf_pushLater]) (by rw [coreOf_pushLater])

theorem freePlaces_pushLater (s : State) (port : Nat) (v : Word) :
    freePlaces (pushLater s port ⟨v, false, false⟩) s.core s.slot port = freePlaces s s.core s.slot port - 1 := by
  refine freePlaces_shift (portGet_pushLater ..) (fun j => by rw [slotOf_pushLater]) rfl (by rw [coreOf_pushLater])
    (by rw [coreOf_pushLater]) ?_
  rw [arrivingAt, coreOf_pushLater, arrivingAt, List.filter_append, List.length_append]
  simp [State.pushed, samePort]

end

/-! ### What is written before an instruction retires -/

section
variable {x : Slot}

theorem Slot.writeG_flow (n : Nat) (v : Word) : (x.writeG n v).flow = x.flow ∧ (x.writeG n v).ports = x.ports := by
  unfold Slot.writeG
  exact ⟨slot_ite (π := Slot.flow) rfl (slot_ite (π := Slot.flow) rfl rfl),
    slot_ite (π := Slot.ports) rfl (slot_ite (π := Slot.ports) rfl rfl)⟩

theorem Slot.writePred_flow (n : Nat) (b : Bool) : (x.writePred n b).flow = x.flow ∧ (x.writePred n b).ports = x.ports := by
  unfold Slot.writePred
  exact ⟨slot_ite (π := Slot.flow) rfl rfl, slot_ite (π := Slot.ports) rfl rfl⟩

theorem Slot.writeV_flow (n : Nat) (v : Vec) : (x.writeV n v).flow = x.flow ∧ (x.writeV n v).ports = x.ports := by
  unfold Slot.writeV
  exact ⟨slot_ite (π := Slot.flow) rfl rfl, slot_ite (π := Slot.ports) rfl rfl⟩

/-- The registers that `writePred` and `writeV` leave alone. -/
theorem Slot.writePred_readG (n m : Nat) (b : Bool) : (x.writePred n b).readG m = x.readG m := by
  unfold Slot.writePred
  exact slot_ite (π := fun y => y.readG m) rfl rfl

theorem Slot.writePred_g (n : Nat) (b : Bool) : (x.writePred n b).g = x.g := by
  unfold Slot.writePred
  exact slot_ite (π := Slot.g) rfl rfl

theorem Slot.writeV_g (n : Nat) (v : Vec) : (x.writeV n v).g = x.g := by
  unfold Slot.writeV
  exact slot_ite (π := Slot.g) rfl rfl

theorem Slot.predicate_writePred_true {n : Nat} (hn : n < 16) : (x.writePred n true).predicate n = true := by
  unfold Slot.writePred
  split
  next h => rw [h]; rfl
  next h =>
    rw [Slot.predicate, bitAt_setBits _ le_rfl, if_pos ⟨le_rfl, le_rfl⟩]
    simp [hn]

/-- A vector register reads as what has been written to it, in a handler's window and outside. -/
theorem Slot.readV_writeV {n : Nat} (hn : n < 16) (v : Vec) : (x.writeV n v).readV n = v := by
  unfold Slot.writeV
  split
  next h =>
    exact (if_pos h).trans (vget_vset_self x.winV 0 v (n - 12) (by omega))
  next h => exact (if_neg h).trans (vget_vset_self x.v 0 v n hn)

end

/-! ### qtry, qoffer and qcnt -/

section
variable {i : Instr} {s : State} {rd ra : BitVec 6} {n k : BitVec 4}

theorem pair_noted (h : s.runs i = true) : (s.noted i).me.pair = .alone := by
  rw [me_noted h]
  exact Slot.flow_pair (Slot.steady_flow (State.runs_steady h))

theorem qtry_empty (h : s.runs (.qtry rd n k) = true) (hport : portGet s s.core s.slot n.toNat = []) :
    exec (.qtry rd n k) s = .next (s.retired (.qtry rd n k) (s.me.writePred k.toNat false)) := by
  have hpair := pair_noted h
  refine exec_of_issue rfl h ?_
  rw [if_neg (by simp [hpair]), if_neg (by simp [valueQueueFull, hpair]), noted_core h, noted_slot h, portGet_noted h, hport]
  dsimp only
  rw [handOn_alone hpair, handOn_alone hpair]
  exact writePredNext_noted h k.toNat false

/-- The state in which the oldest element has left its port and been received. -/
def State.taken (s : State) (port : Nat) (e : Elem) (rest : List Elem) : State :=
  receive (portSet s s.core s.slot port rest) s.core s.slot e

theorem taken_within (hs : s.slot < 8) (port : Nat) (e : Elem) (rest : List Elem) : s.Within (s.taken port e rest) := by
  have hset : s.Within (portSet s s.core s.slot port rest) := .portSet hs
  have hrec := State.Within.receive (s := portSet s s.core s.slot port rest) (e := e) (by rw [hset.slot]; exact hs)
  rw [hset.core, hset.slot] at hrec
  exact hset.trans hrec

theorem taken_freed (h : s.Popping) {port : Nat} (hp : port < 16) (e : Elem) (rest : List Elem) :
    let t := s.taken port e rest
    s.Within (placeFreed t t.core t.slot port) ∧ portGet (placeFreed t t.core t.slot port) s.core s.slot port = rest := by
  have hwithin := taken_within h.slot port e rest
  have hnext := h.within hwithin
  dsimp only
  rw [placeFreed_wakes hnext.deferred]
  refine ⟨hwithin.trans (.wakePusher hnext.flow), ?_⟩
  have hrec := receive_queues (portSet s s.core s.slot port rest) s.core s.slot e
  exact (((hrec.trans (wakePusher_queues _ _ _ _)).map Prod.fst).portGet _ _ _).trans (portGet_portSet h.slot hp)

/-- What `tried` writes for a popped element. -/
theorem tried_some (h : s.Popping) (hrd : rd.toNat < 32) {pk : Nat} (hpk : pk < 16) (e : Elem) :
    let t := tried rd pk (some e) s
    (∀ c j port, portGet t c j port = portGet s c j port) ∧ t.me.readG rd.toNat = (if rd = 0 then 0 else e.val) ∧
      t.me.predicate pk = true ∧ t.me.pc = s.me.pc + 4 ∧ t.mem = s.mem := by
  have hflow : ((s.me.writeG rd.toNat e.val).writePred pk true).flow = s.me.flow := by
    rw [(Slot.writePred_flow ..).1, (Slot.writeG_flow ..).1]
  have hports : ((s.me.writeG rd.toNat e.val).writePred pk true).ports = s.me.ports := by
    rw [(Slot.writePred_flow ..).2, (Slot.writeG_flow ..).2]
  obtain ⟨hfile, hmem, hget, -⟩ := doneNext_spec (f := fun x => (x.writeG rd.toNat e.val).writePred pk true) h.slot
    (hflow.trans h.flow) hports
  refine ⟨hget, ?_, ?_, ?_, hmem⟩
  · refine (Slot.readG_file hfile _).trans ?_
    rw [Slot.readG_movedTo, Slot.writePred_readG, Slot.readG_writeG]
    by_cases hzero : rd = 0
    · rw [if_pos hzero, hzero]
      rfl
    · rw [if_neg hzero, if_pos ⟨rfl, fun h0 => hzero (BitVec.eq_of_toNat_eq h0), hrd⟩]
  · exact (Slot.predicate_file hfile _).trans (Slot.predicate_writePred_true hpk)
  · refine (Slot.file_pc hfile).trans ?_
    rw [Slot.movedTo_pc, Slot.writePred_pc, Slot.writeG_pc]

theorem exec_qtry_cons (h : s.runs (.qtry rd n k) = true) {e : Elem} {rest : List Elem}
    (hport : portGet s s.core s.slot n.toNat = e :: rest) :
    let t := (s.noted (.qtry rd n k)).taken n.toNat e rest
    exec (.qtry rd n k) s = .next (tried rd k.toNat (some e) (placeFreed t t.core t.slot n.toNat)) := by
  have hpair := pair_noted h
  have hgot : portGet (s.noted (.qtry rd n k)) (s.noted (.qtry rd n k)).core (s.noted (.qtry rd n k)).slot n.toNat = e :: rest := by
    rw [noted_core h, noted_slot h, portGet_noted h, hport]
  have hslot : (s.noted (.qtry rd n k)).slot < 8 := by
    rw [noted_slot h]
    exact State.runs_slot h
  have hflow : (s.noted (.qtry rd n k)).me.flow = (false, false, false, .alone, .nothing) :=
    (noted_within h).flow.trans (Slot.steady_flow (State.runs_steady h))
  have htaken : ((s.noted (.qtry rd n k)).taken n.toNat e rest).me.pair = .alone :=
    Slot.flow_pair ((taken_within hslot n.toNat e rest).flow.trans hflow)
  refine exec_of_issue rfl h ?_
  rw [if_neg (by simp [hpair]), if_neg (by simp [valueQueueFull, hpair]), hgot]
  dsimp only
  have hhand (a : Elem) : handOn (receive (portSet (s.noted (.qtry rd n k)) (s.noted (.qtry rd n k)).core (s.noted (.qtry rd n k)).slot
      n.toNat rest) (s.noted (.qtry rd n k)).core (s.noted (.qtry rd n k)).slot e) a = (s.noted (.qtry rd n k)).taken n.toNat e rest :=
    handOn_alone htaken a
  have hcore := (taken_within hslot n.toNat e rest).core
  have hplace := (taken_within hslot n.toNat e rest).slot
  rw [hhand, handOn_alone htaken, hcore, hplace]

theorem qtry_pops (h : s.runs (.qtry rd n k) = true) (hrd : rd.toNat < 32) {e : Elem} {rest : List Elem}
    (hport : portGet s s.core s.slot n.toNat = e :: rest) (hdef : (s.coreOf s.core).deferred = []) :
    ∃ t, exec (.qtry rd n k) s = .next t ∧
      portGet t s.core s.slot n.toNat = rest ∧ t.me.readG rd.toNat = (if rd = 0 then 0 else e.val) ∧
      (t.me.predicate k.toNat = true) ∧ t.me.pc = s.me.pc + 4 ∧ t.mem = s.mem := by
  have hnoted := noted_within h
  have hpopping := (popping_of_runs h hdef).within hnoted
  obtain ⟨hfreed, hleft⟩ := taken_freed hpopping (port := n.toNat) n.isLt e rest
  obtain ⟨hget, hg, hp, hpc, hmem⟩ := tried_some (hpopping.within hfreed) hrd k.isLt e
  refine ⟨_, exec_qtry_cons h hport, (hget ..).trans ?_, hg, hp, hpc.trans ?_, hmem.trans (hfreed.mem.trans hnoted.mem)⟩
  · rw [← hnoted.core, ← hnoted.slot]
    exact hleft
  · rw [Slot.file_pc hfreed.file, Slot.file_pc hnoted.file]

theorem reportPred_alone (h : s.me.pair = .alone) (pk : Nat) (b : Bool) : reportPred pk b s = writePredNext pk b s := by
  rw [reportPred, handOn_alone h, writePredNext]

theorem exec_qoffer (h : s.runs (.qoffer n ra k) = true) {t : State}
    (ht : (if freePlaces s s.core s.slot n.toNat = 0 then reportPred k.toNat false (s.noted (.qoffer n ra k))
      else reportPred k.toNat true (pushLater (s.noted (.qoffer n ra k)) n.toNat ⟨s.me.readG ra.toNat, false, false⟩)) = t) :
    exec (.qoffer n ra k) s = .next t := by
  refine exec_of_issue rfl h ?_
  rw [outward_alone (pair_noted h), noted_core h, noted_slot h, freePlaces_noted h, gval_noted h]
  exact ht

theorem qoffer_full (h : s.runs (.qoffer n ra k) = true) (hroom : freePlaces s s.core s.slot n.toNat = 0) :
    exec (.qoffer n ra k) s = .next (s.retired (.qoffer n ra k) (s.me.writePred k.toNat false)) := by
  refine exec_qoffer h ?_
  rw [if_pos hroom, reportPred_alone (pair_noted h)]
  exact writePredNext_noted h k.toNat false

theorem pushed_noted (h : s.runs i = true) (port : Nat) (v : Word) : (s.noted i).pushed port v =
    ⟨max (s.coreOf s.core).cycle.toNat (s.me.last.toNat + 3), s.slot, port, ⟨v, false, false⟩⟩ := by
  rw [State.pushed, pushCycle, me_noted h, noted_slot h, State.myCore, noted_core h, (noted_keeps h).cores]
  rfl

theorem arriving_noted (h : s.runs i = true) : ((s.noted i).coreOf s.core).arriving = (s.coreOf s.core).arriving := by
  rw [(noted_keeps h).cores]

theorem qoffer_pushes (h : s.runs (.qoffer n ra k) = true) (hroom : freePlaces s s.core s.slot n.toNat ≠ 0) :
    ∃ t, exec (.qoffer n ra k) s = .next t ∧ (t.coreOf s.core).arriving = (s.coreOf s.core).arriving ++
        [⟨max (s.coreOf s.core).cycle.toNat (s.me.last.toNat + 3), s.slot, n.toNat, ⟨s.me.readG ra.toNat, false, false⟩⟩] ∧
      portGet t s.core s.slot n.toNat = portGet s s.core s.slot n.toNat ∧ t.me.predicate k.toNat = true ∧
      t.me.g = s.me.g ∧ t.me.pc = s.me.pc + 4 ∧ t.mem = s.mem := by
  have hnoted := noted_within h
  have hcore := noted_core h
  have hpush := hnoted.trans (pushLater_within (s.noted (.qoffer n ra k)) n.toNat (s.me.readG ra.toNat))
  have harr := coreOf_pushLater (s.noted (.qoffer n ra k)) n.toNat (s.me.readG ra.toNat)
  have hget := portGet_pushLater (s.noted (.qoffer n ra k)) n.toNat (s.me.readG ra.toNat) s.slot n.toNat
  rw [hcore] at harr hget
  refine ⟨_, exec_qoffer h (if_neg hroom), ?_⟩
  generalize pushLater (s.noted (.qoffer n ra k)) n.toNat ⟨s.me.readG ra.toNat, false, false⟩ = u at *
  have hflow := hpush.flow.trans (Slot.steady_flow (State.runs_steady h))
  obtain ⟨hfile, hmem, hports, hkept⟩ := doneNext_spec (s := u) (f := fun x => x.writePred k.toNat true)
    (hpush.slot ▸ State.runs_slot h) ((Slot.writePred_flow ..).1.trans hflow) (Slot.writePred_flow ..).2
  rw [reportPred_alone (Slot.flow_pair hflow)]
  refine ⟨(hkept _).trans ?_, (hports ..).trans (hget.trans (portGet_noted h ..)), ?_, ?_, ?_, hmem.trans hpush.mem⟩
  · rw [harr, pushed_noted h, arriving_noted h]
  · exact (Slot.predicate_file hfile _).trans (Slot.predicate_writePred_true k.isLt)
  · exact ((Slot.file_g hfile).trans (Slot.writePred_g ..)).trans (Slot.file_g hpush.file)
  · refine (Slot.file_pc hfile).trans ?_
    rw [Slot.movedTo_pc, Slot.writePred_pc, Slot.file_pc hpush.file]

theorem exec_qcnt (h : s.runs (.qcnt rd n) = true) (hrd : rd.toNat < 32) :
    exec (.qcnt rd n) s = .next (s.retired (.qcnt rd n) (s.me.writeG rd.toNat
      (.ofNat 64 ((portGet s s.core s.slot n.toNat).length + 256 * freePlaces s s.core s.slot n.toNat)))) := by
  refine exec_of_issue rfl h ?_
  rw [boundaryRead_alone (pair_noted h), noted_core h, noted_slot h, freePlaces_noted h, portGet_noted h, State.runs_noted h,
    writeBoundary_general hrd (State.runs_slot h) (by simpa using State.runs_steady h), Slot.writeG_noting]
  rfl

end

/-! ### vqpop and vqpush -/

section
variable {s : State} {vd k n : BitVec 4}

/-- The words of a list stand in a register from its first doubleword on. -/
def Slot.loadWords (x : Slot) (n : Nat) (l : List Word) : Slot := x.writeV n (setVecWords (x.readV n) (l.getD · 0) l.length)

theorem vqpop_pops (h : s.runs (.vqpop vd k n) = true) (hlen : k.toNat + 1 ≤ (portGet s s.core s.slot n.toNat).length)
    (hdef : (s.coreOf s.core).deferred = []) :
    ∃ t, exec (.vqpop vd k n) s = .next t ∧
      portGet t s.core s.slot n.toNat = (portGet s s.core s.slot n.toNat).drop (k.toNat + 1) ∧
      (∀ e, e ≤ k.toNat → vecWord (t.me.readV vd.toNat) e = ((portGet s s.core s.slot n.toNat).getD e ⟨0, false, false⟩).val) ∧
      (∀ j, 2 * (k.toNat + 1) ≤ j → j < 64 → lane (t.me.readV vd.toNat) j = lane (s.me.readV vd.toNat) j) ∧
      t.me.g = s.me.g ∧ t.me.pc = s.me.pc + 4 ∧ t.mem = s.mem := by
  have hk := k.isLt
  have hnoted := noted_within h
  have hpopping := (popping_of_runs h hdef).within hnoted
  have hgot : portGet (s.noted (.vqpop vd k n)) (s.noted (.vqpop vd k n)).core (s.noted (.vqpop vd k n)).slot n.toNat =
      portGet s s.core s.slot n.toNat := by rw [hnoted.core, hnoted.slot, portGet_noted h]
  obtain ⟨u, hpop, hwithin, hleft⟩ := popMany_all hpopping n.isLt (hgot.symm ▸ hlen)
  rw [noted_latch h, List.length_nil, hgot] at hpop
  rw [hgot, hnoted.core, hnoted.slot] at hleft
  have hall := hnoted.trans hwithin
  generalize hq : portGet s s.core s.slot n.toNat = q at *
  have hcount : ((q.take (k.toNat + 1)).map Elem.val).length = k.toNat + 1 := by
    rw [List.length_map, List.length_take, Nat.min_eq_left hlen]
  obtain ⟨hfile, hmem, hports, -⟩ := doneNext_spec (s := u) (f := fun x => x.loadWords vd.toNat ((q.take (k.toNat + 1)).map Elem.val))
    (hall.slot ▸ State.runs_slot h)
    ((Slot.writeV_flow ..).1.trans (hall.flow.trans (Slot.steady_flow (State.runs_steady h)))) (Slot.writeV_flow ..).2
  refine ⟨_, exec_of_issue rfl h ?_, (hports ..).trans hleft, ?_⟩
  · rw [hpop]
    rfl
  rw [(Slot.readV_file hfile _).trans (Slot.readV_writeV vd.isLt _), Slot.readV_file hall.file, hcount]
  refine ⟨fun e he => ?_, fun j hj hj' => lane_setVecWords hj hj', ?_, ?_, hmem.trans hall.mem⟩
  · rw [vecWord_setVecWords (by omega) (by omega)]
    simp [List.getD_eq_getElem?_getD, show e < k.toNat + 1 by omega, show e < q.length by omega]
  · exact ((Slot.file_g hfile).trans (Slot.writeV_g ..)).trans (Slot.file_g hall.file)
  · refine (Slot.file_pc hfile).trans ?_
    rw [Slot.movedTo_pc, Slot.loadWords, Slot.writeV_pc, Slot.file_pc hall.file]

/-- An element pushed, and noted in the latch. -/
def State.pushedOne (s : State) (port : Nat) (v : Word) : State := keepLatch (pushLater s port ⟨v, false, false⟩) ⟨0, false, false⟩

theorem pushedOne_keeps (s : State) (port : Nat) (v : Word) :
    (pushLater s port ⟨v, false, false⟩).KeepsOf (fun x => ((x.ports, x.wait), x.last)) (s.pushedOne port v) := by
  unfold State.pushedOne keepLatch State.modMe
  exact .modSlot rfl

theorem pushedOne_spec (hs : s.slot < 8) (port : Nat) (v : Word) :
    s.Within (s.pushedOne port v) ∧ portGet (s.pushedOne port v) s.core s.slot port = portGet s s.core s.slot port ∧
      freePlaces (s.pushedOne port v) s.core s.slot port = freePlaces s s.core s.slot port - 1 ∧
      ((s.pushedOne port v).coreOf s.core).arriving = (s.coreOf s.core).arriving ++ [s.pushed port v] ∧
      ∀ w, (s.pushedOne port v).pushed port w = s.pushed port w := by
  have hkeeps := pushedOne_keeps s port v
  have hlast : (s.pushedOne port v).me.last = s.me.last := by
    rw [State.me, hkeeps.core, hkeeps.slot]
    exact (congrArg Prod.snd (hkeeps.slots _ _)).trans (congrArg Slot.last (slotOf_pushLater ..))
  have hcycle : (s.pushedOne port v).myCore.cycle = s.myCore.cycle := by
    rw [State.myCore, hkeeps.core, hkeeps.cores]
    change ((pushLater s port ⟨v, false, false⟩).coreOf s.core).cycle = _
    rw [coreOf_pushLater]
    rfl
  refine ⟨(pushLater_within s port v).trans (.keepLatch hs), ?_, ?_, ?_, fun w => ?_⟩
  · exact ((hkeeps.map fun z => z.1.1).portGet ..).trans (portGet_pushLater ..)
  · exact (freePlaces_congr (hkeeps.map Prod.fst) rfl ..).trans (freePlaces_pushLater ..)
  · rw [hkeeps.cores, coreOf_pushLater]
  · rw [State.pushed, pushCycle, hlast, hcycle, hkeeps.slot]
    rfl

/-- Words pushed one after the other into a port with room for them all. -/
theorem pushMany_all {port : Nat} {v : Vec} {l : List Nat} (hs : s.slot < 8) (hroom : l.length ≤ freePlaces s s.core s.slot port) :
    ∃ u, pushMany port v l s = doneNext (u.modMe fun x => { x with latch := [] }) ∧ s.Within u ∧
      portGet u s.core s.slot port = portGet s s.core s.slot port ∧
      (u.coreOf s.core).arriving = (s.coreOf s.core).arriving ++ l.map fun e => s.pushed port (vecWord v e) := by
  induction l generalizing s with
  | nil => exact ⟨s, rfl, .refl s, rfl, by simp⟩
  | cons e l ih =>
    rw [List.length_cons] at hroom
    obtain ⟨hwithin, hget, hfree, harr, hpushed⟩ := pushedOne_spec hs port (vecWord v e)
    obtain ⟨u, hpush, hrest, hports, hall⟩ := ih (s := s.pushedOne port (vecWord v e)) (hwithin.slot ▸ hs) (by
      rw [hwithin.core, hwithin.slot, hfree]
      omega)
    rw [hwithin.core, hwithin.slot] at hports
    rw [hwithin.core] at hall
    refine ⟨u, ?_, hwithin.trans hrest, hports.trans hget, ?_⟩
    · rw [pushMany, if_neg (by omega)]
      exact hpush
    · simp only [hall, harr, hpushed, List.map_cons, List.append_assoc, List.singleton_append]

theorem pushReserved_fresh {port : Nat} {v : Vec} {es : List Nat} (hlatch : s.me.latch = [])
    (hown : ∀ w ∈ (s.coreOf s.core).pushers, w.2 ≠ s.slot) : pushReserved port v es s = pushMany port v es s := by
  rw [pushReserved, hlatch, List.length_nil, List.drop_zero]
  cases es with
  | nil => rfl
  | cons e rest =>
    dsimp only
    rw [if_neg]
    simpa [State.myCore] using fun a ha => hown (a, s.slot) ha rfl

theorem vqpush_pushes (h : s.runs (.vqpush vd k n) = true) (hroom : k.toNat + 1 ≤ freePlaces s s.core s.slot n.toNat)
    (hown : ∀ w ∈ (s.coreOf s.core).pushers, w.2 ≠ s.slot) :
    ∃ t, exec (.vqpush vd k n) s = .next t ∧ portGet t s.core s.slot n.toNat = portGet s s.core s.slot n.toNat ∧
      (t.coreOf s.core).arriving = (s.coreOf s.core).arriving ++ (List.range (k.toNat + 1)).map (fun e =>
        ⟨max (s.coreOf s.core).cycle.toNat (s.me.last.toNat + 3), s.slot, n.toNat, ⟨vecWord (s.me.readV vd.toNat) e, false, false⟩⟩) ∧
      t.me.g = s.me.g ∧ t.me.v = s.me.v ∧ t.me.pc = s.me.pc + 4 ∧ t.mem = s.mem := by
  have hnoted := noted_within h
  have hpushers : ∀ w ∈ ((s.noted (.vqpush vd k n)).coreOf (s.noted (.vqpush vd k n)).core).pushers, w.2 ≠ (s.noted (.vqpush vd k n)).slot := by
    rw [hnoted.slot, hnoted.core, (noted_keeps h).cores]
    exact hown
  have hread : (s.noted (.vqpush vd k n)).me.readV vd.toNat = s.me.readV vd.toNat := Slot.readV_file hnoted.file _
  obtain ⟨u, hpush, hwithin, hget, harr⟩ := pushMany_all (s := s.noted (.vqpush vd k n)) (port := n.toNat)
    (v := s.me.readV vd.toNat) (l := List.range (k.toNat + 1)) (hnoted.slot ▸ State.runs_slot h) (by
      rw [List.length_range, hnoted.core, hnoted.slot, freePlaces_noted h]
      exact hroom)
  rw [hnoted.core, hnoted.slot, portGet_noted h] at hget
  rw [hnoted.core, arriving_noted h] at harr
  have hall := hnoted.trans hwithin
  obtain ⟨hfile, hmem, hports, hkept⟩ := doneNext_spec (s := u) (f := fun x => { x with latch := [] })
    (hall.slot ▸ State.runs_slot h) (hall.flow.trans (Slot.steady_flow (State.runs_steady h))) rfl
  have hregs : (doneNext (u.modMe fun x => { x with latch := [] })).me.file = (s.me.movedTo (s.me.pc + 4)).file := by
    rw [hfile, ← Slot.file_pc hall.file]
    exact congrArg (fun z => (u.me.pc + 4, z.2)) hall.file
  refine ⟨_, exec_of_issue rfl h ?_, (hports ..).trans hget, (hkept _).trans ?_, (Slot.file_g hregs).trans rfl,
    congrArg (fun z => z.2.2.2.1) hregs, Slot.file_pc hregs, hmem.trans hall.mem⟩
  · rw [outward_alone (pair_noted h), hread, pushReserved_fresh (noted_latch h) hpushers, hpush]
  · rw [harr]
    simp only [pushed_noted h]

theorem portInstructions : Claims.PortInstructions := by
  intro rd ra n k vd s hrd _
  exact ⟨fun h => ⟨qtry_empty h, fun e rest hport hdef => qtry_pops h hrd hport hdef⟩,
    fun h => ⟨qoffer_full h, qoffer_pushes h⟩, fun h => exec_qcnt h hrd, vqpop_pops, vqpush_pushes⟩

end

end Sys2Proof.Machine

end

section

namespace Sys2Proof.Machine
open Claims

/-! ## Vector accesses in the thread's own scratchpad

A pass performs the lanes one after the other. None of them changes what the later lanes' checks look at. -/

/-- What of the issuing slot the lanes of its access leave alone. -/
def Slot.outline (x : Slot) : (Word × Vector Word 32 × BitVec 16 × Vector Vec 16 × Vector Word 8 × Vector Vec 4 × Handler) ×
    (Bool × Bool × Bool × PairRole × Wait) × Vector Quad 8 × Option RoverHome × Option (Option (BitVec 4)) :=
  (x.file, x.flow, x.sg, x.origin, x.vec.map VecAccess.dest)

/-- The lanes of an access have been performed in part. -/
structure State.Along (s u : State) : Prop where
  core : u.core = s.core
  slot : u.slot = s.slot
  fold : (u.coreOf s.core).fold = (s.coreOf s.core).fold
  outline : u.me.outline = s.me.outline

section
variable {s u w : State}

theorem State.Along.refl (s : State) : s.Along s := ⟨rfl, rfl, rfl, rfl⟩

theorem State.Along.trans (h : s.Along u) (h' : u.Along w) : s.Along w :=
  ⟨h'.core.trans h.core, h'.slot.trans h.slot, by rw [← h.core, h'.fold, h.core, h.fold], h'.outline.trans h.outline⟩

theorem State.Along.of_keeps (h : s.KeepsOf Slot.outline u) : s.Along u :=
  ⟨h.core, h.slot, by rw [h.cores], by rw [State.me, h.core, h.slot]; exact h.slots _ _⟩

theorem State.Along.modCore {f : Core → Core} (hf : ∀ r, (f r).slots = r.slots ∧ (f r).fold = r.fold) :
    s.Along (s.modCore s.core f) := by
  refine ⟨rfl, rfl, ?_, congrArg Slot.outline (me_modCore fun r => (hf r).1)⟩
  rw [State.coreOf_modCore, if_pos rfl]
  exact (hf _).2

/-- A local address stays one where the slot's segments, its origin and its fold are the same. -/
theorem localAt_congr {a : Word} {n off : Nat} {r w : Bool} (hcore : u.core = s.core) (hslot : u.slot = s.slot)
    (hfold : (u.coreOf s.core).fold = (s.coreOf s.core).fold) (hsg : u.me.sg = s.me.sg) (horigin : u.me.origin = s.me.origin)
    (hl : LocalAt s a n off r w) : LocalAt u a n off r w := by
  have hrover : (u.slotOf s.core s.slot).origin = (s.slotOf s.core s.slot).origin := by
    rw [State.me, hcore, hslot] at horigin
    exact horigin
  have hrebase : slotRebase u s.core u.slot = slotRebase s s.core s.slot := by
    rw [hslot]
    simp only [slotRebase, foldReg, ownFold, hrover, hfold]
  simp only [LocalAt, hsg, hrebase, padHome, horigin, hcore] at hl ⊢
  exact hl

theorem localAt_along {a : Word} {n off : Nat} {r w : Bool} (h : s.Along u) (hl : LocalAt s a n off r w) : LocalAt u a n off r w :=
  localAt_congr h.core h.slot h.fold (congrArg (fun z => z.2.2.1) h.outline) (congrArg (fun z => z.2.2.2.1) h.outline) hl

theorem slotCheck_local {a : Word} {n off : Nat} {r w : Bool} (hl : LocalAt s a n off r w) :
    slotCheck s s.core s.slot a n r w false = .ok .localPad off := by
  obtain ⟨hvalid, hr, hw, hlen, halign, hspace, hoff, hend, -⟩ := hl
  rw [hoff]
  exact accessCheck_local hvalid hr hw nofun hlen (fun _ => halign) hspace (by rw [hoff] at hend; exact hend)

theorem route_localPad {a : Word} {n off : Nat} {kind : AccessKind} (hl : LocalAt s a n off kind.reads kind.writes) :
    route s s.core s.slot a n kind = .pad off := by
  have hhome : padHome s.core (s.slotOf s.core s.slot) = s.core := hl.2.2.2.2.2.2.2.2
  rw [route, slotCheck_local hl]
  exact if_pos hhome

/-! ### One lane -/

theorem postReply_keeps (c k : Nat) (v : Word) (poison : Bool) : s.KeepsOf Slot.outline (postReply s c k v poison) := by
  unfold postReply
  split
  · exact .modSlot rfl
  · exact .refl _ s

theorem postReply_mem (c k : Nat) (v : Word) (poison : Bool) : (postReply s c k v poison).mem = s.mem := by
  unfold postReply
  split <;> rfl

theorem Slot.outline_vec {x : Slot} {a : Option VecAccess} (h : a.map VecAccess.dest = x.vec.map VecAccess.dest) :
    Slot.outline { x with vec := a } = x.outline := congrArg (fun z => (x.file, x.flow, x.sg, x.origin, z)) h

theorem laneReply_keeps (c k ln : Nat) (v : Word) (poison : Bool) : s.KeepsOf Slot.outline (laneReply s c k ln v poison) := by
  refine .modSlot ?_
  split
  next a h => exact Slot.outline_vec (by rw [h, Option.map_some, Option.map_some])
  next => rfl

theorem clearMonitor_keeps (off n : Nat) (p : Nat × Nat) : s.KeepsOf Slot.outline (clearMonitor off n s p) := by
  refine .modSlot ?_
  generalize s.slotOf p.1 p.2 = x
  split
  · split <;> rfl
  · rfl

/-- The end of a watch on a granule of a scratchpad. -/
def endPadWatch (s : State) (w : Watch) : State :=
  postReply s w.core w.slot (BitVec.ofNat 64 (s.load (padAddr w.pad w.granule) 8).1) (s.load (padAddr w.pad w.granule) 8).2

theorem endWatches_pad {p : Watch → Bool} (hp : ∀ w, p w = true → w.global = false) : endWatches s p padGranule =
    (s.watches.filter p).foldl endPadWatch { s with watches := s.watches.filter fun w => !p w } := by
  unfold endWatches
  refine List.foldl_ext _ _ _ fun t w hw => ?_
  have hglobal : w.global = false := hp w (List.mem_filter.1 hw).2
  simp only [hglobal, Bool.false_eq_true, if_false]
  rfl

theorem foldl_mem {α : Type} {f : State → α → State} (hf : ∀ s a, (f s a).mem = s.mem) (l : List α) (s : State) :
    (l.foldl f s).mem = s.mem := by
  induction l generalizing s with
  | nil => rfl
  | cons a l ih => rw [List.foldl_cons, ih, hf]

theorem notePad_spec (c off n : Nat) : s.KeepsOf Slot.outline (notePad s c off n) ∧ (notePad s c off n).mem = s.mem := by
  have hmonitors : s.KeepsOf Slot.outline ((padUsers s c).foldl (clearMonitor off n) s) :=
    .foldl (fun p t => clearMonitor_keeps off n p) s
  have hmem : ((padUsers s c).foldl (clearMonitor off n) s).mem = s.mem :=
    foldl_mem (f := clearMonitor off n) (fun _ _ => rfl) _ _
  rw [notePad, endWatches_pad fun w hw => by simp_all]
  generalize (padUsers s c).foldl (clearMonitor off n) s = t at *
  have hdropped (l : List Watch) : t.KeepsOf Slot.outline { t with watches := l } := ⟨rfl, rfl, fun _ => rfl, fun _ _ => rfl⟩
  exact ⟨(hmonitors.trans (hdropped _)).trans (.foldl (fun w t => postReply_keeps ..) _),
    (foldl_mem (fun t w => postReply_mem ..) _ _).trans hmem⟩

theorem padStore_along (c off n v : Nat) : s.Along (padStore s c off n v) ∧ (padStore s c off n v).mem = s.mem.writeN (padAddr c off) n v := by
  have hstored : s.KeepsOf Slot.outline (s.store (padAddr c off) n v) := ⟨rfl, rfl, fun _ => rfl, fun _ _ => rfl⟩
  obtain ⟨hkeeps, hmem⟩ := notePad_spec (s := s.store (padAddr c off) n v) c off n
  exact ⟨.of_keeps (hstored.trans hkeeps), hmem⟩

theorem bankTurnAt_along (off n : Nat) : s.Along (bankTurnAt s s.core off n) := .modCore fun _ => ⟨rfl, rfl⟩

theorem padAccess_store {c k p off n : Nat} {data : Word} :
    padAccess s c k p off n .store data 0 = (some (0, false), padStore s p off n data.toNat) := rfl

/-- A lane performed in the scratchpad stores its bytes, or none. -/
theorem padLane_store {v : VecOp} (hv : v.dest = none) (off : Nat) (q : LaneReq) :
    s.Along (padLane v s off q) ∧ (padLane v s off q).mem = s.mem.writeN (padAddr s.core off) v.bytes q.data.toNat := by
  have hkind : v.kind = .store := by rw [VecOp.kind, hv]; rfl
  have hturn := bankTurnAt_along (s := s) off v.bytes
  have hmem : (bankTurnAt s s.core off v.bytes).mem = s.mem := rfl
  rw [padLane, hkind, padAccess_store]
  generalize bankTurnAt s s.core off v.bytes = t at *
  obtain ⟨hstore, hwrite⟩ := padStore_along (s := t) s.core off v.bytes q.data.toNat
  exact ⟨(hturn.trans hstore).trans (.of_keeps (laneReply_keeps ..)), hwrite.trans (by rw [hmem])⟩

theorem padLane_load {v : VecOp} {vd : BitVec 4} (hv : v.dest = some vd) (off : Nat) (q : LaneReq) :
    padLane v s off q = laneReply (bankTurnAt s s.core off v.bytes) s.core s.slot q.lane
      (extendN (vtype v.ty).isInt v.bytes (BitVec.ofNat 64 (s.mem.readN (padAddr s.core off) v.bytes)))
      (poisonedIn s.poison (padAddr s.core off) v.bytes) := by
  have hkind : v.kind = .load (vtype v.ty).isInt := by rw [VecOp.kind, hv]; rfl
  rw [padLane, hkind]
  rfl

theorem padLane_along (v : VecOp) (off : Nat) (q : LaneReq) : s.Along (padLane v s off q) := by
  cases hv : v.dest with
  | none => exact (padLane_store hv off q).1
  | some vd =>
    rw [padLane_load hv]
    exact (bankTurnAt_along off v.bytes).trans (.of_keeps (laneReply_keeps ..))

/-! ### One pass -/

section
variable {v : VecOp} {off : Nat → Nat}

/-- Every lane of the access is local, the lane's offset given by `off`. -/
def VecOp.LocalIn (v : VecOp) (off : Nat → Nat) (s : State) : Prop :=
  ∀ q ∈ v.lanes, LocalAt s q.addr v.bytes (off q.lane) v.kind.reads v.kind.writes

/-- No two lanes lie in different rows of one bank (R268). -/
def VecOp.OneRow (v : VecOp) (off : Nat → Nat) : Prop :=
  ∀ q ∈ v.lanes, ∀ r ∈ v.lanes, off q.lane / 32 % 32 = off r.lane / 32 % 32 → off q.lane / 32 = off r.lane / 32

/-- The rows of the access. -/
def VecOp.rowsAt (v : VecOp) (off : Nat → Nat) : List Nat := ((v.lanes.map fun q => off q.lane).map (· / 32)).eraseDups

/-- The state in which all lanes have been performed, in order. -/
def performLanes (v : VecOp) (off : Nat → Nat) (s : State) : State := v.lanes.foldl (fun s q => padLane v s (off q.lane) q) s

/-- The slot's access notes the rows that a pass has done. -/
def noteRows (rows : List Nat) (s : State) : State := s.modMe fun x => { x with vec := x.vec.map fun a => { a with rows := a.rows ++ rows } }

theorem VecOp.LocalIn.along (h : v.LocalIn off s) (ha : s.Along u) : v.LocalIn off u := fun q hq => localAt_along ha (h q hq)

theorem VecOp.LocalIn.localOff (h : v.LocalIn off s) {q : LaneReq} (hq : q ∈ v.lanes) : Machine.localOff v s q = some (off q.lane) := by
  rw [Machine.localOff, slotCheck_local (h q hq)]

theorem VecOp.LocalIn.landOff (h : v.LocalIn off s) {q : LaneReq} (hq : q ∈ v.lanes) : Machine.landOff v s q = none := by
  rw [Machine.landOff, slotCheck_local (h q hq)]

theorem VecOp.LocalIn.laneFault (h : v.LocalIn off s) {q : LaneReq} (hq : q ∈ v.lanes) : Machine.laneFault v s q = none := by
  rw [Machine.laneFault, slotCheck_local (h q hq)]

theorem VecOp.LocalIn.laneMiss (h : v.LocalIn off s) {q : LaneReq} (hq : q ∈ v.lanes) : Machine.laneMiss v s q = none := by
  rw [Machine.laneMiss, route_localPad (h q hq)]

theorem VecOp.LocalIn.awayLanes (h : v.LocalIn off s) : Machine.awayLanes v s = [] := by
  rw [Machine.awayLanes, List.filterMap_eq_nil_iff]
  intro q hq
  rw [route_localPad (h q hq)]

theorem firstLane_none {α : Type} {f : LaneReq → Option α} {l : List LaneReq} (h : ∀ q ∈ l, f q = none) : firstLane f l = none := by
  induction l with
  | nil => rfl
  | cons q l ih =>
    rw [firstLane, h q List.mem_cons_self]
    exact ih fun r hr => h r (List.mem_cons_of_mem q hr)

/-- Where a bank has one row, a pass takes every row. -/
theorem passRows_all {rows : List Nat} (h : ∀ r ∈ rows, ∀ q ∈ rows, q % 32 = r % 32 → q = r) : passRows rows = rows := by
  rw [passRows, List.filter_eq_self]
  intro r hr
  rw [Bool.not_eq_true', List.any_eq_false]
  intro q hq hbad
  simp only [Bool.and_eq_true, beq_iff_eq, decide_eq_true_eq] at hbad
  have := h r hr q hq hbad.1
  omega

theorem VecOp.OneRow.passRows (h : v.OneRow off) : Machine.passRows (v.rowsAt off) = v.rowsAt off := by
  refine passRows_all fun r hr q hq hbank => ?_
  simp only [VecOp.rowsAt, List.mem_eraseDups, List.mem_map, exists_exists_and_eq_and] at hr hq
  obtain ⟨b, hb, rfl⟩ := hr
  obtain ⟨a, ha, rfl⟩ := hq
  exact h a ha b hb hbank

theorem performLanes_along (v : VecOp) (off : Nat → Nat) (s : State) : s.Along (performLanes v off s) := by
  unfold performLanes
  induction v.lanes generalizing s with
  | nil => exact .refl s
  | cons q l ih => exact (padLane_along v (off q.lane) q).trans (ih _)

/-- Two ways to perform lanes come to the same where they agree in every state on the way. -/
theorem foldl_along {f g : State → LaneReq → State} {l : List LaneReq} (hfg : ∀ t : State, s.Along t → ∀ q ∈ l, f t q = g t q)
    (hg : ∀ (t : State) q, t.Along (g t q)) : l.foldl f s = l.foldl g s := by
  induction l generalizing s with
  | nil => rfl
  | cons q l ih =>
    rw [List.foldl_cons, List.foldl_cons, hfg s (.refl s) q List.mem_cons_self]
    exact ih fun t ht r hr => hfg t ((hg s q).trans ht) r (List.mem_cons_of_mem q hr)

/-- What a pass that takes the given rows does with a lane. -/
def laneInPass (v : VecOp) (rows : List Nat) (s : State) (q : LaneReq) : State :=
  match localOff v s q with
  | some off => if rows.contains (off / 32) then padLane v s off q else s
  | none => s

/-- A pass that takes every row performs every lane. -/
theorem foldl_laneInPass (hl : v.LocalIn off s) : v.lanes.foldl (laneInPass v (v.rowsAt off)) s = performLanes v off s := by
  refine foldl_along (fun t ht q hq => ?_) fun _ _ => padLane_along ..
  have hrow : off q.lane / 32 ∈ v.rowsAt off := by
    rw [VecOp.rowsAt, List.mem_eraseDups, List.map_map, List.mem_map]
    exact ⟨q, hq, rfl⟩
  rw [laneInPass, (hl.along ht).localOff hq]
  exact if_pos (by simpa using hrow)

theorem rows_eq (hl : v.LocalIn off s) : v.lanes.filterMap (localOff v s) = v.lanes.map fun q => off q.lane := by
  rw [List.filterMap_eq_map_iff_forall_eq_some]
  exact fun q hq => hl.localOff hq

theorem noteRows_along (rows : List Nat) : s.Along (noteRows rows s) := by
  unfold noteRows State.modMe
  exact .of_keeps (.modSlot (Slot.outline_vec (Option.map_map ..)))

theorem noteRows_mem (rows : List Nat) (s : State) : (noteRows rows s).mem = s.mem := rfl

/-- No lane lies in the landing space. -/
theorem foldl_landing (hl : v.LocalIn off s) {f : State → LaneReq → Nat → Nat → State} : (v.lanes.foldl (fun s q =>
    match landOff v s q, s.me.capsule with
    | some off, some b => f s q off b
    | _, _ => s) s) = s := by
  refine (foldl_along (g := fun s _ => s) (fun t ht q hq => ?_) fun t _ => .refl t).trans (by simp)
  rw [(hl.along ht).landOff hq]

theorem sendLanes_local {a : VecAccess} (hl : v.LocalIn off s) (haway : a.away = []) : sendLanes v a s = finishVec s := by
  have hland := foldl_landing hl (f := fun s q off b => landLane v s b off q)
  rw [sendLanes, haway]
  exact congrArg finishVec hland

/-- An access in one pass. -/
theorem vecPass_local {a : VecAccess} (hvec : s.me.vec = some a) (hrows : a.rows = []) (haway : a.away = [])
    (hl : v.LocalIn off s) (hone : v.OneRow off) :
    vecPass v s = finishVec (noteRows (v.rowsAt off) (performLanes v off s)) := by
  have hperformed := performLanes_along v off s
  have hnoted := noteRows_along (s := performLanes v off s) (v.rowsAt off)
  have htodo : (((v.lanes.filterMap (localOff v s)).map (· / 32)).filter fun r => !a.rows.contains r).eraseDups = v.rowsAt off := by
    rw [rows_eq hl, hrows, VecOp.rowsAt, List.filter_eq_self.2 (by simp)]
  have hlanes := foldl_laneInPass hl
  rw [vecPass, hvec]
  dsimp only
  rw [htodo, hone.passRows, if_pos rfl]
  refine Eq.trans ?_ (sendLanes_local (hl.along (hperformed.trans hnoted)) haway)
  rw [← hlanes]
  rfl

/-- The access as it begins. -/
def VecOp.begun (v : VecOp) : VecAccess := { dest := v.dest, active := v.active, away := [] }

/-- The state in which the slot has its access in progress. -/
def State.starting (s : State) (v : VecOp) : State := s.modMe fun x => { x with vec := some v.begun }

theorem VecOp.LocalIn.starting (h : v.LocalIn off s) (hs : s.slot < 8) : v.LocalIn off (s.starting v) := by
  have hme : (s.starting v).me = { s.me with vec := some v.begun } := State.me_modMe _ _ hs
  have hfold : ((s.starting v).coreOf s.core).fold = (s.coreOf s.core).fold := State.coreOf_setSlot_fold ..
  exact fun q hq => localAt_congr (s := s) rfl rfl hfold (by rw [hme]) (by rw [hme]) (h q hq)

theorem startVec_local (hs : s.slot < 8) (hl : v.LocalIn off s) (hone : v.OneRow off) :
    startVec v s = finishVec (noteRows (v.rowsAt off) (performLanes v off (s.starting v))) := by
  have hvec : (s.starting v).me.vec = some v.begun := congrArg Slot.vec (State.me_modMe _ _ hs)
  rw [startVec, firstLane_none fun q hq => hl.laneMiss hq, hl.awayLanes, ← vecPass_local hvec rfl rfl (hl.starting hs) hone]
  rfl

/-- A vector access whose lanes are all local, of a thread in no pair. -/
theorem vecMem_local {i : Instr} {op : State → VecOp} (h : s.runs i = true) (hv : op (s.noted i) = v) (hl : v.LocalIn off (s.noted i))
    (hone : v.OneRow off) :
    vecMem i op s = .next (finishVec (noteRows (v.rowsAt off) (performLanes v off ((s.noted i).starting v)))) := by
  obtain ⟨_, _, _, _, _, hvec, _⟩ := Slot.steady_fields (State.runs_steady h)
  have hfresh : (s.noted i).me.vec = none := by
    rw [me_noted h]
    exact hvec
  have hpair := pair_noted h
  have hstart := startVec_local (by rw [noted_slot h]; exact State.runs_slot h) hl hone
  rw [vecMem, issue_of_runs h, hv, hfresh, ← hstart]
  dsimp only
  rw [firstLane_none (f := laneFault v (s.noted i)) fun q hq => hl.laneFault hq]
  cases v.dest with
  | some vd => simp [hpair, valueQueueFull]
  | none => simp [outwardAccess, outwardBy, hpair]

end

/-! ### Stores -/

/-- What a lane of a store adds to the memory. -/
theorem performLanes_mem {v : VecOp} (hv : v.dest = none) (off : Nat → Nat) (s : State) : (performLanes v off s).mem =
    v.lanes.foldl (fun m q => m.writeN (padAddr s.core (off q.lane)) v.bytes q.data.toNat) s.mem := by
  unfold performLanes
  induction v.lanes generalizing s with
  | nil => rfl
  | cons q l ih =>
    obtain ⟨halong, hmem⟩ := padLane_store hv (off q.lane) q
    rw [List.foldl_cons, List.foldl_cons, ih, hmem, halong.core]

theorem outline_within (h : s.Along u) : u.me.file = s.me.file ∧ u.me.flow = s.me.flow ∧
    u.me.vec.map VecAccess.dest = s.me.vec.map VecAccess.dest :=
  ⟨congrArg Prod.fst h.outline, congrArg (fun z => z.2.1) h.outline, congrArg (fun z => z.2.2.2.2) h.outline⟩

theorem doneNext_modMe_id (hs : s.slot < 8) : doneNext (s.modMe id) = doneNext s := by
  have hme : (s.modMe id).me = s.me := State.me_modMe _ _ hs
  rw [doneNext, hme, done, retire, State.modMe_eq s id, State.modMe_setMe _ _ _ hs]
  rfl

/-- A store that ends. -/
theorem finishVec_store (hs : s.slot < 8) (hflow : s.me.flow = (false, false, false, .alone, .nothing))
    (hvec : s.me.vec.map VecAccess.dest = some none) :
    (finishVec s).me.file = (s.me.movedTo (s.me.pc + 4)).file ∧ (finishVec s).mem = s.mem := by
  obtain ⟨a, ha, hdest⟩ := Option.map_eq_some_iff.1 hvec
  have hwithin : s.Within (consumeIf s s.core s.slot a.poison) := .consumeIf hs
  have hfinish : finishVec s = doneNext (consumeIf s s.core s.slot a.poison) := by
    rw [finishVec, ha]
    dsimp only
    rw [hdest]
  have hslot : (consumeIf s s.core s.slot a.poison).slot < 8 := by
    rw [hwithin.slot]
    exact hs
  obtain ⟨hfile, hmem, -⟩ := doneNext_spec (f := id) hslot (hwithin.flow.trans hflow) rfl
  rw [doneNext_modMe_id hslot] at hfile hmem
  rw [hfinish]
  refine ⟨hfile.trans ?_, hmem.trans hwithin.mem⟩
  rw [id_eq, Slot.file_pc hwithin.file]
  exact congrArg (fun z => (s.me.pc + 4, z.2)) hwithin.file

/-- What a store's lanes and its end come to. -/
theorem storedLanes_spec {v : VecOp} {off : Nat → Nat} (hs : s.slot < 8) (hflow : s.me.flow = (false, false, false, .alone, .nothing))
    (hdest : v.dest = none) :
    let t := finishVec (noteRows (v.rowsAt off) (performLanes v off (s.starting v)))
    t.me.file = (s.me.movedTo (s.me.pc + 4)).file ∧
      t.mem = v.lanes.foldl (fun m q => m.writeN (padAddr s.core (off q.lane)) v.bytes q.data.toNat) s.mem := by
  have hme : (s.starting v).me = { s.me with vec := some v.begun } := State.me_modMe _ _ hs
  have hlanes := performLanes_mem hdest off (s.starting v)
  have halong := (performLanes_along v off (s.starting v)).trans (noteRows_along (v.rowsAt off))
  have hmem := noteRows_mem (v.rowsAt off) (performLanes v off (s.starting v))
  generalize noteRows (v.rowsAt off) (performLanes v off (s.starting v)) = u at *
  obtain ⟨hfile, hgoes, hvec⟩ := outline_within halong
  rw [hme] at hfile hgoes hvec
  have hslot : u.slot < 8 := by
    rw [halong.slot]
    exact hs
  have hfiles : u.me.file = s.me.file := hfile
  obtain ⟨hend, hkept⟩ := finishVec_store hslot (hgoes.trans hflow) (hvec.trans (congrArg some hdest))
  refine ⟨hend.trans ?_, hkept.trans (hmem.trans hlanes)⟩
  rw [Slot.file_pc hfiles]
  exact congrArg (fun z => (s.me.pc + 4, z.2)) hfiles

/-- What a store of local lanes comes to. -/
theorem vecStore_local {v : VecOp} {off : Nat → Nat} {i : Instr} {op : State → VecOp} (h : s.runs i = true) (he : exec i s = vecMem i op s)
    (hv : op (s.noted i) = v) (hdest : v.dest = none) (hl : v.LocalIn off (s.noted i)) (hone : v.OneRow off) :
    ∃ t, exec i s = .next t ∧ t.me.file = (s.me.movedTo (s.me.pc + 4)).file ∧
      t.mem = v.lanes.foldl (fun m q => m.writeN (padAddr s.core (off q.lane)) v.bytes q.data.toNat) s.mem := by
  have hnoted := noted_within h
  have hs : (s.noted i).slot < 8 := hnoted.slot ▸ State.runs_slot h
  obtain ⟨hfile, hmem⟩ := storedLanes_spec (off := off) hs (hnoted.flow.trans (Slot.steady_flow (State.runs_steady h))) hdest
  refine ⟨_, he.trans (vecMem_local h hv hl hone), hfile.trans ?_, hmem.trans ?_⟩
  · rw [Slot.file_pc hnoted.file]
    exact congrArg (fun z => (s.me.pc + 4, z.2)) hnoted.file
  · rw [hnoted.core, hnoted.mem]

/-! ### Loads -/

/-- The bytes of an element that does not cross a row stand in one bank. -/
theorem banksAt_row {off n : Nat} (hn : 0 < n) (hrow : off % 32 + n ≤ 32) : banksAt off n = [off / 32 % 32] := by
  rw [banksAt, show min 32 ((off % 32 + n + 31) / 32) = 1 by omega]
  simp

theorem slotRebase_row (s : State) (c k : Nat) : slotRebase s c k % 32 = 0 := by
  rw [slotRebase]
  split
  · exact Nat.mul_mod_left ..
  · rfl

/-- An element of a local lane lies in one row. -/
theorem localAt_row {a : Word} {n off : Nat} {r w : Bool} (hn : n ∈ [1, 2, 4]) (h : LocalAt s a n off r w) : off % 32 + n ≤ 32 := by
  obtain ⟨-, -, -, -, halign, -, hoff, -⟩ := h
  have hrow := slotRebase_row s s.core s.slot
  simp only [List.mem_cons, List.not_mem_nil, or_false] at hn
  rcases hn with rfl | rfl | rfl <;> omega

/-- What stands in lane `j` when the bytes at `off` have been loaded into it. -/
def loadedLane (s : State) (v : VecOp) (off : Nat) : Lane :=
  (extendN (vtype v.ty).isInt v.bytes (BitVec.ofNat 64 (s.mem.readN (padAddr s.core off) v.bytes))).truncate 32

/-- A slot with an access in progress. -/
def Slot.accessing (x : Slot) (a : VecAccess) : Slot := { x with vec := some a }

/-- The state in which a load has performed some of its lanes. -/
def State.loading (s : State) (turns : BitVec 32) (a : VecAccess) : State :=
  (s.modCore s.core fun r => { r with bankTurns := turns }).setMe (s.me.accessing a)

/-- The access with a good lane's reply, and the lanes gathered so far. -/
def VecAccess.gathered (a : VecAccess) (acc : Vec) : VecAccess := { a with acc := acc, left := a.left - 1 }

theorem gathered_acc (a : VecAccess) (acc : Vec) : (a.gathered acc).acc = acc := rfl

theorem bankTurnAt_loading (turns : BitVec 32) (a : VecAccess) (off n : Nat) : bankTurnAt (s.loading turns a) s.core off n =
    s.loading ((banksAt off n).foldl (fun m b => setBits m b b 1) turns) a := by
  have hturn := modCore_setMe (s := s.modCore s.core fun r => { r with bankTurns := turns }) (x := s.me.accessing a)
    (f := fun r => { r with bankTurns := (banksAt off n).foldl (fun m b => setBits m b b 1) r.bankTurns }) fun _ => rfl
  rw [State.modCore_core, State.modCore_modCore] at hturn
  exact hturn

theorem laneReply_loading (hs : s.slot < 8) (turns : BitVec 32) (a : VecAccess) (ln : Nat) (x : Word) :
    laneReply (s.loading turns a) s.core s.slot ln x false = s.loading turns (a.gathered (setLane a.acc ln (x.truncate 32))) := by
  have hset := State.modMe_setMe (s.modCore s.core fun r => { r with bankTurns := turns }) (s.me.accessing a)
    (fun x' => match x'.vec with
      | some a => { x' with vec := some { a with acc := setLane a.acc ln (x.truncate 32), poison := a.poison || false, left := a.left - 1 } }
      | none => x') hs
  refine hset.trans ?_
  dsimp only [Slot.accessing]
  rw [Bool.or_false]
  rfl

/-- A good lane of a load. -/
theorem padLane_loading (hs : s.slot < 8) {v : VecOp} {vd : BitVec 4} (hv : v.dest = some vd) (turns : BitVec 32) (a : VecAccess)
    {off : Nat} (hrow : off % 32 + v.bytes ≤ 32) (hn : 0 < v.bytes)
    (hgood : poisonedIn s.poison (padAddr s.core off) v.bytes = false) (q : LaneReq) :
    padLane v (s.loading turns a) off q = s.loading (setBits turns (off / 32 % 32) (off / 32 % 32) 1)
      (a.gathered (setLane a.acc q.lane (loadedLane s v off))) := by
  have hlane := padLane_load (s := s.loading turns a) hv off q
  have hturn := bankTurnAt_loading (s := s) turns a off v.bytes
  rw [banksAt_row hn hrow] at hturn
  have hgood' : poisonedIn (s.loading turns a).poison (padAddr (s.loading turns a).core off) v.bytes = false := hgood
  rw [hgood'] at hlane
  refine hlane.trans ?_
  rw [show (s.loading turns a).core = s.core from rfl, hturn]
  exact laneReply_loading hs ..

/-- The lanes of a load of good data, one after the other. -/
theorem loadLanes_spec (hs : s.slot < 8) {v : VecOp} {vd : BitVec 4} (hv : v.dest = some vd) {off : Nat → Nat} (hn : 0 < v.bytes)
    {l : List LaneReq} (hrow : ∀ q ∈ l, off q.lane % 32 + v.bytes ≤ 32)
    (hgood : ∀ q ∈ l, poisonedIn s.poison (padAddr s.core (off q.lane)) v.bytes = false) (turns : BitVec 32) {a : VecAccess}
    (ha : a.poison = false) :
    ∃ turns' a', l.foldl (fun s q => padLane v s (off q.lane) q) (s.loading turns a) = s.loading turns' a' ∧
      (∀ b, b < 32 → bitAt turns' b = (bitAt turns b || l.any fun q => off q.lane / 32 % 32 == b)) ∧
      (a'.poison = false ∧ a'.dest = a.dest ∧ a'.active = a.active) ∧
      ∀ j, j < 64 → lane a'.acc j = if j ∈ l.map LaneReq.lane then loadedLane s v (off j) else lane a.acc j := by
  induction l generalizing turns a with
  | nil => exact ⟨turns, a, rfl, by simp, ⟨ha, rfl, rfl⟩, by simp⟩
  | cons q l ih =>
    have hstep := padLane_loading hs hv turns a (hrow q List.mem_cons_self) hn (hgood q List.mem_cons_self) q
    generalize hset : setLane a.acc q.lane (loadedLane s v (off q.lane)) = acc at hstep
    obtain ⟨turns', a', hfold, hturns, hkept, hacc⟩ := ih (fun r hr => hrow r (List.mem_cons_of_mem q hr))
      (fun r hr => hgood r (List.mem_cons_of_mem q hr)) (setBits turns (off q.lane / 32 % 32) (off q.lane / 32 % 32) 1)
      (a := a.gathered acc) ha
    refine ⟨turns', a', ?_, fun b hb => ?_, hkept, fun j hj => ?_⟩
    · rw [List.foldl_cons, hstep, hfold]
    · rw [hturns b hb, bitAt_setBits _ le_rfl, List.any_cons]
      by_cases hd : off q.lane / 32 % 32 = b
      · simp [hd, hb]
      · rw [if_neg (by omega), beq_false_of_ne hd, Bool.false_or]
    · rw [hacc j hj]
      by_cases hmem : j ∈ l.map LaneReq.lane
      · rw [if_pos hmem, List.map_cons, if_pos (List.mem_cons_of_mem _ hmem)]
      · rw [if_neg hmem, gathered_acc, ← hset, lane_setLane hj, List.map_cons]
        by_cases hq : j = q.lane
        · rw [if_pos hq, hq, if_pos List.mem_cons_self]
        · rw [if_neg hq, if_neg (by simp only [List.mem_cons, not_or]; exact ⟨hq, hmem⟩)]

section
variable {x : Slot} {a : VecAccess}

theorem accessing_flow : (x.accessing a).flow = x.flow := rfl
theorem accessing_pc : (x.accessing a).pc = x.pc := rfl

theorem writeV_accessing (n : Nat) (w : Vec) : (x.accessing a).writeV n w = (x.writeV n w).accessing a := by
  unfold Slot.writeV
  by_cases h : (x.inHandler && decide (12 ≤ n)) = true
  · rw [if_pos h]
    exact if_pos h
  · rw [if_neg h]
    exact if_neg h

/-- An access that is over is forgotten as its instruction retires. -/
theorem doneNext_accessing (hs : s.slot < 8) (hx : x.steady = true) :
    doneNext (s.setMe (x.accessing a)) = s.setMe (x.movedTo (x.pc + 4)) := by
  have hdone := doneNext_modMe (s := s) (f := fun _ => x.accessing a) hs (accessing_flow.trans (Slot.steady_flow hx))
  refine hdone.trans ?_
  rw [← retireSlot_steady hx, accessing_pc]
  rfl

theorem foldl_handOn {l : List Elem} (h : s.me.pair = .alone) : l.foldl handOn s = s := by
  induction l with
  | nil => rfl
  | cons e l ih => rw [List.foldl_cons, handOn_alone h, ih]

/-- A load of good data that ends. -/
theorem finishVec_load (hs : s.slot < 8) (hx : x.steady = true) {vd : BitVec 4} (hdest : a.dest = some vd)
    (hgood : a.poison = false) : finishVec (s.setMe (x.accessing a)) = s.setMe ((x.writeV vd.toNat
      (ofLanes fun i => if bitAt a.active i then lane a.acc i else lane (x.readV vd.toNat) i)).movedTo (x.pc + 4)) := by
  have hme : (s.setMe (x.accessing a)).me = x.accessing a := State.me_setMe _ _ hs
  have hpair : (s.setMe (x.accessing a)).me.pair = .alone := by
    rw [hme]
    exact Slot.flow_pair (accessing_flow.trans (Slot.steady_flow hx))
  have hvec : (s.setMe (x.accessing a)).me.vec = some a := congrArg Slot.vec hme
  rw [finishVec, hvec]
  dsimp only
  rw [hgood, hdest, consumeIf, if_neg Bool.false_ne_true]
  dsimp only
  rw [foldl_handOn hpair, State.modMe_setMe _ _ _ hs, writeV_accessing, doneNext_accessing hs (by simpa using hx), Slot.writeV_pc]
  rfl

end

theorem starting_loading (s : State) (v : VecOp) : s.starting v = s.loading (s.coreOf s.core).bankTurns v.begun := by
  have hsame : s.modCore s.core (fun r => { { r with bankTurns := (s.coreOf s.core).bankTurns } with
      slots := vset r.slots s.slot (s.me.accessing v.begun) }) = s.modCore s.core fun r =>
      { r with slots := vset r.slots s.slot (s.me.accessing v.begun) } := modCore_congr rfl
  rw [State.loading, State.setMe, State.setSlot, State.modCore_core, State.modCore_slot, State.modCore_modCore]
  exact hsame.symm

theorem noteRows_loading (hs : s.slot < 8) (rows : List Nat) (turns : BitVec 32) (a : VecAccess) :
    noteRows rows (s.loading turns a) = s.loading turns { a with rows := a.rows ++ rows } :=
  State.modMe_setMe (s.modCore s.core fun r => { r with bankTurns := turns }) (s.me.accessing a)
    (fun x => { x with vec := x.vec.map fun a => { a with rows := a.rows ++ rows } }) hs

/-- The register after a load: the lanes that were performed, and the others kept. -/
def loadedVec (s : State) (v : VecOp) (off : Nat → Nat) (old : Vec) : Vec :=
  ofLanes fun i => if bitAt v.active i then loadedLane s v (off i) else lane old i

theorem ofLanes_congr {f g : Nat → Lane} (h : ∀ i, i < 64 → f i = g i) : ofLanes f = ofLanes g := by
  have hfrom : ∀ n, lanesFrom f n = lanesFrom g n := by
    intro n
    induction n with
    | zero => rfl
    | succ n ih => rw [lanesFrom, lanesFrom, ih, h _ (by omega)]
  rw [ofLanes, ofLanes, hfrom]

/-- What a load's lanes and its end come to. -/
theorem loadedLanes_spec (hs : s.slot < 8) (hsteady : s.me.steady = true) {v : VecOp} {vd : BitVec 4} (hv : v.dest = some vd)
    {off : Nat → Nat} (hn : 0 < v.bytes) (hrow : ∀ q ∈ v.lanes, off q.lane % 32 + v.bytes ≤ 32)
    (hgood : ∀ q ∈ v.lanes, poisonedIn s.poison (padAddr s.core (off q.lane)) v.bytes = false)
    (hlanes : ∀ j, j < 64 → bitAt v.active j = true → j ∈ v.lanes.map LaneReq.lane) :
    ∃ turns, finishVec (noteRows (v.rowsAt off) (performLanes v off (s.starting v))) =
        (s.modCore s.core fun r => { r with bankTurns := turns }).setMe
          ((s.me.writeV vd.toNat (loadedVec s v off (s.me.readV vd.toNat))).movedTo (s.me.pc + 4)) ∧
      ∀ b, b < 32 → bitAt turns b = (bitAt (s.coreOf s.core).bankTurns b || v.lanes.any fun q => off q.lane / 32 % 32 == b) := by
  obtain ⟨turns, a, hfold, hturns, ⟨hpoison, hdest, hactive⟩, hacc⟩ :=
    loadLanes_spec hs hv hn hrow hgood (s.coreOf s.core).bankTurns (a := v.begun) rfl
  refine ⟨turns, ?_, hturns⟩
  rw [performLanes, starting_loading, hfold, noteRows_loading hs]
  refine (finishVec_load (s := s.modCore s.core fun r => { r with bankTurns := turns }) hs hsteady
    (a := { a with rows := a.rows ++ v.rowsAt off }) (hdest.trans hv) hpoison).trans ?_
  have hvec : (ofLanes fun i => if bitAt a.active i then lane a.acc i else lane (s.me.readV vd.toNat) i) =
      loadedVec s v off (s.me.readV vd.toNat) := by
    refine ofLanes_congr fun i hi => ?_
    rw [hactive, show v.begun.active = v.active from rfl]
    by_cases hbit : bitAt v.active i = true
    · rw [if_pos hbit, if_pos hbit, hacc i hi, if_pos (hlanes i hi hbit)]
    · rw [if_neg hbit, if_neg hbit]
  rw [hvec]

end

/-! ### The six instructions -/

theorem extendN_signed {n : Nat} (hn : 0 < n) (h8 : n ≤ 8) (x : Word) : extendN true n x = (x.setWidth (8 * n)).signExtend 64 := by
  have hmsb : (x.setWidth (8 * n)).msb = bitAt x (8 * n - 1) := by
    rw [BitVec.msb_eq_getLsbD_last, BitVec.getLsbD_setWidth, bitAt]
    simp [show 8 * n - 1 < 8 * n by omega]
  rw [extendN, BitVec.signExtend, BitVec.toInt_eq_msb_cond, hmsb, BitVec.toNat_setWidth, Bool.true_and]
  cases bitAt x (8 * n - 1)
  · rw [if_neg Bool.false_ne_true, if_neg Bool.false_ne_true]
    exact (BitVec.ofInt_natCast ..).symm
  · simp

theorem setWidth_extendN {n : Nat} (hn : 0 < n) (h4 : n ≤ 4) (signed : Bool) (x : Word) : (extendN signed n x).setWidth 32 =
    if signed then (x.setWidth (8 * n)).signExtend 32 else (x.setWidth (8 * n)).setWidth 32 := by
  cases signed
  · apply BitVec.eq_of_toNat_eq
    simp [extendN, BitVec.toNat_setWidth]
  · rw [extendN_signed hn (by omega), if_pos rfl]
    apply BitVec.eq_of_getLsbD_eq
    intro k hk
    rw [BitVec.getLsbD_setWidth, BitVec.getLsbD_signExtend, BitVec.getLsbD_signExtend]
    simp [hk, show k < 64 by omega]

theorem elemBytes_width {ty : BitVec 3} (hty : ty.toNat < 6) : elemBytes ty = elemWidth ty / 8 ∧ elemWidth ty = 8 * elemBytes ty ∧
    (vtype ty).width = elemWidth ty ∧ elemBytes ty ∈ [1, 2, 4] ∧ (vtype ty).isInt = decide (3 ≤ ty.toNat) := by
  have h : ∀ ty : BitVec 3, ty.toNat < 6 → elemBytes ty = elemWidth ty / 8 ∧ elemWidth ty = 8 * elemBytes ty ∧
    (vtype ty).width = elemWidth ty ∧ elemBytes ty ∈ [1, 2, 4] ∧ (vtype ty).isInt = decide (3 ≤ ty.toNat) := by decide
  exact h ty hty

section
variable {s : State} {i : Instr} {vd : BitVec 4} {msk ty : BitVec 3} {load : Bool} {addrOf : Slot → Nat → Word} {off : Nat → Nat}

theorem bitAt_maskOf (x : Slot) (msk : BitVec 3) {j : Nat} (hj : j < 64) : bitAt (x.maskOf msk) j = active x msk j := by
  rw [Slot.maskOf, active]
  by_cases hm : msk = 0#3
  · rw [if_pos hm, hm, bitAt, BitVec.getLsbD_allOnes]
    simp [hj]
  · rw [if_neg hm, show (msk == 0) = false from beq_false_of_ne hm, Bool.false_or]

theorem activeLanes_maskOf (x : Slot) (msk : BitVec 3) : activeLanes (x.maskOf msk) = (List.range 64).filter (active x msk) :=
  List.filter_congr fun _ hj => bitAt_maskOf x msk (List.mem_range.1 hj)

/-- The lanes of an access, from the slot of the issue. -/
theorem vecOp_lanes (h : s.runs i = true) : (vecOp load vd msk ty addrOf (s.noted i)).lanes =
    ((List.range 64).filter (active s.me msk)).map fun j =>
      ⟨j, addrOf (s.me.noting i) j, BitVec.ofNat 64 (elemCode (vtype ty) (lane (s.me.readV vd.toNat) j))⟩ := by
  rw [vecOp, me_noted h]
  exact congrArg (List.map _) (activeLanes_maskOf (s.me.noting i) msk)

theorem mem_vecOp_lanes (h : s.runs i = true) {q : LaneReq} (hq : q ∈ (vecOp load vd msk ty addrOf (s.noted i)).lanes) :
    q.lane < 64 ∧ active s.me msk q.lane = true ∧ q.addr = addrOf (s.me.noting i) q.lane := by
  rw [vecOp_lanes h, List.mem_map] at hq
  obtain ⟨j, hj, rfl⟩ := hq
  rw [List.mem_filter, List.mem_range] at hj
  exact ⟨hj.1, hj.2, rfl⟩

theorem localAt_noted (h : s.runs i = true) {a : Word} {n o : Nat} {r w : Bool} (hl : LocalAt s a n o r w) :
    LocalAt (s.noted i) a n o r w := by
  have hfold : ((s.noted i).coreOf s.core).fold = (s.coreOf s.core).fold := by rw [(noted_keeps h).cores]
  exact localAt_congr (noted_core h) (noted_slot h) hfold (by rw [me_noted h]; rfl) (by rw [me_noted h]; rfl) hl

/-- A store of local lanes, one row in each bank. -/
theorem vectorStore_local {addr : Nat → Word} (h : s.runs i = true) (he : exec i s = vecMem i (vecOp false vd msk ty addrOf) s)
    (hty : ty.toNat < 6) (haddr : ∀ j, addrOf (s.me.noting i) j = addr j)
    (hone : ∀ j k, j < 64 → k < 64 → active s.me msk j = true → active s.me msk k = true →
      off j / 32 % 32 = off k / 32 % 32 → off j / 32 = off k / 32)
    (hl : ∀ j, j < 64 → active s.me msk j = true → LocalAt s (addr j) (elemWidth ty / 8) (off j) false true) :
    ∃ t, exec i s = .next t ∧ t.me.g = s.me.g ∧ t.me.v = s.me.v ∧ t.me.winV = s.me.winV ∧ t.me.pc = s.me.pc + 4 ∧
      ∀ a, t.mem.read a = (((List.range 64).filter (active s.me msk)).foldl (fun (m : Memory) j =>
        m.writeN (padAddr s.core (off j)) (elemWidth ty / 8) ((lane (s.me.readV vd.toNat) j).toNat % 2 ^ (8 * (elemWidth ty / 8))))
        s.mem).read a := by
  obtain ⟨hbytes, hwidth, hvtype, -, -⟩ := elemBytes_width hty
  obtain ⟨t, hexec, hfile, hmem⟩ := vecStore_local (off := off) h he rfl rfl (fun q hq => by
    obtain ⟨hlane, hact, hq⟩ := mem_vecOp_lanes h hq
    rw [hq, haddr, VecOp.bytes]
    exact localAt_noted h (hbytes ▸ hl _ hlane hact)) fun q hq r hr hbank => by
    obtain ⟨hq, haq, -⟩ := mem_vecOp_lanes h hq
    obtain ⟨hr, har, -⟩ := mem_vecOp_lanes h hr
    exact hone _ _ hq hr haq har hbank
  refine ⟨t, hexec, (Slot.file_g hfile).trans rfl, congrArg (fun z => z.2.2.2.1) hfile, congrArg (fun z => z.2.2.2.2.2.1) hfile,
    Slot.file_pc hfile, fun a => congrArg (Memory.read · a) (hmem.trans ?_)⟩
  rw [vecOp_lanes h, List.foldl_map, show (vecOp false vd msk ty addrOf (s.noted i)).bytes = elemWidth ty / 8 from hbytes]
  refine List.foldl_ext _ _ _ fun m j _ => congrArg _ ?_
  rw [← hbytes, ← hwidth, ← hvtype]
  exact toNat_ofNat_lt (lt_of_le_of_lt (Nat.mod_le _ _) ((BitVec.isLt _).trans (by decide)))

/-- A lane's bytes are extended as its type says (R171, R186). -/
theorem loadedLane_toLane (hty : ty.toNat < 6) {v : VecOp} (hv : v.ty = ty) (s : State) (o : Nat) :
    loadedLane s v o = toLane ty (.ofNat 64 (s.mem.readN (padAddr s.core o) (elemWidth ty / 8))) := by
  obtain ⟨hbytes, hwidth, -, hn, hint⟩ := elemBytes_width hty
  simp only [List.mem_cons, List.not_mem_nil, or_false] at hn
  have hlane := setWidth_extendN (n := elemBytes ty) (by omega) (by omega) (vtype ty).isInt
    (.ofNat 64 (s.mem.readN (padAddr s.core o) (elemBytes ty)))
  rw [hint, ← hwidth] at hlane
  rw [loadedLane, VecOp.bytes, hv, toLane, ← hbytes, hint]
  simpa using hlane

/-- A bank turn is a matter of the core alone, and the noted word of the slot alone. -/
theorem noted_bankTurns (h : s.runs i = true) (turns : BitVec 32) (x : Slot) :
    ((s.noted i).modCore s.core fun r => { r with bankTurns := turns }).setMe x =
      (s.modCore s.core fun r => { r with bankTurns := turns }).setMe x := by
  have hset := modCore_setMe (s := s) (x := s.me.noting i) (f := fun r => { r with bankTurns := turns }) fun _ => rfl
  rw [State.runs_noted h, hset, State.setMe_setMe]

theorem retired_bankTurns (turns : BitVec 32) (x : Slot) :
    (s.modCore s.core fun r => { r with bankTurns := turns }).retired i x =
      (s.modCore s.core fun r => { r with bankTurns := turns }).setMe ((x.noting i).movedTo (s.me.pc + 4)) := by
  have hme : (s.modCore s.core fun r => { r with bankTurns := turns }).me = s.me := me_modCore fun _ => rfl
  rw [State.retired, State.retiredTo, hme]

/-- A load of local lanes of good data, one row in each bank. -/
theorem vectorLoad_local {addr : Nat → Word} (h : s.runs i = true) (he : exec i s = vecMem i (vecOp true vd msk ty addrOf) s)
    (hty : ty.toNat < 6) (haddr : ∀ j, addrOf (s.me.noting i) j = addr j)
    (hone : ∀ j k, j < 64 → k < 64 → active s.me msk j = true → active s.me msk k = true →
      off j / 32 % 32 = off k / 32 % 32 → off j / 32 = off k / 32)
    (hl : ∀ j, j < 64 → active s.me msk j = true → LocalAt s (addr j) (elemWidth ty / 8) (off j) true false ∧
      poisonedIn s.poison (padAddr s.core (off j)) (elemWidth ty / 8) = false) :
    ∃ turns : BitVec 32, exec i s = .next ((s.modCore s.core fun r => { r with bankTurns := turns }).retired i
        (written s.me vd msk fun j => toLane ty (.ofNat 64 (s.mem.readN (padAddr s.core (off j)) (elemWidth ty / 8))))) ∧
      ∀ b, b < 32 → bitAt turns b = (bitAt s.myCore.bankTurns b ||
        (List.range 64).any fun j => active s.me msk j && off j / 32 % 32 == b) := by
  obtain ⟨hbytes, hwidth, -, hn, hint⟩ := elemBytes_width hty
  have hs : (s.noted i).slot < 8 := (noted_slot h).symm ▸ State.runs_slot h
  have hsteady : (s.noted i).me.steady = true := by
    rw [me_noted h, Slot.steady_noting]
    exact State.runs_steady h
  have hlocal : (vecOp true vd msk ty addrOf (s.noted i)).LocalIn off (s.noted i) := fun q hq => by
    obtain ⟨hlane, hact, hq⟩ := mem_vecOp_lanes h hq
    rw [hq, haddr, VecOp.bytes]
    exact localAt_noted h (hbytes ▸ (hl _ hlane hact).1)
  have hrows : (vecOp true vd msk ty addrOf (s.noted i)).OneRow off := fun q hq r hr hbank => by
    obtain ⟨hq, haq, -⟩ := mem_vecOp_lanes h hq
    obtain ⟨hr, har, -⟩ := mem_vecOp_lanes h hr
    exact hone _ _ hq hr haq har hbank
  have hexec := he.trans (vecMem_local h rfl hlocal hrows)
  have hpos : 0 < elemBytes ty := by
    simp only [List.mem_cons, List.not_mem_nil, or_false] at hn
    omega
  obtain ⟨turns, hend, hturns⟩ := loadedLanes_spec (off := off) hs hsteady (v := vecOp true vd msk ty addrOf (s.noted i)) (vd := vd) rfl hpos
    (fun q hq => localAt_row hn (hlocal q hq)) (fun q hq => by
      obtain ⟨hlane, hact, -⟩ := mem_vecOp_lanes h hq
      rw [VecOp.bytes, noted_core h, State.runs_noted h, State.setMe_poison]
      exact hbytes ▸ (hl _ hlane hact).2) (fun j hj hbit => by
      have hact : active s.me msk j = true := by
        rw [← hbit, ← bitAt_maskOf s.me msk hj, vecOp, me_noted h]
        rfl
      rw [vecOp_lanes h, List.map_map, List.mem_map]
      exact ⟨j, List.mem_filter.2 ⟨List.mem_range.2 hj, hact⟩, rfl⟩)
  refine ⟨turns, hexec.trans ?_, fun b hb => ?_⟩
  · have hvec : loadedVec (s.noted i) (vecOp true vd msk ty addrOf (s.noted i)) off (s.me.readV vd.toNat) = ofLanes fun j =>
        if active s.me msk j then toLane ty (.ofNat 64 (s.mem.readN (padAddr s.core (off j)) (elemWidth ty / 8)))
        else lane (s.me.readV vd.toNat) j := by
      refine ofLanes_congr fun j hj => ?_
      rw [loadedLane_toLane hty rfl, noted_core h, noted_mem h, ← bitAt_maskOf s.me msk hj, vecOp, me_noted h]
      rfl
    rw [hend, noted_core h, me_noted h, Slot.readV_noting, Slot.noting_pc, Slot.writeV_noting, hvec, retired_bankTurns,
      noted_bankTurns h, written]
  · rw [hturns b hb, noted_core h, (noted_keeps h).cores, vecOp_lanes h, List.any_map, List.any_filter]
    rfl

end

theorem localVectorAccesses : Claims.LocalVectorAccesses := by
  intro vd va msk gs ty i addr off s hty h
  have hbytes := (elemBytes_width hty).1
  have hunit (x : Slot) (j : Nat) : unitAddr gs ty x j = x.readG gs.toNat + .ofNat 64 (elemWidth ty / 8 * j) := by
    rw [unitAddr, hbytes]
  have hstride (x : Slot) (j : Nat) : strideAddr gs x j =
      x.readG gs.toNat + .ofInt 64 ((x.readG ((gs.toNat + 1) % 32)).toInt * j) := by
    rw [strideAddr, BitVec.ofInt_mul, BitVec.ofInt_toInt, BitVec.ofInt_natCast]
  have hindex (x : Slot) (j : Nat) : indexAddr gs va x j =
      x.readG gs.toNat + .ofInt 64 (lane (x.readV va.toNat) j).toInt := rfl
  intro n hone
  refine ⟨fun hi hl => ?_, fun hi hl => ?_⟩
  · simp only [vectorLoads, List.mem_cons, Prod.mk.injEq, List.not_mem_nil, or_false] at hi
    obtain ⟨rfl, rfl⟩ | ⟨rfl, rfl⟩ | ⟨rfl, rfl⟩ := hi
    · exact vectorLoad_local h rfl hty (hunit _) hone hl
    · exact vectorLoad_local h rfl hty (hstride _) hone hl
    · exact vectorLoad_local h rfl hty (hindex _) hone hl
  · simp only [vectorStores, List.mem_cons, Prod.mk.injEq, List.not_mem_nil, or_false] at hi
    obtain ⟨rfl, rfl⟩ | ⟨rfl, rfl⟩ | ⟨rfl, rfl⟩ := hi
    · exact vectorStore_local h rfl hty (hunit _) hone hl
    · exact vectorStore_local h rfl hty (hstride _) hone hl
    · exact vectorStore_local h rfl hty (hindex _) hone hl

/-- Settles O52: a pass performs every lane in order, and a port instruction pops, pushes or counts through the ports alone. -/
theorem vectorMemoryAndPorts : Obligations.VectorMemoryAndPorts := ⟨localVectorAccesses, portInstructions⟩

end Sys2Proof.Machine

end

section

namespace Sys2Proof.Machine
open Claims

/-! ## Exact arithmetic (R57) -/

section
variable {n n1 n2 n3 : Bool} {a a1 a2 a3 b b1 b2 b3 : Nat}

theorem value_fin (n : Bool) (a b : Nat) : value (.fin n a b) = (toSigned n a : ℚ) / b := by
  cases n
  · simp [value, toSigned]
  · simp [value, toSigned, neg_div]

theorem toSigned_natAbs (i : Int) : toSigned (decide (i < 0)) i.natAbs = i := by
  unfold toSigned
  split
  next h => simp only [decide_eq_true_eq] at h; omega
  next h => simp only [decide_eq_true_eq] at h; omega

theorem toSigned_eq_zero_iff : toSigned n a = 0 ↔ a = 0 := by
  unfold toSigned
  split <;> omega

theorem value_fromInt (z : Bool) (i : Int) (b : Nat) : value (fromInt z i b) = i / b := by
  unfold fromInt
  split
  next h => simp [value_fin, toSigned, h]
  next => rw [value_fin, toSigned_natAbs]

theorem value_neg (n : Bool) (a b : Nat) : value (Val.fin n a b).neg = -value (.fin n a b) := by
  cases n <;> simp [Val.neg, value]

/-- Two fractions added over the least common denominator. -/
theorem sum_over_gcd (x y : Int) (h1 : b1 ≠ 0) (h2 : b2 ≠ 0) :
    ((x * (b2 / b1.gcd b2 : Nat) + y * (b1 / b1.gcd b2 : Nat) : Int) : ℚ) / (b1 / b1.gcd b2 * b2 : Nat) = x / b1 + y / b2 := by
  have hg : b1.gcd b2 ≠ 0 := fun h => h1 (Nat.eq_zero_of_gcd_eq_zero_left h)
  obtain ⟨c1, hc1⟩ := Nat.gcd_dvd_left b1 b2
  obtain ⟨c2, hc2⟩ := Nat.gcd_dvd_right b1 b2
  generalize b1.gcd b2 = g at hg hc1 hc2 ⊢
  subst hc1 hc2
  have hc1 : (c1 : ℚ) ≠ 0 := by exact_mod_cast (mul_ne_zero_iff.1 h1).2
  have hc2 : (c2 : ℚ) ≠ 0 := by exact_mod_cast (mul_ne_zero_iff.1 h2).2
  have hgq : (g : ℚ) ≠ 0 := by exact_mod_cast hg
  rw [Nat.mul_div_cancel_left _ (by omega), Nat.mul_div_cancel_left _ (by omega)]
  push_cast
  field_simp

/-- The exact sum of two finite numbers. -/
theorem addVal_fin (m : Mode) (h1 : b1 ≠ 0) (h2 : b2 ≠ 0) :
    value (addVal m (.fin n1 a1 b1) (.fin n2 a2 b2)).1 = value (.fin n1 a1 b1) + value (.fin n2 a2 b2) ∧
      (addVal m (.fin n1 a1 b1) (.fin n2 a2 b2)).2 = 0 := by
  rw [addVal]
  split
  next hzero =>
    obtain ⟨rfl, rfl⟩ : a1 = 0 ∧ a2 = 0 := by simpa using hzero
    simp [value]
  next =>
    refine ⟨?_, rfl⟩
    rw [value_fromInt, sum_over_gcd _ _ h1 h2, value_fin, value_fin]

/-- A sum of zero has the sign that R57 gives. -/
theorem addVal_zero (m : Mode) (h1 : b1 ≠ 0) (h2 : b2 ≠ 0) (hsum : value (.fin n1 a1 b1) + value (.fin n2 a2 b2) = 0) :
    (addVal m (.fin n1 a1 b1) (.fin n2 a2 b2)).1 = .fin (decide (m = .rdn) || (n1 && n2)) 0 1 := by
  rw [addVal]
  split
  next => rfl
  next hzero =>
    rw [value_fin, value_fin, ← sum_over_gcd _ _ h1 h2, div_eq_zero_iff] at hsum
    have hden : ((b1 / b1.gcd b2 * b2 : Nat) : ℚ) ≠ 0 := by
      have : b1 / b1.gcd b2 ≠ 0 := (Nat.div_pos (Nat.gcd_le_left b2 (by omega)) (Nat.gcd_pos_of_pos_left b2 (by omega))).ne'
      exact_mod_cast mul_ne_zero this h2
    have hnum := Int.cast_eq_zero.1 (hsum.resolve_right hden)
    have hsign : (n1 && n2) = false := by
      by_contra hboth
      obtain ⟨rfl, rfl⟩ : n1 = true ∧ n2 = true := by simpa using hboth
      have hp1 := Nat.div_pos (Nat.gcd_le_left b2 (by omega)) (Nat.gcd_pos_of_pos_left b2 (show 0 < b1 by omega))
      have hp2 := Nat.div_pos (Nat.gcd_le_right b1 (by omega)) (Nat.gcd_pos_of_pos_left b2 (show 0 < b1 by omega))
      simp only [toSigned, if_true] at hnum
      generalize b1 / b1.gcd b2 = c1 at hp1 hnum
      generalize b2 / b1.gcd b2 = c2 at hp2 hnum
      have : a1 * c2 + a2 * c1 = 0 := by zify; linarith
      simp only [Nat.add_eq_zero_iff, Nat.mul_eq_zero] at this
      simp only [Bool.and_eq_true, decide_eq_true_eq] at hzero
      omega
    rw [hsign, Bool.or_false]
    exact if_pos hnum

/-- The exact product of two finite numbers. -/
theorem mulVal_fin : value (mulVal (.fin n1 a1 b1) (.fin n2 a2 b2)).1 = value (.fin n1 a1 b1) * value (.fin n2 a2 b2) ∧
    (mulVal (.fin n1 a1 b1) (.fin n2 a2 b2)).2 = 0 := by
  refine ⟨?_, rfl⟩
  cases n1 <;> cases n2 <;> simp [mulVal, value, mul_div_mul_comm]

/-- The exact quotient by a number that is not zero. -/
theorem divVal_fin (h : a2 ≠ 0) :
    value (divVal (.fin n1 a1 b1) (.fin n2 a2 b2)).1 = value (.fin n1 a1 b1) / value (.fin n2 a2 b2) ∧
      (divVal (.fin n1 a1 b1) (.fin n2 a2 b2)).2 = 0 := by
  rw [divVal, if_neg h]
  refine ⟨?_, rfl⟩
  cases n1 <;> cases n2 <;> simp [value, div_div_div_eq, neg_div, div_neg]

/-- The exact sum of a product and a number. -/
theorem fmaVal_fin (m : Mode) (h1 : b1 ≠ 0) (h2 : b2 ≠ 0) (h3 : b3 ≠ 0) :
    value (fmaVal m (.fin n1 a1 b1) (.fin n2 a2 b2) (.fin n3 a3 b3)).1 =
        value (.fin n1 a1 b1) * value (.fin n2 a2 b2) + value (.fin n3 a3 b3) ∧
      (fmaVal m (.fin n1 a1 b1) (.fin n2 a2 b2) (.fin n3 a3 b3)).2 = 0 := by
  obtain ⟨hvalue, hflags⟩ := addVal_fin (n1 := n1 != n2) (n2 := n3) (a1 := a1 * a2) (a2 := a3) m (mul_ne_zero h1 h2) h3
  rw [← (mulVal_fin (n1 := n1) (n2 := n2) (a1 := a1) (a2 := a2) (b1 := b1) (b2 := b2)).1]
  exact ⟨hvalue, by simp only [fmaVal, mulVal, hflags]; rfl⟩

end

theorem exactArithmetic : ExactArithmetic := by
  intro m n1 n2 n3 a1 a2 a3 b1 b2 b3 h1 h2 h3
  refine ⟨addVal_fin m h1 h2, addVal_zero m h1 h2, ?_, mulVal_fin, divVal_fin, fmaVal_fin m h1 h2 h3, ?_, ?_, ?_⟩
  · rw [sub_eq_add_neg, ← value_neg]
    exact addVal_fin m h1 h2
  · intro ha
    rw [divVal, if_pos rfl, if_neg ha]
  · cases n1 <;> rfl
  · rfl

/-! ## Rounding keeps what a format holds (R42, R43, R51, R52) -/

/-- A value in units of a power of two that it is a whole number of. -/
theorem roundAt_dyadic {neg : Bool} {mant num den : Nat} {ex : Int} (h : dyadic neg mant ex = .fin neg num den) (mode : Mode) (rnd : Nat) :
    roundAt mode rnd neg num den ex = (mant, false) := by
  cases ex with
  | ofNat k =>
    obtain ⟨rfl, rfl⟩ : mant * 2 ^ k = num ∧ 1 = den := by simpa [dyadic] using h
    simp [roundAt, scaleDown, roundsUp]
  | negSucc k =>
    obtain ⟨rfl, rfl⟩ : mant = num ∧ 2 ^ (k + 1) = den := by simpa [dyadic] using h
    simp [roundAt, scaleDown, roundsUp]

theorem log2_mul_two_pow {mant : Nat} (h : mant ≠ 0) (k : Nat) : (mant * 2 ^ k).log2 = mant.log2 + k := by
  rw [Nat.log2_eq_iff (by positivity)]
  obtain ⟨hlow, hhigh⟩ := (Nat.log2_eq_iff h).1 rfl
  rw [pow_add, show mant.log2 + k + 1 = mant.log2 + 1 + k by ring, pow_add]
  exact ⟨Nat.mul_le_mul_right _ hlow, Nat.mul_lt_mul_of_pos_right hhigh (by positivity)⟩

theorem fracLog2_dyadic {neg : Bool} {mant num den : Nat} {ex : Int} (hmant : mant ≠ 0) (h : dyadic neg mant ex = .fin neg num den) :
    fracLog2 num den = mant.log2 + ex := by
  have hlow : 2 ^ mant.log2 ≤ mant := Nat.log2_self_le hmant
  cases ex with
  | ofNat k =>
    obtain ⟨rfl, rfl⟩ : mant * 2 ^ k = num ∧ 1 = den := by simpa [dyadic] using h
    have he : ((mant * 2 ^ k).log2 : Int) - (Nat.log2 1 : Int) = .ofNat (mant.log2 + k) := by
      rw [log2_mul_two_pow hmant, show Nat.log2 1 = 0 from Nat.log2_two_pow (n := 0)]
      simp
    have hle : 2 ^ (mant.log2 + k) ≤ mant * 2 ^ k := by
      rw [pow_add]
      exact Nat.mul_le_mul_right _ hlow
    rw [fracLog2, he]
    simp [hle]
  | negSucc k =>
    obtain ⟨rfl, rfl⟩ : mant = num ∧ 2 ^ (k + 1) = den := by simpa [dyadic] using h
    have he : (mant.log2 : Int) - ((2 ^ (k + 1)).log2 : Int) = mant.log2 + Int.negSucc k := by
      rw [Nat.log2_two_pow, Int.negSucc_eq]
      push_cast
      ring
    rw [fracLog2, he]
    rcases hcase : (mant.log2 : Int) + Int.negSucc k with j | j
    · have hj : mant.log2 = k + 1 + j := by rw [Int.negSucc_eq, Int.ofNat_eq_natCast] at hcase; omega
      rw [hj, pow_add] at hlow
      simp [hlow]
    · have hj : k + 1 = mant.log2 + (j + 1) := by rw [Int.negSucc_eq, Int.negSucc_eq] at hcase; omega
      have hle : 2 ^ (k + 1) ≤ mant * 2 ^ (j + 1) := by
        rw [hj, pow_add]
        exact Nat.mul_le_mul_right _ hlow
      simp [hle]

theorem dyadic_fin (neg : Bool) (mant : Nat) (ex : Int) : ∃ num den, dyadic neg mant ex = .fin neg num den ∧ (num = 0 ↔ mant = 0) := by
  cases ex with
  | ofNat k => exact ⟨_, _, rfl, by simp⟩
  | negSucc k => exact ⟨_, _, rfl, Iff.rfl⟩

section
variable {f : Fmt} {neg : Bool} {mode : Mode} {rnd : Nat}

/-- A value whose last bit the format has at its exponent is rounded to itself. -/
theorem roundTo_dyadic {mant mag : Nat} {ex : Int} (hmant : mant ≠ 0)
    (hex : max (mant.log2 + ex) (1 - f.bias) - f.mbits = ex)
    (hmag : (if mant < 2 ^ f.mbits then mant else (ex + f.mbits + f.bias).toNat * 2 ^ f.mbits + (mant - 2 ^ f.mbits)) = mag)
    (hmax : mag ≤ f.maxCode) : roundTo f mode false rnd (dyadic neg mant ex) = (signed f neg mag, 0) := by
  obtain ⟨num, den, hval, hzero⟩ := dyadic_fin neg mant ex
  rw [hval, roundTo, if_neg (fun h => hmant (hzero.1 h))]
  simp only [fracLog2_dyadic hmant hval, hex, roundAt_dyadic hval, hmag, if_neg (Nat.not_lt.2 hmax), Bool.and_false, flagIf,
    Bool.false_eq_true, if_false]
  rfl

theorem roundTo_zero (ex : Int) : roundTo f mode false rnd (dyadic neg 0 ex) = (signed f neg 0, 0) := by
  obtain ⟨num, den, hval, hzero⟩ := dyadic_fin neg 0 ex
  rw [hval, roundTo, if_pos (hzero.2 rfl)]

/-- A code is its sign bit above its exponent and its mantissa. -/
theorem signed_code {c : Nat} (hc : c < 2 ^ f.width) :
    signed f (c / f.signBit % 2 == 1) (c / 2 ^ f.mbits % 2 ^ f.ebits * 2 ^ f.mbits + c % 2 ^ f.mbits) = c := by
  have hmag : c / 2 ^ f.mbits % 2 ^ f.ebits * 2 ^ f.mbits + c % 2 ^ f.mbits = c % f.signBit := by
    rw [Fmt.signBit, Nat.add_comm f.ebits, pow_add, Nat.mod_mul]
    ring
  have hsign : c / f.signBit < 2 := by
    rw [Fmt.signBit, Nat.div_lt_iff_lt_mul (Nat.two_pow_pos _), ← pow_succ']
    exact hc.trans_eq (by rw [Fmt.width]; ring_nf)
  have hc := Nat.div_add_mod c f.signBit
  rw [hmag, signed]
  obtain h | h : c / f.signBit = 0 ∨ c / f.signBit = 1 := by
    generalize c / f.signBit = d at hsign
    omega
  · rw [h] at hc ⊢
    simpa using hc
  · rw [h] at hc ⊢
    simpa [Nat.add_comm] using hc

theorem log2_normal {M : Nat} (h : M < 2 ^ f.mbits) : (2 ^ f.mbits + M).log2 = f.mbits := by
  rw [Nat.log2_eq_iff (by positivity), pow_succ]
  omega

/-- Every number of an IEEE format rounds to its code. -/
theorem roundTo_decodeFp (hf : f.special = .ieee) {c : Nat} (hc : c < 2 ^ f.width)
    (hnan : (decodeFp f c).isNan = false) : roundTo f mode false rnd (decodeFp f c) = (c, 0) := by
  have hcode := signed_code hc
  have hM : c % 2 ^ f.mbits < 2 ^ f.mbits := Nat.mod_lt _ (by positivity)
  have hE : c / 2 ^ f.mbits % 2 ^ f.ebits < 2 ^ f.ebits := Nat.mod_lt _ (by positivity)
  unfold decodeFp at hnan ⊢
  simp only [hf, beq_self_eq_true, Bool.true_and, beq_iff_eq] at hnan ⊢
  generalize (c / f.signBit % 2 == 1) = neg at hcode hnan ⊢
  generalize c / 2 ^ f.mbits % 2 ^ f.ebits = E at hcode hnan hE ⊢
  generalize c % 2 ^ f.mbits = M at hcode hnan hM ⊢
  have htop (h : E ≠ 2 ^ f.ebits - 1) : E * 2 ^ f.mbits + M ≤ f.maxCode := by
    have hstep : (E + 1) * 2 ^ f.mbits ≤ (2 ^ f.ebits - 1) * 2 ^ f.mbits := Nat.mul_le_mul_right _ (by omega)
    rw [Nat.succ_mul] at hstep
    rw [Fmt.maxCode, hf]
    dsimp only
    omega
  by_cases hinf : E = 2 ^ f.ebits - 1
  · rw [if_pos hinf] at hnan ⊢
    by_cases hM0 : M = 0
    · rw [if_pos hM0, ← hcode, hM0, hinf]
      simp only [roundTo, hf]
      rfl
    · rw [if_neg hM0] at hnan
      exact absurd hnan (by simp [Val.isNan])
  · rw [if_neg hinf, if_neg (by simp)]
    by_cases hE0 : E = 0
    · rw [if_pos hE0, ← hcode, hE0, Nat.zero_mul, Nat.zero_add]
      by_cases hM0 : M = 0
      · rw [hM0]
        exact roundTo_zero _
      · have hlog : M.log2 < f.mbits := (Nat.log2_lt hM0).2 hM
        have hmax := htop hinf
        rw [hE0, Nat.zero_mul, Nat.zero_add] at hmax
        refine roundTo_dyadic hM0 ?_ (if_pos hM) hmax
        omega
    · rw [if_neg hE0, ← hcode]
      refine roundTo_dyadic (by positivity) ?_ ?_ (htop hinf)
      · rw [log2_normal hM]
        omega
      · rw [if_neg (by omega), show ((E : Int) - f.bias - f.mbits + f.mbits + f.bias).toNat = E by omega, Nat.add_sub_cancel_left]

end

theorem roundingKeepsCodes : RoundingKeepsCodes := by
  intro f hf m rnd c hc
  refine ⟨fun h => ?_, fun h => ?_⟩
  · have hieee : f.special = .ieee := by
      simp only [List.mem_cons, List.not_mem_nil, or_false] at hf
      obtain rfl | rfl | rfl := hf <;> decide
    exact roundTo_decodeFp hieee hc h
  · cases hval : decodeFp f c with
    | fin | inf => simp [hval, Val.isNan] at h
    | nan => rfl

/-- Settles O49: exact fractions over their least common denominator, and codes that are whole numbers of their last place. -/
theorem floatAddMulExact : Obligations.FloatAddMulExact := ⟨exactArithmetic, roundingKeepsCodes⟩

end Sys2Proof.Machine

end

section

namespace Sys2Proof.Machine
open Claims

/-! ## One pass over the lanes (R172–R174) -/

section
variable {p : Nat → Bool} {draws : Bool} {seed : BitVec 32} {f : Nat → Nat → Nat × BitVec 7}

/-- The generator after the draws of the lanes below `j`. -/
def drawn (p : Nat → Bool) (draws : Bool) (seed : BitVec 32) (j : Nat) : BitVec 32 :=
  if draws then Nat.repeat lfsrStep ((List.range j).filter p).length seed else seed

/-- What a lane comes to: it has the generator after its own draw. -/
def laneResult (p : Nat → Bool) (draws : Bool) (seed : BitVec 32) (f : Nat → Nat → Nat × BitVec 7) (j : Nat) : Nat × BitVec 7 :=
  f j (drawn p draws seed (j + 1)).toNat

theorem drawn_succ (n : Nat) : drawn p draws seed (n + 1) =
    if p n && draws then lfsrStep (drawn p draws seed n) else drawn p draws seed n := by
  unfold drawn
  rw [List.range_succ, List.filter_append, List.length_append]
  cases draws <;> cases hp : p n <;> simp [hp, Nat.repeat]

theorem drawn_true (n : Nat) : drawn p true seed n = Nat.repeat lfsrStep ((List.range n).filter p).length seed := rfl

theorem drawn_false (n : Nat) : drawn p false seed n = seed := rfl

theorem runPass_succ (n : Nat) : runPass ((List.range (n + 1)).filter p) draws seed f =
    if p n then passLane draws f (runPass ((List.range n).filter p) draws seed f) n
    else runPass ((List.range n).filter p) draws seed f := by
  simp only [runPass]
  rw [List.range_succ, List.filter_append, List.foldl_append]
  cases hp : p n <;> simp [hp]

theorem runPass_seed (n : Nat) : (runPass ((List.range n).filter p) draws seed f).seed = drawn p draws seed n := by
  induction n with
  | zero => cases draws <;> rfl
  | succ n ih =>
    rw [runPass_succ, drawn_succ]
    cases hp : p n
    · exact ih
    · simp only [if_true, passLane, Bool.true_and, ih]

theorem passLane_result {n : Nat} (hp : p n = true) :
    passLane draws f (runPass ((List.range n).filter p) draws seed f) n =
      ⟨(n, (laneResult p draws seed f n).1) :: (runPass ((List.range n).filter p) draws seed f).out,
        (runPass ((List.range n).filter p) draws seed f).flags ||| (laneResult p draws seed f n).2, drawn p draws seed (n + 1)⟩ := by
  rw [laneResult, drawn_succ, hp, Bool.true_and]
  simp only [passLane, runPass_seed]

theorem runPass_out (n j : Nat) : tableFind j (runPass ((List.range n).filter p) draws seed f).out =
    if j < n ∧ p j = true then some (laneResult p draws seed f j).1 else none := by
  induction n with
  | zero => rfl
  | succ n ih =>
    rw [runPass_succ]
    by_cases hp : p n = true
    · rw [if_pos hp, passLane_result hp, tableFind_cons]
      by_cases hj : j = n
      · subst hj
        simp [hp]
      · rw [if_neg (Ne.symm hj), ih]
        simp only [show j < n + 1 ↔ j < n by omega]
    · rw [if_neg hp, ih]
      refine if_congr ?_ rfl rfl
      constructor
      · exact fun h => ⟨by omega, h.2⟩
      · rintro ⟨h, hpj⟩
        exact ⟨by have : j ≠ n := (hp <| · ▸ hpj); omega, hpj⟩

theorem runPass_flags (n b : Nat) : (runPass ((List.range n).filter p) draws seed f).flags.getLsbD b =
    (List.range n).any fun j => p j && (laneResult p draws seed f j).2.getLsbD b := by
  induction n with
  | zero => exact BitVec.getLsbD_zero
  | succ n ih =>
    rw [runPass_succ, List.range_succ, List.any_append, ← ih]
    cases hp : p n
    · simp [hp]
    · rw [if_pos rfl, passLane_result hp]
      simp [hp]

end

section
variable {i : Instr} {s : State} {vd va vb : BitVec 4} {msk : BitVec 3} {gs : BitVec 6} {ty : BitVec 3} {t : VType} {draws : Bool}
  {f : Nat → Nat → Nat × BitVec 7}

/-- A change of the issuing slot with which an instruction retires to the next word. -/
theorem doneNext_changed (h : s.runs i = true) {g : Slot → Slot} {y : Slot} (hg : g (s.me.noting i) = y.noting i)
    (hsteady : y.steady = true) (hpc : y.pc = s.me.pc) : doneNext ((s.noted i).modMe g) = s.retired i y := by
  have hs : s.slot < 8 := State.runs_slot h
  rw [State.runs_noted h, State.modMe_setMe _ _ _ hs, hg, doneNext_setMe hs (by simpa using hsteady), State.retired, State.retiredTo, ← hpc]
  rfl

theorem Slot.writeV_fflags (x : Slot) (n : Nat) (v : Vec) : (x.writeV n v).fflags = x.fflags := by
  unfold Slot.writeV
  split <;> rfl

theorem Slot.writeV_srseed (x : Slot) (n : Nat) (v : Vec) : (x.writeV n v).srseed = x.srseed := by
  unfold Slot.writeV
  split <;> rfl

/-- The flags of an instruction's active lanes. -/
theorem flagsOf_runPass (x : Slot) : FlagsOf x msk (fun j => (laneResult (active x msk) draws x.srseed f j).2)
    (x.fflags ||| (runPass (activeLanes (x.maskOf msk)) draws x.srseed f).flags) := by
  intro b _
  rw [BitVec.getLsbD_or, activeLanes_maskOf, runPass_flags]

/-- A pass written: the active lanes take what they come to, fflags their flags, and the generator stands after its last draw. -/
theorem writePass_noted (h : s.runs i = true) : ∃ F, FlagsOf s.me msk (fun j => (laneResult (active s.me msk) draws s.me.srseed f j).2) F ∧
    writePass vd t (runPass (activeLanes (s.me.maskOf msk)) draws s.me.srseed f) (s.noted i) =
      s.retired i { written s.me vd msk fun j => elemLane t (laneResult (active s.me msk) draws s.me.srseed f j).1 with
        fflags := F, srseed := drawn (active s.me msk) draws s.me.srseed 64 } := by
  refine ⟨_, flagsOf_runPass s.me, doneNext_changed h ?_ ?_ ?_⟩
  · rw [Slot.readV_noting, Slot.writeV_noting, written, activeLanes_maskOf, runPass_seed]
    have hlanes : mergeLanes t (s.me.readV vd.toNat) (runPass ((List.range 64).filter (active s.me msk)) draws s.me.srseed f).out =
        ofLanes fun j => if active s.me msk j then elemLane t (laneResult (active s.me msk) draws s.me.srseed f j).1
          else lane (s.me.readV vd.toNat) j := by
      refine ofLanes_congr fun j hj => ?_
      rw [runPass_out]
      by_cases hact : active s.me msk j = true <;> simp [hact, hj]
    rw [hlanes, ← Slot.writeV_fflags s.me vd.toNat]
    rfl
  · exact (Slot.steady_writeV ..).trans (State.runs_steady h)
  · exact Slot.writeV_pc ..

theorem flagsOf_congr {x : Slot} {fl gl : Nat → BitVec 7} {F : BitVec 7} (hfl : ∀ j, active x msk j = true → fl j = gl j)
    (h : FlagsOf x msk fl F) : FlagsOf x msk gl F := by
  intro n hn
  rw [h n hn]
  refine congrArg _ (List.any_congr rfl fun j => ?_)
  by_cases hj : active x msk j = true
  · rw [hfl j hj]
  · rw [Bool.eq_false_of_not_eq_true hj, Bool.false_and, Bool.false_and]

theorem written_congr {x : Slot} {l k : Nat → Lane} (hl : ∀ j, active x msk j = true → l j = k j) :
    written x vd msk l = written x vd msk k := by
  refine congrArg (x.writeV vd.toNat) (ofLanes_congr fun j _ => ?_)
  by_cases hj : active x msk j = true
  · rw [if_pos hj, if_pos hj, hl j hj]
  · rw [if_neg hj, if_neg hj]

/-- An instruction that is one pass: each active lane takes what it comes to, and fflags their flags. -/
theorem exec_pass (r : Nat → Nat × BitVec 7) (h : s.runs i = true)
    (he : exec i s = .next (writePass vd t (runPass (activeLanes (s.me.maskOf msk)) draws s.me.srseed f) (s.noted i)))
    (hr : ∀ j, active s.me msk j = true → laneResult (active s.me msk) draws s.me.srseed f j = r j) :
    ∃ F, FlagsOf s.me msk (fun j => (r j).2) F ∧ exec i s = .next (s.retired i { written s.me vd msk fun j => elemLane t (r j).1 with
      fflags := F, srseed := drawn (active s.me msk) draws s.me.srseed 64 }) := by
  obtain ⟨F, hF, hpass⟩ := writePass_noted (vd := vd) (msk := msk) (t := t) (draws := draws) (f := f) h
  refine ⟨F, flagsOf_congr (fun j hj => congrArg Prod.snd (hr j hj)) hF, ?_⟩
  rw [he, hpass, written_congr fun j hj => congrArg (fun c : Nat × BitVec 7 => elemLane t c.1) (hr j hj)]

/-- An instruction that is one pass without a draw. -/
theorem exec_quietPass (r : Nat → Nat × BitVec 7) (h : s.runs i = true)
    (he : exec i s = .next (writePass vd t (runPass (activeLanes (s.me.maskOf msk)) false s.me.srseed f) (s.noted i)))
    (hr : ∀ j, f j s.me.srseed.toNat = r j) : ∃ F, FlagsOf s.me msk (fun j => (r j).2) F ∧
      exec i s = .next (s.retired i { written s.me vd msk fun j => elemLane t (r j).1 with fflags := F }) := by
  obtain ⟨F, hF, hexec⟩ := exec_pass r h he fun j _ => hr j
  refine ⟨F, hF, hexec.trans ?_⟩
  rw [drawn_false, ← Slot.writeV_srseed s.me vd.toNat]
  rfl

end

/-! ## Lane arithmetic (R171–R176) -/

/-- The second operand of lane `j`: of vb, or the scalar of gs where gs is not 0 (R175). -/
def secondCode (vb : BitVec 4) (gs : BitVec 6) (t : VType) (x : Slot) (j : Nat) : Nat :=
  if gs = 0 then elemCode t (lane (x.readV vb.toNat) j) else elemCode t (x.readG gs.toNat)

/-- Lane `j` of an arithmetic instruction. -/
def laneOf (op : LaneOp) (va vd : BitVec 4) (b : Nat → Nat) (t : VType) (x : Slot) (j rnd : Nat) : Nat × BitVec 7 :=
  op x.mode rnd (elemCode t (lane (x.readV va.toNat) j)) (b j) (elemCode t (lane (x.readV vd.toNat) j))

section
variable {i : Instr} {s : State} {vd va vb : BitVec 4} {msk : BitVec 3} {gs : BitVec 6} {ty : BitVec 3} {draws : Bool}
  {op : VType → LaneOp}

/-- Whether a pass of an instruction that rounds draws (R56). -/
def drawsIn (draws : Bool) (ty : BitVec 3) (x : Slot) : Bool := draws && (vtype ty).narrow && x.mode == .sr

/-- The effect of an arithmetic instruction with its second operand given. -/
def arithDone (i : Instr) (vd va : BitVec 4) (msk : BitVec 3) (ty : BitVec 3) (draws : Bool) (op : VType → LaneOp) (b : Nat → Nat)
    (s : State) : State :=
  writePass vd (vtype ty) (runPass (activeLanes (s.me.maskOf msk)) (drawsIn draws ty s.me) s.me.srseed
    (laneOf (op (vtype ty)) va vd b (vtype ty) s.me)) (s.noted i)

theorem arith_noted (h : s.runs i = true) (b : Nat → Nat) :
    arith vd va msk (vtype ty) draws (op (vtype ty)) b (s.noted i) = arithDone i vd va msk ty draws op b s := by
  unfold arith arithDone
  rw [me_noted h]
  rfl

theorem exec_binary (h : s.runs i = true) (hgs : gs.toNat < 32) (he : exec i s = binary i vd va vb msk gs ty draws op s) :
    exec i s = .next (arithDone i vd va msk ty draws op (secondCode vb gs (vtype ty) s.me) s) := by
  refine exec_of_issue he h ?_
  rw [← arith_noted h]
  by_cases hg : gs = 0
  · rw [if_pos hg, me_noted h]
    exact congrArg (arith vd va msk (vtype ty) draws (op (vtype ty)) · _) (funext fun j => (if_pos hg).symm)
  · rw [if_neg hg, read1_general hgs, me_noted h]
    exact congrArg (arith vd va msk (vtype ty) draws (op (vtype ty)) · _) (funext fun j => (if_neg hg).symm)

theorem exec_unary (h : s.runs i = true) (he : exec i s = unary i vd va msk ty draws op s) :
    exec i s = .next (arithDone i vd va msk ty draws op (fun _ => 0) s) :=
  exec_of_issue he h (arith_noted h _)

end

end Sys2Proof.Machine

end

section

namespace Sys2Proof.Machine
open Claims

/-! ## Lanes of float types, and conversions (R51–R58, R171–R178) -/

theorem vtype_float {ty : BitVec 3} (h : ty.toNat < 3) : vtype ty = .fp (fmtOf ty) := by
  have hall : ∀ ty : BitVec 3, ty.toNat < 3 → vtype ty = .fp (fmtOf ty) := by decide
  exact hall ty h

theorem vtype_int {ty : BitVec 3} (h : 3 ≤ ty.toNat) : vtype ty = .int (intWidth ty) := by
  have hall : ∀ ty : BitVec 3, 3 ≤ ty.toNat → vtype ty = .int (intWidth ty) := by decide
  exact hall ty h

theorem fmtOf_eq_fp32 {ty : BitVec 3} : fmtOf ty = fp32 ↔ ty = 0 := by
  have hall : ∀ ty : BitVec 3, fmtOf ty = fp32 ↔ ty = 0 := by decide
  exact hall ty

theorem noSr_of_ne {m : Mode} (h : m ≠ .sr) : m.noSr = m := if_neg h

theorem noSr_ne_sr (m : Mode) : m.noSr ≠ .sr := by cases m <;> decide

/-! ### Rounding outside SR mode draws nothing -/

theorem roundsUp_draw {m : Mode} (h : m ≠ .sr) (rnd : Nat) : roundsUp m rnd = roundsUp m 0 := by
  cases m with
  | sr => exact absurd rfl h
  | rne | rtz | rdn | rup | rmm => rfl

theorem roundAt_draw {m : Mode} (h : m ≠ .sr) (rnd : Nat) : roundAt m rnd = roundAt m 0 := by
  funext neg num den q
  rw [roundAt, roundsUp_draw h rnd]
  rfl

theorem roundTo_draw {m : Mode} (h : m ≠ .sr) (rnd : Nat) (f : Fmt) (sat : Bool) (x : Val) : roundTo f m sat rnd x = roundTo f m sat 0 x := by
  unfold roundTo
  rw [roundAt_draw h rnd]

/-- The mode in which a result of a format is rounded: SR is RNE for FP32 (R51). -/
def modeFor (f : Fmt) (m : Mode) : Mode := if f = fp32 then m.noSr else m

theorem modeFor_of_ne {f : Fmt} {m : Mode} (h : m ≠ .sr) : modeFor f m = m := by
  rw [modeFor, noSr_of_ne h, ite_self]

section
variable {i : Instr} {s : State} {vd va vb : BitVec 4} {msk : BitVec 3} {gs : BitVec 6} {ty : BitVec 3}

theorem drawsIn_of_ne {draws : Bool} {x : Slot} (h : x.mode ≠ .sr) : drawsIn draws ty x = false := by
  rw [drawsIn, beq_false_of_ne h, Bool.and_false]

/-- The exact result of lane `j` of an instruction that rounds. -/
def exactLane (g : Mode → Val → Val → Val → Val × BitVec 7) (va vb vd : BitVec 4) (gs : BitVec 6) (ty : BitVec 3) (x : Slot) (m : Mode)
    (j : Nat) : Val × BitVec 7 :=
  let c := fun (l : Lane) => decodeFp (fmtOf ty) (l.toNat % 2 ^ (fmtOf ty).width)
  g m (c (lane (x.readV va.toNat) j)) (decodeFp (fmtOf ty) (secondCode vb gs (.fp (fmtOf ty)) x j)) (c (lane (x.readV vd.toNat) j))

/-- An instruction that rounds is one pass over its lanes, the exact result of each rounded once. -/
theorem exec_roundOp {g : Mode → Val → Val → Val → Val × BitVec 7} (hi : (i, g) ∈ roundOps vd va vb msk gs ty) (h : s.runs i = true)
    (hty : ty.toNat < 3) (hgs : gs.toNat < 32) :
    exec i s = .next (writePass vd (.fp (fmtOf ty)) (runPass (activeLanes (s.me.maskOf msk)) (drawsIn true ty s.me) s.me.srseed
      fun j rnd => rounded (fmtOf ty) (modeFor (fmtOf ty) s.me.mode) rnd
        (exactLane g va vb vd gs ty s.me (modeFor (fmtOf ty) s.me.mode) j)) (s.noted i)) := by
  rw [← vtype_float hty]
  simp only [roundOps, List.mem_cons, Prod.mk.injEq, List.not_mem_nil, or_false] at hi
  obtain ⟨rfl, rfl⟩ | ⟨rfl, rfl⟩ | ⟨rfl, rfl⟩ | ⟨rfl, rfl⟩ | ⟨rfl, rfl⟩ | ⟨rfl, rfl⟩ | ⟨rfl, rfl⟩ | ⟨rfl, rfl⟩ := hi
  · rw [exec_binary (op := vaddOp) h hgs rfl, arithDone, vtype_float hty]; rfl
  · rw [exec_binary (op := vsubOp) h hgs rfl, arithDone, vtype_float hty]; rfl
  · rw [exec_binary (op := vmulOp) h hgs rfl, arithDone, vtype_float hty]; rfl
  · rw [exec_binary (op := vdivOp) h hgs rfl, arithDone, vtype_float hty]; rfl
  · rw [exec_binary (op := vfmaOp) h hgs rfl, arithDone, vtype_float hty]; rfl
  · rw [exec_binary (op := vfmsOp) h hgs rfl, arithDone, vtype_float hty]; rfl
  · rw [exec_unary (op := vsqrtOp) h rfl, arithDone, vtype_float hty]; rfl
  · rw [exec_unary (op := vexp2Op) h rfl, arithDone, vtype_float hty]; rfl

/-- The code with its sign inverted. -/
theorem negCode_eq {f : Fmt} {a : Nat} (ha : a < 2 ^ f.width) : negCode f a = (a + f.signBit) % 2 ^ f.width := by
  have hsign : a / f.signBit < 2 := by
    rw [Fmt.signBit, Nat.div_lt_iff_lt_mul (Nat.two_pow_pos _), ← pow_succ']
    exact ha.trans_eq (by rw [Fmt.width]; ring_nf)
  have htop : 2 ^ f.width = 2 * f.signBit := by rw [Fmt.width, Fmt.signBit, ← pow_succ']; ring_nf
  have hpos : 0 < f.signBit := Nat.two_pow_pos _
  have hdiv := Nat.div_add_mod a f.signBit
  have hmod := Nat.mod_lt a hpos
  rw [htop] at ha ⊢
  rw [negCode, Nat.mod_eq_of_lt hsign]
  generalize a / f.signBit = d at hsign hdiv ⊢
  obtain rfl | rfl : d = 0 ∨ d = 1 := by omega
  · rw [Nat.mul_zero] at hdiv
    rw [if_neg (by omega), Nat.mod_eq_of_lt (by omega)]
  · rw [Nat.mul_one] at hdiv
    rw [if_pos rfl, Nat.mod_eq_sub_mod (by omega), Nat.mod_eq_of_lt (by omega)]
    omega

/-- An instruction that does not round is one pass over its lanes, the code of each from its operands' codes. -/
theorem exec_codeOp {g : Fmt → Nat → Nat → Nat × BitVec 7} (hi : (i, g) ∈ codeOps vd va vb msk gs ty) (h : s.runs i = true)
    (hty : ty.toNat < 3) (hgs : gs.toNat < 32) :
    exec i s = .next (writePass vd (.fp (fmtOf ty)) (runPass (activeLanes (s.me.maskOf msk)) false s.me.srseed
      fun j _ => g (fmtOf ty) ((lane (s.me.readV va.toNat) j).toNat % 2 ^ (fmtOf ty).width)
        (secondCode vb gs (.fp (fmtOf ty)) s.me j)) (s.noted i)) := by
  simp only [codeOps, List.mem_cons, Prod.mk.injEq, List.not_mem_nil, or_false] at hi
  obtain ⟨rfl, rfl⟩ | ⟨rfl, rfl⟩ | ⟨rfl, rfl⟩ | ⟨rfl, rfl⟩ := hi
  · rw [exec_binary (op := vminOp) h hgs rfl, arithDone, vtype_float hty]
    refine congrArg (fun f => Host.Outcome.next (writePass vd _ (runPass _ false _ f) _)) (funext fun j => funext fun _ => ?_)
    rw [laneOf, vminOp, codeOp, pick]
    simp only [beq_false, Bool.not_eq_true', decide_eq_false_iff_not, ite_not]
    rfl
  · rw [exec_binary (op := vmaxOp) h hgs rfl, arithDone, vtype_float hty]
    refine congrArg (fun f => Host.Outcome.next (writePass vd _ (runPass _ false _ f) _)) (funext fun j => funext fun _ => ?_)
    rw [laneOf, vmaxOp, codeOp, pick]
    simp only [beq_true, decide_eq_true_eq]
    rfl
  · rw [exec_unary (op := vabsOp) h rfl, arithDone, vtype_float hty]; rfl
  · rw [exec_unary (op := vnegOp) h rfl, arithDone, vtype_float hty]
    refine congrArg (fun f => Host.Outcome.next (writePass vd _ (runPass _ false _ f) _)) (funext fun j => funext fun _ => ?_)
    exact Prod.ext (negCode_eq (Nat.mod_lt _ (Nat.two_pow_pos _))) rfl

end

theorem floatLanes : FloatLanes := by
  intro vd va vb msk gs ty i s hty hgs h f code a b d mode
  refine ⟨fun g hi hmode => ?_, fun g hi => ?_, fun g hi hsr hne => ?_⟩
  · have he := exec_roundOp hi h hty hgs
    rw [drawsIn_of_ne hmode, modeFor_of_ne (m := s.me.mode) hmode] at he
    intro exact_ r
    refine exec_quietPass (t := .fp (fmtOf ty)) (fun j => ((r j).1, (r j).2 ||| (exact_ j).2)) h he fun j => ?_
    show rounded f mode _ (exact_ j) = _
    rw [rounded, roundTo_draw hmode]
  · exact exec_quietPass (t := .fp (fmtOf ty)) (fun j => g f (a j) (b j)) h (exec_codeOp hi h hty hgs) fun j => rfl
  · have hnarrow : fmtOf ty ≠ fp32 := fun h => hne (fmtOf_eq_fp32.1 h)
    have hmode : s.me.mode = .sr := hsr
    have hdraws : drawsIn true ty s.me = true := by
      simp [drawsIn, vtype_float hty, VType.narrow, hmode, hnarrow]
    have he := exec_roundOp hi h hty hgs
    rw [hdraws, modeFor, if_neg hnarrow, hmode] at he
    intro draws before exact_ r
    have hlane (j : Nat) (hj : active s.me msk j = true) : laneResult (active s.me msk) true s.me.srseed
        (fun j rnd => rounded (fmtOf ty) .sr rnd (exactLane g va vb vd gs ty s.me .sr j)) j = ((r j).1, (r j).2 ||| (exact_ j).2) := by
      rw [laneResult, drawn_succ, hj, Bool.true_and, if_pos rfl, drawn_true]
      rfl
    have hpass := exec_pass (t := .fp (fmtOf ty)) (fun j => ((r j).1, (r j).2 ||| (exact_ j).2)) h he hlane
    rw [drawn_true] at hpass
    exact hpass

/-! ### Conversions (R53, R178) -/

section
variable {s : State} {vd va : BitVec 4} {msk st ty : BitVec 3} {sat : BitVec 1} {mode : Mode} {w : Nat}

/-- A conversion is one pass over its lanes. -/
theorem exec_vcvt (h : s.runs (.vcvt vd va msk sat st ty) = true) : exec (.vcvt vd va msk sat st ty) s =
    .next (writePass vd (vtype ty) (runPass (activeLanes (s.me.maskOf msk)) (drawsIn true ty s.me) s.me.srseed fun j rnd =>
      convert (vtype ty) (vtype st) (sat == 1#1) s.me.mode rnd (elemCode (vtype st) (lane (s.me.readV va.toNat) j)))
      (s.noted (.vcvt vd va msk sat st ty))) := by
  refine exec_of_issue rfl h ?_
  rw [me_noted h]
  rfl

theorem drawsIn_int {draws : Bool} {x : Slot} (hty : 3 ≤ ty.toNat) : drawsIn draws ty x = false := by
  rw [drawsIn, vtype_int hty, VType.narrow, Bool.and_false, Bool.false_and]

theorem ofNat_elemCode {n : Nat} (x : BitVec n) : BitVec.ofNat w (elemCode (.int w) x) = x.setWidth w := by
  apply BitVec.eq_of_toNat_eq
  rw [BitVec.toNat_ofNat, BitVec.toNat_setWidth, elemCode, VType.width, Nat.mod_mod]

theorem codeInt_elemCode {n : Nat} (x : BitVec n) : codeInt w (elemCode (.int w) x) = (x.setWidth w).toInt := by
  rw [codeInt, ofNat_elemCode]

theorem ofNat_intCode (v : Int) : BitVec.ofNat w (intCode w v) = .ofInt w v := by
  rw [intCode, BitVec.ofNat_toNat, BitVec.setWidth_eq]

/-- A lane of an integer type is the sign extension of its element (R171). -/
theorem elemLane_int (c : Nat) : elemLane (.int w) c = (BitVec.ofNat w c).signExtend 32 := rfl

/-- What R53 makes of an integer at a width of `w` bits, clamped where `cut`. -/
theorem narrowInt_eq (cut : Bool) (v : Int) : narrowInt w cut v =
    (intCode w (if cut then max (-(2 ^ (w - 1) - 1) - 1) (min (2 ^ (w - 1) - 1) v) else v),
      if (if cut then max (-(2 ^ (w - 1) - 1) - 1) (min (2 ^ (w - 1) - 1) v) else v) = v then 0 else flagSat) := by
  have hlow : (-(2 ^ (w - 1)) : Int) = -(2 ^ (w - 1) - 1) - 1 := by ring
  cases cut with
  | false => simp [narrowInt]
  | true =>
    rw [narrowInt, hlow]
    simp only [if_true, flagIf, bne_iff_ne, ne_eq, ite_not]

/-- A copy of the same float type keeps a code unless it is a signalling NaN. -/
theorem convert_copy (f : Fmt) (sat : Bool) (rnd a : Nat) : convert (.fp f) (.fp f) sat mode rnd a =
    (if !(decodeFp f a).sNan then a else f.nanCode, if !(decodeFp f a).sNan then 0 else flagNv) := by
  rw [convert, if_pos rfl]
  cases (decodeFp f a).sNan <;> rfl

/-- A conversion to another float type outside SR mode. -/
theorem convert_float {f g : Fmt} (hne : f ≠ g) (hmode : mode ≠ .sr) (sat : Bool) (rnd a : Nat) :
    convert (.fp f) (.fp g) sat mode rnd a =
      ((roundTo f mode (sat && f != fp32) 0 (decodeFp g a)).1,
        (roundTo f mode (sat && f != fp32) 0 (decodeFp g a)).2 ||| if (decodeFp g a).sNan then flagNv else 0) := by
  rw [convert, if_neg hne, noSr_of_ne hmode, ite_self, roundTo_draw hmode]
  rfl

theorem fmtOf_injective (hst : st.toNat < 3) (hty : ty.toNat < 3) (hne : ty ≠ st) : fmtOf ty ≠ fmtOf st := by
  have hall : ∀ a b : BitVec 3, a.toNat < 3 → b.toNat < 3 → b ≠ a → fmtOf b ≠ fmtOf a := by decide
  exact hall st ty hst hty hne

end

theorem conversions : Conversions := by
  intro vd va msk sat st ty s h hst hty i mode src
  have he := exec_vcvt h
  refine ⟨fun hs hd => ?_, fun hs hd hmode => ?_, fun hs hd => ?_, fun hs hd => ?_, fun hs hd hne hmode => ?_⟩
  · intro v hi cut
    rw [drawsIn_int hd, vtype_int hd, vtype_int hs] at he
    obtain ⟨F, hF, hexec⟩ := exec_quietPass (fun j => (intCode (intWidth ty) (cut j), if cut j = v j then 0 else flagSat)) h he fun j => by
      rw [convert, codeInt_elemCode, narrowInt_eq]
      simp only [Bool.and_eq_true, beq_iff_eq, decide_eq_true_eq]
      rfl
    refine ⟨F, hF, hexec.trans ?_⟩
    simp only [elemLane_int, ofNat_intCode]
    rfl
  · intro v r
    rw [drawsIn_of_ne hmode, vtype_float hd, vtype_int hs] at he
    exact exec_quietPass (t := .fp (fmtOf ty)) r h he fun j => by
      rw [convert, codeInt_elemCode]
      exact (congrArg (roundTo (fmtOf ty) · false _ _) (modeFor_of_ne hmode)).trans (roundTo_draw hmode ..)
  · intro x
    rw [drawsIn_int hd, vtype_int hd, vtype_float hs] at he
    obtain ⟨F, hF, hexec⟩ := exec_quietPass (fun j => toIntW (intWidth ty) mode.noSr (x j)) h he fun j => rfl
    exact ⟨F, _, hF, hexec, fun j => ⟨rfl, fun q hq => by rw [hq]; rfl⟩⟩
  · intro a quiet
    subst hd
    rw [vtype_float hs] at he
    obtain ⟨F, hF, hexec⟩ := exec_pass (fun j => (if quiet j then a j else (fmtOf ty).nanCode, if quiet j then 0 else flagNv)) h he
      fun j _ => convert_copy ..
    refine ⟨F, hF, fun hmode => hexec.trans ?_⟩
    have hdraws : drawsIn true ty s.me = false := by
      obtain hmode | rfl := hmode
      · exact drawsIn_of_ne hmode
      · rfl
    rw [hdraws, drawn_false, ← Slot.writeV_srseed s.me vd.toNat]
    rfl
  · intro x r
    rw [drawsIn_of_ne hmode, vtype_float hd, vtype_float hs] at he
    exact exec_quietPass (t := .fp (fmtOf ty)) (fun j => ((r j).1, (r j).2 ||| if (x j).sNan then flagNv else 0)) h he fun j => by
      have hnarrow : (fmtOf ty != fp32) = (ty != 0) := by simp only [bne, Bool.beq_eq_decide_eq, fmtOf_eq_fp32]
      rw [convert_float (mode := s.me.mode) (fmtOf_injective hs hd hne) hmode, hnarrow]
      rfl

/-- Settles O50: an instruction on lanes is one pass, each lane's exact result rounded once. -/
theorem floatLanesAndConversions : Obligations.FloatLanesAndConversions := ⟨floatLanes, conversions⟩

end Sys2Proof.Machine

end

section

namespace Sys2Proof.Machine
open Claims

/-! ## Reductions (R63, R185) -/

/-! ### The tree over a register's lanes -/

theorem pairUp_range {α : Type} (join : α → α → α) (m : Nat) (leaf : Nat → α) :
    pairUp join ((List.range (2 * m)).map leaf) = (List.range m).map fun i => join (leaf (2 * i)) (leaf (2 * i + 1)) := by
  induction m generalizing leaf with
  | zero => rfl
  | succ m ih =>
    have hstep := ih fun i => leaf (i + 2)
    rw [show 2 * (m + 1) = 2 * m + 1 + 1 by ring, List.range_succ_eq_map, List.range_succ_eq_map, List.range_succ_eq_map]
    simp only [List.map_cons, List.map_map, pairUp, Function.comp_def] at hstep ⊢
    rw [hstep]
    rfl

/-- Nodes combined in pairs, level by level, where a node of a level is its two children joined. -/
theorem treeLevels_node {α : Type} {join : α → α → α} {node : Nat → Nat → α}
    (hnode : ∀ k i, node (k + 1) i = join (node k i) (node k (i + 2 ^ k))) (n m k : Nat) :
    treeLevels join n ((List.range (2 ^ n * m)).map fun i => node k (2 ^ k * i)) =
      (List.range m).map fun i => node (k + n) (2 ^ (k + n) * i) := by
  induction n generalizing k with
  | zero => rw [pow_zero, one_mul]; rfl
  | succ n ih =>
    rw [treeLevels, pow_succ', mul_assoc, pairUp_range, ← Nat.add_assoc, Nat.add_right_comm, ← ih]
    refine congrArg _ (List.map_congr_left fun i _ => ?_)
    rw [hnode]
    ring_nf

/-- The steps of a tree with their flags. -/
def joinOf (op : Nat → Nat → Nat × BitVec 7) (a b : Nat × BitVec 7) : Nat × BitVec 7 := ((op a.1 b.1).1, (op a.1 b.1).2 ||| a.2 ||| b.2)

theorem treeLevels_tree (op : Nat → Nat → Nat × BitVec 7) (leaf : Nat → Nat) :
    treeLevels (joinOf op) 6 (((List.range 64).map leaf).map fun c => (c, 0)) = [tree op leaf 6 0] := by
  have h := treeLevels_node (join := joinOf op) (node := tree op leaf) (fun _ _ => rfl) 6 1 0
  rw [List.map_map]
  simpa [tree, Function.comp_def] using h

/-- A step of a reduction on codes. -/
def reduceOp (op : VType → LaneOp) (t : VType) (m : Mode) (a b : Nat) : Nat × BitVec 7 := op t m.noSr 0 a b 0

theorem reduceTree_eq (op : VType → LaneOp) (t : VType) (m : Mode) (leaf : Nat → Nat) (scalar : Option Nat) :
    reduceTree op t m ((List.range 64).map leaf) scalar = match scalar with
      | none => tree (reduceOp op t m) leaf 6 0
      | some c => joinOf (reduceOp op t m) (tree (reduceOp op t m) leaf 6 0) (c, 0) := by
  have htree : treeLevels (reduceStep op t m) 6 (((List.range 64).map leaf).map fun c => (c, 0)) = [tree (reduceOp op t m) leaf 6 0] :=
    treeLevels_tree (reduceOp op t m) leaf
  unfold reduceTree
  rw [htree]
  cases scalar <;> rfl

/-! ### The instruction -/

section
variable {i : Instr} {s : State} {vd va : BitVec 4} {msk : BitVec 3} {gs : BitVec 6} {ty : BitVec 3} {op : VType → LaneOp}
  {absent : VType → Nat}

/-- What lane `j` contributes. -/
def leafOf (va : BitVec 4) (msk : BitVec 3) (absent : Nat) (t : VType) (x : Slot) (j : Nat) : Nat :=
  if active x msk j then elemCode t (lane (x.readV va.toNat) j) else absent

/-- What a reduction comes to, with the scalar as one further step. -/
def reduced (op : Nat → Nat → Nat × BitVec 7) (leaf : Nat → Nat) (gs : BitVec 6) (scalar : Nat) : Nat × BitVec 7 :=
  if gs = 0 then tree op leaf 6 0 else joinOf op (tree op leaf 6 0) (scalar, 0)

/-- A register with lane 0 replaced. -/
def zeroth (x : Slot) (vd : BitVec 4) (l : Lane) : Slot :=
  x.writeV vd.toNat (ofLanes fun j => if j = 0 then l else lane (x.readV vd.toNat) j)

/-- A reduction writes what its tree comes to into lane 0 and raises the flags of its steps. -/
theorem exec_reduction (h : s.runs i = true) (hgs : gs.toNat < 32) (he : exec i s = reduction i vd va msk gs ty op absent s)
    {r : Nat × BitVec 7} (hr : reduced (reduceOp op (vtype ty) s.me.mode) (leafOf va msk (absent (vtype ty)) (vtype ty) s.me) gs
      (elemCode (vtype ty) (s.me.readG gs.toNat)) = r) :
    exec i s = .next (s.retired i { zeroth s.me vd (elemLane (vtype ty) r.1) with fflags := s.me.fflags ||| r.2 }) := by
  have hleaves : ((List.range 64).map fun j => if bitAt ((s.me.noting i).maskOf msk) j
      then elemCode (vtype ty) (lane ((s.me.noting i).readV va.toNat) j) else absent (vtype ty)) =
      (List.range 64).map (leafOf va msk (absent (vtype ty)) (vtype ty) s.me) :=
    List.map_congr_left fun j hj => if_congr (by rw [bitAt_maskOf _ _ (List.mem_range.1 hj)]; rfl) rfl rfl
  have hwrite : doneNext ((s.noted i).modMe fun x =>
      (x.writeV vd.toNat (setLane (x.readV vd.toNat) 0 (elemLane (vtype ty) r.1))).raise r.2) =
        s.retired i { zeroth s.me vd (elemLane (vtype ty) r.1) with fflags := s.me.fflags ||| r.2 } := by
    refine doneNext_changed h ?_ ((Slot.steady_writeV ..).trans (State.runs_steady h)) (Slot.writeV_pc ..)
    rw [Slot.readV_noting, Slot.writeV_noting, ← Slot.writeV_fflags s.me vd.toNat]
    rfl
  refine exec_of_issue he h ?_
  rw [reduced] at hr
  by_cases hg : gs = 0
  · rw [if_pos hg] at hr
    have htree : reduceTree op (vtype ty) (s.me.noting i).mode
        ((List.range 64).map (leafOf va msk (absent (vtype ty)) (vtype ty) s.me)) none = r := (reduceTree_eq ..).trans hr
    simp only [if_pos hg, me_noted h, hleaves, htree]
    exact hwrite
  · rw [if_neg hg] at hr
    have htree : reduceTree op (vtype ty) (s.me.noting i).mode
        ((List.range 64).map (leafOf va msk (absent (vtype ty)) (vtype ty) s.me)) (some (elemCode (vtype ty) (s.me.readG gs.toNat))) = r :=
      (reduceTree_eq ..).trans hr
    simp only [if_neg hg, read1_general hgs, Slot.readG_noting, me_noted h, hleaves, htree]
    exact hwrite

end

/-! ### Trees of an associative operation on integers -/

section
variable {α : Type} {op : Nat → Nat → Nat × BitVec 7} {leaf : Nat → Nat} {val : Nat → α} {join : α → α → α} {w : Nat}

theorem tree_flags (hop : ∀ a b, (op a b).2 = 0) (n i : Nat) : (tree op leaf n i).2 = 0 := by
  induction n generalizing i with
  | zero => rfl
  | succ n ih => rw [tree, ih, ih, hop]; rfl

theorem reduced_flags (hop : ∀ a b, (op a b).2 = 0) (gs : BitVec 6) (c : Nat) : (reduced op leaf gs c).2 = 0 := by
  unfold reduced
  split
  · exact tree_flags hop 6 0
  · simp [joinOf, tree_flags hop, hop]

/-- A tree of an associative operation is its leaves combined one after the other. -/
theorem join_tree (hassoc : ∀ x y z, join (join x y) z = join x (join y z)) (hval : ∀ a b, val (op a b).1 = join (val a) (val b))
    (n i : Nat) (a : α) : join a (val (tree op leaf n i).1) = (List.range' i (2 ^ n)).foldl (fun acc j => join acc (val (leaf j))) a := by
  induction n generalizing i a with
  | zero => rfl
  | succ n ih =>
    rw [tree, hval, ← hassoc, ih, ih, ← List.foldl_append, List.range'_append_1, pow_succ, mul_two]

theorem val_reduced {gs : BitVec 6} {c : Nat} (hval : ∀ a b, val (op a b).1 = join (val a) (val b)) :
    val (reduced op leaf gs c).1 = if gs = 0 then val (tree op leaf 6 0).1 else join (val (tree op leaf 6 0).1) (val c) := by
  unfold reduced
  split
  · rfl
  · exact hval ..

theorem ofInt_codeInt (c : Nat) : BitVec.ofInt w (codeInt w c) = .ofNat w c := BitVec.ofInt_toInt ..

theorem codeInt_intCode_max (a b : Nat) : codeInt w (intCode w (max (codeInt w a) (codeInt w b))) = max (codeInt w a) (codeInt w b) := by
  rcases max_choice (codeInt w a) (codeInt w b) with h | h <;> rw [h, codeInt, ofNat_intCode, ofInt_codeInt] <;> rfl

theorem codeInt_intCode_min (a b : Nat) : codeInt w (intCode w (min (codeInt w a) (codeInt w b))) = min (codeInt w a) (codeInt w b) := by
  rcases min_choice (codeInt w a) (codeInt w b) with h | h <;> rw [h, codeInt, ofNat_intCode, ofInt_codeInt] <;> rfl

theorem ofNat_intCode_add (a b : Nat) : BitVec.ofNat w (intCode w (codeInt w a + codeInt w b)) = .ofNat w a + .ofNat w b := by
  rw [ofNat_intCode, BitVec.ofInt_add, ofInt_codeInt, ofInt_codeInt]

theorem ofInt_sum (v : Nat → Int) (n : Nat) : BitVec.ofInt w (∑ j ∈ Finset.range n, v j) =
    (List.range n).foldl (fun acc j => acc + BitVec.ofInt w (v j)) 0 := by
  induction n with
  | zero => rfl
  | succ n ih => rw [Finset.sum_range_succ, BitVec.ofInt_add, ih, List.range_succ, List.foldl_append]; rfl

end

section
variable {i : Instr} {s : State} {vd va : BitVec 4} {msk : BitVec 3} {gs : BitVec 6} {ty : BitVec 3} {op : VType → LaneOp}
  {absent : VType → Nat}

/-- The codes that an integer reduction combines. -/
abbrev intReduced (op : VType → LaneOp) (va : BitVec 4) (msk : BitVec 3) (absent : Nat) (gs : BitVec 6) (w : Nat) (x : Slot) : Nat :=
  (reduced (reduceOp op (.int w) x.mode) (leafOf va msk absent (.int w) x) gs (elemCode (.int w) (x.readG gs.toNat))).1

/-- A reduction of integers, whose steps raise no flag. -/
theorem exec_intReduction (h : s.runs i = true) (hgs : gs.toNat < 32) (hty : 3 ≤ ty.toNat)
    (he : exec i s = reduction i vd va msk gs ty op absent s) (hop : ∀ w a b, (reduceOp op (.int w) s.me.mode a b).2 = 0)
    {x : BitVec (intWidth ty)}
    (hx : .ofNat (intWidth ty) (intReduced op va msk (absent (.int (intWidth ty))) gs (intWidth ty) s.me) = x) :
    exec i s = .next (s.retired i (zeroth s.me vd (x.signExtend 32))) := by
  have hflags : s.me.fflags ||| (0 : BitVec 7) = (zeroth s.me vd (x.signExtend 32)).fflags :=
    (BitVec.or_zero ..).trans (Slot.writeV_fflags ..).symm
  have hexec := exec_reduction h hgs he rfl
  rw [vtype_int hty, reduced_flags (hop _), elemLane_int, hx, hflags] at hexec
  exact hexec

theorem codeInt_leafOf {w absent j : Nat} (x : Slot) : codeInt w (leafOf va msk absent (.int w) x j) =
    if active x msk j then ((lane (x.readV va.toNat) j).setWidth w).toInt else codeInt w absent := by
  rw [leafOf, apply_ite (codeInt w), codeInt_elemCode]

/-- What an inactive lane contributes to a sum, a maximum and a minimum (R185). -/
def absentSum : VType → Nat
  | .fp f => f.signBit
  | .int _ => 0

def absentMax : VType → Nat
  | .fp f => f.signBit + f.infCode
  | .int w => 2 ^ (w - 1)

def absentMin : VType → Nat
  | .fp f => f.infCode
  | .int w => 2 ^ (w - 1) - 1

theorem exec_vredsum : exec (.vredsum vd va msk gs ty) s = reduction (.vredsum vd va msk gs ty) vd va msk gs ty vaddOp absentSum s := rfl
theorem exec_vredmax : exec (.vredmax vd va msk gs ty) s = reduction (.vredmax vd va msk gs ty) vd va msk gs ty vmaxOp absentMax s := rfl
theorem exec_vredmin : exec (.vredmin vd va msk gs ty) s = reduction (.vredmin vd va msk gs ty) vd va msk gs ty vminOp absentMin s := rfl

theorem exec_vredsum_int (hty : 3 ≤ ty.toNat) (hgs : gs.toNat < 32) (h : s.runs (.vredsum vd va msk gs ty) = true) :
    exec (.vredsum vd va msk gs ty) s = .next (s.retired (.vredsum vd va msk gs ty) (zeroth s.me vd
      ((BitVec.ofInt (intWidth ty) (if gs = 0 then ∑ j ∈ Finset.range 64, if active s.me msk j
          then ((lane (s.me.readV va.toNat) j).setWidth (intWidth ty)).toInt else 0
        else (∑ j ∈ Finset.range 64, if active s.me msk j then ((lane (s.me.readV va.toNat) j).setWidth (intWidth ty)).toInt else 0) +
          ((s.me.readG gs.toNat).setWidth (intWidth ty)).toInt)).signExtend 32))) := by
  refine exec_intReduction h hgs hty exec_vredsum (fun _ _ _ => rfl) ?_
  have hval : ∀ a b, BitVec.ofNat (intWidth ty) (reduceOp vaddOp (.int (intWidth ty)) s.me.mode a b).1 = .ofNat _ a + .ofNat _ b :=
    ofNat_intCode_add
  have htree := (BitVec.zero_add _).symm.trans
    (join_tree (leaf := leafOf va msk 0 (.int (intWidth ty)) s.me) BitVec.add_assoc hval 6 0 0)
  have hleaf (j : Nat) : BitVec.ofNat (intWidth ty) (leafOf va msk 0 (.int (intWidth ty)) s.me j) = .ofInt (intWidth ty)
      (if active s.me msk j then ((lane (s.me.readV va.toNat) j).setWidth (intWidth ty)).toInt else 0) := by
    rw [← ofInt_codeInt, codeInt_leafOf]
    simp [codeInt]
  rw [show List.range' 0 (2 ^ 6) = List.range 64 from (List.range_eq_range' ..).symm] at htree
  simp only [hleaf] at htree
  rw [absentSum, intReduced, val_reduced hval, htree, ← ofInt_sum, ofNat_elemCode, apply_ite (BitVec.ofInt (intWidth ty)), BitVec.ofInt_add, BitVec.ofInt_toInt]

/-- A reduction to the greatest or the least. -/
theorem ofNat_intReduced {w : Nat} {x : Slot} {join : Int → Int → Int} {a : Nat} {e : Int}
    (hval : ∀ a b, codeInt w (reduceOp op (.int w) x.mode a b).1 = join (codeInt w a) (codeInt w b))
    (hassoc : ∀ p q r, join (join p q) r = join p (join q r)) (ha : codeInt w a = e) (he : ∀ c, join e (codeInt w c) = codeInt w c) :
    BitVec.ofNat w (intReduced op va msk a gs w x) = .ofInt w (if gs = 0 then (List.range 64).foldl
        (fun acc j => join acc (if active x msk j then ((lane (x.readV va.toNat) j).setWidth w).toInt else e)) e
      else join ((List.range 64).foldl (fun acc j => join acc (if active x msk j then ((lane (x.readV va.toNat) j).setWidth w).toInt else e)) e)
        ((x.readG gs.toNat).setWidth w).toInt) := by
  have htree := join_tree (leaf := leafOf va msk a (.int w) x) hassoc hval 6 0 e
  rw [show List.range' 0 (2 ^ 6) = List.range 64 from (List.range_eq_range' ..).symm] at htree
  simp only [codeInt_leafOf, ha, he] at htree
  rw [← ofInt_codeInt, intReduced, val_reduced hval, htree, codeInt_elemCode]

theorem codeInt_ends (ty : BitVec 3) : codeInt (intWidth ty) (2 ^ (intWidth ty - 1)) = -(2 ^ (intWidth ty - 1)) ∧
    codeInt (intWidth ty) (2 ^ (intWidth ty - 1) - 1) = 2 ^ (intWidth ty - 1) - 1 := by
  have hall : ∀ ty : BitVec 3, codeInt (intWidth ty) (2 ^ (intWidth ty - 1)) = -(2 ^ (intWidth ty - 1)) ∧
    codeInt (intWidth ty) (2 ^ (intWidth ty - 1) - 1) = 2 ^ (intWidth ty - 1) - 1 := by decide
  exact hall ty

end

/-! ### Reductions of floats -/

section
variable {i : Instr} {s : State} {vd va : BitVec 4} {msk : BitVec 3} {gs : BitVec 6} {ty : BitVec 3}

theorem noSr_noSr (m : Mode) : m.noSr.noSr = m.noSr := noSr_of_ne (noSr_ne_sr m)

/-- A reduction of floats is one of the instructions of a tree, with its step and what an inactive lane contributes. -/
theorem exec_floatReduction {absent : Nat} {op : Nat → Nat → Nat × BitVec 7}
    (hi : (i, absent, op) ∈ floatReductions vd va msk gs ty s.me.mode) : ∃ lop none, exec i s = reduction i vd va msk gs ty lop none s ∧
      none (.fp (fmtOf ty)) = absent ∧ reduceOp lop (.fp (fmtOf ty)) s.me.mode = op := by
  simp only [floatReductions, List.mem_cons, Prod.mk.injEq, List.not_mem_nil, or_false] at hi
  obtain ⟨rfl, rfl, rfl⟩ | ⟨rfl, rfl, rfl⟩ | ⟨rfl, rfl, rfl⟩ := hi
  · refine ⟨_, _, exec_vredsum, rfl, funext fun a => funext fun b => ?_⟩
    rw [reduceOp, vaddOp, roundOp]
    simp only [noSr_noSr, ite_self]
    rfl
  · refine ⟨_, _, exec_vredmax, rfl, funext fun a => funext fun b => ?_⟩
    rw [reduceOp, vmaxOp, codeOp, pick]
    simp only [beq_true, decide_eq_true_eq, decide_eq_false_iff_not, ite_not]
    rfl
  · refine ⟨_, _, exec_vredmin, rfl, funext fun a => funext fun b => ?_⟩
    rw [reduceOp, vminOp, codeOp, pick]
    simp only [beq_false, Bool.not_eq_true', decide_eq_true_eq, decide_eq_false_iff_not, ite_not]
    rfl

end

/-- Settles O17: the tree over the lanes, which on integers is their sum or extreme in any order. -/
theorem reductions : Obligations.Reductions := by
  intro vd va msk gs ty s hty hgs w v scalar zeroth low high with_
  refine ⟨fun hint => ⟨fun h => ?_, fun h => ?_, fun h => ?_⟩, fun hfp i absent op hi h => ?_⟩
  · exact exec_vredsum_int hint hgs h
  · exact exec_intReduction h hgs hint exec_vredmax (fun _ _ _ => rfl)
      (ofNat_intReduced codeInt_intCode_max max_assoc (codeInt_ends ty).1 fun c => max_eq_right (BitVec.le_toInt _))
  · exact exec_intReduction h hgs hint exec_vredmin (fun _ _ _ => rfl)
      (ofNat_intReduced codeInt_intCode_min min_assoc (codeInt_ends ty).2 fun c => min_eq_right (Int.le_sub_one_of_lt (BitVec.toInt_lt)))
  · intro code all last r
    obtain ⟨lop, none, he, rfl, rfl⟩ := exec_floatReduction hi
    have hr : reduced (reduceOp lop (.fp (fmtOf ty)) s.me.mode) (leafOf va msk (none (.fp (fmtOf ty))) (.fp (fmtOf ty)) s.me) gs
        (elemCode (.fp (fmtOf ty)) (s.me.readG gs.toNat)) = r := by
      refine if_congr Iff.rfl rfl (Prod.ext rfl ?_)
      exact BitVec.or_zero ..
    rw [← vtype_float hfp] at hr
    have hexec := exec_reduction h hgs he hr
    rw [vtype_float hfp] at hexec
    exact hexec

end Sys2Proof.Machine

end

section

namespace Sys2Proof.Machine
open Claims

/-! ## A row is drained with a reservation

Obligation O18 lets a slot in its drain handler hold any reservation and says that no byte outside the row changes. A slot that holds
a global granule gives it up as it goes back to wait at its te.mma (R158, R209), and the amo that waits for the granule is
performed. -/

/-- The command whose rows slot 1 drains: 16 rows of 16 columns. -/
def drainedMma : Cmd :=
  { ident := 1, word := 0, owner := .slot 1, lid := 0, ctag := 0, sg := Slot.blank.sg, fmt := 0, sca := 0, scb := 0
    grant := some ⟨0, 16, 16⟩, rings := Slot.blank.ring, rebase := 0, rd := none, pc := 0, stage := 0, started := false, done := []
    count := 0, moved := 0, flags := 0, poison := false, status := 0, value := 0, held := [], barred := none, kept := 0, refused := 0
    aged := false }

/-- An amo that adds 1 to a word of host memory, past the homes. -/
def waitingAmo : Flight := { core := 0, slot := 2, kind := .amo 0, target := .home (2 ^ 51) .direct, n := 8, data := 1 }

/-- Slot 1 in the drain handler of row 0, whose g25 is 0. It holds the granule for which the amo waits. -/
def drainHolding : State :=
  { (State.reset.modCore 0 fun r => { r with tileQ := [drainedMma] }).setSlot 0 1
      { Slot.blank with status := .handler, handler := .drain 0, reservation := .global (2 ^ 51) } with
    core := 0, slot := 1, queues := [⟨2 ^ 51, some (0, 1), 0, [waitingAmo]⟩] }

theorem drainHolding_byte : drainHolding.mem.read (2 ^ 51) = 0 := by decide +kernel

theorem drained_byte {t : State} (h : exec .drain drainHolding = .next t) : t.mem.read (2 ^ 51) = 1 := by
  have hbyte : (match exec .drain drainHolding with | .next t => t | _ => drainHolding).mem.read (2 ^ 51) = 1 := by decide +kernel
  rwa [h] at hbyte

/-- Refutes O18: as a slot that holds a global granule releases its row, the granule passes on, and an amo that waits for it changes
a word of host memory. -/
theorem not_tileEngine : ¬ Obligations.TileEngine := by
  rintro ⟨-, -, -, hdrain⟩
  obtain ⟨-, hrow⟩ := hdrain drainHolding (by decide +kernel)
  obtain ⟨-, -, hreleased⟩ := hrow 0 drainedMma ⟨0, 16, 16⟩ (by decide +kernel) (by decide +kernel) rfl (by decide) (by decide +kernel)
  obtain ⟨t, hexec, -, -, -, -, -, hkept⟩ := hreleased (by decide +kernel) (by decide +kernel)
  have hbyte := hkept (2 ^ 51) (by decide +kernel)
  rw [drainHolding_byte, drained_byte hexec] at hbyte
  exact absurd hbyte (by decide)

end Sys2Proof.Machine

end

section

namespace Sys2Proof.Machine
open Claims

/-! ## What the token of a command leaves alone: the collective identifiers and the collective queues -/

/-- `t` has the collective identifiers of `s`, and every core its collective queue. -/
structure State.KeepsColls (s t : State) : Prop where
  colls : t.colls = s.colls
  queues : ∀ d, (t.coreOf d).collectiveQ = (s.coreOf d).collectiveQ

section
variable {s t u : State} {c k : Nat}

theorem State.KeepsColls.refl (s : State) : s.KeepsColls s := ⟨rfl, fun _ => rfl⟩

theorem State.KeepsColls.trans (h : s.KeepsColls t) (h' : t.KeepsColls u) : s.KeepsColls u :=
  ⟨h'.colls.trans h.colls, fun d => (h'.queues d).trans (h.queues d)⟩

theorem State.KeepsColls.modCore {f : Core → Core} (hf : ∀ r, (f r).collectiveQ = r.collectiveQ) : s.KeepsColls (s.modCore c f) := by
  refine ⟨rfl, fun d => ?_⟩
  rw [State.coreOf_modCore]
  split
  · exact hf _
  · rfl

theorem State.KeepsColls.modSlot {f : Slot → Slot} : s.KeepsColls (s.modSlot c k f) :=
  .modCore (f := fun r => { r with slots := vset r.slots k (f (s.slotOf c k)) }) fun _ => rfl

theorem State.KeepsColls.foldl {α : Type} {f : State → α → State} (hf : ∀ a (s : State), s.KeepsColls (f s a)) (l : List α) (s : State) :
    s.KeepsColls (l.foldl f s) := by
  induction l generalizing s with
  | nil => exact .refl s
  | cons a l ih => exact (hf a s).trans (ih _)

theorem State.KeepsColls.setErr (s : State) (lid : BitVec 32) (bit : Nat) : s.KeepsColls (setErr s lid bit) := ⟨rfl, fun _ => rfl⟩

theorem makeRunnable_colls (s : State) (c k : Nat) : s.KeepsColls (makeRunnable s c k) := .modSlot

theorem consumeIf_colls (s : State) (c k : Nat) (p : Bool) : s.KeepsColls (consumeIf s c k p) := by
  unfold consumeIf consumePoison
  split
  · exact State.KeepsColls.modSlot.trans (.setErr ..)
  · exact .refl s

theorem receive_colls (s : State) (c k : Nat) (e : Elem) : s.KeepsColls (receive s c k e) := by
  unfold receive
  dsimp only
  split
  · exact State.KeepsColls.modSlot.trans (consumeIf_colls _ c k _)
  · exact consumeIf_colls s c k _

theorem unparkOne_colls (s : State) (c k : Nat) : s.KeepsColls (unparkOne s c k) := by
  unfold unparkOne
  split
  · exact .modSlot
  · exact State.KeepsColls.modSlot.trans (makeRunnable_colls _ c k)
  · exact makeRunnable_colls s c k

theorem unpark_colls (s : State) (c k : Nat) : s.KeepsColls (unpark s c k) :=
  .foldl (fun j s => by
    split
    · exact unparkOne_colls s c j
    · exact .refl s) _ s

theorem portSet_colls (s : State) (c k port : Nat) (l : List Elem) : s.KeepsColls (portSet s c k port l) := by
  unfold portSet
  split_ifs
  · exact .modSlot
  · exact .modCore fun _ => rfl
  · exact .modCore fun _ => rfl
  · exact .modSlot

theorem portArrive_colls (s : State) (c k port : Nat) (e : Elem) : s.KeepsColls (portArrive s c k port e) := by
  unfold portArrive
  split
  next j _ =>
    dsimp only
    generalize hu : (s.modCore c fun r => { r with poppers := r.poppers.filter fun w => w.2 != j }) = u
    have htaken : s.KeepsColls u := by
      rw [← hu]
      exact .modCore fun _ => rfl
    generalize hv : (u.modSlot c j fun x => { x with latch := x.latch ++ [e], wait := .nothing }) = v
    have hlatched : u.KeepsColls v := by
      rw [← hv]
      exact .modSlot
    have hreceived := (htaken.trans hlatched).trans (receive_colls v c j e)
    split
    · exact hreceived
    · exact hreceived.trans (makeRunnable_colls _ c j)
  · dsimp only
    split
    · split
      · exact (portSet_colls s c k _ _).trans (unpark_colls _ c k)
      · exact portSet_colls s c k _ _
    · exact portSet_colls s c k _ _

theorem pushToken_colls (s : State) (c k port : Nat) (v : Word) : s.KeepsColls (pushToken s c k port v) := by
  unfold pushToken
  split
  · exact portArrive_colls s c k _ _
  · exact .modCore fun _ => rfl

theorem deliverToken_colls (s : State) (c : Nat) (x : Cmd) (v : Word) : s.KeepsColls (deliverToken s c x v) := by
  unfold deliverToken
  split
  · exact .refl s
  · exact .modCore fun _ => rfl
  next k _ =>
    split
    · refine .foldl (fun j s => ?_) _ s
      split
      · exact .modSlot
      · exact .modSlot
      · exact .refl s
    · split
      · split
        · exact .refl s
        · exact pushToken_colls s c k _ v
      · unfold pushPending
        split
        · exact .modSlot
        · exact .modCore fun _ => rfl
      · exact pushToken_colls s c k _ v

/-- A collective command that completes leaves its queue; the identifiers stay. -/
theorem completeCmd_colls (s : State) (c : Nat) (x : Cmd) (status : Nat) (flags : BitVec 7) (poison : Bool) (value : Nat) :
    (completeCmd s c .collective x status flags poison value).colls = s.colls ∧
      ((completeCmd s c .collective x status flags poison value).coreOf c).collectiveQ =
        (s.coreOf c).collectiveQ.filter (fun y => y.ident != x.ident) := by
  have htoken := deliverToken_colls ((dropXlate (dropAnswers s c (cmdRequester x)) c [cmdRequester x]).modCore c fun r =>
    r.setQueue .collective ((r.queue .collective).filter fun y => y.ident != x.ident)) c x
    (tokenWord x.word status flags poison (min value (2 ^ 32 - 1)))
  refine ⟨htoken.colls, (htoken.queues c).trans ?_⟩
  rw [State.coreOf_modCore, if_pos rfl]
  rfl

/-- The count of a command of a collective queue goes up by one. -/
theorem modCmd_collectiveQ (s : State) (c ident : Nat) (f : Cmd → Cmd) : ((modCmd s c .collective ident f).coreOf c).collectiveQ =
    (s.coreOf c).collectiveQ.map fun y => if y.ident == ident then f y else y := by
  rw [modCmd, State.coreOf_modCore, if_pos rfl]
  rfl

end

/-! ## Identifiers (R422) -/

section
variable {s : State} {x n : Coll} {ctag : BitVec 4} {coll : BitVec 16}

theorem findColl_key (h : findColl s ctag coll = some n) : n.ctag = ctag ∧ n.coll = coll := by
  simpa using List.find?_some h

theorem findColl_putColl (h : findColl s x.ctag x.coll = some n) : findColl (putColl s x) x.ctag x.coll = some x := by
  have hkey : ((fun y : Coll => y.ctag == x.ctag && y.coll == x.coll) ∘
      fun y : Coll => if y.ctag == x.ctag && y.coll == x.coll then x else y) = fun y => y.ctag == x.ctag && y.coll == x.coll := by
    funext y
    rw [Function.comp_apply]
    split
    next hy => rw [hy, beq_self_eq_true, beq_self_eq_true]; rfl
    next => rfl
  have hn : (n.ctag == x.ctag && n.coll == x.coll) = true := by simp [findColl_key h]
  rw [putColl, h, Option.isSome_some, if_pos rfl, findColl, List.find?_map, hkey, ← findColl, h, Option.map_some, if_pos hn]

theorem putColl_cores (s : State) (x : Coll) : (putColl s x).cores = s.cores := by
  unfold putColl
  split <;> rfl

theorem findColl_congr {t : State} (h : t.colls = s.colls) (ctag : BitVec 4) (coll : BitVec 16) : findColl t ctag coll = findColl s ctag coll := by
  rw [findColl, h, findColl]

theorem putColl_first (h : findColl s x.ctag x.coll = none) : putColl s x = { s with colls := s.colls ++ [x] } := by
  rw [putColl, h]
  rfl

theorem takeIn_key (x : Coll) (a : LeafArrival) : (x.takeIn a).ctag = x.ctag ∧ (x.takeIn a).coll = x.coll ∧ (x.takeIn a).mask = x.mask := by
  unfold Coll.takeIn
  dsimp only
  split_ifs <;> exact ⟨rfl, rfl, rfl⟩

theorem foldl_takeIn_key (l : List LeafArrival) (x : Coll) :
    (l.foldl Coll.takeIn x).ctag = x.ctag ∧ (l.foldl Coll.takeIn x).coll = x.coll ∧ (l.foldl Coll.takeIn x).mask = x.mask := by
  induction l generalizing x with
  | nil => exact ⟨rfl, rfl, rfl⟩
  | cons a l ih =>
    obtain ⟨hctag, hcoll, hmask⟩ := ih (x.takeIn a)
    obtain ⟨hctag', hcoll', hmask'⟩ := takeIn_key x a
    exact ⟨hctag.trans hctag', hcoll.trans hcoll', hmask.trans hmask'⟩

theorem next_key (x : Coll) (keep : Nat → Bool) :
    (x.next keep).ctag = x.ctag ∧ (x.next keep).coll = x.coll ∧ (x.next keep).mask = x.mask := foldl_takeIn_key _ _

theorem foldl_admitRank_colls (l : List Nat) (s : State) (ctag : BitVec 4) :
    (l.foldl (fun s r => admitRank s ctag r) s).colls = s.colls ∧ (l.foldl (fun s r => admitRank s ctag r) s).cores = s.cores := by
  induction l generalizing s with
  | nil => exact ⟨rfl, rfl⟩
  | cons a l ih => exact ih _

end

/-! ## A leaf arrives -/

section
variable {s : State} {a : LeafArrival}

theorem leafArrives_first (hvalid : (s.memberOf a.ctag).valid = true) (hremoved : a.rank ∉ (s.memberOf a.ctag).removed)
    (hself : a.rank ≠ (s.memberOf a.ctag).self.toNat) (hcode : a.code ≠ 0x72) (hnone : findColl s a.ctag a.coll = none) :
    leafArrives s a = { s with colls := s.colls ++ [{ Coll.new a.ctag a.coll with
      heard := ({} : Table Nat).set a.rank (a.turn + 1), current := { leaves := [a] } }] } := by
  have hmask : isMaskCode a.code = false := beq_false_of_ne hcode
  have hheard : (Coll.new a.ctag a.coll).hear a = { Coll.new a.ctag a.coll with
      heard := ({} : Table Nat).set a.rank (a.turn + 1), current := { leaves := [a] } } := by
    rw [Coll.hear, if_neg (show ¬ a.turn < (Coll.new a.ctag a.coll).heard.get 0 a.rank from Nat.not_lt_zero _), Coll.takeIn]
    simp only [hmask, Bool.false_and, Bool.false_eq_true, if_false]
    rfl
  have hnames (m : Nat) : Instance.names { leaves := [a] } m = false := by
    rw [Instance.names, List.find?_singleton, if_neg (by simp [hmask])]
  unfold leafArrives
  simp only [hnone, Option.getD_none, hheard, hnames, Bool.and_false, Bool.false_eq_true, if_false]
  rw [if_neg (by simp [hvalid, hself, hremoved])]
  exact putColl_first hnone

theorem leafArrives_dropped
    (h : (s.memberOf a.ctag).valid = false ∨ (a.rank ∈ (s.memberOf a.ctag).removed ∧ a.code ≠ 0x72)) : leafArrives s a = s := by
  have hdropped : (!(s.memberOf a.ctag).valid || a.rank == (s.memberOf a.ctag).self.toNat || ((s.memberOf a.ctag).removed.contains a.rank &&
      !asksEntry ((findColl s a.ctag a.coll).getD (Coll.new a.ctag a.coll)) a)) = true := by
    obtain hvalid | ⟨hremoved, hcode⟩ := h
    · simp [hvalid]
    · have hasks (x : Coll) : asksEntry x a = false := by
        rw [asksEntry, isMaskCode, beq_false_of_ne hcode, Bool.false_and, Bool.false_and]
      simp [hremoved, hasks]
  unfold leafArrives
  exact if_pos hdropped

end

/-! ## Steps of the commands (R226, R422–R427) -/

/-- What a command of the engine does once every member has pushed the same one. -/
def cleFinish (c code : Nat) (s : State) (x : Cmd) (n : Coll) : State :=
  if code = 0x70 then writeChunk s c x n (mergeChunk s n (instanceRanks s n)) (enteredRanks n (instanceRanks s n) (cmdA x.word / 16))
  else if code = 0x71 then writeChunk s c x n (bcChunk n (instanceRanks s n)) ((lowestPresent n (instanceRanks s n)).getD 0xFFFFFFFF)
  else finishMask s c x n

section
variable {s : State} {c k code : Nat} {i : Instr} {x : Cmd} {n : Coll}

theorem exec_cle (hi : (code, i) ∈ [(0x70, Instr.cleMs c k), (0x71, .cleBc c k), (0x72, .cleMsk c k)]) :
    exec i s = .next (cleStep code c k (cleFinish c code) s) := by
  simp only [List.mem_cons, Prod.mk.injEq, List.not_mem_nil, or_false] at hi
  obtain ⟨rfl, rfl⟩ | ⟨rfl, rfl⟩ | ⟨rfl, rfl⟩ := hi <;> rfl

theorem cleCmd_code (h : cleCmd s c k code = some x) : cmdCode x.word = code := by
  unfold cleCmd at h
  split at h
  · cases h
  next y _ =>
    split at h
    next hy =>
      cases h
      simp only [Bool.and_eq_true, decide_eq_true_eq] at hy
      exact hy.1.1.1
    next => cases h

/-- A command that has not joined its exchange reaches the engine. -/
theorem cleStep_join (fin : State → Cmd → Coll → State) (h : cleCmd s c k code = some x) (hstarted : x.started = false) :
    cleStep code c k fin s = joinColl s c x := by
  unfold cleStep
  rw [h]
  simp only [hstarted, Bool.not_false, if_true]

/-- A command of an exchange that every member has joined or left. -/
theorem cleStep_ready (fin : State → Cmd → Coll → State) (h : cleCmd s c k code = some x) (hstarted : x.started = true)
    (hmember : isMember s x.ctag = true) (hn : findColl s x.ctag (cleColl x.word) = some n) (hready : instanceReady s n = true) :
    cleStep code c k fin s = if instanceMixed s n x then endCle (endInstance s n) c x 2 0 else fin s x n := by
  unfold cleStep
  rw [h]
  simp only [hstarted, hn, hmember, hready, Bool.not_true, Bool.false_eq_true, if_false]

/-- A module that is no member, or has no mask for an identifier, refuses a command (R422, R427). -/
theorem joinColl_refused (h : isMember s x.ctag = false ∨ (cmdCode x.word ≠ 0x72 ∧ findColl s x.ctag (cleColl x.word) = none)) :
    joinColl s c x = refused s c .collective x 4 := by
  unfold joinColl
  obtain hmember | ⟨hcode, hnone⟩ := h
  · rw [hmember]
    rfl
  · by_cases hmember : isMember s x.ctag = true
    · simp only [hmember, hnone, beq_false_of_ne hcode]
      rfl
    · rw [Bool.eq_false_of_not_eq_true hmember]
      rfl

theorem writeChunk_done {chunk : Nat → Bytes} {value : Nat} (h : cmdA x.word / 16 ≤ x.count) :
    writeChunk s c x n chunk value = endCle (endInstance s n) c x (cleStatus x) value := by
  unfold writeChunk
  exact if_pos h

/-- The next chunk written. -/
theorem writeChunk_next {chunk : Nat → Bytes} {value : Nat} {va : Nat} {lost : Bool} {u : State} (h : x.count < cmdA x.word / 16)
    (hva : rangeCheck x.sg (cleDst x.word) (cleBytes x.word) false true = some va)
    (hu : writeRange recordStore s c x (va + 144 * x.count) 144 (chunk x.count).1
      (fun off m => (pieceWords off m).any (chunk x.count).2.contains) = .ok lost u) :
    writeChunk s c x n chunk value = modCmd u c .collective x.ident fun y => { y with count := y.count + 1 } := by
  unfold writeChunk
  dsimp only
  rw [if_neg (by omega), hva]
  dsimp only
  rw [hu]

theorem modCmd_counts (u : State) : ((modCmd u c .collective x.ident fun y => { y with count := y.count + 1 }).coreOf c).collectiveQ.map (·.count) =
    (u.coreOf c).collectiveQ.map fun y => if y.ident = x.ident then y.count + 1 else y.count := by
  rw [modCmd_collectiveQ, List.map_map]
  refine List.map_congr_left fun y _ => ?_
  by_cases hy : y.ident = x.ident <;> simp [hy]

/-- The mask of a cle.msk whose members all pushed one bitmap. -/
theorem newMask_agreed {b : List Nat} (hout : isOutside s n = false) (hleaves : ∀ a ∈ n.current.leaves, a.code = 0x72 ∧ a.bitmap = b)
    (hne : n.current.leaves ≠ []) (hranks : ∀ a ∈ n.current.leaves, a.rank ∈ instanceRanks s n) :
    newMask s n = b.filter fun r => decide (r < (s.memberOf n.ctag).n.toNat) := by
  have hall : (n.current.leaves.filter fun a => isMaskCode a.code && (if isOutside s n then a.rank != (s.memberOf n.ctag).self.toNat &&
      a.bitmap.contains (s.memberOf n.ctag).self.toNat else (instanceRanks s n).contains a.rank)) = n.current.leaves := by
    refine List.filter_eq_self.2 fun a ha => ?_
    rw [hout, isMaskCode, (hleaves a ha).1]
    simpa using hranks a ha
  have hpick (j : Nat) (hj : j < n.current.leaves.length) : (n.current.leaves.map (·.bitmap)).getD j [] = b := by
    rw [List.getD_eq_getElem _ _ (by simpa using hj), List.getElem_map]
    exact (hleaves _ (List.getElem_mem hj)).2
  unfold newMask
  dsimp only
  rw [hall, hpick]
  rw [List.length_map]
  exact Nat.mod_lt _ (List.length_pos_iff.2 hne)

/-- cle.msk completes with its new mask (R427). -/
theorem finishMask_spec (hn : findColl s x.ctag (cleColl x.word) = some n) :
    (findColl (finishMask s c x n) x.ctag (cleColl x.word)).map (·.mask) = some (some (newMask s n)) ∧
      ((finishMask s c x n).coreOf c).collectiveQ = (s.coreOf c).collectiveQ.filter fun y => y.ident != x.ident := by
  obtain ⟨hctag, hcoll⟩ := findColl_key hn
  unfold finishMask
  dsimp only
  generalize hv : (newMask s n).foldl (fun s r => admitRank s n.ctag r) { s with free := s.free + 1 } = v
  have hadmitted : v.colls = s.colls ∧ v.cores = s.cores := by
    rw [← hv]
    exact foldl_admitRank_colls ..
  generalize hx : Coll.next { n with mask := some (newMask s n), late := _ } _ = m
  have hkey : m.ctag = x.ctag ∧ m.coll = cleColl x.word ∧ m.mask = some (newMask s n) := by
    obtain ⟨h1, h2, h3⟩ := next_key { n with mask := some (newMask s n), late := _ } _
    rw [← hx]
    exact ⟨h1.trans hctag, h2.trans hcoll, h3⟩
  obtain ⟨hmctag, hmcoll, hmask⟩ := hkey
  obtain ⟨hcolls, hqueue⟩ := completeCmd_colls (putColl v m) c x (cleStatus x) 0 x.poison (newMask s n).length
  have hput : findColl (putColl v m) m.ctag m.coll = some m := by
    refine findColl_putColl (n := n) ?_
    rw [findColl_congr hadmitted.1, hmctag, hmcoll, hn]
  rw [hmctag, hmcoll] at hput
  refine ⟨?_, hqueue.trans ?_⟩
  · rw [endCle, findColl_congr hcolls, hput, Option.map_some, hmask]
  · simp only [State.coreOf, putColl_cores, hadmitted.2]

end

theorem collectives_leaves (s : State) (a : LeafArrival) : let m := s.memberOf a.ctag
    (m.valid = true → a.rank ∉ m.removed → a.rank ≠ m.self.toNat → a.code ≠ 0x72 → findColl s a.ctag a.coll = none →
      exec (.clePartialArrival a) s = .next { s with colls := s.colls ++ [{ Coll.new a.ctag a.coll with
        heard := ({} : Table Nat).set a.rank (a.turn + 1), current := { leaves := [a] } }] }) ∧
    (m.valid = false ∨ (a.rank ∈ m.removed ∧ a.code ≠ 0x72) → exec (.clePartialArrival a) s = .next s) :=
  ⟨fun hvalid hremoved hself hcode hnone => congrArg _ (leafArrives_first hvalid hremoved hself hcode hnone),
    fun h => congrArg _ (leafArrives_dropped h)⟩

/-- Settles O20: leaves are kept by identifier, and a command ends its exchange with its merge, its broadcast or its new mask. -/
theorem collectives : Obligations.Collectives := by
  refine ⟨fun s a => collectives_leaves s a, fun s c k code i x hi hx => ⟨fun hstarted h => ?_, ?_⟩⟩
  · rw [exec_cle hi, cleStep_join _ hx hstarted, joinColl_refused (by rwa [cleCmd_code hx])]
  · intro hstarted hmember n hn hready ranks chunks
    have hexec := exec_cle (s := s) hi
    rw [cleStep_ready _ hx hstarted hmember hn hready] at hexec
    refine ⟨fun hmixed => ?_, fun hmixed hcode => ?_, fun hmixed hcode hout b hleaves hne hranks => ?_⟩
    · rw [hexec, if_pos hmixed]
      rfl
    · rw [if_neg (by simp [hmixed])] at hexec
      intro chunk value
      have hfinish : cleFinish c code s x n = writeChunk s c x n chunk value := by
        simp only [List.mem_cons, Prod.mk.injEq, List.not_mem_nil, or_false] at hi
        obtain ⟨h70, -⟩ | ⟨h71, -⟩ | ⟨h72, -⟩ := hi
        · rw [cleFinish, if_pos h70, show chunk = mergeChunk s n ranks from funext fun j => if_pos h70, show value = _ from if_pos h70]
          rfl
        · have hne : code ≠ 0x70 := by omega
          rw [cleFinish, if_neg hne, if_pos h71, show chunk = bcChunk n ranks from funext fun j => if_neg hne,
            show value = _ from if_neg hne]
        · exact absurd h72 hcode
      rw [hfinish] at hexec
      refine ⟨fun hdone => ?_, fun hnext va lost u hva hu => ?_⟩
      · rw [hexec, writeChunk_done hdone]
        rfl
      · rw [writeChunk_next hnext hva hu] at hexec
        exact ⟨_, hexec, rfl, modCmd_counts u⟩
    · rw [if_neg (by simp [hmixed]), cleFinish, if_neg (by simp [hcode]), if_neg (by simp [hcode])] at hexec
      obtain ⟨hmask, hqueue⟩ := finishMask_spec (c := c) hn
      refine ⟨_, _, hexec, hmask, ?_, hqueue⟩
      rw [newMask_agreed hout hleaves hne hranks, (findColl_key hn).1]

end Sys2Proof.Machine

end

section

namespace Sys2Proof.Machine
open Claims

/-! ## Engine accesses that are translated (R276, R385) -/

/-- `t` is `s` but for the notes of a command that no longer waits for a yield point: no count of a reduction changes. -/
structure State.Unwaited (s t : State) : Prop where
  rest : t = { s with cores := t.cores }
  counts : ∀ d, (t.coreOf d).reductionQ.map (fun y => (y.ident, y.count)) = (s.coreOf d).reductionQ.map fun y => (y.ident, y.count)

section
variable {s t u : State} {c : Nat} {x : Cmd} {va pa : Nat} {pol : Policy} {r w : Bool}

theorem State.Unwaited.refl (s : State) : s.Unwaited s := ⟨rfl, fun _ => rfl⟩

theorem State.Unwaited.trans (h : s.Unwaited t) (h' : t.Unwaited u) : s.Unwaited u := by
  refine ⟨?_, fun d => (h'.counts d).trans (h.counts d)⟩
  rw [h'.rest, h.rest]

theorem noteWait_unwaited (s : State) (c : Nat) (x : Cmd) (w : Option Nat) : s.Unwaited (noteWait s c x w) := by
  unfold noteWait
  split
  next e _ =>
    refine ⟨rfl, fun d => ?_⟩
    rw [modCmd, State.coreOf_modCore]
    split
    next hd =>
      subst hd
      cases e with
      | reduction =>
        simp only [Core.setQueue, Core.queue, List.map_map]
        refine List.map_congr_left fun y _ => ?_
        rw [Function.comp_apply]
        split <;> rfl
      | tile | copy | bank | stack | collective => rfl
    next => rfl
  next => exact .refl s

theorem State.Unwaited.engineAt (h : s.Unwaited t) (ha : EngineAt s c x va pa pol r w) : EngineAt t c x va pa pol r w := by
  rw [h.rest]
  exact ha

theorem State.Unwaited.settled (h : s.Unwaited t) (hs : Settled s) : Settled t := by
  rw [h.rest]
  exact hs

/-- An access whose page is translated, whose bank is free and whose address no aperture claims. -/
theorem engineAddress_ok (h : EngineAt s c x va pa pol r w) : engineAddress s c x va r w = (.ok pa pol, noteWait s c x none) := by
  obtain ⟨hbarred, htranslate, hbank, haperture⟩ := h
  unfold engineAddress translateFor
  rw [if_neg (by simpa using hbarred), htranslate]
  simp only [haperture, hbank, Bool.false_eq_true, if_false]

theorem missFor_not_ok (s : State) (c : Nat) (x : Cmd) (va : Nat) (r w : Bool) : (missFor s c x va r w).1 ≠ .ok pa pol := by
  unfold missFor
  dsimp only
  split
  · simp
  · simp
  · simp
  · split
    · simp
    · split <;> simp

theorem translateFor_ok (h : translateFor s c x va r w = (.ok pa pol, t)) : t = s := by
  unfold translateFor at h
  split at h
  · cases h; rfl
  · cases h
  · exact absurd (congrArg Prod.fst h) ((missFor_not_ok s c x va r w))

/-- An access that comes to an address leaves but a note. -/
theorem engineAddress_unwaited (h : engineAddress s c x va r w = (.ok pa pol, t)) : s.Unwaited t := by
  unfold engineAddress at h
  cases htr : translateFor s c x va r w with
  | mk a u =>
    rw [htr] at h
    cases a with
    | ok pa' pol' =>
      have hs := translateFor_ok htr
      subst hs
      simp only at h
      generalize (match apertureOf u pa' with
        | some (rank, _) => peerHeld u x.ctag rank
        | none => false) = drains at h
      split_ifs at h
      · cases h
      · cases h
      · cases h
        exact noteWait_unwaited ..
    | range | held | wait => cases h

theorem snoopBlocked_none (h : s.hostLines = []) (pa n : Nat) : snoopBlocked s pa n = (false, s) := by
  unfold snoopBlocked
  simp only [h, List.contains_nil, List.find?_eq_none.2 fun _ _ => Bool.false_ne_true]

/-- A write within one block whose address is translated. -/
theorem writeRange_block {put : LinePut} {n v : Nat} {bad : Bool} (h : EngineAt s c x va pa pol false true) (hpos : 0 < n)
    (hblock : va % 256 + n ≤ 256) (hhost : s.hostLines = []) :
    writeRange put s c x va n v (fun _ _ => bad) = .ok false (dropAnswers (storeLines put (noteWait s c x none) (clusterOf c) pol pa n
      (v % 2 ^ (8 * n)) fun _ _ => bad) c (cmdRequester x)) := by
  have hnote := noteWait_unwaited s c x none
  obtain ⟨-, -, -, haperture⟩ := hnote.engineAt h
  have hlines : (noteWait s c x none).hostLines = [] := by rw [hnote.rest]; exact hhost
  have hwrite : engineWrite put s c x va n (v % 2 ^ (8 * n)) (fun _ _ => bad) =
      .ok false (storeLines put (noteWait s c x none) (clusterOf c) pol pa n (v % 2 ^ (8 * n)) fun _ _ => bad) := by
    unfold engineWrite
    rw [engineAddress_ok h]
    simp only [haperture, snoopBlocked_none hlines]
  have hone : (va % 256 + n + 255) / 256 = 1 := by omega
  have hstart : max va ((va / 256 + 0) * 256) = va := by omega
  have hend : min (va + n) ((va / 256 + 0 + 1) * 256) - va = n := by omega
  rw [writeRange, hone, List.range_one, writeParts]
  simp only [hstart, hend, Nat.sub_self, Nat.mul_zero, pow_zero, Nat.div_one, hwrite]
  rfl

theorem operandLine_unwaited {block e i : Nat} {a : Nat × Bool} (h : operandLine c x block e i s = .ok a u) : s.Unwaited u := by
  unfold operandLine at h
  split at h
  · cases h
  next va _ =>
    split at h
    next haddr =>
      obtain ⟨-, rfl⟩ := EngDone.ok.inj h
      exact engineAddress_unwaited haddr
    all_goals cases h

theorem EngDone.map_ok {α β : Type} {f : α → β} {e : EngDone α} {b : β} (h : e.map f = .ok b u) : ∃ a, e = .ok a u := by
  cases e with
  | ok a t =>
    obtain ⟨-, rfl⟩ := EngDone.ok.inj h
    exact ⟨a, rfl⟩
  | range | held | wait => cases h

theorem operandLines_unwaited {block e : Nat} {is : List Nat} {l : List (Nat × Bool)} {s : State}
    (h : operandLines c x block e is s = .ok l u) : s.Unwaited u := by
  induction is generalizing s l with
  | nil =>
    obtain ⟨-, rfl⟩ := EngDone.ok.inj h
    exact .refl _
  | cons i is ih =>
    unfold operandLines at h
    split at h
    next hline =>
      obtain ⟨_, hrest⟩ := EngDone.map_ok h
      exact (operandLine_unwaited hline).trans (ih hrest)
    all_goals cases h

/-! ## A result written where memory is settled (R275, R276) -/

theorem wakeGlobal_unwatched (hw : s.watches = []) (g : Nat) (around : Bool) : wakeGlobal s g around = s := by
  have hsame : ({ s with watches := [] } : State) = s := by rw [← hw]
  simp only [wakeGlobal, endWatches, hw, List.filter_nil, List.foldl_nil, hsame]

theorem noteGlobal_settled (hq : s.queues = []) (hw : s.watches = []) (pa n : Nat) (around : Bool) : noteGlobal s pa n around = s := by
  unfold noteGlobal
  dsimp only
  generalize (List.range ((pa % 8 + n + 7) / 8)).map _ = l
  induction l with
  | nil => rfl
  | cons g l ih => rw [List.foldl_cons, hq, List.any_nil, if_neg Bool.false_ne_true, wakeGlobal_unwatched hw, ih]

theorem linePieces_line (h : pa % 32 = 0) : linePieces pa 32 = [(pa, 32)] := by
  have hb : max pa (pa / 32 * 32 + 32 * 0) = pa := by omega
  have hn : min (pa + 32) (pa / 32 * 32 + 32 * 0 + 32) - pa = 32 := by omega
  rw [linePieces, h, show (0 + 32 + 31) / 32 = 1 from rfl, List.range_one, List.map_singleton]
  simp only [hb, hn]

theorem arrayStore_settled (hb : s.bursts = []) (n v : Nat) (bad : Bool) : arrayStore s pa n v bad = s.engineStore pa n v bad := by
  rw [arrayStore, flushBurst_of_empty hb, ite_self]

theorem engineStore_settled (hq : s.queues = []) (hw : s.watches = []) (n v : Nat) (bad : Bool) :
    (s.engineStore pa n v bad).queues = [] ∧ (s.engineStore pa n v bad).watches = [] := by
  cases bad <;> exact ⟨hq, hw⟩

/-- A line's place before poisoned data comes: the marks of an entry are widened. -/
def widened (s : State) (pa : Nat) (bad : Bool) : State := if bad then s.widen pa else s

theorem widened_rest (s : State) (pa : Nat) (bad : Bool) : widened s pa bad = { s with entryMarks := (widened s pa bad).entryMarks } := by
  cases bad <;> rfl

section
variable {bad : Bool}

theorem widened_find (hh : s.homes.entries = []) (line : Nat) : (widened s pa bad).homes.find? line = none := by
  rw [widened_rest]
  simp [Table.find?, hh, tableFind]

theorem widened_bursts (hb : s.bursts = []) : (widened s pa bad).bursts = [] := by
  rw [widened_rest]
  exact hb

/-- A result goes to the array under STREAM or DIRECT. -/
theorem resultStore_array {cl n v : Nat} (hpol : pol = .stream ∨ pol = .direct) (hh : s.homes.entries = []) (hb : s.bursts = []) :
    resultStore s cl pol pa n v bad = (widened s pa bad).engineStore pa n v bad := by
  have harray : resultStore s cl pol pa n v bad = arrayStore (widened s pa bad) pa n v bad := by
    obtain rfl | rfl := hpol
    · unfold resultStore burstStore
      dsimp only
      rw [← widened, widened_find hh]
    · rfl
  rw [harray, arrayStore_settled (widened_bursts hb)]

/-- A line whose 32 bytes an engine writes. -/
theorem engineMerge_line (l : HomeLine) {v : Nat} (hpa : pa % 32 = 0) (hv : v < 2 ^ 256) :
    (l.engineMerge pa 32 v bad).dirty = true ∧ (l.engineMerge pa 32 v bad).data.toNat = v := by
  refine ⟨rfl, ?_⟩
  have hold : l.data.toNat < 2 ^ 256 := l.data.isLt
  have hset : (l.engineMerge pa 32 v bad).data = setBits l.data 255 0 v := by
    rw [HomeLine.engineMerge, lineMerge, hpa]
  rw [hset, setBits, pow_zero, Nat.mod_one, Nat.mod_eq_of_lt hv, Nat.div_eq_of_lt hold, Nat.zero_mul, Nat.zero_add, Nat.mul_one,
    Nat.add_zero, toNat_ofNat_lt hv]

theorem homeLine_new {u : State} (hh : u.homes.entries = []) (hb : u.bursts = []) : ∃ l, homeLine u pa true = (l, keepLine u pa l) := by
  have hfind : u.homes.find? (pa / 32) = none := by simp [Table.find?, hh, tableFind]
  rw [homeLine, hfind]
  simp only [portRead_of_empty hb, if_true]
  exact ⟨_, rfl⟩

theorem keepLine_twice {u : State} (hh : u.homes.entries = []) (l k : HomeLine) :
    keepLine (keepLine u pa l) pa k = { u with homes := u.homes.set (pa / 32) k } := by
  rw [keepLine_of_empty hh]
  simp only [keepLine, Table.find_set, if_true, Option.isSome_some, Table.set_set]

/-- A result goes to a new line of its home under HOMED. -/
theorem resultStore_homed {cl v : Nat} (hh : s.homes.entries = []) (hb : s.bursts = []) (hpa : pa % 32 = 0) (hv : v < 2 ^ 256) :
    ∃ l : HomeLine, resultStore s cl .homed pa 32 v bad = { widened s pa bad with homes := (widened s pa bad).homes.set (pa / 32) l } ∧
      l.dirty = true ∧ l.data.toNat = v := by
  have hempty : (widened s pa bad).homes.entries = [] := by
    rw [widened_rest]
    exact hh
  obtain ⟨l, hl⟩ := homeLine_new (pa := pa) hempty (widened_bursts hb)
  refine ⟨l.engineMerge pa 32 v bad, ?_, engineMerge_line l hpa hv⟩
  unfold resultStore
  dsimp only
  rw [← widened, hl]
  exact keepLine_twice hempty _ _

end

theorem storeLines_line {cl v : Nat} {bad : Bool} (hpa : pa % 32 = 0) (hv : v < 2 ^ 256) :
    storeLines resultStore s cl pol pa 32 v (fun _ _ => bad) = if pol = .combine then resultStore s cl pol pa 32 v bad
      else noteGlobal (resultStore s cl pol pa 32 v bad) pa 32 (pol == .direct) := by
  unfold storeLines
  rw [linePieces_line hpa]
  simp only [List.foldl_cons, List.foldl_nil, Nat.sub_self, Nat.mul_zero, pow_zero, Nat.div_one, Nat.mod_eq_of_lt hv]

/-- A line of a result, where memory is settled and the page is not a COMBINE page. -/
theorem resultLine_written {cl v : Nat} {bad : Bool} (hs : Settled s) (hpa : pa % 32 = 0) (hv : v < 2 ^ 256) {word : Nat → Nat}
    (hword : ∀ i, i < 8 → v / 2 ^ (32 * i) % 2 ^ 32 = word i) :
    Written s (storeLines resultStore s cl pol pa 32 v fun _ _ => bad) pol pa 8 word := by
  obtain ⟨hhomes, hbursts, -, hqueues, hwatches, -⟩ := hs
  have hrest := widened_rest s pa bad
  refine ⟨fun hpol => ?_, fun hpol => ?_⟩
  · have hne : pol ≠ .combine := by obtain rfl | rfl := hpol <;> decide
    obtain ⟨hq, hw⟩ := engineStore_settled (pa := pa) (s := widened s pa bad) (by rw [hrest]; exact hqueues)
      (by rw [hrest]; exact hwatches) 32 v bad
    rw [storeLines_line hpa hv, if_neg hne, resultStore_array hpol hhomes hbursts, noteGlobal_settled hq hw, State.engineStore_mem,
      show (widened s pa bad).mem = s.mem by rw [hrest]]
    refine ⟨fun i hi => ?_, fun a ha => Memory.read_writeN_outside _ _ (by omega)⟩
    rw [← (s.mem.writeN pa 32 v).readN_slice (a := pa) (n := 32) (j := 4 * i) (k := 4) (by omega), Memory.readN_writeN, ← hword i hi,
      show (256 : Nat) ^ 32 = 2 ^ 256 by norm_num, Nat.mod_eq_of_lt hv, pow_mul, pow_mul]
    norm_num
  · subst hpol
    obtain ⟨l, hstore, hdirty, hdata⟩ := resultStore_homed (cl := cl) (bad := bad) hhomes hbursts hpa hv
    rw [storeLines_line hpa hv, if_neg (by decide), hstore, noteGlobal_settled (by rw [hrest]; exact hqueues) (by rw [hrest]; exact hwatches)]
    refine ⟨by rw [hrest], fun i hi => ⟨l, ?_, hdirty, ?_⟩⟩
    · rw [show pa / 32 + i / 8 = pa / 32 by omega]
      simp
    · rw [hdata, Nat.mod_eq_of_lt hi, hword i hi]

theorem resultLine_cores {cl v : Nat} {bad : Bool} (hs : Settled s) (hpa : pa % 32 = 0) (hv : v < 2 ^ 256) :
    (storeLines resultStore s cl pol pa 32 v fun _ _ => bad).cores = s.cores := by
  obtain ⟨hhomes, hbursts, -, hqueues, hwatches, -⟩ := hs
  have hrest := widened_rest s pa bad
  have hstore : (resultStore s cl pol pa 32 v bad).cores = s.cores ∧ (pol ≠ .combine →
      (resultStore s cl pol pa 32 v bad).queues = [] ∧ (resultStore s cl pol pa 32 v bad).watches = []) := by
    have hq : (widened s pa bad).queues = [] := by rw [hrest]; exact hqueues
    have hw : (widened s pa bad).watches = [] := by rw [hrest]; exact hwatches
    cases pol with
    | combine => exact ⟨by cases bad <;> rfl, fun h => absurd rfl h⟩
    | homed =>
      obtain ⟨l, hl, -⟩ := resultStore_homed (cl := cl) (bad := bad) hhomes hbursts hpa hv
      rw [hl]
      exact ⟨by rw [hrest], fun _ => ⟨hq, hw⟩⟩
    | stream =>
      rw [resultStore_array (.inl rfl) hhomes hbursts]
      exact ⟨by cases bad <;> rfl, fun _ => engineStore_settled hq hw ..⟩
    | direct =>
      rw [resultStore_array (.inr rfl) hhomes hbursts]
      exact ⟨by cases bad <;> rfl, fun _ => engineStore_settled hq hw ..⟩
  rw [storeLines_line hpa hv]
  by_cases hpol : pol = .combine
  · rw [if_pos hpol]
    exact hstore.1
  · obtain ⟨hq, hw⟩ := hstore.2 hpol
    rw [if_neg hpol, noteGlobal_settled hq hw]
    exact hstore.1

/-! ## Sums of eight elements (R65) -/

section
variable {neg : Bool} {mag : Nat}

theorem signed_fp32_lt (h : mag < 2 ^ 31) : signed fp32 neg mag < 2 ^ 32 := by
  rw [signed, show fp32.signBit = 2 ^ 31 from rfl]
  split <;> omega

theorem overflowCode_fp32_lt (m : Mode) : (overflowCode fp32 m false neg).1 < 2 ^ 32 := by
  have hcodes : fp32.infCode < 2 ^ 31 ∧ fp32.maxCode < 2 ^ 31 := by decide
  obtain ⟨hinf, hmax⟩ := hcodes
  have hcode (b : Bool) : (if b then fp32.infCode else fp32.maxCode) < 2 ^ 31 := by cases b <;> assumption
  exact signed_fp32_lt (hcode _)

theorem roundTo_fp32_lt (m : Mode) (rnd : Nat) (v : Val) : (roundTo fp32 m false rnd v).1 < 2 ^ 32 := by
  have hcodes : fp32.infCode < 2 ^ 31 ∧ fp32.maxCode < 2 ^ 31 ∧ fp32.nanCode < 2 ^ 32 := by decide
  obtain ⟨hinf, hmax, hnan⟩ := hcodes
  cases v with
  | nan => exact hnan
  | inf => exact signed_fp32_lt hinf
  | fin n num den =>
    unfold roundTo
    dsimp only
    generalize (ite (_ < 2 ^ fp32.mbits) _ _ : Nat) = mag
    split_ifs with hzero hover
    · exact signed_fp32_lt (by norm_num)
    · exact overflowCode_fp32_lt m
    · exact signed_fp32_lt (by omega)

end

theorem forall_pairUp {α : Type} {join : α → α → α} {p : α → Prop} (hjoin : ∀ a b, p a → p b → p (join a b)) {l : List α}
    (hl : ∀ a ∈ l, p a) : ∀ a ∈ pairUp join l, p a := by
  fun_induction pairUp join l with
  | case1 a b rest ih =>
    rw [List.forall_mem_cons] at hl ⊢
    obtain ⟨ha, hl⟩ := hl
    rw [List.forall_mem_cons] at hl
    exact ⟨hjoin a b ha hl.1, ih hl.2⟩
  | case2 => exact hl

theorem forall_treeLevels {α : Type} {join : α → α → α} {p : α → Prop} (hjoin : ∀ a b, p a → p b → p (join a b)) (n : Nat) {l : List α}
    (hl : ∀ a ∈ l, p a) : ∀ a ∈ treeLevels join n l, p a := by
  induction n generalizing l with
  | zero => exact hl
  | succ n ih => exact ih (forall_pairUp hjoin hl)

/-- A partial sum of FP32 codes is none or an FP32 code. -/
def IsSum (a : Option Nat × BitVec 7) : Prop := ∀ r, a.1 = some r → r < 2 ^ 32

theorem addAbsent_lt {a b : Option Nat} (ha : ∀ r, a = some r → r < 2 ^ 32) (hb : ∀ r, b = some r → r < 2 ^ 32) (r : Nat)
    (h : (addAbsent a b).1 = some r) : r < 2 ^ 32 := by
  unfold addAbsent at h
  split at h
  · cases h
    exact roundTo_fp32_lt ..
  · exact ha r h
  · exact hb r h

theorem sumEight_lt {l : List Nat} (hl : ∀ a ∈ l, a < 2 ^ 32) : (sumEight l).1 < 2 ^ 32 := by
  have hroot := forall_treeLevels (p := IsSum) (join := fun a b => ((addAbsent a.1 b.1).1, (addAbsent a.1 b.1).2 ||| a.2 ||| b.2))
    (fun a b ha hb => addAbsent_lt ha hb) 3 (l := (List.range 8).map fun i => (l[i]?, (0 : BitVec 7))) fun a ha r hr => by
      obtain ⟨i, -, rfl⟩ := List.mem_map.1 ha
      exact hl r (List.mem_of_getElem? hr)
  unfold sumEight
  dsimp only
  split
  next r f rest htree => exact hroot (some r, f) (by rw [htree]; exact List.mem_cons_self) r rfl
  next => norm_num

/-- Numbers of 32 bits side by side. -/
theorem digits32 {w : Nat → Nat} (hw : ∀ j, w j < 2 ^ 32) (n : Nat) :
    (List.range n).foldl (fun acc j => acc + 2 ^ (32 * j) * w j) 0 < 2 ^ (32 * n) ∧
      ∀ i, i < n → (List.range n).foldl (fun acc j => acc + 2 ^ (32 * j) * w j) 0 / 2 ^ (32 * i) % 2 ^ 32 = w i := by
  induction n with
  | zero => exact ⟨by simp, by simp⟩
  | succ n ih =>
    obtain ⟨hlt, hdigit⟩ := ih
    rw [List.range_succ, List.foldl_append, List.foldl_cons, List.foldl_nil]
    generalize (List.range n).foldl (fun acc j => acc + 2 ^ (32 * j) * w j) 0 = S at hlt hdigit ⊢
    have hwn := hw n
    refine ⟨?_, fun i hi => ?_⟩
    · rw [Nat.mul_succ, pow_add]
      nlinarith
    · obtain rfl | hin : i = n ∨ i < n := by omega
      · rw [Nat.add_mul_div_left _ _ (Nat.two_pow_pos _), Nat.div_eq_of_lt hlt, Nat.zero_add, Nat.mod_eq_of_lt hwn]
      · obtain ⟨k, rfl⟩ := Nat.exists_eq_add_of_le (show i + 1 ≤ n from hin)
        rw [← hdigit i hin, show 2 ^ (32 * (i + 1 + k)) * w (i + 1 + k) = 2 ^ (32 * i) * (2 ^ 32 * (2 ^ (32 * k) * w (i + 1 + k))) by ring,
          Nat.add_mul_div_left _ _ (Nat.two_pow_pos _), Nat.add_mul_mod_self_left]

/-- The words of a line of sums. -/
theorem sumLines_word (l : List (Nat × Bool)) : (sumLines l).1 < 2 ^ 256 ∧ ∀ i, i < 8 →
    (sumLines l).1 / 2 ^ (32 * i) % 2 ^ 32 = (sumEight (l.map fun a => a.1 / 2 ^ (32 * i) % 2 ^ 32)).1 := by
  have hsum : (sumLines l).1 = (List.range 8).foldl
      (fun acc j => acc + 2 ^ (32 * j) * (sumEight (l.map fun a => a.1 / 2 ^ (32 * j) % 2 ^ 32)).1) 0 :=
    (List.foldl_hom Prod.fst fun _ _ => rfl).symm
  rw [hsum]
  refine digits32 (fun j => sumEight_lt fun a ha => ?_) 8
  obtain ⟨b, -, rfl⟩ := List.mem_map.1 ha
  exact Nat.mod_lt _ (by norm_num)

end

/-! ## The steps of bre.sum (R225, R340–R342, R346) -/

section
variable {s t u : State} {c k : Nat} {x : Cmd}

/-- The oldest command of its stack takes its next step. -/
theorem exec_breSum (hx : (s.coreOf c).reductionQ[k]? = some x) (hfrozen : frozen s c x = false) (hheld : x.held = [])
    (hfirst : ∀ e ∈ s.cores.entries, ∀ y ∈ e.2.reductionQ, suStack y.word = suStack x.word → x.ident ≤ y.ident) :
    exec (.breSum c k) s = .next (if !x.started then startSum s c x else if x.count < blockElems x.kept then sumStep s c x
      else finishSum s c x) := by
  have hbefore : (s.cores.entries.any fun e =>
      e.2.reductionQ.any fun y => suStack y.word == suStack x.word && decide (y.ident < x.ident)) = false := by
    simp only [List.any_eq_false, Bool.and_eq_true, beq_iff_eq, decide_eq_true_eq, not_and, Bool.not_eq_true]
    exact fun e he y hy hstack => Nat.not_lt.2 (hfirst e he y hy hstack)
  show execBreSum c k s = _
  unfold execBreSum
  rw [hx]
  simp only [hbefore, hfrozen, hheld, List.isEmpty_nil, Bool.not_true, Bool.or_self, Bool.false_eq_true, if_false]

/-- A block that is read and malformed is refused (R341). -/
theorem startSum_refused {va block : Nat} {marks : List Nat} (hva : rangeCheck x.sg (cmdAddr x.word) 128 true false = some va)
    (hread : readRange s c x va 128 = .ok (block, marks) u) (hblock : blockOk block (breOps x.word) = false) :
    startSum s c x = refused u c .reduction x 2 := by
  unfold startSum
  rw [hva]
  dsimp only
  rw [hread]
  dsimp only
  rw [hblock]
  rfl

/-- A block whose addresses are all checked is under way. -/
theorem startSum_started {va block : Nat} {marks : List Nat} (hva : rangeCheck x.sg (cmdAddr x.word) 128 true false = some va)
    (hread : readRange s c x va 128 = .ok (block, marks) u) (hblock : blockOk block (breOps x.word) = true)
    (hflag : bitsOf (blockWord block 9) 2 0 = 0) (hranges : rangesOk c x (blockRanges block (breOps x.word)) u = .ok true t) :
    startSum s c x = modCmd t c .reduction x.ident fun y => { y with started := true, kept := block, poison := !marks.isEmpty } := by
  unfold startSum
  rw [hva]
  dsimp only
  rw [hread]
  dsimp only
  rw [hblock, hflag, hranges]
  rfl

theorem modCmd_reductionQ (s : State) (c ident : Nat) (f : Cmd → Cmd) : ((modCmd s c .reduction ident f).coreOf c).reductionQ =
    (s.coreOf c).reductionQ.map fun y => if y.ident == ident then f y else y := by
  rw [modCmd, State.coreOf_modCore, if_pos rfl]
  rfl

/-- A change of one command of a queue, seen through a projection. -/
theorem map_modCmd {α : Type} {ident : Nat} {f : Cmd → Cmd} {p : Cmd → α} {g : Cmd → α} (hf : ∀ y, p (f y) = g y) (l : List Cmd) :
    (l.map fun y => if y.ident == ident then f y else y).map p = l.map fun y => if y.ident = ident then g y else p y := by
  rw [List.map_map]
  refine List.map_congr_left fun y _ => ?_
  rw [Function.comp_apply]
  by_cases hy : y.ident = ident
  · rw [if_pos hy, if_pos (beq_iff_eq.2 hy), hf]
  · rw [if_neg hy, if_neg (by simpa using hy)]

theorem State.Unwaited.counts_eight (h : s.Unwaited t) (c ident : Nat) :
    ((t.coreOf c).reductionQ.map fun y => if y.ident = ident then y.count + 8 else y.count) =
      (s.coreOf c).reductionQ.map fun y => if y.ident = ident then y.count + 8 else y.count := by
  have hcounts := congrArg (List.map fun p : Nat × Nat => if p.1 = ident then p.2 + 8 else p.2) (h.counts c)
  rwa [List.map_map, List.map_map] at hcounts

/-- The next eight sums (R65, R342). -/
theorem sumStep_written {l : List (Nat × Bool)} {va pa : Nat} {pol : Policy}
    (hlines : operandLines c x x.kept x.count (List.range (breOps x.word)) s = .ok l u)
    (hva : rangeCheck x.sg (blockWord x.kept 8 + .ofNat 64 (4 * x.count)) 32 false true = some va) (hblock : va % 256 + 32 ≤ 256)
    (hs : Settled s) (hat : EngineAt s c x va pa pol false true) (hpa : pa % 32 = 0) :
    Written s (sumStep s c x) pol pa 8 (fun j => (sumEight (l.map fun a => a.1 / 2 ^ (32 * j) % 2 ^ 32)).1) ∧
      ((sumStep s c x).coreOf c).reductionQ.map (·.count) =
        (s.coreOf c).reductionQ.map fun y => if y.ident = x.ident then y.count + 8 else y.count := by
  have hu := operandLines_unwaited hlines
  obtain ⟨hsum, hword⟩ := sumLines_word l
  have hw := hu.trans (noteWait_unwaited u c x none)
  have hwrite := writeRange_block (put := resultStore) (n := 32) (v := (sumLines l).1) (bad := l.any (·.2)) (hu.engineAt hat) (by norm_num)
    hblock (hu.settled hs).2.2.1
  rw [Nat.mod_eq_of_lt (by simpa using hsum)] at hwrite
  have hwritten := resultLine_written (pol := pol) (cl := clusterOf c) (bad := l.any (·.2)) (hw.settled hs) hpa hsum hword
  have hcores := resultLine_cores (pol := pol) (cl := clusterOf c) (bad := l.any (·.2)) (hw.settled hs) hpa hsum
  generalize storeLines resultStore (noteWait u c x none) (clusterOf c) pol pa 32 (sumLines l).1 (fun _ _ => l.any (·.2)) = v at *
  unfold sumStep
  rw [hlines, hva]
  dsimp only
  rw [hwrite]
  dsimp only
  refine ⟨?_, ?_⟩
  · rw [hw.rest] at hwritten
    exact hwritten
  · rw [modCmd_reductionQ, map_modCmd fun _ => rfl, ← hw.counts_eight c]
    simp only [State.coreOf, dropAnswers, hcores]

/-- A combining buffer that holds nothing has nothing to write out. -/
theorem writeOutAll_empty {cl : Nat} (h : (s.clusterAt cl).combine = []) : writeOutAll s cl = s := by
  rw [writeOutAll, h]
  rfl

/-- The command waits while the port's buffer holds results of it (R292, R304). -/
theorem finishSum_waits (h : combinesDst s c x = true) (hout : combinesDst (writeOutAll s (clusterOf c)) c x = true)
    (hne : ((writeOutAll s (clusterOf c)).clusterAt (clusterOf c)).combine ≠ []) : finishSum s c x = writeOutAll s (clusterOf c) := by
  unfold finishSum
  simp only [h, if_true, hout, Bool.true_and, List.isEmpty_eq_false_iff.2 hne, Bool.not_false]

/-- The flag is stored at its place, and the command completes (R342, R346). -/
theorem finishSum_done {va pa : Nat} {pol : Policy} (h : combinesDst s c x = true → (s.clusterAt (clusterOf c)).combine = [])
    (hva : rangeCheck x.sg (blockWord x.kept 9) 8 false true = some va) (hat : EngineAt s c x va pa pol false true) (hhost : s.hostLines = []) :
    finishSum s c x = completeCmd (storeFlag (noteWait s c x none) c pol pa (blockWord x.kept 10).toNat) c .reduction x
      (if x.poison then 6 else 0) x.flags x.poison (breOps x.word) := by
  have hnote := noteWait_unwaited s c x none
  obtain ⟨-, -, -, haperture⟩ := hnote.engineAt hat
  have hlines : (noteWait s c x none).hostLines = [] := by rw [hnote.rest]; exact hhost
  have hout : (if combinesDst s c x then writeOutAll s (clusterOf c) else s) = s := by
    split
    next hc => exact writeOutAll_empty (h hc)
    next => rfl
  have hempty : (combinesDst s c x && !(s.clusterAt (clusterOf c)).combine.isEmpty) = false := by
    cases hc : combinesDst s c x with
    | false => rfl
    | true => rw [h hc]; rfl
  unfold finishSum
  dsimp only
  rw [hout, hempty, if_neg Bool.false_ne_true, hva]
  dsimp only
  rw [engineAddress_ok hat]
  simp only [haperture, snoopBlocked_none hlines]

end

/-- Settles O19: the block is read and checked, each step writes a line of sums, and the flag ends the command. -/
theorem bufferSums : Obligations.BufferSums := by
  intro s c k x hx hfrozen hheld hfirst ops
  have hexec := exec_breSum hx hfrozen hheld hfirst
  refine ⟨fun hstarted va block marks u hva hread => ⟨fun hblock => ?_, fun hblock hflag v hranges => ?_⟩,
    fun hstarted hcount l u va pa pol hlines hva hblock hs hat hpa => ?_, fun hstarted hcount => ?_⟩
  · rw [hexec, hstarted, startSum_refused hva hread hblock]
    rfl
  · rw [hstarted, startSum_started hva hread hblock hflag hranges] at hexec
    refine ⟨_, hexec, rfl, ?_⟩
    exact (congrArg _ (modCmd_reductionQ ..)).trans (map_modCmd (fun _ => rfl) _)
  · rw [hstarted, if_neg (by decide), if_pos hcount] at hexec
    obtain ⟨hwritten, hqueue⟩ := sumStep_written hlines hva hblock hs hat hpa
    exact ⟨_, hexec, hwritten, hqueue⟩
  · rw [hstarted, if_neg (by decide), if_neg (by omega)] at hexec
    intro out u flag
    refine ⟨fun hcombines hout hne => ?_, fun va pa pol hempty hva hat hhost => ?_⟩
    · rw [hexec, finishSum_waits hcombines hout hne]
    · rw [hexec, finishSum_done hempty hva hat hhost]
      rfl

end Sys2Proof.Machine

end

section

namespace Sys2Proof.Machine
open Claims

/-! ## What accesses leave of the groups, the banks and the programs

Accesses of scratchpads and of global memory, the device's writes of its tables, and the answers to them leave every group, task bank
and overflow ring, the general registers and the PC of every slot, and what decides whether a table is open. -/

/-- The place of a thread in its program, and its registers. -/
def Slot.program (x : Slot) : Vector Word 32 × Word := (x.g, x.pc)

/-- What the group step unit and the task bank of a cluster hold. -/
def Cluster.board (c : Cluster) : Table Group × List TaskRec × List TaskRec := (c.groups, c.bank, c.ring)

/-- What of the module beside its cores and clusters no access changes. -/
def State.setting (s : State) : (Nat × Nat × Nat) × List Nat × List Nat × Table Pch × Table Word :=
  ((s.core, s.slot, s.clock), s.wants, s.hostLines, s.pchs, s.apertures)

/-- As `a`, but perhaps for what groups, banks and memory hold. -/
structure State.Alike (a s : State) : Prop where
  setting : s.setting = a.setting
  programs : ∀ d j, (s.slotOf d j).program = (a.slotOf d j).program

/-- As `a`, but perhaps for what memory holds. -/
structure State.Aside (a s : State) : Prop extends a.Alike s where
  boards : ∀ cl, (s.clusterAt cl).board = (a.clusterAt cl).board

section
variable {a s : State} {c k n pa cl v g off line block : Nat} {w : Word} {poison : Bool} {pol : Policy} {owner : Option (Nat × Nat)}
  {f : Flight} {α β : Type}

theorem State.Alike.refl (a : State) : a.Alike a := ⟨rfl, fun _ _ => rfl⟩

theorem State.Alike.trans {t : State} (h : a.Alike s) (h' : s.Alike t) : a.Alike t :=
  ⟨h'.setting.trans h.setting, fun d j => (h'.programs d j).trans (h.programs d j)⟩

theorem State.Alike.modCluster {f : Cluster → Cluster} (h : a.Alike s) : a.Alike (s.modCluster c f) := ⟨h.setting, h.programs⟩

theorem State.Aside.refl (a : State) : a.Aside a := ⟨.refl a, fun _ => rfl⟩

theorem State.Aside.trans {t : State} (h : a.Aside s) (h' : s.Aside t) : a.Aside t :=
  ⟨h.toAlike.trans h'.toAlike, fun cl => (h'.boards cl).trans (h.boards cl)⟩

theorem State.Aside.update {t : State} (h : a.Aside s) (hset : t.setting = s.setting := by rfl)
    (hclusters : t.clusters = s.clusters := by rfl) (hcores : t.cores = s.cores := by rfl) : a.Aside t :=
  ⟨⟨hset.trans h.setting, fun d j => by rw [State.slotOf, State.coreOf, hcores]; exact h.programs d j⟩,
    fun cl => by rw [State.clusterAt, hclusters]; exact h.boards cl⟩

theorem State.Aside.modCore {f : Core → Core} (h : a.Aside s) (hf : ∀ r, (f r).slots = r.slots := by intro; rfl) :
    a.Aside (s.modCore c f) :=
  ⟨⟨h.setting, fun d j => by rw [slotOf_modCore_slots hf]; exact h.programs d j⟩, h.boards⟩

theorem State.Aside.modSlot {f : Slot → Slot} (h : a.Aside s) (hf : ∀ x, (f x).program = x.program := by intro; rfl) :
    a.Aside (s.modSlot c k f) :=
  ⟨⟨h.setting, fun d j => ((State.KeepsOf.modSlot (hf _)).slots d j).trans (h.programs d j)⟩, h.boards⟩

theorem State.Aside.modCluster {f : Cluster → Cluster} (h : a.Aside s) (hf : ∀ x, (f x).board = x.board := by intro; rfl) :
    a.Aside (s.modCluster c f) := by
  refine ⟨h.toAlike.modCluster, fun cl => ?_⟩
  rw [State.clusterAt_modCluster]
  split
  next => exact (hf _).trans (h.boards cl)
  next => exact h.boards cl

theorem State.Aside.ite {p : Prop} [Decidable p] {t : State} (hs : a.Aside s) (ht : a.Aside t) : a.Aside (if p then s else t) := by
  split <;> assumption

theorem State.Aside.of_snd {p : α × State} {b : α} (e : p = (b, s)) (h : a.Aside p.2) : a.Aside s := by subst e; exact h

/-- A fold that carries the state in a part of its value. -/
theorem State.Aside.foldl_on {f : β → α → β} {l : List α} {b : β} (part : β → State)
    (hf : ∀ b x, a.Aside (part b) → a.Aside (part (f b x))) (h : a.Aside (part b)) : a.Aside (part (l.foldl f b)) := by
  induction l generalizing b with
  | nil => exact h
  | cons x l ih => exact ih (hf b x h)

theorem State.Aside.foldl {f : State → α → State} {l : List α} (hf : ∀ s x, a.Aside s → a.Aside (f s x)) (h : a.Aside s) :
    a.Aside (l.foldl f s) := .foldl_on id hf h

/-! ### The array and the homes -/

theorem State.Aside.flushBurst (h : a.Aside s) : a.Aside (flushBurst s block) := by
  unfold Machine.flushBurst
  split
  · exact .update h
  · exact h

theorem State.Aside.widen (h : a.Aside s) : a.Aside (s.widen off) := .update h
theorem State.Aside.mark (h : a.Aside s) : a.Aside (s.mark off n) := .update h

theorem State.Aside.engineStore (h : a.Aside s) : a.Aside (s.engineStore off n v poison) := .ite (.mark (.update h)) (.update h)

theorem State.Aside.portWrite (h : a.Aside s) : a.Aside (portWrite s pa n v owner) := by
  refine .ite (.update h) ?_
  dsimp only
  split
  · exact .ite (.update h) (.update (.flushBurst h))
  · exact .update h

theorem State.Aside.portRead (h : a.Aside s) : a.Aside (portRead s pa n).2.2 := .ite h (.flushBurst h)

theorem State.Aside.putLine {l : HomeLine} (h : a.Aside s) : a.Aside (putLine s line l) := .engineStore (.ite h (.flushBurst h))

theorem State.Aside.evictLine (h : a.Aside s) : a.Aside (evictLine s line).2 := by
  unfold Machine.evictLine
  split
  · exact h
  · dsimp only
    split
    · exact .putLine (.update h)
    · exact .update h

theorem State.Aside.makeRoom (h : a.Aside s) : a.Aside (makeRoom s pa) := .ite (.evictLine (.update h)) h

theorem State.Aside.keepLine {l : HomeLine} (h : a.Aside s) : a.Aside (keepLine s pa l) :=
  .ite (.update h) (.ite (.update (.makeRoom h)) (.ite (.putLine h) h))

theorem State.Aside.homeLine {keep : Bool} (h : a.Aside s) : a.Aside (homeLine s pa keep).2 := by
  unfold Machine.homeLine
  split
  · exact h
  · exact .ite (.keepLine (.portRead h)) (.portRead h)

theorem State.Aside.homeLoad (h : a.Aside s) : a.Aside (homeLoad s pol pa n).2.2 := by
  unfold Machine.homeLoad
  split
  · exact .portRead h
  · exact .homeLine h
  · exact .homeLine h

theorem State.Aside.homeStore (h : a.Aside s) : a.Aside (homeStore s pol pa n v owner) := by
  unfold Machine.homeStore
  split
  · exact .portWrite h
  · exact .keepLine (.homeLine h)
  · split
    · exact .update h
    · exact .portWrite h

/-! ### Answers, watches and queues -/

theorem State.Aside.postReply (h : a.Aside s) : a.Aside (postReply s c k w poison) := by
  unfold Machine.postReply
  split
  · exact .modSlot h
  · exact h

theorem Slot.program_vec (x : Slot) (y : Option VecAccess) : ({ x with vec := y } : Slot).program = x.program := rfl

theorem State.Aside.laneReply {ln : Nat} (h : a.Aside s) : a.Aside (laneReply s c k ln w poison) := by
  refine .modSlot h fun x => ?_
  split
  · exact x.program_vec _
  · rfl

theorem State.Aside.flightAnswer (h : a.Aside s) : a.Aside (f.answer s w poison) := by
  unfold Machine.Flight.answer
  split
  · unfold keepAnswer
    split
    · exact .ite (.update h) h
    · exact h
  · exact .postReply h
  · exact .laneReply h

theorem State.Aside.spoilPlace (h : a.Aside s) : a.Aside (spoilPlace s cl pol pa n) := by
  unfold Machine.spoilPlace
  split
  · exact .modCluster h
  · exact .mark h
  · exact .mark h
  · exact .update h

theorem State.Aside.trainPredictor {m : Nat} (h : a.Aside s) : a.Aside (trainPredictor s c k m) := .ite (.modCore h) h

theorem State.Aside.homeAnswer (h : a.Aside s) : a.Aside (f.homeAnswer s pa pol w poison) :=
  .ite (.trainPredictor (.flightAnswer (.ite (.spoilPlace h) h))) (.flightAnswer (.ite (.spoilPlace h) h))

/-- Watches that end do so as their values are read. -/
theorem State.Aside.endWatches {p : Watch → Bool} {value : State → Watch → Nat × Bool × State} (h : a.Aside s)
    (hvalue : ∀ t x, a.Aside t → a.Aside (value t x).2.2) : a.Aside (endWatches s p value) :=
  .foldl (fun _ _ ht => .ite (.trainPredictor (.postReply (hvalue _ _ ht))) (.postReply (hvalue _ _ ht))) (.update h)

theorem State.Aside.wakeGlobal {around : Bool} (h : a.Aside s) : a.Aside (wakeGlobal s g around) := by
  refine .endWatches h fun t x ht => ?_
  split
  · exact .portRead ht
  · exact .homeLoad ht

theorem State.Aside.grantOne (h : a.Aside s) : a.Aside (grantOne s g pol f).2 := by
  unfold Machine.grantOne
  dsimp only
  split
  · exact .homeAnswer (.modSlot (.homeLoad h))
  · refine .homeAnswer ?_
    split
    · exact .wakeGlobal (.homeStore (.homeLoad h))
    · exact .homeLoad h

theorem State.Aside.putQueue {q : Queue} (h : a.Aside s) : a.Aside (putQueue s q) := .ite (.update h) (.update h)

theorem State.Aside.homeWaits (h : a.Aside s) : a.Aside (homeWaits s pol pa f).2 := by
  unfold Machine.homeWaits snoopBlocked
  dsimp only
  split_ifs
  · exact h
  · exact h
  · split
    · exact .update h
    · exact h

theorem State.Aside.serveWaiters {l : List Flight} (h : a.Aside s) : a.Aside (serveWaiters g l s) := by
  induction l generalizing s with
  | nil => exact .update h
  | cons f rest ih =>
    unfold Machine.serveWaiters
    dsimp only
    split
    next e => exact .putQueue (.of_snd e (.homeWaits h))
    next e =>
      have h' := State.Aside.of_snd e (.homeWaits h)
      exact .ite (.putQueue (.grantOne h')) (ih (.grantOne h'))

theorem Slot.program_freed (x : Slot) (p : Prop) [Decidable p] :
    (if p then { x with reservation := .free } else x).program = x.program := by
  split <;> rfl

theorem State.Aside.passGranule (h : a.Aside s) : a.Aside (passGranule s g) := by
  unfold Machine.passGranule
  split
  · exact h
  · refine .serveWaiters ?_
    split
    · exact .modSlot h fun x => x.program_freed _
    · exact h

theorem State.Aside.endReservation (h : a.Aside s) : a.Aside (endReservation s c k) := by
  unfold Machine.endReservation
  split
  · exact h
  · exact .modSlot h
  · exact .passGranule (.modSlot h)

theorem State.Aside.noteGlobal {around : Bool} (h : a.Aside s) : a.Aside (noteGlobal s pa n around) :=
  .foldl (fun _ _ h => .wakeGlobal (.ite (.passGranule h) h)) h

/-! ### The tables of the device -/

theorem State.Alike.tablesOpen (h : a.Alike s) (ho : TablesOpen a) : TablesOpen s := by
  obtain ⟨hwants, hhost, hfree⟩ := ho
  obtain ⟨-, hw, hl, hp, ha⟩ : _ ∧ s.wants = a.wants ∧ s.hostLines = a.hostLines ∧ s.pchs = a.pchs ∧ s.apertures = a.apertures := by
    simpa only [State.setting, Prod.mk.injEq] using h.setting
  refine ⟨hw.trans hwants, hl.trans hhost, fun pa => ?_⟩
  rw [bankBusy_congr hp, apertureOf_congr ha]
  exact hfree pa

theorem State.Aside.recordLines {marks : Nat → Nat → Bool} (h : a.Aside s) : a.Aside (recordLines s 0 .homed pa n v marks) :=
  .noteGlobal (.foldl (fun _ _ h => .keepLine (.homeLine (.ite (.widen h) h))) h)

/-- Where the tables are open the device writes at once. -/
theorem State.Aside.tableWrite (h : a.Aside s) (ho : TablesOpen a) : a.Aside (tableWrite s pa n v poison) := by
  have hs := h.tablesOpen ho
  unfold Machine.tableWrite
  rw [(hs.2.2 pa).2]
  dsimp only
  split
  · simp only [arrayBlocked_open hs, hs.2.1, List.contains_nil, Bool.or_self, List.filter_false]
    exact .recordLines (.update h)
  · exact h

/-! ### Writes to scratchpads -/

theorem State.Aside.notePad (h : a.Aside s) : a.Aside (notePad s c off n) := by
  refine .endWatches (.foldl (fun _ _ h => .modSlot h fun x => ?_) h) fun _ _ h => h
  split
  · exact x.program_freed _
  · rfl

theorem State.Aside.padStore (h : a.Aside s) : a.Aside (padStore s c off n v) := .notePad (.update h)
theorem State.Aside.padEngineStore (h : a.Aside s) : a.Aside (padEngineStore s c off n v poison) := .notePad (.engineStore h)
theorem State.Aside.padRmwStore (h : a.Aside s) : a.Aside (padRmwStore s c off n v poison) := .ite (.mark (.padStore h)) (.padStore h)

/-! ### What is kept, part by part -/

theorem State.Alike.core (h : a.Alike s) : s.core = a.core := congrArg (fun x => x.1.1) h.setting
theorem State.Alike.slot (h : a.Alike s) : s.slot = a.slot := congrArg (fun x => x.1.2.1) h.setting
theorem State.Alike.clock (h : a.Alike s) : s.clock = a.clock := congrArg (fun x => x.1.2.2) h.setting
theorem State.Alike.wants (h : a.Alike s) : s.wants = a.wants := congrArg (fun x => x.2.1) h.setting

theorem State.Aside.groupOf (h : a.Aside s) (cl gi : Nat) : s.groupOf cl gi = a.groupOf cl gi :=
  congrArg (fun b : Table Group × List TaskRec × List TaskRec => b.1.get Group.blank gi) (h.boards cl)

theorem State.Alike.program (h : a.Alike s) : s.me.program = a.me.program := by
  rw [State.me, h.core, h.slot]
  exact h.programs _ _

end

end Sys2Proof.Machine

end

section

namespace Sys2Proof.Machine
open Claims

/-! ## Groups, answers and blocks of an instruction -/

section
variable {s u v : State} {i : Instr} {rd : BitVec 6} {w : Word} {bad : Bool}

theorem groupOf_setGroup (s : State) (cl gi : Nat) (g : Group) : (s.setGroup cl gi g).groupOf cl gi = g := by
  simp [State.groupOf, State.setGroup]

/-- What of a slot decides on its accesses. -/
def Slot.footing (x : Slot) : Vector Quad 8 × Option RoverHome × Option Nat × Reservation × BitVec 4 :=
  (x.sg, x.origin, x.capsule, x.reservation, x.ctag)

/-- `v` is `s` with an instruction noted in the issuing slot, with what its gacc has obtained, and with the words of a block read:
memory, its marks, the watches and the clusters are the same. -/
structure State.Reading (s v : State) : Prop where
  mem : v.mem = s.mem
  poison : v.poison = s.poison
  watches : v.watches = s.watches
  clusters : v.clusters = s.clusters
  folds : ∀ d, (v.coreOf d).fold = (s.coreOf d).fold
  footing : v.me.footing = s.me.footing
  aside : s.Aside v

theorem State.Reading.core (h : s.Reading v) : v.core = s.core := h.aside.core
theorem State.Reading.slot (h : s.Reading v) : v.slot = s.slot := h.aside.slot
theorem State.Reading.groupOf (h : s.Reading v) (cl gi : Nat) : v.groupOf cl gi = s.groupOf cl gi := h.aside.groupOf cl gi
theorem State.Reading.ctag (h : s.Reading v) : v.me.ctag = s.me.ctag := congrArg (fun x => x.2.2.2.2) h.footing
theorem State.Reading.reservation (h : s.Reading v) : v.me.reservation = s.me.reservation := congrArg (fun x => x.2.2.2.1) h.footing

/-- A change of the issuing slot alone. -/
theorem State.Reading.modMe {f : Slot → Slot} (h : s.Reading v) (hs : s.slot < 8) (hf : ∀ x, (f x).footing = x.footing := by intro; rfl)
    (hp : ∀ x, (f x).program = x.program := by intro; rfl) : s.Reading (v.modMe f) := by
  have hme : (v.modMe f).me = f v.me := State.me_modMe v f (h.slot ▸ hs)
  refine ⟨h.mem, h.poison, h.watches, h.clusters, fun d => ?_, by rw [hme, hf]; exact h.footing, h.aside.modSlot hp⟩
  rw [← h.folds d]
  exact State.coreOf_setSlot_fold ..

theorem State.Reading.refl (s : State) : s.Reading s := ⟨rfl, rfl, rfl, rfl, fun _ => rfl, rfl, .refl s⟩

theorem noted_reading (h : s.runs i = true) : s.Reading (s.noted i) := by
  rw [State.runs_noted h]
  exact (State.Reading.refl s).modMe (f := fun x => x.noting i) (State.runs_slot h)

theorem bankTurnAt_slotOf (s : State) (c off n d j : Nat) : (bankTurnAt s c off n).slotOf d j = s.slotOf d j := by
  rw [bankTurnAt]
  exact slotOf_modCore_slots (by intro; rfl) d j

theorem State.Aside.bankTurnAt {a : State} {c off n : Nat} (h : a.Aside s) : a.Aside (bankTurnAt s c off n) := .modCore h

theorem State.Reading.bankTurn (h : s.Reading v) (off n : Nat) : s.Reading (dropAnswers (bankTurnAt v v.core off n) v.core v.slot) := by
  have hme : (dropAnswers (bankTurnAt v v.core off n) v.core v.slot).me = v.me := bankTurnAt_slotOf ..
  refine ⟨h.mem, h.poison, h.watches, h.clusters, fun d => ?_, by rw [hme]; exact h.footing, .update (.bankTurnAt h.aside)⟩
  rw [← h.folds d]
  show ((bankTurnAt v v.core off n).coreOf d).fold = _
  rw [bankTurnAt, State.coreOf_modCore]
  split <;> rfl

/-! ### Answers -/

/-- The answer to an instruction: its slot waits, and the reply is there. -/
def repliedTo (s : State) (rd : BitVec 6) (w : Word) (bad : Bool) : State :=
  s.setMe { s.me with status := .memoryWait, wait := .reply (some rd) false, reply := some ⟨w, bad⟩ }

theorem answer_eq (hs : s.slot < 8) : answer rd w bad s = repliedTo (endReservation s s.core s.slot) rd w bad := by
  have hr : (endReservation s s.core s.slot).slot < 8 := by rw [((State.Aside.refl s).endReservation).slot]; exact hs
  have hwait (u : State) : awaitReply u (some rd) false =
      u.setMe { u.me with status := .memoryWait, wait := .reply (some rd) false, reply := none } := rfl
  have hcore : (endReservation s s.core s.slot).core = s.core := ((State.Aside.refl s).endReservation).core
  have hslot' : (endReservation s s.core s.slot).slot = s.slot := ((State.Aside.refl s).endReservation).slot
  rw [answer]
  generalize endReservation s s.core s.slot = u at *
  have hslot (x : Slot) : (u.setMe x).slotOf u.core u.slot = x := State.me_setMe _ _ hr
  rw [hwait, postReply, ← hcore, ← hslot', hslot]
  exact State.modMe_setMe u _ _ hr

theorem answer_free (hs : s.slot < 8) (hfree : s.me.reservation = .free) : answer rd w bad s = repliedTo s rd w bad := by
  rw [answer_eq hs, endReservation_free hfree]

theorem repliedTo_me (hs : s.slot < 8) : (repliedTo s rd w bad).me =
    { s.me with status := .memoryWait, wait := .reply (some rd) false, reply := some ⟨w, bad⟩ } := State.me_setMe _ _ hs

theorem State.Aside.repliedTo (h : u.Aside s) : u.Aside (repliedTo s rd w bad) :=
  h.modSlot (f := fun x => { x with status := .memoryWait, wait := .reply (some rd) false, reply := some ⟨w, bad⟩ })

theorem State.Aside.answer (h : u.Aside s) (hs : s.slot < 8) : u.Aside (answer rd w bad s) := by
  rw [answer_eq hs]
  exact .repliedTo h.endReservation

/-- An answer comes to an instruction that has left its thread's registers and PC alone. -/
theorem State.Alike.answers (h : s.Alike u) (hs : s.slot < 8) :
    Answers s (answer rd w false u) (some rd) w := by
  have hu : u.slot < 8 := h.slot ▸ hs
  have he := h.trans ((State.Aside.refl u).endReservation (c := u.core) (k := u.slot)).toAlike
  have hme := repliedTo_me (s := endReservation u u.core u.slot) (rd := rd) (w := w) (bad := false) (by rw [he.slot]; exact hs)
  obtain ⟨hg, hpc⟩ := Prod.mk.inj (h.trans ((State.Aside.refl u).answer (rd := rd) (w := w) (bad := false) hu).toAlike).program
  rw [answer_eq hu] at hg hpc ⊢
  exact ⟨he.core, he.slot, by rw [hme], by rw [hme], by rw [hme], hg, hpc⟩

end

/-! ### Blocks in the thread's own scratchpad -/

section
variable {s v : State} {a : Word} {n align off : Nat} {go : Nat → Bool → State → State}

theorem State.Reading.foldReg (h : s.Reading v) : foldReg v s.core s.slot = foldReg s s.core s.slot := by
  have horigin : (v.slotOf s.core s.slot).origin = (s.slotOf s.core s.slot).origin := by
    have := congrArg (fun x => x.2.1) h.footing
    rwa [State.me, h.core, h.slot] at this
  rw [Machine.foldReg, Machine.foldReg, horigin]
  simp only [ownFold, h.folds]

theorem State.Reading.slotCheck (h : s.Reading v) (r w x : Bool) :
    slotCheck v v.core v.slot a n r w x = slotCheck s s.core s.slot a n r w x := by
  have hfoot := h.footing
  rw [State.me, State.me, h.core, h.slot] at hfoot
  have hsg : (v.slotOf s.core s.slot).sg = (s.slotOf s.core s.slot).sg := congrArg (fun x => x.1) hfoot
  have hcap : (v.slotOf s.core s.slot).capsule = (s.slotOf s.core s.slot).capsule := congrArg (fun x => x.2.2.1) hfoot
  rw [h.core, h.slot, Machine.slotCheck, Machine.slotCheck, hsg]
  simp only [slotRebase, h.foldReg, capsuleExtent, hcap, bufTile, bufN, h.mem]

theorem State.Reading.blockCheck (h : s.Reading v) (hl : LocalBlock s a n align off true false) :
    blockCheck v v.core v.slot a n align true false = .ok .localPad off := by
  obtain ⟨hvalid, hr, -, hlen, halign, hsize, hspace, rfl, hend, -⟩ := hl
  have hsg : (v.slotOf v.core v.slot).sg = s.me.sg := congrArg (fun x => x.1) h.footing
  rw [Machine.blockCheck, h.slotCheck, hsg]
  rw [if_neg, if_neg (by simp [halign])]
  · exact accessCheck_local hvalid hr nofun nofun hlen hsize hspace hend
  · simp only [hvalid, hr rfl, Bool.not_true, Bool.and_false, Bool.false_and, Bool.false_or, decide_eq_true_eq]
    omega

/-- A block in the thread's own scratchpad is read at once. -/
theorem State.Reading.withBlock (h : s.Reading v) (hl : LocalBlock s a n align off true false) :
    withBlock v a n align go = go (s.mem.readN (padAddr s.core off) n) (poisonedIn s.poison (padAddr s.core off) n)
      (dropAnswers (bankTurnAt v v.core off n) v.core v.slot) := by
  have hhome : padHome v.core (v.slotOf v.core v.slot) = v.core := by
    obtain ⟨-, -, -, -, -, -, -, -, -, hnone⟩ := hl
    have horigin : (v.slotOf v.core v.slot).origin = s.me.origin := congrArg (fun x => x.2.1) h.footing
    rw [padHome, horigin, hnone]
    rfl
  have hload : v.load (padAddr v.core off) n = (s.mem.readN (padAddr s.core off) n, poisonedIn s.poison (padAddr s.core off) n) := by
    rw [State.load, h.mem, h.poison, h.core]
  rw [Machine.withBlock, readBlock, h.blockCheck hl]
  simp only [hhome, if_true, hload]
  rfl

end

end Sys2Proof.Machine

end

section

namespace Sys2Proof.Machine
open Claims

/-! ## Writes to scratchpads, and the reservation of the issuing slot -/

/-- `s` comes from `a` by writes to scratchpads: no reservation begins. -/
structure State.Padded (a s : State) : Prop where
  aside : a.Aside s
  free : ∀ d j, (a.slotOf d j).reservation = .free → (s.slotOf d j).reservation = .free

section
variable {a s t : State} {c k off n v : Nat} {poison : Bool}

theorem State.Padded.refl (a : State) : a.Padded a := ⟨.refl a, fun _ _ h => h⟩

theorem State.Padded.trans (h : a.Padded s) (h' : s.Padded t) : a.Padded t :=
  ⟨h.aside.trans h'.aside, fun d j hf => h'.free d j (h.free d j hf)⟩

theorem State.Padded.me_free (h : a.Padded s) (hf : a.me.reservation = .free) : s.me.reservation = .free := by
  rw [State.me, h.aside.core, h.aside.slot]
  exact h.free _ _ hf

theorem State.Padded.update (h : a.Padded s) (hset : t.setting = s.setting := by rfl) (hclusters : t.clusters = s.clusters := by rfl)
    (hcores : t.cores = s.cores := by rfl) : a.Padded t :=
  ⟨h.aside.update hset hclusters hcores, fun d j hf => by rw [State.slotOf, State.coreOf, hcores]; exact h.free d j hf⟩

theorem State.Padded.modSlot {f : Slot → Slot} (h : a.Padded s) (hp : ∀ x, (f x).program = x.program := by intro; rfl)
    (hr : ∀ x, x.reservation = .free → (f x).reservation = .free := by intro _ h; exact h) : a.Padded (s.modSlot c k f) := by
  refine ⟨h.aside.modSlot hp, fun d j hf => ?_⟩
  rw [State.modSlot, State.slotOf_setSlot]
  split
  next e =>
    obtain ⟨rfl, rfl, -⟩ := e
    exact hr _ (h.free _ _ hf)
  next => exact h.free d j hf

theorem State.Padded.foldl {α : Type} {f : State → α → State} {l : List α} (h : a.Padded s) (hf : ∀ s x, a.Padded s → a.Padded (f s x)) :
    a.Padded (l.foldl f s) :=
  List.foldlRecOn l f h fun t ht x _ => hf t x ht

theorem State.Padded.postReply {w : Word} (h : a.Padded s) : a.Padded (postReply s c k w poison) := by
  unfold Machine.postReply
  split
  · exact h.modSlot
  · exact h

theorem State.Padded.clearMonitor {u : Nat × Nat} (h : a.Padded s) : a.Padded (clearMonitor off n s u) := by
  refine h.modSlot (fun x => ?_) fun x hx => ?_
  · split
    · exact x.program_freed _
    · rfl
  · rw [hx]
    exact hx

theorem State.Padded.notePad (h : a.Padded s) : a.Padded (notePad s c off n) := by
  have hmonitors : a.Padded ((padUsers s c).foldl (Machine.clearMonitor off n) s) := h.foldl fun _ _ h => h.clearMonitor
  rw [Machine.notePad, endWatches_pad fun w hw => by simp_all]
  exact State.Padded.foldl hmonitors.update fun _ _ h => h.postReply

theorem State.Padded.mark (h : a.Padded s) : a.Padded (s.mark off n) := h.update

theorem State.Padded.engineStore (h : a.Padded s) : a.Padded (s.engineStore off n v poison) := by
  cases poison
  · exact h.update
  · exact h.update

theorem State.Padded.padStore (h : a.Padded s) : a.Padded (padStore s c off n v) := State.Padded.notePad h.update
theorem State.Padded.padEngineStore (h : a.Padded s) : a.Padded (padEngineStore s c off n v poison) := h.engineStore.notePad

theorem State.Padded.padRmwStore (h : a.Padded s) : a.Padded (padRmwStore s c off n v poison) := by
  unfold Machine.padRmwStore
  split
  · exact h.padStore.mark
  · exact h.padStore

theorem padStore_mem (s : State) (c off n v : Nat) : (padStore s c off n v).mem = s.mem.writeN (padAddr c off) n v :=
  (padStore_along c off n v).2

theorem padEngineStore_mem (s : State) (c off n v : Nat) (poison : Bool) :
    (padEngineStore s c off n v poison).mem = s.mem.writeN (padAddr c off) n v := by
  rw [padEngineStore, (notePad_spec c off n).2, State.engineStore_mem]

theorem padRmwStore_mem (s : State) (c off n v : Nat) (poison : Bool) :
    (padRmwStore s c off n v poison).mem = s.mem.writeN (padAddr c off) n v := by
  cases poison
  · exact padStore_mem s c off n v
  · exact (State.mark_mem ..).trans (padStore_mem s c off n v)

end

/-! ## The statistics of a group in memory -/

/-- The first byte of a buffer. -/
def statBase (cl : Nat) (g : Group) (one : Bool) : Nat := padAddr (statCore cl g) (g.buffer one)

/-- The bytes of a buffer: its count and two words for each element. -/
def Group.statBytes (g : Group) : Nat := 4 + 8 * g.e.toNat

section
variable {s t : State} {cl : Nat} {g : Group} {one : Bool}

theorem statAt_eq (s : State) (cl : Nat) (g : Group) (one : Bool) (off : Nat) :
    statAt s cl g one off = s.mem.readN (statBase cl g one + off) 4 := by
  have hadd : padAddr (statCore cl g) (g.buffer one + off) = statBase cl g one + off := (Nat.add_assoc ..).symm
  rw [← hadd]
  rfl

theorem statAt_congr (h : t.mem = s.mem) (cl : Nat) (g : Group) (one : Bool) (off : Nat) :
    statAt t cl g one off = statAt s cl g one off := by
  rw [statAt, statAt, h]

theorem statAt_lt (s : State) (cl : Nat) (g : Group) (one : Bool) (off : Nat) : statAt s cl g one off < 2 ^ 32 :=
  s.mem.readN_lt _ 4

theorem stateWord_statRun (s : State) (cl : Nat) (g : Group) (one : Bool) (off : Nat) :
    (stateWord s (statRun cl g one) off).1 = statAt s cl g one off := rfl

theorem statCount_eq (s : State) (cl : Nat) (g : Group) (one : Bool) : (statCount s cl g one).1 = statAt s cl g one 0 := rfl

theorem Memory.readN_of_zero (m : Memory) {a n : Nat} (h : ∀ i, i < n → m.read (a + i) = 0) : m.readN a n = 0 := by
  induction n generalizing a with
  | zero => rfl
  | succ n ih =>
    rw [Memory.readN, ih fun i hi => by rw [Nat.add_assoc, Nat.add_comm 1]; exact h (i + 1) (by omega),
      show m.read a = 0 from h 0 (by omega)]
    rfl

/-! ### A buffer cleared -/

theorem zeroBuffer_mem (s : State) (cl : Nat) (g : Group) (one : Bool) :
    (zeroBuffer s cl g one).mem = s.mem.writeN (statBase cl g one) g.statBytes 0 := padEngineStore_mem ..

theorem zeroBuffer_padded (s : State) (cl : Nat) (g : Group) (one : Bool) : s.Padded (zeroBuffer s cl g one) :=
  (State.Padded.refl s).padEngineStore

theorem zeroBuffer_read_outside {a : Nat} (h : a < statBase cl g one ∨ statBase cl g one + g.statBytes ≤ a) :
    (zeroBuffer s cl g one).mem.read a = s.mem.read a := by
  rw [zeroBuffer_mem]
  exact Memory.read_writeN_outside _ _ h

theorem zeroBuffer_read {a : Nat} (h : statBase cl g one ≤ a ∧ a < statBase cl g one + g.statBytes) :
    (zeroBuffer s cl g one).mem.read a = 0 := by
  rw [zeroBuffer_mem, Memory.read_writeN, if_pos h]
  simp

/-- Every word of a buffer that has been cleared is zero, another buffer having been cleared after it or not. -/
theorem statAt_zeroBuffer {k : Nat} (hk : k ≤ 2 * g.e.toNat) : statAt (zeroBuffer s cl g one) cl g one (4 * k) = 0 := by
  rw [statAt_eq]
  exact Memory.readN_of_zero _ fun i hi => zeroBuffer_read ⟨by omega, by rw [Group.statBytes]; omega⟩

theorem statAt_zeroBuffers {k : Nat} (hk : k ≤ 2 * g.e.toNat) :
    statAt (zeroBuffer (zeroBuffer s cl g false) cl g true) cl g one (4 * k) = 0 := by
  cases one with
  | true => exact statAt_zeroBuffer hk
  | false =>
    rw [statAt_eq]
    refine Memory.readN_of_zero _ fun i hi => ?_
    by_cases hin : statBase cl g true ≤ statBase cl g false + 4 * k + i ∧ statBase cl g false + 4 * k + i < statBase cl g true + g.statBytes
    · exact zeroBuffer_read hin
    · rw [zeroBuffer_read_outside (by omega)]
      exact zeroBuffer_read ⟨by omega, by rw [Group.statBytes]; omega⟩

end

end Sys2Proof.Machine

end

section

namespace Sys2Proof.Machine
open Claims

/-! ## Welford updates of a buffer (R64, R416) -/

/-- A step's effect on memory: element `e` of the state at `b` takes input `x`, and the first element writes the count `n`. -/
def welMem (b n e x : Nat) (m : Memory) : Memory :=
  let u := welford n (m.readN (b + (4 + 8 * e)) 4) (m.readN (b + (8 + 8 * e)) 4) x
  ((if e = 0 then m.writeN b 4 n else m).writeN (b + (4 + 8 * e)) 4 u.1).writeN (b + (8 + 8 * e)) 4 u.2.1

section
variable {a s : State} {cl : Nat} {g : Group} {one : Bool} {n e x : Nat} {p : Bool} {told : Told}

theorem putState_mem (s : State) (cl : Nat) (g : Group) (one : Bool) (off v : Nat) (p : Bool) :
    (putState s (statRun cl g one) off v p).mem = s.mem.writeN (statBase cl g one + off) 4 v := by
  have hadd : padAddr (statCore cl g) (g.buffer one + off) = statBase cl g one + off := (Nat.add_assoc ..).symm
  rw [← hadd]
  exact padRmwStore_mem ..

theorem State.Padded.putState {off v : Nat} (h : a.Padded s) : a.Padded (putState s (statRun cl g one) off v p) := h.padRmwStore

/-- The count as the first element of a step writes it. -/
def putCount (s : State) (cl : Nat) (g : Group) (one : Bool) (n e : Nat) : State :=
  if e = 0 then padStore s (statCore cl g) (g.buffer one) 4 n else s

theorem welStep_eq (n e x : Nat) (p : Bool) (told : Told) (s : State) :
    let u := welford n (statAt s cl g one (4 + 8 * e)) (statAt s cl g one (8 + 8 * e)) x
    ∃ q, (welStep (statRun cl g one) n e x p told s).2 =
      putState (putState (putCount s cl g one n e) (statRun cl g one) (4 + 8 * e) u.1 q) (statRun cl g one) (8 + 8 * e) u.2.1 q :=
  ⟨_, rfl⟩

theorem welStep_mem : (welStep (statRun cl g one) n e x p told s).2.mem = welMem (statBase cl g one) n e x s.mem := by
  obtain ⟨q, hq⟩ := welStep_eq (cl := cl) (g := g) (one := one) n e x p told s
  have hcount : (putCount s cl g one n e).mem = if e = 0 then s.mem.writeN (statBase cl g one) 4 n else s.mem := by
    unfold putCount
    split
    · exact padStore_mem ..
    · rfl
  rw [hq, putState_mem, putState_mem, hcount, statAt_eq, statAt_eq, welMem]

theorem State.Padded.welStep (h : a.Padded s) : a.Padded (welStep (statRun cl g one) n e x p told s).2 := by
  obtain ⟨q, hq⟩ := welStep_eq (cl := cl) (g := g) (one := one) n e x p told s
  have hcount : a.Padded (putCount s cl g one n e) := by
    unfold putCount
    split
    · exact h.padStore
    · exact h
  rw [hq]
  exact hcount.putState.putState

end

/-! ### The elements of a contribution in order -/

/-- The first `k` elements of a contribution at their place in memory. -/
def welMems (b n words : Nat) (m : Memory) (k : Nat) : Memory :=
  (List.range k).foldl (fun m e => welMem b n e (bytesAt words (4 * e) 4) m) m

section
variable {b n words k e : Nat} {m : Memory}

theorem welMems_succ (b n words : Nat) (m : Memory) (k : Nat) :
    welMems b n words m (k + 1) = welMem b n k (bytesAt words (4 * k) 4) (welMems b n words m k) := by
  rw [welMems, List.range_succ, List.foldl_append]
  rfl

/-- A step changes nothing but its element and, if it is the first, the count. -/
theorem welMem_readN {x c j : Nat} (hout : c + j ≤ b + (4 + 8 * e) ∨ b + (4 + 8 * e) + 8 ≤ c) (hcount : e = 0 → c + j ≤ b ∨ b + 4 ≤ c) :
    (welMem b n e x m).readN c j = m.readN c j := by
  have hfirst : (if e = 0 then m.writeN b 4 n else m).readN c j = m.readN c j := by
    split
    next he => exact Memory.readN_writeN_apart m n (hcount he)
    next => rfl
  rw [welMem, Memory.readN_writeN_apart _ _ (by omega), Memory.readN_writeN_apart _ _ (by omega), hfirst]

theorem welMem_count {x : Nat} : (welMem b n 0 x m).readN b 4 = n % 2 ^ 32 := by
  rw [welMem, Memory.readN_writeN_apart _ _ (by omega), Memory.readN_writeN_apart _ _ (by omega), if_pos rfl, Memory.readN_writeN]
  rfl

theorem welMem_element (x : Nat) (m : Memory) :
    let u := welford n (m.readN (b + (4 + 8 * e)) 4) (m.readN (b + (8 + 8 * e)) 4) x
    (welMem b n e x m).readN (b + (4 + 8 * e)) 4 = u.1 % 2 ^ 32 ∧ (welMem b n e x m).readN (b + (8 + 8 * e)) 4 = u.2.1 % 2 ^ 32 := by
  dsimp only
  rw [welMem, Memory.readN_writeN_apart _ _ (by omega), Memory.readN_writeN, Memory.readN_writeN]
  exact ⟨rfl, rfl⟩

/-- Elements that have not come yet, and all that lies outside the buffer, are as before. -/
theorem welMems_readN {c j : Nat} (hout : c + j ≤ b ∨ b + (4 + 8 * k) ≤ c) : (welMems b n words m k).readN c j = m.readN c j := by
  induction k with
  | zero => rfl
  | succ k ih => rw [welMems_succ, welMem_readN (by omega) (by omega), ih (by omega)]

theorem welMems_count (hk : 0 < k) : (welMems b n words m k).readN b 4 = n % 2 ^ 32 := by
  induction k with
  | zero => omega
  | succ k ih =>
    rw [welMems_succ]
    obtain rfl | hpos := Nat.eq_zero_or_pos k
    · exact welMem_count
    · rw [welMem_readN (by omega) (by omega), ih hpos]

theorem welMems_element (he : e < k) :
    let u := welford n (m.readN (b + (4 + 8 * e)) 4) (m.readN (b + (8 + 8 * e)) 4) (bytesAt words (4 * e) 4)
    (welMems b n words m k).readN (b + (4 + 8 * e)) 4 = u.1 % 2 ^ 32 ∧
      (welMems b n words m k).readN (b + (8 + 8 * e)) 4 = u.2.1 % 2 ^ 32 := by
  induction k with
  | zero => omega
  | succ k ih =>
    rw [welMems_succ]
    obtain rfl | hlt := Nat.eq_or_lt_of_le (Nat.le_of_lt_succ he)
    · have h := welMem_element (b := b) (n := n) (e := e) (bytesAt words (4 * e) 4) (welMems b n words m e)
      rwa [welMems_readN (by omega), welMems_readN (by omega)] at h
    · rw [welMem_readN (by omega) (by omega), welMem_readN (by omega) (by omega)]
      exact ih hlt

end

/-! ### Results of a Welford update -/

theorem rounded_fp32_lt (m : Mode) (rnd : Nat) (r : Val × BitVec 7) : (rounded fp32 m rnd r).1 < 2 ^ 32 := roundTo_fp32_lt m rnd r.1

theorem welford_lt (n mean m2 x : Nat) : (welford n mean m2 x).1 < 2 ^ 32 ∧ (welford n mean m2 x).2.1 < 2 ^ 32 :=
  ⟨rounded_fp32_lt .rne 0 _, rounded_fp32_lt .rne 0 _⟩

/-! ### A contribution -/

section
variable {s : State} {cl : Nat} {g : Group} {one : Bool} {words : Nat}

/-- A contribution below the greatest count: what it leaves in memory and of the rest. -/
theorem welfordAll_spec (hn : statAt s cl g one 0 ≠ 2 ^ 32 - 1) :
    (welfordAll (statRun cl g one) words s).2.mem =
        welMems (statBase cl g one) (statAt s cl g one 0 + 1) words s.mem g.e.toNat ∧
      s.Padded (welfordAll (statRun cl g one) words s).2 := by
  have hfull : welFull (statRun cl g one) s = none := if_neg hn
  rw [welfordAll, hfull]
  show _ = welMems _ _ _ _ (statRun cl g one).count ∧ _
  generalize (statRun cl g one).count = k
  dsimp only
  induction k with
  | zero => exact ⟨rfl, .refl s⟩
  | succ k ih =>
    rw [List.range_succ, List.foldl_append, welMems_succ]
    obtain ⟨hmem, hpad⟩ := ih
    exact ⟨by rw [← hmem]; exact welStep_mem, hpad.welStep⟩

end

end Sys2Proof.Machine

end

section

namespace Sys2Proof.Machine
open Claims

/-! ## Closing a group (R417–R419) -/

section
variable {a s : State} {cl gi cause : Nat} {r : TaskRec} {g : Group}

theorem groupOf_modCluster {c : Nat} {f : Cluster → Cluster} (cl gi : Nat) (hf : ∀ x, (f x).groups = x.groups := by intro; rfl) :
    (s.modCluster c f).groupOf cl gi = s.groupOf cl gi := by
  rw [State.groupOf, State.clusterAt_modCluster]
  split
  · rw [hf]; rfl
  · rfl

theorem State.Alike.setGroup (h : a.Alike s) : a.Alike (s.setGroup cl gi g) := h.modCluster

/-- A record that is submitted leaves the groups alone. -/
theorem submitTask_spec (ho : TablesOpen s) (cl : Nat) (r : TaskRec) :
    s.Alike (submitTask s cl r).2 ∧ ∀ d gi, (submitTask s cl r).2.groupOf d gi = s.groupOf d gi := by
  have hsame : s.Alike s ∧ ∀ d gi, s.groupOf d gi = s.groupOf d gi := ⟨.refl s, fun _ _ => rfl⟩
  unfold submitTask bankEnter
  dsimp only
  split_ifs
  · exact hsame
  · exact hsame
  · dsimp only
    exact ⟨.modCluster (.refl s), fun d gi => groupOf_modCluster d gi⟩
  · have hwrite (pa : Nat) : s.Aside (tableWrite s pa 64 r.data.toNat r.poison) := (State.Aside.refl s).tableWrite ho
    dsimp only
    exact ⟨(hwrite _).toAlike.modCluster, fun d gi => (groupOf_modCluster d gi).trans ((hwrite _).groupOf d gi)⟩
  · exact hsame

/-- The apply task's submission notes in the group whether it has to be tried again. -/
theorem submitApply_spec (ho : TablesOpen s) (cl gi : Nat) (r : TaskRec) :
    s.Alike (submitApply s cl gi r) ∧ (submitApply s cl gi r).groupOf cl gi =
      { s.groupOf cl gi with retry := if (submitTask s cl r).1 < 2 then none else some r, retryAt := s.clock } := by
  obtain ⟨halike, hgroup⟩ := submitTask_spec ho cl r
  refine ⟨halike.setGroup, ?_⟩
  unfold submitApply
  rw [groupOf_setGroup, hgroup, halike.clock]

theorem writeJournal_aside (ho : TablesOpen s) : s.Aside (writeJournal s cl g cause) :=
  .tableWrite (.tableWrite (.foldl (fun _ _ h => h.tableWrite ho) (.refl s)) ho) ho

/-- A group that begins to close. -/
def Group.closes (g : Group) : Group := { g with state := 2, closing := g.closing + 1 }

/-- The group's closing, with its journal written if it has one. -/
def journaled (s : State) (cl gi : Nat) (g : Group) (cause : Nat) : State :=
  let s := s.setGroup cl gi g
  if g.journal = 0 then s else (writeJournal s cl g cause).setGroup cl gi { g with jcount := g.jcount + 1 }

theorem closeGroup_eq (s : State) (cl gi cause : Nat) : closeGroup s cl gi cause =
    let g := (s.groupOf cl gi).closes
    submitApply (journaled s cl gi g cause) cl gi (applyTask (journaled s cl gi g cause) cl gi g cause) := rfl

theorem journaled_spec (ho : TablesOpen s) (cl gi cause : Nat) (g : Group) :
    s.Alike (journaled s cl gi g cause) ∧ ((journaled s cl gi g cause).groupOf cl gi).state = g.state := by
  have hset : s.Alike (s.setGroup cl gi g) := (State.Alike.refl s).setGroup
  unfold journaled
  dsimp only
  split
  · exact ⟨hset, by rw [groupOf_setGroup]⟩
  · exact ⟨(hset.trans (writeJournal_aside (hset.tablesOpen ho)).toAlike).setGroup, by rw [groupOf_setGroup]⟩

theorem closeGroup_spec (ho : TablesOpen s) :
    s.Alike (closeGroup s cl gi cause) ∧ ((closeGroup s cl gi cause).groupOf cl gi).state = 2 := by
  obtain ⟨halike, hclosing⟩ := journaled_spec ho cl gi cause (s.groupOf cl gi).closes
  rw [closeGroup_eq]
  dsimp only
  generalize journaled s cl gi (s.groupOf cl gi).closes cause = u at *
  obtain ⟨hsubmit, hgroup⟩ := submitApply_spec (halike.tablesOpen ho) cl gi (applyTask u cl gi (s.groupOf cl gi).closes cause)
  exact ⟨halike.trans hsubmit, by rw [hgroup]; exact hclosing⟩

theorem storeSnr_groupOf (s : State) (cl gi : Nat) : (storeSnr s cl gi).groupOf cl gi =
    { s.groupOf cl gi with snr := .ofNat 32 (currentSnr s cl (s.groupOf cl gi)) } := groupOf_setGroup ..

/-- The count that the close test looks at. -/
theorem statCount_storeSnr (s : State) (cl gi : Nat) :
    (statCount (storeSnr s cl gi) cl ((storeSnr s cl gi).groupOf cl gi) ((storeSnr s cl gi).groupOf cl gi).v).1 =
      statAt s cl (s.groupOf cl gi) (s.groupOf cl gi).v 0 := by
  rw [storeSnr_groupOf]
  rfl

/-- A close that is asked for, or whose greatest count is reached, whatever the figure. -/
theorem closeBy_closes {asked : Bool} (ho : TablesOpen s)
    (hclose : asked = true ∨ (s.groupOf cl gi).nmax.toNat ≤ statAt s cl (s.groupOf cl gi) (s.groupOf cl gi).v 0) :
    s.Alike (closeBy s cl gi asked) ∧ ((closeBy s cl gi asked).groupOf cl gi).state = 2 := by
  have hsnr : s.Alike (storeSnr s cl gi) := (State.Alike.refl s).setGroup
  have hclosed (cause : Nat) := closeGroup_spec (cl := cl) (gi := gi) (cause := cause) (hsnr.tablesOpen ho)
  have hnmax : ((storeSnr s cl gi).groupOf cl gi).nmax = (s.groupOf cl gi).nmax := by rw [storeSnr_groupOf]
  unfold closeBy
  dsimp only
  rw [statCount_storeSnr, hnmax]
  split_ifs with hreaches hmax hasked
  · exact ⟨hsnr.trans (hclosed 1).1, (hclosed 1).2⟩
  · exact ⟨hsnr.trans (hclosed 2).1, (hclosed 2).2⟩
  · exact ⟨hsnr.trans (hclosed 3).1, (hclosed 3).2⟩
  · obtain h | h := hclose
    · exact absurd h hasked
    · exact absurd h hmax

theorem closeTest_closes (ho : TablesOpen s)
    (hmax : (s.groupOf cl gi).nmax.toNat ≤ statAt s cl (s.groupOf cl gi) (s.groupOf cl gi).v 0) :
    s.Alike (closeTest s cl gi) ∧ ((closeTest s cl gi).groupOf cl gi).state = 2 := closeBy_closes ho (.inr hmax)

/-- Below both bounds a group stays open, with its new figure. -/
theorem closeTest_open (hmin : statAt s cl (s.groupOf cl gi) (s.groupOf cl gi).v 0 < (s.groupOf cl gi).nmin.toNat)
    (hmax : statAt s cl (s.groupOf cl gi) (s.groupOf cl gi).v 0 < (s.groupOf cl gi).nmax.toNat) :
    closeTest s cl gi = storeSnr s cl gi := by
  have hbounds : ((storeSnr s cl gi).groupOf cl gi).nmin = (s.groupOf cl gi).nmin ∧
      ((storeSnr s cl gi).groupOf cl gi).nmax = (s.groupOf cl gi).nmax := by
    rw [storeSnr_groupOf]
    exact ⟨rfl, rfl⟩
  obtain ⟨hnmin, hnmax⟩ := hbounds
  unfold closeTest closeBy
  dsimp only
  rw [statCount_storeSnr, hnmin, hnmax, if_neg (by simp [hmin]), if_neg (by omega), if_neg Bool.false_ne_true]

end

/-! ## Contributions (R232, R416) -/

section
variable {a s : State} {cl gi tag words : Nat} {g : Group} {poison : Bool}

theorem State.Padded.consumeIf {c k : Nat} (h : a.Padded s) : a.Padded (consumeIf s c k poison) := by
  unfold Machine.consumeIf consumePoison
  split
  · exact (h.modSlot (f := fun x => { x with pois := true })).update
  · exact h

theorem consumeIf_mem (s : State) (c k : Nat) (p : Bool) : (consumeIf s c k p).mem = s.mem := by cases p <;> rfl

/-- A contribution added to a buffer, before the close test. -/
def contributed (s : State) (cl : Nat) (g : Group) (one : Bool) (words : Nat) : State :=
  let (t, u) := welfordAll (statRun cl g one) words s
  consumeIf (u.modMe fun x => x.raise t.flags) u.core u.slot t.poison

theorem contributed_mem (s : State) (cl : Nat) (g : Group) (one : Bool) (words : Nat) :
    (contributed s cl g one words).mem = (welfordAll (statRun cl g one) words s).2.mem := by
  rw [contributed, consumeIf_mem]
  rfl

theorem contributed_padded {one : Bool} (hn : statAt s cl g one 0 ≠ 2 ^ 32 - 1) : s.Padded (contributed s cl g one words) :=
  (welfordAll_spec hn).2.modSlot.consumeIf

/-- The buffer that takes contributions: of a group that is not open, the other one. -/
def Group.taking (g : Group) : Bool := if g.state = 1 then g.v else !g.v

/-- One more stale contribution. -/
def Group.staler (g : Group) : Group := { g with stale := .ofNat 32 (min (g.stale.toNat + 1) (2 ^ 32 - 1)) }

theorem contribute_stale (h : inWindow (s.groupOf cl gi) tag = false) :
    contribute s cl gi tag words poison = (1, s.setGroup cl gi (s.groupOf cl gi).staler) := by
  unfold contribute Group.staler
  simp only [h, Bool.not_false, if_true]

theorem contribute_poisoned (h : inWindow (s.groupOf cl gi) tag = true) :
    contribute s cl gi tag words true = (4, consumePoison s s.core s.slot) := by
  unfold contribute
  simp only [h, Bool.not_true, Bool.false_eq_true, if_false, if_true]

theorem contribute_accepted (h : inWindow (s.groupOf cl gi) tag = true) :
    contribute s cl gi tag words false = if (s.groupOf cl gi).state = 1
      then (0, closeTest (contributed s cl (s.groupOf cl gi) (s.groupOf cl gi).taking words) cl gi)
      else (2, contributed s cl (s.groupOf cl gi) (s.groupOf cl gi).taking words) := by
  unfold contribute Group.taking
  simp only [h, Bool.not_true, Bool.false_eq_true, if_false, beq_iff_eq]
  rfl

theorem inWindow_iff : inWindow g tag = true ↔
    (if g.state = 1 then g.s.toNat else g.s.toNat + 1) - g.w.toNat ≤ tag ∧ tag ≤ g.s.toNat := by
  simp [inWindow]

end

end Sys2Proof.Machine

end

section

namespace Sys2Proof.Machine
open Claims

/-! ## gacc with its words in the thread's scratchpad (R232, R416) -/

section
variable {rd ra rb : BitVec 6} {s v : State} {off cl gi tag words : Nat} {g : Group} {bad : Bool}

theorem runs_alone {i : Instr} (h : s.runs i = true) : s.me.pair = .alone := by
  obtain ⟨-, -, -, -, -, -, hpair, -⟩ := Slot.steady_fields (State.runs_steady h)
  exact hpair

theorem noted_alone {i : Instr} (h : s.runs i = true) : (s.noted i).me.pair = .alone := by
  rw [me_noted h]
  exact runs_alone h

theorem noted_gacc {i : Instr} (h : s.runs i = true) : (s.noted i).me.gacc = none := by
  obtain ⟨-, -, -, -, -, -, -, -, -, -, -, -, -, -, -, -, hgacc, -⟩ := Slot.steady_fields (State.runs_steady h)
  rw [me_noted h]
  exact hgacc

/-- A thread's group instruction on a malformed word traps. -/
theorem noted_trap_wants {i : Instr} (h : s.runs i = true) (hfree : s.me.reservation = .free) :
    (trapHere (s.noted i) .illegalOperand).wants = [] := by
  rw [trapHere_wants (by rw [me_noted h]; exact hfree) (noted_alone h), noted_wants h]

theorem groupWordBad_iff (w : Word) (hi : Nat) : groupWordBad w hi = true ↔ bitsOf w hi 13 ≠ 0 ∨ 79 < bitsOf w 12 6 := by
  simp [groupWordBad]

theorem serves_iff (g : Group) (ctag : BitVec 4) : g.serves ctag = true ↔ g.state ≠ 0 ∧ g.ctag = ctag := by
  simp [Group.serves]

/-- A step of the device whose body comes to a state like that before it. -/
theorem deviceStep_alike {i : Instr} {t : State} {body : State → State} (h : s.runs i = true) (hbody : body (s.noted i) = t)
    (ht : s.Alike t) : deviceStep (issue i · body) s = .next t :=
  deviceStep_issue h hbody (ht.wants.trans (State.runs_wants h))

/-- Word and data of a gacc, the word well formed. -/
theorem gacc_body (h : s.runs (.gacc rd ra rb) = true) (hword : groupWordBad (s.me.readG ra.toNat) 31 = false) {t : State}
    (ht : gaccOp rd (s.me.readG ra.toNat) (s.me.readG rb.toNat) (s.noted (.gacc rd ra rb)) = t) (halike : s.Alike t) :
    exec (.gacc rd ra rb) s = .next t := by
  refine deviceStep_alike h ?_ halike
  dsimp only
  rw [gval_noted h, gval_noted h, hword, if_neg Bool.false_ne_true, outward_alone (noted_alone h), ht]

theorem gacc_illegal (h : s.runs (.gacc rd ra rb) = true) (hfree : s.me.reservation = .free)
    (hword : groupWordBad (s.me.readG ra.toNat) 31 = true) :
    exec (.gacc rd ra rb) s = .next (trapHere (s.noted (.gacc rd ra rb)) .illegalOperand) := by
  refine deviceStep_issue h ?_ (noted_trap_wants h hfree)
  dsimp only
  rw [gval_noted h, hword, if_pos rfl]

/-- A gacc on a group that is not configured for its thread's context. -/
theorem gaccOp_foreign (h : s.runs (.gacc rd ra rb) = true) {w gb : Word} (hw : wordGroup w = (cl, gi))
    (hserves : (s.groupOf cl gi).serves s.me.ctag = false) :
    gaccOp rd w gb (s.noted (.gacc rd ra rb)) = answer rd 3 false (s.noted (.gacc rd ra rb)) := by
  have hr := noted_reading h
  unfold gaccOp
  rw [hw]
  dsimp only
  rw [noted_gacc h, hr.groupOf, hr.ctag, hserves, if_pos (by simp)]

/-- What gacc answers for a contribution, and what it leaves. -/
def contributes (rd : BitVec 6) (v : State) (cl gi tag words : Nat) (bad : Bool) : State :=
  let (st, u) := contribute v cl gi tag words bad
  answer rd (.ofNat 64 st) false u

/-- gacc for a group configured for its thread's context: the words are read and the contribution is judged. -/
theorem gaccOp_judged (h : s.runs (.gacc rd ra rb) = true) {w gb : Word} (hw : wordGroup w = (cl, gi)) (hg : s.groupOf cl gi = g)
    (hserves : g.serves s.me.ctag = true) (hblock : LocalBlock s gb (4 * g.e.toNat) 4 off true false) :
    ∃ v, s.Reading v ∧ gaccOp rd w gb (s.noted (.gacc rd ra rb)) =
      contributes rd v cl gi (bitsOf w 63 32) (s.mem.readN (padAddr s.core off) (4 * g.e.toNat))
        (poisonedIn s.poison (padAddr s.core off) (4 * g.e.toNat)) := by
  have hr := noted_reading h
  have hgot := hr.modMe (State.runs_slot h) (f := fun x => { x with gacc := some (g.config, g.e.toNat) })
  have hturn := hgot.bankTurn off (4 * g.e.toNat)
  refine ⟨_, hturn, ?_⟩
  unfold gaccOp
  rw [hw]
  dsimp only
  rw [noted_gacc h, hr.groupOf, hg, hr.ctag, hserves, if_neg (by simp), Option.getD_none]
  dsimp only
  rw [hgot.withBlock hblock, judge, hw]
  dsimp only
  rw [hturn.groupOf, hg, hturn.ctag, hserves, if_neg (by simp)]
  rfl

end

end Sys2Proof.Machine

end

section

namespace Sys2Proof.Machine
open Claims

/-! ## What gacc answers -/

section
variable {rd ra rb : BitVec 6} {s u v : State} {off cl gi tag words st k : Nat} {g : Group} {bad : Bool} {w : Word}

/-- An answer to a thread without a reservation touches only its slot. -/
theorem answer_leaves (hs : s.slot < 8) (hfree : s.me.reservation = .free) :
    (answer rd w bad s).mem = s.mem ∧ (answer rd w bad s).clusters = s.clusters ∧ (answer rd w bad s).me.pois = s.me.pois := by
  rw [answer_free hs hfree, repliedTo_me hs]
  exact ⟨rfl, rfl, rfl⟩

/-- An answer after nothing but reads. -/
theorem State.Reading.answered (hv : s.Reading v) (hs : s.slot < 8) (hfree : s.me.reservation = .free) :
    Answers s (answer rd w false v) (some rd) w ∧ (answer rd w false v).mem = s.mem ∧ (answer rd w false v).clusters = s.clusters := by
  obtain ⟨hmem, hclusters, -⟩ := answer_leaves (rd := rd) (w := w) (bad := false) (hv.slot ▸ hs) (hv.reservation.trans hfree)
  exact ⟨hv.aside.toAlike.answers hs, hmem.trans hv.mem, hclusters.trans hv.clusters⟩

theorem State.Alike.answer (h : s.Alike u) (hs : s.slot < 8) : s.Alike (answer rd w bad u) :=
  h.trans ((State.Aside.refl u).answer (h.slot ▸ hs)).toAlike

theorem groupOf_answer (hs : s.slot < 8) (cl gi : Nat) : (answer rd w bad s).groupOf cl gi = s.groupOf cl gi :=
  ((State.Aside.refl s).answer hs).groupOf cl gi

/-- Bytes of a read block. -/
theorem bytesAt_readN (m : Memory) {a n lo k : Nat} (h : lo + k ≤ n) : bytesAt (m.readN a n) lo k = m.readN (a + lo) k := by
  rw [bytesAt, pow_mul, pow_mul]
  exact m.readN_slice h

theorem Memory.read_of_readN {m m' : Memory} {a : Nat} (h : m.readN a 1 = m'.readN a 1) : m.read a = m'.read a :=
  BitVec.eq_of_toNat_eq (by simpa [Memory.readN] using h)

/-! ### An accepted contribution -/

/-- What an accepted contribution leaves: the buffer's count and elements, and the rest of memory and of the group. -/
structure Accepted (s u : State) (cl gi words : Nat) (g : Group) : Prop where
  alike : s.Alike u
  free : u.me.reservation = .free
  mem : u.mem = welMems (statBase cl g g.taking) (statAt s cl g g.taking 0 + 1) words s.mem g.e.toNat
  state : (u.groupOf cl gi).state = g.state
  step : (u.groupOf cl gi).s = g.s

/-- The contribution added, before the close test. -/
theorem State.Reading.contributed (hv : s.Reading v) (hfree : s.me.reservation = .free) (hg : s.groupOf cl gi = g)
    (hn : statAt s cl g g.taking 0 < 2 ^ 32 - 1) :
    Accepted s (contributed v cl g g.taking words) cl gi words g ∧ (contributed v cl g g.taking words).groupOf cl gi = g := by
  have hstat : statAt v cl g g.taking 0 = statAt s cl g g.taking 0 := statAt_congr hv.mem ..
  have hlow : statAt v cl g g.taking 0 ≠ 2 ^ 32 - 1 := by omega
  have hpad : v.Padded (Machine.contributed v cl g g.taking words) := contributed_padded hlow
  have hgroup : (Machine.contributed v cl g g.taking words).groupOf cl gi = g := by rw [hpad.aside.groupOf, hv.groupOf, hg]
  refine ⟨⟨hv.aside.toAlike.trans hpad.aside.toAlike, hpad.me_free (hv.reservation.trans hfree), ?_, by rw [hgroup], by rw [hgroup]⟩,
    hgroup⟩
  rw [contributed_mem, (welfordAll_spec hlow).1, hstat, hv.mem]

/-- The close test of an open group that reaches neither bound stores its figure. -/
theorem Accepted.storeSnr (h : Accepted s u cl gi words g) (hgroup : u.groupOf cl gi = g) :
    Accepted s (storeSnr u cl gi) cl gi words g := by
  refine ⟨h.alike.setGroup, h.free, h.mem, ?_, ?_⟩
  · rw [storeSnr_groupOf, hgroup]
  · rw [storeSnr_groupOf, hgroup]

section
variable (h : Accepted s u cl gi words g)
include h

theorem Accepted.count (he : g.e ≠ 0) (hn : statAt s cl g g.taking 0 < 2 ^ 32 - 1) :
    statAt u cl g g.taking 0 = statAt s cl g g.taking 0 + 1 := by
  have hpos : 0 < g.e.toNat := Nat.pos_of_ne_zero fun h => he (BitVec.eq_of_toNat_eq h)
  rw [statAt_eq u, h.mem]
  exact (welMems_count hpos).trans (Nat.mod_eq_of_lt (by omega))

theorem Accepted.outside : OutsideBuffer s u cl g g.taking := by
  intro a ha
  refine Memory.read_of_readN ?_
  rw [h.mem]
  refine welMems_readN ?_
  have hbase : statBase cl g g.taking = padAddr (clusterCore cl g.core.toNat) ((if g.taking then g.buf1 else g.buf0).toNat * 32) := rfl
  rw [hbase]
  omega

theorem Accepted.element {e : Nat} {r : Nat × Nat × BitVec 7} (he : e < g.e.toNat)
    (hr : r = welford (statAt s cl g g.taking 0 + 1) (statAt s cl g g.taking (4 + 8 * e)) (statAt s cl g g.taking (8 + 8 * e))
      (bytesAt words (4 * e) 4)) :
    statAt u cl g g.taking (4 + 8 * e) = r.1 ∧ statAt u cl g g.taking (8 + 8 * e) = r.2.1 := by
  obtain ⟨hmean, hm2⟩ := welMems_element (b := statBase cl g g.taking) (n := statAt s cl g g.taking 0 + 1) (words := words) (m := s.mem) he
  rw [← statAt_eq, ← statAt_eq, ← hr] at hmean hm2
  have hlt : r.1 < 2 ^ 32 ∧ r.2.1 < 2 ^ 32 := hr ▸ welford_lt ..
  rw [statAt_eq u, statAt_eq u, h.mem, hmean, hm2, Nat.mod_eq_of_lt hlt.1, Nat.mod_eq_of_lt hlt.2]
  exact ⟨rfl, rfl⟩

end

end

end Sys2Proof.Machine

end

section

namespace Sys2Proof.Machine
open Claims

/-! ## The claims about gacc -/

section
variable {rd ra rb : BitVec 6} {s : State} {off cl gi tag words : Nat} {g : Group} {bad : Bool}

theorem gacc_foreign (h : s.runs (.gacc rd ra rb) = true) (hfree : s.me.reservation = .free)
    (hword : groupWordBad (s.me.readG ra.toNat) 31 = false) (hw : wordGroup (s.me.readG ra.toNat) = (cl, gi))
    (hserves : (s.groupOf cl gi).serves s.me.ctag = false) :
    ∃ t, exec (.gacc rd ra rb) s = .next t ∧ Answers s t (some rd) 3 ∧ t.mem = s.mem ∧ t.clusters = s.clusters := by
  have hs := State.runs_slot h
  have hr := noted_reading h
  exact ⟨_, gacc_body h hword (gaccOp_foreign h hw hserves) (hr.aside.toAlike.answer hs), hr.answered hs hfree⟩

/-- The words of a gacc have been read in `v`: what its contribution comes to there is answered. -/
structure GaccJudged (i : Instr) (rd : BitVec 6) (s v : State) (cl gi tag words : Nat) (bad : Bool) (g : Group) : Prop where
  slot : s.slot < 8
  free : s.me.reservation = .free
  reading : s.Reading v
  group : s.groupOf cl gi = g
  next : ∀ st u w, contribute v cl gi tag words bad = (st, u) → w = .ofNat 64 st → s.Alike u → exec i s = .next (answer rd w false u)

theorem gacc_judged (h : s.runs (.gacc rd ra rb) = true) (hfree : s.me.reservation = .free)
    (hword : groupWordBad (s.me.readG ra.toNat) 31 = false) (hw : wordGroup (s.me.readG ra.toNat) = (cl, gi))
    (hg : s.groupOf cl gi = g) (hserves : g.serves s.me.ctag = true)
    (hblock : LocalBlock s (s.me.readG rb.toNat) (4 * g.e.toNat) 4 off true false) :
    ∃ v, GaccJudged (.gacc rd ra rb) rd s v cl gi (bitsOf (s.me.readG ra.toNat) 63 32) (s.mem.readN (padAddr s.core off) (4 * g.e.toNat))
      (poisonedIn s.poison (padAddr s.core off) (4 * g.e.toNat)) g := by
  obtain ⟨v, hv, hop⟩ := gaccOp_judged h hw hg hserves hblock
  refine ⟨v, State.runs_slot h, hfree, hv, hg, fun st u w hc hst hu => ?_⟩
  subst hst
  rw [contributes, hc] at hop
  exact gacc_body h hword hop (hu.answer (State.runs_slot h))

section
variable {i : Instr} {v : State} (h : GaccJudged i rd s v cl gi tag words bad g)
include h

theorem GaccJudged.groupOf : v.groupOf cl gi = g := (h.reading.groupOf cl gi).trans h.group
theorem GaccJudged.slot_lt : v.slot < 8 := h.reading.slot ▸ h.slot
theorem GaccJudged.unreserved : v.me.reservation = .free := h.reading.reservation.trans h.free

/-- A contribution outside the window is stale. -/
theorem GaccJudged.stale (hout : inWindow g tag = false) : ∃ t, exec i s = .next t ∧ Answers s t (some rd) 1 ∧ t.mem = s.mem ∧
    t.groupOf cl gi = { g with stale := .ofNat 32 (min (g.stale.toNat + 1) (2 ^ 32 - 1)) } := by
  have hc := contribute_stale (words := words) (poison := bad) (by rw [h.groupOf]; exact hout : inWindow (v.groupOf cl gi) tag = false)
  rw [h.groupOf] at hc
  have hu := State.Alike.setGroup (cl := cl) (gi := gi) (g := g.staler) h.reading.aside.toAlike
  have hslot : (v.setGroup cl gi g.staler).slot < 8 := h.slot_lt
  refine ⟨_, h.next _ _ 1 hc rfl hu, hu.answers h.slot, ?_, ?_⟩
  · exact Eq.trans (answer_leaves hslot h.unreserved).1 h.reading.mem
  · rw [groupOf_answer hslot, groupOf_setGroup]
    rfl

/-- Poisoned words are dropped. -/
theorem GaccJudged.poisoned (hin : inWindow g tag = true) (hbad : bad = true) :
    ∃ t, exec i s = .next t ∧ Answers s t (some rd) 4 ∧ t.me.pois = true ∧ t.mem = s.mem := by
  subst hbad
  have hc := contribute_poisoned (words := words) (by rw [h.groupOf]; exact hin : inWindow (v.groupOf cl gi) tag = true)
  have hpad : v.Padded (consumePoison v v.core v.slot) := (State.Padded.refl v).consumeIf (poison := true)
  have hpois : (consumePoison v v.core v.slot).me.pois = true :=
    congrArg Slot.pois (State.me_modMe v (fun x => { x with pois := true }) h.slot_lt)
  have hu := (h.reading.aside.trans hpad.aside).toAlike
  obtain ⟨hmem, -, hkept⟩ := answer_leaves (rd := rd) (w := 4) (bad := false) (s := consumePoison v v.core v.slot)
    h.slot_lt (hpad.me_free h.unreserved)
  exact ⟨_, h.next _ _ 4 hc rfl hu, hu.answers h.slot, hkept.trans hpois, hmem.trans h.reading.mem⟩

section
variable (hin : inWindow g tag = true) (hgood : bad = false) (he : g.e ≠ 0) (hn : statAt s cl g g.taking 0 < 2 ^ 32 - 1)
include hin hgood he hn

/-- A contribution that closes nothing: to the other buffer, or below both bounds of the current one. -/
theorem GaccJudged.accepted
    (hopen : g.state ≠ 1 ∨ (statAt s cl g g.taking 0 + 1 < g.nmin.toNat ∧ statAt s cl g g.taking 0 + 1 < g.nmax.toNat)) :
    ∃ u, exec i s = .next (answer rd (if g.state = 1 then 0 else 2) false u) ∧ Accepted s u cl gi words g := by
  subst hgood
  have hc := contribute_accepted (words := words) (by rw [h.groupOf]; exact hin : inWindow (v.groupOf cl gi) tag = true)
  obtain ⟨hacc, hgroup⟩ := h.reading.contributed (words := words) h.free h.group hn
  rw [h.groupOf] at hc
  by_cases hcurrent : g.state = 1
  · obtain ⟨hmin, hmax⟩ := hopen.resolve_left (not_not_intro hcurrent)
    have htaking : g.taking = g.v := if_pos hcurrent
    have hcount := hacc.count he hn
    rw [if_pos hcurrent, closeTest_open (by rwa [hgroup, ← htaking, hcount]) (by rwa [hgroup, ← htaking, hcount])] at hc
    rw [if_pos hcurrent]
    exact ⟨_, h.next _ _ 0 hc rfl (hacc.storeSnr hgroup).alike, hacc.storeSnr hgroup⟩
  · rw [if_neg hcurrent] at hc
    rw [if_neg hcurrent]
    exact ⟨_, h.next _ _ 2 hc rfl hacc.alike, hacc⟩

/-- A contribution that brings the current buffer to its greatest count. -/
theorem GaccJudged.closes (hcurrent : g.state = 1) (hmax : g.nmax.toNat ≤ statAt s cl g g.taking 0 + 1) (ho : TablesOpen s) :
    ∃ t, exec i s = .next t ∧ Answers s t (some rd) 0 ∧ (t.groupOf cl gi).state = 2 := by
  subst hgood
  have hc := contribute_accepted (words := words) (by rw [h.groupOf]; exact hin : inWindow (v.groupOf cl gi) tag = true)
  obtain ⟨hacc, hgroup⟩ := h.reading.contributed (words := words) h.free h.group hn
  have htaking : g.taking = g.v := if_pos hcurrent
  rw [h.groupOf, if_pos hcurrent] at hc
  obtain ⟨halike, hstate⟩ := closeTest_closes (cl := cl) (gi := gi) (hacc.alike.tablesOpen ho)
    (by rw [hgroup, ← htaking, hacc.count he hn]; exact hmax)
  have hu := hacc.alike.trans halike
  have hslot : (closeTest (contributed v cl g g.taking words) cl gi).slot < 8 := by
    rw [hu.slot]
    exact h.slot
  exact ⟨_, h.next _ _ 0 hc rfl hu, hu.answers h.slot, (congrArg Group.state (groupOf_answer hslot cl gi)).trans hstate⟩

end

end

end

theorem contributions : Contributions := by
  intro rd ra rb s off h hfree w cl gi g tag first i
  have hs := State.runs_slot h
  have hword (hfield : bitsOf w 31 13 = 0) (hcl : cl ≤ 79) : groupWordBad w 31 = false := by
    rw [Bool.eq_false_iff, ne_eq, groupWordBad_iff]
    exact fun hbad => hbad.elim (absurd hfield) (Nat.not_lt.2 hcl)
  refine ⟨fun hbad => gacc_illegal h hfree ((groupWordBad_iff ..).2 hbad), fun hfield hcl hforeign => ?_,
    fun hfield hcl hstate hctag hblock => ?_⟩
  · refine gacc_foreign h hfree (hword hfield hcl) (cl := cl) (gi := gi) rfl ?_
    rw [Bool.eq_false_iff, ne_eq, serves_iff]
    exact fun hmine => hforeign.elim hmine.1 fun hne => hne hmine.2
  · intro bad b n
    obtain ⟨v, hj⟩ := gacc_judged h hfree (hword hfield hcl) (cl := cl) (gi := gi) (g := g) rfl rfl
      ((serves_iff ..).2 ⟨hstate, hctag⟩) hblock
    have hin : inWindow g tag = true ↔ first ≤ tag ∧ tag ≤ g.s.toNat := inWindow_iff
    refine ⟨fun hout => hj.stale ?_, fun hlo hhi => ⟨hj.poisoned (hin.2 ⟨hlo, hhi⟩), fun hgood _ he hn => ⟨fun hopen => ?_, ?_⟩⟩⟩
    · rw [Bool.eq_false_iff]
      intro hwindow
      have hwithin := hin.1 hwindow
      omega
    · obtain ⟨u, hexec, hacc⟩ := hj.accepted (hin.2 ⟨hlo, hhi⟩) hgood he hn hopen
      have hu : u.slot < 8 := hacc.alike.slot ▸ hs
      have hmem := (answer_leaves (rd := rd) (w := if g.state = 1 then 0 else 2) (bad := false) hu hacc.free).1
      refine ⟨_, hexec, hacc.alike.answers hs, (statAt_congr hmem ..).trans (hacc.count he hn), fun a ha => ?_, ?_, ?_,
        fun e r he' hr => ?_⟩
      · rw [hmem]
        exact hacc.outside a ha
      · rw [groupOf_answer hu, hacc.state]
      · rw [groupOf_answer hu, hacc.step]
      · rw [statAt_congr hmem, statAt_congr hmem]
        refine hacc.element he' (hr.trans ?_)
        rw [bytesAt_readN _ (by omega), show padAddr s.core (off + 4 * e) = padAddr s.core off + 4 * e from (Nat.add_assoc ..).symm]
        rfl
    · exact hj.closes (hin.2 ⟨hlo, hhi⟩) hgood he hn

end Sys2Proof.Machine

end

section

namespace Sys2Proof.Machine
open Claims

/-! ## gstat, gclose, gflip and gjoin (R233, R234, R421, R429) -/

section
variable {i : Instr} {rd ra rb : BitVec 6} {s t u v : State} {cl gi st off : Nat} {g : Group} {w : Word} {rel : Bool}
  {f : State → Nat → Nat → Nat × State}

/-- What a group instruction that only answers leaves. -/
def OnlyAnswers (i : Instr) (rd : BitVec 6) (s : State) (w : Word) : Prop :=
  ∃ t, exec i s = .next t ∧ Answers s t (some rd) w ∧ t.mem = s.mem ∧ t.clusters = s.clusters

theorem State.Reading.onlyAnswers (hv : s.Reading v) (hs : s.slot < 8) (hfree : s.me.reservation = .free)
    (hexec : exec i s = .next (answer rd w false v)) : OnlyAnswers i rd s w := ⟨_, hexec, hv.answered hs hfree⟩

theorem pollFor_alike {p : Poll} (h : s.Alike u) : s.Alike (pollFor u .memoryWait p) :=
  h.trans ((State.Aside.refl u).modSlot (f := fun x => { x with status := .memoryWait, wait := .poll p, reply := none })).toAlike

/-! ### Instructions on a group word alone -/

/-- What a group instruction does at its group, its word being well formed. -/
def groupAct (rel : Bool) (rd : BitVec 6) (f : State → Nat → Nat → Nat × State) (cl gi : Nat) (s : State) : State :=
  if rel && !releaseHolds s s.core s.slot then pollFor s .memoryWait .release
  else if !(s.groupOf cl gi).serves s.me.ctag then answer rd 3 false s
  else answer rd (.ofNat 64 (f s cl gi).1) false (f s cl gi).2

theorem groupOp_next (h : s.runs i = true) (hword : groupWordBad (s.me.readG ra.toNat) 63 = false)
    (hw : wordGroup (s.me.readG ra.toNat) = (cl, gi)) (ht : groupAct rel rd f cl gi (s.noted i) = t) (halike : s.Alike t) :
    groupOp rel i rd ra f s = .next t := by
  refine deviceStep_alike h ?_ halike
  dsimp only
  rw [gval_noted h, hword, hw, if_neg Bool.false_ne_true, outward_alone (noted_alone h)]
  exact ht

theorem groupOp_waits (h : s.runs i = true) (hword : groupWordBad (s.me.readG ra.toNat) 63 = false)
    (hw : wordGroup (s.me.readG ra.toNat) = (cl, gi)) (hholds : releaseHolds (s.noted i) s.core s.slot = false) :
    groupOp true i rd ra f s = .next (pollFor (s.noted i) .memoryWait .release) := by
  refine groupOp_next h hword hw (if_pos ?_) (pollFor_alike (noted_reading h).aside.toAlike)
  rw [noted_core h, noted_slot h, hholds]
  rfl

/-- A group instruction that need not wait goes on. -/
theorem groupAct_held (h : s.runs i = true) (hrel : rel = true → releaseHolds (s.noted i) s.core s.slot = true) :
    groupAct rel rd f cl gi (s.noted i) = if !(s.groupOf cl gi).serves s.me.ctag then answer rd 3 false (s.noted i)
      else answer rd (.ofNat 64 (f (s.noted i) cl gi).1) false (f (s.noted i) cl gi).2 := by
  have hgo : ¬ (rel && !releaseHolds (s.noted i) (s.noted i).core (s.noted i).slot) = true := by
    rw [noted_core h, noted_slot h]
    cases rel with
    | false => simp
    | true => simp [hrel rfl]
  rw [groupAct, if_neg hgo, (noted_reading h).groupOf, (noted_reading h).ctag]

theorem groupOp_foreign (h : s.runs i = true) (hword : groupWordBad (s.me.readG ra.toNat) 63 = false)
    (hw : wordGroup (s.me.readG ra.toNat) = (cl, gi)) (hrel : rel = true → releaseHolds (s.noted i) s.core s.slot = true)
    (hserves : (s.groupOf cl gi).serves s.me.ctag = false) : groupOp rel i rd ra f s = .next (answer rd 3 false (s.noted i)) := by
  refine groupOp_next h hword hw ((groupAct_held h hrel).trans (if_pos ?_)) ((noted_reading h).aside.toAlike.answer (State.runs_slot h))
  rw [hserves]
  rfl

theorem groupOp_served (h : s.runs i = true) (hword : groupWordBad (s.me.readG ra.toNat) 63 = false)
    (hw : wordGroup (s.me.readG ra.toNat) = (cl, gi)) (hrel : rel = true → releaseHolds (s.noted i) s.core s.slot = true)
    (hserves : (s.groupOf cl gi).serves s.me.ctag = true) (hf : f (s.noted i) cl gi = (st, u)) (hst : w = .ofNat 64 st)
    (hu : s.Alike u) : groupOp rel i rd ra f s = .next (answer rd w false u) := by
  refine groupOp_next h hword hw ((groupAct_held h hrel).trans ((if_neg ?_).trans ?_)) (hu.answer (State.runs_slot h))
  · simp [hserves]
  · rw [hf, hst]

/-! ### Closing and flipping -/

theorem closeNow_notOpen (h : (s.groupOf cl gi).state ≠ 1) : closeNow s cl gi = (1, s) := by
  unfold closeNow
  simp only [bne_iff_ne, ne_eq, h, not_false_eq_true, if_true]

theorem closeNow_empty (h : (s.groupOf cl gi).state = 1) (hn : statAt s cl (s.groupOf cl gi) (s.groupOf cl gi).v 0 = 0) :
    closeNow s cl gi = (2, s) := by
  unfold closeNow
  dsimp only
  rw [if_neg (by simp [h]), statCount_eq, if_pos hn]

theorem closeNow_counted (h : (s.groupOf cl gi).state = 1) (hn : statAt s cl (s.groupOf cl gi) (s.groupOf cl gi).v 0 ≠ 0) :
    closeNow s cl gi = (0, closeBy s cl gi true) := by
  unfold closeNow
  dsimp only
  rw [if_neg (by simp [h]), statCount_eq, if_neg hn]

theorem flipNow_notApplying (h : (s.groupOf cl gi).state ≠ 3) : flipNow s cl gi = (1, s) := by
  unfold flipNow
  simp only [bne_iff_ne, ne_eq, h, not_false_eq_true, if_true]

/-- A group reopened on its other buffer at the next step. -/
def Group.flipped (g : Group) : Group := { g with v := !g.v, s := g.s + 1, state := 1 }

theorem flipNow_applying (hg : s.groupOf cl gi = g) (h : g.state = 3) :
    flipNow s cl gi = (0, closeTest ((zeroBuffer s cl g g.v).setGroup cl gi g.flipped) cl gi) := by
  unfold flipNow
  dsimp only
  rw [hg, if_neg (by simp [h])]
  rfl

/-- The buffers of a group lie apart. -/
def Group.buffersApart (g : Group) : Prop :=
  g.buf0.toNat * 32 + (4 + 8 * g.e.toNat) ≤ g.buf1.toNat * 32 ∨ g.buf1.toNat * 32 + (4 + 8 * g.e.toNat) ≤ g.buf0.toNat * 32

theorem statBase_eq (cl : Nat) (g : Group) (one : Bool) :
    statBase cl g one = padAddr (statCore cl g) 0 + (if one then g.buf1 else g.buf0).toNat * 32 := by
  rw [statBase, padAddr, padAddr, Group.buffer, Nat.add_zero]

theorem Group.buffersApart.bases (h : g.buffersApart) (cl : Nat) (one : Bool) :
    statBase cl g (!one) + 0 + 4 ≤ statBase cl g one ∨ statBase cl g one + g.statBytes ≤ statBase cl g (!one) + 0 := by
  rw [statBase_eq, statBase_eq, Group.statBytes]
  generalize padAddr (statCore cl g) 0 = p
  cases one with
  | false => exact Or.elim h (fun h => .inr (by simpa [Nat.add_assoc] using h)) fun h => .inl (by simp; omega)
  | true => exact Or.elim h (fun h => .inl (by simp; omega)) fun h => .inr (by simpa [Nat.add_assoc] using h)

/-- A buffer cleared leaves the count of the other. -/
theorem statAt_zeroBuffer_other {one : Bool} (hapart : g.buffersApart) :
    statAt (zeroBuffer s cl g one) cl g (!one) 0 = statAt s cl g (!one) 0 := by
  rw [statAt_eq, statAt_eq, zeroBuffer_mem]
  exact Memory.readN_writeN_apart _ _ (hapart.bases cl one)

/-- A flip whose new count reaches neither bound. -/
theorem flipNow_open (hg : s.groupOf cl gi = g) (h : g.state = 3) (hapart : g.buffersApart)
    (hmin : statAt s cl g (!g.v) 0 < g.nmin.toNat) (hmax : statAt s cl g (!g.v) 0 < g.nmax.toNat) :
    flipNow s cl gi = (0, storeSnr ((zeroBuffer s cl g g.v).setGroup cl gi g.flipped) cl gi) := by
  have hcount : statAt ((zeroBuffer s cl g g.v).setGroup cl gi g.flipped) cl g.flipped g.flipped.v 0 = statAt s cl g (!g.v) 0 :=
    statAt_zeroBuffer_other hapart
  rw [flipNow_applying hg h, closeTest_open]
  · rw [groupOf_setGroup, hcount]
    exact hmin
  · rw [groupOf_setGroup, hcount]
    exact hmax

end

end Sys2Proof.Machine

end

section

namespace Sys2Proof.Machine
open Claims

/-! ## The claims about gstat, gclose, gflip and gjoin -/

section
variable {rd ra rb : BitVec 6} {s v : State} {cl gi off k : Nat} {g : Group} {w : Word}

/-- A group word without ones in its upper bits, for a cluster that there is. -/
theorem groupWord_good {hi : Nat} (hfield : bitsOf w hi 13 = 0) (hcl : bitsOf w 12 6 ≤ 79) : groupWordBad w hi = false := by
  rw [Bool.eq_false_iff, ne_eq, groupWordBad_iff]
  exact fun hbad => hbad.elim (absurd hfield) (Nat.not_lt.2 hcl)

theorem serves_false (h : ¬ (g.state ≠ 0 ∧ g.ctag = s.me.ctag)) : g.serves s.me.ctag = false := by
  rw [Bool.eq_false_iff, ne_eq, serves_iff]
  exact h

/-! ### gstat -/

/-- The words of a group that gstat reads, by their numbers. -/
def statWords (g : Group) (n : Nat) : List Nat :=
  [g.state.toNat + (if g.v then 4 else 0) + g.s.toNat * 2 ^ 32, n + g.stale.toNat * 2 ^ 32, g.snr.toNat, g.t.toNat + g.w.toNat * 2 ^ 32,
    g.nmin.toNat + g.nmax.toNat * 2 ^ 32]

theorem statWord_eq (hg : s.groupOf cl gi = g) (hp : (statCount s cl g g.v).2 = false) (hk : k ≤ 4) :
    statWord s cl gi (.ofNat 64 k) = (.ofNat 64 ((statWords g (statAt s cl g g.v 0)).getD k 0), false) := by
  have hnat : (BitVec.ofNat 64 k).toNat = k := toNat_ofNat_lt (by omega)
  obtain ⟨n, hn⟩ : ∃ n, statCount s cl g g.v = (n, false) := ⟨_, Prod.ext rfl hp⟩
  have hsnr : zeroExt g.snr = .ofNat 64 g.snr.toNat := BitVec.eq_of_toNat_eq (by
    rw [zeroExt, BitVec.zeroExtend, BitVec.toNat_setWidth]
    rfl)
  rw [← statCount_eq, hn]
  obtain rfl | rfl | rfl | rfl | rfl : k = 0 ∨ k = 1 ∨ k = 2 ∨ k = 3 ∨ k = 4 := by omega
  all_goals simp only [statWord, hg, hnat, hn, hsnr, statWords, List.getD_cons_zero, List.getD_cons_succ]

/-- gstat answers at once. -/
theorem gstat_next (h : s.runs (.gstat rd ra rb) = true) (hword : groupWordBad (s.me.readG ra.toNat) 63 = false)
    (hw : wordGroup (s.me.readG ra.toNat) = (cl, gi)) (hrb : (s.me.readG rb.toNat).toNat ≤ 4) {r : Word × Bool}
    (hr : (if (s.groupOf cl gi).serves s.me.ctag then statWord (s.noted (.gstat rd ra rb)) cl gi (s.me.readG rb.toNat)
      else (0, false)) = r) :
    exec (.gstat rd ra rb) s = .next (answer rd r.1 r.2 (s.noted (.gstat rd ra rb))) := by
  show execGstat rd ra rb s = _
  have hvalue := gval_noted h rb
  rw [execGstat, issue_of_runs h, gval_noted h, hword, hw, hvalue]
  dsimp only
  rw [if_neg (by simpa using hrb), boundaryRead_alone (noted_alone h), hvalue, (noted_reading h).groupOf, (noted_reading h).ctag, hr]

theorem gstat_number (hk : s.me.readG rb.toNat = .ofNat 64 k) (hk4 : k ≤ 4) : (s.me.readG rb.toNat).toNat ≤ 4 := by
  rw [hk, toNat_ofNat_lt (by omega)]
  exact hk4

section
variable (h : s.runs (.gstat rd ra rb) = true) (hfree : s.me.reservation = .free) (hword : groupWordBad (s.me.readG ra.toNat) 63 = false)
  (hw : wordGroup (s.me.readG ra.toNat) = (cl, gi)) (hg : s.groupOf cl gi = g) (hk : s.me.readG rb.toNat = .ofNat 64 k) (hk4 : k ≤ 4)
include h hfree hword hw hg hk hk4

theorem gstat_foreign (hserves : g.serves s.me.ctag = false) : OnlyAnswers (.gstat rd ra rb) rd s 0 := by
  have hnext := gstat_next h hword hw (gstat_number hk hk4) (r := (0, false))
    (by rw [hg, hserves, if_neg Bool.false_ne_true])
  exact (noted_reading h).onlyAnswers (State.runs_slot h) hfree hnext

theorem gstat_word (hserves : g.serves s.me.ctag = true) (hpoison : poisonedIn s.poison (statBase cl g g.v) 4 = false) :
    OnlyAnswers (.gstat rd ra rb) rd s (.ofNat 64 ((statWords g (statAt s cl g g.v 0)).getD k 0)) := by
  have hr := noted_reading h
  have hcount : (statCount (s.noted (.gstat rd ra rb)) cl g g.v).2 = false := by
    rw [← hpoison, ← hr.poison]
    rfl
  have hvalue := statWord_eq ((hr.groupOf cl gi).trans hg) hcount hk4
  rw [statAt_congr hr.mem] at hvalue
  have hnext := gstat_next h hword hw (gstat_number hk hk4)
    (r := (.ofNat 64 ((statWords g (statAt s cl g g.v 0)).getD k 0), false)) (by rw [hg, hserves, if_pos rfl, hk, hvalue])
  exact hr.onlyAnswers (State.runs_slot h) hfree hnext

end

/-! ### gjoin -/

theorem joinNow_notOpen {d : Nat} (h : (s.groupOf cl gi).state ≠ 1) : joinNow s cl gi d false = (1, s) := by
  unfold joinNow
  simp only [bne_iff_ne, ne_eq, h, not_false_eq_true, if_true]

theorem joinNow_malformed {d : Nat} (h : (s.groupOf cl gi).state = 1) (hbad : entryBad d (s.groupOf cl gi) = true) :
    joinNow s cl gi d false = (2, s) := by
  unfold joinNow
  dsimp only
  rw [if_neg (by simp [h]), hbad]
  rfl

theorem joinNow_elsewhere {d : Nat} (h : (s.groupOf cl gi).state = 1) (hgood : entryBad d (s.groupOf cl gi) = false)
    (hstep : bytesAt d 0 4 ≠ (s.groupOf cl gi).s.toNat) : joinNow s cl gi d false = (1, s) := by
  unfold joinNow
  dsimp only
  rw [if_neg (by simp [h]), hgood, if_neg (by simp), if_pos (by simpa using hstep)]

/-- A group that has joined an entry's step. -/
def Group.joined (g : Group) (d : Nat) : Group := { g with v := !g.v, s := g.s + 1, snr := .ofNat 32 (bytesAt d 8 4) }

theorem joinNow_joins {d : Nat} (hg : s.groupOf cl gi = g) (h : g.state = 1) (hgood : entryBad d g = false)
    (hstep : bytesAt d 0 4 = g.s.toNat) :
    joinNow s cl gi d false = (0, (zeroBuffer (zeroBuffer s cl g false) cl g true).setGroup cl gi (g.joined d)) := by
  unfold joinNow
  dsimp only
  rw [hg, if_neg (by simp [h]), hgood, if_neg (by simp), if_neg (by simpa using hstep)]
  rfl

/-- What gjoin comes to once its thread's turn has come. -/
theorem gjoin_next (h : s.runs (.gjoin rd ra rb) = true) (hword : groupWordBad (s.me.readG ra.toNat) 63 = false)
    (hw : wordGroup (s.me.readG ra.toNat) = (cl, gi)) {go : Nat → Bool → State → State}
    (hgo : go = fun d poison s => let (st, s) := joinNow s cl gi d poison; answer rd (.ofNat 64 st) poison s) :
    exec (.gjoin rd ra rb) s = .next (if !(s.groupOf cl gi).serves s.me.ctag then answer rd 3 false (s.noted (.gjoin rd ra rb))
      else withBlock (s.noted (.gjoin rd ra rb)) (s.me.readG rb.toNat) 64 64 go) := by
  show execGjoin rd ra rb s = _
  rw [execGjoin, issue_of_runs h, gval_noted h, hgo]
  dsimp only
  rw [hword, hw, if_neg Bool.false_ne_true, outward_alone (noted_alone h), gval_noted h, (noted_reading h).groupOf,
    (noted_reading h).ctag]

/-- gjoin with its entry in the thread's scratchpad. -/
theorem gjoin_joins (h : s.runs (.gjoin rd ra rb) = true) (hword : groupWordBad (s.me.readG ra.toNat) 63 = false)
    (hw : wordGroup (s.me.readG ra.toNat) = (cl, gi)) (hserves : (s.groupOf cl gi).serves s.me.ctag = true)
    (hblock : LocalBlock s (s.me.readG rb.toNat) 64 64 off true false) (hpoison : poisonedIn s.poison (padAddr s.core off) 64 = false) :
    ∃ v, s.Reading v ∧ ∀ st u, joinNow v cl gi (s.mem.readN (padAddr s.core off) 64) false = (st, u) →
      exec (.gjoin rd ra rb) s = .next (answer rd (.ofNat 64 st) false u) := by
  have hr := noted_reading h
  refine ⟨_, hr.bankTurn off 64, fun st u hj => ?_⟩
  rw [gjoin_next h hword hw rfl, hserves, if_neg (by simp), hr.withBlock hblock, hpoison]
  dsimp only
  rw [hj]

end

end Sys2Proof.Machine

end

section

namespace Sys2Proof.Machine
open Claims

/-! ## What closes, flips and joins leave -/

section
variable {i : Instr} {rd ra rb : BitVec 6} {s u v : State} {cl gi off k : Nat} {g : Group} {w : Word}

/-- A group word well formed, and the wait of an instruction that acts as a release over. -/
structure GroupReady (i : Instr) (ra : BitVec 6) (rel : Bool) (s : State) (cl gi : Nat) : Prop where
  runs : s.runs i = true
  free : s.me.reservation = .free
  word : groupWordBad (s.me.readG ra.toNat) 63 = false
  place : wordGroup (s.me.readG ra.toNat) = (cl, gi)
  held : rel = true → releaseHolds (s.noted i) s.core s.slot = true

section
variable {rel : Bool} {f : State → Nat → Nat → Nat × State} (h : GroupReady i ra rel s cl gi)
  (hexec : exec i s = groupOp rel i rd ra f s)
include h

theorem GroupReady.slot : s.slot < 8 := State.runs_slot h.runs
theorem GroupReady.reading : s.Reading (s.noted i) := noted_reading h.runs
theorem GroupReady.groupOf : (s.noted i).groupOf cl gi = s.groupOf cl gi := h.reading.groupOf cl gi
theorem GroupReady.stat (g : Group) (one : Bool) (o : Nat) : statAt (s.noted i) cl g one o = statAt s cl g one o :=
  statAt_congr h.reading.mem ..

include hexec

theorem GroupReady.foreign (hserves : (s.groupOf cl gi).serves s.me.ctag = false) : OnlyAnswers i rd s 3 :=
  h.reading.onlyAnswers h.slot h.free (hexec.trans (groupOp_foreign h.runs h.word h.place h.held hserves))

section
variable (hserves : (s.groupOf cl gi).serves s.me.ctag = true)
include hserves

/-- An instruction that its group refuses. -/
theorem GroupReady.refused {st : Nat} (hf : f (s.noted i) cl gi = (st, s.noted i)) (hst : w = .ofNat 64 st) : OnlyAnswers i rd s w :=
  h.reading.onlyAnswers h.slot h.free (hexec.trans (groupOp_served h.runs h.word h.place h.held hserves hf hst h.reading.aside.toAlike))

theorem GroupReady.done {st : Nat} (hf : f (s.noted i) cl gi = (st, u)) (hst : w = .ofNat 64 st) (hu : s.Alike u) :
    exec i s = .next (answer rd w false u) :=
  hexec.trans (groupOp_served h.runs h.word h.place h.held hserves hf hst hu)

end

end

theorem exec_gclose (rd ra : BitVec 6) (s : State) :
    exec (.gclose rd ra) s = groupOp false (.gclose rd ra) rd ra closeNow s := rfl

theorem exec_gflip (rd ra : BitVec 6) (s : State) : exec (.gflip rd ra) s = groupOp true (.gflip rd ra) rd ra flipNow s := rfl

/-- gclose of an open group with a count. -/
theorem gclose_closes (h : GroupReady (.gclose rd ra) ra false s cl gi) (hserves : (s.groupOf cl gi).serves s.me.ctag = true)
    (hstate : (s.groupOf cl gi).state = 1) (hn : statAt s cl (s.groupOf cl gi) (s.groupOf cl gi).v 0 ≠ 0) (ho : TablesOpen s) :
    ∃ t, exec (.gclose rd ra) s = .next t ∧ Answers s t (some rd) 0 ∧ (t.groupOf cl gi).state = 2 := by
  have hopen := h.reading.aside.toAlike.tablesOpen ho
  obtain ⟨halike, hclosed⟩ := closeBy_closes (cl := cl) (gi := gi) (asked := true) hopen (.inl rfl)
  have hf := closeNow_counted (s := s.noted (.gclose rd ra)) (by rw [h.groupOf]; exact hstate) (by rw [h.groupOf, h.stat]; exact hn)
  have hu := h.reading.aside.toAlike.trans halike
  have hslot : (closeBy (s.noted (.gclose rd ra)) cl gi true).slot < 8 := by
    rw [hu.slot]
    exact h.slot
  exact ⟨_, h.done (exec_gclose ..) hserves hf rfl hu, hu.answers h.slot, (congrArg Group.state (groupOf_answer hslot cl gi)).trans hclosed⟩

/-- gflip of an applying group whose new count reaches neither bound. -/
theorem gflip_flips (h : GroupReady (.gflip rd ra) ra true s cl gi) (hg : s.groupOf cl gi = g) (hserves : g.serves s.me.ctag = true)
    (hstate : g.state = 3) (hapart : g.buffersApart) (hmin : statAt s cl g (!g.v) 0 < g.nmin.toNat)
    (hmax : statAt s cl g (!g.v) 0 < g.nmax.toNat) : ∃ t, exec (.gflip rd ra) s = .next t ∧ Answers s t (some rd) 0 ∧
      t.mem = (zeroBuffer s cl g g.v).mem ∧ t.groupOf cl gi = { g.flipped with snr := (t.groupOf cl gi).snr } := by
  have hf := flipNow_open (h.groupOf.trans hg) hstate hapart (by rw [h.stat]; exact hmin) (by rw [h.stat]; exact hmax)
  have hzero := zeroBuffer_padded (s.noted (.gflip rd ra)) cl g g.v
  have hmem : (zeroBuffer (s.noted (.gflip rd ra)) cl g g.v).mem = (zeroBuffer s cl g g.v).mem := by
    rw [zeroBuffer_mem, zeroBuffer_mem, h.reading.mem]
  generalize zeroBuffer (s.noted (.gflip rd ra)) cl g g.v = z at *
  have hu : s.Alike (storeSnr (z.setGroup cl gi g.flipped) cl gi) := (h.reading.aside.toAlike.trans hzero.aside.toAlike).setGroup.setGroup
  have hslot : (storeSnr (z.setGroup cl gi g.flipped) cl gi).slot < 8 := by
    rw [hu.slot]
    exact h.slot
  have hfree : (storeSnr (z.setGroup cl gi g.flipped) cl gi).me.reservation = .free := hzero.me_free (h.reading.reservation.trans h.free)
  refine ⟨_, h.done (exec_gflip ..) (by rw [hg]; exact hserves) hf rfl hu, hu.answers h.slot, (answer_leaves hslot hfree).1.trans hmem, ?_⟩
  rw [groupOf_answer hslot, storeSnr_groupOf, groupOf_setGroup]

/-- gjoin of an entry for the open group's step. -/
theorem gjoin_joined (hs : s.slot < 8) (hfree : s.me.reservation = .free) (hv : s.Reading v) (hg : s.groupOf cl gi = g)
    (hstate : g.state = 1) {d : Nat} (hgood : entryBad d g = false) (hstep : bytesAt d 0 4 = g.s.toNat)
    (hnext : ∀ st u, joinNow v cl gi d false = (st, u) → exec i s = .next (answer rd (.ofNat 64 st) false u)) :
    ∃ t, exec i s = .next t ∧ Answers s t (some rd) 0 ∧ t.groupOf cl gi = g.joined d ∧
      ∀ one k, k ≤ 2 * g.e.toNat → statAt t cl g one (4 * k) = 0 := by
  have hexec := hnext _ _ (joinNow_joins (hv.groupOf cl gi ▸ hg) hstate hgood hstep)
  have hzero := (zeroBuffer_padded v cl g false).trans (zeroBuffer_padded _ cl g true)
  have hclear (one : Bool) (k : Nat) (hk : k ≤ 2 * g.e.toNat) :
      statAt (zeroBuffer (zeroBuffer v cl g false) cl g true) cl g one (4 * k) = 0 := statAt_zeroBuffers hk
  generalize zeroBuffer (zeroBuffer v cl g false) cl g true = z at *
  have hu : s.Alike (z.setGroup cl gi (g.joined d)) := (hv.aside.toAlike.trans hzero.aside.toAlike).setGroup
  have hslot : (z.setGroup cl gi (g.joined d)).slot < 8 := by
    rw [hu.slot]
    exact hs
  have hunres : (z.setGroup cl gi (g.joined d)).me.reservation = .free := hzero.me_free (hv.reservation.trans hfree)
  refine ⟨_, hexec, hu.answers hs, by rw [groupOf_answer hslot, groupOf_setGroup], fun one k hk => ?_⟩
  exact (statAt_congr (answer_leaves hslot hunres).1 ..).trans (hclear one k hk)

end

end Sys2Proof.Machine

end

section

namespace Sys2Proof.Machine
open Claims

theorem groupSteps : GroupSteps := by
  intro rd ra rb s off hfree w cl gi g mine n answers hfield hcl
  have hword : groupWordBad (s.me.readG ra.toNat) 63 = false := groupWord_good hfield hcl
  have hg : s.groupOf cl gi = g := rfl
  have hforeign (h : ¬ mine) : g.serves s.me.ctag = false := serves_false h
  have hserves (h : mine) : g.serves s.me.ctag = true := (serves_iff ..).2 h
  refine ⟨fun hruns k hk hk4 => ⟨fun hnot => ?_, fun hm hpoison => ?_⟩, fun hruns => ?_, fun hruns hholds => ?_, fun hruns hholds => ?_,
    fun hruns => ⟨fun hnot => ?_, fun hm hblock hpoison => ?_⟩⟩
  · exact gstat_foreign hruns hfree hword (cl := cl) (gi := gi) rfl hg hk hk4 (hforeign hnot)
  · exact gstat_word hruns hfree hword (cl := cl) (gi := gi) rfl hg hk hk4 (hserves hm) hpoison
  · have hready : GroupReady (.gclose rd ra) ra false s cl gi := ⟨hruns, hfree, hword, rfl, nofun⟩
    refine ⟨fun hnot => hready.foreign (exec_gclose ..) (hforeign hnot), fun hm hstate => ?_, fun hm hstate hn => ?_,
      fun hm hstate hn ho => gclose_closes hready (hserves hm) hstate hn ho⟩
    · exact hready.refused (exec_gclose ..) (hserves hm) (closeNow_notOpen (by rw [hready.groupOf]; exact hstate)) rfl
    · exact hready.refused (exec_gclose ..) (hserves hm)
        (closeNow_empty (by rw [hready.groupOf]; exact hstate) (by rw [hready.groupOf, hready.stat]; exact hn)) rfl
  · exact (exec_gflip ..).trans (groupOp_waits hruns hword (cl := cl) (gi := gi) rfl hholds)
  · have hready : GroupReady (.gflip rd ra) ra true s cl gi := ⟨hruns, hfree, hword, rfl, fun _ => hholds⟩
    refine ⟨fun hnot => hready.foreign (exec_gflip ..) (hforeign hnot), fun hm hstate => ?_, fun hm hstate _ hapart hmin hmax => ?_⟩
    · exact hready.refused (exec_gflip ..) (hserves hm) (flipNow_notApplying (by rw [hready.groupOf]; exact hstate)) rfl
    · obtain ⟨t, hexec, hanswers, hmem, hgroup⟩ := gflip_flips hready hg (hserves hm) hstate hapart hmin hmax
      refine ⟨t, hexec, hanswers, fun a ha => ?_, fun k hk => ?_, ?_⟩
      · rw [hmem]
        exact zeroBuffer_read_outside ha
      · rw [statAt_congr hmem]
        exact statAt_zeroBuffer hk
      · dsimp only
        rw [hgroup]
        exact ⟨rfl, rfl, rfl, rfl, rfl⟩
  · have hnext := gjoin_next hruns hword (cl := cl) (gi := gi) rfl rfl
    rw [hg, hforeign hnot, Bool.not_false, if_pos rfl] at hnext
    exact (noted_reading hruns).onlyAnswers (State.runs_slot hruns) hfree hnext
  · intro d
    have hs := State.runs_slot hruns
    obtain ⟨v, hv, hnext⟩ := gjoin_joins hruns hword (cl := cl) (gi := gi) rfl (hserves hm) hblock hpoison
    have hgv : v.groupOf cl gi = g := hv.groupOf cl gi
    refine ⟨fun hstate => ?_, fun hstate hbad => ?_, fun hstate hgood hstep => ?_, fun hstate hgood hstep => ?_⟩
    · exact hv.onlyAnswers hs hfree (hnext _ _ (joinNow_notOpen (by rw [hgv]; exact hstate)))
    · exact hv.onlyAnswers hs hfree (hnext _ _ (joinNow_malformed (by rw [hgv]; exact hstate) (by rw [hgv]; exact hbad)))
    · exact hv.onlyAnswers hs hfree (hnext _ _ (joinNow_elsewhere (by rw [hgv]; exact hstate) (by rw [hgv]; exact hgood)
        (by rw [hgv]; exact hstep)))
    · exact gjoin_joined hs hfree hv hg hstate hgood hstep hnext

end Sys2Proof.Machine

end

section

namespace Sys2Proof.Machine
open Claims

/-! ## Groups configured and unconfigured (R413, R414), and apply tasks submitted again (R418) -/

section
variable {s u : State} {core cl gi : Nat} {v : Word} {g : Group} {r : TaskRec}

/-- A unit that takes a write has but one request less before it. -/
theorem takeUnit_rest {reg : Nat} (h : takeUnit s core reg = some (v, u)) : u = { s with unitReqs := u.unitReqs } := by
  unfold takeUnit at h
  obtain ⟨q, -, hq⟩ := Option.map_eq_some_iff.1 h
  obtain ⟨-, rfl⟩ := Prod.mk.inj hq
  rfl

theorem takeUnit_mem {reg : Nat} (h : takeUnit s core reg = some (v, u)) : u.mem = s.mem := by
  rw [takeUnit_rest h]

theorem unitDone_aside (s : State) (core : Nat) : s.Aside (unitDone s core) := (State.Aside.refl s).postReply

theorem unitDone_mem (s : State) (core : Nat) : (unitDone s core).mem = s.mem := postReply_mem ..

/-- A group opened by a configuring write. -/
def Group.configured (g : Group) : Group :=
  { g with state := 1, stale := 0, jcount := 0, snr := 0x7FC00000, retry := none, config := g.config + 1 }

/-- A group that a write of state 0 leaves. -/
def Group.unconfigured (g : Group) : Group := { g with state := 0, retry := none }

section
variable (h : takeUnit s core 0x171 = some (v, u))
include h

theorem gent0_configures (hbits : bitsOf v 1 0 = 1) (hstate : (s.groupOf (clusterOf core) (s.coreOf core).gsel.toNat).state = 0)
    (hg : (s.groupOf (clusterOf core) (s.coreOf core).gsel.toNat).setGent0 v = g) (hok : configureOk g = true) :
    exec (.gent0Configure core) s = .next (unitDone ((zeroBuffer (zeroBuffer u (clusterOf core) g false) (clusterOf core) g true).setGroup
      (clusterOf core) (s.coreOf core).gsel.toNat g.configured) core) := by
  show execGent0Configure core s = _
  unfold execGent0Configure
  dsimp only
  rw [h]
  dsimp only
  rw [hg, if_pos (by simp [hbits, hstate, hok])]
  rfl

theorem gent0_refused (hbits : bitsOf v 1 0 = 1)
    (hno : (s.groupOf (clusterOf core) (s.coreOf core).gsel.toNat).state ≠ 0 ∨
      configureOk ((s.groupOf (clusterOf core) (s.coreOf core).gsel.toNat).setGent0 v) = false) :
    exec (.gent0Configure core) s = .next (takeTrap u core 7 .illegalOperand 0 0 0) := by
  show execGent0Configure core s = _
  unfold execGent0Configure
  dsimp only
  rw [h]
  dsimp only
  rw [if_neg, if_pos hbits]
  · rfl
  · simp only [hbits, decide_true, Bool.true_and, Bool.and_eq_true, beq_iff_eq, not_and, Bool.not_eq_true]
    exact fun hstate => hno.resolve_left (not_not_intro hstate)

theorem gent0_unconfigures (hv : v = 0) :
    ∃ t, exec (.gent0Unconfigure core) s = .next t ∧
      (t.groupOf (clusterOf core) (s.coreOf core).gsel.toNat).state = 0 ∧ t.mem = s.mem := by
  have hbits : bitsOf v 1 0 = 0 := by
    rw [hv]
    decide
  have hexec : exec (.gent0Unconfigure core) s = .next (unitDone (u.setGroup (clusterOf core) (s.coreOf core).gsel.toNat
      ((s.groupOf (clusterOf core) (s.coreOf core).gsel.toNat).setGent0 v).unconfigured) core) := by
    show execGent0Unconfigure core s = _
    unfold execGent0Unconfigure
    dsimp only
    rw [h]
    dsimp only
    rw [if_pos (by rw [hbits]; simp [hv])]
    rfl
  have hmem : u.mem = s.mem := takeUnit_mem h
  refine ⟨_, hexec, ?_, (unitDone_mem ..).trans hmem⟩
  rw [(unitDone_aside _ core).groupOf, groupOf_setGroup]
  rfl

end

theorem gent0_opens (h : takeUnit s core 0x171 = some (v, u)) (hbits : bitsOf v 1 0 = 1)
    (hstate : (s.groupOf (clusterOf core) (s.coreOf core).gsel.toNat).state = 0)
    (hg : (s.groupOf (clusterOf core) (s.coreOf core).gsel.toNat).setGent0 v = g) (hok : configureOk g = true) :
    ∃ t, exec (.gent0Configure core) s = .next t ∧ t.groupOf (clusterOf core) (s.coreOf core).gsel.toNat = g.configured ∧
      ∀ one k, k ≤ 2 * g.e.toNat → statAt t (clusterOf core) g one (4 * k) = 0 := by
  have hexec := gent0_configures h hbits hstate hg hok
  have hclear (one : Bool) (k : Nat) (hk : k ≤ 2 * g.e.toNat) :
      statAt (zeroBuffer (zeroBuffer u (clusterOf core) g false) (clusterOf core) g true)
      (clusterOf core) g one (4 * k) = 0 := statAt_zeroBuffers hk
  generalize zeroBuffer (zeroBuffer u (clusterOf core) g false) (clusterOf core) g true = z at *
  refine ⟨_, hexec, by rw [(unitDone_aside _ core).groupOf, groupOf_setGroup], fun one k hk => ?_⟩
  exact (statAt_congr (unitDone_mem ..) ..).trans (hclear one k hk)

/-! ### Apply tasks submitted again -/

/-- A record goes to the bank while there is room and nothing has overflowed. -/
theorem submitTask_bank (hplaced : placedInBand s r.lid cl = true) (hgone : clusterGone s cl = false)
    (hroom : (s.clusterAt cl).bank.length < 2048) (hring : (s.clusterAt cl).ring = []) :
    submitTask s cl r = (0, s.modCluster cl fun c => { c with bank := c.bank ++ [r] }) := by
  unfold submitTask bankEnter
  dsimp only
  rw [hplaced, if_neg (by simp), hgone, if_neg Bool.false_ne_true, if_pos (by simp [hroom, hring])]

/-- A cluster out of service refuses every record. -/
theorem submitTask_gone (hgone : clusterGone s cl = true) : ¬ (submitTask s cl r).1 < 2 := by
  unfold submitTask
  rw [hgone]
  cases placedInBand s r.lid cl <;> simp

section
variable (ho : TablesOpen s) (hretry : (s.groupOf cl gi).retry = some r)
include ho hretry

theorem applyTaskRetry_due (hstate : (s.groupOf cl gi).state = 2) (hdue : (s.groupOf cl gi).retryAt + 1024 ≤ s.clock) :
    exec (.applyTaskRetry cl gi) s = .next (submitApply s cl gi r) := by
  show execApplyTaskRetry cl gi s = _
  unfold execApplyTaskRetry deviceStep
  dsimp only
  rw [hretry]
  dsimp only
  rw [if_pos (by simp [hstate, hdue]), askHost_of_wants]
  exact (submitApply_spec ho cl gi r).1.wants.trans ho.1

theorem applyTaskRetry_early (hearly : s.clock < (s.groupOf cl gi).retryAt + 1024) : exec (.applyTaskRetry cl gi) s = .next s := by
  show execApplyTaskRetry cl gi s = _
  unfold execApplyTaskRetry deviceStep
  dsimp only
  rw [hretry]
  dsimp only
  rw [if_neg (by simp; omega), askHost_of_wants ho.1]

theorem applyTaskRetry_submits (hstate : (s.groupOf cl gi).state = 2) (hdue : (s.groupOf cl gi).retryAt + 1024 ≤ s.clock) :
    ∃ t, exec (.applyTaskRetry cl gi) s = .next t ∧
    (t.groupOf cl gi).state = 2 ∧ (t.groupOf cl gi).retryAt = s.clock ∧
    (placedInBand s r.lid cl = true → clusterGone s cl = false → (s.clusterAt cl).bank.length < 2048 →
      (s.clusterAt cl).ring = [] → (t.groupOf cl gi).retry = none ∧ (t.clusterAt cl).bank = (s.clusterAt cl).bank ++ [r]) ∧
    (clusterGone s cl = true → (t.groupOf cl gi).retry = some r) := by
  have hgroup := (submitApply_spec ho cl gi r).2
  refine ⟨_, applyTaskRetry_due ho hretry hstate hdue, by rw [hgroup]; exact hstate, by rw [hgroup],
    fun hplaced hgone hroom hring => ⟨?_, ?_⟩, fun hgone => ?_⟩
  · rw [hgroup, submitTask_bank hplaced hgone hroom hring]
    rfl
  · unfold submitApply
    rw [submitTask_bank hplaced hgone hroom hring]
    dsimp only
    rw [State.setGroup, State.clusterAt_modCluster, if_pos rfl, State.clusterAt_modCluster, if_pos rfl]
  · rw [hgroup]
    exact if_neg (submitTask_gone hgone)

end

end

theorem groupConfiguration : GroupConfiguration := by
  refine ⟨fun core s u v h => ⟨fun hbits hstate hok => ?_, fun hbits hno => gent0_refused h hbits hno, gent0_unconfigures h⟩,
    fun cl gi s r ho hretry hstate => ⟨applyTaskRetry_submits ho hretry hstate, applyTaskRetry_early ho hretry⟩⟩
  exact gent0_opens h hbits hstate rfl hok

/-- Settles O57: a group's contributions, its steps and its configuration, each by the layer of lemmas about what a unit's accesses leave
alone, about its statistics in memory and about the answers of its instructions. -/
theorem groups : Obligations.Groups := ⟨contributions, groupSteps, groupConfiguration⟩

end Sys2Proof.Machine

end
